-- ==== Sys2Proof/Word.lean ====
section
/-! DEFINITION. The word types of the NF-4800 and the numbers of its parts (R6, R14, R491). -/

namespace Sys2Proof

/-- One byte, as memory structures are laid out in bytes (R6). -/
abbrev Byte := BitVec 8
/-- A register of a block: 64 bits (R477). -/
abbrev Word64 := BitVec 64
/-- One fp32 encoding (R29). -/
abbrev W32 := BitVec 32

/-- A physical core, 8 · site + core within the die (R167). -/
abbrev CoreIx := Fin 416
/-- A physical engine, 4 · physical core + engine (R491). -/
abbrev EngIx := Fin 1664
/-- A base tile (R14). -/
abbrev TileIx := Fin 4
/-- A physical die site (R13). -/
abbrev SiteIx := Fin 52
/-- A TRN block: tiles 0 to 3, then the hub (R209). -/
abbrev TrnIx := Fin 5
/-- One of sixteen sweep engines, intake engines or rings (R14, R403). -/
abbrev Ix16 := Fin 16
/-- A ladder port (R365). -/
abbrev PortIx := Fin 8
/-- A link compression engine (R394). -/
abbrev CmpIx := Fin 9
/-- A panel link end or an end of a bond port: ends 0 to 15 are those of R361; a bond port's tile end is 16 + 2 · site +
cluster, its die's end 104 above that. -/
abbrev FrameEnd := Fin 224
/-- A panel link end (R361). -/
abbrev PlinkEnd := Fin 16
/-- A home arbiter (R299). -/
abbrev HomeIx := Fin 72
/-- A coherent agent: core data caches 0 to 415, server-core L2 caches 416 to 447 (R299). -/
abbrev AgentIx := Fin 448
/-- A DRAM controller: HBM3E stack 0 to 15, LPDDR5X package controller 16 + package (R335). -/
abbrev DramIx := Fin 48

end Sys2Proof
end

