-- ==== Sys2Proof/Syntax.lean ====
section
/-! DEFINITION. The commands of the NF-4800: one constructor for each row of the opcode table, with what
arrives with it from outside the device (an address, a value, a frame, a measurement). -/

namespace Sys2Proof

/-- The three sources of register accesses that share one set of rules (R477). -/
inductive RegSource where
  | serverCore (core : Fin 32)
  /-- A server core's store of fewer than eight bytes. -/
  | narrowStore (core : Fin 32)
  | managementPort
  | host
  deriving DecidableEq, Repr

/-- What reset finds outside the digital core: straps, self-test and training outcomes (R463). -/
structure BootIn where
  /-- COOL[2:0] pins (R496). -/
  cool : BitVec 3
  /-- ADDR[2:0] pins (R494). -/
  addr : BitVec 3
  /-- HBM3E stacks whose training fails (R323). -/
  hbmFail : List Nat
  /-- LPDDR5X packages whose training fails (R325). -/
  lpxFail : List Nat
  /-- Bond ports, 2 · site + cluster, with failing bonds: how many from die to tile and from tile to die (R344). -/
  bondFail : List (Nat × Nat × Nat)
  /-- Failing receive lanes in each lane group of each of the sixteen panel link ends (R349). -/
  panelLanes : List (List Nat)
  /-- Dies that answer discovery: sites 0 to 51, tiles 52 to 55, hub 56 (R359). -/
  present : List Nat
  /-- The pattern the identity SRAM powers up with (R470). -/
  idPattern : List Byte
  /-- A read of module flash failed or returned poison (R465, reason 5). -/
  flashReadFails : Bool
  deriving DecidableEq, Repr

/-- The source of a power-loss warning (R499). -/
inductive WarnSource where
  | pin
  | detector
  deriving DecidableEq, Repr

/-- What the planner measures at a boundary (R212, R219). -/
structure Measures where
  /-- Measured energy of the turn just ended, by account 0 to 56, in pips. -/
  energy : List Nat
  /-- Compute-die site temperatures in °C, by site. -/
  siteTemp : List Nat
  /-- HBM3E stack temperatures in °C, by stack. -/
  hbmTemp : List Nat
  /-- Bits that flip in stored words in this turn: word, and the bits of its data and check bits (R333). A word is a
  16-byte storage word of memory, or one of a cache, an accumulator or a score sheet. -/
  upsets : List (Nat × BitVec 144)
  /-- Bits in which words on their way over the fabric arrive wrong, in order of arrival (R333). -/
  wire : List (BitVec 144)
  /-- Uncorrectable words met in control state in this turn: block number and entry (R451, 0x0307). -/
  control : List (Nat × Nat)
  deriving DecidableEq, Repr

/-- A requester of the fabric, by its code of R509. -/
abbrev Requester := BitVec 16

/-- How one bank row reads back during a weight load (R95). -/
inductive ReadBack where
  | retry (row : Nat)
  | fault (row : Nat)
  deriving DecidableEq, Repr

/-- The start of a pass: its engine, and how the rows of each piece load of a compound pass read back, in order (R95). -/
structure PassAt where
  engine : EngIx
  readBack : List (List ReadBack)
  deriving DecidableEq, Repr

/-- Outcome of a readmission self test (R274, R357). -/
structure SelfTest where
  passed : Bool
  /-- Every repair record of the site as the self test rewrites them: core within the site, bank, row, spare (R296). -/
  repairs : List (Nat × Nat × Nat × Nat)
  /-- Every pin record of the site: core within the site, bank, first row, pin buffer (R296). -/
  pins : List (Nat × Nat × Nat × Nat)
  deriving DecidableEq, Repr

/-- One word of a frame with the check bits it arrives with (R333). -/
structure CodeWord where
  data : BitVec 128
  check : BitVec 16
  deriving DecidableEq, Repr

/-- Why flits are replayed: a NAK, with the number of the last flit that the host acknowledges, or a timeout (R396). -/
inductive ReplayCause where
  | nak (acked : Nat)
  | timeout
  deriving DecidableEq, Repr

/-- How NCL went down (R396, R397). -/
inductive DownCause where
  | replays
  | laneLock
  | hostReset
  deriving DecidableEq, Repr

/-- A read of a register: a server core's load of some bytes, the register port's read of an address, or a write frame as it
comes over the bus to a target address, its opcode first (R477, R501). -/
inductive RegLoad where
  | core (core : Fin 32) (address : Word64) (bytes : Nat)
  | port (address : Word64)
  | frame (target : BitVec 7) (bytes : List Byte)
  deriving DecidableEq, Repr

/-- What the management endpoint is asked for over PLDM: a report for a nonce, the types it serves, or a numeric sensor
(R502). -/
inductive PldmRequest where
  | attestation (nonce : List Byte)
  | types
  | sensor (number : Byte)
  deriving DecidableEq, Repr

/-- Output cells of the boundary-scan chain: J1's low-speed outputs, and every other cell (R494, R505). -/
structure PinCells where
  faultN : Bool
  sda : Bool
  rest : BitVec 32
  deriving DecidableEq, Repr

/-- One access on the test access port (R505): a scan through BYPASS, a boundary scan with the cells it leaves loaded, a debug
access, or TRST_N low. -/
inductive TapOp where
  | bypass (scan : Word64)
  | idcode
  | samplePreload (cells : PinCells)
  | extest (cells : PinCells)
  | trst
  | dtmcs
  | dmiHalt (core : Fin 32)
  | dmiResume (core : Fin 32)
  | dmiRegRead (core : Fin 32) (reg : BitVec 16)
  | dmiRegWrite (core : Fin 32) (reg : BitVec 16) (value : Word64)
  | dmiBusRead (addr : Nat)
  | dmiBusWrite (addr : Nat) (value : Word64)
  deriving DecidableEq, Repr

/-- A side-channel message of 64 bytes as received (R373). -/
abbrev ScMessage := List Byte

/-- The commands. Each constructor's row of the table is named in LAWS.json. -/
inductive Instr where
  -- resets, power and fatal errors
  | coldReset
  | powerUpSequence (boot : BootIn)
  | warmReset (boot : BootIn)
  | nclReset (epoch : BitVec 32) (boot : BootIn)
  | scrubReset (boot : BootIn)
  | powerLossWarning (src : WarnSource)
  | powerWarningCleared
  | railFault (rail : BitVec 16) (millivolts : Word64)
  | junctionLimit (sensor : BitVec 16) (celsius : W32)
  | clockLockLoss (domain : BitVec 16)
  | siteRailTrip (site : SiteIx)
  -- the register model
  | enableWrite (block : BitVec 16) (value : Bool)
  | enableComplete (block : BitVec 16)
  | disableComplete (block : BitVec 16)
  | registerWrite (src : RegSource) (block : BitVec 16) (offset : BitVec 16) (value : Word64)
  | snapshotBlock (block : BitVec 16)
  | snapshotDevice
  -- control instructions
  | nop (core : CoreIx)
  | halt (core : CoreIx)
  | sets (core : CoreIx)
  | adds (core : CoreIx)
  | loop (core : CoreIx)
  | jump (core : CoreIx)
  | barrier (core : CoreIx)
  -- matrix instructions
  | pass (core : CoreIx)
  | compoundPass (core : CoreIx)
  | drain (core : CoreIx)
  | weightLoad (core : CoreIx)
  | matrixVector (core : CoreIx)
  | passStart (start : PassAt)
  | weightLoadStart (engine : EngIx) (readBack : List ReadBack)
  | passComplete (engine : EngIx)
  | drainStart (core : CoreIx)
  | engineWaitLong (engine : EngIx)
  -- vector instructions
  | add (core : CoreIx)
  | sub (core : CoreIx)
  | mul (core : CoreIx)
  | fma (core : CoreIx)
  | min (core : CoreIx)
  | max (core : CoreIx)
  | abs (core : CoreIx)
  | neg (core : CoreIx)
  | sel (core : CoreIx)
  | exp (core : CoreIx)
  | log (core : CoreIx)
  | rcp (core : CoreIx)
  | rsqrt (core : CoreIx)
  | tanh (core : CoreIx)
  | cmplt (core : CoreIx)
  | cmple (core : CoreIx)
  | cmpeq (core : CoreIx)
  | cmpne (core : CoreIx)
  | redsum (core : CoreIx)
  | redmax (core : CoreIx)
  | vectorLoad (core : CoreIx)
  | vectorStore (core : CoreIx)
  -- stream mover and prefetchers
  | copy (core : CoreIx)
  | combine (core : CoreIx)
  | startPrefetch (core : CoreIx)
  | stopPrefetch (core : CoreIx)
  -- tokens
  | wait (core : CoreIx)
  | signal (core : CoreIx)
  | signalApply (core : CoreIx)
  | tokenSignalArrival (agent : Nat) (token : BitVec 16) (value : W32)
  | tokenWaitArrival (agent : Nat) (token : BitVec 16) (value : W32)
  | tokenGrantArrival (agent : Nat)
  | withdrawal (agent : Nat)
  | tokCmdSignal (tile : TileIx) (token : BitVec 16) (value : W32)
  | take (tile : TileIx) (token : BitVec 16) (value : W32)
  | set (tile : TileIx) (token : BitVec 16) (value : W32)
  | peek (tile : TileIx) (token : BitVec 16)
  -- layout loader
  | verify
  | layoutLoad (mask : BitVec 9)
  | siteOnly (mask : BitVec 9) (site : BitVec 6)
  -- turns and energy; times are in hub fabric cycles of 0.625 ns, mark times in ps
  | turnInEdge (time : Nat)
  | turnMark (port : PortIx) (turn : Word64) (lead : BitVec 4) (accDelayPs : W32) (arrivalPs : Nat) (sendPs : Nat)
  | missedBoundary
  | holdoverBoundary
  | turnBoundary (m : Measures)
  | backstopCheck (measuredPips : Nat) (timeLeftNs : Nat)
  | grantTimeout
  | trnSet (value : Word64)
  | turnTableAppend (trn : TrnIx) (hi : Word64)
  | nrgCorrSel (account : BitVec 6)
  -- sweep engines
  | sweepRun (engine : Ix16) (lines : Nat)
  | scaleRecheck (engine : Ix16)
  | sweepWaitLong (engine : Ix16)
  | swpTflagSel (engine : Ix16) (tensor : BitVec 12)
  -- save engine and journal
  | saveStart
  | saveCapture
  | saveValidate
  | copyOutSlot
  | restore (journal : Bool) (substituted : Bool)
  | append
  | intakeJournalAppend (engine : Ix16)
  -- sites
  | quarantine (site : SiteIx)
  | release (site : SiteIx)
  | readmissionTestDone (site : SiteIx) (result : SelfTest)
  | siteReset (site : SiteIx)
  /-- `bonds`: of each port that has not trained yet, the failing bonds from die to tile and from tile to die. -/
  | siteResetDone (site : SiteIx) (bonds : List (Nat × Nat))
  | quarantinedPacket (site : SiteIx) (trafficClass : BitVec 3)
  -- banks
  | bankWake (block : BitVec 16) (bank : BitVec 8)
  | regionTestStart (block : BitVec 16) (tester : Fin 4) (failing : List Nat)
  -- coherence: requests at the home, then the snooped agents' answers; `stored` is what the agent's own stores
  -- have left in the line since it became its only holder (a server core's stores are no commands), none if nothing
  | rds (agent : AgentIx) (line : Nat)
  | rdu (agent : AgentIx) (line : Nat)
  | upg (agent : AgentIx) (line : Nat)
  | evc (agent : AgentIx) (line : Nat)
  | evd (agent : AgentIx) (line : Nat) (stored : Option (List Byte))
  | rdns (requester : Requester) (line : Nat)
  | wfi (requester : Requester) (line : Nat) (data : List Byte)
  | wp (requester : Requester) (line : Nat) (mask : BitVec 128) (data : List Byte)
  | snps (agent : AgentIx) (line : Nat) (stored : Option (List Byte))
  | snpu (agent : AgentIx) (line : Nat) (stored : Option (List Byte))
  | snpi (agent : AgentIx) (line : Nat) (stored : Option (List Byte))
  | snpns (agent : AgentIx) (line : Nat) (stored : Option (List Byte))
  | snprecall (agent : AgentIx) (line : Nat) (stored : Option (List Byte))
  | retry (requester : Requester)
  | agedAdmission (home : HomeIx)
  | snoopLate (home : HomeIx) (line : Nat)
  | homeDead (home : HomeIx) (agent : BitVec 9)
  | scrubRead (ctrl : DramIx) (errors : List (Nat × BitVec 144))
  -- bond ports and panel links
  | bondTraining (site : SiteIx) (cluster : Fin 2) (failingOut failingIn : Nat)
  /-- `retrained`: the failing bonds of both directions, where the port retrains at once. -/
  | bondRetryLimit (site : SiteIx) (cluster : Fin 2) (retrained : Option (Nat × Nat))
  | panelFrameReceive (fend : FrameEnd) (control : BitVec 128) (data : List CodeWord)
  | panelNak (fend : FrameEnd) (ack : BitVec 12)
  | panelAckTimeout (fend : FrameEnd)
  | panelLinkReset (fend : FrameEnd)
  /-- `failing`: failing receive lanes of each lane group. -/
  | panelTrainingAttempt (fend : PlinkEnd) (failing : List Nat) (peerWidth : Option (Fin 3))
  | widthReport (fend : PlinkEnd) (width : Fin 3)
  | sidebandTimeout (fend : PlinkEnd)
  | plinkRetrain (fend : PlinkEnd)
  | plinkRestore (fend : PlinkEnd)
  -- ladder
  | ladderTrainingAttempt (port : PortIx) (lanes : BitVec 8) (peerHalf : Option Bool) (hopPs : W32)
  | ladderFrameReceive (port : PortIx) (frame : List CodeWord)
  | ladderAckTimeout (port : PortIx)
  | ladderLinkReset (port : PortIx)
  | ladderSilenceTimeout (port : PortIx)
  | markFrame (port : PortIx)
  | sideChannelMessage (port : PortIx) (message : ScMessage)
  | scSend (port : PortIx)
  | scPop (port : PortIx)
  | ladderRetrain (port : PortIx)
  | ladderRestore (port : PortIx)
  -- collectives
  | start (engine : CmpIx)
  | collectiveStep (engine : CmpIx) (blocks : Nat)
  | stepTokenTake (engine : CmpIx)
  | vc0MessageDelivery (port : PortIx)
  | tableMessageApply (port : PortIx)
  | cmpWaitLong (engine : CmpIx)
  -- companion link
  | nclLinkDown (cause : DownCause)
  | nclLinkUp (hostReset : Bool) (halfWidth : Bool)
  | nclFlitReplay (cause : ReplayCause)
  | adopt (epoch : BitVec 32)
  | decline (epoch : BitVec 32)
  | ack (epoch : BitVec 32)
  | decideTimeout
  | doorbell (ring : Ix16) (p : BitVec 32)
  | slotRead (ring : Ix16)
  | staleReread (ring : Ix16)
  | ringNop (ring : Ix16)
  | copyIn (ring : Ix16) (lines : Nat)
  | copyOut (ring : Ix16) (lines : Nat)
  | message (ring : Ix16)
  | commandSignal (ring : Ix16)
  | completionWrite (ring : Ix16)
  | cqHead (ring : Ix16) (head : BitVec 32)
  | fence
  | hsnps (line : Nat)
  | hsnpu (line : Nat)
  | hsnpi (line : Nat)
  | controlWindowAccess (write : Bool) (offset : BitVec 16) (value : Word64)
  | mbxPop
  -- intake
  | intakeRun (engine : Ix16) (positions : Nat)
  | intakeWaitLong (engine : Ix16)
  -- score sheet
  | scoreRecordWrite (sheet : TrnIx)
  | unfreeze (sheet : TrnIx)
  | flush
  | flushComplete
  -- security and management
  | attest
  | recovGo
  | registerRead (load : RegLoad)
  | registerPortWrite (address : Word64) (value : Word64)
  | flashRead (offset : BitVec 32) (length : BitVec 16)
  | firmwareUpdate (image : List Byte) (completed : Bool)
  | getAttestation (request : PldmRequest)
  | weightLoadComplete (engine : EngIx)
  | matrixVectorStart (core : CoreIx)
  | hotRefresh (stack : Ix16) (celsius : Byte)
  | sidebandAnswer (fend : PlinkEnd) (lastAccepted : BitVec 12)
  | hostWriteAcknowledgement
  | dynamicAddress (endpoint : Bool) (address : BitVec 7)
  | testAccessPort (op : TapOp)
  deriving DecidableEq, Repr

end Sys2Proof
end

