-- ==== Sys2Proof/Decode.lean ====
section
/-! DEFINITION. The command a word of the opcode table spells. No row of the table has bits: the commands come
from outside as they are, so no word spells one. The 128-bit words of the cores' instruction streams are read in
Machine/Operands.lean. -/

namespace Sys2Proof

/-- The table gives no row any bits, so every word is refused. -/
def decodeTableWord (_nbits _w : Nat) : Option Instr := none

end Sys2Proof
end

