-- ==== Sys2Proof/Config.lean ====
section
/-! DEFINITION. What the manual leaves to the implementation, and the free values. -/

namespace Sys2Proof.Config

/-- The power-up pattern and the seed that helper data was written for (R470): the manual fixes neither the code of the fuzzy
extractor nor the layout of HELPER. -/
opaque enrolledPattern : List Byte → List Byte
opaque enrolledSeed : List Byte → List Byte

/-- What the fuzzy extractor makes of a pattern with more bits flipped than it tolerates, and helper data: a seed, or none
(R470). -/
opaque farSeed : List Byte → List Byte → Option (List Byte)

/-- The check value that HELPER holds for the seed's SHAKE256 output (R470). -/
opaque helperCheck : List Byte → List Byte

/-- The strap byte that CONFIG_DIGEST covers (R472): the manual does not place COOL and ADDR in it. -/
opaque strapByte : BitVec 3 → BitVec 3 → Byte

/-- A value the manual leaves open; the model's counter picks a fresh one each time. -/
opaque freeWord : Nat → Word64

/-- A byte of a value the manual leaves open. -/
opaque freeByte : Nat → Byte

/-- The scalars S0 to S7 of a sweep run of stamp 0, which has no schedule entry (R230): a function of the program's header
and the scalar's number. -/
opaque stampZero : List Byte → Nat → W32

/-- Receive buffers of a link end's partner for each virtual channel: the credits that the end starts with (R348). -/
opaque linkBuffers : Nat → Nat → Nat

/-- Word i of the nth data frame of a link end: the manual does not say how packets fill frames (R346). -/
opaque frameWord : Nat → Nat → Nat → BitVec 128

/-- The hash of a line's address that selects cache bank and set in a last-level cache and the hub L3 (R297). -/
opaque cacheHash : Nat → Nat

end Sys2Proof.Config
end

