-- ==== Sys2Proof/Machine/State.lean ====
section
/-! DEFINITION. The state of the NF-4800 as plain data: every register, memory, queue, counter and level the
spec gives the device, the queue of waiting commands, the state after cold reset, and the reasons to stop. -/

namespace Sys2Proof.Machine

/-- A sparse store: keys strictly rising, no entry equal to what an unlisted key reads as. -/
abbrev Map (α : Type) := List (Nat × α)

/-- The four block states (R481). -/
inductive BlkState where
  | disabled | enabling | enabled | disabling
  deriving DecidableEq, Repr

/-- The common registers of one block (R490): ENABLE, STATUS and the snapshot registers. -/
structure Blk where
  enable : Bool
  state : BlkState
  wwe : Bool
  ignoredOffset : BitVec 16
  snapId : Word64
  snapTurn : Word64
  deriving DecidableEq, Repr

/-- A block after cold reset: disabled, nothing recorded (R483, R490). -/
def Blk.reset : Blk :=
  { enable := false, state := .disabled, wwe := false, ignoredOffset := 0, snapId := 0, snapTurn := 0 }

/-- The three sticky numeric flags (R56). -/
structure Flags where
  invalid : Bool
  overflow : Bool
  saturated : Bool
  deriving DecidableEq, Repr

def Flags.none : Flags := { invalid := false, overflow := false, saturated := false }

/-- A tensor descriptor resolved at issue: BASE plus its offset register (R130, R131). -/
structure Tensor where
  fmt : Nat
  rank : Nat
  ext : List Nat
  base : Int
  stride1 : Int
  stride2 : Int
  stride3 : Int
  scale : BitVec 8
  physical : Bool
  cache : Bool
  deriving DecidableEq, Repr

/-- The convolution record of a pass (R139). -/
structure ConvRec where
  kh : Nat
  kw : Nat
  sh : Nat
  sw : Nat
  dh : Nat
  dw : Nat
  pt : Nat
  pb : Nat
  pl : Nat
  pr : Nat
  p0 : Nat
  deriving DecidableEq, Repr

/-- Starting value of an accumulator write (R104). -/
inductive AccSource where
  | zero | keep | preload
  deriving DecidableEq, Repr

/-- A pass or compound pass as handed to an engine (R69, R82). -/
structure PassOp where
  compound : Bool
  act : Tensor
  weight : Option Tensor
  preload : Option Tensor
  conv : Option ConvRec
  orient : Bool
  m : Nat
  kv : Nat
  nv : Nat
  bank : Bool
  dest : Nat
  acc : AccSource
  split : Bool
  last : Bool
  runIdx : Nat
  /-- m0 in dense mode, p0 in convolution mode. -/
  row0 : Nat
  /-- K-block index b. -/
  kblk : Nat
  /-- Saturation mode of the stream that issued the pass (R47). -/
  satMode : Bool
  deriving DecidableEq, Repr

/-- A weight load as handed to an engine (R70). -/
structure LoadOp where
  src : Tensor
  target : Nat
  orient : Bool
  k0 : Nat
  n0 : Nat
  kw : Nat
  nw : Nat
  bank : Bool
  satMode : Bool
  deriving DecidableEq, Repr

/-- A matrix-vector operation (R142). -/
structure MvOp where
  engine : Nat
  tile : Nat
  acc : AccSource
  act : Tensor
  weight : Tensor
  preload : Option Tensor
  m : Nat
  kv : Nat
  nv : Nat
  row0 : Nat
  k0 : Nat
  n0 : Nat
  satMode : Bool
  deriving DecidableEq, Repr

/-- A drain (R120, R141). -/
structure DrainOp where
  engine : Nat
  tile : Nat
  reduce : Nat
  transform : Bool
  truncate : Bool
  rows : Nat
  cols : Nat
  dst : Tensor
  side : Nat
  satMode : Bool
  deriving DecidableEq, Repr

inductive EngOp where
  | pass (p : PassOp)
  | load (l : LoadOp)
  deriving DecidableEq, Repr

/-- One operation in an engine's queue: its issue number in the core, and whether it has started (R91). -/
structure QEntry where
  seq : Nat
  op : EngOp
  started : Bool
  /-- Rows that a started pass has fed, of a compound pass those of its piece passes together; the feeder withholds the
  others (R81, R82). -/
  fed : Nat
  /-- Piece loads of a compound pass that are done, and how the rows of those still to come read back (R82, R95). -/
  loads : Nat
  backs : List (List ReadBack)
  /-- Its number among the operations started since the engine was enabled (R97). -/
  num : Nat
  deriving DecidableEq, Repr

/-- One weight bank: 128 × 128 registers of 16 bits, keyed 128·k + n (R66). -/
structure Bank where
  w : Map (BitVec 16)
  poison : List Nat
  /-- Rows and columns that hold weights of the source; the cells beyond hold +0 (R73). -/
  rows : Nat
  cols : Nat
  loaded : Bool
  fmt : BitVec 4
  /-- Descriptor scale of the loaded weights, which joins every product (R35). -/
  scale : BitVec 8
  deriving DecidableEq, Repr

def Bank.reset : Bank := { w := [], poison := [], rows := 0, cols := 0, loaded := false, fmt := 0, scale := 127 }

/-- Live status of an accumulator tile (R122). -/
structure TileStat where
  flags : Flags
  count : Nat
  splitInv : Bool
  deriving DecidableEq, Repr

def TileStat.reset : TileStat := { flags := .none, count := 0, splitInv := false }

/-- An open split-invariant run (R116): its tile d and the index of its latest pass. -/
structure OpenRun where
  dest : Nat
  idx : Nat
  deriving DecidableEq, Repr

structure Engine where
  bank0 : Bank
  bank1 : Bank
  /-- Accumulator elements, keyed 128·row + n (R68). -/
  acc : Map W32
  /-- Poisoned accumulator words, keyed 32·row + word (R109). -/
  accPoison : List Nat
  tiles : Map TileStat
  /-- Run as issued (R116 checks at issue) and as executed. -/
  issuedRun : Option OpenRun
  /-- Format of the latest load issued to each bank (R71). -/
  issuedFmt0 : Option Nat
  issuedFmt1 : Option Nat
  queue : List QEntry
  opsStarted : W32
  opsDone : W32
  activeBank : Bool
  arrayFault : Bool
  /-- The current waits as the latest turn boundary found them: kind, issue number and tile, and the turn each began in, in
  turns elapsed (R96). -/
  waitSeen : List ((Nat × Nat × Nat) × Nat)
  /-- The waits that have set WAIT_LONG: kind, issue number and tile (R96). -/
  waitLong : List (Nat × Nat × Nat)
  deriving DecidableEq, Repr

def Engine.reset : Engine :=
  { bank0 := .reset, bank1 := .reset, acc := [], accPoison := [], tiles := [], issuedRun := none
    issuedFmt0 := none, issuedFmt1 := none, queue := [], opsStarted := 0, opsDone := 0
    activeBank := false, arrayFault := false, waitSeen := [], waitLong := [] }

/-- A signal in the core's signal queue (R153). -/
structure SigEntry where
  seq : Nat
  units : BitVec 8
  token : BitVec 16
  value : W32
  deriving DecidableEq, Repr

/-- An active prefetch stream (R151, R152). -/
structure Prefetch where
  base : Nat
  stepBytes : Nat
  stride : Int
  count : Nat
  depth : Nat
  /-- Steps requested so far. -/
  next : Nat
  deriving DecidableEq, Repr

/-- A move as handed to the stream mover (R148, R149): of a COMBINE whether it sums by the tree, the number of parts, and
whether the last source is the addend. -/
structure MoveOp where
  seq : Nat
  srcs : List Tensor
  dst : Tensor
  combine : Option (Bool × Nat × Bool)
  truncate : Bool
  satMode : Bool
  deriving DecidableEq, Repr

structure Core where
  pc : BitVec 48
  /-- S1 to S15, keyed by number (R123). -/
  scalars : Map W32
  /-- Descriptor slots (R127). -/
  desc : Map (BitVec 256)
  /-- Descriptor slots that loaded as poison (R449). -/
  descPoison : List Nat
  insnBase : Nat
  insnCount : Nat
  satMode : Bool
  /-- Vector register bytes, keyed 1024·register + byte (R144). -/
  vregs : Map Byte
  /-- Poisoned 16-byte pieces of the vector registers, keyed 64·register + piece (R449). -/
  vpoison : List Nat
  masks : Map (BitVec 512)
  /-- Poisoned 128-bit pieces of the masks, keyed 4·mask + piece (R449). -/
  mpoison : List Nat
  sigq : List SigEntry
  mvq : List (Nat × MvOp)
  drainq : List (Nat × DrainOp)
  /-- Issue number of the next operation. -/
  seq : Nat
  /-- An outstanding token wait, and whether it has been granted (R153). -/
  waiting : Option (BitVec 16 × W32)
  /-- The withdrawal of a wait that a disable sent has not been acknowledged (R160). -/
  withdrawing : Bool
  /-- Operations of this core's engines that were discarded or abandoned and never complete (R93). -/
  lost : List (Nat × QEntry)
  halted : Bool
  stopped : Bool
  stopCode : Byte
  stopIndex : BitVec 48
  sticky : Flags
  /-- Instruction words fetched ahead: index of the first, and each word with whether it is poison (R128). -/
  aheadBase : Nat
  ahead : List (Nat × Bool)
  /-- The instruction at CORE_PC has passed its checks and waits to be handed over (R93, R135). -/
  held : Bool
  /-- The latest disable has discarded operations, which never complete (R155, R160). -/
  dropped : Bool
  prefetchers : Map Prefetch
  /-- The stream mover's queue, oldest first (R123). -/
  moverq : List MoveOp
  /-- Moves whose writes to the host are not all acknowledged (R150, R399). -/
  moves : List MoveOp
  deriving DecidableEq, Repr

def Core.reset : Core :=
  { pc := 0, scalars := [], desc := [], descPoison := [], insnBase := 0, insnCount := 0, satMode := false
    vregs := [], vpoison := [], masks := [], mpoison := [], sigq := [], mvq := [], drainq := [], seq := 0
    waiting := none, withdrawing := false, lost := [], halted := false, stopped := false
    stopCode := 0, stopIndex := 0, sticky := .none, aheadBase := 0, ahead := [], held := false, dropped := false
    prefetchers := [], moverq := [], moves := [] }

/-- A token (R188). Waiters are (agent, VALUE) in queue order. -/
structure Token where
  count : W32
  stamp : Word64
  waiters : List (Nat × W32)
  deriving DecidableEq, Repr

def Token.reset : Token := { count := 0, stamp := 0, waiters := [] }

/-- A token operation held by a disabled TOK_ block (R193). -/
inductive HeldOp where
  | signal (agent : Nat) (token : BitVec 16) (value : W32)
  | wait (agent : Nat) (token : BitVec 16) (value : W32)
  | cmdSignal (token : BitVec 16) (value : W32)
  | take (token : BitVec 16) (value : W32)
  | peek (token : BitVec 16)
  /-- A compression engine's Take for its step (R379). -/
  | stepTake (engine : Nat) (token : BitVec 16)
  deriving DecidableEq, Repr

/-- One allotment range of an agent (R172). -/
structure Allot where
  first : Nat
  last : Nat
  wait : Bool
  signal : Bool
  deriving DecidableEq, Repr

/-- A command of the layout loader (R176, R178, R180). -/
inductive LayoutCmd where
  | verify
  | load (mask : BitVec 9)
  | siteOnly (mask : BitVec 9) (site : BitVec 6)
  deriving DecidableEq, Repr

/-- The layout loader (R176 to R184). -/
structure Loader where
  /-- The command that is running (R181). -/
  busy : Option LayoutCmd
  verified : Bool
  base : Nat
  digest : List Byte
  /-- Section (offset, length, digest) of the verified image's directory, by type − 1. -/
  dirs : List (Nat × Nat × List Byte)
  jobId : Word64
  signed : Bool
  refused : Bool
  code : Byte
  ignored : Bool
  loaded : BitVec 9
  partLoad : BitVec 9
  /-- Recorded directory digest of each section type (R179). -/
  recorded : Map (List Byte)
  /-- The die map of the verified image, and the one that goes with the recorded digest (R180). -/
  mapVerified : List Nat
  mapRecorded : List Nat
  dieMapLoaded : Bool
  /-- Digest of the first image verified since the latest cold or scrubbing reset (R473). -/
  firstDigest : Option (List Byte)
  /-- Logical cores used by the stages in force, and their stage numbers (R170). -/
  stages : Map Nat
  deriving DecidableEq, Repr

def Loader.reset : Loader :=
  { busy := none, verified := false, base := 0, digest := [], dirs := [], jobId := 0, signed := false
    refused := false, code := 0, ignored := false, loaded := 0, partLoad := 0, recorded := [], mapVerified := [], mapRecorded := []
    dieMapLoaded := false, firstDigest := none, stages := [] }

/-- One turn-table entry (R208). -/
structure TtEntry where
  turn : Word64
  action : Nat
  target : BitVec 16
  arg : W32
  deriving DecidableEq, Repr

/-- A TRN configuration in force (R201, R511). -/
structure TrnCfg where
  source : Nat
  markPort : Nat
  forward : Byte
  lead : Nat
  nominalNs : Nat
  deriving DecidableEq, Repr

def TrnCfg.reset : TrnCfg := { source := 0, markPort := 0, forward := 0, lead := 2, nominalNs := 10000 }

/-- The hub turn clock and all turn tables. -/
structure Turns where
  cfg : TrnCfg
  now : Word64
  next : Option Word64
  locked : Bool
  holdover : Bool
  turnJump : Bool
  /-- Boundaries made in a row without an edge or mark (R203). -/
  missedRun : Nat
  /-- Edges in a row at a good spacing during holdover, and the time of the latest edge (R203). -/
  goodEdges : Nat
  lastEdge : Option Nat
  /-- Holdover has seen its 16th edge and waits for the edge that makes the next boundary. -/
  ending : Bool
  /-- Reference instant of the last boundary, in ps. -/
  lastRef : Nat
  /-- Reference instant of a boundary that is due, in ps, and whether its source makes it. -/
  due : Option (Nat × Bool)
  periodPs : W32
  /-- Root send times e of the latest marks, newest first, in ps (R205). -/
  marks : List Int
  /-- Boundaries that marks have placed and that are not yet made: reference instant in ps, and TURN (R205, R206). -/
  placed : List (Nat × Word64)
  /-- Staged entry halves and tables, by TRN block. -/
  stagedLo : Map Word64
  tables : Map (List TtEntry)
  /-- Blocks that recorded a refused append in this turn (R208). -/
  refusedThisTurn : List Nat
  /-- Boundaries made since cold reset: what a wait of so many turns is measured in, whatever their numbers. -/
  elapsed : Nat
  deriving DecidableEq, Repr

def Turns.reset : Turns :=
  { cfg := .reset, now := 0, next := none, locked := false, holdover := false, turnJump := false
    missedRun := 0, goodEdges := 0, lastEdge := none, ending := false, lastRef := 0, due := none
    periodPs := 0, marks := [], placed := [], stagedLo := [], tables := [], refusedThisTurn := [], elapsed := 0 }

/-- What one priced agent did in a turn (R216, R218). -/
structure AgentUse where
  balance : Int
  issued : Bool
  /-- Base units (cores) and prices issued in this turn and in the turn before, and what waits unissued: base units
  of a core, the price of any other agent (R218). -/
  baseNow : Nat
  basePrev : Nat
  pricedNow : Nat
  pricedPrev : Nat
  held : Nat
  heldPrev : Nat
  /-- Priced work of the agent has waited in this turn, and in the turn before (R216, R218). -/
  stalled : Bool
  stalledPrev : Bool
  deriving DecidableEq, Repr

def AgentUse.reset : AgentUse :=
  { balance := 0, issued := false, baseNow := 0, basePrev := 0, pricedNow := 0, pricedPrev := 0, held := 0, heldPrev := 0
    stalled := false, stalledPrev := false }

/-- A price account: its correction and its run of one-sided errors (R219). -/
structure Account where
  corr : Nat
  run : Nat
  /-- Sign of the latest error beyond 2 %: −1, 0 or 1. -/
  lastSign : Int
  priced : Nat
  deriving DecidableEq, Repr

def Account.reset : Account := { corr := 1024, run := 0, lastSign := 0, priced := 0 }

/-- The plan made during one turn for the next (R218): clock, grant, borrow, budget and allotments in
units of 2⁻¹⁶ pip by agent. -/
structure Plan where
  clockMhz : Nat
  grant : Nat
  borrow : Nat
  budget : Nat
  allot : Map Nat
  deriving DecidableEq, Repr

/-- The energy planner (R210 to R219). -/
structure Energy where
  ceilingW : Nat
  cls : BitVec 3
  clockMin : Nat
  clockMax : Nat
  powerCapW : Nat
  reservoirMax : Nat
  reservoir : Nat
  priceScale : List Nat
  priceBase : List Nat
  idle : List Nat
  planClockMax : Nat
  planCap : Nat
  clockMhz : Nat
  /-- Grant, borrow and budget of the current turn in pips; the plan for the next turn. -/
  grant : Nat
  borrow : Nat
  budget : Nat
  nextPlan : Option Plan
  /-- The same plan made without borrowing, in effect if borrowing stops at its boundary (R212). -/
  coolPlan : Option Plan
  hot : Bool
  grantExpired : Bool
  /-- The latest write of ALLOWANCE_PIPS: its turn's number, and its turn in turns elapsed (R211). -/
  lastGrantTurn : Nat
  lastGrant : Nat
  backstop : Bool
  accounts : Map Account
  agents : Map AgentUse
  corrSel : Nat
  deriving DecidableEq, Repr

def Energy.reset : Energy :=
  { ceilingW := 2400, cls := 0, clockMin := 400, clockMax := 400, powerCapW := 0, reservoirMax := 0, reservoir := 0
    priceScale := [], priceBase := [], idle := [], planClockMax := 0, planCap := 0, clockMhz := 400
    grant := 0, borrow := 0, budget := 0, nextPlan := none, coolPlan := none, hot := false, grantExpired := false
    lastGrantTurn := 0, lastGrant := 0, backstop := false, accounts := [], agents := [], corrSel := 0 }

/-- Where a sweep run stands (R234). -/
inductive SweepStage where
  | idle
  | commits
  | check
  | moment (line : Nat)
  | weight (line : Nat)
  | scaleWait
  | working (chunk : Nat)
  | finish
  deriving DecidableEq, Repr

structure Sweep where
  waiting : Bool
  withdrawing : Bool
  granted : Bool
  running : Bool
  stage : SweepStage
  shard : Nat
  shardFlags : Flags
  shardFault : Bool
  /-- Shards of this run that have faulted (R237). -/
  faulted : List Nat
  faultShard : Nat
  faultCode : BitVec 4
  lastStep : W32
  flags : Flags
  scaleWait : Bool
  waitSince : Nat
  waitLong : Bool
  tflags : Map Flags
  tflagSel : BitVec 12
  /-- What the engine has read for the shard in progress: its descriptor, its program's header and operations, the run's
  schedule entry, and the scale record that its working copy takes (R227, R229, R230, R243). -/
  desc : List Byte
  prog : List Byte
  row : List Byte
  record : List Byte
  deriving DecidableEq, Repr

def Sweep.reset : Sweep :=
  { waiting := false, withdrawing := false, granted := false, running := false, stage := .idle, shard := 0
    shardFlags := .none, shardFault := false, faulted := [], faultShard := 0, faultCode := 0, lastStep := 0
    flags := .none, scaleWait := false, waitSince := 0, waitLong := false, tflags := [], tflagSel := 0
    desc := [], prog := [], row := [], record := [] }

/-- Progress of a save (R257). -/
inductive SaveStage where
  | idle | started | counted | captured | done | copyOut
  deriving DecidableEq, Repr

structure Save where
  waiting : Bool
  withdrawing : Bool
  /-- The start token is granted and the plan not yet accepted. -/
  granted : Bool
  stage : SaveStage
  slot : Nat
  /-- The save plan as read at the start, empty before (R255). -/
  plan : List Byte
  /-- The first boundary after the grant, and what stood there: the next journal number, MOD_LAYOUT_DIGEST, JOB_ID and
  the feature floor (R256, R257). -/
  captureTurn : Option Word64
  captureJrn : Nat
  captureDigest : List Byte
  captureJob : Word64
  captureFloor : Nat
  /-- Counts of the plan's tokens, as read at tc. -/
  counts : List Nat
  released : Bool
  fault : Bool
  faultCode : BitVec 4
  /-- A RESTORE that runs: RESTORE_JOURNAL and SUBSTITUTED (R263). -/
  restoring : Option (Bool × Bool)
  restoreRefused : Bool
  copyoutAborted : Bool
  /-- Epoch under which a copy-out to the host began, while one is unfinished (R261). -/
  copyoutEpoch : Option (BitVec 32)
  jrnFull : Bool
  /-- STEP and JRN_LAST_SEQ of each slot whose control line is valid, as last read or written (R279). -/
  slot0 : Option (W32 × Word64)
  slot1 : Option (W32 × Word64)
  jrnNext : Word64
  jrnFirstHeld : Word64
  /-- Runtime appends taken and not yet written, oldest first: entry bytes 8 to 23 and 32 to 127 (R216, R262). -/
  appends : List (List Byte)
  payloadLen : Nat
  jrnFirst : Nat
  jrnLast : Nat
  deriving DecidableEq, Repr

def Save.reset : Save :=
  { waiting := false, withdrawing := false, granted := false, stage := .idle, slot := 0, plan := [], captureTurn := none
    captureJrn := 0, captureDigest := [], captureJob := 0, captureFloor := 0, counts := [], released := false, fault := false
    faultCode := 0, restoring := none, restoreRefused := false, copyoutAborted := false, copyoutEpoch := none
    jrnFull := false, slot0 := none, slot1 := none, jrnNext := 0, jrnFirstHeld := 0, appends := []
    payloadLen := 0, jrnFirst := 0, jrnLast := 0 }

/-- The site states of R270. -/
inductive SiteStatus where
  | service | spare | quarantined | testing
  deriving DecidableEq, Repr

structure Site where
  status : SiteStatus
  incarnation : BitVec 4
  readmits : Nat
  cause : BitVec 2
  /-- A site reset is in progress (R276). -/
  resetting : Bool
  railOn : Bool
  /-- The first packet since quarantine has been recorded (R273). -/
  packetSeen : Bool
  deriving DecidableEq, Repr

def Site.reset : Site :=
  { status := .spare, incarnation := 0, readmits := 0, cause := 0, resetting := false, railOn := false, packetSeen := false }

/-- Power state of a bank (R290, R312). -/
inductive BankPower where
  | off | retention | on | waking
  deriving DecidableEq, Repr

/-- One bank of a BANK_ block: configuration, mode in effect, power, repair (R285 to R296). -/
structure BankSt where
  modeCfg : BitVec 2
  retainCfg : Bool
  mode : BitVec 2
  retain : Bool
  /-- The mode has been in effect since cold reset, so an unchanged mode keeps the contents (R289). -/
  filled : Bool
  power : BankPower
  /-- Latest turn in which an access other than the test reached the bank (R291). -/
  lastUse : Option Nat
  /-- Failing row and the spare row that replaces it (R295). -/
  spares : List (Nat × Nat)
  /-- Pinned regions: first row and pin buffer. -/
  pins : List (Nat × Nat)
  degradedRows : List Nat
  deriving DecidableEq, Repr

def BankSt.reset : BankSt :=
  { modeCfg := 0, retainCfg := false, mode := 0, retain := false, filled := false, power := .off, lastUse := none
    spares := [], pins := [], degradedRows := [] }

/-- The test engines of a BANK_ block (R293, R294). -/
structure Tester where
  /-- Next bank and region that an engine of the block takes. -/
  bank : Nat
  region : Nat
  /-- Turns elapsed at each engine's latest start (R293). -/
  lastStart : Map Nat
  /-- Engines at work: bank and region under test, rows that fail the march. -/
  running : List (Nat × Nat × Nat × List Nat)
  deriving DecidableEq, Repr

def Tester.reset : Tester := { bank := 0, region := 0, lastStart := [], running := [] }

/-- The MOESI states (R302). -/
inductive Moesi where
  | M | O | E | S | I
  deriving DecidableEq, Repr

/-- A line an agent holds: state, data and poisoned 16-byte words. -/
structure HeldLine where
  st : Moesi
  data : Map Byte
  poison : List Nat
  /-- The line stands in the agent's eviction buffer until the home acknowledges (R302). -/
  evicting : Bool
  deriving DecidableEq, Repr

def HeldLine.reset : HeldLine := { st := .I, data := [], poison := [], evicting := false }

/-- Directory states (R301). -/
inductive DirSt where
  | U | S | X | O
  deriving DecidableEq, Repr

structure DirEntry where
  st : DirSt
  owner : Nat
  sharers : List Nat
  deriving DecidableEq, Repr

def DirEntry.reset : DirEntry := { st := .U, owner := 0, sharers := [] }

/-- Requests of R303, and the host's snoops (R398). -/
inductive CohReq where
  | rds | rdu | upg | evc | evd | rdns | wfi | wp | hsnps | hsnpu | hsnpi
  deriving DecidableEq, Repr

/-- The snoops of R303. -/
inductive SnoopKind where
  | snpS | snpU | snpI | snpNS | snpRecall
  deriving DecidableEq, Repr

/-- Where a transaction's result goes. -/
inductive TxnFrom where
  | agent (a : Nat)
  | requester (r : Requester)
  | host
  deriving DecidableEq, Repr

/-- A transaction in a home's table (R305). Snoops list (agent, kind) not yet answered. -/
structure Txn where
  line : Nat
  req : CohReq
  src : TxnFrom
  /-- It holds the reserved entry (R306). -/
  aged : Bool
  /-- It is the transaction in progress on its line; its snoops have been sent. -/
  started : Bool
  data : List Byte
  mask : BitVec 128
  snoops : List (Nat × SnoopKind)
  /-- Data gathered from an owner: dirty flag and bytes with poison. -/
  fwd : Option (Bool × List (Byte × Bool))
  deriving DecidableEq, Repr

/-- A request that was answered Retry, or that waits aged (R305, R306). -/
structure Retried where
  home : Nat
  line : Nat
  req : CohReq
  src : TxnFrom
  data : List Byte
  mask : BitVec 128
  age : Nat
  /-- It has been sent before; one that its requester holds back has not (R306). -/
  sent : Bool
  deriving DecidableEq, Repr

structure Home where
  txns : List Txn
  /-- Aged requests that wait for the reserved entry, oldest first (R306). -/
  aged : List Retried
  dead : List Nat
  ignored : Bool
  /-- A walk of the directory for a dead agent is not yet done (R311). -/
  reclaiming : Bool
  /-- Snoops unanswered past SNOOP_LIMIT, in the order they became late: line and agent (R308). -/
  late : List (Nat × Nat)
  /-- Host snoops that wait for room in the table, oldest first (R305, R398). -/
  hostSnoops : List (Nat × CohReq)
  deriving DecidableEq, Repr

def Home.reset : Home :=
  { txns := [], aged := [], dead := [], ignored := false, reclaiming := false, late := [], hostSnoops := [] }

/-- A DRAM controller, HBM3E stack or LPDDR5X package (R322, R335). -/
structure Dram where
  trained : Bool
  trainFail : Bool
  filling : Bool
  tempC : Byte
  scrubPos : Nat
  /-- Corrections of this pass by pseudo-channel · 64 + pin, and the suspect ones. -/
  pins : Map Nat
  suspects : List Nat
  deriving DecidableEq, Repr

def Dram.reset : Dram :=
  { trained := false, trainFail := false, filling := false, tempC := 0, scrubPos := 0
    pins := [], suspects := [] }

/-- A packet at a link end: its virtual channel, where it goes (a base tile 0 to 3, the hub 4, or a physical core p as
8 + p), and the requester of the read or write it belongs to, true for a write (R171, R353). -/
structure LinkPkt where
  vc : Nat
  dst : Nat
  req : Option (Nat × Bool)
  deriving DecidableEq, Repr

/-- A frame held in a replay buffer: its SEQ, kind of virtual channel and words, and the packet it carries on a link of the
package. -/
structure TxFrame where
  seq : Nat
  vc : Nat
  words : List CodeWord
  pkt : Option LinkPkt
  deriving DecidableEq, Repr

/-- One end of a panel link or of a bond port (R345 to R353). -/
structure LinkEnd where
  up : Bool
  training : Bool
  hold : Bool
  degraded : Bool
  ignored : Bool
  width : Nat
  peerWidth : Nat
  groupsOk : Byte
  epoch : Byte
  expSeq : Nat
  nextSeq : Nat
  replay : List TxFrame
  /-- SEQ replayed latest and how often in a row (R348). -/
  replaySeq : Nat
  replayRun : Nat
  failRun : Nat
  /-- The disagreements of the window, in turns elapsed (R351). -/
  disagree : List Nat
  /-- By VC: credits that the other end has returned, and credits spent (R347, R348). -/
  credits : List Nat
  spent : List Nat
  /-- Receive buffers freed and not yet reported, by VC, and the last SEQ that a sent frame has acknowledged. -/
  freed : List Nat
  ackTold : Nat
  /-- Data frames sent for the first time so far. -/
  sent : Nat
  /-- A reroute waits for the opposite end's answer (R353). -/
  rerouting : Bool
  sparesOut : Nat
  sparesIn : Nat
  deriving DecidableEq, Repr

def LinkEnd.reset : LinkEnd :=
  { up := false, training := false, hold := false, degraded := false, ignored := false, width := 0, peerWidth := 0
    groupsOk := 0, epoch := 0, expSeq := 0, nextSeq := 0, replay := [], replaySeq := 0, replayRun := 0, failRun := 0
    disagree := [], credits := [0, 0, 0, 0], spent := [0, 0, 0, 0], freed := [0, 0, 0, 0], ackTold := 4095, sent := 0
    rerouting := false, sparesOut := 0, sparesIn := 0 }

/-- A table slot of a stream, at a sending engine or a receiving port (R388). Its reference count is counted from the queues,
State.slotQueued and Ladder.slotRefs. -/
structure TableSlot where
  gen : Nat
  lens : List Nat
  valid : Bool
  deriving DecidableEq, Repr

def TableSlot.reset : TableSlot := { gen := 0, lens := [], valid := false }

/-- A VC 0 message that a port has delivered to a step and that has not been consumed yet. -/
structure InMsg where
  stream : Nat
  words : List CodeWord
  /-- Its words by receive buffer (R370). -/
  bufs : List (Nat × Nat)
  deriving DecidableEq, Repr

/-- A ladder port (R366 to R374). -/
structure Ladder where
  up : Bool
  training : Bool
  hold : Bool
  down : Bool
  half : Bool
  peerHalf : Bool
  mismatch : Bool
  epoch : Byte
  lanesOk : Byte
  hopPs : W32
  peerSerial : Word64
  peerPort : BitVec 3
  peerFloor : Byte
  peerChain : Word64
  failRun : Nat
  disagree : List Nat
  expSeq : Nat
  nextSeq : Nat
  replay : List TxFrame
  replaySeq : Nat
  replayRun : Nat
  cred0 : Nat
  cred1 : Nat
  badAcks : Nat
  /-- Data frames sent for the first time so far. -/
  sent : Nat
  /-- VC 0 words received and not yet delivered, by receive buffer. -/
  rx0 : List (Nat × List CodeWord)
  /-- Receive buffers of VC 0 in use, with the words in each that are not yet consumed (R370). -/
  bufs0 : Map Nat
  nextBuf : Nat
  /-- VC 0 messages that current steps have been found to need, oldest first; they stay in the buffers until consumed
  (R380, R390). -/
  inq : List InMsg
  /-- VC 1 frames accepted and not yet consumed (R373). -/
  rx1 : List (List CodeWord)
  /-- Receive buffers freed and not yet reported, and the last SEQ that a sent frame has acknowledged (R368). -/
  free0 : Nat
  free1 : Nat
  ackTold : Nat
  streamMismatch : Bool
  /-- Streams that a bad header has broken, with the engine that consumes each, once one has (R374). -/
  brokenStreams : List (Nat × Option Nat)
  /-- Table slots of received streams, keyed 2·stream + slot (R388). -/
  slots : Map TableSlot
  /-- Messages that wait for credit, by VC. -/
  out0 : List (List CodeWord)
  out1 : List (List CodeWord)
  scRx : List (List Byte)
  /-- A turn mark waits to be sent (R372): TURN, LEAD_TURNS, ACC_DELAY_PS. -/
  markDue : List (Word64 × Nat × W32)
  /-- Marks that accepted mark frames have brought, oldest first. -/
  markIn : List (Word64 × Nat × W32)
  deriving DecidableEq, Repr

def Ladder.reset : Ladder :=
  { up := false, training := false, hold := false, down := false, half := false, peerHalf := false, mismatch := false
    epoch := 0, lanesOk := 0, hopPs := 0, peerSerial := 0, peerPort := 0, peerFloor := 0, peerChain := 0, failRun := 0
    disagree := [], expSeq := 0, nextSeq := 0, replay := [], replaySeq := 0, replayRun := 0, cred0 := 512, cred1 := 32
    badAcks := 0, sent := 0, rx0 := [], bufs0 := [], nextBuf := 0, inq := [], rx1 := [], free0 := 0, free1 := 0, ackTold := 65535
    streamMismatch := false, brokenStreams := [], slots := [], out0 := [], out1 := [], scRx := [], markDue := [], markIn := [] }

/-- A compression engine (R375 to R390). -/
structure Cmp where
  running : Bool
  step : Nat
  /-- The current step's descriptor and table image, once read (R375, R385). -/
  desc : Option (List Byte)
  table : Option (List Byte)
  block : Nat
  tokenHeld : Bool
  waitToken : Bool
  waitIn : Bool
  streamBroken : Bool
  stepFault : Bool
  flags : Flags
  /-- Events of the step in progress, ORed into RED_FLAGS at its end (R381). -/
  stepFlags : Flags
  waitLong : Bool
  waitSince : Nat
  done : Bool
  /-- Send slots, keyed 2·stream + slot, and the active slot of each stream (R388). -/
  slots : Map TableSlot
  active : Map Nat
  deriving DecidableEq, Repr

def Cmp.reset : Cmp :=
  { running := false, step := 0, desc := none, table := none, block := 0, tokenHeld := false, waitToken := false, waitIn := false
    streamBroken := false, stepFault := false, flags := .none, stepFlags := .none, waitLong := false, waitSince := 0
    done := false, slots := [], active := [] }

/-- A command in progress on a ring (R405, R406). -/
structure RingCmd where
  op : Nat
  irq : Bool
  tag : W32
  args : List Byte
  /-- The table image of a compressed copy, as read when the slot was taken (R407). -/
  image : List Byte
  /-- Lines or blocks already moved. -/
  progress : Nat
  /-- The command's own work is finished, with its completion status. -/
  finished : Option Nat
  deriving DecidableEq, Repr

structure Ring where
  enabled : Bool
  p : BitVec 32
  c : BitVec 32
  tail : BitVec 32
  head : BitVec 32
  cmd : Option RingCmd
  staleReads : Nat
  staleWait : Bool
  checkFail : Bool
  ringError : Bool
  deriving DecidableEq, Repr

def Ring.reset : Ring :=
  { enabled := false, p := 0, c := 0, tail := 0, head := 0, cmd := none, staleReads := 0, staleWait := false
    checkFail := false, ringError := false }

/-- Whose write waits in the egress buffer (R400): a write-back or a request that a home admitted, a ring's copy, the save
engine's copy-out or its control line (R261), a move of a core (core, issue number), or another unit by its requester
code. -/
inductive WriteOwner where
  | home
  | ring (r : Nat)
  | copyout
  | control
  | move (core seq : Nat)
  | unit (who : Nat)
  deriving DecidableEq, Repr

/-- One write in the egress buffer (R400): address, bytes, whether the whole run is poison, its owner, and the
completion entry it carries (ring, SEQ, interrupt vector). -/
structure Egress where
  addr : Nat
  bytes : List Byte
  poison : Bool
  owner : WriteOwner
  completion : Option (Nat × Nat × Option Byte)
  deriving DecidableEq, Repr

/-- The companion link (R396 to R416). -/
structure Ncl where
  up : Bool
  half : Bool
  everUp : Bool
  epoch : BitVec 32
  decide : Bool
  resumePending : Bool
  egressHeld : Bool
  ignored : Bool
  lossTurn : Word64
  hostReset : Bool
  resume : List Byte
  /-- Writes to the host that it has not acknowledged, oldest first: as many as 64 MiB hold are in the buffer, the others
  wait for room (R400). -/
  egress : List Egress
  rings : Map Ring
  /-- SEQ given to the latest completion, and of the latest acknowledged one (R406, R409). -/
  seq : Nat
  seqAcked : Nat
  mailbox : List (List Byte)
  heldSnoops : List (Nat × CohReq)
  /-- Units whose read of the host waits for the link or a decision, and those whose waiting read a declined epoch answers
  with poison, by requester code (R410, R412). -/
  waiting : List Nat
  refused : List Nat
  /-- Interrupts that wait for a decision (R411). -/
  vectors : List Byte
  /-- Number of the last flit that the host has acknowledged by a NAK, and replays in a row of the flit after it (R396). -/
  flitAcked : Nat
  flitReplays : Nat
  windowEn : Bool
  deriving DecidableEq, Repr

def Ncl.reset : Ncl :=
  { up := false, half := false, everUp := false, epoch := 0, decide := false, resumePending := false, egressHeld := false
    ignored := false, lossTurn := 0, hostReset := false, resume := [], egress := [], rings := [], seq := 0, seqAcked := 0
    mailbox := [], heldSnoops := [], waiting := [], refused := [], vectors := [], flitAcked := 0, flitReplays := 0, windowEn := false }

/-- An intake engine (R418 to R440). -/
structure Intake where
  waiting : Bool
  withdrawing : Bool
  granted : Bool
  running : Bool
  position : Nat
  batchFault : Bool
  faultCode : BitVec 3
  flags : Flags
  /-- Batch record and program of the run, as read at its start (R420). -/
  batch : List Byte
  prog : List Byte
  /-- SUBSTITUTION entries that wait for the ring: sample, position, work, reason, step (R438). -/
  journal : List (Nat × Nat × Nat × Nat × Nat)
  waitSince : Nat
  waitLong : Bool
  deriving DecidableEq, Repr

def Intake.reset : Intake :=
  { waiting := false, withdrawing := false, granted := false, running := false, position := 0, batchFault := false
    faultCode := 0, flags := .none, batch := [], prog := [], journal := [], waitSince := 0, waitLong := false }

/-- One score-sheet record (R454). -/
structure Record where
  turn : Word64
  seq : W32
  event : BitVec 16
  origin : Byte
  block : BitVec 16
  unit : BitVec 16
  arg0 : W32
  arg1 : Word64
  deriving DecidableEq, Repr

/-- Why a sheet is frozen (R457). -/
inductive FreezeCause where
  | none | fatal | powerWarning
  deriving DecidableEq, Repr

structure Sheet where
  /-- Records held, newest first. -/
  records : List Record
  nextSeq : W32
  /-- Input queue, oldest first (R455). -/
  queue : List Record
  frozen : FreezeCause
  /-- Records dropped since the latest 0x021E record, and the turn of the first (R455). -/
  dropped : Nat
  droppedTurn : Word64
  deriving DecidableEq, Repr

def Sheet.reset : Sheet :=
  { records := [], nextSeq := 1, queue := [], frozen := .none, dropped := 0, droppedTurn := 0 }

/-- A flush in progress (R458): its reason and the turn of its request. -/
structure Flush where
  reason : Nat
  turn : Word64
  deriving DecidableEq, Repr

/-- The security processor (R463 to R473). -/
structure Security where
  fwVerified : Bool
  recovery : Bool
  identityOk : Bool
  clean : Bool
  busy : Bool
  refused : Bool
  fwDigest : List Byte
  svn : W32
  /-- Public key digest and identity seed, once generated (R470). -/
  idDigest : List Byte
  idSeed : List Byte
  /-- Recovery registers (R466). -/
  recovWaiting : Bool
  recovReading : Bool
  recovReason : Nat
  /-- EEPROM areas as read at phase 1. -/
  requireSigned : Bool
  keyCount : Nat
  signers : List (List Byte)
  configDigest : List Byte
  serial : Word64
  /-- The image that runs: the point in its body where server core 0 starts, and the body as it lies in the hub L3 until
  firmware enables the hub homes (R463, R465). -/
  startAt : Option Nat
  body : List Byte
  /-- Nonces that the endpoint was asked for while the layout loader was BUSY (R471, R502). -/
  asked : List (List Byte)
  deriving DecidableEq, Repr

def Security.reset : Security :=
  { fwVerified := false, recovery := false, identityOk := false, clean := true, busy := false, refused := false
    fwDigest := [], svn := 0, idDigest := [], idSeed := [], recovWaiting := false, recovReading := false, recovReason := 0
    requireSigned := false, keyCount := 0, signers := [], configDigest := [], serial := 0
    startAt := none, body := [], asked := [] }

/-- The resets of the whole device (R12, R473). -/
inductive ResetKind where
  | cold | warm | scrub
  deriving DecidableEq, Repr

/-- What stands as the latest boot's findings until there has been one. -/
def bootNone : BootIn :=
  { cool := 0, addr := 0, hbmFail := [], lpxFail := [], bondFail := [], panelLanes := [], present := [], idPattern := []
    flashReadFails := false }

/-- Power, pins and boot progress (R463, R494 to R499). -/
structure Power where
  /-- RESET_N is low: the device is held in cold reset. -/
  held : Bool
  hubRails : Bool
  hbmRails : Bool
  lpxRails : Bool
  /-- Boot phase reached, 0 before phase 1. -/
  phase : Nat
  warning : Bool
  addr : BitVec 3
  fatal : Bool
  fatalCode : BitVec 10
  fatalOrigin : BitVec 3
  issueStopped : Bool
  flushing : Option Flush
  /-- A reset that waits for the flush to end, and what it will find outside (R458, R498). -/
  resetPending : Option (ResetKind × BootIn)
  /-- The kind of the latest boot and what it found outside. -/
  bootKind : ResetKind
  boot : BootIn
  regAddress : Option (BitVec 7)
  endpointAddress : Option (BitVec 7)
  /-- A PLDM firmware update was cut off (R502). -/
  updateFailed : Bool
  /-- Latest SEQ of each sheet before the latest warm reset (R452). -/
  seqBefore : List W32
  deriving DecidableEq, Repr

def Power.reset : Power :=
  { held := true, hubRails := false, hbmRails := false, lpxRails := false, phase := 0, warning := false, addr := 0
    fatal := false, fatalCode := 0, fatalOrigin := 0, issueStopped := false, flushing := none, resetPending := none
    bootKind := .cold, boot := bootNone, regAddress := none, endpointAddress := none, updateFailed := false
    seqBefore := [] }

/-- A server core's hart as the debug module sees it (R505). -/
structure Hart where
  halted : Bool
  regs : Map Word64
  deriving DecidableEq, Repr

def Hart.reset : Hart := { halted := false, regs := [] }

/-- Which instruction the test access port holds, and the boundary cells last driven (R505). -/
structure Tap where
  ir : Nat
  cells : PinCells
  deriving DecidableEq, Repr

/-- After TRST_N, and before any use: IDCODE, and no cell loaded. -/
def Tap.reset : Tap := { ir := 1, cells := { faultN := false, sda := false, rest := 0 } }

/-- What the mask ROM of each die holds (R354, R468). -/
structure Rom where
  /-- Stepping codes: sites 0 to 51, tiles 52 to 55, hub 56. -/
  steppings : List Nat
  vendorDigest : List Byte
  deriving DecidableEq, Repr

/-- What leaves the device at its pins, links and ports. -/
inductive Output where
  | nclInterrupt (vector : Byte)
  | nclReadData (value : Word64)
  | hostSnoopAnswer (line : Nat) (dirty : Option Bool) (data : List (Byte × Bool))
  | portStatus (status : Nat) (data : List Byte)
  /-- A platform event message with its record (R460, R502). -/
  | pldmEvent (record : Record)
  | pldmResponse (ok : Bool) (data : List Byte)
  | serverInterrupt (block : BitVec 16)
  | accessFault (core : Nat)
  | loadData (core : Nat) (value : Word64)
  /-- A boundary scan: the levels of J1's pins and straps, and the cells whose place in the chain the manual leaves open
  (R494, R505). -/
  | pinLevels (faultN : Bool) (presentN : Bool) (cool : BitVec 3) (addr : BitVec 3) (rest : Word64)
  /-- A frame of a ladder port, its control word first, and the bytes that each lane carries (R367). -/
  | ladderFrame (port : Nat) (frame : List CodeWord) (lanes : List (List Byte))
  /-- A frame of a panel link end or a bond port (R346, R347). -/
  | panelFrame (fend : Nat) (control : BitVec 128) (data : List CodeWord)
  /-- What goes over a panel link's sideband (R349, R350, R353). -/
  | widthReport (fend : Nat) (width : Nat)
  | sidebandHold (fend : Nat)
  | sidebandRequest (fend : Nat)
  /-- The error response to a request whose frames were lost: poison for a read, a dropped write (R353). -/
  | errorResponse (who : Nat) (write : Bool)
  | readData (src : TxnFrom) (line : Nat) (data : List (Byte × Bool))
  | retryAnswer (home : Nat) (line : Nat)
  | tdo (value : Word64)
  deriving DecidableEq, Repr

/-- A token message on its way between agents and TOK_ blocks (R188). -/
inductive TokMsg where
  | signal (agent : Nat) (token : BitVec 16) (value : W32)
  | wait (agent : Nat) (token : BitVec 16) (value : W32)
  | grant (agent : Nat)
  | withdrawal (agent : Nat) (token : BitVec 16)
  deriving DecidableEq, Repr

structure State where
  /-- Commands that wait, first in first out. -/
  pending : List Instr
  blocks : Map Blk
  /-- Stored register words, keyed 65,536 · block + offset; an unlisted key reads as its table's reset. -/
  regs : Map Word64
  counters : Map Word64
  holds : Map Word64
  /-- Number of the latest snapshot (R489). -/
  snapNext : Nat
  /-- First-occurrence latches, keyed 65,536 · block + code (R451). -/
  once : List Nat
  mem : List Host.Cell
  /-- Poisoned 16-byte words of memory, by address ÷ 16. -/
  poison : List Nat
  /-- Bits in which stored codewords differ from what was written, by storage word: data [127:0], check bits [143:128]. -/
  upsets : Map (BitVec 144)
  /-- Bits in which the next words to arrive over the fabric are wrong. -/
  wire : List (BitVec 144)
  engines : Map Engine
  cores : Map Core
  tokens : Map Token
  held : Map (List HeldOp)
  tokMsgs : List TokMsg
  /-- Allotment ranges: the table of a physical core under its number, those of the engines under their agents (R167, R172,
  R191). -/
  allots : Map (List Allot)
  /-- Site of each logical die, once a die map is loaded, and of each tile's copy (R168, R169). -/
  dieMap : Map Nat
  /-- Route configuration of the mesh blocks, keyed by tile, and of the hub fabric, key 4 (R167, R171). -/
  routes : Map (List Byte)
  loader : Loader
  turns : Turns
  energy : Energy
  sweeps : Map Sweep
  save : Save
  sites : Map Site
  /-- Reads of CORE_CLU_STATUS that wait for their bond port: their addresses, and the server core whose load it is, none for
  the register port (R161). -/
  cluReads : List (Nat × Option Nat)
  siteSel : Nat
  siteIgnored : Bool
  banks : Map BankSt
  /-- The test engines of a block, keyed by block (R293). -/
  testers : Map Tester
  lines : Map HeldLine
  dirs : Map DirEntry
  /-- Lines held by a last-level cache or the hub L3, dirty ones marked, by line (R297). -/
  llc : Map Bool
  homes : Map Home
  retried : List Retried
  drams : Map Dram
  links : Map LinkEnd
  /-- Data frames that wait at a link end, by their virtual channels, oldest first (R347, R348). -/
  sendq : Map (List LinkPkt)
  floor : Nat
  presentDies : List Nat
  ladders : Map Ladder
  cmps : Map Cmp
  ncl : Ncl
  intakes : Map Intake
  sheets : Map Sheet
  security : Security
  power : Power
  harts : Map Hart
  tap : Tap
  rom : Rom
  flash : Map Byte
  eeprom : Map Byte
  /-- Everything the device has put out, newest first. -/
  out : List Output
  /-- The model's own counter for free values. -/
  fresh : Nat
  deriving DecidableEq, Repr

/-- Right after cold reset with RESET_N still low (R11, R12, R94, R456, R483, R498). -/
def State.reset : State :=
  { pending := [], blocks := [], regs := [], counters := [], holds := [], snapNext := 0, once := [], mem := [], poison := []
    upsets := [], wire := []
    engines := [], cores := [], tokens := [], held := [], tokMsgs := [], allots := [], dieMap := [], routes := []
    loader := .reset, turns := .reset, energy := .reset, sweeps := [], save := .reset, sites := [], cluReads := [], siteSel := 0
    siteIgnored := false, banks := [], testers := [], lines := [], dirs := [], llc := [], homes := [], retried := []
    drams := [], links := [], sendq := [], floor := 0, presentDies := [], ladders := [], cmps := [], ncl := .reset, intakes := []
    sheets := [], security := .reset, power := .reset, harts := [], tap := .reset
    rom := { steppings := List.replicate 57 2, vendorDigest := List.replicate 32 0 }
    flash := [], eeprom := [], out := [], fresh := 0 }

/-- Why a command stops the model. -/
inductive Fault where
  /-- Raised by a meaning whose command carries operands of a shape the device's inputs cannot have
  (a cache line that is not 128 bytes). Safe: the model stops and claims nothing. -/
  | illFormed
  deriving DecidableEq, Repr

/-- Why a command has no meaning. -/
inductive Refusal where
  /-- The command has not been given its meaning yet. Safe. -/
  | notModelled (mnemonic : String)
  deriving DecidableEq, Repr

end Sys2Proof.Machine
end

