-- ==== Sys2Proof/Machine/RegTable.lean ====
section
/-! DEFINITION. The register tables of every block (R10, R11, R490, R491 and the owning chapters' tables):
each field's offset, bits, access code and cold-reset value, and the counters behind the holding registers.
Reset entries that come from straps, EEPROM or flash stand as 0 here and are filled during boot. -/

namespace Sys2Proof.Machine

/-- Access codes (R10). -/
inductive Access where
  | RW | RWD | RO | RL | RH | WC
  deriving DecidableEq, Repr

/-- Block kinds: one for each KIND code of the block map (R491); `bankTile` and `bankCore` share one table. -/
inductive Kind where
  | eng | core | bankCore | bankTile | tok | trnTile | mesh | bond | sshTile | home | hbm | swp | plink
  | trnHub | nrg | lpx | sav | ncl | sec | sshHub | layout | site | pkg | lad | cmp | itk
  deriving DecidableEq, Repr

/-- One row of a register table (R10). -/
structure FieldRow where
  off : Nat
  hi : Nat
  lo : Nat
  acc : Access
  reset : Nat
  name : String
  deriving DecidableEq, Repr

/-- R490 of 18_register_model.md. -/
def commonRows : List FieldRow :=
  [ ⟨0x000, 15, 0, .RO, 0x0, "BLOCK"⟩
  , ⟨0x000, 23, 16, .RO, 0x0, "KIND"⟩
  , ⟨0x000, 31, 24, .RO, 0x0, "VERSION"⟩
  , ⟨0x000, 35, 32, .RO, 0x0, "STEPPING"⟩
  , ⟨0x000, 47, 40, .RO, 0x0, "FEATURE_LEVEL"⟩
  , ⟨0x000, 53, 48, .RO, 0x0, "LOCATION"⟩
  , ⟨0x008, 0, 0, .RW, 0x0, "ENABLE"⟩
  , ⟨0x010, 1, 0, .RL, 0x0, "STATE"⟩
  , ⟨0x010, 2, 2, .RL, 0x0, "WRITE_WHILE_ENABLED"⟩
  , ⟨0x010, 31, 16, .RL, 0x0, "IGNORED_OFFSET"⟩
  , ⟨0x018, 1, 0, .WC, 0x0, "SCOPE"⟩
  , ⟨0x020, 63, 0, .RH, 0x0, "SNAP_ID"⟩
  , ⟨0x028, 63, 0, .RH, 0x0, "SNAP_TURN"⟩ ]

/-- R97 of 03_matrix_engine.md. -/
def engRows : List FieldRow :=
  [ ⟨0x100, 0, 0, .RWD, 0x0, "N1_NUMERICS"⟩
  , ⟨0x100, 23, 8, .RWD, 0x0, "WAIT_LIMIT"⟩
  , ⟨0x108, 0, 0, .RL, 0x0, "PASS_ACTIVE"⟩
  , ⟨0x108, 1, 1, .RL, 0x0, "LOAD_ACTIVE"⟩
  , ⟨0x108, 2, 2, .RL, 0x0, "BANK0_LOADED"⟩
  , ⟨0x108, 3, 3, .RL, 0x0, "BANK1_LOADED"⟩
  , ⟨0x108, 4, 4, .RL, 0x0, "ACTIVE_BANK"⟩
  , ⟨0x108, 5, 5, .RL, 0x0, "WAIT_BANK"⟩
  , ⟨0x108, 6, 6, .RL, 0x0, "WAIT_LOAD"⟩
  , ⟨0x108, 7, 7, .RL, 0x0, "WAIT_TILE"⟩
  , ⟨0x108, 8, 8, .RL, 0x0, "WAIT_FEED"⟩
  , ⟨0x108, 9, 9, .RL, 0x0, "WAIT_LONG"⟩
  , ⟨0x108, 10, 10, .RL, 0x0, "ARRAY_FAULT"⟩
  , ⟨0x108, 11, 11, .RL, 0x0, "DISABLING"⟩
  , ⟨0x108, 15, 12, .RL, 0x0, "QUEUE_USED"⟩
  , ⟨0x110, 3, 0, .RO, 0x0, "BANK0_FMT"⟩
  , ⟨0x110, 7, 4, .RO, 0x0, "BANK1_FMT"⟩
  , ⟨0x118, 31, 0, .RO, 0x0, "OPS_STARTED"⟩
  , ⟨0x118, 63, 32, .RO, 0x0, "OPS_DONE"⟩ ]

/-- R161 of 05_compute_core.md. -/
def coreRows : List FieldRow :=
  [ ⟨0x100, 51, 6, .RWD, 0x0, "STREAM_BASE"⟩
  , ⟨0x108, 0, 0, .RL, 0x0, "RUNNING"⟩
  , ⟨0x108, 1, 1, .RL, 0x0, "DONE"⟩
  , ⟨0x108, 2, 2, .RL, 0x0, "STOPPED"⟩
  , ⟨0x108, 3, 3, .RL, 0x0, "STALL_QUEUE"⟩
  , ⟨0x108, 4, 4, .RL, 0x0, "STALL_HAZARD"⟩
  , ⟨0x108, 5, 5, .RL, 0x0, "STALL_SCORE"⟩
  , ⟨0x108, 6, 6, .RL, 0x0, "STALL_PRICE"⟩
  , ⟨0x108, 7, 7, .RL, 0x0, "STALL_TOKEN"⟩
  , ⟨0x108, 8, 8, .RL, 0x0, "STALL_BARRIER"⟩
  , ⟨0x108, 9, 9, .RL, 0x0, "STALL_FETCH"⟩
  , ⟨0x108, 10, 10, .RL, 0x0, "DISABLING"⟩
  , ⟨0x108, 31, 16, .RL, 0x0, "PF_ACTIVE"⟩
  , ⟨0x110, 0, 0, .RL, 0x0, "INVALID"⟩
  , ⟨0x110, 1, 1, .RL, 0x0, "OVERFLOW"⟩
  , ⟨0x110, 2, 2, .RL, 0x0, "SATURATED"⟩
  , ⟨0x118, 7, 0, .RO, 0x0, "STOP_CODE"⟩
  , ⟨0x118, 63, 16, .RO, 0x0, "INSN_INDEX"⟩
  , ⟨0x120, 47, 0, .RO, 0x0, "PC"⟩
  , ⟨0x128, 0, 0, .RL, 0x0, "ROUTER_UP"⟩ ]

/-- R197 of 06_layout_and_pipelines.md. -/
def layoutRows : List FieldRow :=
  [ ⟨0x100, 51, 6, .RWD, 0x0, "IMAGE_BASE"⟩
  , ⟨0x108, 3, 0, .WC, 0x0, "OP"⟩
  , ⟨0x108, 24, 16, .WC, 0x0, "SECTION_MASK"⟩
  , ⟨0x108, 25, 25, .WC, 0x0, "SITE_ONLY"⟩
  , ⟨0x108, 37, 32, .WC, 0x0, "SITE"⟩
  , ⟨0x110, 0, 0, .RL, 0x0, "BUSY"⟩
  , ⟨0x110, 1, 1, .RL, 0x0, "VERIFIED"⟩
  , ⟨0x110, 2, 2, .RL, 0x0, "REFUSED"⟩
  , ⟨0x110, 3, 3, .RL, 0x0, "MIXED"⟩
  , ⟨0x110, 4, 4, .RL, 0x0, "IGNORED"⟩
  , ⟨0x110, 15, 8, .RL, 0x0, "REFUSE_CODE"⟩
  , ⟨0x110, 24, 16, .RL, 0x0, "LOADED"⟩
  , ⟨0x110, 40, 32, .RL, 0x0, "PARTIAL"⟩
  , ⟨0x140, 63, 0, .RO, 0x0, "DIGEST"⟩
  , ⟨0x148, 63, 0, .RO, 0x0, "DIGEST"⟩
  , ⟨0x150, 63, 0, .RO, 0x0, "DIGEST"⟩
  , ⟨0x158, 63, 0, .RO, 0x0, "DIGEST"⟩
  , ⟨0x160, 63, 0, .RO, 0x0, "DIGEST"⟩
  , ⟨0x168, 63, 0, .RO, 0x0, "DIGEST"⟩
  , ⟨0x170, 63, 0, .RO, 0x0, "DIGEST"⟩
  , ⟨0x178, 63, 0, .RO, 0x0, "DIGEST"⟩ ]

/-- R199 of 06_layout_and_pipelines.md. -/
def tokRows : List FieldRow :=
  [ ⟨0x100, 15, 0, .WC, 0x0, "TOKEN"⟩
  , ⟨0x100, 18, 16, .WC, 0x0, "OP"⟩
  , ⟨0x100, 63, 32, .WC, 0x0, "VALUE"⟩
  , ⟨0x108, 31, 0, .RO, 0x0, "COUNT"⟩
  , ⟨0x108, 41, 32, .RO, 0x0, "WAITERS"⟩
  , ⟨0x108, 42, 42, .RO, 0x0, "TAKEN"⟩
  , ⟨0x108, 43, 43, .RO, 0x0, "VALID"⟩
  , ⟨0x110, 63, 0, .RO, 0x0, "STAMP"⟩
  , ⟨0x118, 0, 0, .RL, 0x0, "AT_LIMIT"⟩
  , ⟨0x118, 1, 1, .RL, 0x0, "HELD"⟩
  , ⟨0x118, 25, 16, .RL, 0x0, "POOL_USED"⟩ ]

/-- R220 of 07_turns_and_energy.md. -/
def trnRows : List FieldRow :=
  [ ⟨0x100, 1, 0, .RWD, 0x0, "SOURCE"⟩
  , ⟨0x100, 4, 2, .RWD, 0x0, "MARK_PORT"⟩
  , ⟨0x100, 15, 8, .RWD, 0x0, "FORWARD"⟩
  , ⟨0x100, 19, 16, .RWD, 0x2, "LEAD_TURNS"⟩
  , ⟨0x100, 40, 24, .RWD, 0x2710, "NOMINAL_NS"⟩
  , ⟨0x108, 63, 0, .RO, 0x0, "NOW"⟩
  , ⟨0x110, 63, 0, .WC, 0x0, "NEXT"⟩
  , ⟨0x120, 31, 0, .RO, 0x0, "PERIOD_PS"⟩
  , ⟨0x118, 0, 0, .RL, 0x0, "LOCKED"⟩
  , ⟨0x118, 1, 1, .RL, 0x0, "HOLDOVER"⟩
  , ⟨0x118, 2, 2, .RL, 0x0, "TURN_JUMP"⟩
  , ⟨0x118, 26, 16, .RL, 0x0, "TT_USED"⟩
  , ⟨0x128, 63, 0, .WC, 0x0, "ENTRY_LO"⟩
  , ⟨0x130, 63, 0, .WC, 0x0, "ENTRY_HI"⟩ ]

/-- R222 of 07_turns_and_energy.md. -/
def nrgRows : List FieldRow :=
  [ ⟨0x100, 31, 0, .RW, 0x0, "ALLOWANCE_PIPS"⟩
  , ⟨0x108, 15, 0, .RW, 0x0, "SUPPLY_LIMIT_W"⟩
  , ⟨0x108, 31, 16, .RW, 0x0, "GRANT_TIMEOUT"⟩
  , ⟨0x110, 2, 0, .RO, 0x0, "CLASS"⟩
  , ⟨0x110, 31, 16, .RO, 0x0, "CEILING_W"⟩
  , ⟨0x118, 0, 0, .RL, 0x0, "BORROWING"⟩
  , ⟨0x118, 1, 1, .RL, 0x0, "HOT"⟩
  , ⟨0x118, 2, 2, .RL, 0x0, "GRANT_EXPIRED"⟩
  , ⟨0x118, 3, 3, .RL, 0x0, "BACKSTOP"⟩
  , ⟨0x118, 4, 4, .RL, 0x0, "CORR_AT_BOUND"⟩
  , ⟨0x118, 31, 16, .RL, 0x190, "CLOCK_MHZ"⟩
  , ⟨0x120, 63, 0, .RO, 0x0, "RESERVOIR_PIPS"⟩
  , ⟨0x128, 15, 0, .RO, 0x0, "PLAN_CLOCK_MAX"⟩
  , ⟨0x128, 31, 16, .RO, 0x0, "PLAN_CAP"⟩
  , ⟨0x130, 7, 0, .RWD, 0x19, "BORROW_MAX_PCT"⟩
  , ⟨0x130, 15, 8, .RWD, 0x5F, "DIE_BORROW_C"⟩
  , ⟨0x130, 23, 16, .RWD, 0x55, "HBM_BORROW_C"⟩
  , ⟨0x138, 5, 0, .WC, 0x0, "ACCOUNT"⟩
  , ⟨0x140, 10, 0, .RO, 0x400, "CORR"⟩ ]

/-- R251 of 08_training_state.md. -/
def swpRows : List FieldRow :=
  [ ⟨0x100, 51, 6, .RWD, 0x0, "LIST_BASE"⟩
  , ⟨0x108, 23, 0, .RWD, 0x0, "LIST_LEN"⟩
  , ⟨0x108, 31, 24, .RWD, 0x40, "LPX_DEPTH"⟩
  , ⟨0x108, 47, 32, .RWD, 0x0, "WAIT_LIMIT"⟩
  , ⟨0x110, 15, 0, .RWD, 0x0, "START_TOKEN"⟩
  , ⟨0x110, 31, 16, .RWD, 0x0, "DONE_TOKEN"⟩
  , ⟨0x118, 31, 0, .RWD, 0x1, "NEXT_STEP"⟩
  , ⟨0x118, 63, 32, .RO, 0x0, "LAST_STEP"⟩
  , ⟨0x120, 0, 0, .RL, 0x0, "WAIT_START"⟩
  , ⟨0x120, 1, 1, .RL, 0x0, "RUNNING"⟩
  , ⟨0x120, 2, 2, .RL, 0x0, "SCALE_WAIT"⟩
  , ⟨0x120, 3, 3, .RL, 0x0, "LPX_WAIT"⟩
  , ⟨0x120, 4, 4, .RL, 0x0, "SHARD_FAULT"⟩
  , ⟨0x120, 5, 5, .RL, 0x0, "INVALID"⟩
  , ⟨0x120, 6, 6, .RL, 0x0, "OVERFLOW"⟩
  , ⟨0x120, 7, 7, .RL, 0x0, "SATURATED"⟩
  , ⟨0x120, 8, 8, .RL, 0x0, "WAIT_LONG"⟩
  , ⟨0x120, 9, 9, .RL, 0x0, "DISABLING"⟩
  , ⟨0x120, 39, 16, .RL, 0x0, "SHARD"⟩
  , ⟨0x128, 23, 0, .RO, 0x0, "FAULT_SHARD"⟩
  , ⟨0x128, 27, 24, .RO, 0x0, "FAULT_CODE"⟩
  , ⟨0x130, 11, 0, .WC, 0x0, "TENSOR"⟩
  , ⟨0x138, 2, 0, .RO, 0x0, "TFLAGS"⟩ ]

/-- R279 of 09_continuity.md. -/
def savRows : List FieldRow :=
  [ ⟨0x100, 51, 6, .RW, 0x0, "PLAN_BASE"⟩
  , ⟨0x108, 51, 7, .RWD, 0x0, "SLOT0_BASE"⟩
  , ⟨0x110, 51, 7, .RWD, 0x0, "SLOT1_BASE"⟩
  , ⟨0x118, 51, 7, .RWD, 0x0, "SLOT_SIZE"⟩
  , ⟨0x120, 15, 0, .RWD, 0x0, "START_TOKEN"⟩
  , ⟨0x120, 31, 16, .RWD, 0x0, "RELEASE_TOKEN"⟩
  , ⟨0x120, 47, 32, .RWD, 0x0, "DONE_TOKEN"⟩
  , ⟨0x128, 31, 0, .RWD, 0x1, "RELEASE_VALUE"⟩
  , ⟨0x128, 41, 32, .RWD, 0x3E8, "RATE_LIMIT"⟩
  , ⟨0x130, 0, 0, .RW, 0x0, "COPY_OUT"⟩
  , ⟨0x130, 51, 7, .RW, 0x0, "HOST_DEST"⟩
  , ⟨0x138, 3, 0, .WC, 0x0, "OP"⟩
  , ⟨0x138, 4, 4, .WC, 0x0, "RESTORE_JOURNAL"⟩
  , ⟨0x138, 5, 5, .WC, 0x0, "SUBSTITUTED"⟩
  , ⟨0x140, 51, 7, .RW, 0x0, "RESTORE_BASE"⟩
  , ⟨0x148, 0, 0, .RL, 0x0, "WAIT_START"⟩
  , ⟨0x148, 1, 1, .RL, 0x0, "SAVING"⟩
  , ⟨0x148, 2, 2, .RL, 0x0, "RESTORING"⟩
  , ⟨0x148, 3, 3, .RL, 0x0, "SAVE_FAULT"⟩
  , ⟨0x148, 4, 4, .RL, 0x0, "RESTORE_REFUSED"⟩
  , ⟨0x148, 5, 5, .RL, 0x0, "COPYOUT_ABORTED"⟩
  , ⟨0x148, 6, 6, .RL, 0x0, "JRN_FULL"⟩
  , ⟨0x148, 7, 7, .RL, 0x0, "DISABLING"⟩
  , ⟨0x148, 11, 8, .RL, 0x0, "FAULT_CODE"⟩
  , ⟨0x148, 12, 12, .RL, 0x0, "NEWEST_SLOT"⟩
  , ⟨0x150, 31, 0, .RO, 0x0, "SLOT0_STEP"⟩
  , ⟨0x150, 63, 32, .RO, 0x0, "SLOT1_STEP"⟩
  , ⟨0x158, 51, 7, .RWD, 0x0, "JRN_BASE"⟩
  , ⟨0x160, 31, 0, .RWD, 0x0, "JRN_LEN"⟩
  , ⟨0x168, 63, 0, .RO, 0x0, "JRN_NEXT_SEQ"⟩
  , ⟨0x170, 0, 0, .WC, 0x0, "APPEND"⟩
  , ⟨0x180, 63, 0, .RW, 0x0, "JRN_STAGE0"⟩
  , ⟨0x188, 63, 0, .RW, 0x0, "JRN_STAGE0"⟩
  , ⟨0x190, 63, 0, .RW, 0x0, "JRN_STAGE0"⟩
  , ⟨0x198, 63, 0, .RW, 0x0, "JRN_STAGE0"⟩
  , ⟨0x1A0, 63, 0, .RW, 0x0, "JRN_STAGE0"⟩
  , ⟨0x1A8, 63, 0, .RW, 0x0, "JRN_STAGE0"⟩
  , ⟨0x1B0, 63, 0, .RW, 0x0, "JRN_STAGE0"⟩
  , ⟨0x1B8, 63, 0, .RW, 0x0, "JRN_STAGE0"⟩
  , ⟨0x1C0, 63, 0, .RW, 0x0, "JRN_STAGE0"⟩
  , ⟨0x1C8, 63, 0, .RW, 0x0, "JRN_STAGE0"⟩
  , ⟨0x1D0, 63, 0, .RW, 0x0, "JRN_STAGE0"⟩
  , ⟨0x1D8, 63, 0, .RW, 0x0, "JRN_STAGE0"⟩
  , ⟨0x1E0, 63, 0, .RW, 0x0, "JRN_STAGE0"⟩
  , ⟨0x1E8, 63, 0, .RW, 0x0, "JRN_STAGE0"⟩ ]

/-- R281 of 09_continuity.md. -/
def siteRows : List FieldRow :=
  [ ⟨0x100, 5, 0, .WC, 0x0, "SITE"⟩
  , ⟨0x100, 9, 8, .WC, 0x0, "OP"⟩
  , ⟨0x108, 63, 0, .RL, 0x0, "STATE_LO"⟩
  , ⟨0x110, 39, 0, .RL, 0x0, "STATE_HI"⟩
  , ⟨0x118, 5, 0, .WC, 0x0, "SEL"⟩
  , ⟨0x120, 3, 0, .RO, 0x0, "INCARNATION"⟩
  , ⟨0x120, 5, 4, .RO, 0x0, "READMITS"⟩
  , ⟨0x120, 9, 8, .RO, 0x0, "CAUSE"⟩
  , ⟨0x120, 10, 10, .RL, 0x0, "IGNORED"⟩ ]

/-- R312 of 10_onchip_memory.md. -/
def bankRows : List FieldRow :=
  [ ⟨0x100, 15, 0, .RWD, 0x1, "TEST_PERIOD"⟩
  , ⟨0x108, 7, 0, .RW, 0x0, "BANK"⟩
  , ⟨0x110, 1, 0, .RWD, 0x0, "MODE"⟩
  , ⟨0x110, 2, 2, .RWD, 0x0, "RETAIN_IDLE"⟩
  , ⟨0x118, 1, 0, .RL, 0x0, "POWER"⟩
  , ⟨0x118, 14, 8, .RO, 0x0, "SPARES_USED"⟩
  , ⟨0x118, 16, 16, .RL, 0x0, "PINNED"⟩
  , ⟨0x118, 17, 17, .RL, 0x0, "DEGRADED"⟩
  , ⟨0x118, 18, 18, .RL, 0x0, "UNDER_TEST"⟩
  , ⟨0x120, 0, 0, .RL, 0x0, "WAKING"⟩
  , ⟨0x120, 1, 1, .RL, 0x0, "DEGRADED"⟩
  , ⟨0x120, 2, 2, .RL, 0x0, "FILLING"⟩
  , ⟨0x120, 3, 3, .RL, 0x0, "DISABLING"⟩
  , ⟨0x120, 11, 8, .RL, 0x0, "PINS_USED"⟩
  , ⟨0x120, 24, 16, .RL, 0x0, "CACHE_BANKS"⟩ ]

/-- R314 of 10_onchip_memory.md. -/
def homeRows : List FieldRow :=
  [ ⟨0x100, 7, 0, .RWD, 0x10, "AGE_THRESHOLD"⟩
  , ⟨0x100, 23, 8, .RWD, 0xA, "SNOOP_LIMIT"⟩
  , ⟨0x108, 8, 0, .WC, 0x0, "AGENT"⟩
  , ⟨0x110, 0, 0, .RL, 0x0, "RECLAIMING"⟩
  , ⟨0x110, 1, 1, .RL, 0x0, "SNOOP_LATE"⟩
  , ⟨0x110, 2, 2, .RL, 0x0, "AGED_WAITING"⟩
  , ⟨0x110, 3, 3, .RL, 0x0, "IGNORED"⟩
  , ⟨0x110, 14, 8, .RL, 0x0, "TXN_USED"⟩
  , ⟨0x110, 24, 16, .RL, 0x0, "LATE_AGENT"⟩
  , ⟨0x118, 15, 0, .RL, 0x0, "DIR_USED"⟩ ]

/-- R336 of 11_memory_tiers.md. -/
def hbmRows : List FieldRow :=
  [ ⟨0x100, 19, 0, .RWD, 0x3E8, "SCRUB_NS"⟩
  , ⟨0x100, 27, 20, .RWD, 0x55, "HOT_C"⟩
  , ⟨0x108, 0, 0, .RL, 0x0, "TRAINED"⟩
  , ⟨0x108, 1, 1, .RL, 0x0, "TRAIN_FAIL"⟩
  , ⟨0x108, 2, 2, .RL, 0x0, "FILLING"⟩
  , ⟨0x108, 3, 3, .RL, 0x0, "HOT_REFRESH"⟩
  , ⟨0x108, 4, 4, .RL, 0x0, "PIN_SUSPECT"⟩
  , ⟨0x108, 15, 8, .RL, 0x0, "TEMP_C"⟩
  , ⟨0x108, 21, 16, .RL, 0x0, "LAST_PIN"⟩
  , ⟨0x108, 26, 22, .RL, 0x0, "LAST_PC"⟩
  , ⟨0x110, 51, 7, .RO, 0x0, "ERR_LINE"⟩
  , ⟨0x118, 31, 0, .RO, 0x0, "SCRUB_POS"⟩ ]

/-- R338 of 11_memory_tiers.md. -/
def lpxRows : List FieldRow :=
  [ ⟨0x100, 19, 0, .RWD, 0x3E8, "SCRUB_NS"⟩
  , ⟨0x108, 0, 0, .RL, 0x0, "TRAINED"⟩
  , ⟨0x108, 1, 1, .RL, 0x0, "TRAIN_FAIL"⟩
  , ⟨0x108, 2, 2, .RL, 0x0, "FILLING"⟩
  , ⟨0x108, 3, 3, .RL, 0x0, "PIN_SUSPECT"⟩
  , ⟨0x108, 12, 8, .RL, 0x0, "LAST_PKG"⟩
  , ⟨0x108, 21, 16, .RL, 0x0, "LAST_PIN"⟩
  , ⟨0x110, 51, 7, .RO, 0x0, "ERR_LINE"⟩
  , ⟨0x118, 31, 0, .RO, 0x0, "SCRUB_POS"⟩ ]

/-- R359 of 12_package_and_die_links.md. -/
def pkgRows : List FieldRow :=
  [ ⟨0x100, 7, 0, .RO, 0x0, "FLOOR"⟩
  , ⟨0x108, 5, 0, .RW, 0x0, "DIE"⟩
  , ⟨0x110, 3, 0, .RO, 0x0, "STEPPING"⟩
  , ⟨0x110, 15, 8, .RO, 0x0, "FEATURE_LEVEL"⟩
  , ⟨0x110, 16, 16, .RL, 0x0, "PRESENT"⟩
  , ⟨0x118, 63, 0, .RO, 0x0, "SERIAL"⟩
  , ⟨0x120, 1, 0, .WC, 0x0, "OP"⟩ ]

/-- R361 of 12_package_and_die_links.md. -/
def plinkRows : List FieldRow :=
  [ ⟨0x100, 1, 0, .RWD, 0x0, "MAX_WIDTH"⟩
  , ⟨0x100, 15, 8, .RWD, 0x3, "DEGRADE_LIMIT"⟩
  , ⟨0x100, 31, 16, .RWD, 0x40, "DEGRADE_WINDOW"⟩
  , ⟨0x108, 1, 0, .WC, 0x0, "OP"⟩
  , ⟨0x110, 0, 0, .RL, 0x0, "UP"⟩
  , ⟨0x110, 1, 1, .RL, 0x0, "TRAINING"⟩
  , ⟨0x110, 2, 2, .RL, 0x0, "HOLD"⟩
  , ⟨0x110, 3, 3, .RL, 0x0, "DEGRADED"⟩
  , ⟨0x110, 4, 4, .RL, 0x0, "IGNORED"⟩
  , ⟨0x110, 6, 5, .RL, 0x0, "WIDTH"⟩
  , ⟨0x110, 8, 7, .RL, 0x0, "PEER_WIDTH"⟩
  , ⟨0x110, 23, 16, .RL, 0x0, "GROUPS_OK"⟩
  , ⟨0x110, 31, 24, .RL, 0x0, "EPOCH"⟩
  , ⟨0x110, 35, 32, .RL, 0x0, "DISAGREE_RUN"⟩ ]

/-- R363 of 12_package_and_die_links.md. -/
def bondRows : List FieldRow :=
  [ ⟨0x100, 3, 0, .RW, 0x0, "SITE"⟩
  , ⟨0x100, 4, 4, .RW, 0x0, "PORT"⟩
  , ⟨0x108, 0, 0, .RL, 0x0, "UP"⟩
  , ⟨0x108, 1, 1, .RL, 0x0, "TRAINING"⟩
  , ⟨0x108, 2, 2, .RL, 0x0, "LIVE_REPAIR"⟩
  , ⟨0x108, 15, 8, .RL, 0x0, "SPARES_OUT"⟩
  , ⟨0x108, 23, 16, .RL, 0x0, "SPARES_IN"⟩ ]

/-- R391 of 13_ladder_and_collectives.md. -/
def ladRows : List FieldRow :=
  [ ⟨0x100, 0, 0, .RWD, 0x0, "MAX_WIDTH"⟩
  , ⟨0x100, 15, 8, .RWD, 0x3, "DEGRADE_LIMIT"⟩
  , ⟨0x100, 31, 16, .RWD, 0x40, "DEGRADE_WINDOW"⟩
  , ⟨0x108, 63, 0, .RWD, 0x0, "CHAIN_ID"⟩
  , ⟨0x110, 1, 0, .WC, 0x0, "OP"⟩
  , ⟨0x110, 2, 2, .WC, 0x0, "SC_SEND"⟩
  , ⟨0x110, 3, 3, .WC, 0x0, "SC_POP"⟩
  , ⟨0x118, 0, 0, .RL, 0x0, "UP"⟩
  , ⟨0x118, 1, 1, .RL, 0x0, "TRAINING"⟩
  , ⟨0x118, 2, 2, .RL, 0x0, "HOLD"⟩
  , ⟨0x118, 3, 3, .RL, 0x0, "DOWN"⟩
  , ⟨0x118, 4, 4, .RL, 0x0, "WIDTH"⟩
  , ⟨0x118, 5, 5, .RL, 0x0, "PEER_WIDTH"⟩
  , ⟨0x118, 6, 6, .RL, 0x0, "PARTNER_MISMATCH"⟩
  , ⟨0x118, 7, 7, .RL, 0x0, "SC_TX_BUSY"⟩
  , ⟨0x118, 12, 8, .RL, 0x0, "SC_RX_USED"⟩
  , ⟨0x118, 14, 13, .RL, 0x0, "STREAM_MISMATCH"⟩
  , ⟨0x118, 23, 16, .RL, 0x0, "EPOCH"⟩
  , ⟨0x118, 31, 24, .RL, 0x0, "LANES_OK"⟩
  , ⟨0x120, 31, 0, .RO, 0x0, "HOP_PS"⟩
  , ⟨0x128, 63, 0, .RO, 0x0, "PEER_SERIAL"⟩
  , ⟨0x130, 2, 0, .RO, 0x0, "PEER_PORT"⟩
  , ⟨0x130, 15, 8, .RO, 0x0, "PEER_FLOOR"⟩
  , ⟨0x138, 63, 0, .RO, 0x0, "PEER_CHAIN_ID"⟩
  , ⟨0x140, 63, 0, .RW, 0x0, "SC_TX0"⟩
  , ⟨0x148, 63, 0, .RW, 0x0, "SC_TX0"⟩
  , ⟨0x150, 63, 0, .RW, 0x0, "SC_TX0"⟩
  , ⟨0x158, 63, 0, .RW, 0x0, "SC_TX0"⟩
  , ⟨0x160, 63, 0, .RW, 0x0, "SC_TX0"⟩
  , ⟨0x168, 63, 0, .RW, 0x0, "SC_TX0"⟩
  , ⟨0x170, 5, 0, .RW, 0x0, "SC_TX_LEN"⟩
  , ⟨0x178, 63, 0, .RO, 0x0, "SC_RX0"⟩
  , ⟨0x180, 63, 0, .RO, 0x0, "SC_RX0"⟩
  , ⟨0x188, 63, 0, .RO, 0x0, "SC_RX0"⟩
  , ⟨0x190, 63, 0, .RO, 0x0, "SC_RX0"⟩
  , ⟨0x198, 63, 0, .RO, 0x0, "SC_RX0"⟩
  , ⟨0x1A0, 63, 0, .RO, 0x0, "SC_RX0"⟩
  , ⟨0x1A8, 5, 0, .RO, 0x0, "SC_RX_LEN"⟩ ]

/-- R394 of 13_ladder_and_collectives.md. -/
def cmpRows : List FieldRow :=
  [ ⟨0x100, 51, 6, .RWD, 0x0, "STEP_BASE"⟩
  , ⟨0x108, 23, 0, .RWD, 0x0, "STEP_COUNT"⟩
  , ⟨0x108, 39, 24, .RWD, 0x0, "WAIT_LIMIT"⟩
  , ⟨0x110, 0, 0, .WC, 0x0, "START"⟩
  , ⟨0x118, 0, 0, .RL, 0x0, "RUNNING"⟩
  , ⟨0x118, 1, 1, .RL, 0x0, "WAIT_TOKEN"⟩
  , ⟨0x118, 2, 2, .RL, 0x0, "WAIT_IN"⟩
  , ⟨0x118, 3, 3, .RL, 0x0, "TABLE_WAIT"⟩
  , ⟨0x118, 4, 4, .RL, 0x0, "STREAM_BROKEN"⟩
  , ⟨0x118, 5, 5, .RL, 0x0, "STEP_FAULT"⟩
  , ⟨0x118, 6, 6, .RL, 0x0, "INVALID"⟩
  , ⟨0x118, 7, 7, .RL, 0x0, "OVERFLOW"⟩
  , ⟨0x118, 8, 8, .RL, 0x0, "SATURATED"⟩
  , ⟨0x118, 9, 9, .RL, 0x0, "WAIT_LONG"⟩
  , ⟨0x118, 10, 10, .RL, 0x0, "DONE"⟩
  , ⟨0x118, 11, 11, .RL, 0x0, "DISABLING"⟩
  , ⟨0x118, 39, 16, .RL, 0x0, "STEP"⟩ ]

/-- R416 of 14_host_link.md, R466 of 17_security_and_boot.md. -/
def nclRows : List FieldRow :=
  [ ⟨0x100, 0, 0, .RW, 0x0, "WINDOW_EN"⟩
  , ⟨0x100, 30, 16, .RWD, 0x0, "WIN_GIB"⟩
  , ⟨0x108, 0, 0, .RW, 0x0, "AUTO_ADOPT"⟩
  , ⟨0x108, 15, 8, .RW, 0x0, "EVENT_VECTOR"⟩
  , ⟨0x108, 47, 16, .RW, 0x0, "DECIDE_TIMEOUT_MS"⟩
  , ⟨0x110, 0, 0, .RL, 0x0, "UP"⟩
  , ⟨0x110, 1, 1, .RL, 0x0, "DECIDE"⟩
  , ⟨0x110, 2, 2, .RL, 0x0, "RESUME_PENDING"⟩
  , ⟨0x110, 3, 3, .RL, 0x0, "EGRESS_HELD"⟩
  , ⟨0x110, 4, 4, .RL, 0x0, "EGRESS_FULL"⟩
  , ⟨0x110, 5, 5, .RL, 0x0, "IGNORED"⟩
  , ⟨0x110, 6, 6, .RL, 0x0, "HALF_WIDTH"⟩
  , ⟨0x110, 7, 7, .RL, 0x0, "MBX_FULL"⟩
  , ⟨0x118, 31, 0, .RO, 0x0, "EPOCH"⟩
  , ⟨0x120, 1, 0, .WC, 0x0, "OP"⟩
  , ⟨0x120, 63, 32, .WC, 0x0, "EPOCH"⟩
  , ⟨0x128, 63, 0, .RO, 0x0, "SEQ"⟩
  , ⟨0x130, 39, 0, .RO, 0x0, "HELD_BYTES"⟩
  , ⟨0x138, 0, 0, .WC, 0x0, "WARM_RESET"⟩
  , ⟨0x138, 63, 32, .WC, 0x0, "EPOCH"⟩
  , ⟨0x800, 63, 0, .RO, 0x0, "RESUME0"⟩
  , ⟨0x808, 63, 0, .RO, 0x0, "RESUME0"⟩
  , ⟨0x810, 63, 0, .RO, 0x0, "RESUME0"⟩
  , ⟨0x818, 63, 0, .RO, 0x0, "RESUME0"⟩
  , ⟨0x820, 63, 0, .RO, 0x0, "RESUME0"⟩
  , ⟨0x828, 63, 0, .RO, 0x0, "RESUME0"⟩
  , ⟨0x830, 63, 0, .RO, 0x0, "RESUME0"⟩
  , ⟨0x838, 63, 0, .RO, 0x0, "RESUME0"⟩
  , ⟨0x840, 63, 0, .RO, 0x0, "RESUME0"⟩
  , ⟨0x848, 63, 0, .RO, 0x0, "RESUME0"⟩
  , ⟨0x850, 63, 0, .RO, 0x0, "RESUME0"⟩
  , ⟨0x858, 63, 0, .RO, 0x0, "RESUME0"⟩
  , ⟨0x860, 63, 0, .RO, 0x0, "RESUME0"⟩
  , ⟨0x868, 63, 0, .RO, 0x0, "RESUME0"⟩
  , ⟨0x870, 63, 0, .RO, 0x0, "RESUME0"⟩
  , ⟨0x878, 63, 0, .RO, 0x0, "RESUME0"⟩
  , ⟨0x3000, 63, 0, .RO, 0x0, "MBX0"⟩
  , ⟨0x3008, 63, 0, .RO, 0x0, "MBX0"⟩
  , ⟨0x3010, 63, 0, .RO, 0x0, "MBX0"⟩
  , ⟨0x3018, 63, 0, .RO, 0x0, "MBX0"⟩
  , ⟨0x3020, 63, 0, .RO, 0x0, "MBX0"⟩
  , ⟨0x3028, 63, 0, .RO, 0x0, "MBX0"⟩
  , ⟨0x3030, 0, 0, .WC, 0x0, "MBX_POP"⟩
  , ⟨0x3038, 6, 0, .RL, 0x0, "MBX_USED"⟩
  , ⟨0x900, 63, 0, .RW, 0x0, "RECOV_ADDR"⟩
  , ⟨0x908, 24, 0, .RW, 0x0, "RECOV_LEN"⟩
  , ⟨0x910, 0, 0, .WC, 0x0, "RECOV_GO"⟩
  , ⟨0x918, 0, 0, .RL, 0x0, "WAITING"⟩
  , ⟨0x918, 1, 1, .RL, 0x0, "READING"⟩
  , ⟨0x918, 10, 8, .RL, 0x0, "REASON"⟩ ]

/-- R416 of 14_host_link.md. -/
def ringRows : List FieldRow :=
  [ ⟨0x000, 0, 0, .RW, 0x0, "RING_EN"⟩
  , ⟨0x000, 5, 1, .RWD, 0x0, "LOG2_SLOTS"⟩
  , ⟨0x000, 15, 8, .RWD, 0x0, "VECTOR"⟩
  , ⟨0x008, 51, 6, .RWD, 0x0, "SQ_BASE"⟩
  , ⟨0x010, 51, 6, .RWD, 0x0, "CQ_BASE"⟩
  , ⟨0x018, 31, 0, .WC, 0x0, "DOORBELL"⟩
  , ⟨0x020, 31, 0, .WC, 0x0, "CQ_HEAD"⟩
  , ⟨0x028, 31, 0, .RO, 0x0, "C"⟩
  , ⟨0x028, 63, 32, .RO, 0x0, "CQ_TAIL"⟩
  , ⟨0x030, 0, 0, .RL, 0x0, "ACTIVE"⟩
  , ⟨0x030, 1, 1, .RL, 0x0, "STALE_WAIT"⟩
  , ⟨0x030, 2, 2, .RL, 0x0, "CHECK_FAIL"⟩
  , ⟨0x030, 3, 3, .RL, 0x0, "RING_ERROR"⟩
  , ⟨0x030, 4, 4, .RL, 0x0, "CQ_FULL"⟩ ]

/-- R441 of 15_input_pipeline.md. -/
def itkRows : List FieldRow :=
  [ ⟨0x100, 51, 7, .RWD, 0x0, "BATCH_BASE"⟩
  , ⟨0x108, 15, 0, .RWD, 0x0, "BATCH_COUNT"⟩
  , ⟨0x108, 19, 16, .RWD, 0x0, "RANK"⟩
  , ⟨0x108, 47, 32, .RWD, 0x0, "WAIT_LIMIT"⟩
  , ⟨0x110, 15, 0, .RWD, 0x0, "START_TOKEN"⟩
  , ⟨0x110, 31, 16, .RWD, 0x0, "DONE_TOKEN"⟩
  , ⟨0x118, 51, 12, .RWD, 0x0, "WORK_BASE"⟩
  , ⟨0x120, 27, 0, .RWD, 0x0, "WORK_PAGES"⟩
  , ⟨0x128, 15, 0, .RWD, 0x0, "MAX_WIDTH"⟩
  , ⟨0x128, 31, 16, .RWD, 0x0, "MAX_HEIGHT"⟩
  , ⟨0x128, 63, 32, .RWD, 0x0, "MAX_RECORD_BYTES"⟩
  , ⟨0x130, 31, 0, .RWD, 0x0, "WORK_BUDGET"⟩
  , ⟨0x130, 32, 32, .RWD, 0x0, "SLOW_POLICY"⟩
  , ⟨0x130, 33, 33, .RWD, 0x0, "SAT_MODE"⟩
  , ⟨0x138, 0, 0, .RL, 0x0, "WAIT_START"⟩
  , ⟨0x138, 1, 1, .RL, 0x0, "RUNNING"⟩
  , ⟨0x138, 2, 2, .RL, 0x0, "JRN_WAIT"⟩
  , ⟨0x138, 3, 3, .RL, 0x0, "BATCH_FAULT"⟩
  , ⟨0x138, 4, 4, .RL, 0x0, "INVALID"⟩
  , ⟨0x138, 5, 5, .RL, 0x0, "OVERFLOW"⟩
  , ⟨0x138, 6, 6, .RL, 0x0, "SATURATED"⟩
  , ⟨0x138, 7, 7, .RL, 0x0, "WAIT_LONG"⟩
  , ⟨0x138, 8, 8, .RL, 0x0, "DISABLING"⟩
  , ⟨0x138, 11, 9, .RL, 0x0, "FAULT_CODE"⟩
  , ⟨0x138, 47, 16, .RL, 0x0, "POSITION"⟩
  , ⟨0x140, 31, 0, .RWD, 0x0, "RUN"⟩ ]

/-- R461 of 16_faults_and_score_sheet.md. -/
def sshRows : List FieldRow :=
  [ ⟨0x100, 3, 0, .RW, 0xC, "IRQ_MASK"⟩
  , ⟨0x108, 31, 0, .RO, 0x1, "NEXT_SEQ"⟩
  , ⟨0x108, 63, 32, .RO, 0x1, "OLDEST_SEQ"⟩
  , ⟨0x110, 31, 0, .RW, 0x0, "SEL"⟩
  , ⟨0x118, 63, 0, .RO, 0x0, "REC0"⟩
  , ⟨0x120, 63, 0, .RO, 0x0, "REC0"⟩
  , ⟨0x128, 63, 0, .RO, 0x0, "REC0"⟩
  , ⟨0x130, 63, 0, .RO, 0x0, "REC0"⟩
  , ⟨0x138, 0, 0, .RL, 0x0, "FROZEN"⟩
  , ⟨0x138, 2, 1, .RL, 0x0, "FREEZE_CAUSE"⟩
  , ⟨0x138, 3, 3, .RL, 0x0, "FLUSHING"⟩
  , ⟨0x138, 4, 4, .RL, 0x0, "GONE"⟩
  , ⟨0x138, 5, 5, .RL, 0x0, "REC_POISON"⟩
  , ⟨0x138, 12, 6, .RL, 0x0, "QUEUE_USED"⟩
  , ⟨0x140, 1, 0, .WC, 0x0, "OP"⟩
  , ⟨0x148, 0, 0, .RL, 0x0, "FATAL"⟩
  , ⟨0x148, 25, 16, .RL, 0x0, "FATAL_CODE"⟩
  , ⟨0x148, 34, 32, .RL, 0x0, "FATAL_ORIGIN"⟩ ]

/-- R475 of 17_security_and_boot.md. -/
def secRows : List FieldRow :=
  [ ⟨0x100, 0, 0, .RO, 0x0, "REQUIRE_SIGNED"⟩
  , ⟨0x100, 6, 4, .RO, 0x0, "KEY_COUNT"⟩
  , ⟨0x108, 0, 0, .RL, 0x0, "FW_VERIFIED"⟩
  , ⟨0x108, 1, 1, .RL, 0x0, "RECOVERY"⟩
  , ⟨0x108, 2, 2, .RL, 0x0, "IDENTITY_OK"⟩
  , ⟨0x108, 3, 3, .RL, 0x1, "CLEAN"⟩
  , ⟨0x108, 4, 4, .RL, 0x0, "BUSY"⟩
  , ⟨0x108, 5, 5, .RL, 0x0, "REFUSED"⟩
  , ⟨0x110, 1, 0, .WC, 0x0, "OP"⟩
  , ⟨0x118, 51, 7, .RW, 0x0, "REPORT_ADDR"⟩
  , ⟨0x120, 63, 0, .RW, 0x0, "NONCE0"⟩
  , ⟨0x128, 63, 0, .RW, 0x0, "NONCE0"⟩
  , ⟨0x130, 63, 0, .RW, 0x0, "NONCE0"⟩
  , ⟨0x138, 63, 0, .RW, 0x0, "NONCE0"⟩
  , ⟨0x140, 63, 0, .RO, 0x0, "FW_DIGEST0"⟩
  , ⟨0x148, 63, 0, .RO, 0x0, "FW_DIGEST0"⟩
  , ⟨0x150, 63, 0, .RO, 0x0, "FW_DIGEST0"⟩
  , ⟨0x158, 63, 0, .RO, 0x0, "FW_DIGEST0"⟩
  , ⟨0x160, 63, 0, .RO, 0x0, "FW_DIGEST0"⟩
  , ⟨0x168, 63, 0, .RO, 0x0, "FW_DIGEST0"⟩
  , ⟨0x170, 63, 0, .RO, 0x0, "FW_DIGEST0"⟩
  , ⟨0x178, 63, 0, .RO, 0x0, "FW_DIGEST0"⟩
  , ⟨0x180, 63, 0, .RO, 0x0, "SIGNER0"⟩
  , ⟨0x188, 63, 0, .RO, 0x0, "SIGNER0"⟩
  , ⟨0x190, 63, 0, .RO, 0x0, "SIGNER0"⟩
  , ⟨0x198, 63, 0, .RO, 0x0, "SIGNER0"⟩
  , ⟨0x1A0, 63, 0, .RO, 0x0, "SIGNER0"⟩
  , ⟨0x1A8, 63, 0, .RO, 0x0, "SIGNER0"⟩
  , ⟨0x1B0, 63, 0, .RO, 0x0, "SIGNER0"⟩
  , ⟨0x1B8, 63, 0, .RO, 0x0, "SIGNER0"⟩
  , ⟨0x1C0, 63, 0, .RO, 0x0, "SIGNER0"⟩
  , ⟨0x1C8, 63, 0, .RO, 0x0, "SIGNER0"⟩
  , ⟨0x1D0, 63, 0, .RO, 0x0, "SIGNER0"⟩
  , ⟨0x1D8, 63, 0, .RO, 0x0, "SIGNER0"⟩
  , ⟨0x1E0, 63, 0, .RO, 0x0, "SIGNER0"⟩
  , ⟨0x1E8, 63, 0, .RO, 0x0, "SIGNER0"⟩
  , ⟨0x1F0, 63, 0, .RO, 0x0, "SIGNER0"⟩
  , ⟨0x1F8, 63, 0, .RO, 0x0, "SIGNER0"⟩
  , ⟨0x200, 63, 0, .RO, 0x0, "ID_DIGEST0"⟩
  , ⟨0x208, 63, 0, .RO, 0x0, "ID_DIGEST0"⟩
  , ⟨0x210, 63, 0, .RO, 0x0, "ID_DIGEST0"⟩
  , ⟨0x218, 63, 0, .RO, 0x0, "ID_DIGEST0"⟩
  , ⟨0x220, 31, 0, .RO, 0x0, "SVN"⟩ ]

/-- Offsets of the counter holding registers: R98 of 03_matrix_engine.md. -/
def engHolds : List Nat :=
  [0x140, 0x148, 0x150, 0x158, 0x160, 0x168, 0x170, 0x178, 0x180, 0x188]

/-- Offsets of the counter holding registers: R162 of 05_compute_core.md. -/
def coreHolds : List Nat :=
  [0x140, 0x148, 0x150, 0x158, 0x160, 0x168, 0x170, 0x178, 0x180, 0x188, 0x190, 0x198, 0x1A0, 0x1A8, 0x1B0, 0x1B8, 0x1C0, 0x1C8, 0x1D0]

/-- Offsets of the counter holding registers: R198 of 06_layout_and_pipelines.md. -/
def layoutHolds : List Nat :=
  [0x180, 0x188, 0x190]

/-- Offsets of the counter holding registers: R200 of 06_layout_and_pipelines.md. -/
def tokHolds : List Nat :=
  [0x140, 0x148, 0x150, 0x158, 0x160, 0x168, 0x170]

/-- Offsets of the counter holding registers: R221 of 07_turns_and_energy.md. -/
def trnHolds : List Nat :=
  [0x140, 0x148, 0x150, 0x158, 0x160, 0x168, 0x170]

/-- Offsets of the counter holding registers: R223 of 07_turns_and_energy.md. -/
def nrgHolds : List Nat :=
  [0x180, 0x188, 0x190, 0x198, 0x1A0, 0x1A8]

/-- Offsets of the counter holding registers: R252 of 08_training_state.md. -/
def swpHolds : List Nat :=
  [0x140, 0x148, 0x150, 0x158, 0x160, 0x168, 0x170, 0x178, 0x180]

/-- Offsets of the counter holding registers: R280 of 09_continuity.md. -/
def savHolds : List Nat :=
  [0x200, 0x208, 0x210]

/-- Offsets of the counter holding registers: R282 of 09_continuity.md. -/
def siteHolds : List Nat :=
  [0x140, 0x148]

/-- Offsets of the counter holding registers: R313 of 10_onchip_memory.md. -/
def bankHolds : List Nat :=
  [0x140, 0x148, 0x150, 0x158, 0x160, 0x168, 0x170, 0x178, 0x180, 0x188]

/-- Offsets of the counter holding registers: R315 of 10_onchip_memory.md. -/
def homeHolds : List Nat :=
  [0x140, 0x148, 0x150, 0x158, 0x160, 0x168, 0x170, 0x178, 0x180]

/-- Offsets of the counter holding registers: R337 of 11_memory_tiers.md. -/
def hbmHolds : List Nat :=
  [0x140, 0x148, 0x150, 0x158, 0x160, 0x168, 0x170]

/-- Offsets of the counter holding registers: R339 of 11_memory_tiers.md. -/
def lpxHolds : List Nat :=
  [0x140, 0x148, 0x150, 0x158, 0x160, 0x168, 0x170]

/-- Offsets of the counter holding registers: R362 of 12_package_and_die_links.md. -/
def plinkHolds : List Nat :=
  [0x140, 0x148, 0x150, 0x158, 0x160, 0x168, 0x170, 0x178]

/-- Offsets of the counter holding registers: R364 of 12_package_and_die_links.md. -/
def bondHolds : List Nat :=
  [0x140, 0x148, 0x150]

/-- Offsets of the counter holding registers: R393 of 13_ladder_and_collectives.md. -/
def ladHolds : List Nat :=
  [0x1B0, 0x1B8, 0x1C0, 0x1C8, 0x1D0, 0x1D8, 0x1E0, 0x1E8, 0x1F0]

/-- Offsets of the counter holding registers: R395 of 13_ladder_and_collectives.md. -/
def cmpHolds : List Nat :=
  [0x140, 0x148, 0x150, 0x158, 0x160, 0x168, 0x170, 0x178]

/-- Offsets of the counter holding registers: R417 of 14_host_link.md. -/
def nclHolds : List Nat :=
  [0x140, 0x148, 0x150, 0x158]

/-- Offsets of the counter holding registers: R442 of 15_input_pipeline.md. -/
def itkHolds : List Nat :=
  [0x148, 0x150, 0x158, 0x160, 0x168, 0x170, 0x178, 0x180]

/-- Offsets of the counter holding registers: R462 of 16_faults_and_score_sheet.md. -/
def sshHolds : List Nat :=
  [0x180, 0x188, 0x190]

/-- Offsets of the counter holding registers: R476 of 17_security_and_boot.md. -/
def secHolds : List Nat :=
  [0x240, 0x248, 0x250]

/-- The register table of a block kind, the common registers aside. -/
def Kind.rows : Kind → List FieldRow
  | .eng => engRows
  | .core => coreRows
  | .bankCore | .bankTile => bankRows
  | .tok => tokRows
  | .trnTile => trnRows.filter fun r => r.off != 0x100 && r.off != 0x110 && r.off != 0x120
  | .trnHub => trnRows
  | .mesh => []
  | .bond => bondRows
  | .sshTile => sshRows.filter fun r => r.off != 0x148
  | .sshHub => sshRows
  | .home => homeRows
  | .hbm => hbmRows
  | .swp => swpRows
  | .plink => plinkRows
  | .nrg => nrgRows
  | .lpx => lpxRows
  | .sav => savRows
  | .ncl => nclRows
  | .sec => secRows
  | .layout => layoutRows
  | .site => siteRows
  | .pkg => pkgRows
  | .lad => ladRows
  | .cmp => cmpRows
  | .itk => itkRows

/-- The counters of a block kind, by the offset of their holding register. -/
def Kind.holds : Kind → List Nat
  | .eng => engHolds
  | .core => coreHolds
  | .bankCore | .bankTile => bankHolds
  | .tok => tokHolds
  | .trnTile | .trnHub => trnHolds
  | .mesh | .pkg => []
  | .bond => bondHolds
  | .sshTile | .sshHub => sshHolds
  | .home => homeHolds
  | .hbm => hbmHolds
  | .swp => swpHolds
  | .plink => plinkHolds
  | .nrg => nrgHolds
  | .lpx => lpxHolds
  | .sav => savHolds
  | .ncl => nclHolds
  | .sec => secHolds
  | .layout => layoutHolds
  | .site => siteHolds
  | .lad => ladHolds
  | .cmp => cmpHolds
  | .itk => itkHolds

/-- KIND codes (R491). -/
def Kind.code : Kind → Nat
  | .eng => 0x01 | .core => 0x02 | .bankCore => 0x03 | .bankTile => 0x03 | .home => 0x04 | .tok => 0x05
  | .trnTile => 0x06 | .trnHub => 0x06 | .nrg => 0x07 | .swp => 0x08 | .sav => 0x09 | .hbm => 0x0A | .lpx => 0x0B
  | .ncl => 0x0C | .lad => 0x0D | .cmp => 0x0E | .itk => 0x0F | .sec => 0x10 | .sshTile => 0x11 | .sshHub => 0x11
  | .layout => 0x12 | .site => 0x13 | .mesh => 0x14 | .pkg => 0x15 | .plink => 0x16 | .bond => 0x17

/-- The block map (R491): kind and unit of a block number; none for a number not in use. -/
def blockOf (n : Nat) : Option (Kind × Nat) :=
  if n ≤ 0x067F then some (.eng, n)
  else if 0x0800 ≤ n && n ≤ 0x099F then some (.core, n - 0x0800)
  else if 0x0A00 ≤ n && n ≤ 0x0B9F then some (.bankCore, n - 0x0A00)
  else if 0x0C00 ≤ n && n ≤ 0x0C03 then some (.bankTile, n - 0x0C00)
  else if 0x0C04 ≤ n && n ≤ 0x0C07 then some (.tok, n - 0x0C04)
  else if 0x0C08 ≤ n && n ≤ 0x0C0B then some (.trnTile, n - 0x0C08)
  else if 0x0C0C ≤ n && n ≤ 0x0C0F then some (.mesh, n - 0x0C0C)
  else if 0x0C10 ≤ n && n ≤ 0x0C13 then some (.bond, n - 0x0C10)
  else if 0x0C14 ≤ n && n ≤ 0x0C17 then some (.sshTile, n - 0x0C14)
  else if 0x0C40 ≤ n && n ≤ 0x0C87 then some (.home, n - 0x0C40)
  else if 0x0C90 ≤ n && n ≤ 0x0C9F then some (.hbm, n - 0x0C90)
  else if 0x0CA0 ≤ n && n ≤ 0x0CAF then some (.swp, n - 0x0CA0)
  else if 0x0CB0 ≤ n && n ≤ 0x0CBF then some (.plink, n - 0x0CB0)
  else if n = 0x0D00 then some (.trnHub, 4)
  else if n = 0x0D01 then some (.nrg, 0)
  else if n = 0x0D02 then some (.lpx, 0)
  else if n = 0x0D03 then some (.sav, 0)
  else if n = 0x0D04 then some (.ncl, 0)
  else if n = 0x0D05 then some (.sec, 0)
  else if n = 0x0D06 then some (.sshHub, 4)
  else if n = 0x0D07 then some (.layout, 0)
  else if n = 0x0D08 then some (.site, 0)
  else if n = 0x0D09 then some (.pkg, 0)
  else if 0x0D10 ≤ n && n ≤ 0x0D17 then some (.lad, n - 0x0D10)
  else if 0x0D18 ≤ n && n ≤ 0x0D20 then some (.cmp, n - 0x0D18)
  else if 0x0D28 ≤ n && n ≤ 0x0D37 then some (.itk, n - 0x0D28)
  else none

/-- Every block number in use, in ascending order (R491). -/
def allBlocks : List Nat :=
  (List.range 0x0680) ++ (List.range 0x1A0).map (0x0800 + ·) ++ (List.range 0x1A0).map (0x0A00 + ·)
    ++ (List.range 0x18).map (0x0C00 + ·) ++ (List.range 72).map (0x0C40 + ·) ++ (List.range 48).map (0x0C90 + ·)
    ++ (List.range 10).map (0x0D00 + ·) ++ (List.range 17).map (0x0D10 + ·) ++ (List.range 16).map (0x0D28 + ·)

/-- The die on which a block lies (R490 LOCATION, R491): 0 to 51 site, 52 to 55 tile, 56 hub. -/
def blockDie (n : Nat) : Nat :=
  match blockOf n with
  | some (.eng, u) => u / 32
  | some (.core, u) => u / 8
  | some (.bankCore, u) => u / 8
  | some (.bankTile, u) => 52 + u
  | some (.tok, u) => 52 + u
  | some (.trnTile, u) => 52 + u
  | some (.mesh, u) => 52 + u
  | some (.bond, u) => 52 + u
  | some (.sshTile, u) => 52 + u
  | some (.home, u) => if u < 64 then 52 + u / 16 else 56
  | some (.hbm, u) => 52 + u / 4
  | some (.swp, u) => 52 + u / 4
  | some (.plink, u) => if u < 12 then 52 + u / 3 else 56
  | _ => 56

/-- Rows of ring r's registers stand at 0x1000 + 0x40 · r in the NCL block (R416). -/
def ringOffset (off : Nat) : Option (Nat × Nat) :=
  if 0x1000 ≤ off && off < 0x1400 then some ((off - 0x1000) / 0x40, (off - 0x1000) % 0x40) else none

/-- The fields of the register at an offset of a block kind; empty for a reserved offset. -/
def fieldsAt (k : Kind) (off : Nat) : List FieldRow :=
  if off < 0x100 then commonRows.filter (·.off = off)
  else
    match k, ringOffset off with
    | .ncl, some (_, o) => ringRows.filter (·.off = o)
    | k, _ => k.rows.filter (·.off = off)

/-- The cold-reset value of a register (R11). -/
def resetWord (k : Kind) (off : Nat) : Word64 :=
  (fieldsAt k off).foldl (fun acc r => acc ||| (BitVec.ofNat 64 r.reset <<< r.lo)) 0

/-- The mask of a field within its register. -/
def FieldRow.mask (r : FieldRow) : Word64 :=
  (BitVec.ofNat 64 (2 ^ (r.hi - r.lo + 1) - 1)) <<< r.lo

/-- The values outside the range or set the manual gives for a register field (R9, and the ranges of
R201, R204, R312, R359, R361, R363, R373, R279, R416, R253). -/
def reservedValue (k : Kind) (r : FieldRow) (v : Nat) : Bool :=
  match k with
  | .trnHub =>
    (r.off == 0x100 && r.lo == 0 && v == 3) || (r.off == 0x100 && r.lo == 16 && (v == 0 || v > 8))
      || (r.off == 0x100 && r.lo == 24 && (v < 2000 || v > 100000))
  | .plink => r.off == 0x100 && r.lo == 0 && v == 3
  | .bankTile => r.off == 0x110 && r.lo == 0 && v == 3
  | .bankCore => (r.off == 0x110 && r.lo == 0 && v ≥ 2) || (r.off == 0x108 && v ≥ 32)
  | .pkg => r.off == 0x108 && v > 56
  | .bond => r.off == 0x100 && r.lo == 0 && v > 12
  | .sav => (r.off == 0x128 && r.lo == 0 && v == 0) || (r.off == 0x128 && r.lo == 32 && (v == 0 || v > 1000))
  | .ncl =>
    (r.off == 0x100 && r.lo == 16 && (v == 0 || v > 16384)) || (r.off == 0 && r.lo == 1 && (v < 4 || v > 16))
      || (r.off == 0x900 && v % 64 != 0)
  | .lad => r.off == 0x170 && v > 48
  | _ => false

end Sys2Proof.Machine
end

