-- ==== Sys2Proof/Machine/Ops.lean ====
section
/-! DEFINITION. The operations every family shares: sparse stores, bit fields, blocks, registers, counters,
score-sheet records, fatal errors and outputs. -/

namespace Sys2Proof.Machine

/-! ### Sparse stores -/

/-- The entry of a key, if listed. -/
def Map.find {α : Type} : Map α → Nat → Option α
  | [], _ => none
  | (k, v) :: m, i => if i = k then some v else Map.find m i

/-- The value of a key; `d` is what an unlisted key reads as. -/
def Map.get {α : Type} (m : Map α) (k : Nat) (d : α) : α := (Map.find m k).getD d

/-- Put a value at a key, keeping the keys rising. -/
def Map.insert {α : Type} : Map α → Nat → α → Map α
  | [], k, v => [(k, v)]
  | (j, w) :: m, k, v =>
    if k < j then (k, v) :: (j, w) :: m
    else if k = j then (k, v) :: m
    else (j, w) :: Map.insert m k v

/-- Take a key out. -/
def Map.erase {α : Type} (m : Map α) (k : Nat) : Map α := m.filter fun e => decide (e.1 ≠ k)

/-- Write a key in the canonical form: writing what an unlisted key reads as removes the entry. -/
def Map.put {α : Type} [DecidableEq α] (m : Map α) (k : Nat) (v d : α) : Map α :=
  if v = d then Map.erase m k else Map.insert m k v

/-- The canonical form: keys strictly rising, no entry equal to the unlisted value. -/
def Map.wf {α : Type} [DecidableEq α] (d : α) : Map α → Bool
  | [] => true
  | (k, v) :: m => decide (v ≠ d) && (m.all fun e => k < e.1) && Map.wf d m

/-- Change every listed value, dropping what becomes the unlisted value. -/
def Map.mapVals {α : Type} [DecidableEq α] (m : Map α) (f : α → α) (d : α) : Map α :=
  m.filterMap fun e => if f e.2 = d then none else some (e.1, f e.2)

/-- A rising list of numbers without repeats, as a set: membership is `List.contains`. -/
def setAdd : List Nat → Nat → List Nat
  | [], k => [k]
  | j :: l, k => if k < j then k :: j :: l else if k = j then j :: l else j :: setAdd l k

def setDel : List Nat → Nat → List Nat
  | [], _ => []
  | j :: l, k => if k < j then j :: l else if k = j then l else j :: setDel l k

/-- The set with every member of a half-open range removed. -/
def setDelRange (l : List Nat) (lo hi : Nat) : List Nat := l.filter fun k => decide (k < lo) || decide (hi ≤ k)

/-! ### Bits and bytes -/

/-- Bits [lo + len − 1 : lo] of a number. -/
def bitsOf (v lo len : Nat) : Nat := (v >>> lo) % 2 ^ len

/-- One bit of a number. -/
def bitOf (v i : Nat) : Bool := v.testBit i

/-- Little-endian value of a run of bytes (R6). -/
def leNat : List Byte → Nat
  | [] => 0
  | b :: bs => b.toNat + 256 * leNat bs

/-- The `n` little-endian bytes of a number (R6). -/
def leBytes : Nat → Nat → List Byte
  | 0, _ => []
  | n + 1, v => BitVec.ofNat 8 v :: leBytes n (v / 256)

/-- A field of `n` bytes at an offset of a structure in memory. -/
def fieldLe (bs : List Byte) (off n : Nat) : Nat := leNat ((bs.drop off).take n)

/-- Every byte of a range of a structure is zero. -/
def zeroRange (bs : List Byte) (off n : Nat) : Bool := ((bs.drop off).take n).all (· == 0)

/-- A number of `bits` bits read as two's complement. -/
def signedOf (v bits : Nat) : Int :=
  let u := v % 2 ^ bits
  if u < 2 ^ (bits - 1) then (u : Int) else (u : Int) - (2 ^ bits : Nat)

/-- Pad with zeros, or cut, to a length. -/
def fitBytes (bs : List Byte) (n : Nat) : List Byte := (bs ++ List.replicate n 0).take n

/-- A condition as a bit of a status word. -/
def boolBit (b : Bool) : Nat := if b then 1 else 0

/-- ceil(a ÷ b). -/
def ceilDiv (a b : Nat) : Nat := (a + b - 1) / b

/-! ### Block numbers (R491) -/

def bEng (e : Nat) : Nat := e
def bCore (c : Nat) : Nat := 0x0800 + c
def bBankCore (c : Nat) : Nat := 0x0A00 + c
def bBankTile (t : Nat) : Nat := 0x0C00 + t
def bTok (t : Nat) : Nat := 0x0C04 + t
def bTrn (t : Nat) : Nat := if t < 4 then 0x0C08 + t else 0x0D00
def bMesh (t : Nat) : Nat := 0x0C0C + t
def bBond (t : Nat) : Nat := 0x0C10 + t
def bSsh (t : Nat) : Nat := if t < 4 then 0x0C14 + t else 0x0D06
def bHome (h : Nat) : Nat := 0x0C40 + h
def bHbm (c : Nat) : Nat := 0x0C90 + c
def bSwp (i : Nat) : Nat := 0x0CA0 + i
def bPlink (e : Nat) : Nat := 0x0CB0 + e
def bNrg : Nat := 0x0D01
def bLpx : Nat := 0x0D02
def bSav : Nat := 0x0D03
def bNcl : Nat := 0x0D04
def bSec : Nat := 0x0D05
def bLayout : Nat := 0x0D07
def bSite : Nat := 0x0D08
def bPkg : Nat := 0x0D09
def bLad (p : Nat) : Nat := 0x0D10 + p
def bCmp (i : Nat) : Nat := 0x0D18 + i
def bItk (i : Nat) : Nat := 0x0D28 + i

/-- The tile of a site (R13). -/
def tileOfSite (s : Nat) : Nat := s / 13

/-- The sheet that records for a block: that of its die, compute dies' blocks in their tile's (R453). -/
def sheetOf (blk : Nat) : Nat :=
  let d := blockDie blk
  if d < 52 then tileOfSite d else d - 52

/-! ### Blocks, registers, counters -/

def State.blk (s : State) (n : Nat) : Blk := Map.get s.blocks n .reset

def State.setBlk (s : State) (n : Nat) (b : Blk) : State := { s with blocks := Map.put s.blocks n b .reset }

/-- A block is in state 2 (R481). -/
def State.isEnabled (s : State) (n : Nat) : Bool := (s.blk n).state == .enabled

/-- A block is in state 0 (R481). -/
def State.isDisabled (s : State) (n : Nat) : Bool := (s.blk n).state == .disabled

def regKey (n off : Nat) : Nat := n * 65536 + off

/-- What a register reads as while nothing has been stored in it (R11). -/
def regDefault (n off : Nat) : Word64 :=
  match blockOf n with
  | some (k, _) => resetWord k off
  | none => 0

/-- The stored word of a register. -/
def State.reg (s : State) (n off : Nat) : Word64 := Map.get s.regs (regKey n off) (regDefault n off)

def State.setReg (s : State) (n off : Nat) (v : Word64) : State :=
  { s with regs := Map.put s.regs (regKey n off) v (regDefault n off) }

/-- A stored field. -/
def State.fld (s : State) (n off lo len : Nat) : Nat := bitsOf (s.reg n off).toNat lo len

/-- Replace a field of a word. -/
def putField (w : Word64) (lo len v : Nat) : Word64 :=
  let m := (BitVec.ofNat 64 (2 ^ len - 1)) <<< lo
  (w &&& ~~~m) ||| ((BitVec.ofNat 64 v <<< lo) &&& m)

def State.setFld (s : State) (n off lo len v : Nat) : State := s.setReg n off (putField (s.reg n off) lo len v)

/-- Add to the live counter behind a holding register; it wraps at 2⁶⁴ (R98). -/
def State.count (s : State) (n off k : Nat) : State :=
  { s with counters := Map.put s.counters (regKey n off) (Map.get s.counters (regKey n off) 0 + BitVec.ofNat 64 k) 0 }

def State.counter (s : State) (n off : Nat) : Word64 := Map.get s.counters (regKey n off) 0

/-- Something has left the device. -/
def State.emit (s : State) (o : Output) : State := { s with out := o :: s.out }

/-- A fresh free value, and the counter advanced. -/
def State.free (s : State) : Word64 × State := (Config.freeWord s.fresh, { s with fresh := s.fresh + 1 })

/-- A site can be reached: not quarantined, its rail on (R483). -/
def State.site (s : State) (i : Nat) : Site := Map.get s.sites i .reset

def State.setSite (s : State) (i : Nat) (x : Site) : State := { s with sites := Map.put s.sites i x .reset }

def State.siteReachable (s : State) (i : Nat) : Bool :=
  let x := s.site i
  x.status != .quarantined && x.railOn && !x.resetting

/-- A block's frame can be reached (R483, R491). -/
def State.reachable (s : State) (n : Nat) : Bool :=
  match blockOf n with
  | none => false
  | some _ => if blockDie n < 52 then s.siteReachable (blockDie n) else true

/-! ### The score sheet (R453 to R457) -/

def State.sheet (s : State) (t : Nat) : Sheet := Map.get s.sheets t .reset

def State.setSheet (s : State) (t : Nat) (x : Sheet) : State := { s with sheets := Map.put s.sheets t x .reset }

/-- A record arrives at the sheet of its block's die (R455, R457): queued, or dropped and counted when the
queue of 64 is full or the sheet is frozen. -/
def State.recordIn (s : State) (t blk code unit arg0 arg1 : Nat) : State :=
  let x := s.sheet t
  let r : Record :=
    { turn := s.turns.now, seq := 0, event := BitVec.ofNat 16 code, origin := BitVec.ofNat 8 (sheetOf blk)
      block := BitVec.ofNat 16 blk, unit := BitVec.ofNat 16 unit, arg0 := BitVec.ofNat 32 arg0, arg1 := BitVec.ofNat 64 arg1 }
  if x.frozen != .none then s.count (bSsh t) 0x188 1
  else if x.queue.length < 64 then s.setSheet t { x with queue := x.queue ++ [r] }
  else
    (s.setSheet t
      { x with dropped := x.dropped + 1, droppedTurn := if x.dropped = 0 then s.turns.now else x.droppedTurn }).count
      (bSsh t) 0x188 1

/-- A record of a block (R451, R452). -/
def State.record (s : State) (blk code unit arg0 arg1 : Nat) : State := s.recordIn (sheetOf blk) blk code unit arg0 arg1

/-- Key of the latch of a "once" record: block, code and what the record is told apart by. -/
def onceKey (blk code sub : Nat) : Nat := (blk * 65536 + code) * 1048576 + sub

/-- Enabling a block starts its "once" records anew (R451). -/
def State.clearOnce (s : State) (blk : Nat) : State :=
  { s with once := s.once.filter fun k => k / 1048576 / 65536 ≠ blk }

/-- A record that only its first occurrence since the block's enable writes (R451). `sub` tells kinds, agents or
flags apart that each have a first occurrence of their own. -/
def State.recordOnce (s : State) (blk code sub unit arg0 arg1 : Nat) : State :=
  let k := onceKey blk code sub
  if s.once.contains k then s
  else ({ s with once := setAdd s.once k }).record blk code unit arg0 arg1

/-- Capacity of a sheet in records (R453). -/
def sheetSize (t : Nat) : Nat := if t < 4 then 65536 else 32768

/-- The sheet writes one record and gives it its SEQ, overwriting the oldest (R455); contained and fatal records go
out as platform events once firmware runs (R460, R502), and a class in IRQ_MASK raises the server-core interrupt. -/
def State.writeRecord (s : State) (t : Nat) (r : Record) : State :=
  let x := s.sheet t
  let cls := bitsOf r.event.toNat 8 2
  let s1 :=
    (s.setSheet t
      { x with
        records := ({ r with seq := x.nextSeq, turn := s.turns.now } :: x.records).take (sheetSize t)
        nextSeq := x.nextSeq + 1 }).count (bSsh t) 0x180 1
  let s2 := if bitOf (s1.fld (bSsh t) 0x100 0 4) cls then s1.emit (.serverInterrupt (BitVec.ofNat 16 (bSsh t))) else s1
  if s2.power.phase ≥ 8 && cls ≥ 2 then s2.emit (.pldmEvent { r with seq := x.nextSeq, turn := s.turns.now }) else s2

/-- A record that a sheet writes about itself. -/
def sheetRecord (t code unit arg0 arg1 : Nat) : Record :=
  { turn := 0, seq := 0, event := BitVec.ofNat 16 code, origin := BitVec.ofNat 8 t, block := BitVec.ofNat 16 (bSsh t)
    unit := BitVec.ofNat 16 unit, arg0 := BitVec.ofNat 32 arg0, arg1 := BitVec.ofNat 64 arg1 }

/-- Once a queue that dropped records has room again, the sheet writes record 0x021E (R455). -/
def State.noteDropped (s : State) (t : Nat) : State :=
  let x := s.sheet t
  if x.dropped = 0 ∨ 64 ≤ x.queue.length then s
  else
    (s.setSheet t { x with dropped := 0, droppedTurn := 0 }).writeRecord t
      (sheetRecord t 0x021E 0 x.dropped x.droppedTurn.toNat)

/-- Write the whole input queue, oldest first. -/
def State.drainSheet (s : State) (t : Nat) : State :=
  let x := s.sheet t
  x.queue.foldl (fun acc r => acc.writeRecord t r) (s.setSheet t { x with queue := [] })

/-- Freeze one sheet after its queued records have been written, and the one about dropped records (R455, R457). A fatal error freezes a sheet that a warning has
frozen, too: it then stays frozen when the warning clears. -/
def State.freezeSheet (s : State) (t : Nat) (why : FreezeCause) : State :=
  let s1 := (s.drainSheet t).noteDropped t
  let x := s1.sheet t
  if x.frozen = .none ∨ why = .fatal then s1.setSheet t { x with frozen := why } else s1

def State.freezeAll (s : State) (why : FreezeCause) : State :=
  (List.range 5).foldl (fun acc t => acc.freezeSheet t why) s

/-- A flush request; one that arrives during a flush is merged into it (R458). -/
def State.startFlush (s : State) (reason : Nat) : State :=
  match s.power.flushing with
  | some _ => s
  | none => { s with power := { s.power with flushing := some { reason := reason, turn := s.turns.now } } }

/-- EVENT_VECTOR of the NCL block (R416). -/
def State.eventVector (s : State) : Byte := BitVec.ofNat 8 (s.fld bNcl 0x108 8 8)

/-- An interrupt to the host while the link is up; it waits while a decision is open (R411, R446). -/
def State.hostInterrupt (s : State) (v : Byte) : State :=
  if !s.ncl.up then s
  else if s.ncl.decide then { s with ncl := { s.ncl with vectors := s.ncl.vectors ++ [v] } }
  else s.emit (.nclInterrupt v)

/-- A fatal error (R446): its record in the sheet of its origin and in the hub sheet, issue stopped in every unit,
every sheet frozen, FAULT_N asserted (FATAL), EVENT_VECTOR sent if the link is up, a flush started. -/
def State.fatalError (s : State) (blk code unit arg0 arg1 : Nat) : State :=
  let t := sheetOf blk
  let s1 := s.record blk code unit arg0 arg1
  let s2 := if t = 4 then s1 else s1.recordIn 4 blk code unit arg0 arg1
  let p := s2.power
  let s3 :=
    { s2 with
      power :=
        { p with
          fatal := true
          fatalCode := if p.fatal then p.fatalCode else BitVec.ofNat 10 code
          fatalOrigin := if p.fatal then p.fatalOrigin else BitVec.ofNat 3 t
          issueStopped := true } }
  let s4 := s3.freezeAll .fatal
  s4.hostInterrupt s4.eventVector |>.startFlush 2

/-! ### Units -/

def State.engine (s : State) (e : Nat) : Engine := Map.get s.engines e .reset
def State.setEngine (s : State) (e : Nat) (x : Engine) : State := { s with engines := Map.put s.engines e x .reset }
def State.core (s : State) (c : Nat) : Core := Map.get s.cores c .reset
def State.setCore (s : State) (c : Nat) (x : Core) : State := { s with cores := Map.put s.cores c x .reset }
def State.token (s : State) (i : Nat) : Token := Map.get s.tokens i .reset
def State.setToken (s : State) (i : Nat) (x : Token) : State := { s with tokens := Map.put s.tokens i x .reset }
def State.sweep (s : State) (i : Nat) : Sweep := Map.get s.sweeps i .reset
def State.setSweep (s : State) (i : Nat) (x : Sweep) : State := { s with sweeps := Map.put s.sweeps i x .reset }
def State.intake (s : State) (i : Nat) : Intake := Map.get s.intakes i .reset
def State.setIntake (s : State) (i : Nat) (x : Intake) : State := { s with intakes := Map.put s.intakes i x .reset }
def State.cmp (s : State) (i : Nat) : Cmp := Map.get s.cmps i .reset
def State.setCmp (s : State) (i : Nat) (x : Cmp) : State := { s with cmps := Map.put s.cmps i x .reset }
def State.ladder (s : State) (p : Nat) : Ladder := Map.get s.ladders p .reset
def State.setLadder (s : State) (p : Nat) (x : Ladder) : State := { s with ladders := Map.put s.ladders p x .reset }
def State.link (s : State) (e : Nat) : LinkEnd := Map.get s.links e .reset
def State.setLink (s : State) (e : Nat) (x : LinkEnd) : State := { s with links := Map.put s.links e x .reset }
def State.home (s : State) (h : Nat) : Home := Map.get s.homes h .reset
def State.setHome (s : State) (h : Nat) (x : Home) : State := { s with homes := Map.put s.homes h x .reset }
def State.dram (s : State) (c : Nat) : Dram := Map.get s.drams c .reset
def State.setDram (s : State) (c : Nat) (x : Dram) : State := { s with drams := Map.put s.drams c x .reset }
def State.ring (s : State) (r : Nat) : Ring := Map.get s.ncl.rings r .reset
def State.setRing (s : State) (r : Nat) (x : Ring) : State :=
  { s with ncl := { s.ncl with rings := Map.put s.ncl.rings r x .reset } }

/-- Bank b of a BANK_ block, keyed 256 · block + b. -/
def State.bank (s : State) (blk b : Nat) : BankSt := Map.get s.banks (blk * 256 + b) .reset
def State.tester (s : State) (blk : Nat) : Tester := Map.get s.testers blk .reset
def State.setTester (s : State) (blk : Nat) (x : Tester) : State := { s with testers := Map.put s.testers blk x .reset }
def State.setBank (s : State) (blk b : Nat) (x : BankSt) : State :=
  { s with banks := Map.put s.banks (blk * 256 + b) x .reset }

def Flags.or (a b : Flags) : Flags :=
  { invalid := a.invalid || b.invalid, overflow := a.overflow || b.overflow, saturated := a.saturated || b.saturated }

/-- The flag bits as a number: INVALID, OVERFLOW, SATURATED in bits 0 to 2. -/
def Flags.bits (f : Flags) : Nat :=
  (if f.invalid then 1 else 0) + (if f.overflow then 2 else 0) + (if f.saturated then 4 else 0)

/-- The turn number in effect (R207). -/
def State.turn (s : State) : Nat := s.turns.now.toNat

/-- Turns that have passed since cold reset. -/
def State.elapsed (s : State) : Nat := s.turns.elapsed

/-- Feature level of a die from its stepping code (R354). -/
def levelOf (code : Nat) : Nat := if code = 0 then 1 else if code = 1 then 2 else 3

/-- Stepping code of a die: 0 to 51 site, 52 to 55 tile, 56 hub. -/
def State.stepping (s : State) (die : Nat) : Nat := s.rom.steppings.getD die 0

def State.level (s : State) (die : Nat) : Nat := levelOf (s.stepping die)

end Sys2Proof.Machine
end

