-- ==== Sys2Proof/Machine/Nibble.lean ====
section
/-! DEFINITION. The nibble code of every 16-byte word (R328 to R332) and the CRC-32 of links, rings and flush areas
(R396, R458). -/

namespace Sys2Proof.Machine

/-- Multiplication by α in GF(16) on x⁴ + x + 1. -/
def gfDouble (a : Nat) : Nat := if a < 8 then 2 * a else (2 * a - 16) ^^^ 3

/-- Product in GF(16). -/
def gfMul (a b : Nat) : Nat :=
  let a1 := gfDouble a
  let a2 := gfDouble a1
  let a3 := gfDouble a2
  (if bitOf b 0 then a else 0) ^^^ (if bitOf b 1 then a1 else 0) ^^^ (if bitOf b 2 then a2 else 0)
    ^^^ (if bitOf b 3 then a3 else 0)

/-- A vector of four GF(16) elements. -/
structure Gf4 where
  x0 : Nat
  x1 : Nat
  x2 : Nat
  x3 : Nat
  deriving DecidableEq, Repr

def Gf4.zero : Gf4 := ⟨0, 0, 0, 0⟩
def Gf4.add (a b : Gf4) : Gf4 := ⟨a.x0 ^^^ b.x0, a.x1 ^^^ b.x1, a.x2 ^^^ b.x2, a.x3 ^^^ b.x3⟩
def Gf4.smul (k : Nat) (a : Gf4) : Gf4 := ⟨gfMul k a.x0, gfMul k a.x1, gfMul k a.x2, gfMul k a.x3⟩

/-- The constant c = α³ (R328). -/
def gfC : Nat := 8

/-- Column of data symbol j < 32, or of check symbol j − 32 (R328). -/
def column (j : Nat) : Gf4 :=
  if j < 32 then
    let a := j % 16
    let b := if j < 16 then 2 else 3
    ⟨1, a, b, gfMul a a ^^^ gfMul a b ^^^ gfMul gfC (gfMul b b)⟩
  else if j = 32 then ⟨0, 0, 0, 1⟩
  else if j = 33 then ⟨1, 0, 0, 0⟩
  else if j = 34 then ⟨1, 1, 0, 1⟩
  else ⟨1, 0, 1, gfC⟩

/-- Σ symbol × column over a run of symbols from symbol j on. -/
def weigh : Nat → Nat → Nat → Gf4
  | 0, _, _ => .zero
  | n + 1, j, v => Gf4.add (Gf4.smul (v % 16) (column j)) (weigh n (j + 1) (v / 16))

/-- Check bits of 128 data bits (R329). -/
def nibbleEncode (d : BitVec 128) : BitVec 16 :=
  let s := weigh 32 0 d.toNat
  let q2 := s.x1
  let q3 := s.x2
  let q1 := s.x0 ^^^ s.x1 ^^^ s.x2
  let q0 := s.x3 ^^^ s.x1 ^^^ gfMul gfC s.x2
  BitVec.ofNat 16 (q0 + 16 * q1 + 256 * q2 + 4096 * q3)

/-- Syndrome of a codeword (R330). -/
def syndrome (d : BitVec 128) (q : BitVec 16) : Gf4 := Gf4.add (weigh 32 0 d.toNat) (weigh 4 32 q.toNat)

/-- What the decoder does with a codeword (R330). -/
inductive Decoded where
  | clean (d : BitVec 128)
  | corrected (d : BitVec 128) (symbol : Nat)
  | storedPoison
  | uncorrectable
  deriving DecidableEq, Repr

/-- The symbol whose column is the syndrome divided by its first element. -/
def findSymbol (s : Gf4) : Nat → Option Nat
  | 0 => none
  | n + 1 => if Gf4.smul s.x0 (column n) = s then some n else findSymbol s n

/-- Syndrome decoding (R330). -/
def nibbleDecode (d : BitVec 128) (q : BitVec 16) : Decoded :=
  let s := syndrome d q
  if s = .zero then .clean d
  else if s = ⟨0, 1, 0, 1⟩ then .storedPoison
  else if s.x0 = 0 then
    (if s.x1 = 0 ∧ s.x2 = 0 then .corrected d 32 else .uncorrectable)
  else
    match findSymbol s 36 with
    | some j => .corrected (if j < 32 then d ^^^ (BitVec.ofNat 128 s.x0 <<< (4 * j)) else d) j
    | none => .uncorrectable

/-- Poison form of check bits (R332). -/
def poisonForm (q : BitVec 16) : BitVec 16 := q ^^^ 0x0110

/-- Delivered data of a received codeword and whether it is poison; the third part says a symbol was corrected. -/
def receive (d : BitVec 128) (q : BitVec 16) : BitVec 128 × Bool × Bool :=
  match nibbleDecode d q with
  | .clean d => (d, false, false)
  | .corrected d _ => (d, false, true)
  | .storedPoison => (d, true, false)
  | .uncorrectable => (d, true, false)

/-! ### CRC-32, polynomial 0x04C1_1DB7 as in IEEE 802.3: reflected, preset and final inversion -/

def crcBit : Nat → Nat → Nat
  | 0, c => c
  | n + 1, c => crcBit n (if c % 2 = 1 then (c / 2) ^^^ 0xEDB88320 else c / 2)

def crcStep (c : Nat) (b : Byte) : Nat := crcBit 8 (c ^^^ b.toNat)

/-- CRC-32 of a run of bytes. -/
def crc32 (bs : List Byte) : Nat := (bs.foldl crcStep 0xFFFFFFFF) ^^^ 0xFFFFFFFF

end Sys2Proof.Machine
end

