-- ==== Sys2Proof/Machine/Paths.lean ====
section
/-! DEFINITION. Paths through the package: link ends, ring, hub and bond routes, degraded links (R171, R345, R352, R361), and
the frames that wait at each link end (R347). -/

namespace Sys2Proof.Machine

/-! ### Ends (R345, R361) -/

/-- A bond port of a site, as a link end behind the sixteen panel link ends: the tile's end of it, and the die's. -/
def bondEnd (i cluster : Nat) : Nat := 16 + 2 * i + cluster
def dieEnd (i cluster : Nat) : Nat := bondEnd i cluster + 104

/-- The other end of a panel link or a bond port. -/
def peerEnd (e : Nat) : Nat :=
  if 120 ≤ e then e - 104
  else if 16 ≤ e then e + 104
  else if 12 ≤ e then 3 * (e - 12) + 2
  else
    let t := e / 3
    if e % 3 = 0 then 3 * ((t + 1) % 4) + 1 else if e % 3 = 1 then 3 * ((t + 3) % 4) else 12 + t

/-- Site of a bond port's end. -/
def bondSite (e : Nat) : Nat := (e - 16) % 104 / 2

/-- The tile or hub that a panel link end or the tile's end of a bond port lies on: tile 0 to 3, or the hub as 4. -/
def endDie (e : Nat) : Nat := if 16 ≤ e then tileOfSite (bondSite e) else if 12 ≤ e then 4 else e / 3

/-! ### Routes (R171, R352) -/

/-- A byte of the routes section in force in a tile's mesh block, or in the hub fabric as 4; 0 before one is loaded. -/
def State.routeByte (s : State) (die i : Nat) : Nat := ((Map.get s.routes die []).getD i 0).toNat

/-- A link's end is not degraded. -/
def State.sound (s : State) (e : Nat) : Bool := !(s.link e).degraded

/-- Packets bound for a link go to its end: it is sound, or degraded and its injection is not done, so that they wait at
it (R353). -/
def State.leadsTo (s : State) (e : Nat) : Bool := s.sound e || (s.link e).rerouting

/-- The way round the ring from tile a to tile b through tile a + 1, or through tile a + 3. -/
def ringUp (a b : Nat) : List Nat := (List.range ((b + 4 - a) % 4)).map fun i => 3 * ((a + i) % 4)
def ringDown (a b : Nat) : List Nat := (List.range ((a + 4 - b) % 4)).map fun i => 3 * ((a + 4 - i) % 4) + 1

/-- The way round the ring that tile a takes to tile b, as the table of R352 leaves it. -/
def State.ringPath (s : State) (ok : Nat → Bool) (a b : Nat) : Option (List Nat) :=
  let d := (b + 4 - a) % 4
  let up := d == 1 || (d == 2 && s.routeByte a a == 0)
  let first := if up then ringUp a b else ringDown a b
  let second := if up then ringDown a b else ringUp a b
  if first.all ok then some first else if second.all ok then some second else none

/-- Tile a to the hub: its own link, else through tile a + 1, else through tile a + 3. -/
def toHub (ok : Nat → Bool) (a : Nat) : Option (List Nat) :=
  [[3 * a + 2], [3 * a, 3 * ((a + 1) % 4) + 2], [3 * a + 1, 3 * ((a + 3) % 4) + 2]].find? (·.all ok)

/-- The hub to tile b, the same ways back. -/
def fromHub (ok : Nat → Bool) (b : Nat) : Option (List Nat) :=
  [[12 + b], [12 + (b + 1) % 4, 3 * ((b + 1) % 4) + 1], [12 + (b + 3) % 4, 3 * ((b + 3) % 4)]].find? (·.all ok)

/-- The sending ends of a path between two dies, the hub as 4, over ends that will do; none where the table leaves no path
(R352). -/
def State.diePath (s : State) (ok : Nat → Bool) (a b : Nat) : Option (List Nat) :=
  if a = b then some []
  else if a = 4 then fromHub ok b
  else if b = 4 then toHub ok a
  else
    match s.ringPath ok a b, toHub ok a, fromHub ok b with
    | some p, _, _ => some p
    | none, some p, some q => some (p ++ q)
    | _, _, _ => none

/-! ### Where packets start and end -/

/-- A base tile 0 to 3, the hub 4, or a physical core p as 8 + p. -/
abbrev Node := Nat

def coreNode (p : Nat) : Node := 8 + p
def nodeDie (n : Node) : Nat := if n < 8 then n else tileOfSite ((n - 8) / 8)

/-- The unit that a requester code names (R509). -/
def codeNode (who : Nat) : Node :=
  if who < 3328 then coreNode (who / 8) else if 0x1110 ≤ who ∧ who < 0x1120 then (who - 0x1110) / 4 else 4

/-- Traffic class of a requester's data (R171). -/
def codeClass (who : Nat) : Nat :=
  if who < 3328 then (if 2 ≤ who % 8 then 0 else 2)
  else if (0x1100 ≤ who ∧ who < 0x1120) ∨ who = 0x1130 then 4
  else if who = 0x1132 ∨ who = 0x1133 then 5
  else 2

/-- A packet waits at a link end, behind those that wait there. -/
def State.queueAt (s : State) (e : Nat) (p : LinkPkt) : State :=
  { s with sendq := Map.put s.sendq e (Map.get s.sendq e [] ++ [p]) [] }

/-- A packet goes ahead of those that wait at a link end (R353). -/
def State.queueFirst (s : State) (e : Nat) (p : LinkPkt) : State :=
  { s with sendq := Map.put s.sendq e (p :: Map.get s.sendq e []) [] }

/-- The end through which a packet leaves a tile or the hub: none where it has arrived, or has no path (R171, R352). -/
def State.nextEnd (s : State) (die dst : Nat) : Option Nat :=
  if nodeDie dst = die then (if dst < 8 then none else some (bondEnd ((dst - 8) / 8) ((dst - 8) % 8 / 4)))
  else (s.diePath s.leadsTo die (nodeDie dst)).bind List.head?

/-- Both are cores of one cluster, which share a bond port. -/
def sameCluster (a b : Node) : Bool := decide (8 ≤ a) && decide (8 ≤ b) && (a - 8) / 4 == (b - 8) / 4

/-- A packet of a traffic class sets out: it waits at the first link end of its way, a core's own bond port or an end of its
tile or the hub, as one data frame, and goes on from end to end as frames are accepted (log entry 86). -/
def State.carry (s : State) (src dst : Node) (cls : Nat) (req : Option (Nat × Bool)) : State :=
  if src = dst ∨ sameCluster src dst then s
  else
    let first := if src < 8 then s.nextEnd src dst else some (dieEnd ((src - 8) / 8) ((src - 8) % 8 / 4))
    match first with
    | some e => s.queueAt e { vc := s.routeByte (nodeDie src) (8 + cls) % 4, dst := dst, req := req }
    | none => s

end Sys2Proof.Machine
end

