-- ==== Sys2Proof/Machine/Memory.lean ====
section
/-! DEFINITION. Memory: the address map, banks, poison, bit errors and the nibble code at work on stored words, the
directory's lines, the home's own copy and the caches beside it (R283 to R292, R297 to R302, R316 to R320, R324, R326,
R330 to R335, R448 to R450). -/

namespace Sys2Proof.Machine

/-! ### Bytes in canonical form: addresses strictly rising, no listed zero -/

/-- What an address that nothing has written reads as (log entry 4). -/
def unlistedByte : Byte := 0

/-- The bytes of [a, a + n) from the listed cells at and above a. -/
def memSeg (cells : List Host.Cell) (a : Nat) : Nat → List Byte
  | 0 => []
  | n + 1 =>
    match cells with
    | [] => List.replicate (n + 1) unlistedByte
    | (k, b) :: cs => if k = a then b :: memSeg cs (a + 1) n else unlistedByte :: memSeg ((k, b) :: cs) (a + 1) n

/-- Read a run of bytes. -/
def memRead (m : List Host.Cell) (a n : Nat) : List Byte :=
  memSeg (m.filter fun c => decide (a ≤ c.1) && decide (c.1 < a + n)) a n

/-- The cells of a run of bytes, without those equal to the unlisted byte. -/
def memCells : Nat → List Byte → List Host.Cell
  | _, [] => []
  | a, b :: bs => if b = unlistedByte then memCells (a + 1) bs else (a, b) :: memCells (a + 1) bs

/-- Write a run of bytes, keeping the canonical form. -/
def memWrite (m : List Host.Cell) (a : Nat) (bs : List Byte) : List Host.Cell :=
  (m.filter fun c => decide (c.1 < a)) ++ memCells a bs ++ (m.filter fun c => decide (a + bs.length ≤ c.1))

/-- Addresses strictly rising from a lower bound on, no listed byte equal to the unlisted one. -/
def memWfFrom : Nat → List Host.Cell → Bool
  | _, [] => true
  | lo, (k, b) :: cs => decide (lo ≤ k) && decide (b ≠ unlistedByte) && memWfFrom (k + 1) cs

/-- The canonical form of memory. -/
def Memory.wf (m : List Host.Cell) : Bool := memWfFrom 0 m

/-! ### The physical map (R316, R317) -/

def hbmEnd : Nat := 0x012000000000
def lpxBase : Nat := 0x040000000000
def lpxEnd : Nat := 0x060000000000
def sramBase : Nat := 0x080000000000
def sramEnd : Nat := 0x080100000000
def scratchBase : Nat := 0x080100000000
def scratchEnd : Nat := 0x080160000000
def regBase : Nat := 0x0F0000000000
def regEnd : Nat := 0x0F0100000000
def hostBase : Nat := 0x100000000000
def hostEnd : Nat := 0x200000000000

/-- The regions of R316, as a descriptor check sees them (R134). -/
inductive Region where
  | hbm | lpx | sram | scratch | regs | host
  deriving DecidableEq, Repr

def regionOf (a : Nat) : Option Region :=
  if a < hbmEnd then some .hbm
  else if lpxBase ≤ a ∧ a < lpxEnd then some .lpx
  else if sramBase ≤ a ∧ a < sramEnd then some .sram
  else if scratchBase ≤ a ∧ a < scratchEnd then some .scratch
  else if regBase ≤ a ∧ a < regEnd then some .regs
  else if hostBase ≤ a ∧ a < hostEnd then some .host
  else none

/-- Half-open range of a region. -/
def Region.range : Region → Nat × Nat
  | .hbm => (0, hbmEnd)
  | .lpx => (lpxBase, lpxEnd)
  | .sram => (sramBase, sramEnd)
  | .scratch => (scratchBase, scratchEnd)
  | .regs => (regBase, regEnd)
  | .host => (hostBase, hostEnd)

/-- [a, a + n) lies in one region of a kind. -/
def inRegion (r : Region) (a n : Nat) : Bool := let (lo, hi) := r.range; decide (lo ≤ a) && decide (a + n ≤ hi)

/-- Size of the host window in bytes, 0 while it is closed (R326, R402). -/
def State.hostSize (s : State) : Nat := if s.ncl.windowEn then s.fld bNcl 0x100 16 15 * 2 ^ 30 else 0

/-- Site of a logical die under the map in force (R168, R169). -/
def State.siteOfDie (s : State) (d : Nat) : Option Nat := Map.find s.dieMap d

/-- Physical core of a logical core. -/
def State.physCore (s : State) (c : Nat) : Option Nat := (s.siteOfDie (c / 8)).map fun site => 8 * site + c % 8

/-- Logical die on a site, among the first n. -/
def dieOnSite (m : Map Nat) (site : Nat) : Option Nat := (m.find? fun e => e.2 = site).map (·.1)

/-- Logical core of a physical core, if its site is named by the map. -/
def State.logicalCore (s : State) (p : Nat) : Option Nat := (dieOnSite s.dieMap (p / 8)).map fun d => 8 * d + p % 8

/-- Where an address leads. -/
inductive Place where
  | scratch (core off : Nat)
  | dram
  | sram (tile bank : Nat)
  | host
  | isolated (site : Nat)
  | unmapped
  deriving DecidableEq, Repr

def State.placeOf (s : State) (a : Nat) : Place :=
  match regionOf a with
  | some .hbm => .dram
  | some .lpx => .dram
  | some .sram => .sram ((a - sramBase) / 2 ^ 30) ((a - sramBase) / 2 ^ 22 % 256)
  | some .scratch =>
    let c := (a - scratchBase) / 2 ^ 22
    match s.physCore c with
    | some p => if s.siteReachable (p / 8) then .scratch p ((a - scratchBase) % 2 ^ 22) else .isolated (p / 8)
    | none => .unmapped
  | some .host => if a - hostBase < s.hostSize then .host else .unmapped
  | _ => .unmapped

/-- Storage key of a core's scratchpad byte: the model lists it under the physical core (log entry 5). -/
def scratchKey (core off : Nat) : Nat := scratchBase + core * 2 ^ 22 + off

/-! ### Banks (R283 to R291) -/

/-- Bank of a scratchpad address (R124, R284). -/
def scratchBank (off : Nat) : Nat := off / 64 % 32

/-- An access other than the test's reaches a bank: a bank in retention begins to wake (R291). -/
def State.touchBank (s : State) (blk b : Nat) : State :=
  let x := s.bank blk b
  s.setBank blk b { x with lastUse := some s.elapsed, power := if x.power = .retention then .waking else x.power }

/-- Rows of a bank that serves no accesses are reached: n rows (R286). -/
def State.refuseRows (s : State) (blk b who a n : Nat) : State :=
  if n = 0 then s else (s.count blk 0x158 n).recordOnce blk 0x0204 0 b who a

/-- A row of a bank that serves no accesses is reached (R286). -/
def State.refuseRow (s : State) (blk b who a : Nat) : State := s.refuseRows blk b who a 1

/-- The bank's mode is scratchpad, or on in a core block (R286). -/
def State.bankServes (s : State) (blk b : Nat) : Bool := (s.bank blk b).mode == 1

/-- An unmapped access, counted once for each line touched (R318). -/
def State.unmappedLine (s : State) (who a : Nat) : State :=
  (s.count bLpx 0x170 1).recordOnce bLpx 0x0205 0 who 0 a

/-- A server core's store to a frame that cannot be reached: an unmapped access, and the core's access fault (R318, R483). Which
core commands, a row without one does not say: the model takes core 0 (log entry 94). -/
def State.frameFault (s : State) (block off : Nat) : State :=
  (s.unmappedLine 0x1000 (regBase + block * 65536 + off)).emit (.accessFault 0)

/-- An access to a quarantined or resetting site is answered with an error (R272, R276). -/
def State.isolatedAccess (s : State) : State := s.count bSite 0x148 1

/-! ### Poison of 16-byte words, keyed by storage address ÷ 16 (R332, R448) -/

def State.poisoned (s : State) (key : Nat) : Bool := s.poison.contains (key / 16)

/-- A run of bytes with their poison. -/
abbrev PBytes := List (Byte × Bool)

def PBytes.clean (bs : List Byte) : PBytes := bs.map fun b => (b, false)
def PBytes.data (bs : PBytes) : List Byte := bs.map (·.1)
def PBytes.anyPoison (bs : PBytes) : Bool := bs.any (·.2)
/-- What a refused read returns (R286, R318). -/
def PBytes.refused (n : Nat) : PBytes := List.replicate n (0, true)

/-- Read stored bytes with poison. -/
def State.readKey (s : State) (key n : Nat) : PBytes :=
  (memRead s.mem key n).zip ((List.range n).map fun i => s.poisoned (key + i))

/-- The poison of the words a write touches: a word that takes a poisoned byte is poison, a word written whole is
not, a partial write leaves the word as it was (R448, R450). `keep` leaves every poisoned word poisoned (R304: WP). -/
def poisonAfter (old : List Nat) (key : Nat) (bs : PBytes) (keep : Bool) : List Nat :=
  let n := bs.length
  let w0 := key / 16
  let words := if n = 0 then 0 else (key + n - 1) / 16 - w0 + 1
  (List.range words).foldl
    (fun acc i =>
      let w := w0 + i
      let lo := 16 * w - key
      let hi := 16 * w + 16 - key
      let part := (bs.drop lo).take (hi - lo)
      if part.any (·.2) then setAdd acc w
      else if !keep && decide (key ≤ 16 * w) && decide (16 * w + 16 ≤ key + n) then setDel acc w
      else acc)
    old

/-- The storage words that [key, key + n) touches. -/
def wordsOf (key n : Nat) : List Nat := if n = 0 then [] else (List.range ((key + n - 1) / 16 - key / 16 + 1)).map (key / 16 + ·)

/-- A storage word lies wholly in [key, key + n). -/
def coversWord (key n w : Nat) : Bool := decide (key ≤ 16 * w) && decide (16 * w + 16 ≤ key + n)

/-- Write stored bytes with poison; a word written whole takes new check bits (R332). -/
def State.writeKey (s : State) (key : Nat) (bs : PBytes) (keep : Bool) : State :=
  { s with
    mem := memWrite s.mem key bs.data
    poison := poisonAfter s.poison key bs keep
    upsets := s.upsets.filter fun e => !coversWord key bs.length e.1 }

/-! ### Bit errors of stored words and what reading them does (R285, R330, R333, R334)

`State.upsets` holds, by storage word, the bits in which a stored codeword differs from what was written: data in
[127:0], check bits in [143:128]. A read mends the words it reads: a correctable one is delivered and written back
corrected, an uncorrectable one is put in poison form. -/

/-- What the check of a word came to. -/
inductive Check where
  | clean
  | corrected (symbol : Nat)
  | poisoned
  deriving DecidableEq, Repr

/-- The 16-byte word of a run of bytes, as data bits. -/
def wordOf (bs : List Byte) : BitVec 128 := BitVec.ofNat 128 (leNat bs)

/-- Check a word of which some bits have flipped (R330): its data then, whether it is poison, and what was found. -/
def checkWord (d : BitVec 128) (poison : Bool) (err : BitVec 144) : BitVec 128 × Bool × Check :=
  let q := if poison then poisonForm (nibbleEncode d) else nibbleEncode d
  let d1 := d ^^^ err.truncate 128
  match nibbleDecode d1 (q ^^^ (err >>> 128).truncate 16) with
  | .clean v => (v, false, .clean)
  | .corrected v j => (v, false, .corrected j)
  | .storedPoison => (d1, true, .clean)
  | .uncorrectable => (d1, true, .poisoned)

/-- Check one storage word and write back what the check gives (R285, R333, R334). -/
def State.mendWord (s : State) (w : Nat) : State × Check :=
  match Map.find s.upsets w with
  | none => (s, .clean)
  | some e =>
    let r := checkWord (wordOf (memRead s.mem (16 * w) 16)) (s.poison.contains w) e
    ({ s with
        upsets := Map.erase s.upsets w
        mem := memWrite s.mem (16 * w) (leBytes 16 r.1.toNat)
        poison := if r.2.1 then setAdd s.poison w else setDel s.poison w }, r.2.2)

/-- Mend words of a bank, or of a cache that lies in banks: corrections and newly poisoned words are counted, and each
word poisoned writes record 0x0202 (R285, R333, R451). `unit` is the record's UNIT, `a` the address of the first. -/
def State.mendWords (s : State) (blk unit a : Nat) (ws : List Nat) : State :=
  if s.upsets.isEmpty then s
  else
    ws.foldl
      (fun acc w =>
        match acc.mendWord w with
        | (t, .clean) => t
        | (t, .corrected _) => t.count blk 0x160 1
        | (t, .poisoned) => (t.count blk 0x168 1).record blk 0x0202 unit 0 (a / 16 * 16 + 16 * (w - ws.headD w))) s

/-- Blocks and numbers of a DRAM controller: HBM3E stack 0 to 15, LPDDR5X package 16 + package (R451). -/
def dramBlock (c : Nat) : Nat := if c < 16 then bHbm c else bLpx
def dramUnit (c : Nat) : Nat := if c < 16 then c else 0x0100 + (c - 16)

/-- The lowest-numbered suspect pin of a line's pseudo-channel or package, or 0xFF (R451). -/
def suspectPin (d : Dram) (channel : Nat) : Nat :=
  match (d.suspects.filter fun k => k / 64 = channel) with
  | k :: _ => k % 64
  | [] => 0xFF

/-- A correction on a pin (R331, R335): counted, LAST_PIN noted, and at 16 in one pass the pin is suspect. -/
def State.pinCorrected (s : State) (c channel pin : Nat) : State :=
  let blk := dramBlock c
  let d := s.dram c
  let k := 64 * channel + pin
  let n := Map.get d.pins k 0 + 1
  let s1 := (s.count blk 0x150 1).setDram c
    { d with pins := Map.put d.pins k n 0, suspects := if n = 16 then setAdd d.suspects k else d.suspects }
  let s2 := s1.setFld blk 0x108 16 6 pin
  let s3 := if c < 16 then s2.setFld blk 0x108 22 5 channel else s2.setFld blk 0x108 8 5 (c - 16)
  if n = 16 then s3.record blk 0x0112 (dramUnit c) pin n else s3

/-- A controller checks one word of a line (R330, R333); the second part says a word of the line has become poison, the
third that the line is written back. -/
def State.mendDramWord (s : State) (c channel : Nat) (w : Nat) (found : Bool × Bool) : State × Bool × Bool :=
  match s.mendWord w with
  | (t, .clean) => (t, found)
  | (t, .corrected pin) => (t.pinCorrected c channel pin, found.1, true)
  | (t, .poisoned) => ((t.count (dramBlock c) 0x158 1).setReg (dramBlock c) 0x110 (BitVec.ofNat 64 (w / 8 * 128)), true, true)

/-- A controller checks a line that it reads: corrected words and words in poison form are written back, and a line with
a newly poisoned word writes record 0x0201 (R333, R334, R451). -/
def State.mendDram (s : State) (c channel line : Nat) : State :=
  if s.upsets.isEmpty then s
  else
    let r := (List.range 8).foldl (fun (acc : State × Bool × Bool) i => acc.1.mendDramWord c channel (8 * line + i) acc.2)
      (s, false, false)
    let s1 := if r.2.2 then r.1.count (dramBlock c) 0x148 128 else r.1
    if r.2.1 then s1.record (dramBlock c) 0x0201 (dramUnit c) (suspectPin (s1.dram c) channel) (line * 128) else s1

/-! ### Lines, agents and the directory (R299 to R302) -/

def lineOf (a : Nat) : Nat := a / 128

/-- Tile that owns an HBM3E address (R320). -/
def hbmTile (a : Nat) : Nat := a / 0x4800000000

/-- Stack of an HBM3E address (R320). -/
def hbmStack (a : Nat) : Nat :=
  let t := hbmTile a
  let o := a - t * 0x4800000000
  4 * t + (bitsOf o 12 2 ^^^ bitsOf o 14 2)

/-- Pseudo-channel of an HBM3E address (R320). -/
def hbmChannel (a : Nat) : Nat :=
  let o := a - hbmTile a * 0x4800000000
  bitsOf o 7 5 ^^^ bitsOf o 16 5

/-- Package of an LPDDR5X address (R324). -/
def lpxPackage (a : Nat) : Nat := bitsOf a 7 5 ^^^ bitsOf a 12 5

/-- Home arbiter of a cacheable address (R300). -/
def homeOf (a : Nat) : Nat :=
  let h := bitsOf a 7 4 ^^^ bitsOf a 11 4 ^^^ bitsOf a 15 4 ^^^ bitsOf a 19 4
  match regionOf a with
  | some .hbm => 16 * hbmTile a + h
  | some .sram => 16 * ((a - sramBase) / 2 ^ 30) + h
  | _ => 64 + (bitsOf a 7 3 ^^^ bitsOf a 10 3 ^^^ bitsOf a 13 3)

/-- A home's last-level cache or the hub L3 holds the line (R297). -/
def State.inLlc (s : State) (line : Nat) : Bool := (Map.find s.llc line).isSome

/-- Banks of a tile in cache mode and in service, in ascending order (R297, R312). -/
def State.cacheBankList (s : State) (tile : Nat) : List Nat :=
  if s.isEnabled (bBankTile tile) then (List.range 256).filter fun b => (s.bank (bBankTile tile) b).mode = 2 else []

/-- Banks of a tile in cache mode and in service (R297, R312). -/
def State.cacheBanks (s : State) (tile : Nat) : Nat := (s.cacheBankList tile).length

/-- The cache bank that a line of HBM3E selects: hash(a) mod C; the manual does not give the hash (log entry 29). -/
def State.cacheBankOf (s : State) (tile line : Nat) : Nat :=
  (s.cacheBankList tile).getD (Config.cacheHash line % max 1 (s.cacheBanks tile)) 0

/-- Every word of a line becomes poison. -/
def State.poisonLine (s : State) (line : Nat) : State :=
  { s with poison := (List.range 8).foldl (fun acc i => setAdd acc (line * 8 + i)) s.poison }

/-- A last-level cache or the hub L3 checks a line that it reads: an uncorrectable word poisons the line (R333). -/
def State.mendCached (s : State) (blk unit line : Nat) : State :=
  let ws := wordsOf (line * 128) 128
  let bad := ws.any fun w => match Map.find s.upsets w with
    | some e => (checkWord (wordOf (memRead s.mem (16 * w) 16)) (s.poison.contains w) e).2.2 == .poisoned
    | none => false
  let s1 := s.mendWords blk unit (line * 128) ws
  if bad then s1.poisonLine line else s1

/-- The home reads its copy of a line: the controller, the bank or the cache that holds it checks every word
(R285, R333). Words of the host window are checked as they arrive. -/
def State.mendLine (s : State) (line : Nat) : State :=
  if s.upsets.isEmpty then s
  else
    let a := line * 128
    let ws := wordsOf a 128
    match regionOf a with
    | some .hbm =>
      if s.inLlc line then s.mendCached (bBankTile (hbmTile a)) (s.cacheBankOf (hbmTile a) line) line
      else s.mendDram (hbmStack a) (hbmChannel a) line
    | some .lpx => if s.inLlc line then s.mendCached bPkg 0 line else s.mendDram (16 + lpxPackage a) 0 line
    | some .sram => s.mendWords (bBankTile ((a - sramBase) / 2 ^ 30)) ((a - sramBase) / 2 ^ 22 % 256) a ws
    | _ => s

def State.dir (s : State) (line : Nat) : DirEntry := Map.get s.dirs line .reset
def State.setDir (s : State) (line : Nat) (d : DirEntry) : State := { s with dirs := Map.put s.dirs line d .reset }

def agentKey (agent line : Nat) : Nat := line * 512 + agent

def State.held1 (s : State) (agent line : Nat) : HeldLine := Map.get s.lines (agentKey agent line) .reset

def State.setHeld1 (s : State) (agent line : Nat) (h : HeldLine) : State :=
  { s with lines := Map.put s.lines (agentKey agent line) (if h.st = .I then .reset else h) .reset }

/-- The line is dirty: M or O (R302). -/
def HeldLine.dirty (h : HeldLine) : Bool := h.st == .M || h.st == .O

/-- A line's bytes as a sparse store. -/
def bytesToMap (bs : List Byte) : Map Byte :=
  (bs.zip (List.range bs.length)).foldl (fun m e => Map.put m e.2 e.1 0) []

def HeldLine.bytes (h : HeldLine) : PBytes :=
  (List.range 128).map fun i => (Map.get h.data i 0, h.poison.contains (i / 16))

/-- A held line with new contents. -/
def HeldLine.withBytes (h : HeldLine) (bs : PBytes) : HeldLine :=
  { h with data := bytesToMap bs.data, poison := (List.range 8).filter fun w => ((bs.drop (16 * w)).take 16).any (·.2) }

/-- The core whose data cache or unit a requester code names (R509). -/
def coreOfCode (who : Nat) : Option Nat := if who < 3328 then some (who / 8) else none

/-- A core's cluster router has sent (0x1C8) or received (0x1D0) k bytes of data over its bond port; the counter reads
the same in the four cores of the cluster (R161, R162; which bytes count, log entry 81). -/
def State.clusterCount (s : State) (core off k : Nat) : State :=
  (List.range 4).foldl (fun acc i => acc.count (bCore (4 * (core / 4) + i)) off k) s

/-- The die or core that an address's data lies at: a scratchpad's core, the tile of an HBM3E or SRAM address, or the hub. -/
def State.addrNode (s : State) (a : Nat) : Node :=
  match s.placeOf a with
  | .scratch p _ => coreNode p
  | .sram t _ => t
  | .dram => if a < hbmEnd then hbmTile a else 4
  | _ => 4

/-- A coherence agent: a core's data cache, or a server core's L2 at the hub. -/
def agentNode (agent : Nat) : Node := if agent < 416 then coreNode agent else 4

/-- The requester code of a coherence agent (R509). -/
def agentCode (a : Nat) : Nat := if a < 416 then 8 * a + 1 else 0x1000 + (a - 416)

/-- An agent's data cache sends a line to its home or receives it from there, as coherent data (class 2, R171). -/
def State.lineSent (s : State) (agent line : Nat) : State :=
  (if agent < 416 then s.clusterCount agent 0x1C8 128 else s).carry (agentNode agent) (s.addrNode (line * 128)) 2 (some (agentCode agent, true))
def State.lineReceived (s : State) (agent line : Nat) : State :=
  (if agent < 416 then s.clusterCount agent 0x1D0 128 else s).carry (s.addrNode (line * 128)) (agentNode agent) 2 (some (agentCode agent, false))

/-- k bytes of data cross cluster routers: those of a core's units, and those of a scratchpad that a unit of another cluster
reaches. Between cores of one cluster the data stays in the router (DEDUCED, log entry 81). -/
def State.routersCount (s : State) (who a k : Nat) (write : Bool) : State :=
  let near := coreOfCode who
  let far := match s.placeOf a with
    | .scratch p _ => some p
    | _ => none
  if near.map (· / 4) = far.map (· / 4) then s
  else
    let s1 := match near with
      | some c => s.clusterCount c (if write then 0x1C8 else 0x1D0) k
      | none => s
    match far with
    | some p => s1.clusterCount p (if write then 0x1D0 else 0x1C8) k
    | none => s1

/-- k bytes of data pass between a requester and an address. -/
def State.dataMoved (s : State) (who a k : Nat) (write : Bool) : State :=
  match s.placeOf a with
  | .unmapped => s
  | .isolated _ => s
  | _ =>
    let there := s.addrNode a
    let s1 := s.routersCount who a k write
    if write then s1.carry (codeNode who) there (codeClass who) (some (who, true))
    else s1.carry there (codeNode who) (codeClass who) (some (who, false))

/-- The agent takes part in coherence: not declared dead, its site reachable (R272, R309). -/
def State.agentLive (s : State) (agent : Nat) : Bool :=
  if agent < 416 then s.siteReachable (agent / 8) else !((s.home 0).dead.contains agent)

/-- Agents that a snoop to the sharers reaches: up to three exactly, beyond that every agent of the coarse groups of
eight (R301). -/
def snoopTargets (sharers : List Nat) : List Nat :=
  if sharers.length ≤ 3 then sharers
  else (List.range 448).filter fun a => sharers.any fun b => b / 8 = a / 8

/-! ### A home's own copy -/

/-- The egress buffer's bytes lie over host memory in the home's view (R297, R400). -/
def overlay (base : Nat) (bs : PBytes) (e : Egress) : PBytes :=
  (bs.zip (List.range bs.length)).map fun x =>
    let a := base + x.2
    if e.addr ≤ a ∧ a < e.addr + e.bytes.length then (e.bytes.getD (a - e.addr) 0, e.poison) else x.1

/-- The home's copy of a run of bytes, last-level caches included (R298). -/
def State.homeCopy (s : State) (a n : Nat) : PBytes :=
  let bs := s.readKey a n
  match regionOf a with
  | some .host => s.ncl.egress.foldl (overlay a) bs
  | _ => bs

/-- The runs of equal poison of a write to the host, oldest first. -/
def hostRuns (a : Nat) : PBytes → List (Nat × List Byte × Bool)
  | [] => []
  | (b, p) :: rest =>
    match hostRuns (a + 1) rest with
    | (k, bs, q) :: more => if p = q then (a, b :: bs, q) :: more else (a, [b], p) :: (k, bs, q) :: more
    | [] => [(a, [b], p)]

/-- The writes that the 64 MiB of the egress buffer hold, `used` bytes being taken; those behind them wait for room (R400). -/
def inBuffer : Nat → List Egress → List Egress
  | _, [] => []
  | used, e :: es => if used + e.bytes.length ≤ 2 ^ 26 then e :: inBuffer (used + e.bytes.length) es else []

/-- Bytes held in the egress buffer (R400). -/
def State.egressBytes (s : State) : Nat := ((inBuffer 0 s.ncl.egress).map (·.bytes.length)).sum

/-- The buffer is full, or a write waits for room. -/
def State.egressFull (s : State) : Bool :=
  decide (2 ^ 26 ≤ s.egressBytes) || decide ((inBuffer 0 s.ncl.egress).length < s.ncl.egress.length)

/-- A write of an owner that the host has not acknowledged (R399, R400). -/
def State.owed (s : State) (own : WriteOwner) : Bool := s.ncl.egress.any fun e => e.owner == own

/-- A write joins the egress buffer, or waits behind it for room (R400). -/
def State.egressWrite (s : State) (own : WriteOwner) (a : Nat) (bs : PBytes) : State :=
  let es := (hostRuns a bs).map fun r =>
    ({ addr := r.1, bytes := r.2.1, poison := r.2.2, owner := own, completion := none } : Egress)
  { s with ncl := { s.ncl with egress := s.ncl.egress ++ es } }

/-- The writes that a unit has put into the egress buffer after the first n are given another owner: the ring, the copy or
the move that they belong to. -/
def State.ownWrites (s : State) (n who : Nat) (own : WriteOwner) : State :=
  { s with
    ncl :=
      { s.ncl with
        egress := s.ncl.egress.take n ++ (s.ncl.egress.drop n).map fun e => if e.owner = .unit who then { e with owner := own } else e } }

/-- Put bytes into the home's copy: memory, or the egress buffer for host lines; a partial write of a word reads, checks
and merges it. -/
def State.homePut (s : State) (own : WriteOwner) (a : Nat) (bs : PBytes) (keep : Bool) : State :=
  match regionOf a with
  | some .host => s.egressWrite own a bs
  | _ =>
    let whole := decide (a % 16 = 0) && decide (bs.length % 16 = 0)
    (if whole then s else s.mendLine (lineOf a)).writeKey a bs keep

/-! ### The memory-side caches (R297, R298)

Both hold the home's own copy, so they decide traffic and counters only: `State.llc` lists the lines they hold, dirty
ones marked. -/

/-- Ways of a set (R297). -/
def llcWays : Nat := 16

/-- Set of a line of HBM3E within its cache bank, one of 2,048 of a 4 MiB bank, told apart by bank and tile; set of a
line of the hub L3, one of 49,152 of 96 MiB. The manual gives neither index (log entry 29). -/
def State.llcSet (s : State) (line : Nat) : Nat × Nat :=
  match regionOf (line * 128) with
  | some .hbm => let t := hbmTile (line * 128); (256 * t + s.cacheBankOf t line, Config.cacheHash line / max 1 (s.cacheBanks t) % 2048)
  | _ => (1024, Config.cacheHash line % 49152)

/-- A line leaves its cache; a dirty one is written back (R297, R313). -/
def State.llcDrop (s : State) (line : Nat) : State :=
  let a := line * 128
  let s1 := { s with llc := Map.erase s.llc line }
  if Map.find s.llc line = some true then
    match regionOf a with
    | some .hbm => (s1.count (bBankTile (hbmTile a)) 0x180 1).count (bHbm (hbmStack a)) 0x148 128
    | some .lpx => s1.count bLpx 0x148 128
    | _ => s1
  else s1

/-- Make room for a line in a full set. Which of its 16 lines leaves is free: the manual gives a pseudo-LRU order and not
its tie rules (log entry 29). -/
def State.llcRoom (s : State) (line : Nat) : State :=
  if s.inLlc line || decide (s.llc.length < llcWays) then s
  else
    let inSet := (s.llc.map (·.1)).filter fun l => s.llcSet l = s.llcSet line
    if inSet.length < llcWays then s
    else
      let (v, s1) := s.free
      s1.llcDrop (inSet.getD (v.toNat % inSet.length) line)

/-- A line is put into the cache of its home, or marked dirty there. -/
def State.llcPut (s : State) (line : Nat) (dirty : Bool) : State :=
  let s1 := s.llcRoom line
  { s1 with llc := Map.insert s1.llc line (dirty || (Map.find s1.llc line).getD false) }

/-- Traffic at the memory side of a home: last-level cache presence and the DRAM byte counters (R297, R313, R337,
R339). `k` bytes of a line are read or written; a miss in a cache reads the whole line. -/
def State.memTraffic (s : State) (a k : Nat) (write first : Bool) : State :=
  let l := lineOf a
  let hit := s.inLlc l
  match regionOf a with
  | some .hbm =>
    let t := hbmTile a
    if s.cacheBanks t = 0 then s.count (bHbm (hbmStack a)) (if write then 0x148 else 0x140) k
    else
      let s0 := s.touchBank (bBankTile t) (s.cacheBankOf t l)
      let s1 := if first then s0.count (bBankTile t) (if hit then 0x170 else 0x178) 1 else s0
      let s2 := if hit || write then s1 else s1.count (bHbm (hbmStack a)) 0x140 128
      s2.llcPut l write
  | some .lpx => (if hit || write then s else s.count bLpx 0x140 128).llcPut l write
  | some .host => s.llcPut l false
  | some .sram => s.touchBank (bBankTile ((a - sramBase) / 2 ^ 30)) ((a - sramBase) / 2 ^ 22 % 256)
  | _ => s

/-! ### Words on their way (R333) -/

/-- Bytes that arrive over the fabric, as their receiving endpoint delivers them: `State.wire` holds the bits in which the
next words to arrive are wrong. A word is corrected or becomes poison; nothing is counted (log entry 35). -/
def State.arrive (s : State) (bs : PBytes) : State × PBytes :=
  match s.wire with
  | [] => (s, bs)
  | e :: es =>
    let r := checkWord 0 false e
    ({ s with wire := es }, (bs.zip (List.range bs.length)).map fun x =>
      if x.2 < 16 then (x.1.1 ^^^ BitVec.ofNat 8 (r.1.toNat / 256 ^ x.2), x.1.2 || r.2.1) else x.1)

end Sys2Proof.Machine
end

