-- ==== Sys2Proof/Machine/Homes.lean ====
section
/-! DEFINITION. The transactions of the home arbiters and what coherent agents do in them (R299 to R311, R399): snoops and
their answers, eviction, the directory's room, Retry, and the death of an agent. -/

namespace Sys2Proof.Machine

/-! ### Transactions -/

/-- Requester code of a coherent agent (R509). -/

def TxnFrom.code : TxnFrom → Nat
  | .agent a => agentCode a
  | .requester r => r.toNat
  | .host => 0xFFFF

/-- The agent behind a transaction. -/
def TxnFrom.agent? : TxnFrom → Option Nat
  | .agent a => some a
  | _ => none

/-- What a snooped agent does (R303): whether it forwards, and if so dirty or clean, and its next state. -/
def agentAnswer (k : SnoopKind) (st : Moesi) : Option Bool × Moesi :=
  match k, st with
  | .snpS, .M => (some true, .O)
  | .snpS, .O => (some true, .O)
  | .snpS, .E => (some false, .S)
  | .snpU, .M => (some true, .I)
  | .snpU, .O => (some true, .I)
  | .snpU, .E => (some false, .I)
  | .snpNS, .M => (some true, .M)
  | .snpNS, .O => (some true, .O)
  | .snpNS, .E => (some false, .E)
  | .snpRecall, .M => (some true, .I)
  | .snpRecall, .O => (some true, .I)
  | .snpS, st => (none, st)
  | .snpNS, st => (none, st)
  | _, _ => (none, .I)

/-- Upg that has lost its line is treated as RdU (R304). -/
def effectiveReq (d : DirEntry) (t : Txn) : CohReq :=
  match t.req, t.src with
  | .upg, .agent a =>
    if (d.st = .S ∧ d.sharers.contains a) ∨ (d.st = .O ∧ d.owner = a) then .upg else .rdu
  | r, _ => r

/-- Snoops that a request needs by the directory state (R304, R399). -/
def snoopsFor (d : DirEntry) (req : CohReq) (src : TxnFrom) : List (Nat × SnoopKind) :=
  let inv := ((snoopTargets d.sharers).filter fun a => some a ≠ src.agent? ∧ a ≠ d.owner).map fun a => (a, SnoopKind.snpI)
  let invS := ((snoopTargets d.sharers).filter fun a => some a ≠ src.agent?).map fun a => (a, SnoopKind.snpI)
  match req, d.st with
  | .rds, .X => [(d.owner, .snpS)]
  | .rds, .O => [(d.owner, .snpS)]
  | .rdu, .S => invS
  | .rdu, .X => [(d.owner, .snpU)]
  | .rdu, .O => inv ++ [(d.owner, .snpU)]
  | .upg, .S => invS
  | .upg, .O => inv
  | .rdns, .X => [(d.owner, .snpNS)]
  | .rdns, .O => [(d.owner, .snpNS)]
  | .wfi, .S => invS
  | .wfi, .X => [(d.owner, .snpI)]
  | .wfi, .O => (d.owner, .snpI) :: inv
  | .wp, .S => invS
  | .wp, .X => [(d.owner, .snpRecall)]
  | .wp, .O => (d.owner, .snpRecall) :: inv
  | .hsnps, .X => [(d.owner, .snpS)]
  | .hsnps, .O => [(d.owner, .snpS)]
  | .hsnpu, .S => invS
  | .hsnpu, .X => [(d.owner, .snpU)]
  | .hsnpu, .O => inv ++ [(d.owner, .snpU)]
  | .hsnpi, .S => invS
  | .hsnpi, .X => [(d.owner, .snpU)]
  | .hsnpi, .O => inv ++ [(d.owner, .snpU)]
  | _, _ => []

/-! ### Words held in caches (R333) -/

/-- Upsets of a held line's words are kept beyond the storage words of memory. -/
def cacheWordKey (agent line w : Nat) : Nat := 2 ^ 61 + agentKey agent line * 8 + w

/-- A line arrives anew in a cache: whatever was wrong with its place there is overwritten. -/
def State.newHeld (s : State) (agent line : Nat) : State :=
  { s with upsets := s.upsets.filter fun e => e.1 < cacheWordKey agent line 0 ∨ cacheWordKey agent line 8 ≤ e.1 }

/-- A cache reads a line it holds: each wrong word is corrected in place, an uncorrectable one poisons the line and writes
record 0x0202 (R333, R451; which block and UNIT name a cache is the model's, log entry 35). -/
def State.mendHeld (s : State) (agent line : Nat) : State :=
  if s.upsets.isEmpty then s
  else
    (List.range 8).foldl
      (fun acc w =>
        match Map.find acc.upsets (cacheWordKey agent line w) with
        | none => acc
        | some e =>
          let h := acc.held1 agent line
          let bs := h.bytes
          let r := checkWord (wordOf (PBytes.data ((bs.drop (16 * w)).take 16))) (h.poison.contains w) e
          let s1 := { acc with upsets := Map.erase acc.upsets (cacheWordKey agent line w) }
          let word := (leBytes 16 r.1.toNat).map fun b => (b, r.2.1)
          if r.2.2 = .poisoned then
            (s1.setHeld1 agent line { h with poison := List.range 8 }).record (if agent < 416 then bCore agent else bPkg) 0x0202
              agent 0 (line * 128)
          else s1.setHeld1 agent line (h.withBytes (bs.take (16 * w) ++ word ++ bs.drop (16 * w + 16)))) s

/-- The owner that must forward a line: directory state X or O, owner live and holding it. -/
def State.ownerOf (s : State) (line : Nat) : Option Nat :=
  let d := s.dir line
  if d.st = .X ∨ d.st = .O then
    if (s.held1 d.owner line).st = .I ∨ !s.agentLive d.owner then none else some d.owner
  else none

/-- Counters of an admitted request that snoops n agents, f of them forwarding (R315). -/
def State.countRequest (s : State) (home snoops forwards : Nat) : State :=
  let s1 := s.count (bHome home) 0x140 1
  let s2 := if snoops = 0 then s1 else s1.count (bHome home) 0x150 snoops
  if forwards = 0 then s2 else s2.count (bHome home) 0x148 forwards

/-- A held line after its agent's own stores: M, with new bytes; each store writes part of a word, so a poisoned word stays
poisoned (R302, R450). -/
def HeldLine.stored (h : HeldLine) (bs : List Byte) : HeldLine :=
  { h with st := .M, data := bytesToMap bs }

/-- The agent's own stores so far, which make an E or M line M (R302). -/
def State.storeInto (s : State) (a line : Nat) (stored : Option (List Byte)) : State :=
  let h := s.held1 a line
  match stored with
  | some bs => if h.st = .E ∨ h.st = .M then s.setHeld1 a line (h.stored bs) else s
  | none => s

/-- The home reads its copy of a line for a requester: checked, and for a line of a host window that has since closed an
unmapped access (R318, R333, R402). -/
def State.homeRead (s : State) (who line : Nat) : State × PBytes :=
  let a := line * 128
  if regionOf a = some .host ∧ s.placeOf a ≠ .host then (s.unmappedLine who a, .refused 128)
  else
    let s1 := s.mendLine line
    (s1, s1.homeCopy a 128)

/-- The data that answers a request, forwarded or the home's copy, as it arrives (R333). -/
def State.txnData (s : State) (t : Txn) : State × PBytes :=
  match t.fwd with
  | some (_, bs) => s.arrive bs
  | none => let (s1, bs) := s.homeRead t.src.code t.line; s1.arrive bs

/-- Give an agent a line; the response to a dead agent is dropped (R310). -/
def State.give (s : State) (a line : Nat) (st : Moesi) (bs : PBytes) : State :=
  if s.agentLive a then ((s.newHeld a line).lineReceived a line).setHeld1 a line ({ HeldLine.reset with st := st }.withBytes bs) else s

/-- A server core consumes poison: record 0x021D with the first poisoned word's address, and its exception (R449, R451). -/
def State.consumePoison (s : State) (core a : Nat) (bs : PBytes) : State :=
  if bs.anyPoison then
    (s.record bPkg 0x021D core 0 ((a + (bs.takeWhile fun x => !x.2).length) / 16 * 16)).emit (.accessFault core)
  else s

/-- The answer to a non-allocating read. -/
def State.answerRead (s : State) (src : TxnFrom) (line : Nat) (bs : PBytes) : State :=
  let s1 := s.emit (.readData src line bs)
  match src with
  | .requester r => if 0x1000 ≤ r.toNat ∧ r.toNat < 0x1020 then s1.consumePoison (r.toNat - 0x1000) (line * 128) bs else s1
  | _ => s1

/-- The data of a requester's read or write of a line passes between them (R162, R171). -/
def State.lineMoved (s : State) (src : TxnFrom) (line k : Nat) (write : Bool) : State :=
  match src with
  | .requester r => s.dataMoved r.toNat (line * 128) k write
  | _ => s

/-- A load of a server core has brought a line into its L2; whether it consumes a poisoned word of it is free (log
entry 33). -/
def State.l2Load (s : State) (agent line : Nat) (bs : PBytes) : State :=
  if 416 ≤ agent ∧ bs.anyPoison ∧ s.agentLive agent then
    let (v, s1) := s.free
    if v.toNat % 2 = 0 then s1.consumePoison (agent - 416) (line * 128) bs else s1
  else s

/-- Memory traffic of a request that no cache answered. -/
def State.txnRead (s : State) (t : Txn) : State :=
  match t.fwd with
  | some _ => s
  | none => s.memTraffic (t.line * 128) 128 false true

/-- Whose write a request's is in the egress buffer. -/
def TxnFrom.owner : TxnFrom → WriteOwner
  | .requester r => .unit r.toNat
  | _ => .home

/-- A line written back or written whole arrives and reaches the home's copy. A bank that has since left scratchpad mode
refuses its two rows (R286), and a host window that has closed is unmapped (R402). -/
def State.linePut (s : State) (own : WriteOwner) (who line : Nat) (bs : PBytes) (keep : Bool) : State :=
  let a := line * 128
  let (s1, got) := s.arrive bs
  match s1.placeOf a with
  | .sram t b =>
    if s1.bankServes (bBankTile t) b then (s1.touchBank (bBankTile t) b).homePut own a got keep
    else s1.refuseRows (bBankTile t) b who a 2
  | .dram => (s1.homePut own a got keep).memTraffic a 128 true true
  | .host => (s1.homePut own a got keep).memTraffic a 128 true true
  | _ => s1.unmappedLine who a

/-- Some word of the line is written in part. -/
def maskPartial (mask : BitVec 128) : Bool :=
  (List.range 8).any fun w => (List.range 16).any (fun i => mask.getLsbD (16 * w + i)) && !(List.range 16).all fun i => mask.getLsbD (16 * w + i)

/-- The runs of bytes that a mask names: offset and bytes. -/
def maskRuns (mask : BitVec 128) (data : PBytes) : List (Nat × PBytes) :=
  (data.zip (List.range 128)).foldr
    (fun x acc =>
      if !mask.getLsbD x.2 then acc
      else match acc with
        | (k, bs) :: more => if k = x.2 + 1 then (x.2, x.1 :: bs) :: more else (x.2, [x.1]) :: (k, bs) :: more
        | [] => [(x.2, [x.1])]) []

/-- A word of which a mask names some bytes is written: the others keep their bytes and their poison (R304, R450). -/
def State.mergeWord (s : State) (key : Nat) (bits : List Bool) (word : PBytes) : State :=
  if bits.any id then
    s.writeKey key (((s.readKey key 16).zip (word.zip bits)).map fun x => if x.2.2 then x.2.1 else x.1) true
  else s

/-- Bytes of a partial write merged over the home's copy: a word written in part is read and checked first, one not written
at all stays as it is; to the host go the bytes that the mask names (R285, R304, R333, R398). -/
def State.mergeMasked (s : State) (own : WriteOwner) (who line : Nat) (mask : BitVec 128) (data : List Byte) : State :=
  let a := line * 128
  let (s1, got) := s.arrive (.clean data)
  let merged :=
    (List.range 8).foldl
      (fun acc w => acc.mergeWord (a + 16 * w) ((List.range 16).map fun i => mask.getLsbD (16 * w + i)) ((got.drop (16 * w)).take 16))
      (if maskPartial mask then s1.mendLine line else s1)
  match s1.placeOf a with
  | .sram t b => if s1.bankServes (bBankTile t) b then merged.touchBank (bBankTile t) b else s1.refuseRows (bBankTile t) b who a 2
  | .dram => merged.memTraffic a 128 true true
  | .host => ((maskRuns mask got).foldl (fun acc r => acc.egressWrite own (a + r.1) r.2) s1).memTraffic a 128 true true
  | _ => s1.unmappedLine who a

/-- A request whose answer is the home's own copy. -/
def Txn.readsHome (t : Txn) : Bool := t.fwd.isNone && (t.req == .rds || t.req == .rdu || t.req == .rdns)

/-- Dirty data of a host snoop's answer is in the host's hands, and older writes to the line bring it nothing older (R399). -/
def State.hostTakes (s : State) (line : Nat) (bs : PBytes) : State :=
  let a := line * 128
  let s1 := s.writeKey a bs false
  let newer (e : Egress) : Egress :=
    if lineOf e.addr = line then
      let part : PBytes := (bs.drop (e.addr - a)).take e.bytes.length
      { e with bytes := part.data, poison := part.anyPoison }
    else e
  { s1 with ncl := { s1.ncl with egress := s1.ncl.egress.map newer } }

/-- Complete a transaction whose snoops have all been answered (R304, R399). -/
def State.finishTxn (s0 : State) (t : Txn) : State :=
  let line := t.line
  let (s, bs) := if t.readsHome || t.fwd.isSome then s0.txnData t else (s0, [])
  let d := s.dir line
  let dirty : Bool := match t.fwd with
    | some (b, _) => b
    | none => false
  match t.req, t.src with
  | .rds, .agent a =>
    let s1 := (s.txnRead t).l2Load a line bs
    match d.st, t.fwd with
    | .U, _ => (s1.give a line .E bs).setDir line { st := .X, owner := a, sharers := [] }
    | .S, _ => (s1.give a line .S bs).setDir line { d with sharers := setAdd d.sharers a }
    | _, some _ =>
      if d.st = .O ∨ dirty then
        (s1.give a line .S bs).setDir line { st := .O, owner := d.owner, sharers := setAdd d.sharers a }
      else (s1.give a line .S bs).setDir line { st := .S, owner := 0, sharers := setAdd (setAdd [] d.owner) a }
    | .O, none => (s1.give a line .S bs).setDir line { st := .S, owner := 0, sharers := setAdd d.sharers a }
    | .X, none => (s1.give a line .E bs).setDir line { st := .X, owner := a, sharers := [] }
  | .rdu, .agent a =>
    ((s.txnRead t).give a line (if dirty then .M else .E) bs).setDir line { st := .X, owner := a, sharers := [] }
  | .upg, .agent a =>
    let h := s.held1 a line
    (if s.agentLive a ∧ h.st ≠ .I then s.setHeld1 a line { h with st := if d.st = .O then .M else .E } else s).setDir
      line { st := .X, owner := a, sharers := [] }
  | .evc, .agent a =>
    let s1 := s.setHeld1 a line .reset
    if d.st = .X ∧ d.owner = a then s1.setDir line .reset else s1
  | .evd, .agent a =>
    let sm := s.mendHeld a line
    let h := sm.held1 a line
    let s1 := sm.setHeld1 a line .reset
    if (d.st = .X ∨ d.st = .O) ∧ d.owner = a then
      let s2 := (s1.lineSent a line).linePut .home t.src.code line h.bytes false
      if d.st = .X ∨ d.sharers = [] then s2.setDir line .reset
      else s2.setDir line { st := .S, owner := 0, sharers := d.sharers }
    else s1
  | .rdns, src => ((s.txnRead t).lineMoved src line 128 false).answerRead src line bs
  | .wfi, src =>
    ((s.lineMoved src line 128 true).linePut src.owner src.code line (.clean t.data) false).setDir line .reset
  | .wp, src =>
    let n := ((List.range 128).filter fun i => t.mask.getLsbD i).length
    ((s.lineMoved src line n true).mergeMasked src.owner src.code line t.mask t.data).setDir line .reset
  | .hsnps, _ =>
    match t.fwd with
    | some (true, _) =>
      ((s.hostTakes line bs).setDir line { d with st := .O }).emit (.hostSnoopAnswer line (some true) bs)
    | some (false, _) =>
      (s.setDir line (if d.st = .X then { st := .S, owner := 0, sharers := [d.owner] } else d)).emit
        (.hostSnoopAnswer line (some false) [])
    | none => s.emit (.hostSnoopAnswer line none [])
  | .hsnpu, _ =>
    match t.fwd with
    | some (b, _) =>
      ((if b then s.hostTakes line bs else s).setDir line .reset).emit (.hostSnoopAnswer line (some b) bs)
    | none => (s.setDir line .reset).emit (.hostSnoopAnswer line none [])
  | .hsnpi, _ =>
    match t.fwd with
    | some (true, _) =>
      ((s.hostTakes line bs).setDir line .reset).emit (.hostSnoopAnswer line (some true) bs)
    | _ => (s.setDir line .reset).emit (.hostSnoopAnswer line none [])
  | _, _ => s

/-- Replace the first transaction on a line. -/
def mapFirst (line : Nat) (f : Txn → Option Txn) : List Txn → List Txn
  | [] => []
  | t :: ts => if t.line = line then (match f t with | some u => u :: ts | none => ts) else t :: mapFirst line f ts

/-- Reclaim one directory entry from a dead agent (R310). -/
def State.reclaimEntry (s : State) (agent line : Nat) : State :=
  let d := s.dir line
  let h := homeOf (line * 128)
  let lost (s : State) : State :=
    ((s.poisonLine line).count (bHome h) 0x178 1).recordOnce (bHome h) 0x020D agent h agent (line * 128)
  if d.st = .X ∧ d.owner = agent then lost (s.setDir line .reset)
  else if d.st = .O ∧ d.owner = agent then
    let s1 := (snoopTargets d.sharers).foldl (fun acc x => acc.setHeld1 x line .reset) s
    lost ((if d.sharers = [] then s1 else s1.count (bHome h) 0x150 (snoopTargets d.sharers).length).setDir line .reset)
  else if (d.st = .S ∨ d.st = .O) ∧ d.sharers.contains agent then
    let rest := setDel d.sharers agent
    (s.setDir line (if d.st = .S ∧ rest = [] then .reset else { d with sharers := rest })).count (bHome h) 0x170 1
  else s

/-- A transaction of a dead agent completes, its response is dropped (`give`), and an entry that names the agent is
reclaimed (R310, R311). -/
def State.settleDead (s : State) (t : Txn) : State :=
  match t.src with
  | .agent a => if s.agentLive a then s else s.reclaimEntry a t.line
  | _ => s

/-- The host must answer or take the answer of this transaction, and cannot now: a read of the host waits for the link and
an open decision, and so does the answer to a host snoop (R326, R410, R411). -/
def State.hostBlocked (s : State) (t : Txn) : Bool :=
  (t.readsHome || t.src == .host) && (!s.ncl.up || s.ncl.decide) && s.placeOf (t.line * 128) == .host

/-- Carry the transactions of a line forward: send the snoops of the first, complete it when they are answered, and go
on with the next (R305). -/
def State.progress : Nat → State → Nat → Nat → State
  | 0, s, _, _ => s
  | n + 1, s, h, line =>
    match (s.home h).txns.find? fun t => t.line = line with
    | none => s
    | some t =>
      if !t.started then
        let d := s.dir line
        let req := effectiveReq d t
        let all := snoopsFor d req t.src
        let live := all.filter fun x => s.agentLive x.1
        let s1 := if all.isEmpty then s else s.count (bHome h) 0x150 all.length
        let x := s1.home h
        progress n
          (s1.setHome h { x with txns := mapFirst line (fun u => some { u with req := req, started := true, snoops := live }) x.txns })
          h line
      else if t.snoops.isEmpty && !s.hostBlocked t then
        let s1 := (s.finishTxn t).settleDead t
        let x := s1.home h
        progress n (s1.setHome h { x with txns := mapFirst line (fun _ => none) x.txns }) h line
      else s

/-- Entries that serve ordinary requests: 64 less the reserved one (R305, R306). -/
def tableRoom (x : Home) : Bool := decide ((x.txns.filter fun t => !t.aged).length < 63)

/-- The transaction of a request. -/
def newTxn (line : Nat) (req : CohReq) (src : TxnFrom) (data : List Byte) (mask : BitVec 128) (aged : Bool) : Txn :=
  { line := line, req := req, src := src, aged := aged, started := false, data := data, mask := mask, snoops := []
    fwd := none }

/-- Put a transaction into the table and carry its line forward. -/
def State.enter (s : State) (h : Nat) (t : Txn) : State :=
  let x := s.home h
  (s.setHome h { x with txns := x.txns ++ [t] }).progress (2 * x.txns.length + 4) h t.line

/-- Host snoops that waited for room enter the table (R305, R398). -/
def State.admitSnoops (s : State) (h : Nat) : State :=
  (s.home h).hostSnoops.foldl
    (fun acc x =>
      let y := acc.home h
      if tableRoom y then
        ((acc.setHome h { y with hostSnoops := y.hostSnoops.drop 1 }).count (bHome h) 0x140 1).enter h (newTxn x.1 x.2 .host [] 0 false)
      else acc) s

/-- Carry a line forward, and let in what waits for room. -/
def State.advance (s : State) (h line : Nat) : State :=
  (s.progress (2 * (s.home h).txns.length + 2) h line).admitSnoops h

/-- Sets and ways of a home's directory (R301). -/
def dirSets (h : Nat) : Nat := if h < 64 then 1024 else 2048

/-- Directory set of a line; the manual fixes no index (log entry 8). -/
def dirSet (h line : Nat) : Nat := line / (if h < 64 then 16 else 8) % dirSets h

/-- A server core's stores are no commands, so what an L2 holding a line alone has stored is a free value wherever it
answers outside a command that brings its stores (R302; log entry 33). -/
def State.ownStores (s : State) (agent line : Nat) : State :=
  let h := s.held1 agent line
  if agent < 416 ∨ (h.st ≠ .E ∧ h.st ≠ .M) then s
  else
    let (v, s1) := s.free
    if h.st = .E ∧ v.toNat % 2 = 0 then s1
    else
      { s1.setHeld1 agent line (h.stored ((List.range 128).map fun i => Config.freeByte (s1.fresh + i)))
        with fresh := s1.fresh + 128 }

/-- The owner's copy of a line reaches memory if it is dirty. -/
def State.ownerBack (s : State) (who line : Nat) : State :=
  match s.ownerOf line with
  | some o =>
    let sa := (s.ownStores o line).mendHeld o line
    let h := sa.held1 o line
    if h.dirty then (sa.lineSent o line).linePut .home who line h.bytes false else sa
  | none => s

/-- Take every agent's copy of a line away; a dirty copy reaches memory first where `recalling` is set. -/
def State.clearHolders (s : State) (who line : Nat) (recalling : Bool) : State :=
  let d := s.dir line
  let owner := if d.st = .X ∨ d.st = .O then [d.owner] else []
  let others := if d.st = .S ∨ d.st = .O then (snoopTargets d.sharers).filter (fun a => !owner.contains a) else []
  let s1 := if recalling then s.ownerBack who line else s
  let s2 := (owner ++ others).foldl (fun acc x => acc.setHeld1 x line .reset) s1
  let s3 := s2.setDir line .reset
  if owner ++ others = [] then s3 else s3.count (bHome (homeOf (line * 128))) 0x150 (owner ++ others).length

/-- A snooped agent answers; nothing happens where no such snoop is outstanding (R303). -/
def State.snoopAnswer (s : State) (a line : Nat) (k : SnoopKind) (stored : Option (List Byte)) : State :=
  let home := homeOf (line * 128)
  match (s.home home).txns.find? fun t => t.line = line with
  | none => s
  | some t =>
    if t.snoops.contains (a, k) then
      let s1 := (s.storeInto a line stored).mendHeld a line
      let h := s1.held1 a line
      let (f, st) := agentAnswer k h.st
      let s2 := s1.setHeld1 a line { h with st := st }
      let s3 :=
        match f, k with
        | some true, .snpRecall => (s2.lineSent a line).linePut .home (agentCode a) line h.bytes false
        | some _, .snpRecall => s2
        | some _, _ => (s2.lineSent a line).count (bHome home) 0x148 1
        | none, _ => s2
      let fwd :=
        match f, k with
        | some _, .snpRecall => t.fwd
        | some b, _ => some (b, h.bytes)
        | none, _ => t.fwd
      let x := s3.home home
      (s3.setHome home
        { x with
          txns :=
            mapFirst line (fun u => some { u with snoops := u.snoops.filter (fun y => y ≠ (a, k)), fwd := fwd }) x.txns
          late := x.late.filter (· ≠ (line, a)) }).advance
        home line
    else s

/-! ### Commands that wait for no answer (log entry 33)

A unit of the device reads or writes within one command. Whatever stands in its way at the home is brought to its end
first: agents with snoops outstanding on the line answer, and the line's transactions complete in order (R305). -/

/-- Bring the transactions of a line to their end. -/
def State.settle : Nat → State → Nat → Nat → State
  | 0, s, _, _ => s
  | n + 1, s, h, line =>
    match (s.home h).txns.find? fun t => t.line = line with
    | none => s
    | some t =>
      match t.snoops with
      | (a, k) :: _ => settle n ((s.ownStores a line).snoopAnswer a line k none) h line
      | [] => settle n (s.advance h line) h line

/-- No transaction of the line is in progress any more. -/
def State.settleLine (s : State) (h line : Nat) : State := s.settle (512 * (s.home h).txns.length) h line

/-! ### Admission (R301, R305, R306) -/

/-- Requests that give an agent the line, and so need a directory entry. -/
def CohReq.allocates (r : CohReq) : Bool := r == .rds || r == .rdu || r == .upg

/-- The lines of a home's directory set that hold an entry, and those that a transaction in the table will give one. -/
def State.setLines (s : State) (h line : Nat) : List Nat × List Nat :=
  let same (l : Nat) : Bool := homeOf (l * 128) == h && dirSet h l == dirSet h line
  let inDir := (s.dirs.map (·.1)).filter same
  (inDir, (((s.home h).txns.filter fun t => t.req.allocates && same t.line && !inDir.contains t.line).map (·.line)).eraseDups)

/-- Make room in a full set (R301): an entry is recalled, one that is in no transaction where there is one, else one whose
transactions come to their end first (log entry 33). -/
def State.dirRoom (s : State) (h line : Nat) : State :=
  if (Map.find s.dirs line).isSome || decide (s.dirs.length + (s.home h).txns.length < 16) then s
  else
    let (held, coming) := s.setLines h line
    if coming.contains line || decide (held.length + coming.length < 16) then s
    else
      let busy (l : Nat) : Bool := (s.home h).txns.any fun t => t.line = l
      let out := (((held.filter fun l => !busy l) ++ held ++ coming).head?).getD line
      ((if busy out then s.settleLine h out else s).clearHolders 0 out true).count (bHome h) 0x168 1

/-- Admit a request (R305). -/
def State.takeIn (s : State) (h : Nat) (t : Txn) : State :=
  let s1 := (if t.req.allocates then s.dirRoom h t.line else s).count (bHome h) 0x140 1
  (s1.enter h t).admitSnoops h

/-- A requester whose aged request waits at the arbiter holds its other requests to it back (R306). -/
def Home.holdsBack (x : Home) (src : TxnFrom) : Bool := x.aged.any fun r => r.src = src

/-- A request reaches its home: admitted, held back by its requester, or answered Retry when the table is full (R305,
R306). A host snoop waits for room: the link has no Retry for the host (R398). -/
def State.request (s : State) (line : Nat) (req : CohReq) (src : TxnFrom) (data : List Byte) (mask : BitVec 128) : State :=
  let h := homeOf (line * 128)
  let x := s.home h
  let waits (sent : Bool) : Retried :=
    { home := h, line := line, req := req, src := src, data := data, mask := mask, age := 0, sent := sent }
  if x.holdsBack src then { s with retried := s.retried ++ [waits false] }
  else if tableRoom x then s.takeIn h (newTxn line req src data mask false)
  else if src = .host then s.setHome h { x with hostSnoops := x.hostSnoops ++ [(line, req)] }
  else { ((s.count (bHome h) 0x158 1).emit (.retryAnswer h line)) with retried := s.retried ++ [waits true] }

/-- The answer to a request that no home serves: an access fault for a server core's unmapped access, else poison, which a
server core that asked for it consumes (R286, R318, R449). -/
def State.poisonAnswer (s : State) (req : CohReq) (src : TxnFrom) (line : Nat) (fault : Bool) : State :=
  let s1 :=
    if req = .wfi ∨ req = .wp then s
    else if fault then s.emit (.readData src line (PBytes.refused 128))
    else s.answerRead src line (PBytes.refused 128)
  match src with
  | .agent a => if fault ∧ 416 ≤ a then s1.emit (.accessFault (a - 416)) else s1
  | .requester r => if fault ∧ 0x1000 ≤ r.toNat ∧ r.toNat < 0x1020 then s1.emit (.accessFault (r.toNat - 0x1000)) else s1
  | .host => s1

/-- Bank rows that a request for a line of the SRAM window touches (R286). -/
def rowsTouched (req : CohReq) (mask : BitVec 128) : Nat :=
  if req = .wp then ((List.range 2).filter fun r => (List.range 64).any fun i => mask.getLsbD (64 * r + i)).length else 2

/-- What becomes of a request whose address leads to no home: unmapped, isolated, or in a bank that serves no accesses
(R272, R286, R318, R402). Evictions always reach their home. -/
def State.turnedAway (s : State) (line : Nat) (req : CohReq) (src : TxnFrom) (mask : BitVec 128) : Option State :=
  let a := line * 128
  let who := src.code
  if req = .evc ∨ req = .evd then none
  else
    match s.placeOf a with
    | .unmapped => some ((s.unmappedLine who a).poisonAnswer req src line true)
    | .isolated _ => some (s.isolatedAccess.poisonAnswer req src line false)
    | .sram t b =>
      if s.bankServes (bBankTile t) b then none
      else some ((s.refuseRows (bBankTile t) b who a (rowsTouched req mask)).poisonAnswer req src line false)
    | _ => none

/-- The oldest aged request: greatest AGE, first come on a tie (R306; DEDUCED, log entry 73). -/
def oldestAged : List Retried → Option Retried
  | [] => none
  | r :: rs => match oldestAged rs with
    | some q => if r.age < q.age then some q else some r
    | none => some r

/-- Insert an aged transaction behind the one in progress on its line (R306). -/
def insertAged (t : Txn) : List Txn → List Txn
  | [] => [t]
  | u :: us => if u.line = t.line then u :: t :: us else u :: insertAged t us

/-- The requests that a requester has held back from an arbiter set out, once no aged one of its waits there (R306). -/
def State.sendHeldBack (s : State) (h : Nat) (src : TxnFrom) : State :=
  if (s.home h).holdsBack src then s
  else
    let mine (r : Retried) : Bool := !r.sent && r.src == src && r.home == h
    (s.retried.filter mine).foldl (fun acc r => acc.request r.line r.req r.src r.data r.mask)
      { s with retried := s.retried.filter fun r => !mine r }

/-- The oldest aged request takes the reserved entry when it is free (R306). -/
def State.admitAged (s : State) (h : Nat) : State :=
  let x := s.home h
  match oldestAged x.aged with
  | none => s
  | some r =>
    if x.txns.any fun t => t.aged then s
    else
      let s0 := s.setHome h { x with aged := x.aged.erase r }
      let s1 := match s0.turnedAway r.line r.req r.src r.mask with
        | some t => t
        | none =>
          let t := ((if r.req.allocates then s0.dirRoom h r.line else s0).count (bHome h) 0x140 1).count (bHome h) 0x160 1
          let y := t.home h
          (t.setHome h { y with txns := insertAged (newTxn r.line r.req r.src r.data r.mask true) y.txns }).advance h r.line
      s1.sendHeldBack h r.src

/-- Before a unit's own access to an arbiter, its aged requests there are admitted (R306): the reserved entry is freed
each time by letting what holds it come to its end (log entry 33). -/
def State.ownAgedFirst (s : State) (h : Nat) (src : TxnFrom) : State :=
  (List.range (s.home h).aged.length).foldl
    (fun acc _ =>
      if (acc.home h).holdsBack src then
        (match (acc.home h).txns.find? (fun (t : Txn) => t.aged) with
          | some t => acc.settleLine h t.line
          | none => acc).admitAged h
      else acc) s

/-- A request of the device's own finds room: a full table answers Retry once, and by the time the request is sent again
the table has emptied (R305). -/
def State.clearWay (s0 : State) (src : TxnFrom) (line : Nat) : State :=
  let h := homeOf (line * 128)
  let s := s0.ownAgedFirst h src
  let x := s.home h
  if x.txns.isEmpty then s
  else
    let s1 :=
      if tableRoom x then s
      else x.txns.foldl (fun acc t => acc.settleLine h t.line) (s.count (bHome h) 0x158 1)
    s1.settleLine h line

/-- An eviction: the line stands in the eviction buffer until its home acknowledges (R302). An agent in E sends EvC, one
in M or O sends EvD (R303). -/
def State.evict (s : State) (a line : Nat) (req : CohReq) : State :=
  let h := s.held1 a line
  let fits : Bool := if req = .evc then h.st == .E else h.dirty
  if s.agentLive a ∧ fits then (s.setHeld1 a line { h with evicting := true }).request line req (.agent a) [] 0 else s

/-! ### Death of an agent (R309 to R311) -/

/-- Transactions that wait for the dead agent's answer take it from R310: an awaited forward is poison. -/
def State.releaseSnoops (s : State) (agent h : Nat) : State :=
  let x := s.home h
  let hit := x.txns.filter fun t => t.snoops.any fun y => y.1 = agent
  let s1 := s.setHome h
    { x with
      txns := x.txns.map fun t =>
        if t.snoops.any fun y => y.1 = agent then
          { t with
            snoops := t.snoops.filter fun y => y.1 ≠ agent
            fwd := if t.snoops.any fun y => y.1 = agent ∧ (y.2 = .snpS ∨ y.2 = .snpU ∨ y.2 = .snpNS)
              then some (false, PBytes.refused 128) else t.fwd }
        else t
      late := x.late.filter fun y => y.2 ≠ agent }
  hit.foldl (fun acc t => acc.advance h t.line) s1

/-- A request of a coherent agent, or of a unit of the core whose data cache it is (R509). -/
def TxnFrom.ofAgent (src : TxnFrom) (agent : Nat) : Bool :=
  match src with
  | .agent a => a == agent
  | .requester r => decide (agent < 416) && r.toNat / 8 == agent
  | .host => false

/-- Declare an agent dead: every arbiter reclaims its lines and walks its directory (R310, R311), and what the agent had
not yet got admitted is refused (R310, R273). RECLAIMING stays set to the next turn boundary (log entry 62). -/
def State.declareDead (s : State) (agent : Nat) : State :=
  let s0 := { s with once := s.once.filter fun k => k % 1048576 ≠ agent ∨ (k / 1048576) % 65536 ≠ 0x020D }
  let s1 := s0.dirs.foldl (fun acc e => acc.reclaimEntry agent e.1) s0
  let s2 :=
    { s1 with
      lines := s1.lines.filter fun e => e.1 % 512 ≠ agent
      retried := s1.retried.filter fun r => !r.src.ofAgent agent
      homes := (List.range 72).foldl
        (fun m h => let y := Map.get m h Home.reset
          Map.put m h { y with reclaiming := true, aged := y.aged.filter fun r => !r.src.ofAgent agent } .reset) s1.homes }
  (List.range 72).foldl (fun acc h => acc.releaseSnoops agent h) s2

end Sys2Proof.Machine
end

