-- ==== Sys2Proof/Machine/Access.lean ====
section
/-! DEFINITION. The accesses of the device's units: non-allocating reads and writes by RdNS, WFI and WP, a core's own
scratchpad, and a core's data cache (R124, R125, R150, R285, R286, R299, R304, R318, R333). -/

namespace Sys2Proof.Machine

/-! ### Non-allocating accesses (R299, R304 rows RdNS, WFI, WP) -/

/-- A unit of the device as a requester of the fabric. -/
def unitSrc (who : Nat) : TxnFrom := .requester (BitVec.ofNat 16 who)

/-- Read n bytes of one line by RdNS (R304). `first` marks the first part of the line in this access. -/
def State.readLine (s0 : State) (who a n : Nat) (first : Bool) : State × PBytes :=
  let line := lineOf a
  let s := s0.clearWay (unitSrc who) line
  match s.ownerOf line with
  | some o =>
    let s1 := ((if first then s.countRequest (homeOf a) 1 1 else s).ownStores o line).mendHeld o line
    (if first then s1.lineSent o line else s1, ((s1.held1 o line).bytes.drop (a % 128)).take n)
  | none =>
    let s1 := (if first then s.countRequest (homeOf a) 0 0 else s).mendLine line
    (s1.memTraffic a n false first, s1.homeCopy a n)

/-- A request to the home of a line has a transaction before it that waits for the host: it waits behind it in the table as
a partial write (R305, R410). -/
def State.writeBehind (s : State) (who a : Nat) (bs : PBytes) : State :=
  let at' := a % 128
  let data := List.replicate at' 0 ++ bs.data ++ List.replicate (128 - at' - bs.length) 0
  (s.count (bHome (homeOf a)) 0x140 1).enter (homeOf a)
    (newTxn (lineOf a) .wp (unitSrc who) data (BitVec.ofNat 128 ((2 ^ bs.length - 1) * 2 ^ at')) false)

/-- Write bytes of one line: WFI when the whole line is written, else WP (R304). -/
def State.writeLine (s : State) (who a : Nat) (bs : PBytes) (whole first : Bool) : State :=
  let line := lineOf a
  let s0 := if first then s.clearWay (unitSrc who) line else s
  if (s0.home (homeOf a)).txns.any fun t => t.line = line then s0.writeBehind who a bs
  else
    let s1 := if first then (s0.clearHolders who line (!whole)).count (bHome (homeOf a)) 0x140 1 else s0
    (s1.homePut (.unit who) a bs (!whole)).memTraffic a bs.length true first

/-- Words of [key, key + n) that a write covers in part, and so reads. -/
def partWords (key n : Nat) : List Nat := (wordsOf key n).filter fun w => !coversWord key n w

/-- One access of at most a 64-byte row (R286, R318). -/
def State.readRow (s : State) (who a n : Nat) (first : Bool) : State × PBytes :=
  match s.placeOf a with
  | .unmapped => (if first then s.unmappedLine who a else s, .refused n)
  | .isolated _ => (if first then s.isolatedAccess else s, .refused n)
  | .scratch p off =>
    let blk := bBankCore p
    let b := scratchBank off
    if s.bankServes blk b then
      let s1 := (s.touchBank blk b).mendWords blk b a (wordsOf (scratchKey p off) n)
      (s1, s1.readKey (scratchKey p off) n)
    else (s.refuseRow blk b who a, .refused n)
  | .sram t b =>
    if s.bankServes (bBankTile t) b then (s.touchBank (bBankTile t) b).readLine who a n first
    else (s.refuseRow (bBankTile t) b who a, .refused n)
  | .dram => s.readLine who a n first
  | .host =>
    if s.ncl.refused.contains who then ({ s with ncl := { s.ncl with refused := setDel s.ncl.refused who } }, .refused n)
    else s.readLine who a n first

def State.writeRow (s : State) (who a : Nat) (bs : PBytes) (whole first : Bool) : State :=
  match s.placeOf a with
  | .unmapped => if first then s.unmappedLine who a else s
  | .isolated _ => if first then s.isolatedAccess else s
  | .scratch p off =>
    let blk := bBankCore p
    let b := scratchBank off
    if s.bankServes blk b then
      ((s.touchBank blk b).mendWords blk b a (partWords (scratchKey p off) bs.length)).writeKey (scratchKey p off) bs false
    else s.refuseRow blk b who a
  | .sram t b =>
    if s.bankServes (bBankTile t) b then (s.touchBank (bBankTile t) b).writeLine who a bs whole first
    else s.refuseRow (bBankTile t) b who a
  | .dram => s.writeLine who a bs whole first
  | .host => s.writeLine who a bs whole first

/-- The rows that [a, a + n) touches: start, length, and whether the part is the first of its line. -/
def rowsOf (a n : Nat) : List (Nat × Nat × Bool) :=
  if n = 0 then []
  else
    (List.range ((a + n - 1) / 64 - a / 64 + 1)).map fun i =>
      let row := a / 64 + i
      let lo := max a (row * 64)
      let hi := min (a + n) (row * 64 + 64)
      (lo, hi - lo, i == 0 || row % 2 == 0)

/-- Read a run of physical addresses as a non-allocating requester. -/
def State.readRun (s : State) (who a n : Nat) : State × PBytes :=
  (rowsOf a n).foldl
    (fun (acc : State × PBytes) r => let (s1, bs) := acc.1.readRow who r.1 r.2.1 r.2.2
      let (s2, got) := s1.arrive bs
      (s2.dataMoved who r.1 r.2.1 false, acc.2 ++ got)) (s, [])

/-- Write a run of physical addresses: lines covered whole by WFI, others by WP (R150). -/
def State.writeRun (s : State) (who a : Nat) (bs : PBytes) : State :=
  (rowsOf a bs.length).foldl
    (fun acc r =>
      let base := r.1 / 128 * 128
      let (s1, got) := (acc.dataMoved who r.1 r.2.1 true).arrive ((bs.drop (r.1 - a)).take r.2.1)
      s1.writeRow who r.1 got (decide (a ≤ base) && decide (base + 128 ≤ a + bs.length)) r.2.2) s

/-- Physical address of a core's own scratchpad byte, by storage key; the core's units reach it without the mesh. -/
def State.ownRead (s : State) (who core off n : Nat) : State × PBytes :=
  (rowsOf off n).foldl
    (fun (acc : State × PBytes) r =>
      let blk := bBankCore core
      let b := scratchBank r.1
      if acc.1.bankServes blk b then
        let s1 := (acc.1.touchBank blk b).mendWords blk b r.1 (wordsOf (scratchKey core r.1) r.2.1)
        (s1, acc.2 ++ s1.readKey (scratchKey core r.1) r.2.1)
      else (acc.1.refuseRow blk b who r.1, acc.2 ++ .refused r.2.1)) (s, [])

def State.ownWrite (s : State) (who core off : Nat) (bs : PBytes) : State :=
  (rowsOf off bs.length).foldl
    (fun acc r =>
      let blk := bBankCore core
      let b := scratchBank r.1
      if acc.bankServes blk b then
        ((acc.touchBank blk b).mendWords blk b r.1 (partWords (scratchKey core r.1) r.2.1)).writeKey (scratchKey core r.1)
          ((bs.drop (r.1 - off)).take r.2.1) false
      else acc.refuseRow blk b who r.1) s

/-- A read of the host window waits while the link is down or an epoch decision is open (R326, R410, R411). -/
def State.hostWaits (s : State) (a n : Nat) : Bool :=
  decide (0 < n) && decide (hostBase ≤ a + n - 1) && decide (a < hostBase + s.hostSize) && (!s.ncl.up || s.ncl.decide)

/-- A unit's read of the host waits (R410): a decision to decline will answer it with poison (R412). -/
def State.hostStall (s : State) (who : Nat) : State := { s with ncl := { s.ncl with waiting := setAdd s.ncl.waiting who } }

/-- The same for a unit's next move; none where that it waits is known already (R410). -/
def State.stallOnce (s : State) (who : Nat) : Option State :=
  if s.ncl.waiting.contains who then none else some (s.hostStall who)

/-- A disabled block's units have no read waiting for the host any more. -/
def State.hostForget (s : State) (mine : Nat → Bool) : State :=
  { s with ncl := { s.ncl with waiting := s.ncl.waiting.filter fun w => !mine w, refused := s.ncl.refused.filter fun w => !mine w } }

/-- A write to the host window waits while the egress buffer is full (R400). -/
def State.hostFull (s : State) (a n : Nat) : Bool :=
  decide (0 < n) && decide (hostBase ≤ a + n - 1) && decide (a < hostBase + s.hostSize) && s.egressFull

/-- What a read of a run gives, without the traffic and the counts of making it: for values that a unit has read in an
earlier step of its work (log entry 24). -/
def State.peek (s : State) (a n : Nat) : PBytes :=
  (rowsOf a n).foldl (fun acc r => acc ++ (s.readRow 0 r.1 r.2.1 false).2) []

/-- The same as data, with whether any word is poison. -/
def State.peekBytes (s : State) (a n : Nat) : List Byte × Bool := let bs := s.peek a n; (bs.data, bs.anyPoison)

/-! ### Allocating accesses of a core's data cache (R125, R150) -/

/-- Sets of an agent's cache: 64 of a core's data cache, the set being the line's number modulo 64 (R123); of a server core's
L2 the manual gives the size alone, 8,192 lines in the model's one set (R15; log entry 29). -/
def cacheSets (agent : Nat) : Nat := if agent < 416 then 64 else 1
def cacheWays (agent : Nat) : Nat := if agent < 416 then 8 else 8192

/-- Lines that an agent's requests on their way will bring. -/
def State.comingLines (s : State) (agent : Nat) : List Nat :=
  let brings (req : CohReq) (src : TxnFrom) : Bool := (req == .rds || req == .rdu) && src == .agent agent
  (s.homes.flatMap fun e => (e.2.txns.filter fun t => brings t.req t.src).map (·.line)
      ++ (e.2.aged.filter fun r => brings r.req r.src).map (·.line))
    ++ (s.retried.filter fun r => brings r.req r.src).map (·.line)

/-- The lines of a line's set in an agent's cache, and how many more its requests will bring there. -/
def State.cacheSet (s : State) (agent line : Nat) : List Nat × Nat :=
  let same (l : Nat) : Bool := l % cacheSets agent == line % cacheSets agent
  (((s.lines.filter fun e => e.1 % 512 = agent).map fun e => e.1 / 512).filter same, ((s.comingLines agent).filter same).length)

/-- Make room for a line in its set of an agent's cache; which line leaves is free (R15, R123, R302; log entry 29). -/
def State.cacheRoom (s : State) (agent line : Nat) : State :=
  let (held, coming) := s.cacheSet agent line
  if held.length + coming < cacheWays agent ∨ held = [] then s
  else
    let (v, s1) := s.free
    let out := held.getD (v.toNat % held.length) line
    let s2 := s1.ownStores agent out
    let h := s2.held1 agent out
    if h.st = .S then s2.setHeld1 agent out .reset
    else
      let s3 := s2.clearWay (.agent agent) out
      (s3.evict agent out (if h.dirty then .evd else .evc)).settleLine (homeOf (out * 128)) out

/-- The set has a way for one more line. -/
def State.cacheHasRoom (s : State) (agent line : Nat) : Bool :=
  let (held, coming) := s.cacheSet agent line
  decide (held.length + coming < cacheWays agent)

/-- Bring a line into a core's data cache in a state at least as good as asked, by RdS, RdU or Upg (R304). -/
def State.acquire (s : State) (core line : Nat) (own : Bool) : State :=
  let h := s.held1 core line
  if h.st = .M ∨ h.st = .E ∨ (h.st ≠ .I ∧ !own) then s
  else
    let s1 := (if h.st = .I then s.cacheRoom core line else s).clearWay (.agent core) line
    let req : CohReq := if !own then .rds else if (s1.held1 core line).st = .I then .rdu else .upg
    (s1.takeIn (homeOf (line * 128)) (newTxn line req (.agent core) [] 0 false)).settleLine (homeOf (line * 128)) line

/-- An address whose lines a cache may hold. -/
def State.cacheable (s : State) (a : Nat) : Bool :=
  match s.placeOf a with
  | .dram => true
  | .host => true
  | .sram t b => s.bankServes (bBankTile t) b
  | _ => false

/-- The lines that [a, a + n) touches: start and length. -/
def linesOf (a n : Nat) : List (Nat × Nat) :=
  if n = 0 then []
  else
    (List.range ((a + n - 1) / 128 - a / 128 + 1)).map fun i =>
      let base := (a / 128 + i) * 128
      let lo := max a base
      let hi := min (a + n) (base + 128)
      (lo, hi - lo)

/-- Read through a core's data cache for one of its units; addresses that are not cacheable go past it (R125, R299). -/
def State.cachedRead (s : State) (who core a n : Nat) : State × PBytes :=
  (linesOf a n).foldl
    (fun (acc : State × PBytes) r =>
      let st := acc.1
      if st.placeOf r.1 == .host && st.ncl.refused.contains who then
        let (s1, bs) := st.readRow who r.1 r.2 true; (s1, acc.2 ++ bs)
      else if st.cacheable r.1 then
        let hit := (st.held1 core (lineOf r.1)).st != .I
        let s1 := ((st.count (bCore core) (if hit then 0x1B0 else 0x1B8) 1).acquire core (lineOf r.1) false).mendHeld core (lineOf r.1)
        (s1, acc.2 ++ (((s1.held1 core (lineOf r.1)).bytes.drop (r.1 % 128)).take r.2))
      else let (s1, bs) := st.readRun who r.1 r.2; (s1, acc.2 ++ bs)) (s, [])

/-- Merge bytes into a line: poison by word as in memory (R448, R450). -/
def HeldLine.merge (h : HeldLine) (off : Nat) (bs : PBytes) : HeldLine :=
  let old := h.bytes
  let merged : PBytes := old.take off ++ bs ++ old.drop (off + bs.length)
  { h with data := bytesToMap merged.data, poison := poisonAfter h.poison off bs false }

/-- Write through a core's data cache. A write that needs ownership is a miss, and hits and misses count once for each line of
an access (R125; what counts as a hit, log entry 91). -/
def State.cachedWrite (s : State) (who core a : Nat) (bs : PBytes) : State :=
  (linesOf a bs.length).foldl
    (fun st r =>
      let part := (bs.drop (r.1 - a)).take r.2
      if st.cacheable r.1 then
        let h := st.held1 core (lineOf r.1)
        let hit := h.st == .M || h.st == .E
        let s1 := ((st.count (bCore core) (if hit then 0x1B0 else 0x1B8) 1).acquire core (lineOf r.1) true).mendHeld core (lineOf r.1)
        s1.setHeld1 core (lineOf r.1) ({ s1.held1 core (lineOf r.1) with st := .M }.merge (r.1 % 128) part)
      else st.writeRun who r.1 part) s

end Sys2Proof.Machine
end

