-- ==== Sys2Proof/Machine/Coherence.lean ====
section
/-! DEFINITION. What reaches the home arbiters from outside and what they do about time (R286, R299 to R311, R314, R318):
requests of agents and requesters, the snooped agents' answers, Retry and ageing, late snoops, HOME_DEAD. -/

namespace Sys2Proof.Machine

/-- The site whose unit sent a request, for a core's unit (R509). -/
def TxnFrom.site : TxnFrom → Option Nat
  | .agent a => if a < 416 then some (a / 8) else none
  | .requester r => if r.toNat < 0x0D00 then some (r.toNat / 64) else none
  | .host => none

/-- A packet of a quarantined die is discarded and counted; the first is recorded (R273). -/
def State.dropPacket (s : State) (site cls : Nat) : State :=
  let x := s.site site
  let s1 := s.count bSite 0x140 1
  if x.packetSeen then s1 else (s1.setSite site { x with packetSeen := true }).record bSite 0x0209 site cls 0

/-- The sender's site is quarantined: nothing it sends is accepted (R273). -/
def State.fromQuarantine (s : State) (src : TxnFrom) : Option Nat :=
  match src.site with
  | some i => if (s.site i).status = .quarantined then some i else none
  | none => none

/-- A masked write of a scratchpad row: words covered whole take new contents, others are read and merged (R285). -/
def State.writeRowMasked (s : State) (who a : Nat) (mask : BitVec 128) (data : List Byte) (row : Nat) : State :=
  if (List.range 64).any fun i => mask.getLsbD (64 * row + i) then
    match s.placeOf (a + 64 * row) with
    | .scratch p off =>
      let blk := bBankCore p
      let b := scratchBank off
      let n := ((List.range 64).filter fun i => mask.getLsbD (64 * row + i)).length
      let (s0, got) := (s.dataMoved who (a + 64 * row) n true).arrive (.clean ((data.drop (64 * row)).take 64))
      if s.bankServes blk b then
        (List.range 4).foldl
          (fun acc w =>
            let bits := (List.range 16).map fun i => mask.getLsbD (64 * row + 16 * w + i)
            let key := scratchKey p off + 16 * w
            let word := (got.drop (16 * w)).take 16
            if bits.all id then acc.writeKey key word false
            else (if bits.any id then acc.mendWords blk b (a + 64 * row + 16 * w) [key / 16] else acc).mergeWord key bits word)
          (s0.touchBank blk b)
      else s0.refuseRow blk b who (a + 64 * row)
    | _ => s
  else s

/-- A request of an agent or a non-allocating requester, by what its address leads to (R273, R286, R299, R316, R318). -/
def State.present (s : State) (line : Nat) (req : CohReq) (src : TxnFrom) (data : List Byte) (mask : BitVec 128) : State :=
  let a := line * 128
  let who := src.code
  match s.fromQuarantine src with
  | some site => s.dropPacket site 1
  | none =>
    match s.turnedAway line req src mask with
    | some t => t
    | none =>
      match s.placeOf a with
      | .scratch _ _ =>
        match req with
        | .rdns => let (s1, bs) := s.readRun who a 128; s1.answerRead src line bs
        | .wfi => s.writeRun who a (.clean data)
        | .wp => (List.range 2).foldl (fun acc row => acc.writeRowMasked who a mask data row) s
        | _ => s
      | .sram t b => (s.touchBank (bBankTile t) b).request line req src data mask
      | _ => s.request line req src data mask

/-- An agent's request sets out: room is made in its cache, and a core's data cache counts a miss (R14, R123, R162). Where every
way of the set already waits for a line, nothing is sent. -/
def State.agentSends (s : State) (a line : Nat) (req : CohReq) : State :=
  let allocates : Bool := req == .rds || req == .rdu
  let s1 := if allocates then s.cacheRoom a line else s
  if allocates && !s1.cacheHasRoom a line then s
  else (if a < 416 then s1.count (bCore a) 0x1B8 1 else s1).present line req (.agent a) [] 0

/-- An agent's request: nothing is sent by an agent that is not live, or that needs none (R302, R303); what a quarantined
die sends is discarded (R273). An agent that reads a line it held in S has dropped it silently (R302). -/
def State.agentRequest (s : State) (a line : Nat) (req : CohReq) : State :=
  let st := (s.held1 a line).st
  match s.fromQuarantine (.agent a) with
  | some site => s.dropPacket site 1
  | none =>
    if !s.agentLive a then s
    else
      match req, st with
      | .rds, .I => s.agentSends a line .rds
      | .rds, .S => (s.setHeld1 a line .reset).agentSends a line .rds
      | .rds, _ => s
      | .rdu, .I => s.agentSends a line .rdu
      | .rdu, .S => s.agentSends a line .upg
      | .rdu, .O => s.agentSends a line .upg
      | .rdu, _ => s
      | r, _ => s.agentSends a line r

/-! ### The commands -/

/-- RDS (R304). -/
def execRds (agent : AgentIx) (line : Nat) (s : State) : Host.Outcome State Fault Refusal :=
  .next (s.agentRequest agent line .rds)

/-- RDU (R304). -/
def execRdu (agent : AgentIx) (line : Nat) (s : State) : Host.Outcome State Fault Refusal :=
  .next (s.agentRequest agent line .rdu)

/-- UPG (R304). -/
def execUpg (agent : AgentIx) (line : Nat) (s : State) : Host.Outcome State Fault Refusal :=
  .next (s.agentRequest agent line .upg)

/-- EVC (R302, R304). -/
def execEvc (agent : AgentIx) (line : Nat) (s : State) : Host.Outcome State Fault Refusal :=
  .next (s.evict agent line .evc)

/-- EVD (R302, R304). -/
def execEvd (agent : AgentIx) (line : Nat) (stored : Option (List Byte)) (s : State) : Host.Outcome State Fault Refusal :=
  .next ((s.storeInto agent line stored).evict agent line .evd)

/-- RDNS (R304). -/
def execRdns (requester : Requester) (line : Nat) (s : State) : Host.Outcome State Fault Refusal :=
  .next (s.present line .rdns (.requester requester) [] 0)

/-- WFI (R304): a whole line of 128 bytes. -/
def execWfi (requester : Requester) (line : Nat) (data : List Byte) (s : State) : Host.Outcome State Fault Refusal :=
  if data.length = 128 then .next (s.present line .wfi (.requester requester) data 0) else .fault .illFormed

/-- WP (R304): bytes of a line under a mask. -/
def execWp (requester : Requester) (line : Nat) (mask : BitVec 128) (data : List Byte) (s : State) :
    Host.Outcome State Fault Refusal :=
  if data.length = 128 then .next (s.present line .wp (.requester requester) data mask) else .fault .illFormed

/-- SNPS (R303). -/
def execSnps (agent : AgentIx) (line : Nat) (stored : Option (List Byte)) (s : State) : Host.Outcome State Fault Refusal :=
  .next (s.snoopAnswer agent line .snpS stored)

/-- SNPU (R303). -/
def execSnpu (agent : AgentIx) (line : Nat) (stored : Option (List Byte)) (s : State) : Host.Outcome State Fault Refusal :=
  .next (s.snoopAnswer agent line .snpU stored)

/-- SNPI (R303). -/
def execSnpi (agent : AgentIx) (line : Nat) (stored : Option (List Byte)) (s : State) : Host.Outcome State Fault Refusal :=
  .next (s.snoopAnswer agent line .snpI stored)

/-- SNPNS (R303). -/
def execSnpns (agent : AgentIx) (line : Nat) (stored : Option (List Byte)) (s : State) : Host.Outcome State Fault Refusal :=
  .next (s.snoopAnswer agent line .snpNS stored)

/-- SNPRECALL (R303). -/
def execSnprecall (agent : AgentIx) (line : Nat) (stored : Option (List Byte)) (s : State) :
    Host.Outcome State Fault Refusal :=
  .next (s.snoopAnswer agent line .snpRecall stored)

/-- AGE_THRESHOLD of a home; 0 acts as 1 (R314). -/
def State.ageThreshold (s : State) (h : Nat) : Nat := max 1 (s.fld (bHome h) 0x100 0 8)

/-- A request that its requester may resend: not one of a quarantined die, and not one held back behind an aged request
at the same arbiter (R273, R306). -/
def State.mayResend (s : State) (r : Retried) : Bool := (s.fromQuarantine r.src).isNone && !(s.home r.home).holdsBack r.src

/-- The next request that a requester resends: its oldest that it may. -/
def State.nextRetry (s : State) (requester : Requester) : Option Retried :=
  s.retried.find? fun r => decide (r.src.code = requester.toNat) && s.mayResend r

/-- RETRY (R305, R306): the requester resends its oldest request that was answered Retry, its AGE raised by one; at the
threshold it waits aged at the home. One that leads to no home any more is answered as such. -/
def execRetry (requester : Requester) (s : State) : Host.Outcome State Fault Refusal :=
  match s.nextRetry requester with
  | none => .next s
  | some r =>
    let age := if r.sent then min 255 (r.age + 1) else r.age
    let s1 := { s with retried := s.retried.erase r }
    let x := s1.home r.home
    match s1.turnedAway r.line r.req r.src r.mask with
    | some t => .next t
    | none =>
      if s1.ageThreshold r.home ≤ age then
        .next (s1.setHome r.home { x with aged := x.aged ++ [{ r with age := age, sent := true }] })
      else if tableRoom x then .next (s1.takeIn r.home (newTxn r.line r.req r.src r.data r.mask false))
      else
        .next ({ (s1.count (bHome r.home) 0x158 1).emit (.retryAnswer r.home r.line) with
          retried := s1.retried ++ [{ r with age := age, sent := true }] })

/-- AGED_ADMISSION (R306): the oldest aged request takes the reserved entry when it is free. -/
def execAgedAdmission (home : HomeIx) (s : State) : Host.Outcome State Fault Refusal := .next (s.admitAged home)

/-- SNOOP_LATE (R308): the longest outstanding snoop of the line that is not yet late is unanswered past SNOOP_LIMIT; one
record names its agent, and the transaction goes on waiting. -/
def execSnoopLate (home : HomeIx) (line : Nat) (s : State) : Host.Outcome State Fault Refusal :=
  let x := s.home home
  match x.txns.find? fun t => t.line = line with
  | none => .next s
  | some t =>
    match t.snoops.find? fun y => !x.late.contains (line, y.1) with
    | some (a, _) => .next ((s.setHome home { x with late := x.late ++ [(line, a)] }).record (bHome home) 0x020C home a (line * 128))
    | none => .next s

/-- HOME_DEAD (R309): a server-core L2 is declared dead to all 72 arbiters. -/
def execHomeDead (home : HomeIx) (agent : BitVec 9) (s : State) : Host.Outcome State Fault Refusal :=
  let x := s.home home
  if 416 ≤ agent.toNat ∧ agent.toNat ≤ 447 then
    let s1 := s.setHome home { x with ignored := false }
    let s2 := (List.range 72).foldl
      (fun acc h => let y := acc.home h; acc.setHome h { y with dead := setAdd y.dead agent.toNat }) s1
    .next (s2.declareDead agent.toNat)
  else .next (s.setHome home { x with ignored := true })

end Sys2Proof.Machine
end

