-- ==== Sys2Proof/Machine/Banks.lean ====
section
/-! DEFINITION. SRAM banks and the DRAM controllers: modes, power, background test and repair (R286 to R296),
scrubbing and refresh (R322, R330 to R335), and module flash (R503). -/

namespace Sys2Proof.Machine

/-! ### Module flash (R503) -/

/-- What an erased byte of flash reads as (R503; log entry 6). -/
def flashErased : Byte := 0xFF

def State.flashRead (s : State) (off n : Nat) : List Byte :=
  (List.range n).map fun i => Map.get s.flash (off + i) flashErased

def State.flashWrite (s : State) (off : Nat) (bs : List Byte) : State :=
  { s with flash := (bs.zip (List.range bs.length)).foldl (fun m e => Map.put m (off + e.2) e.1 flashErased) s.flash }

def repairArea : Nat := 0x2000000
def siteTable : Nat := 0x2100000
def copyoutRecord : Nat := 0x2110000
def assemblyRecord : Nat := 0x2120000

def SiteStatus.code : SiteStatus → Nat
  | .service => 0
  | .spare => 1
  | .quarantined => 2
  | .testing => 3

/-- Four bytes for each site: state, incarnation, readmissions, cause. The manual gives the fields and not their places
(log entry 31). -/
def State.noteSite (s : State) (i : Nat) : State :=
  let x := s.site i
  s.flashWrite (siteTable + 4 * i)
    (leBytes 1 x.status.code ++ leBytes 1 x.incarnation.toNat ++ leBytes 1 x.readmits ++ leBytes 1 x.cause.toNat)

/-- A repair or pin record (R296). -/
def repairRecord (kind wher core bank row spare : Nat) : List Byte :=
  leBytes 8 (kind + wher * 2 ^ 8 + core * 2 ^ 16 + bank * 2 ^ 24 + row * 2 ^ 32 + spare * 2 ^ 48)

/-- Records in the repair area: their last byte is never erased, since bits [63:54] are reserved zeros. -/
def State.repairCount (s : State) : Nat :=
  let used := s.flash.filter fun e => repairArea ≤ e.1 ∧ e.1 < repairArea + 0x100000
  used.foldl (fun n e => max n ((e.1 - repairArea) / 8 + 1)) 0

def State.appendRepair (s : State) (rec : List Byte) : State := s.flashWrite (repairArea + 8 * s.repairCount) rec

/-- The records of the repair area, oldest first. -/
def State.repairRecords (s : State) : List Nat :=
  (List.range s.repairCount).map fun i => leNat (s.flashRead (repairArea + 8 * i) 8)

/-! ### Blocks of banks -/

/-- A BANK_ block: whether it is a base tile's, and its tile or physical core. -/
def bankBlock (blk : Nat) : Option (Bool × Nat) :=
  match blockOf blk with
  | some (.bankTile, t) => some (true, t)
  | some (.bankCore, p) => some (false, p)
  | _ => none

def bankCount (tile : Bool) : Nat := if tile then 256 else 32
def rowsInBank (tile : Bool) : Nat := if tile then 65536 else 2048
def spareRows (tile : Bool) : Nat := if tile then 64 else 8
def pinBuffers (tile : Bool) : Nat := if tile then 8 else 1

/-- The storage key lies in a bank (R283, R284). -/
def inBank (tile : Bool) (unit bank key : Nat) : Bool :=
  if tile then
    decide (sramBase + unit * 2 ^ 30 + bank * 2 ^ 22 ≤ key) && decide (key < sramBase + unit * 2 ^ 30 + (bank + 1) * 2 ^ 22)
  else
    decide (scratchKey unit 0 ≤ key) && decide (key < scratchKey (unit + 1) 0) && decide (scratchBank key = bank)

/-- Fill a bank with zeros that carry valid check bits (R289). -/
def State.fillBank (s : State) (tile : Bool) (unit bank : Nat) : State :=
  { s with
    mem := s.mem.filter fun c => !inBank tile unit bank c.1
    poison := s.poison.filter fun w => !inBank tile unit bank (16 * w)
    upsets := s.upsets.filter fun e => !inBank tile unit bank (16 * e.1) }

/-- Enable one bank: a changed mode, or the first enable after cold reset, fills it (R289, R290). -/
def State.enableBank (s : State) (blk : Nat) (tile : Bool) (unit b : Nat) : State :=
  let x := s.bank blk b
  let s1 := if !x.filled || x.mode != x.modeCfg then s.fillBank tile unit b else s
  s1.setBank blk b
    { x with mode := x.modeCfg, retain := x.retainCfg, filled := true, power := if x.modeCfg = 0 then .off else .on }

/-- The enable actions of a BANK_ block (R289). They are taken when the block enters state 1, so that an access in state 1
finds its bank under the new mode, as one that waits for state 2 does; "once" records start anew with them (R451). -/
def State.enableBanks (s : State) (blk : Nat) : State :=
  match bankBlock blk with
  | some (tile, unit) => (List.range (bankCount tile)).foldl (fun acc b => acc.enableBank blk tile unit b) (s.clearOnce blk)
  | none => s

/-- The lines of a tile's last-level cache. -/
def llcOf (m : Map Bool) (tile : Nat) : Map Bool := m.filter fun e => hbmTile (e.1 * 128) = tile

/-- The disable actions of a BANK_ block: the background test stops, a region under test as it was before; dirty lines of
the last-level cache are written back and all are invalidated (R288). -/
def State.disableBanks (s : State) (blk : Nat) : State :=
  let s1 := s.setTester blk { s.tester blk with running := [] }
  match bankBlock blk with
  | some (true, t) => (llcOf s1.llc t).foldl (fun acc e => acc.llcDrop e.1) s1
  | _ => s1

/-- A RETAIN_IDLE bank that nothing reached in the two turns before a boundary, the e-th since cold reset, enters
retention there (R291). -/
def BankSt.idles (x : BankSt) (e : Nat) : Bool :=
  x.retain && x.power == .on && (match x.lastUse with | some u => decide (u + 2 < e) | none => true)

/-! ### Background test and repair (R293 to R296) -/

/-- Next bank in ascending order that is on, from bank b on, among n. -/
def nextOn (s : State) (blk n : Nat) (b : Nat) : Option Nat :=
  (List.range n).map (fun i => (b + i) % n) |>.find? fun j => (s.bank blk j).power == .on

/-- Pin buffers of a block in use. -/
def State.pinsUsed (s : State) (blk : Nat) : List Nat :=
  (s.banks.filter fun e => e.1 / 256 = blk).foldl (fun acc e => acc ++ e.2.pins.map (·.2)) []

/-- Least of 0 … n − 1 that a list does not hold. -/
def leastFree (used : List Nat) (n : Nat) : Option Nat := (List.range n).find? fun i => !used.contains i

/-- Kind, place and core of a repair record for a block (R296). -/
def repairPlace (tile : Bool) (unit : Nat) (pin : Bool) : Nat × Nat × Nat :=
  if tile then (if pin then 2 else 0, unit, 0) else (if pin then 3 else 1, unit / 8, unit % 8)

/-- A row fails the march: replaced by the next spare row, or its region pinned, or the bank degraded (R295). -/
def State.repairRow (s : State) (blk : Nat) (tile : Bool) (unit b row : Nat) : State :=
  let x := s.bank blk b
  let first := row / 64 * 64
  if x.pins.any fun p => p.1 = first then s
  else
    match leastFree (x.spares.map (·.2)) (spareRows tile) with
    | some spare =>
      let (k, w, c) := repairPlace tile unit false
      (((s.setBank blk b { x with spares := x.spares ++ [(row, spare)] }).count blk 0x148 1).appendRepair
        (repairRecord k w c b row spare)).record blk 0x0110 b row spare
    | none =>
      match leastFree (s.pinsUsed blk) (pinBuffers tile) with
      | some buf =>
        let (k, w, c) := repairPlace tile unit true
        ((s.setBank blk b { x with pins := x.pins ++ [(first, buf)] }).appendRepair
          (repairRecord k w c b first buf)).record blk 0x0111 b (row / 64) 0
      | none =>
        let s1 := s.setBank blk b { x with degradedRows := setAdd x.degradedRows row }
        if x.degradedRows.any fun r => r / 64 = row / 64 then s1 else s1.record blk 0x0203 b (row / 64) 0

/-- Put one record of the repair area back into its bank: a row repaired twice keeps both of its spares, the later one in
service (R296). -/
def State.reapplyRecord (s : State) (r : Nat) : State :=
  let kind := bitsOf r 0 2
  let wher := bitsOf r 8 8
  let core := bitsOf r 16 8
  let b := bitsOf r 24 8
  let row := bitsOf r 32 16
  let spare := bitsOf r 48 6
  let blk := if kind % 2 = 0 then bBankTile wher else bBankCore (8 * wher + core)
  let x := s.bank blk b
  if kind < 2 then
    s.setBank blk b { x with spares := if x.spares.contains (row, spare) then x.spares else x.spares ++ [(row, spare)] }
  else s.setBank blk b { x with pins := (x.pins.filter fun e => e.1 ≠ row) ++ [(row, spare)] }

/-- The site a repair record names, if it names a core's bank. -/
def recordSite (r : Nat) : Option Nat := if bitsOf r 0 2 % 2 = 1 then some (bitsOf r 8 8) else none

/-- Reapply the repair records that a test selects (R296). -/
def State.reapplyRepairs (s : State) (sel : Nat → Bool) : State :=
  (s.repairRecords.filter sel).foldl (fun acc r => acc.reapplyRecord r) s

/-- Storage key of a row of a scratchpad-mode bank (R124, R283, R284). -/
def rowKey (tile : Bool) (unit b row : Nat) : Nat :=
  if tile then sramBase + unit * 2 ^ 30 + b * 2 ^ 22 + 64 * row else scratchKey unit (64 * (32 * row + b))

/-- Address of a row as its own die gives it. -/
def rowAddr (tile : Bool) (unit b row : Nat) : Nat := if tile then rowKey tile unit b row else 64 * (32 * row + b)

/-- The 64 rows of a region are copied: each word is checked as any read checks it, and written with fresh check bits or in
poison form (R285, R294). Which lines the rows of a cache-mode bank hold is not given (log entry 29). -/
def State.copyRegion (s : State) (blk : Nat) (tile : Bool) (unit b region : Nat) : State :=
  if s.bankServes blk b then
    (List.range 64).foldl
      (fun acc i =>
        acc.mendWords blk b (rowAddr tile unit b (64 * region + i)) (wordsOf (rowKey tile unit b (64 * region + i)) 64)) s
  else s

/-- The end of a region test: restored from the save buffer, rows that failed the march repaired from the restore on, the region counted
(R294, R295). -/
def State.finishTest (s : State) (blk engine : Nat) : State :=
  match bankBlock blk with
  | none => s
  | some (tile, unit) =>
    let x := s.tester blk
    match x.running.find? fun r => r.1 = engine with
    | none => s
    | some (_, b, region, failing) =>
      let rows := (List.range 64).map (fun i => 64 * region + i) |>.filter fun r => failing.contains r
      let s1 := (s.setTester blk { x with running := x.running.filter fun r => r.1 ≠ engine }).copyRegion blk tile unit b region
      (rows.foldl (fun acc r => acc.repairRow blk tile unit b r) s1).count blk 0x140 1

/-- Every region test of a block comes to its end. -/
def State.finishTests (s : State) (blk : Nat) : State :=
  (s.tester blk).running.foldl (fun acc r => acc.finishTest blk r.1) s

/-- Boundary actions of all banks: region tests are done (log entry 62), bank-turns spent in retention are counted, idle banks enter it (R291, R313). -/
def State.bankBoundary (s : State) : State :=
  s.banks.foldl
    (fun acc e =>
      let blk := e.1 / 256
      let b := e.1 % 256
      let x := acc.bank blk b
      let s1 := if x.power = .retention then acc.count blk 0x188 1 else acc
      if x.idles s.elapsed then s1.setBank blk b { x with power := .retention } else s1)
    (s.testers.foldl (fun acc e => acc.finishTests e.1) s)

/-- BANK_WAKE (R291): a bank finishes waking from retention. -/
def execBankWake (block : BitVec 16) (bank : BitVec 8) (s : State) : Host.Outcome State Fault Refusal :=
  let x := s.bank block.toNat bank.toNat
  if x.power = .waking then .next ((s.setBank block.toNat bank.toNat { x with power := .on }).count block.toNat 0x150 1)
  else .next s

/-- A test engine may start: its block runs and tests, and TEST_PERIOD turns have passed since its latest start (R293). -/
def State.testerReady (s : State) (blk : Nat) (tile : Bool) (engine : Nat) : Bool :=
  let period := s.fld blk 0x100 0 16
  s.isEnabled blk && period != 0 && (tile || engine == 0) &&
    (match Map.find (s.tester blk).lastStart engine with
      | some e => decide (e + period ≤ s.elapsed)
      | none => true)

/-- REGION_TEST_START (R293 to R295): a test engine takes the block's next region into its save buffer. From then until the
test is done its ordinary accesses are routed to it or to the bank phase by phase, so that no reader can tell, and
`State.mem` stands for whichever holds a word; `failing` are the rows that will fail the
march. -/
def execRegionTestStart (block : BitVec 16) (tester : Fin 4) (failing : List Nat) (s : State) :
    Host.Outcome State Fault Refusal :=
  let blk := block.toNat
  match bankBlock blk with
  | none => .next s
  | some (tile, unit) =>
    if !s.testerReady blk tile tester then .next s
    else
      let s0 := s.finishTest blk tester
      let x := s0.tester blk
      match nextOn s0 blk (bankCount tile) x.bank with
      | none => .next s0
      | some b =>
        let region := if b = x.bank then x.region else 0
        let last := region + 1 = rowsInBank tile / 64
        .next ((s0.copyRegion blk tile unit b region).setTester blk
          { bank := if last then (b + 1) % bankCount tile else b
            region := if last then 0 else region + 1
            lastStart := Map.insert x.lastStart tester s0.elapsed
            running := x.running ++ [((tester : Nat), b, region, failing)] })

/-! ### DRAM controllers (R320 to R325, R330 to R335) -/

/-- Address of line n of an HBM3E stack, in ascending order (R320). -/
def hbmLine (stack n : Nat) : Nat :=
  let t := stack / 4
  let q := n / 32
  t * 0x4800000000 + (4 * q + (stack % 4 ^^^ q % 4)) * 4096 + n % 32 * 128

/-- Address of line n of an LPDDR5X package, in ascending order (R324). -/
def lpxLine (pkg n : Nat) : Nat := lpxBase + n * 4096 + (pkg ^^^ n % 32) * 128

/-- Lines of an HBM3E stack and of an LPDDR5X package (R321, R324). -/
def hbmLines : Nat := 0x1200000000 / 128
def lpxLines : Nat := 0x1000000000 / 128

/-- The end of a scrub pass: pins with fewer than 16 corrections are no longer suspect (R335). -/
def Dram.endPass (d : Dram) : Dram :=
  { d with scrubPos := 0, pins := [], suspects := d.suspects.filter fun k => decide (16 ≤ Map.get d.pins k 0) }

/-- Bit errors appear in stored words: `at` gives the first word, each error its word from there and the flipped bits. -/
def State.upset (s : State) (base : Nat) (errors : List (Nat × BitVec 144)) : State :=
  { s with upsets := errors.foldl (fun m e => Map.put m (base + e.1) (Map.get m (base + e.1) 0 ^^^ e.2) 0) s.upsets }

/-- What reading the line at physical address `a` of controller `c` for the scrubber leaves (R336): a way for it at its home,
and, unless a cache or the home holds newer data, the read, its count and whatever errors it meets. -/
def State.scrubLine (s : State) (c a : Nat) (errors : List (Nat × BitVec 144)) : State :=
  let line := lineOf a
  let s0 := s.clearWay .host line
  let dir := s0.dir line
  if dir.st = .X ∨ dir.st = .O ∨ (Map.find s0.llc line).getD false then s0
  else
    ((((s0.countRequest (homeOf a) 0 0).count (dramBlock c) 0x140 128).count (dramBlock c) 0x160 1).upset (8 * line)
      (errors.filter fun e => e.1 < 8)).mendDram c (if c < 16 then hbmChannel a else 0) line

/-- SCRUB_READ (R335): a controller reads its next line, a transaction at the line's home, unless the memory copy is stale;
it corrects or poisons it. No aged request is a controller's own. Each error names a word 0 to 7 of the line and bits that are found flipped, data in [127:0] and
check bits in [143:128]. -/
def execScrubRead (ctrl : DramIx) (errors : List (Nat × BitVec 144)) (s : State) : Host.Outcome State Fault Refusal :=
  let c := ctrl.val
  let d := s.dram c
  if s.fld (dramBlock c) 0x100 0 20 = 0 || !d.trained then .next s
  else
    let s1 := s.scrubLine c (if c < 16 then hbmLine c d.scrubPos else lpxLine (c - 16) d.scrubPos) errors
    let x := s1.dram c
    if x.scrubPos + 1 < (if c < 16 then hbmLines else lpxLines) then .next (s1.setDram c { x with scrubPos := x.scrubPos + 1 })
    else .next ((s1.setDram c x.endPass).count (dramBlock c) 0x168 1)

/-- HOT_REFRESH: a stack is above HOT_C and refreshes at twice the rate (R322). -/
def State.hotRefresh (s : State) (stack : Nat) : Bool := decide (s.fld (bHbm stack) 0x100 20 8 < (s.dram stack).tempC.toNat)

/-- Turns with HOT_REFRESH set are counted (R337). -/
def State.hotBoundary (s : State) : State :=
  (List.range 16).foldl (fun acc c => if acc.hotRefresh c then acc.count (bHbm c) 0x170 1 else acc) s

/-- HOT_REFRESH (R322): a stack's temperature report. -/
def execHotRefresh (stack : Ix16) (celsius : Byte) (s : State) : Host.Outcome State Fault Refusal :=
  .next (s.setDram stack { s.dram stack with tempC := celsius })

end Sys2Proof.Machine
end

