-- ==== Sys2Proof/Machine/Float.lean ====
section
/-! DEFINITION. Number formats and arithmetic (R28 to R64): encodings, exact values, rounding, conversion and the
three numeric flags. Exact results are dyadic numbers, rounded once. -/

namespace Sys2Proof.Machine

/-! ### Formats -/

/-- The formats of R28, in code order. -/
inductive Fmt where
  | e4m3 | e5m2 | i8 | bf16 | fp16 | fp32 | bf24 | w4i | w4f | fp32x2 | fp32x3
  deriving DecidableEq, Repr

/-- Format codes (R28); 0xB to 0xF are reserved. -/
def Fmt.ofCode : Nat → Option Fmt
  | 0 => some .e4m3
  | 1 => some .e5m2
  | 2 => some .i8
  | 3 => some .bf16
  | 4 => some .fp16
  | 5 => some .fp32
  | 6 => some .bf24
  | 7 => some .w4i
  | 8 => some .w4f
  | 9 => some .fp32x2
  | 10 => some .fp32x3
  | _ => none

/-- Element size in bytes; the 4-bit formats, of half a byte, stand as 0 (R28). -/
def Fmt.size : Fmt → Nat
  | .e4m3 => 1
  | .e5m2 => 1
  | .i8 => 1
  | .bf16 => 2
  | .fp16 => 2
  | .fp32 => 4
  | .bf24 => 3
  | .w4i => 0
  | .w4f => 0
  | .fp32x2 => 4
  | .fp32x3 => 4

/-- Exponent bits, fraction bits and bias of a floating-point format (R29); the piece formats are stored as fp32. -/
def Fmt.params : Fmt → Nat × Nat × Nat
  | .e4m3 => (4, 3, 7)
  | .e5m2 => (5, 2, 15)
  | .fp16 => (5, 10, 15)
  | .bf16 => (8, 7, 127)
  | .bf24 => (8, 15, 127)
  | .w4f => (2, 1, 1)
  | _ => (8, 23, 127)

/-! ### Exact values -/

/-- A value read from an encoding: NaN, an infinity, or (−1)^s · m · 2^e; m = 0 is a zero of sign s. -/
inductive FVal where
  | nan
  | inf (s : Bool)
  | fin (s : Bool) (m : Nat) (e : Int)
  deriving DecidableEq, Repr

def FVal.zero (s : Bool) : FVal := .fin s 0 0

/-- An exact integer; zero is +0 (R33). -/
def FVal.ofInt (z : Int) : FVal := .fin (decide (z < 0)) z.natAbs 0

/-- Value of a floating-point encoding (R29, R39): subnormal encodings read as zeros. -/
def decodeFp (f : Fmt) (u : Nat) : FVal :=
  let (w, fb, bias) := f.params
  let s := bitOf u (w + fb)
  let e := bitsOf u fb w
  let fr := bitsOf u 0 fb
  if e = 0 then .zero s
  else if e = 2 ^ w - 1 ∧ f ≠ .e4m3 ∧ f ≠ .w4f then (if fr = 0 then .inf s else .nan)
  else if f = .e4m3 ∧ e = 15 ∧ fr = 7 then .nan
  else .fin s (2 ^ fb + fr) ((e : Int) - bias - fb)

/-- Value of an element's encoding in any format (R29, R33, R37). -/
def decodeVal (f : Fmt) (u : Nat) : FVal :=
  match f with
  | .i8 => .ofInt (signedOf u 8)
  | .w4i => .ofInt (signedOf u 4)
  | f => decodeFp f u

/-- Multiply by 2^k exactly (R35). -/
def FVal.scale (x : FVal) (k : Int) : FVal :=
  match x with
  | .fin s m e => .fin s m (e + k)
  | x => x

/-- An e8 scale as a power of two, none for a NaN scale (R34). -/
def scaleOf (e8 : BitVec 8) : Option Int := if e8 = 255 then none else some ((e8.toNat : Int) - 127)

/-- Read through a scale: NaN through a NaN scale (R34, R35). -/
def FVal.scaled (x : FVal) (e8 : BitVec 8) : FVal :=
  match scaleOf e8 with
  | some k => x.scale k
  | none => .nan

def FVal.neg : FVal → FVal
  | .nan => .nan
  | .inf s => .inf !s
  | .fin s m e => .fin (!s) m e

def FVal.abs : FVal → FVal
  | .nan => .nan
  | .inf _ => .inf false
  | .fin _ m e => .fin false m e

def FVal.isNan : FVal → Bool
  | .nan => true
  | _ => false

def FVal.isInf : FVal → Bool
  | .inf _ => true
  | _ => false

def FVal.isZero : FVal → Bool
  | .fin _ 0 _ => true
  | _ => false

def FVal.sign : FVal → Bool
  | .nan => false
  | .inf s => s
  | .fin s _ _ => s

/-- The signed mantissa at a common exponent no greater than the value's own. -/
def alignTo (s : Bool) (m : Nat) (e base : Int) : Int :=
  let v : Int := ((m * 2 ^ (e - base).toNat : Nat) : Int)
  if s then -v else v

/-- Exact sum with the zero signs of R41 and the specials of R42. -/
def FVal.add : FVal → FVal → FVal
  | .nan, _ => .nan
  | _, .nan => .nan
  | .inf s, .inf t => if s = t then .inf s else .nan
  | .inf s, _ => .inf s
  | _, .inf t => .inf t
  | .fin s m e, .fin t n f =>
    if m = 0 ∧ n = 0 then .zero (s && t)
    else
      let b := if e < f then e else f
      let v := alignTo s m e b + alignTo t n f b
      .fin (decide (v < 0)) v.natAbs b

/-- Exact product (R41, R42). -/
def FVal.mul : FVal → FVal → FVal
  | .nan, _ => .nan
  | _, .nan => .nan
  | .inf s, .inf t => .inf (xor s t)
  | .inf s, .fin t n _ => if n = 0 then .nan else .inf (xor s t)
  | .fin s m _, .inf t => if m = 0 then .nan else .inf (xor s t)
  | .fin s m e, .fin t n f => .fin (xor s t) (m * n) (e + f)

/-- A zero of either sign is +0: i8 arithmetic has no −0 (R41). -/
def FVal.noMinus : FVal → FVal
  | .fin s m e => .fin (s && m != 0) m e
  | x => x

/-- x < y for values that are not NaN; zeros of either sign are equal. -/
def FVal.lt : FVal → FVal → Bool
  | .nan, _ => false
  | _, .nan => false
  | .inf s, .inf t => s && !t
  | .inf s, .fin _ _ _ => s
  | .fin _ _ _, .inf t => !t
  | .fin s m e, .fin t n f =>
    let b := if e < f then e else f
    decide (alignTo s m e b < alignTo t n f b)

/-- x = y (R42): false when either is NaN. -/
def FVal.eq (x y : FVal) : Bool := !x.isNan && !y.isNan && !FVal.lt x y && !FVal.lt y x

/-! ### Rounding -/

/-- Significant bits of a magnitude. -/
def bitLen (m : Nat) : Nat := if m = 0 then 0 else Nat.log2 m + 1

/-- Drop the low `sh` bits of a magnitude, to nearest even or truncating (R45). -/
def roundShift (m sh : Nat) (trunc : Bool) : Nat :=
  let q := m >>> sh
  let r := m % 2 ^ sh
  if trunc then q
  else if 2 * r > 2 ^ sh then q + 1
  else if 2 * r = 2 ^ sh ∧ q % 2 = 1 then q + 1
  else q

/-- Round a magnitude m · 2^e to p significant bits with the exponent unbounded (R45, R48). -/
def roundPrec (m : Nat) (e : Int) (p : Nat) (trunc : Bool) : Nat × Int :=
  let n := bitLen m
  if n ≤ p then (m, e) else (roundShift m (n - p) trunc, e + ((n - p : Nat) : Int))

/-- Exponent of the leading bit of m · 2^e. -/
def leadExp (m : Nat) (e : Int) : Int := e + (bitLen m : Int) - 1

/-- Largest exponent of a finite value of a format (R30). -/
def Fmt.emax (f : Fmt) : Int :=
  match f with
  | .e4m3 => 8
  | f => let (w, _, bias) := f.params; ((2 ^ w - 2 : Nat) : Int) - bias

/-- Exponent of the smallest normal (R30). -/
def Fmt.emin (f : Fmt) : Int := 1 - (f.params.2.2 : Int)

/-- Encoding of the canonical NaN (R30). -/
def Fmt.nanCode : Fmt → Nat
  | .e4m3 => 0x7F
  | .e5m2 => 0x7E
  | .fp16 => 0x7E00
  | .bf16 => 0x7FC0
  | .bf24 => 0x7FC000
  | _ => 0x7FC00000

/-- The sign bit of a format, set or not. -/
def Fmt.signCode (f : Fmt) (s : Bool) : Nat := let (w, fb, _) := f.params; if s then 2 ^ (w + fb) else 0

/-- Encoding of the largest finite value of a sign (R30). -/
def Fmt.maxCode (f : Fmt) (s : Bool) : Nat :=
  f.signCode s + (match f with
    | .e4m3 => 0x7E
    | f => let (w, fb, _) := f.params; (2 ^ w - 1) * 2 ^ fb - 1)

/-- Encoding of an infinity; e4m3 has none and gives its NaN (R30, R49). -/
def Fmt.infCode (f : Fmt) (s : Bool) : Nat :=
  match f with
  | .e4m3 => 0x7F
  | f => let (w, fb, _) := f.params; f.signCode s + (2 ^ w - 1) * 2 ^ fb

/-- Encoding of a rounded magnitude in the normal range. -/
def encodeNormal (f : Fmt) (s : Bool) (m : Nat) (e : Int) : Nat :=
  let (_, fb, bias) := f.params
  let l := leadExp m e
  let frac := if bitLen m ≤ fb + 1 then m * 2 ^ (fb + 1 - bitLen m) else m >>> (bitLen m - (fb + 1))
  f.signCode s + (l + bias).toNat * 2 ^ fb + (frac - 2 ^ fb)

/-- A rounded magnitude lies beyond the largest finite value (R48). -/
def overflows (f : Fmt) (m : Nat) (e : Int) : Bool :=
  let l := leadExp m e
  decide (f.emax < l) || (f == .e4m3 && decide (l = 8) && decide (e ≤ 5) && decide (m = 15 * 2 ^ (5 - e).toNat))
    || (f == .e4m3 && decide (l = 8) && decide (5 < e) && decide (m * 2 ^ (e - 5).toNat = 15))

/-- What an overflow gives: the largest finite value, an infinity, or a NaN, with the flags it sets. -/
inductive OvfRule where
  /-- Conversion in saturating or non-saturating mode (R49). -/
  | convert (nonSat : Bool)
  /-- Arithmetic: an infinity and OVERFLOW (R49). -/
  | arith
  /-- The accumulator rule: largest finite in native mode, infinity in N1 mode (R63). -/
  | accum (n1 : Bool)
  deriving DecidableEq, Repr

def Flags.inv : Flags := { invalid := true, overflow := false, saturated := false }
def Flags.ovf : Flags := { invalid := false, overflow := true, saturated := false }
def Flags.sat : Flags := { invalid := false, overflow := false, saturated := true }

/-- A finite value that overflows (R49, R63). -/
def overflowRule (f : Fmt) (r : OvfRule) (s : Bool) : Nat × Flags :=
  match r with
  | .convert false => (f.maxCode s, .sat)
  | .convert true => if f = .e4m3 then (f.nanCode, Flags.or .inv .ovf) else (f.infCode s, .ovf)
  | .arith => (f.infCode s, .ovf)
  | .accum false => (f.maxCode s, .ovf)
  | .accum true => (f.infCode s, .ovf)

/-- An infinite value (R49). -/
def infinityRule (f : Fmt) (r : OvfRule) (s : Bool) : Nat × Flags :=
  match r with
  | .convert false => (f.maxCode s, .sat)
  | _ => if f = .e4m3 then (f.nanCode, .inv) else (f.infCode s, .none)

/-- Round an exact value to a floating-point format (R40, R43, R48, R51). -/
def roundTo (f : Fmt) (r : OvfRule) (trunc : Bool) (x : FVal) : Nat × Flags :=
  match x with
  | .nan => (f.nanCode, .inv)
  | .inf s => infinityRule f r s
  | .fin s m e =>
    if m = 0 then (f.signCode s, .none)
    else
      let (m', e') := roundPrec m e (f.params.2.1 + 1) trunc
      if overflows f m' e' then overflowRule f r s
      else if leadExp m' e' < f.emin then (f.signCode s, .none)
      else (encodeNormal f s m' e', .none)

/-- Round a finite value to an integer (R45, R50). -/
def roundInt (s : Bool) (m : Nat) (e : Int) (trunc : Bool) : Int :=
  let q : Nat := if 0 ≤ e then m * 2 ^ e.toNat else roundShift m (-e).toNat trunc
  if s then -(q : Int) else (q : Int)

/-- Conversion to i8 (R50). -/
def toI8 (x : FVal) (trunc : Bool) : Nat × Flags :=
  match x with
  | .nan => (0, .inv)
  | .inf s => (if s then 0x80 else 0x7F, .inv)
  | .fin s m e =>
    let v := roundInt s m e trunc
    if v < -128 then (0x80, .sat) else if 127 < v then (0x7F, .sat) else ((v % 256).toNat, .none)

/-- Conversion between formats (R51). -/
def convert (x : FVal) (dst : Fmt) (trunc nonSat : Bool) : Nat × Flags :=
  match dst with
  | .i8 => toI8 x trunc
  | dst => roundTo dst (.convert nonSat) trunc x

/-- Write through a descriptor of scale s: x ÷ s, converted (R35). A NaN scale gives NaN (R34). -/
def convertScaled (x : FVal) (dst : Fmt) (e8 : BitVec 8) (trunc nonSat : Bool) : Nat × Flags :=
  match scaleOf e8 with
  | some k => convert (x.scale (-k)) dst trunc nonSat
  | none => convert .nan dst trunc nonSat

/-! ### fp32 operations on encodings -/

def f32 (u : Nat) : FVal := decodeFp .fp32 u

/-- An arithmetic result rounded once to fp32 (R46, R49). -/
def arith32 (x : FVal) : Nat × Flags := roundTo .fp32 .arith false x

/-- The widened value that a unit outside the array reads through a scale (R35): an fp32 value under the output rules,
a scaled value beyond fp32 following R49 in the given saturation mode. An infinity or a NaN stays what it is, for the
conversion that follows (DEDUCED, log entry 20). -/
def widenVal (f : Fmt) (u : Nat) (e8 : BitVec 8) (nonSat : Bool) : FVal × Flags :=
  match (decodeVal f u).scaled e8 with
  | .fin s m e => let r := roundTo .fp32 (.convert nonSat) false (.fin s m e); (f32 r.1, r.2)
  | x => (x, .none)

/-- The fp32 encoding of a preload, part or addend element read through its scale (R104, R117). An infinite element follows
R49's conversion row in the stream's saturation mode, which R42 would leave an infinity (log entry 20). -/
def widenBits (f : Fmt) (u : Nat) (e8 : BitVec 8) (nonSat : Bool) : Nat × Flags :=
  roundTo .fp32 (.convert nonSat) false ((decodeVal f u).scaled e8)

/-- An element converted for a load or a copy: widened through the source's scale, then converted through the
destination's (R35, R51). -/
def convertElem (src : Fmt) (u : Nat) (srcScale : BitVec 8) (dst : Fmt) (dstScale : BitVec 8) (trunc nonSat : Bool) :
    Nat × Flags :=
  let x := widenVal src u srcScale nonSat
  let y := convertScaled x.1 dst dstScale trunc nonSat
  (y.1, Flags.or x.2 y.2)

/-! ### Four-bit weights (R36 to R38) -/

/-- Expand a 4-bit element with its group scale byte to an 8-bit target (R38). -/
def expand4 (src target : Fmt) (nib : Nat) (groupScale : BitVec 8) (nonSat : Bool) : Nat × Flags :=
  convert ((decodeVal src nib).scaled groupScale) target false nonSat

/-! ### bf16 pieces (R54) -/

/-- One piece: the value truncated to bf16 and written under R40. -/
def pieceOf (x : FVal) : Nat := (roundTo .bf16 (.convert false) true x).1

/-- fp32 encoding of a bf16 encoding. -/
def bf16Up (u : Nat) : Nat := u <<< 16

/-- The truncation to eight significant bits before R40 applies, from which the next remainder is exact (R54). -/
def trunc8 : FVal → FVal
  | .fin s m e => let (m', e') := roundPrec m e 8 true; .fin s m' e'
  | x => x

/-- The pieces hi, mid and lo of an fp32 encoding, as bf16 encodings (R54); the subtractions are exact. -/
def split (u : Nat) : Nat × Nat × Nat :=
  match f32 u with
  | .nan => (Fmt.bf16.nanCode, 0, 0)
  | .inf s => (Fmt.bf16.infCode s, 0, 0)
  | x =>
    let r := FVal.add x (trunc8 x).neg
    (pieceOf x, pieceOf r, pieceOf (FVal.add r (trunc8 r).neg))

/-- The piece passes of a compound pass in order, activation and weight piece numbers 0 = h, 1 = m, 2 = l (R55). -/
def pieceOrder (f : Fmt) : List (Nat × Nat) :=
  match f with
  | .fp32x2 => [(1, 0), (0, 1), (0, 0)]
  | .fp32x3 => [(2, 0), (1, 1), (0, 2), (1, 0), (0, 1), (0, 0)]
  | _ => []

/-- Piece i of an fp32 encoding. -/
def piece (u i : Nat) : Nat :=
  let (h, m, l) := split u
  if i = 0 then h else if i = 1 then m else l

/-! ### Elements in memory -/

/-- The encoding of an element from its little-endian bytes. -/
def elemOf (bs : List Byte) : Nat := leNat bs

/-- The bytes of an element's encoding (R6, R31). -/
def elemBytes (f : Fmt) (u : Nat) : List Byte := leBytes f.size u

end Sys2Proof.Machine
end

