-- ==== Sys2Proof/Machine/Flags.lean ====
section
/-! DEFINITION. fp32 arithmetic with its flags: the vector unit's operations and functions (R46, R145, R147), the
summation path (R99 to R104, R114, R119), and the sticky flags of a core (R58, R59). -/

namespace Sys2Proof.Machine

/-! ### Operations on encodings, each with the flags it sets -/

/-- A rounded result and its flags; the format is fp32 or bf16 (R145). -/
abbrev Res := Nat × Flags

/-- Round an arithmetic result to a vector mode's format (R46, R49). -/
def arith (f : Fmt) (x : FVal) : Res := roundTo f .arith false x

def FVal.sub (x y : FVal) : FVal := FVal.add x y.neg

/-- Minimum and maximum: NaN with a NaN operand, −0 below +0 (R42, R145). -/
def FVal.less (x y : FVal) : Bool := FVal.lt x y || (x.isZero && y.isZero && x.sign && !y.sign)

def FVal.min (x y : FVal) : FVal := if x.isNan || y.isNan then .nan else if FVal.less y x then y else x
def FVal.max (x y : FVal) : FVal := if x.isNan || y.isNan then .nan else if FVal.less x y then y else x

def add32 (a b : Res) : Res := let r := arith32 (FVal.add (f32 a.1) (f32 b.1)); (r.1, Flags.or (Flags.or a.2 b.2) r.2)
def sub32 (a b : Res) : Res := let r := arith32 (FVal.sub (f32 a.1) (f32 b.1)); (r.1, Flags.or (Flags.or a.2 b.2) r.2)
def mul32 (a b : Res) : Res := let r := arith32 (FVal.mul (f32 a.1) (f32 b.1)); (r.1, Flags.or (Flags.or a.2 b.2) r.2)
/-- a × b + c, rounded once. -/
def fma32 (a b c : Res) : Res :=
  let r := arith32 (FVal.add (FVal.mul (f32 a.1) (f32 b.1)) (f32 c.1))
  (r.1, Flags.or (Flags.or a.2 (Flags.or b.2 c.2)) r.2)
def neg32 (a : Res) : Res := (a.1 ^^^ 0x80000000, a.2)
/-- A constant. -/
def k32 (u : Nat) : Res := (u, .none)
/-- a × 2^n, then R40 or overflow by R49. -/
def scale32 (a : Res) (n : Int) : Res := let r := arith32 ((f32 a.1).scale n); (r.1, Flags.or a.2 r.2)
/-- An exact integer as fp32. -/
def int32 (z : Int) : Res := ((arith32 (.ofInt z)).1, .none)

/-! ### The functions of R147; each constant is the fp32 value nearest to its decimal -/

/-- Horner steps p = fma(p, r, c). -/
def hornerFma (p r : Res) : List Nat → Res
  | [] => p
  | c :: cs => hornerFma (fma32 p r (k32 c)) r cs

/-- Horner steps y = add(mul(y, t), c). -/
def hornerMul (y t : Res) : List Nat → Res
  | [] => y
  | c :: cs => hornerMul (add32 (mul32 y t) (k32 c)) t cs

/-- The constants of R147 as fp32 encodings, by decimal m · 10^(−d) rounded to nearest even. -/
def decimal32 (neg : Bool) (m d : Nat) : Nat :=
  -- 96 extra bits with a sticky last bit keep the rounding of the quotient exact
  let n := m * 2 ^ 160
  let q := n / 10 ^ d
  let sticky := if n % 10 ^ d = 0 then 0 else 1
  (arith32 (.fin neg (2 * q + sticky) (-161))).1

def exp32 (u : Nat) : Res :=
  match f32 u with
  | .nan => (Fmt.fp32.nanCode, .inv)
  | .inf false => (0x7F800000, .none)
  | .inf true => (0, .none)
  | x =>
    if FVal.lt (.ofInt 89) x then (0x7F800000, .ovf)
    else if FVal.lt x (.ofInt (-104)) then (0, .none)
    else
      let t := f32 (mul32 (k32 u) (k32 (decimal32 false 144269504 8))).1
      let n : Int := match t with
        | .fin s m e => roundInt s m e false
        | _ => 0
      let mn := int32 (-n)
      let r1 := fma32 mn (k32 (decimal32 false 693145751953125 15)) (k32 u)
      let r2 := fma32 mn (k32 (decimal32 false 142860677 14)) r1
      let p := hornerFma (k32 (decimal32 false 198412698 12)) r2
        [decimal32 false 138888889 11, decimal32 false 833333333 11, decimal32 false 416666667 10,
          decimal32 false 166666667 9, decimal32 false 5 1, decimal32 false 1 0, decimal32 false 1 0]
      scale32 p n

/-- A normal fp32 value as f · 2^e with 0.5 ≤ f < 1: the encoding of f, and e. -/
def splitHalf (u : Nat) : Nat × Int := (bitsOf u 0 23 + 126 * 2 ^ 23, (bitsOf u 23 8 : Int) - 126)

def log32 (u : Nat) : Res :=
  match f32 u with
  | .nan => (Fmt.fp32.nanCode, .inv)
  | .inf false => (0x7F800000, .none)
  | .inf true => (Fmt.fp32.nanCode, .inv)
  | .fin s m _ =>
    if m = 0 then (0xFF800000, .none)
    else if s then (Fmt.fp32.nanCode, .inv)
    else
      let (f, e0) := splitHalf u
      let low := FVal.lt (f32 f) (f32 (decimal32 false 707106781 9))
      let e := if low then e0 - 1 else e0
      let t := if low then sub32 (add32 (k32 f) (k32 f)) (k32 (decimal32 false 1 0)) else sub32 (k32 f) (k32 (decimal32 false 1 0))
      let z := mul32 t t
      let y1 := hornerMul (k32 (decimal32 false 70376836292 12)) t
        [decimal32 true 11514610310 11, decimal32 false 11676998740 11, decimal32 true 12420140846 11,
          decimal32 false 14249322787 11, decimal32 true 16668057665 11, decimal32 false 20000714765 11,
          decimal32 true 24999993993 11, decimal32 false 33333331174 11]
      let y2 := mul32 (mul32 y1 t) z
      let y3 := add32 y2 (mul32 (int32 e) (k32 (decimal32 true 212194440 12)))
      let y4 := add32 y3 (mul32 z (k32 (decimal32 true 5 1)))
      add32 (add32 t y4) (mul32 (int32 e) (k32 (decimal32 false 693359375 9)))

/-- The sign of x on a result. -/
def withSign (s : Bool) (r : Res) : Res := if s then neg32 r else r

def rcpSteps (nf : Res) : Nat → Res → Res
  | 0, y => y
  | n + 1, y => rcpSteps nf n (fma32 y (fma32 nf y (k32 (decimal32 false 1 0))) y)

/-- RCP. The bound of 2 ulp that R147 states governs the comment of its program (R5): the seed is that of 0.5 ≤ f < 1, so
the split is the one LOG names (log entry 72). -/
def rcp32 (u : Nat) : Res :=
  match f32 u with
  | .nan => (Fmt.fp32.nanCode, .inv)
  | .inf s => (Fmt.fp32.signCode s, .none)
  | .fin s m _ =>
    if m = 0 then (Fmt.fp32.infCode s, .none)
    else
      let (f, e) := splitHalf u
      let y := sub32 (k32 (decimal32 false 282352941 8)) (mul32 (k32 (decimal32 false 188235294 8)) (k32 f))
      withSign s (scale32 (rcpSteps (neg32 (k32 f)) 3 y) (-e))

def rsqrtSteps (nh : Res) : Nat → Res → Res
  | 0, y => y
  | n + 1, y => rsqrtSteps nh n (mul32 y (fma32 nh (mul32 y y) (k32 (decimal32 false 15 1))))

def rsqrt32 (u : Nat) : Res :=
  match f32 u with
  | .nan => (Fmt.fp32.nanCode, .inv)
  | .inf false => (0, .none)
  | .inf true => (Fmt.fp32.nanCode, .inv)
  | .fin s m _ =>
    if m = 0 then (Fmt.fp32.infCode s, .none)
    else if s then (Fmt.fp32.nanCode, .inv)
    else
      let e := (bitsOf u 23 8 : Int) - 127
      let odd := e % 2 = 1
      let f := bitsOf u 0 23 + (if odd then 128 else 127) * 2 ^ 23
      let j : Int := if odd then (e - 1) / 2 else e / 2
      let y := fma32 (fma32 (k32 (decimal32 false 476 4)) (k32 f) (k32 (decimal32 true 391749 6))) (k32 f)
        (k32 (decimal32 false 131433 5))
      let h := mul32 (k32 (decimal32 false 5 1)) (k32 f)
      scale32 (rsqrtSteps (neg32 h) 3 y) (-j)

def tanh32 (u : Nat) : Res :=
  match f32 u with
  | .nan => (Fmt.fp32.nanCode, .inv)
  | .inf s => (if s then 0xBF800000 else 0x3F800000, .none)
  | .fin s m e =>
    if m = 0 then (Fmt.fp32.signCode s, .none)
    else
      let one := k32 (decimal32 false 1 0)
      let a := u % 0x80000000
      if !FVal.lt (.fin false m e) (.ofInt 9) then (if s then 0xBF800000 else 0x3F800000, .none)
      else if !FVal.lt (.fin false m e) (f32 (decimal32 false 625 3)) then
        let ex := exp32 (add32 (k32 a) (k32 a)).1
        let q := rcp32 (add32 ex one).1
        withSign s (sub32 one (mul32 (k32 (decimal32 false 2 0)) q))
      else
        let x := k32 u
        let z := mul32 x x
        let p := hornerMul (k32 (decimal32 true 570498872745 14)) z
          [decimal32 false 206390887954 13, decimal32 true 537397155531 13, decimal32 false 133314422036 12,
            decimal32 true 333332819422 12]
        add32 (mul32 (mul32 p z) x) x

/-! ### The summation path (R99 to R104) -/

/-- An fp32 rounding of the summation path: R63 for the numerics mode. -/
def accRound (n1 : Bool) (x : FVal) : Res := roundTo .fp32 (.accum n1) false x

/-- fp32_add_rne of the summation path (R103, R104, R119). -/
def accAdd (n1 : Bool) (a b : Res) : Res :=
  let r := accRound n1 (FVal.add (f32 a.1) (f32 b.1))
  (r.1, Flags.or (Flags.or a.2 b.2) r.2)

/-- The largest exponent among the nonzero finite products (R100). -/
def topExp : List FVal → Option Int
  | [] => none
  | .fin _ m e :: ps =>
    let rest := topExp ps
    if m = 0 then rest
    else match rest with
      | some x => some (if x < leadExp m e then leadExp m e else x)
      | none => some (leadExp m e)
  | _ :: ps => topExp ps

/-- A product truncated to a multiple of 2^base, as that multiple (R100). -/
def windowTerm (base : Int) : FVal → Int
  | .fin s m e =>
    let t : Nat := if base ≤ e then m * 2 ^ (e - base).toNat else m >>> (base - e).toNat
    if s then -(t : Int) else (t : Int)
  | _ => 0

def isNegZero : FVal → Bool
  | .fin true 0 _ => true
  | _ => false

/-- The group sum of up to sixteen products (R100 to R102). -/
def groupSum (n1 : Bool) (ps : List FVal) : Res :=
  let pos := ps.any fun p => p = .inf false
  let neg := ps.any fun p => p = .inf true
  if ps.any (·.isNan) || (pos && neg) then (Fmt.fp32.nanCode, .inv)
  else if pos then (0x7F800000, .none)
  else if neg then (0xFF800000, .none)
  else
    match topExp ps with
    | none => (if ps.all isNegZero then 0x80000000 else 0, .none)
    | some e =>
      let base := e - 25
      let sum := ps.foldl (fun acc p => acc + windowTerm base p) 0
      if sum = 0 then (0, .none) else accRound n1 (.fin (decide (sum < 0)) sum.natAbs base)

/-- Groups of sixteen, eight of them; products beyond the list are +0 (R99, R103). -/
def groupsOf (ps : List FVal) : List (List FVal) :=
  (List.range 8).map fun g =>
    let part := (ps.drop (16 * g)).take 16
    part ++ List.replicate (16 - part.length) (.zero false)

/-- The column sum of one activation row (R103). -/
def columnSum (n1 : Bool) (ps : List FVal) : Res :=
  match (groupsOf ps).map (groupSum n1) with
  | [] => (0, .none)
  | g :: gs => gs.foldl (accAdd n1) g

/-! ### The reduction tree of R114 -/

/-- combine(): an absent side passes the other through. -/
def combineWith {α : Type} (f : α → α → α) : Option α → Option α → Option α
  | x, none => x
  | none, y => y
  | some x, some y => some (f x y)

/-- One level of the tree: neighbours combined in pairs. -/
def treeLevel {α : Type} (f : α → α → α) : List (Option α) → List (Option α)
  | x :: y :: rest => combineWith f x y :: treeLevel f rest
  | l => l

/-- The tree over 2^n positions (R114). -/
def treeSum {α : Type} (f : α → α → α) : Nat → List (Option α) → Option α
  | 0, x :: _ => x
  | 0, [] => none
  | n + 1, l => treeSum f n (treeLevel f l)

/-! ### A core's sticky flags (R58, R59) -/

/-- Record one flag bit the first time since enable (R59). `unit` is the number of R154, `detail` is 4 · engine + tile
for units that write a tile, else 0 (DESIGN CHOICE, log entry 21). -/
def State.flagBit (s : State) (core unit detail bit : Nat) (set : Bool) : State :=
  if set then s.recordOnce (bCore core) 0x0010 bit unit bit detail else s

/-- Numeric events of a core (R56, R58, R59). -/
def State.coreFlags (s : State) (core unit detail : Nat) (f : Flags) : State :=
  let c := s.core core
  let s1 := s.setCore core { c with sticky := Flags.or c.sticky f }
  ((s1.flagBit core unit detail 0 f.invalid).flagBit core unit detail 1 f.overflow).flagBit core unit detail 2 f.saturated

end Sys2Proof.Machine
end

