-- ==== Sys2Proof/Machine/Codec.lean ====
section
/-! DEFINITION. Blocks and compression: block headers, the quantised form, coding tables, and blocks as codewords
(R383 to R389). -/

namespace Sys2Proof.Machine

/-! ### Codewords and bytes (R333, R389) -/

/-- The codeword of a clean 16-byte word. -/
def codeWord (bs : List Byte) : CodeWord :=
  let d : BitVec 128 := BitVec.ofNat 128 (leNat bs)
  { data := d, check := nibbleEncode d }

/-- The codeword of a poisoned word (R332). -/
def poisonWord (bs : List Byte) : CodeWord :=
  let d : BitVec 128 := BitVec.ofNat 128 (leNat bs)
  { data := d, check := poisonForm (nibbleEncode d) }

/-- Bytes in 16-byte words, the last padded with zeros. -/
def wordsOfBytes (bs : List Byte) : List CodeWord :=
  (List.range (ceilDiv bs.length 16)).map fun i => codeWord (fitBytes ((bs.drop (16 * i)).take 16) 16)

/-- What a consumer reads: each byte with the poison of its word. -/
def wordBytes (w : CodeWord) : PBytes :=
  let (d, bad, _) := receive w.data w.check
  (leBytes 16 d.toNat).map fun b => (b, bad)

def wordsBytes (ws : List CodeWord) : PBytes := ws.flatMap wordBytes

/-- Codewords of a run of bytes with poison. -/
def wordsOfP (bs : PBytes) : List CodeWord :=
  (List.range (ceilDiv bs.length 16)).map fun i =>
    let part := (bs.drop (16 * i)).take 16
    let d := fitBytes (part.map (·.1)) 16
    if part.any (·.2) then poisonWord d else codeWord d

/-! ### Tables (R385) -/

structure Table where
  gen : Nat
  lens : List Nat
  deriving DecidableEq, Repr

/-- Code lengths of the 256 symbols. -/
def tableLens (img : List Byte) : List Nat := (List.range 256).map fun k => bitsOf (fieldLe img (64 + k / 2) 1) (4 * (k % 2)) 4

/-- The lengths make a code: some symbol has one, and the sum of 2^(−length) is at most 1 (R385). -/
def lensOk (lens : List Nat) : Bool :=
  let coded := lens.filter fun l => l ≠ 0
  !coded.isEmpty && decide ((coded.map fun l => 2 ^ (15 - l)).sum ≤ 2 ^ 15)

/-- The table of an image, none if it is invalid. -/
def tableOf (img : List Byte) : Option Table :=
  let lens := tableLens img
  if fieldLe img 0 4 == 0x4254464E && fieldLe img 4 2 == 1 && fieldLe img 6 2 != 0 && lensOk lens then
    some { gen := fieldLe img 6 2, lens := lens }
  else none

/-- Symbols of one length. -/
def symbolsOf (lens : List Nat) (len : Nat) : List Nat := (List.range 256).filter fun k => lens.getD k 0 = len

/-- Canonical codes: (symbol, length, code), lengths ascending (R385). -/
def codesFrom (lens : List Nat) : Nat → Nat → Nat → List (Nat × Nat × Nat)
  | 0, _, _ => []
  | n + 1, len, code =>
    let ss := symbolsOf lens len
    (ss.zip (List.range ss.length)).map (fun x => (x.1, len, code + x.2)) ++ codesFrom lens n (len + 1) (2 * (code + ss.length))

def Table.codes (t : Table) : List (Nat × Nat × Nat) := codesFrom t.lens 15 1 0

/-- The bits of a code, most significant first. -/
def codeBits (len code : Nat) : List Bool := (List.range len).map fun i => code.testBit (len - 1 - i)

/-- The coded bit string of symbols; none if one has no code. -/
def Table.encodeBits (t : Table) (syms : List Nat) : Option (List Bool) :=
  let cs := t.codes
  syms.foldr
    (fun s acc => match acc, cs.find? (fun c => c.1 = s) with
      | some bits, some c => some (codeBits c.2.1 c.2.2 ++ bits)
      | _, _ => none) (some [])

/-- Bytes of a bit string: bit i is bit (i mod 8) of byte floor(i ÷ 8). -/
def bitsBytes (bits : List Bool) : List Byte :=
  (List.range (ceilDiv bits.length 8)).map fun i =>
    BitVec.ofNat 8 (((bits.drop (8 * i)).take 8).foldr (fun b acc => (if b then 1 else 0) + 2 * acc) 0)

def bytesBits (bs : List Byte) : List Bool := bs.flatMap fun b => (List.range 8).map fun i => b.getLsbD i

/-- Next symbol of a bit string: at most 15 bits are tried. -/
def nextSymbol (cs : List (Nat × Nat × Nat)) : Nat → Nat → Nat → List Bool → Option (Nat × List Bool)
  | 0, _, _, _ => none
  | _ + 1, _, _, [] => none
  | n + 1, len, code, b :: bits =>
    let code1 := 2 * code + (if b then 1 else 0)
    match cs.find? (fun c => c.2.1 = len + 1 ∧ c.2.2 = code1) with
    | some c => some (c.1, bits)
    | none => nextSymbol cs n (len + 1) code1 bits

/-- Decode n symbols; what is left of the string. -/
def decodeSymbols (cs : List (Nat × Nat × Nat)) : Nat → List Bool → Option (List Nat × List Bool)
  | 0, bits => some ([], bits)
  | n + 1, bits =>
    match nextSymbol cs 15 0 0 bits with
    | none => none
    | some (s, rest) => (decodeSymbols cs n rest).map fun r => (s :: r.1, r.2)

/-- Exactly n symbols within the body, and zero padding to the word (R374, R385). -/
def Table.decodeBody (t : Table) (n : Nat) (body : List Byte) : Option (List Nat) :=
  match decodeSymbols t.codes n (bytesBits body) with
  | some (ss, rest) => if rest.any id || decide (128 ≤ rest.length) then none else some ss
  | none => none

/-! ### Quantisation (R384) -/

/-- Exponent byte of a group: the least j with a ≤ 57,344 · 2^j; 57,344 is 1.75 · 2¹⁵. -/
def groupExp (vs : List Nat) : Nat :=
  let mags := (vs.map f32).filterMap fun v => match v with
    | .fin _ m e => if m = 0 then none else some (FVal.fin false m e)
    | _ => none
  match mags.foldl FVal.max (.zero false) with
  | .fin _ m e =>
    if m = 0 then 127
    else (max 1 (min 254 (127 + (leadExp m e - (if 4 * m ≤ 7 * 2 ^ (bitLen m - 1) then 15 else 14))))).toNat
  | _ => 127

/-- The symbols of a group and the events of quantising it. -/
def quantGroup (vs : List Nat) : Nat × List Nat × Flags :=
  let e := groupExp vs
  let outs := vs.map fun u => roundTo .e5m2 (.convert false) false ((f32 u).scale (127 - (e : Int)))
  (e, outs.map (·.1), outs.foldl (fun f o => Flags.or f o.2) .none)

def groups256 (vs : List Nat) : List (List Nat) :=
  (List.range (ceilDiv vs.length 256)).map fun i => (vs.drop (256 * i)).take 256

/-- Values of symbols under an exponent byte, as fp32 by a saturating conversion; 255 gives NaN with INVALID (R34, R47,
R51, R384). -/
def dequant (e : Nat) (syms : List Nat) : List Nat × Flags :=
  let outs := syms.map fun u => widenBits .e5m2 u (BitVec.ofNat 8 e) false
  (outs.map (·.1), outs.foldl (fun f o => Flags.or f o.2) Flags.none)

/-! ### Block headers (R383) -/

structure Header where
  kind : Nat
  form : Nat
  raw : Bool
  slot : Nat
  stream : Nat
  values : Nat
  words : Nat
  gen : Nat
  exp : Nat
  deriving DecidableEq, Repr

def headerOf (w : Nat) : Header :=
  { kind := bitsOf w 0 4, form := bitsOf w 4 2, raw := bitOf w 6, slot := bitsOf w 7 1, stream := bitsOf w 8 8
    values := bitsOf w 16 11 + 1, words := bitsOf w 32 10, gen := bitsOf w 48 16, exp := bitsOf w 64 64 }

def Header.bits (h : Header) : Nat :=
  h.kind + h.form * 2 ^ 4 + (if h.raw then 2 ^ 6 else 0) + h.slot * 2 ^ 7 + h.stream * 2 ^ 8 + (h.values - 1) * 2 ^ 16
    + h.words * 2 ^ 32 + h.gen * 2 ^ 48 + h.exp * 2 ^ 64

def Header.word (h : Header) : CodeWord := codeWord (leBytes 16 h.bits)

/-- The header names a message that can be delimited (R374, R383, R386): a table message is its header and 192 bytes. -/
def Header.ok (h : Header) : Bool :=
  if h.kind = 2 then h.words == 13
  else if h.kind = 1 then
    match h.form with
    | 0 => h.words == 1 + ceilDiv (4 * h.values) 16
    | 1 => h.words == 1 + ceilDiv (2 * h.values) 16
    | 2 => if h.raw then h.words == 1 + ceilDiv h.values 16 else decide (2 ≤ h.words) && decide (h.words ≤ 128)
    | _ => false
  else false

/-! ### Blocks -/

/-- Values of a block as fp32 encodings; none where the block is delivered as poison. -/
abbrev Values := Option (List Nat)

/-- Why a block is delivered as poison, by row of R374 in the order of its table: 13 values, 14 payload, 15 slot; 0 for an
uncorrectable or poisoned word. -/
inductive BlockRead where
  | ok (vs : List Nat) (f : Flags)
  | bad (row : Nat)
  deriving DecidableEq, Repr

/-- Elements of a body in a format of n-byte encodings. -/
def bodyElems (f : Fmt) (n : Nat) (body : List Byte) : List Nat := (List.range n).map fun i => elemOf ((body.drop (i * f.size)).take f.size)

/-- An uncoded body widened, with the events of widening it (R51, R56, R381). -/
def widenBody (f : Fmt) (n : Nat) (body : List Byte) : BlockRead :=
  let outs := (bodyElems f n body).map fun u => widenBits f u 127 true
  .ok (outs.map (·.1)) (outs.foldl (fun (g : Flags) o => Flags.or g o.2) Flags.none)

/-- Decode a block of n expected values; `tbl` gives the table of the slot that a coded block names (R374, R383 to R389).
A stored block whose header is no block's (a message with such a header breaks its stream before) is poison. -/
def decodeBlock (ws : List CodeWord) (n : Nat) (tbl : Header → Option Table) : BlockRead :=
  let bs := wordsBytes ws
  if bs.anyPoison then .bad 0
  else
    let d := bs.data
    let h := headerOf (leNat (d.take 16))
    let body := d.drop 16
    if h.values ≠ n then .bad 13
    else if h.kind != 1 || !h.ok || ws.length != h.words then .bad 14
    else
      match h.form with
      | 0 => widenBody .fp32 n body
      | 1 => widenBody .bf16 n body
      | _ =>
        let syms : BlockRead :=
          if h.raw then .ok (bodyElems .e5m2 n body) .none
          else
            match tbl h with
            | none => .bad 15
            | some t => if t.gen ≠ h.gen then .bad 15 else match t.decodeBody n body with
              | some ss => .ok ss .none
              | none => .bad 14
        match syms with
        | .bad r => .bad r
        | .ok ss _ =>
          let gs := groups256 ss
          let outs := (gs.zip (List.range gs.length)).map fun g => dequant (bitsOf h.exp (8 * g.2) 8) g.1
          .ok (outs.flatMap (·.1)) (outs.foldl (fun f o => Flags.or f o.2) .none)

/-- A block with poisoned values: its header can still be delimited, every body word is poison (R389). `gen` is what an
uncoded block's GEN holds: 0 on a stream, the table's for a companion-link copy (R383, R407). -/
def poisonBlock (form stream n gen : Nat) : List CodeWord :=
  let bytes := if form = 0 then 4 * n else if form = 1 then 2 * n else n
  let h : Header :=
    { kind := 1, form := form, raw := form == 2, slot := 0, stream := stream, values := n, words := 1 + ceilDiv bytes 16, gen := gen, exp := 0 }
  h.word :: List.replicate (ceilDiv bytes 16) (poisonWord (List.replicate 16 0))

/-- The compressed form of values: coded where it can be and is shorter, else raw (R384, R386). -/
def compress (vs : List Nat) (stream slot gen : Nat) (t : Table) : List CodeWord × Bool × Flags :=
  let gs := (groups256 vs).map quantGroup
  let syms := gs.flatMap fun g => g.2.1
  let exp := (gs.zip (List.range gs.length)).foldl (fun (acc : Nat) g => acc + g.1.1 * 2 ^ (8 * g.2)) 0
  let f := gs.foldl (fun (acc : Flags) g => Flags.or acc g.2.2) Flags.none
  let h : Header :=
    { kind := 1, form := 2, raw := true, slot := 0, stream := stream, values := vs.length, words := 1 + ceilDiv vs.length 16
      gen := gen, exp := exp }
  let raw := (h.word :: wordsOfBytes (syms.map (BitVec.ofNat 8)), false, f)
  match t.encodeBits syms with
  | none => raw
  | some bits =>
    let body := wordsOfBytes (bitsBytes bits)
    if 1 + body.length < 129 then
      ({ h with raw := false, slot := slot, words := 1 + body.length, gen := t.gen }.word :: body, true, f)
    else raw

/-- Encode values in a wire form (R376, R383); the flag tells a coded block. -/
def encodeBlock (vs : Values) (n form stream slot gen : Nat) (t : Table) : List CodeWord × Bool × Flags :=
  match vs with
  | none => (poisonBlock form stream n gen, false, .none)
  | some l =>
    let h : Header := { kind := 1, form := form, raw := false, slot := 0, stream := stream, values := n, words := 0, gen := 0, exp := 0 }
    match form with
    | 0 => ({ h with words := 1 + ceilDiv (4 * n) 16 }.word :: wordsOfBytes (l.flatMap fun u => leBytes 4 u), false, .none)
    | 1 =>
      let outs := l.map fun u => convert (f32 u) .bf16 false false
      ({ h with words := 1 + ceilDiv (2 * n) 16 }.word :: wordsOfBytes (outs.flatMap fun o => leBytes 2 o.1), false,
        outs.foldl (fun f o => Flags.or f o.2) Flags.none)
    | _ => compress l stream slot gen t

/-- A table message (R388). -/
def tableMessage (stream slot : Nat) (t : Table) (img : List Byte) : List CodeWord :=
  let h : Header := { kind := 2, form := 0, raw := false, slot := slot, stream := stream, values := 1, words := 13, gen := t.gen, exp := 0 }
  h.word :: wordsOfBytes (fitBytes img 192)

/-- Price units of a block (R390). -/
def blockUnits (ws : List CodeWord) : Nat := ceilDiv (16 * ws.length) 128

/-- A block in the 4 KiB slot of a compressed tensor: its words as stored (R387). -/
def State.storedBlock (s : State) (who a : Nat) : State × List CodeWord :=
  let (s1, h) := s.readRun who a 16
  let hd := headerOf (leNat h.data)
  if h.anyPoison || !hd.ok || hd.kind != 1 then (s1, wordsOfP h)
  else
    let (s2, body) := s1.readRun who (a + 16) (16 * (hd.words - 1))
    (s2, wordsOfP (h ++ body))

/-- Store a block's words, poison as poison. -/
def State.storeWords (s : State) (who a : Nat) (ws : List CodeWord) : State := s.writeRun who a (wordsBytes ws)

end Sys2Proof.Machine
end

