-- ==== Sys2Proof/Machine/Frames.lean ====
section
/-! DEFINITION. What a panel link end or a bond port sends: control words, data frames against credits, acknowledgements and
width reports (R343, R346 to R350, R362, R364). -/

namespace Sys2Proof.Machine

/-- Block of an end, and its counter of a kind: sent, accepted, CRC errors, replays, retrains, disagreements, rerouted,
lost; a bond port counts three of them, those of its tile's end (R362, R364; log entry 85). -/
def State.linkCount (s : State) (e kind n : Nat) : State :=
  if n = 0 then s
  else if e < 16 then s.count (bPlink e) (0x140 + 8 * kind) n
  else if e < 120 ∧ 2 ≤ kind ∧ kind ≤ 4 then s.count (bBond (tileOfSite (bondSite e))) (0x140 + 8 * (kind - 2)) n
  else s

def lkSent : Nat := 0
def lkAccepted : Nat := 1
def lkCrc : Nat := 2
def lkReplays : Nat := 3
def lkRetrains : Nat := 4
def lkDisagree : Nat := 5
def lkRerouted : Nat := 6
def lkLost : Nat := 7

/-- The sequence number before the next expected one: what ACK carries. -/
def lastOf (next modulus : Nat) : Nat := (next + modulus - 1) % modulus

/-- Words of a data frame at an end (R343, R346). -/
def frameWords (e : Nat) : Nat := if e < 16 then 32 else 128

/-- Bytes that the CRC of a frame covers: the data words, their check bits, then control bits [95:0] (R347). -/
def frameBytes (data : List CodeWord) (control : Nat) : List Byte :=
  data.flatMap (fun w => leBytes 16 w.data.toNat) ++ data.flatMap (fun w => leBytes 2 w.check.toNat) ++ leBytes 12 control

/-- Frame kinds (R347). -/
def kData : Nat := 0
def kIdle : Nat := 1
def kHold : Nat := 2

/-- Counts as the four CREDITS fields hold them (R347). -/
def creditField (freed : List Nat) : Nat := (List.range 4).foldl (fun n v => n + min 255 (freed.getD v 0) * 2 ^ (8 * v)) 0

/-- What the CREDITS fields have not held. -/
def creditsLeft (freed : List Nat) : List Nat := freed.map (· - 255)

/-- Bits [95:0] of a frame control (R347). -/
def panelControl (x : LinkEnd) (kind vc seq : Nat) (nak : Bool) : Nat :=
  seq + lastOf x.expSeq 4096 * 2 ^ 12 + (if nak then 2 ^ 24 else 0) + x.width * 2 ^ 25 + kind * 2 ^ 27 + vc * 2 ^ 29
    + creditField x.freed * 2 ^ 32 + x.epoch.toNat * 2 ^ 64

/-- The control field with its CRC. -/
def sealed (c : Nat) (data : List CodeWord) : BitVec 128 := BitVec.ofNat 128 (c + crc32 (frameBytes data c) * 2 ^ 96)

/-- A frame leaves an end, with the end's acknowledgement and freed credits (R347). -/
def State.sendPanel (s : State) (e kind vc seq : Nat) (nak : Bool) (data : List CodeWord) : State :=
  let x := s.link e
  (s.setLink e { x with freed := creditsLeft x.freed, ackTold := lastOf x.expSeq 4096 }).emit
    (.panelFrame e (sealed (panelControl x kind vc seq nak) data) data)

/-- The payload of a frame that carries none: ignored by its receiver, zeros in the model (R347; log entry 86). -/
def noPayload (e : Nat) : List CodeWord := List.replicate (frameWords e) { data := 0, check := 0 }

/-- An idle frame, or a hold frame. -/
def State.sendIdle (s : State) (e : Nat) (nak : Bool) : State := s.sendPanel e kIdle 0 0 nak (noPayload e)
def State.sendHold (s : State) (e : Nat) : State :=
  let s1 := s.sendPanel e kHold 0 0 false (noPayload e)
  if e < 16 then s1.emit (.sidebandHold e) else s1

/-- An end with an acknowledgement or credits to report sends an idle frame. -/
def State.linkInform (s : State) (e : Nat) : State :=
  let x := s.link e
  if x.up && (x.ackTold != lastOf x.expSeq 4096 || x.freed.any (· != 0)) then s.sendIdle e false else s

/-! ### Data frames (R347, R348) -/

/-- The end sends data frames. -/
def LinkEnd.open (x : LinkEnd) : Bool := x.up && !x.hold && !x.degraded && !x.rerouting

/-- A credit of a virtual channel is at hand. -/
def LinkEnd.hasCredit (x : LinkEnd) (e vc : Nat) : Bool :=
  decide (x.spent.getD vc 0 < Config.linkBuffers e vc + x.credits.getD vc 0)

/-- One more at a place of a list of four. -/
def bump (l : List Nat) (v n : Nat) : List Nat := (List.range 4).map fun i => l.getD i 0 + (if i = v then n else 0)

/-- Words of the nth data frame of an end, with their check bits (log entry 86). -/
def frameData (e n : Nat) : List CodeWord :=
  (List.range (frameWords e)).map fun i => let d := Config.frameWord e n i; { data := d, check := nibbleEncode d }

/-- A packet's data frame leaves for the first time, and is kept for replay. -/
def State.sendData (s : State) (e : Nat) (p : LinkPkt) : State :=
  let x := s.link e
  let f : TxFrame := { seq := x.nextSeq, vc := p.vc, words := frameData e x.sent, pkt := some p }
  let s1 := (s.setLink e
    { x with
      nextSeq := (x.nextSeq + 1) % 4096, replay := x.replay ++ [f], spent := bump x.spent p.vc 1, sent := x.sent + 1 }).linkCount
    e lkSent 1
  s1.sendPanel e kData p.vc f.seq false f.words

/-- The first packet in a queue that has a credit, and the others. -/
def takeCredited (ok : Nat → Bool) : List LinkPkt → Option (LinkPkt × List LinkPkt)
  | [] => none
  | p :: ps => if ok p.vc then some (p, ps) else (takeCredited ok ps).map fun r => (r.1, p :: r.2)

/-- Send what waits at an end, as far as credits and the replay buffer of 1,024 go (R348). -/
def State.pumpLinks : Nat → State → Nat → State
  | 0, s, _ => s
  | n + 1, s, e =>
    let x := s.link e
    if !x.open || decide (1024 ≤ x.replay.length) then s
    else
      match takeCredited (x.hasCredit e) (Map.get s.sendq e []) with
      | none => s
      | some (p, rest) => State.pumpLinks n (({ s with sendq := Map.put s.sendq e rest [] }).sendData e p) e

def State.pumpLink (s : State) (e : Nat) : State := State.pumpLinks (Map.get s.sendq e []).length s e

/-! ### The turn boundary (R350) -/

/-- A trained panel link end repeats its width report. -/
def State.reportWidth (s : State) (e : Nat) : State :=
  let x := s.link e
  if e < 16 ∧ x.up ∧ ¬ x.degraded then s.emit (.widthReport e x.width) else s

/-- What the link ends do at a turn boundary: width reports, and frames that wait. -/
def State.linkBoundary (s : State) : State :=
  let s1 := (List.range 16).foldl State.reportWidth s
  s1.sendq.foldl (fun acc q => acc.pumpLink q.1) s1

end Sys2Proof.Machine
end

