-- ==== Sys2Proof/Machine/Price.lean ====
section
/-! DEFINITION. Priced issue: prices, balances and what each priced agent has issued (R213 to R217). -/

namespace Sys2Proof.Machine

/-! Priced agents are numbered: logical core 0 to 383, sweep engine 384 + i, intake engine 400 + i, save engine 416,
link compression engine 417 + i. Accounts: site 0 to 51, base tile 52 + t, hub 56 (R214). -/

def pSweep (i : Nat) : Nat := 384 + i
def pIntake (i : Nat) : Nat := 400 + i
def pSave : Nat := 416
def pCmp (i : Nat) : Nat := 417 + i
def pricedAgents : Nat := 426
def aTile (t : Nat) : Nat := 52 + t
def aHub : Nat := 56

/-- Lowest band point at or above a clock in MHz (R213, R215). -/
def bandOf (mhz : Nat) : Nat := (mhz - 400 + 49) / 50

def State.account (s : State) (a : Nat) : Account := Map.get s.energy.accounts a .reset
def State.setAccount (s : State) (a : Nat) (x : Account) : State :=
  { s with energy := { s.energy with accounts := Map.put s.energy.accounts a x .reset } }
def State.agentUse (s : State) (x : Nat) : AgentUse := Map.get s.energy.agents x .reset
def State.setAgentUse (s : State) (x : Nat) (u : AgentUse) : State :=
  { s with energy := { s.energy with agents := Map.put s.energy.agents x u .reset } }

/-- SCALE of an account at a clock: site accounts scale, the others use 256 (R214). -/
def State.scaleAt (s : State) (account mhz : Nat) : Nat :=
  if account < 52 then s.energy.priceScale.getD (bandOf mhz) 0 else 256

/-- Price of one unit of work in 2⁻¹⁶ pip (R215). -/
def State.unitPrice (s : State) (kind account : Nat) : Nat :=
  ceilDiv (s.energy.priceBase.getD kind 0 * s.scaleAt account s.energy.clockMhz * (s.account account).corr) 262144

/-- Work presented for issue: (kind, account, units). -/
abbrev Work := List (Nat × Nat × Nat)

def State.price (s : State) (w : Work) : Nat := w.foldl (fun n x => n + x.2.2 * s.unitPrice x.1 x.2.1) 0

/-- The issue rule (R216, R217). -/
def State.covered (s : State) (agent price : Nat) : Bool :=
  let u := s.agentUse agent
  !s.energy.backstop && (decide ((price : Int) ≤ u.balance) || (!u.issued && decide (0 < u.balance)))

/-- Base units of work: what it costs before SCALE and CORR (R215, R218). -/
def State.baseUnits (s : State) (w : Work) : Nat := w.foldl (fun n x => n + x.2.2 * s.energy.priceBase.getD x.1 0) 0

/-- Issue of covered work: the whole price is subtracted (R216), and what reconciliation and planning need is kept. An
account's `priced` is BASE · SCALE without CORR, in units of 2⁻²⁴ pip (R219). -/
def State.charge (s : State) (agent : Nat) (w : Work) : State :=
  let p := s.price w
  let u := s.agentUse agent
  let s1 := s.setAgentUse agent
    { u with balance := u.balance - p, issued := true, baseNow := u.baseNow + s.baseUnits w, pricedNow := u.pricedNow + p, held := 0 }
  let s2 := if p = 0 then s1 else s1.count bNrg 0x188 p
  let s3 := if u.balance < p then s2.count bNrg 0x1A0 1 else s2
  w.foldl
    (fun acc x =>
      let a := acc.account x.2.1
      acc.setAccount x.2.1
        { a with priced := a.priced + x.2.2 * s.energy.priceBase.getD x.1 0 * s.scaleAt x.2.1 s.energy.clockMhz }) s3

/-- What an agent holds waiting (R218). -/
def State.holdPrice (s : State) (agent : Nat) (w : Work) : State :=
  s.setAgentUse agent { s.agentUse agent with held := if agent < 384 ∨ 1024 ≤ agent then s.baseUnits w else s.price w, stalled := true }

/-- Nothing of an agent's waits for its price any more. -/
def State.dropHeld (s : State) (agent : Nat) : State :=
  if (s.agentUse agent).held = 0 then s else s.setAgentUse agent { s.agentUse agent with held := 0 }

/-- Issue if covered. -/
def State.tryCharge (s : State) (agent : Nat) (w : Work) : Option State :=
  if s.covered agent (s.price w) then some (s.charge agent w) else none

/-- Kind and account of a move of one address (R214): scratchpads and the SRAM window, HBM3E, or LPDDR5X and host. -/
def moveKind (a tile : Nat) : Nat × Nat :=
  if a < 0x012000000000 then (9, aTile tile)
  else if 0x040000000000 ≤ a ∧ a < 0x060000000000 then (10, aHub)
  else if 0x100000000000 ≤ a then (10, aHub)
  else (8, aTile tile)

end Sys2Proof.Machine
end

