-- ==== Sys2Proof/Machine/Operands.lean ====
section
/-! DEFINITION. Instruction words and their operands: classes and operations (R129, R144, R145), scalar registers
(R130), tensor descriptors, convolution and stream records (R131 to R134, R139, R151), element addresses and reads. -/

namespace Sys2Proof.Machine

/-! ### Instruction words (R129) -/

/-- The operations of the instruction classes, vector operations by name (R129, R145). -/
inductive CoreOp where
  | nop | halt | sets | adds | loop | jump | barrier
  | pass | compoundPass | drain | weightLoad | matrixVector
  | add | sub | mul | fma | min | max | abs | neg | sel
  | exp | log | rcp | rsqrt | tanh
  | cmplt | cmple | cmpeq | cmpne | redsum | redmax | vload | vstore
  | copy | combine | startPrefetch | stopPrefetch
  | wait | signal
  deriving DecidableEq, Repr

/-- VOP codes (R145). -/
def vopOf : Nat → Option CoreOp
  | 0x00 => some .add
  | 0x01 => some .sub
  | 0x02 => some .mul
  | 0x03 => some .fma
  | 0x04 => some .min
  | 0x05 => some .max
  | 0x06 => some .abs
  | 0x07 => some .neg
  | 0x08 => some .sel
  | 0x10 => some .exp
  | 0x11 => some .log
  | 0x12 => some .rcp
  | 0x13 => some .rsqrt
  | 0x14 => some .tanh
  | 0x20 => some .cmplt
  | 0x21 => some .cmple
  | 0x22 => some .cmpeq
  | 0x23 => some .cmpne
  | 0x30 => some .redsum
  | 0x31 => some .redmax
  | 0x40 => some .vload
  | 0x41 => some .vstore
  | _ => none

/-- The operation of a 128-bit instruction word; none for an unlisted CLASS, OP or VOP (R129, R145). -/
def opOf (w : Nat) : Option CoreOp :=
  match bitsOf w 0 4, bitsOf w 4 4 with
  | 0, 0 => some .nop
  | 0, 1 => some .halt
  | 0, 2 => some .sets
  | 0, 3 => some .adds
  | 0, 4 => some .loop
  | 0, 5 => some .jump
  | 0, 6 => some .barrier
  | 1, 0 => some .pass
  | 1, 1 => some .compoundPass
  | 1, 2 => some .drain
  | 2, 0 => some .weightLoad
  | 3, 0 => some .matrixVector
  | 4, 0 => vopOf (bitsOf w 8 8)
  | 5, 0 => some .copy
  | 5, 1 => some .combine
  | 5, 2 => some .startPrefetch
  | 5, 3 => some .stopPrefetch
  | 6, 0 => some .wait
  | 6, 1 => some .signal
  | _, _ => none

/-! ### Scalar registers (R123, R130) -/

/-- S0 reads as 0. -/
def Core.scalar (c : Core) (i : Nat) : W32 := if i = 0 then 0 else Map.get c.scalars i 0

/-- A write to S0 is ignored (R155). -/
def Core.setScalar (c : Core) (i : Nat) (v : W32) : Core :=
  if i = 0 then c else { c with scalars := Map.put c.scalars i v 0 }

/-- X + S[XREG] modulo 2³² (R130). -/
def Core.plusReg (c : Core) (x reg : Nat) : Nat := (x + (c.scalar reg).toNat) % 2 ^ 32

/-! ### Descriptors (R131 to R134) -/

/-- A descriptor slot as a number; none when it loaded as poison (R449). -/
def Core.slot (c : Core) (i : Nat) : Option Nat :=
  if c.descPoison.contains i then none else some (Map.get c.desc i 0).toNat

/-- A tensor descriptor with its offset register added (R130, R131). -/
def Core.tensor (c : Core) (d : Nat) : Tensor :=
  { fmt := bitsOf d 0 4
    rank := bitsOf d 4 3 + 1
    ext := [bitsOf d 128 16 + 1, bitsOf d 144 16 + 1, bitsOf d 160 16 + 1, bitsOf d 176 16 + 1]
    base := (bitsOf d 64 52 : Int) + signedOf (c.scalar (bitsOf d 8 4)).toNat 32
    stride1 := signedOf (bitsOf d 192 32) 32
    stride2 := signedOf (bitsOf d 224 32) 32
    stride3 := signedOf (bitsOf d 32 32) 32
    scale := BitVec.ofNat 8 (bitsOf d 16 8)
    physical := bitOf d 12
    cache := bitOf d 13 }

/-- Extent of a dimension; 1 beyond the rank (R132). -/
def Tensor.extent (t : Tensor) (i : Nat) : Nat := if i < t.rank then t.ext.getD i 1 else 1

def Tensor.format (t : Tensor) : Option Fmt := Fmt.ofCode t.fmt

/-- Element size in bytes. -/
def Tensor.esize (t : Tensor) : Nat := (t.format.getD .fp32).size

def Tensor.is4 (t : Tensor) : Bool := t.fmt == 7 || t.fmt == 8

/-- Address of an element (R132), of its byte for the 4-bit formats. -/
def Tensor.addr (t : Tensor) (i0 i1 i2 i3 : Nat) : Int :=
  if t.is4 then t.base + (i0 / 2 : Nat) + i1 * t.stride1
  else t.base + (i0 * t.esize : Nat) + i1 * t.stride1 + i2 * t.stride2 + i3 * t.stride3

/-- Address of a 4-bit element's scale byte (R132). -/
def Tensor.scaleAddr (t : Tensor) (i0 i1 : Nat) : Int := t.base + t.stride3 + i1 * t.stride2 + (i0 / 32 : Nat)

/-- A half-open interval of addresses. -/
abbrev Span := Int × Int

def Span.hull : Option Span → Option Span → Option Span
  | none, y => y
  | x, none => x
  | some (a, b), some (c, d) => some (if a < c then a else c, if b < d then d else b)

/-- Offsets i · stride for lo ≤ i < hi, as least and greatest. -/
def strideSpan (lo hi : Nat) (st : Int) : Int × Int :=
  let a := (lo : Int) * st
  let b := ((hi - 1 : Nat) : Int) * st
  if a < b then (a, b) else (b, a)

/-- The bytes that a box of element indices can reach, clipped to the extents; none when it reaches nothing (R134). -/
def Tensor.reach (t : Tensor) (r0 r1 r2 r3 : Nat × Nat) : Option Span :=
  let c (i : Nat) (r : Nat × Nat) := (r.1, Nat.min r.2 (t.extent i))
  let (a0, b0) := c 0 r0
  let (a1, b1) := c 1 r1
  let (a2, b2) := c 2 r2
  let (a3, b3) := c 3 r3
  if b0 ≤ a0 ∨ b1 ≤ a1 ∨ b2 ≤ a2 ∨ b3 ≤ a3 then none
  else if t.is4 then
    let (l1, h1) := strideSpan a1 b1 t.stride1
    let (l2, h2) := strideSpan a1 b1 t.stride2
    Span.hull
      (some (t.base + (a0 / 2 : Nat) + l1, t.base + ((b0 - 1) / 2 : Nat) + h1 + 1))
      (some (t.base + t.stride3 + (a0 / 32 : Nat) + l2, t.base + t.stride3 + ((b0 - 1) / 32 : Nat) + h2 + 1))
  else
    let (l1, h1) := strideSpan a1 b1 t.stride1
    let (l2, h2) := strideSpan a2 b2 t.stride2
    let (l3, h3) := strideSpan a3 b3 t.stride3
    some (t.base + (a0 * t.esize : Nat) + l1 + l2 + l3, t.base + (b0 * t.esize : Nat) + h1 + h2 + h3)

/-- A span lies in the scratchpad (R134). -/
def inScratch : Option Span → Bool
  | none => true
  | some (a, b) => decide (0 ≤ a) && decide (b ≤ 0x400000)

/-- A span lies in one region of the physical map other than the register region (R134). -/
def inOneRegion : Option Span → Bool
  | none => true
  | some (a, b) =>
    decide (0 ≤ a) && (match regionOf a.toNat with
      | some .regs => false
      | some r => decide (b ≤ (r.range.2 : Int))
      | none => false)

/-- The two spans overlap. -/
def overlaps : Option Span → Option Span → Bool
  | some (a, b), some (c, d) => decide (a < d) && decide (c < b)
  | _, _ => false

/-! ### Element reads of a core's units from its scratchpad -/

/-- An element's encoding and whether a word it lies in is poison. -/
abbrev Elem := Nat × Bool

/-- One element of a scratchpad tensor; positions beyond an extent read as +0 (R84, R134). -/
def State.elemAt (s : State) (who core : Nat) (t : Tensor) (i0 i1 i2 i3 : Nat) : State × Elem :=
  if i0 < t.extent 0 ∧ i1 < t.extent 1 ∧ i2 < t.extent 2 ∧ i3 < t.extent 3 then
    let (s1, bs) := s.ownRead who core (t.addr i0 i1 i2 i3).toNat t.esize
    (s1, leNat bs.data, bs.anyPoison)
  else (s, 0, false)

/-- Elements i0 = lo … lo + n − 1 of a row of a scratchpad tensor, in one access for each row of the tensor. -/
def State.rowAt (s : State) (who core : Nat) (t : Tensor) (lo n i1 : Nat) : State × List Elem :=
  let m := if i1 < t.extent 1 then Nat.min n (t.extent 0 - lo) else 0
  let (s1, bs) := if m = 0 then (s, []) else s.ownRead who core (t.addr lo i1 0 0).toNat (m * t.esize)
  (s1, (List.range n).map fun i =>
    if i < m then
      let part : PBytes := (bs.drop (i * t.esize)).take t.esize
      (leNat part.data, part.anyPoison)
    else (0, false))

/-- A 4-bit element and its scale byte, expanded to the target (R36, R38); none beyond the extent. -/
def State.elem4At (s : State) (who core : Nat) (t : Tensor) (target : Fmt) (i0 i1 : Nat) (nonSat : Bool) :
    State × Option Elem × Flags :=
  if i0 < t.extent 0 ∧ i1 < t.extent 1 then
    let (s1, b) := s.ownRead who core (t.addr i0 i1 0 0).toNat 1
    let (s2, g) := s1.ownRead who core (t.scaleAddr i0 i1).toNat 1
    let byte := leNat b.data
    let r := expand4 (t.format.getD .w4i) target (if i0 % 2 = 0 then byte % 16 else byte / 16)
      (BitVec.ofNat 8 (leNat g.data)) nonSat
    let p := b.anyPoison || g.anyPoison
    (s2, some (r.1, p), if p then .none else r.2)
  else (s, none, .none)

/-! ### Convolution records (R85 to R87, R139) -/

def convOf (d : Nat) : ConvRec :=
  { kh := bitsOf d 0 4, kw := bitsOf d 4 4, sh := bitsOf d 8 3 + 1, sw := bitsOf d 12 3 + 1, dh := bitsOf d 16 3 + 1
    dw := bitsOf d 20 3 + 1, pt := bitsOf d 24 4, pb := bitsOf d 28 4, pl := bitsOf d 32 4, pr := bitsOf d 36 4
    p0 := bitsOf d 64 64 }

/-- An output dimension (R87). -/
def convOut (size p q dil k stride : Nat) : Int :=
  ((size : Int) + p + q - dil * ((k : Int) - 1) - 1) / stride + 1

def ConvRec.oh (r : ConvRec) (t : Tensor) : Int := convOut (t.extent 2) r.pt r.pb r.dh r.kh r.sh
def ConvRec.ow (r : ConvRec) (t : Tensor) : Int := convOut (t.extent 1) r.pl r.pr r.dw r.kw r.sw

/-- Parameters in range and output pixels present (R86, R87). -/
def ConvRec.valid (r : ConvRec) (t : Tensor) (first m : Nat) : Bool :=
  let oh := r.oh t
  let ow := r.ow t
  r.kh != 0 && r.kw != 0 && decide (t.extent 3 ≤ 65535) && decide (t.extent 2 ≤ 16384) && decide (t.extent 1 ≤ 16384)
    && decide (t.extent 0 ≤ 65535) && decide (1 ≤ oh) && decide (1 ≤ ow)
    && decide (((first + m : Nat) : Int) ≤ t.extent 3 * oh * ow)

/-- Indices (c, iw, ih, img) of element k of pixel p, or padding (R85). -/
def ConvRec.index (r : ConvRec) (t : Tensor) (p kabs : Nat) : Option (Nat × Nat × Nat × Nat) :=
  let oh := (r.oh t).toNat
  let ow := (r.ow t).toNat
  let c := kabs % t.extent 0
  let kw := kabs / t.extent 0 % r.kw
  let kh := kabs / t.extent 0 / r.kw
  let ih : Int := (p / ow % oh * r.sh : Nat) - (r.pt : Int) + (kh * r.dh : Nat)
  let iw : Int := (p % ow * r.sw : Nat) - (r.pl : Int) + (kw * r.dw : Nat)
  if 0 ≤ ih ∧ ih < t.extent 2 ∧ 0 ≤ iw ∧ iw < t.extent 1 then some (c, iw.toNat, ih.toNat, p / ow / oh) else none

/-- The bytes a convolution pass reads. -/
def ConvRec.reach (r : ConvRec) (t : Tensor) (first m kbase kv : Nat) : Option Span :=
  (List.range m).foldl
    (fun acc i =>
      (List.range kv).foldl
        (fun acc k =>
          match r.index t (first + i) (kbase + k) with
          | some (c, iw, ih, img) =>
            let a := t.addr c iw ih img
            Span.hull acc (some (a, a + t.esize))
          | none => acc) acc)
    none

/-! ### Stream records (R151) -/

/-- A prefetch record within its limits. -/
def streamRecord (d : Nat) : Option Prefetch :=
  let base := bitsOf d 0 52
  let step := bitsOf d 64 32
  let stride := signedOf (bitsOf d 96 32) 32
  let depth := bitsOf d 160 8
  if base % 128 = 0 ∧ step % 128 = 0 ∧ 128 ≤ step ∧ step ≤ 1048576 ∧ stride % 128 = 0 ∧ 1 ≤ depth ∧ depth ≤ 64 then
    some { base := base, stepBytes := step, stride := stride, count := bitsOf d 128 32, depth := depth, next := 0 }
  else none

/-! ### Which formats a use allows (R28, R53, R70, R104, R120) -/

/-- Formats of a preload or of a drain's destination (R104, R120), bf24 among them: R28's column "where allowed" leaves it
out there, and the rules of the uses themselves are followed (log entry 76). -/
def tileFmt (c : Nat) : Bool := c ≤ 6

/-- Formats of vector LOAD and STORE (R28). -/
def vectorFmt (c : Nat) : Bool := c ≤ 6

/-- Formats a move allows (R148), the 4-bit ones included against R28's column (log entry 76). -/
def moveFmt (c : Nat) : Bool := c ≤ 8

/-- Formats of a pass's activation (R28, R69). -/
def passFmt (c : Nat) : Bool := c ≤ 4 || c == 9 || c == 10

/-- Formats of a weight-load source (R70). -/
def loadFmt (c : Nat) : Bool := c ≤ 4 || c == 7 || c == 8

/-- Operand pairs of a plain pass (R53). -/
def pairOk (act weight : Nat) : Bool :=
  (act ≤ 1 && weight ≤ 1) || (act == 2 && weight == 2) || (act == 3 && weight == 3) || (act == 4 && weight == 4)

/-- Targets that R70 allows for a source. -/
def targetOk (src target : Nat) : Bool :=
  if src = 7 then target == 0 || target == 2 else if src = 8 then target == 0 else target == src

/-- The 8-bit format to which the matrix-vector unit expands 4-bit weights (R143). -/
def mvWeightFmt (act weight : Nat) : Nat := if weight = 7 ∧ act = 2 then 2 else if weight = 7 ∨ weight = 8 then 0 else weight

/-- Feed rate r by the activation format (R74, R78). -/
def feedRate (act : Nat) : Nat := if act ≤ 2 then 1 else 2

/-- Passes of a compound pass (R55) and its loads (R82). -/
def piecePasses (fmt : Nat) : Nat := if fmt = 9 then 3 else 6
def pieceLoads (fmt : Nat) : Nat := if fmt = 9 then 2 else 5

end Sys2Proof.Machine
end

