-- ==== Sys2Proof/Machine/Sequencer.lean ====
section
/-! DEFINITION. A core's sequencer: fetching and refusing (R126 to R129, R135, R137), incomplete operations, hazards
and stalls (R154, R157, R159), and enabling and disabling a core (R127, R160). -/

namespace Sys2Proof.Machine

/-! ### What an operation reads, writes and names -/

def PassOp.rows (p : PassOp) : Nat := p.m

/-- Bytes of the activation rows (R84, R85). -/
def PassOp.actReach (p : PassOp) : Option Span :=
  match p.conv with
  | some r => r.reach p.act p.row0 p.m (128 * p.kblk) p.kv
  | none => p.act.reach (128 * p.kblk, 128 * p.kblk + p.kv) (p.row0, p.row0 + p.m) (0, 1) (0, 1)

/-- Box of a weight tensor by orientation (R140): dimension 0, dimension 1. -/
def weightBox (orient : Bool) (k0 n0 k n : Nat) : (Nat × Nat) × (Nat × Nat) :=
  if orient then ((k0, k0 + k), (n0, n0 + n)) else ((n0, n0 + n), (k0, k0 + k))

def PassOp.weightReach (p : PassOp) : Option Span :=
  match p.weight with
  | some w => let (a, b) := weightBox p.orient 0 0 p.kv p.nv; w.reach a b (0, 1) (0, 1)
  | none => none

def PassOp.preReach (p : PassOp) : Option Span :=
  match p.preload with
  | some t => t.reach (0, p.nv) (0, p.m) (0, 1) (0, 1)
  | none => none

def LoadOp.srcReach (l : LoadOp) : Option Span :=
  let (a, b) := weightBox l.orient l.k0 l.n0 l.kw l.nw
  l.src.reach a b (0, 1) (0, 1)

def EngOp.reads : EngOp → Option Span
  | .pass p => Span.hull p.actReach (Span.hull p.weightReach p.preReach)
  | .load l => l.srcReach

def MvOp.reads (o : MvOp) : Option Span :=
  Span.hull (o.act.reach (o.k0, o.k0 + o.kv) (o.row0, o.row0 + o.m) (0, 1) (0, 1))
    (Span.hull (o.weight.reach (o.k0, o.k0 + o.kv) (o.n0, o.n0 + o.nv) (0, 1) (0, 1))
      (match o.preload with
        | some t => t.reach (0, o.nv) (0, o.m) (0, 1) (0, 1)
        | none => none))

def DrainOp.dstReach (o : DrainOp) : Option Span := o.dst.reach (0, o.cols) (0, o.rows) (0, 1) (0, 1)

/-- Length of a side record (R121). -/
def DrainOp.sideLen (o : DrainOp) : Nat := if o.reduce = 0 then 16 else 16 + 8 * o.rows

def DrainOp.writes (o : DrainOp) : Option Span :=
  Span.hull o.dstReach (some ((o.side : Int), ((o.side + o.sideLen : Nat) : Int)))

/-- Ones of a run index or run length. -/
def onesOf : Nat → Nat → Nat
  | 0, _ => 0
  | n + 1, b => b % 2 + onesOf n (b / 2)

/-- Trailing ones of a run index (R115). -/
def trailingOnes : Nat → Nat → Nat
  | 0, _ => 0
  | n + 1, b => if b % 2 = 1 then trailingOnes n (b / 2) + 1 else 0

/-- A pass of a run pushes its partial onto the stack, or adds it into the top slot (R115). -/
def PassOp.pushes (p : PassOp) : Bool := p.runIdx % 2 == 0 || p.compound

/-- The slot tile that a pass of a run writes, and the merges that follow (R115). -/
def PassOp.slotTile (p : PassOp) : Nat := p.dest + onesOf 4 p.runIdx - (if p.pushes then 0 else 1)
def PassOp.merges (p : PassOp) : Nat := trailingOnes 4 p.runIdx - (if p.pushes then 0 else 1)

/-- Tiles an operation on an engine accesses: those its rows reach, and of a run the slot that the pass writes with those
that its merges and its close reach (R81, R110, R115). -/
def EngOp.tiles : EngOp → List Nat
  | .pass p =>
    if p.split then
      (List.range 4).filter fun j => decide ((if p.last then p.dest else p.slotTile - p.merges) ≤ j) && decide (j ≤ p.slotTile)
    else (List.range 4).filter fun j => p.dest ≤ j ∧ j ≤ p.dest + (p.m - 1) / 128
  | .load _ => []

/-- A load or a pass that the engine makes of an operation, in order: of a compound pass the loads of weight pieces and the
passes of an activation piece over a bank (R82), of a pass itself. -/
inductive EngStep where
  | load (piece : Nat) (bank : Bool)
  | pass (piece : Nat) (bank : Bool)
  deriving DecidableEq, Repr

/-- The expansions of R82. -/
def expansion (fmt : Nat) : List EngStep :=
  if fmt = 9 then [.load 0 false, .load 1 true, .pass 1 false, .pass 0 true, .pass 0 false]
  else [.load 0 false, .load 1 true, .pass 2 false, .load 2 false, .pass 1 true, .load 0 true, .pass 0 false, .load 1 false,
    .pass 1 true, .pass 0 false, .pass 0 true]

def PassOp.steps (p : PassOp) : List EngStep := if p.compound then expansion p.act.fmt else [.pass 0 p.bank]

/-- The steps that remain after so many loads and passes. -/
def stepsAfter : List EngStep → Nat → Nat → List EngStep
  | .load _ _ :: r, l + 1, k => stepsAfter r l k
  | .pass _ _ :: r, l, k + 1 => stepsAfter r l k
  | l, _, _ => l

/-- The steps of an operation that are not done. A load is done when it leaves the queue. -/
def QEntry.steps (q : QEntry) : List EngStep :=
  match q.op with
  | .pass p => stepsAfter p.steps q.loads (q.fed / p.m)
  | .load l => [.load 0 l.bank]

def EngStep.bank : EngStep → Bool
  | .load _ b => b
  | .pass _ b => b

/-- Every step has started: of a pass the last one is in progress or done (R76). -/
def QEntry.allStarted (q : QEntry) : Bool :=
  match q.op with
  | .pass p => q.steps.isEmpty || (q.steps.length == 1 && q.fed % p.m != 0)
  | .load _ => q.started

/-- An incomplete operation of a core, as the scoreboard and the tile rules see it. -/
structure Pending where
  seq : Nat
  unit : Nat
  reads : Option Span
  writes : Option Span
  /-- Its intervals of physical addresses, which only moves have (R157). -/
  farReads : Option Span
  farWrites : Option Span
  /-- (engine within the core, tile) pairs that it has still to access. -/
  tiles : List (Nat × Nat)
  deriving DecidableEq, Repr

/-- Tiles that an engine's operation has still to access: of a pass in its last step, those whose rows the feeder has not
sent; of a run's pass all until its merges are made (R81, R110, R111). -/
def QEntry.tilesLeft (q : QEntry) : List Nat :=
  match q.op with
  | .pass p =>
    if p.split || 1 < q.steps.length then q.op.tiles
    else if q.steps.isEmpty then []
    else q.op.tiles.filter fun j => p.dest + q.fed % p.m / 128 ≤ j
  | .load _ => []

def QEntry.pending (e : Nat) (q : QEntry) : Pending :=
  { seq := q.seq, unit := e, reads := q.op.reads, writes := none, farReads := none, farWrites := none, tiles := q.tilesLeft.map fun j => (e, j) }

/-- All bytes a tensor's elements can reach. -/
def Tensor.all (t : Tensor) : Option Span := t.reach (0, t.extent 0) (0, t.extent 1) (0, t.extent 2) (0, t.extent 3)

/-- The interval of a tensor in one space. -/
def Tensor.spanIn (t : Tensor) (physical : Bool) : Option Span := if t.physical = physical then t.all else none

/-- What a move's sources reach in one space (R157). -/
def MoveOp.readIn (o : MoveOp) (physical : Bool) : Option Span := o.srcs.foldl (fun a t => Span.hull a (t.spanIn physical)) none

def MoveOp.pending (o : MoveOp) : Pending :=
  { seq := o.seq, unit := 6, reads := o.readIn false, writes := o.dst.spanIn false, farReads := o.readIn true
    farWrites := o.dst.spanIn true, tiles := [] }

/-- Every incomplete operation of a core; vector operations complete as they issue (log entry 12). A move is incomplete while
it waits in its queue and until the host has acknowledged its writes (R150, R154). An operation
discarded unstarted or abandoned never completes and holds no tile (R93, R110; log entry 74). -/
def State.pendingOps (s : State) (core : Nat) : List Pending :=
  let c := s.core core
  let eng := (List.range 4).foldl
    (fun acc e => acc ++ (s.engine (4 * core + e)).queue.map (QEntry.pending e)) []
  let lost := c.lost.map fun x => { QEntry.pending x.1 x.2 with tiles := [] }
  let mv := c.mvq.map fun x =>
    ({ seq := x.1, unit := 4, reads := x.2.reads, writes := none, farReads := none, farWrites := none, tiles := [(x.2.engine, x.2.tile)] } : Pending)
  let dr := c.drainq.map fun x =>
    ({ seq := x.1, unit := 7, reads := none, writes := x.2.writes, farReads := none, farWrites := none, tiles := [(x.2.engine, x.2.tile)] } : Pending)
  eng ++ lost ++ mv ++ dr ++ (c.moverq ++ c.moves).map MoveOp.pending

/-- A unit of a UNITS mask. -/
def unitIn (units u : Nat) : Bool := bitOf units u

/-- HALT has been issued and everything is complete (R155); what a disable has discarded never is. -/
def State.coreDone (s : State) (core : Nat) : Bool :=
  let c := s.core core
  c.halted && !c.dropped && (s.pendingOps core).isEmpty && c.sigq.isEmpty

/-! ### Prefetchers (R151, R152) -/

/-- Byte address of a step. -/
def Prefetch.addr (p : Prefetch) (i : Nat) : Int := (p.base : Int) + (i : Int) * p.stride

/-- Steps of the stream; unbounded where COUNT is 0. -/
def Prefetch.within (p : Prefetch) (i : Nat) : Nat := if p.count = 0 then i else Nat.min i (p.count - 1)

/-- The last step that a read of [a, a + n) touches. Steps of stride 0 all lie at one place and count as step 0. -/
def Prefetch.touched (p : Prefetch) (a n : Nat) : Option Nat :=
  let hits (i : Nat) : Bool := decide (p.addr i < ((a + n : Nat) : Int)) && decide ((a : Int) < p.addr i + p.stepBytes)
  let last : Int :=
    if p.stride = 0 then 0
    else if 0 < p.stride then (((a + n : Nat) : Int) - p.base - 1) / p.stride
    else ((p.base + p.stepBytes : Nat) - (a : Int) - 1) / (-p.stride)
  if last < 0 then none
  else
    let i := p.within last.toNat
    if hits i then some i else none

/-- One line requested: counted, and brought into the last-level cache of its home or dropped (R152). -/
def State.prefetchLine (s : State) (core : Nat) (a : Int) : State :=
  let s1 := s.count (bCore core) 0x1A0 1
  let drop := s1.count (bCore core) 0x1A8 1
  if a < 0 then drop
  else
    match s.placeOf a.toNat, regionOf a.toNat with
    | .dram, some .hbm => if s.cacheBanks (hbmTile a.toNat) = 0 then drop else s1.memTraffic (a.toNat / 128 * 128) 128 false true
    | .dram, _ => s1.memTraffic (a.toNat / 128 * 128) 128 false true
    | .host, _ => if s.ncl.up then s1.memTraffic (a.toNat / 128 * 128) 128 false true else drop
    | _, _ => drop

/-- Request every step below `upto` that has not been requested. -/
def State.prefetchTo (s : State) (core : Nat) (p : Prefetch) (upto : Nat) : State :=
  (List.range (upto - p.next)).foldl
    (fun acc j =>
      (List.range (p.stepBytes / 128)).foldl (fun a (l : Nat) => a.prefetchLine core (p.addr (p.next + j) + (128 * l : Nat))) acc) s

def State.setPrefetch (s : State) (core i : Nat) (p : Prefetch) : State :=
  let c := s.core core
  s.setCore core { c with prefetchers := Map.insert c.prefetchers i p }

/-- A mover or data-cache read of the core advances its prefetchers (R152). -/
def State.prefetchAdvance (s : State) (core a n : Nat) : State :=
  if n = 0 then s
  else
    (s.core core).prefetchers.foldl
      (fun acc e =>
        match e.2.touched a n with
        | some i =>
          let upto := e.2.within (i + e.2.depth) + 1
          if upto ≤ e.2.next then acc
          else (acc.prefetchTo core e.2 upto).setPrefetch core e.1 { e.2 with next := upto }
        | none => acc) s

/-! ### Fetch and issue -/

/-- What the sequencer of a core has before it. -/
inductive Fetched where
  | idle
  /-- The word at CORE_PC has not arrived (R159). -/
  | absent
  | refused (code : Nat)
  | word (w : Nat)
  deriving DecidableEq, Repr

/-- The units of a site may start operations: its rail is on, it can be reached, and no fatal error has stopped issue
(R446, R483). -/
def State.siteIssues (s : State) (site : Nat) : Bool := s.siteReachable site && !s.power.issueStopped

/-- The core runs its stream: enabled, not stopped, not halted (R135, R155). -/
def State.coreRuns (s : State) (core : Nat) : Bool :=
  let c := s.core core
  s.isEnabled (bCore core) && !c.stopped && !c.halted && s.siteIssues (core / 8)

/-- The core may issue: it runs, and no token wait is outstanding (R153). -/
def State.coreIssues (s : State) (core : Nat) : Bool := s.coreRuns core && (s.core core).waiting.isNone

/-- Instruction words that the sequencer fetches ahead (R128). -/
def aheadWords : Nat := 64

/-- The word at an index, if it has been fetched. -/
def Core.wordAt (c : Core) (i : Nat) : Option (Nat × Bool) := if c.aheadBase ≤ i then c.ahead[i - c.aheadBase]? else none

/-- The words of a run of bytes, each with whether it is poison. -/
def wordsIn (n : Nat) (bs : PBytes) : List (Nat × Bool) :=
  (List.range n).map fun i => let part : PBytes := (bs.drop (16 * i)).take 16; (leNat part.data, part.anyPoison)

/-- Fetch the words from CORE_PC on through the data cache, if the next one has not been fetched and its data can come
(R125, R128, R326; when it fetches, log entry 75). -/
def State.fetchAhead (s : State) (core : Nat) : State :=
  let c := s.core core
  let pc := c.pc.toNat
  if !s.coreRuns core || decide (c.insnCount ≤ pc) || (c.wordAt pc).isSome then s
  else
    let n := min aheadWords (c.insnCount - pc)
    let a := c.insnBase + 16 * pc
    if s.hostWaits a (16 * n) then s.hostStall (8 * core)
    else
      let (s1, bs) := (s.prefetchAdvance core a (16 * n)).cachedRead (8 * core) core a (16 * n)
      s1.setCore core { s1.core core with aheadBase := pc, ahead := wordsIn n bs }

/-- The instruction at CORE_PC (R128, R129, R137): past the last one 0x08; poison or an unlisted operation 0x02. -/
def State.fetched (s : State) (core : Nat) : Fetched :=
  if !s.coreRuns core then .idle
  else
    let c := s.core core
    if c.insnCount ≤ c.pc.toNat then .refused 8
    else
      match c.wordAt c.pc.toNat with
      | none => .absent
      | some (_, true) => .refused 2
      | some (w, false) => if (opOf w).isSome then .word w else .refused 2

/-- Refuse the instruction at CORE_PC (R135): STOPPED, CORE_STOP, one record. -/
def State.refuse (s : State) (core code : Nat) : State :=
  let c := s.core core
  (s.setCore core { c with stopped := true, stopCode := BitVec.ofNat 8 code, stopIndex := c.pc, held := false }).record
    (bCore core) 0x020B ((s.logicalCore core).getD 0xFFFF) code c.pc.toNat

/-- The conditions of R159 as bits, in the order of CORE_STATUS. -/
def stQueue : BitVec 7 := 1
def stHazard : BitVec 7 := 2
def stScore : BitVec 7 := 4
def stPrice : BitVec 7 := 8
def stToken : BitVec 7 := 16
def stBarrier : BitVec 7 := 32
def stFetch : BitVec 7 := 64

/-- What presenting an instruction comes to. -/
inductive Issue where
  | refuse (code : Nat)
  | stall (why : BitVec 7) (s : State)
  /-- Issued: the state with its effect, and the next index. -/
  | go (s : State) (next : Nat)
  deriving DecidableEq, Repr

/-- Least of a list of stop codes (R137). -/
def leastCode : List Nat → Option Nat
  | [] => none
  | c :: cs => match leastCode cs with
    | some d => some (Nat.min c d)
    | none => some c

/-- Issue the instruction at CORE_PC if it is this operation (R129, R135, R159). -/
def State.issue (s : State) (core : Nat) (op : CoreOp) (run : State → Nat → Issue) : State :=
  let s0 := s.fetchAhead core
  if !s0.coreIssues core then s0
  else match s0.fetched core with
  | .idle => s0
  | .absent => s0
  | .refused code => s0.refuse core code
  | .word w =>
    if opOf w ≠ some op then s0
    else
      match run s0 w with
      | .refuse code => s0.refuse core code
      | .stall _ s1 => s1.setCore core { s1.core core with held := true }
      | .go s1 next =>
        (s1.setCore core { s1.core core with pc := BitVec.ofNat 48 next, held := false }).count (bCore core) 0x140 1

/-- Number of a physical core as a priced agent; one that no logical core names is no agent of the planner and has a
number of its own. -/
def State.pricedCore (s : State) (p : Nat) : Nat := (s.logicalCore p).getD (1024 + p)

/-- Index of the next instruction in line. -/
def State.nextPc (s : State) (core : Nat) : Nat := (s.core core).pc.toNat + 1

/-- The intervals of an operation meet those of an incomplete earlier one in either space (R157). -/
def Pending.meets (q p : Pending) : Bool :=
  overlaps q.writes p.reads || overlaps q.writes p.writes || overlaps q.reads p.writes || overlaps q.farWrites p.farReads
    || overlaps q.farWrites p.farWrites || overlaps q.farReads p.farWrites

/-- The stall bits of an operation with its intervals, a place in a queue of which `room` tells, and work to be paid (R157,
R159, R216). -/
def State.stallBits (s : State) (core : Nat) (q : Pending) (room : Bool) (work : Work) : BitVec 7 :=
  let ps := s.pendingOps core
  let hazard := ps.any q.meets
  let agent := s.pricedCore core
  (if room then 0 else stQueue) ||| (if hazard then stHazard else 0) ||| (if 64 ≤ ps.length then stScore else 0)
    ||| (if s.covered agent (s.price work) then 0 else stPrice)

/-- The same for an operation that reaches the scratchpad alone. -/
def State.stallsFor (s : State) (core : Nat) (r w : Option Span) (room : Bool) (work : Work) : BitVec 7 :=
  s.stallBits core { seq := 0, unit := 0, reads := r, writes := w, farReads := none, farWrites := none, tiles := [] } room work

/-- Pay for an operation and give it its issue number. -/
def State.pay (s : State) (core : Nat) (work : Work) : State :=
  let s1 := s.charge (s.pricedCore core) work
  let c := s1.core core
  s1.setCore core { c with seq := c.seq + 1 }

/-- An operation that waits for its price keeps it for the planner (R218). -/
def State.priceHeld (s : State) (core : Nat) (work : Work) (why : BitVec 7) : State :=
  if why &&& stPrice = 0 then s.dropHeld (s.pricedCore core) else s.holdPrice (s.pricedCore core) work

/-- What holds BARRIER and SIGNAL back, and a scoreboard that is full beside it (R159). -/
def State.barrierBits (s : State) (core : Nat) : BitVec 7 :=
  stBarrier ||| (if 64 ≤ (s.pendingOps core).length then stScore else 0)

/-! ### Enabling and disabling (R127, R160) -/

def streamMagic : Nat := 0x5453464E

/-- Package feature floor (R356). -/
def State.featureFloor (s : State) : Nat := s.floor

/-- The enable actions of a core (R127): registers cleared, header read and checked, descriptor slots loaded. -/
def State.enableCore (s : State) (core : Nat) : State :=
  let base := s.fld (bCore core) 0x100 6 46 * 64
  let (s1, hp) := (s.prefetchAdvance core base 64).cachedRead (8 * core) core base 64
  let h := hp.data
  let nd := fieldLe h 12 4
  let dOff := fieldLe h 16 8
  let ni := fieldLe h 24 8
  let iOff := fieldLe h 32 8
  let placed := match regionOf base with
    | some .hbm => true
    | some .lpx => true
    | some .sram => true
    | _ => false
  let ok := placed && !hp.anyPoison && fieldLe h 0 4 == streamMagic && fieldLe h 4 2 == 1
    && decide (fieldLe h 6 1 ≤ s.floor) && (s.logicalCore core == some (fieldLe h 8 4)) && decide (nd ≤ 256)
    && dOff % 32 == 0 && iOff % 16 == 0 && decide (1 ≤ ni) && decide (ni < 2 ^ 48)
  let fresh : Core := .reset
  if ok then
    let (s2, tp) := (s1.prefetchAdvance core (base + dOff) (32 * nd)).cachedRead (8 * core) core (base + dOff) (32 * nd)
    let slot (i : Nat) : PBytes := (tp.drop (32 * i)).take 32
    s2.setCore core
      { fresh with
        prefetchers := (s2.core core).prefetchers
        satMode := bitOf (fieldLe h 7 1) 0
        insnBase := base + iOff
        insnCount := ni
        desc := (List.range nd).foldl (fun m i => Map.put m i (BitVec.ofNat 256 (leNat (slot i).data)) 0) []
        descPoison := (List.range nd).filter fun i => (slot i).anyPoison }
  else (s1.setCore core { fresh with prefetchers := (s1.core core).prefetchers }).refuse core 1

/-- Token agents are OWNER_TYPE · 2¹⁶ + index (R172, R190): logical core, intake engine, sweep engine, save engine. -/
def agCore (c : Nat) : Nat := c
def agIntake (i : Nat) : Nat := 2 * 65536 + i
def agSweep (i : Nat) : Nat := 3 * 65536 + i
def agSave : Nat := 4 * 65536
/-- What the hub's turn table and the compression engines send: signals that act without rights (R209, R379). -/
def agHub : Nat := 5 * 65536

/-- Tile that holds a token. -/
def tokTile (token : Nat) : Nat := token / 16384

/-- A message's agent, and the tile it goes to; a grant goes to its agent. -/
def TokMsg.route : TokMsg → Nat × Option Nat
  | .signal a t _ => (a, some (tokTile t.toNat))
  | .wait a t _ => (a, some (tokTile t.toNat))
  | .withdrawal a t => (a, some (tokTile t.toNat))
  | .grant a => (a, none)

/-- Where a token agent is: its core, the tile of a sweep engine, or the hub. -/
def State.tokenNode (s : State) (agent : Nat) : Node :=
  let i := agent % 65536
  match agent / 65536 with
  | 0 => coreNode ((s.physCore i).getD i)
  | 3 => i / 4
  | _ => 4

/-- A token message leaves its agent, in order and as traffic of class 3 (R171, R188). -/
def State.sendToken (s : State) (m : TokMsg) : State :=
  let s1 := match m.route with
    | (a, some t) => s.carry (s.tokenNode a) t 3 none
    | (_, none) => s
  { s1 with tokMsgs := s.tokMsgs ++ [m] }

/-- A grant leaves a tile for its agent (R188, R190). -/
def State.sendGrant (s : State) (tile agent : Nat) : State :=
  let s1 := s.carry tile (s.tokenNode agent) 3 none
  { s1 with tokMsgs := s.tokMsgs ++ [.grant agent] }

/-- Discard the operations of an engine that have not started; they are counted and never complete (R93). A discarded
weight load has still set the format that later passes are checked against (R71; log entry 77). -/
def State.discardUnstarted (s : State) (e : Nat) : State :=
  let x := s.engine e
  let gone := x.queue.filter fun q => !q.started
  let s1 := s.setEngine e { x with queue := x.queue.filter fun q => q.started }
  let s2 := if gone = [] then s1 else s1.count (bEng e) 0x180 gone.length
  let c := s2.core (e / 4)
  s2.setCore (e / 4) { c with lost := c.lost ++ gone.map fun q => (e % 4, q) }

/-- The disable actions that a core takes at once (R160): unstarted operations and unapplied signals are discarded,
an outstanding token wait is withdrawn. -/
def State.startCoreDisable (s : State) (core : Nat) : State :=
  let s1 := ((List.range 4).foldl (fun acc e => acc.discardUnstarted (4 * core + e)) s).hostForget fun w => w / 8 == core
  let c := s1.core core
  let n := c.sigq.length
  let s2 := if n = 0 then s1 else s1.count (bCore core) 0x1C0 n
  let s3 :=
    match c.waiting with
    | some (tok, _) => s2.sendToken (.withdrawal (agCore ((s2.logicalCore core).getD core)) tok)
    | none => s2
  (s3.setCore core
    { c with
      sigq := [], mvq := [], drainq := [], moverq := [], withdrawing := c.waiting.isSome, held := false
      dropped := c.dropped || !c.sigq.isEmpty || !c.mvq.isEmpty || !c.drainq.isEmpty || !c.moverq.isEmpty }).dropHeld (s.pricedCore core)

/-- Everything that DISABLING waits for is done (R160). -/
def State.coreQuiet (s : State) (core : Nat) : Bool :=
  let c := s.core core
  !c.withdrawing && c.moves.isEmpty && ((List.range 4).all fun e => (s.engine (4 * core + e)).queue.isEmpty)

/-! ### Control instructions (R155) -/

def insnSd (w : Nat) : Nat := bitsOf w 8 4
def insnSa (w : Nat) : Nat := bitsOf w 12 4
def insnUnits (w : Nat) : Nat := bitsOf w 16 8
def insnImm (w : Nat) : Nat := bitsOf w 32 32
def insnOffset (w : Nat) : Int := signedOf (bitsOf w 64 32) 32

/-- The target of a LOOP or JUMP, if it lies in the stream (R155). -/
def State.branchTarget (s : State) (core w : Nat) : Option Nat :=
  let t : Int := ((s.core core).pc.toNat : Int) + insnOffset w
  if 0 ≤ t ∧ t < (s.core core).insnCount then some t.toNat else none

def doNop (core : Nat) (s : State) (_ : Nat) : Issue := .go s (s.nextPc core)

def doHalt (core : Nat) (s : State) (_ : Nat) : Issue :=
  .go (s.setCore core { s.core core with halted := true }) (s.nextPc core)

def doSets (core : Nat) (s : State) (w : Nat) : Issue :=
  .go (s.setCore core ((s.core core).setScalar (insnSd w) (BitVec.ofNat 32 (insnImm w)))) (s.nextPc core)

def doAdds (core : Nat) (s : State) (w : Nat) : Issue :=
  let c := s.core core
  .go (s.setCore core (c.setScalar (insnSd w) (c.scalar (insnSa w) + BitVec.ofNat 32 (insnImm w)))) (s.nextPc core)

def doLoop (core : Nat) (s : State) (w : Nat) : Issue :=
  let c := s.core core
  if insnSa w = 0 then .refuse 2
  else
    match s.branchTarget core w with
    | none => .refuse 8
    | some t =>
      let v := c.scalar (insnSa w) - 1
      .go (s.setCore core (c.setScalar (insnSa w) v)) (if v = 0 then s.nextPc core else t)

def doJump (core : Nat) (s : State) (w : Nat) : Issue :=
  match s.branchTarget core w with
  | none => .refuse 8
  | some t => .go s t

def doBarrier (core : Nat) (s : State) (w : Nat) : Issue :=
  let busy := (s.pendingOps core).any fun p => unitIn (insnUnits w) p.unit
  if busy || !(s.core core).sigq.isEmpty then .stall (s.barrierBits core) s else .go s (s.nextPc core)

/-- NOP (R155). -/
def execNop (core : CoreIx) (s : State) : Host.Outcome State Fault Refusal := .next (s.issue core .nop (doNop core))
/-- HALT (R155). -/
def execHalt (core : CoreIx) (s : State) : Host.Outcome State Fault Refusal := .next (s.issue core .halt (doHalt core))
/-- SETS (R155). -/
def execSets (core : CoreIx) (s : State) : Host.Outcome State Fault Refusal := .next (s.issue core .sets (doSets core))
/-- ADDS (R155). -/
def execAdds (core : CoreIx) (s : State) : Host.Outcome State Fault Refusal := .next (s.issue core .adds (doAdds core))
/-- LOOP (R155). -/
def execLoop (core : CoreIx) (s : State) : Host.Outcome State Fault Refusal := .next (s.issue core .loop (doLoop core))
/-- JUMP (R155). -/
def execJump (core : CoreIx) (s : State) : Host.Outcome State Fault Refusal := .next (s.issue core .jump (doJump core))
/-- BARRIER (R155). -/
def execBarrier (core : CoreIx) (s : State) : Host.Outcome State Fault Refusal :=
  .next (s.issue core .barrier (doBarrier core))

end Sys2Proof.Machine
end

