-- ==== Sys2Proof/Machine/Tokens.lean ====
section
/-! DEFINITION. Tokens: the operations of a TOK_ block (R188 to R193, R199, R510), the token instructions (R153), and
grants and withdrawals (R160). -/

namespace Sys2Proof.Machine

/-! ### Rights and origins (R172, R188, R191) -/

/-- Base tile of an agent; none for the agents of the hub. -/
def agentTile (agent : Nat) : Option Nat :=
  let i := agent % 65536
  match agent / 65536 with
  | 0 => some (i / 96)
  | 3 => some (i / 4)
  | _ => none

/-- The allotment table of a physical core, or of an agent that is an engine, covers the token with a right (R191). -/
def State.hasRight (s : State) (agent token : Nat) (wait : Bool) : Bool :=
  (Map.get s.allots agent []).any fun r =>
    decide (r.first ≤ token) && decide (token ≤ r.last) && (if wait then r.wait else r.signal)

/-- Operations from another tile or the hub are counted as they arrive (R200). -/
def State.countRemote (s : State) (agent tile : Nat) : State :=
  if agentTile agent = some tile then s else s.count (bTok tile) 0x158 1

/-- The message is the next to arrive on its way: messages between one agent and one tile arrive in the order sent
(R171, R188). -/
def State.tokNext (s : State) (m : TokMsg) : Bool := (s.tokMsgs.find? fun x => x.route = m.route) == some m

/-- A message has arrived: it is no longer on its way. -/
def State.arrived (s : State) (m : TokMsg) : State := { s with tokMsgs := s.tokMsgs.erase m }

/-! ### Operations on a token (R189) -/

/-- Write a count; a change gives the token the current turn number. -/
def State.setCount (s : State) (i : Nat) (v : Nat) : State :=
  let t := s.token i
  if t.count.toNat = v then s else s.setToken i { t with count := BitVec.ofNat 32 v, stamp := s.turns.now }

/-- Scan the queue from its head: each waiter whose VALUE is covered is released, the others keep their order. -/
def releaseScan : Nat → List (Nat × W32) → Nat × List (Nat × W32) × List Nat
  | count, [] => (count, [], [])
  | count, (a, v) :: ws =>
    if v.toNat ≤ count then
      let (c, keep, go) := releaseScan (count - v.toNat) ws
      (c, keep, a :: go)
    else
      let (c, keep, go) := releaseScan count ws
      (c, (a, v) :: keep, go)

/-- Release what the count covers (R189). -/
def State.release (s : State) (i : Nat) : State :=
  let t := s.token i
  let (c, keep, go) := releaseScan t.count.toNat t.waiters
  let s1 := (s.setToken i { t with waiters := keep }).setCount i c
  go.foldl (fun acc a => acc.sendGrant (tokTile i) a) s1

/-- Signal (R189): saturates at 2³² − 1, with a record. -/
def State.applySignal (s : State) (token value : Nat) : State :=
  let t := s.token token
  let blk := bTok (tokTile token)
  let sum := t.count.toNat + value
  let s1 := s.count blk 0x140 1
  let s2 := if 2 ^ 32 ≤ sum then s1.record blk 0x020E (tokTile token) token 0 else s1
  (s2.setCount token (Nat.min sum (2 ^ 32 - 1))).release token

/-- Wait (R189): granted on arrival or queued. -/
def State.applyWait (s : State) (agent token value : Nat) : State :=
  let t := s.token token
  let blk := bTok (tokTile token)
  if value ≤ t.count.toNat then
    (((s.count blk 0x148 1).setCount token (t.count.toNat - value)).release token).sendGrant (tokTile token) agent
  else (s.count blk 0x150 1).setToken token { t with waiters := t.waiters ++ [(agent, BitVec.ofNat 32 value)] }

/-- What TOK_RESULT and TOK_STAMP report after a Take or Peek (R199). -/
def State.reportToken (s : State) (token : Nat) (taken : Bool) : State :=
  let t := s.token token
  let blk := bTok (tokTile token)
  (s.setReg blk 0x108
    (BitVec.ofNat 64 (t.count.toNat + t.waiters.length % 1024 * 2 ^ 32 + (if taken then 2 ^ 42 else 0) + 2 ^ 43))).setReg
    blk 0x110 t.stamp

/-- Take (R189). -/
def State.applyTake (s : State) (token value : Nat) : State :=
  let t := s.token token
  if value ≤ t.count.toNat then ((s.setCount token (t.count.toNat - value)).release token).reportToken token true
  else s.reportToken token false

/-- A compression engine's Take with value 1 (R379): the answer to one that no longer waits for it is dropped. -/
def State.applyStepTake (s : State) (e token : Nat) : State :=
  let c := (s.token token).count.toNat
  if c = 0 then s
  else
    let s1 := (s.setCount token (c - 1)).release token
    let y := s1.cmp e
    if y.running && y.waitToken then s1.setCmp e { y with tokenHeld := true, waitToken := false, waitLong := false } else s1

/-- An operation outside its agent's rights: ignored, counted, recorded once for each agent (R191). -/
def State.refuseToken (s : State) (agent token : Nat) : State :=
  let tile := tokTile token
  (s.count (bTok tile) 0x168 1).recordOnce (bTok tile) 0x020F agent tile token agent

/-- Apply an operation at its block (R189, R191). Cores' rights are checked at issue. -/
def State.applyHeld (s : State) (op : HeldOp) : State :=
  match op with
  | .signal a t v =>
    if a / 65536 = 0 || a = agHub || s.hasRight a t.toNat false then s.applySignal t.toNat v.toNat else s.refuseToken a t.toNat
  | .wait a t v =>
    if a / 65536 = 0 || s.hasRight a t.toNat true then s.applyWait a t.toNat v.toNat else s.refuseToken a t.toNat
  | .cmdSignal t v => s.applySignal t.toNat v.toNat
  | .take t v => s.applyTake t.toNat v.toNat
  | .peek t => s.reportToken t.toNat false
  | .stepTake e t => s.applyStepTake e t.toNat

/-- An operation arrives at a block: applied, or held while the block is disabled, and behind operations that are still held
as the block is being enabled (R193, R484). -/
def State.offer (s : State) (tile : Nat) (op : HeldOp) : State :=
  if !s.isDisabled (bTok tile) && Map.get s.held tile [] = [] then s.applyHeld op
  else
    ({ s with held := Map.put s.held tile (Map.get s.held tile [] ++ [op]) [] }).count (bTok tile) 0x170 1

/-- At enable the held operations are applied in arrival order; VALID starts anew (R193, R199). -/
def State.enableTok (s : State) (tile : Nat) : State :=
  let ops := Map.get s.held tile []
  let s1 := ({ s with held := Map.erase s.held tile }).setFld (bTok tile) 0x108 43 1 0
  ops.foldl State.applyHeld s1

/-! ### Agents: waits, grants and withdrawals (R153, R160, R190) -/

/-- The core that a logical core number names; its physical number where no map names it. -/
def State.coreOfAgent (s : State) (agent : Nat) : Nat := (s.physCore agent).getD agent

/-- A save begins: what its predecessor has left in the status register clears (R257, R279). -/
def Save.start (x : Save) : Save :=
  { x with
    waiting := false, granted := true, plan := [], captureTurn := none, released := false, fault := false, faultCode := 0
    copyoutAborted := false }

/-- A grant reaches its waiter; one that comes to a waiter that has withdrawn is discarded. -/
def State.grantTo (s : State) (agent : Nat) : State :=
  let i := agent % 65536
  match agent / 65536 with
  | 0 =>
    let p := s.coreOfAgent agent
    let c := s.core p
    if c.withdrawing then s else s.setCore p { c with waiting := none }
  | 2 =>
    let x := s.intake i
    if x.waiting && !x.withdrawing then s.setIntake i { x with waiting := false, granted := true } else s
  | 3 =>
    let x := s.sweep i
    if x.waiting && !x.withdrawing then s.setSweep i { x with waiting := false, granted := true } else s
  | 4 =>
    let x := s.save
    if x.waiting && !x.withdrawing then { s with save := x.start } else s
  | _ => s

/-- The agent is withdrawing its wait. -/
def State.withdraws (s : State) (agent : Nat) : Bool :=
  let i := agent % 65536
  match agent / 65536 with
  | 0 => (s.core (s.coreOfAgent agent)).withdrawing
  | 2 => (s.intake i).withdrawing
  | 3 => (s.sweep i).withdrawing
  | 4 => s.save.withdrawing
  | _ => false

/-- The acknowledgement of a withdrawal reaches its agent. -/
def State.withdrawn (s : State) (agent : Nat) : State :=
  let i := agent % 65536
  match agent / 65536 with
  | 0 =>
    let p := s.coreOfAgent agent
    s.setCore p { s.core p with withdrawing := false, waiting := none }
  | 2 => s.setIntake i { s.intake i with withdrawing := false, waiting := false }
  | 3 => s.setSweep i { s.sweep i with withdrawing := false, waiting := false }
  | 4 => { s with save := { s.save with withdrawing := false, waiting := false } }
  | _ => s

def HeldOp.waitOf (agent : Nat) : HeldOp → Bool
  | .wait a _ _ => a == agent
  | _ => false

/-- A message of an agent's wait: the wait, its withdrawal, or the grant on its way back. -/
def TokMsg.agentOf : TokMsg → Option Nat
  | .wait a _ _ => some a
  | .withdrawal a _ => some a
  | .grant a => some a
  | .signal _ _ _ => none

/-- Remove an agent's wait from every queue, from the held operations and from what is on its way; a grant that was sent
before reaches the agent ahead of the acknowledgement and is discarded (R160, R171, R193). -/
def State.removeWaits (s : State) (agent : Nat) : State :=
  { s with
    tokens := (s.tokens.map fun e => (e.1, { e.2 with waiters := e.2.waiters.filter fun w => w.1 ≠ agent })).filter
      fun e => e.2 ≠ Token.reset
    held := (s.held.map fun e => (e.1, e.2.filter fun o => !o.waitOf agent)).filter fun e => e.2 ≠ []
    tokMsgs := s.tokMsgs.filter fun m => m.agentOf ≠ some agent }

/-! ### Token instructions (R153) -/

def tokOf (c : Core) (w : Nat) : Nat := (bitsOf w 16 16 + (c.scalar (bitsOf w 64 4)).toNat) % 65536

/-- Rights and VALUE of a token instruction (R137, R191). -/
def State.tokenAllowed (s : State) (core token value : Nat) (wait : Bool) : Bool :=
  value != 0 && s.hasRight core token wait

def doWait (core : Nat) (s : State) (w : Nat) : Issue :=
  let c := s.core core
  let t := tokOf c w
  let v := bitsOf w 32 32
  if !s.tokenAllowed core t v true then .refuse 7
  else
    .go ((s.setCore core { c with waiting := some (BitVec.ofNat 16 t, BitVec.ofNat 32 v) }).sendToken
      (.wait (agCore ((s.logicalCore core).getD core)) (BitVec.ofNat 16 t) (BitVec.ofNat 32 v))) (s.nextPc core)

def doSignal (core : Nat) (s : State) (w : Nat) : Issue :=
  let c := s.core core
  let t := tokOf c w
  let v := bitsOf w 32 32
  if !s.tokenAllowed core t v false then .refuse 7
  else if 16 ≤ c.sigq.length then .stall (s.barrierBits core) s
  else
    let e : SigEntry := { seq := c.seq, units := BitVec.ofNat 8 (bitsOf w 8 8), token := BitVec.ofNat 16 t, value := BitVec.ofNat 32 v }
    .go (s.setCore core { c with sigq := c.sigq ++ [e] }) (s.nextPc core)

/-- WAIT (R153). -/
def execWait (core : CoreIx) (s : State) : Host.Outcome State Fault Refusal := .next (s.issue core .wait (doWait core))
/-- SIGNAL (R153). -/
def execSignal (core : CoreIx) (s : State) : Host.Outcome State Fault Refusal := .next (s.issue core .signal (doSignal core))

/-- The head of the signal queue may leave: every operation issued before it to a unit it names is complete (R153). -/
def State.signalReady (s : State) (core : Nat) (e : SigEntry) : Bool :=
  (s.pendingOps core).all fun p => decide (e.seq ≤ p.seq) || !unitIn e.units.toNat p.unit

/-- SIGNAL_APPLY (R153, R154, R187): the signal sets out for its token's block. What a quarantined die sends is discarded
at the tile's bond receiver (R273). -/
def execSignalApply (core : CoreIx) (s : State) : Host.Outcome State Fault Refusal :=
  let c := s.core core
  match c.sigq with
  | e :: rest =>
    if s.signalReady core e then
      let s1 := s.setCore core { c with sigq := rest }
      match s.fromQuarantine (.agent core) with
      | some site => .next (s1.dropPacket site 3)
      | none => .next (s1.sendToken (.signal (agCore ((s.logicalCore core).getD core)) e.token e.value))
    else .next s
  | [] => .next s

/-! ### Arrivals and commands -/

/-- The quarantined site of a core that has sent a token message (R273). -/
def State.tokenQuarantine (s : State) (agent : Nat) : Option Nat :=
  if agent / 65536 = 0 then s.fromQuarantine (.agent (s.coreOfAgent agent)) else none

/-- A token message arrives at its tile: nothing where it is not the next to arrive there; discarded where its die is
quarantined (R171, R273). -/
def State.tokenArrival (s : State) (agent tile : Nat) (m : TokMsg) (op : HeldOp) : State :=
  if !s.tokNext m then s
  else
    let s1 := s.arrived m
    match s.tokenQuarantine agent with
    | some site => s1.dropPacket site 3
    | none => (s1.countRemote agent tile).offer tile op

/-- TOKEN_SIGNAL_ARRIVAL (R171, R189, R191, R193). -/
def execTokenSignalArrival (agent : Nat) (token : BitVec 16) (value : W32) (s : State) : Host.Outcome State Fault Refusal :=
  .next (s.tokenArrival agent (tokTile token.toNat) (.signal agent token value) (.signal agent token value))

/-- TOKEN_WAIT_ARRIVAL (R171, R189, R190, R191, R193). -/
def execTokenWaitArrival (agent : Nat) (token : BitVec 16) (value : W32) (s : State) : Host.Outcome State Fault Refusal :=
  .next (s.tokenArrival agent (tokTile token.toNat) (.wait agent token value) (.wait agent token value))

/-- TOKEN_GRANT_ARRIVAL (R153, R160): a grant on its way reaches its agent. -/
def execTokenGrantArrival (agent : Nat) (s : State) : Host.Outcome State Fault Refusal :=
  if s.tokNext (.grant agent) then .next ((s.arrived (.grant agent)).grantTo agent) else .next s

/-- The token that an agent's withdrawal names. -/
def State.withdrawalOf (s : State) (agent : Nat) : Option (BitVec 16) :=
  s.tokMsgs.findSome? fun m => match m with
    | .withdrawal a t => if a = agent then some t else none
    | _ => none

/-- WITHDRAWAL (R160, R193): the withdrawal that an agent has sent arrives and is applied in every state of the block;
its acknowledgement ends the wait. -/
def execWithdrawal (agent : Nat) (s : State) : Host.Outcome State Fault Refusal :=
  match s.withdrawalOf agent with
  | some t =>
    if s.withdraws agent && s.tokNext (.withdrawal agent t) then
      .next (((s.countRemote agent (tokTile t.toNat)).removeWaits agent).withdrawn agent)
    else .next s
  | none => .next s

/-- A TOK_CMD comes from the block's own register port, whoever writes it, so TOK_HOLD_REMOTE does not count it (R200, R510;
log entry 92). One that names a token of another tile, or a VALUE of 0 where one is needed, is ignored and counted (R199). -/
def State.tokCmd (s : State) (tile token : Nat) (ok : Bool) (run : State → State) : State :=
  if tokTile token = tile && ok then run s else s.count (bTok tile) 0x168 1

/-- TOK_CMD_SIGNAL (R189, R199). -/
def execTokCmdSignal (tile : TileIx) (token : BitVec 16) (value : W32) (s : State) : Host.Outcome State Fault Refusal :=
  .next (s.tokCmd tile token.toNat (value != 0) fun s1 => s1.offer tile (.cmdSignal token value))

/-- TAKE (R189, R199). -/
def execTake (tile : TileIx) (token : BitVec 16) (value : W32) (s : State) : Host.Outcome State Fault Refusal :=
  .next (s.tokCmd tile token.toNat (value != 0) fun s1 => s1.offer tile (.take token value))

/-- A configuration write that finds its block not disabled (R485). -/
def State.writeWhileEnabled (s : State) (blk off : Nat) : State :=
  s.setBlk blk { s.blk blk with wwe := true, ignoredOffset := BitVec.ofNat 16 off }

/-- SET (R189, R199): only while the block is disabled. -/
def execSet (tile : TileIx) (token : BitVec 16) (value : W32) (s : State) : Host.Outcome State Fault Refusal :=
  .next (s.tokCmd tile token.toNat true fun s1 =>
    if s1.isDisabled (bTok tile) then (s1.setCount token.toNat value.toNat).release token.toNat
    else s1.writeWhileEnabled (bTok tile) 0x100)

/-- PEEK (R189, R199). -/
def execPeek (tile : TileIx) (token : BitVec 16) (s : State) : Host.Outcome State Fault Refusal :=
  .next (s.tokCmd tile token.toNat true fun s1 => s1.offer tile (.peek token))

end Sys2Proof.Machine
end

