-- ==== Sys2Proof/Machine/Sites.lean ====
section
/-! DEFINITION. Die sites: quarantine, readmission and site reset (R270 to R276, R281, R344, R357). -/

namespace Sys2Proof.Machine

/-! ### The site table of module flash (R270, R503) -/

/-- A site as its flash record gives it at boot: quarantined ones stay so (R273), all others are spares until a die map
names them; an erased record is a site never quarantined. -/
def State.siteFromFlash (s : State) (i : Nat) : Site :=
  let b := s.flashRead (siteTable + 4 * i) 4
  if fieldLe b 0 1 = 0xFF then Site.reset
  else
    { Site.reset with
      status := if fieldLe b 0 1 = 2 ∨ fieldLe b 0 1 = 3 then .quarantined else .spare
      incarnation := BitVec.ofNat 4 (fieldLe b 1 1), readmits := fieldLe b 2 1, cause := BitVec.ofNat 2 (fieldLe b 3 1) }

/-! ### The parts of a site -/

def siteCores (i : Nat) : List Nat := (List.range 8).map (8 * i + ·)

/-- The blocks on a site (R491). -/
def siteBlocks (i : Nat) : List Nat :=
  (List.range 32).map (fun e => bEng (32 * i + e)) ++ (siteCores i).map bCore ++ (siteCores i).map bBankCore

/-! ### Leaving the tile (R272, R276) -/

/-- Token agents of the site's cores. -/
def State.siteAgents (s : State) (i : Nat) : List Nat := (siteCores i).filterMap s.logicalCore

/-- Agents a token message comes from, and the one it goes to. -/
def TokMsg.sender : TokMsg → Option Nat
  | .signal a _ _ => some a
  | .wait a _ _ => some a
  | .withdrawal a _ => some a
  | .grant _ => none

def TokMsg.receiver : TokMsg → Option Nat
  | .grant a => some a
  | _ => none

/-- The site's cores leave every waiter queue; its data caches are dead agents (R272, R276). -/
def State.abandonSite (s : State) (i : Nat) : State :=
  let s1 := (s.siteAgents i).foldl State.removeWaits s
  (siteCores i).foldl State.declareDead s1

/-- Token packets in the mesh that carry the retired incarnation are dropped, and those addressed to the site (R272). -/
def State.dropPackets (s : State) (i : Nat) : State :=
  let ags := (s.siteAgents i)
  let fromSite := s.tokMsgs.filter fun m => match m.sender with | some a => ags.contains a | none => false
  let toSite := s.tokMsgs.filter fun m => match m.receiver with | some a => ags.contains a | none => false
  let s1 := { s with tokMsgs := s.tokMsgs.filter fun m => !(fromSite.contains m) && !(toSite.contains m) }
  let s2 := if fromSite.isEmpty then s1 else s1.count bSite 0x140 fromSite.length
  if toSite.isEmpty then s2 else s2.count bSite 0x148 toSite.length

/-- The bond port that a register of the block at an address is reached through, if it is a CORE_CLU_STATUS (R161). -/
def cluPort (a : Nat) : Option Nat :=
  match blockOf ((a - regBase) / 65536) with
  | some (.core, c) => if regBase ≤ a ∧ (a - regBase) % 65536 = 0x128 then some (bondEnd (c / 8) (c % 8 / 4)) else none
  | _ => none

/-- The waiting reads of CORE_CLU_STATUS that cross a port end: with ROUTER_UP 1 once it carries frames, or as unmapped
accesses where it never will (R161, R318, R501). -/
def State.answerClu (s : State) (e : Nat) (up : Bool) : State :=
  (s.cluReads.filter fun a => cluPort a.1 = some e).foldl
    (fun acc a =>
      match a.2 with
      | some core => if up then acc.emit (.loadData core 1) else (acc.unmappedLine (0x1000 + core) a.1).emit (.accessFault core)
      | none =>
        if up then acc.emit (.portStatus 0 (leBytes 8 1))
        else (acc.unmappedLine 0x1133 a.1).emit (.portStatus 2 (leBytes 8 0)))
    { s with cluReads := s.cluReads.filter fun a => cluPort a.1 ≠ some e }

/-- Both bond ports are down: untrained, or in training (R344). -/
def State.bondsDown (s : State) (i : Nat) (training : Bool) : State :=
  (List.range 2).foldl
    (fun acc c =>
      let e := bondEnd i c
      let p := dieEnd i c
      let s1 := ({ acc with sendq := Map.erase (Map.erase acc.sendq e) p }.setLink e
        { LinkEnd.reset with training := training }).setLink p { LinkEnd.reset with training := training }
      if training then s1 else s1.answerClu e false) s

/-- Quarantine with a cause (R271, R272); a site already quarantined stays as it is. -/
def State.quarantine (s : State) (i cause : Nat) : State :=
  let x := s.site i
  if x.status = .quarantined then s
  else
    let s1 := (s.dropPackets i).setSite i
      { x with status := .quarantined, cause := BitVec.ofNat 2 cause, railOn := false, resetting := false, packetSeen := false }
    let s2 := s1.abandonSite i
    ((s2.bondsDown i false).noteSite i).record bSite 0x0208 i cause x.incarnation.toNat

/-! ### Site reset (R276) -/

/-- An engine after site reset: weight banks and accumulators at their cold-reset values (R94), no operation left. -/
def State.resetEngineOfSite (s : State) (e : Nat) : State := s.setEngine e .reset

/-- Cold-reset values of a block's fields; ENABLE clears (R276, R483). Counters and holding registers stay. -/
def State.resetBlock (s : State) (n : Nat) : State :=
  let b := s.blk n
  let s1 := { s with regs := s.regs.filter fun e => e.1 / 65536 ≠ n }
  s1.setBlk n { Blk.reset with snapId := b.snapId, snapTurn := b.snapTurn }

/-- A bank after site reset: unconfigured and filled with zeros. -/
def State.resetBanks (s : State) (n : Nat) : State := { s with banks := s.banks.filter fun e => e.1 / 256 ≠ n }

/-- The storage key lies in a scratchpad of the site. -/
def inSite (i key : Nat) : Bool := decide (scratchKey (8 * i) 0 ≤ key) && decide (key < scratchKey (8 * i + 8) 0)

/-- Upsets of a site's words: its scratchpads, its accumulators, its data caches. -/
def upsetOfSite (i w : Nat) : Bool :=
  if 2 ^ 62 ≤ w then false
  else if 2 ^ 61 ≤ w then (w - 2 ^ 61) / 8 % 512 / 8 == i
  else if 2 ^ 60 ≤ w then (w - 2 ^ 60) / 16384 / 32 == i
  else inSite i (16 * w)

/-- Everything within the site takes its cold-reset value; repair and pin records are reapplied (R276, R296). -/
def State.resetSite (s : State) (i : Nat) : State :=
  let s1 := (siteBlocks i).foldl State.resetBlock s
  let s2 := (List.range 32).foldl (fun acc e => acc.resetEngineOfSite (32 * i + e)) s1
  let s3 := (siteCores i).foldl (fun acc c => ((acc.setCore c .reset).dropHeld (acc.pricedCore c)).resetBanks (bBankCore c)) s2
  let s4 :=
    { s3 with
      mem := s3.mem.filter fun c => !inSite i c.1
      poison := s3.poison.filter fun w => !inSite i (16 * w), upsets := s3.upsets.filter fun e => !upsetOfSite i e.1
      testers := s3.testers.filter fun e => !((siteCores i).map bBankCore).contains e.1
      allots := s3.allots.filter fun e => !(siteCores i).contains e.1 }
  s4.reapplyRepairs fun r => recordSite r == some i

/-- Write the repair area anew: the records that stay, then others (R296). -/
def State.rewriteRepairs (s : State) (stay : Nat → Bool) (new : List (List Byte)) : State :=
  let kept := (s.repairRecords.filter stay).map (leBytes 8)
  { s with flash := s.flash.filter fun e => !(decide (repairArea ≤ e.1) && decide (e.1 < repairArea + 0x100000)) }.flashWrite
    repairArea (kept ++ new).flatten

/-- A site answers to no logical die any more (R275). -/
def State.unmapSite (s : State) (i : Nat) : State := { s with dieMap := s.dieMap.filter fun e => e.2 ≠ i }

/-! ### Commands -/

/-- QUARANTINE (R271, R272): the runtime's, with cause 0. -/
def execQuarantine (site : SiteIx) (s : State) : Host.Outcome State Fault Refusal :=
  .next ({ s with siteIgnored := false }.quarantine site 0)

/-- RELEASE (R274): a site reset, in which both bond ports train, then the self test. While the rails that a power-loss
warning removed stay off, there is none to power the die (R499): the command is ignored (log entry 93). -/
def execRelease (site : SiteIx) (s : State) : Host.Outcome State Fault Refusal :=
  let x := s.site site
  if x.status = .quarantined ∧ x.readmits < 3 ∧ s.power.hbmRails = true then
    let s1 := { s with siteIgnored := false }.setSite site { x with status := .testing, railOn := true, resetting := false }
    .next (((s1.resetSite site).bondsDown site true).noteSite site)
  else .next { s with siteIgnored := true }

/-- The records that a self test writes for a site (R296). -/
def selfTestRecords (r : SelfTest) (site : Nat) : List (List Byte) :=
  r.repairs.map (fun x => repairRecord 1 site x.1 x.2.1 x.2.2.1 x.2.2.2)
    ++ r.pins.map fun x => repairRecord 3 site x.1 x.2.1 x.2.2.1 x.2.2.2

/-- The self test has rewritten the site's repair and pin records, which its banks take (R296). -/
def State.retestBanks (s : State) (site : Nat) (r : SelfTest) : State :=
  let s1 := s.rewriteRepairs (fun x => recordSite x != some site) (selfTestRecords r site)
  let s2 := (siteCores site).foldl (fun acc c => acc.resetBanks (bBankCore c)) s1
  s2.reapplyRepairs fun x => recordSite x == some site

/-- READMISSION_TEST_DONE (R274, R275, R296, R357): a readmitted die takes up no logical die until a substitution names it; a
die below the floor fails, and the attempt counts. -/
def execReadmissionTestDone (site : SiteIx) (result : SelfTest) (s : State) : Host.Outcome State Fault Refusal :=
  let x := s.site site
  if x.status ≠ .testing then .next s
  else
    let s1 := s.retestBanks site result
    if s.level site < s.floor then
      .next (((s1.setSite site { x with status := .quarantined, railOn := false, readmits := x.readmits + 1 }).bondsDown site
        false).noteSite site)
    else if result.passed then
      let s2 := s1.setSite site
        { x with status := .spare, incarnation := x.incarnation + 1, readmits := x.readmits + 1, packetSeen := false }
      .next ((s2.unmapSite site).noteSite site)
    else .next (((s1.setSite site { x with status := .quarantined, railOn := false }).bondsDown site false).noteSite site)

/-- SITE_RESET (R276): accepted in Service and Spare. -/
def execSiteReset (site : SiteIx) (s : State) : Host.Outcome State Fault Refusal :=
  let x := s.site site
  if x.status = .service ∨ x.status = .spare then
    let s1 := ({ s with siteIgnored := false }.setSite site { x with resetting := true }).abandonSite site
    .next ((s1.resetSite site).bondsDown site true)
  else .next { s with siteIgnored := true }

/-- A bond port of a site has trained. -/
def State.bondUp (s : State) (i cluster : Nat) : Bool := (s.link (bondEnd i cluster)).up

/-- QUARANTINED_PACKET (R273). -/
def execQuarantinedPacket (site : SiteIx) (trafficClass : BitVec 3) (s : State) : Host.Outcome State Fault Refusal :=
  let x := s.site site
  if x.status = .quarantined then
    let s1 := s.count bSite 0x140 1
    if x.packetSeen then .next s1
    else .next ((s1.setSite site { x with packetSeen := true }).record bSite 0x0209 site trafficClass.toNat 0)
  else .next s

end Sys2Proof.Machine
end

