-- ==== Sys2Proof/Machine/Links.lean ====
section
/-! DEFINITION. Panel links and bond ports: frames, replay, training, disagreement, degradation and rerouting
(R343 to R353, R358, R361 to R364). -/

namespace Sys2Proof.Machine

def isRing (e : Nat) : Bool := decide (e < 12) && e % 3 != 2

/-! ### Sequence numbers modulo 4,096 (R347) -/

/-- a is at or before b on the circle of sequence numbers. -/
def seqLe (a b modulus : Nat) : Bool := decide ((b + modulus - a % modulus) % modulus < modulus / 2)

/-- Frames left in a replay buffer after an acknowledgement. -/
def unacked (l : List TxFrame) (ack modulus : Nat) : List TxFrame := l.filter fun f => !seqLe f.seq ack modulus

/-- An acknowledgement frees frames of the replay buffer. -/
def State.linkAck (s : State) (e ack : Nat) : State :=
  let x := s.link e
  let rest := unacked x.replay ack 4096
  if rest.length = x.replay.length then s else s.setLink e { x with replay := rest, replayRun := 0 }

/-- A link reset of one end retrains its lanes and keeps its counters, buffers and credits (R347, R348). -/
def State.linkReset (s : State) (e : Nat) : State :=
  let x := s.link e
  (s.setLink e { x with up := false, training := true, epoch := x.epoch + 1, replayRun := 0, failRun := 0 }).linkCount e lkRetrains 1

/-- A bond port has reached the retry limit (R345, R358): it retrains in place at level 3 of die and tile, else its site is
quarantined with cause 1. -/
def State.retryLimit (s : State) (e : Nat) : State :=
  let site := bondSite e
  let t := tileOfSite site
  if 3 ≤ s.level site ∧ 3 ≤ s.level (52 + t) then (s.linkReset e).linkReset (peerEnd e)
  else (s.record (bBond t) 0x021C ((e - 16) % 104 - 26 * t) 0 0).quarantine site 1

/-- Replay from the oldest unacknowledged frame (R348): counted, with the run of replays of one SEQ; the eighth in a row
resets the link. -/
def State.linkReplay (s : State) (e : Nat) : State :=
  let x := s.link e
  match x.replay with
  | [] => s
  | f :: _ =>
    if !x.open then s
    else
      let run := if x.replaySeq = f.seq ∧ x.replayRun ≠ 0 then x.replayRun + 1 else 1
      let s1 := s.setLink e { x with replaySeq := f.seq, replayRun := run }
      let s2 := (s1.linkCount e lkReplays x.replay.length).linkCount e lkSent x.replay.length
      let s3 := x.replay.foldl (fun acc g => acc.sendPanel e kData g.vc g.seq false g.words) s2
      if run < 8 then s3 else if e < 16 then s3.linkReset e else s3.retryLimit e

/-- An end that has trained carries frames again: what is unacknowledged first, then what waits (R348, R350). -/
def State.linkResume (s : State) (e : Nat) : State := (s.linkReplay e).pumpLink e

/-! ### Degraded links and paths (R351 to R353) -/

/-- Tiles to which the table leaves no path: none to the hub, over their own hub link or a neighbour's; a pair of tiles
without a path has such a tile (R352). -/
def State.cutOff (s : State) : List Nat := (List.range 4).filter fun t => (toHub s.sound t).isNone

/-- A fatal error for the first tile cut off that was not among these before (R352). -/
def State.cutFatal (s : State) (before : List Nat) : State :=
  match s.cutOff.filter fun t => !(before.contains t) with
  | t :: _ => s.fatalError (bPlink (3 * t + 2)) 0x0303 t 0 0
  | [] => s

/-- A packet at an end's die takes the way that is now its own, ahead of the packets that wait there or behind them. -/
def State.redirect (s : State) (e : Nat) (ahead : Bool) (p : LinkPkt) : State :=
  match s.nextEnd (endDie e) p.dst with
  | some q => if ahead then s.queueFirst q p else s.queueAt q p
  | none => s

/-- Packets go into the new path in order, ahead of every packet not yet sent there, and those that waited at the degraded
end follow (R353). -/
def State.inject (s : State) (e : Nat) (pkts : List LinkPkt) : State :=
  let waiting := Map.get s.sendq e []
  let s1 := pkts.foldr (fun p acc => acc.redirect e true p) { s with sendq := Map.erase s.sendq e }
  let s2 := waiting.foldl (fun acc p => acc.redirect e false p) s1
  ((pkts ++ waiting).filterMap fun p => s1.nextEnd (endDie e) p.dst).foldl State.pumpLink s2

/-- A rerouting end asks the opposite end over the sideband; one with nothing unacknowledged reroutes at once (R353). -/
def State.askReroute (s : State) (e : Nat) : State :=
  if (s.link e).rerouting then s.emit (.sidebandRequest e) else s.inject e []

/-- One end's part of a degradation. -/
def State.degradeEnd (s : State) (e : Nat) : State :=
  let x := s.link e
  let s1 := s.setLink e
    { x with degraded := true, up := false, training := false, hold := false, rerouting := x.replay != [] }
  s1.record (bPlink e) 0x0206 e x.disagree.length 0

/-- A link becomes degraded at both its ends; a tile without a path is a fatal error (R351, R352). -/
def State.degrade (s : State) (e : Nat) : State :=
  ((((s.degradeEnd e).degradeEnd (peerEnd e)).askReroute e).askReroute (peerEnd e)).cutFatal s.cutOff

/-! ### Widths and disagreement (R349, R350) -/

/-- Disagreements within the window, with one more now; in turns elapsed. -/
def noteDisagree (l : List Nat) (now window : Nat) : List Nat := now :: l.filter fun t => decide (now < t + window)

/-- The ends disagree on the width (R350, R351): both are held and retrain at once, or the link is degraded. -/
def State.linkDisagree (s : State) (e : Nat) : State :=
  let x := s.link e
  let blk := bPlink e
  let l := noteDisagree x.disagree s.turns.elapsed (s.fld blk 0x100 16 16)
  let s1 := ((s.setLink e { x with disagree := l, hold := true }).linkCount e lkDisagree 1).sendHold e
  if max 1 (s.fld blk 0x100 8 8) ≤ l.length then s1.degrade e
  else
    let p := peerEnd e
    let s2 := s1.setLink p { s1.link p with hold := true }
    (s2.linkReset e).linkReset p

/-- The width of an accepted frame or of a report (R350). -/
def State.seeWidth (s : State) (e width : Nat) : State :=
  let x := s.link e
  let s1 := s.setLink e { x with peerWidth := width }
  if e < 16 ∧ x.up ∧ width ≠ x.width then s1.linkDisagree e else s1

/-- Feature level of the die an end lies on. -/
def State.endLevel (s : State) (e : Nat) : Nat := s.level (if endDie e = 4 then 56 else 52 + endDie e)

/-- The widest width an end can advertise: 0 full, 1 half, 2 quarter (R346, R349, R350, R358). -/
def State.advertise (s : State) (e : Nat) (groups : BitVec 8) : Option Nat :=
  let full := if isRing e then 8 else 4
  let n := ((List.range full).filter fun g => groups.getLsbD g).length
  let x := s.link e
  let least := max (s.fld (bPlink e) 0x100 0 2) (if x.hold then max x.width x.peerWidth else 0)
  let last := if 2 ≤ s.endLevel e ∧ 2 ≤ s.endLevel (peerEnd e) then 2 else 1
  (List.range 3).find? fun w => decide (least ≤ w) && decide (w ≤ last) && decide (full / 2 ^ w ≤ n)

/-- Lane groups that two spare lanes each make usable (R349). -/
def usableGroups (e : Nat) (failing : List Nat) : BitVec 8 :=
  BitVec.ofNat 8 ((List.range (if isRing e then 8 else 4)).foldl (fun n g => if failing.getD g 0 ≤ 2 then n + 2 ^ g else n) 0)

/-- Outcome of a training attempt of one end (R349): the trained width, reported over the sideband, or a failure; the third
in a row degrades. -/
def State.trainEnd (s : State) (e : Nat) (failing : List Nat) (peer : Option Nat) : State :=
  let groups := usableGroups e failing
  let x : LinkEnd := { s.link e with groupsOk := groups }
  match s.advertise e groups, peer with
  | some a, some b =>
    (((s.setLink e { x with up := true, training := false, hold := false, width := max a b, failRun := 0 }).reportWidth e).linkResume e)
  | _, _ =>
    let s1 := s.setLink e { x with failRun := x.failRun + 1 }
    if 3 ≤ x.failRun + 1 then s1.degrade e else s1

/-! ### Commands: bond ports (R344, R345) -/

/-- A port has trained, with spares in place of its failing bonds (R344): both its ends carry frames. -/
def State.bondTrained (s : State) (e failingOut failingIn : Nat) : State :=
  let p := peerEnd e
  let s1 := s.setLink e { s.link e with up := true, training := false, sparesOut := failingOut, sparesIn := failingIn }
  let s2 := s1.setLink p { s1.link p with up := true, training := false }
  ((s2.answerClu e true).linkResume e).linkResume p

/-- The training of a port ends: up to 128 failing bonds in each direction are replaced by spares, more quarantine the
site (R344). -/
def State.trainBond (s : State) (site cluster failingOut failingIn : Nat) : State :=
  let x := s.site site
  let e := bondEnd site cluster
  if x.status = .quarantined ∨ x.railOn = false ∨ (s.link e).up = true then s
  else if 128 < failingOut ∨ 128 < failingIn then s.quarantine site 1
  else s.bondTrained e failingOut failingIn

/-- BOND_TRAINING (R344). -/
def execBondTraining (site : SiteIx) (cluster : Fin 2) (failingOut failingIn : Nat) (s : State) :
    Host.Outcome State Fault Refusal := .next (s.trainBond site cluster failingOut failingIn)

/-- SITE_RESET_DONE (R276): both bond ports are retrained, those that have not been already; one that fails quarantines the
site. -/
def execSiteResetDone (site : SiteIx) (bonds : List (Nat × Nat)) (s : State) : Host.Outcome State Fault Refusal :=
  if (s.site site).resetting then
    let port (acc : State) (k : Nat) : State := acc.trainBond site k (bonds.getD k (0, 0)).1 (bonds.getD k (0, 0)).2
    let s1 := port (port s 0) 1
    .next (s1.setSite site { s1.site site with resetting := false })
  else .next s

/-- BOND_RETRY_LIMIT (R345, R358): the die's end, or the tile's, has replayed one SEQ eight times in a row; the outcome of
retraining in place comes with it, or as BOND_TRAINING. -/
def execBondRetryLimit (site : SiteIx) (cluster : Fin 2) (retrained : Option (Nat × Nat)) (s : State) :
    Host.Outcome State Fault Refusal :=
  let e := bondEnd site cluster
  if (s.site site).status ≠ .quarantined ∧ (s.link e).up then
    let s1 := s.retryLimit e
    match retrained with
    | some r => .next (s1.trainBond site cluster r.1 r.2)
    | none => .next s1
  else .next s

/-! ### Commands: frames (R347, R348) -/

/-- A frame is discarded and answered with NAK. -/
def State.linkDiscard (s : State) (e : Nat) : State := s.sendIdle e true

/-- What every accepted frame's control field does: acknowledgement, credits, width, then NAK (R347, R348, R350). -/
def State.linkControl (s : State) (e c : Nat) : State :=
  let s1 := s.linkAck e (bitsOf c 12 12)
  let x := s1.link e
  let s2 := s1.setLink e { x with credits := (List.range 4).map fun v => x.credits.getD v 0 + bitsOf c (32 + 8 * v) 8 }
  let s3 := if bitOf c 24 then s2.linkReplay e else s2
  ((s3.seeWidth e (bitsOf c 25 2)).pumpLink e).linkInform e

/-- A hold frame stops data frames and retrains (R350). -/
def State.linkHeld (s : State) (e : Nat) : State :=
  let x := s.link e
  if x.hold then s else (s.setLink e { x with hold := true }).linkReset e

/-- A packet that a link end has accepted goes on: from the end of a tile or the hub to the next end of its way. At the die's
end of a bond port it has arrived (R171; log entry 86). -/
def State.forward (s : State) (e : Nat) (p : LinkPkt) : State := if 120 ≤ e then s else s.redirect e false p

/-- The packet that a data frame carries, as its sender keeps it for replay. -/
def State.arriving (s : State) (e seq : Nat) : Option LinkPkt :=
  ((s.link (peerEnd e)).replay.find? fun f => f.seq = seq).bind (·.pkt)

/-- PANEL_FRAME_RECEIVE (R347, R348, R350). An accepted frame is consumed at once, and its buffer is free (log entry 86). -/
def execPanelFrameReceive (fend : FrameEnd) (control : BitVec 128) (data : List CodeWord) (s : State) :
    Host.Outcome State Fault Refusal :=
  let e := fend.val
  let x := s.link e
  let c := control.toNat
  if data.length ≠ frameWords e then .fault .illFormed
  else if !x.up || x.degraded then .next s
  else if crc32 (frameBytes data (bitsOf c 0 96)) ≠ bitsOf c 96 32 then .next ((s.linkCount e lkCrc 1).linkDiscard e)
  else
    match bitsOf c 27 2 with
    | 0 =>
      if bitsOf c 0 12 ≠ x.expSeq then .next (s.linkDiscard e)
      else
        let s1 := (s.setLink e
          { x with expSeq := (x.expSeq + 1) % 4096, freed := bump x.freed (bitsOf c 29 2) 1 }).linkCount e lkAccepted 1
        let s2 := match s.arriving e (bitsOf c 0 12) with
          | some p => s1.forward e p
          | none => s1
        .next (s2.linkControl e c)
    | 1 => .next (s.linkControl e c)
    | 2 => .next ((s.linkControl e c).linkHeld e)
    | _ => .next s

/-- PANEL_NAK (R348). -/
def execPanelNak (fend : FrameEnd) (ack : BitVec 12) (s : State) : Host.Outcome State Fault Refusal :=
  .next ((s.linkAck fend ack.toNat).linkReplay fend)

/-- PANEL_ACK_TIMEOUT (R348). -/
def execPanelAckTimeout (fend : FrameEnd) (s : State) : Host.Outcome State Fault Refusal := .next (s.linkReplay fend)

/-- PANEL_LINK_RESET (R348): the eighth replay of one SEQ in a row; a bond port's case is BOND_RETRY_LIMIT. -/
def execPanelLinkReset (fend : FrameEnd) (s : State) : Host.Outcome State Fault Refusal :=
  if (s.link fend).up ∧ fend.val < 16 then .next (s.linkReset fend) else .next s

/-! ### Commands: training and recovery (R349 to R353, R361) -/

/-- PANEL_TRAINING_ATTEMPT (R349). -/
def execPanelTrainingAttempt (fend : PlinkEnd) (failing : List Nat) (peerWidth : Option (Fin 3)) (s : State) :
    Host.Outcome State Fault Refusal :=
  if (s.link fend).training then .next (s.trainEnd fend failing (peerWidth.map fun w => w.val)) else .next s

/-- WIDTH_REPORT (R350). -/
def execWidthReport (fend : PlinkEnd) (width : Fin 3) (s : State) : Host.Outcome State Fault Refusal :=
  .next (s.seeWidth fend width)

/-- The end reroutes: these frames of its replay buffer are injected, and it holds none (R353). -/
def State.endReroute (s : State) (e : Nat) (injected : List TxFrame) : State :=
  (s.setLink e { s.link e with rerouting := false, replay := [] }).inject e (injected.filterMap (·.pkt))

/-- SIDEBAND_ANSWER (R353): every frame after the last accepted one goes into the new path, in SEQ order. -/
def execSidebandAnswer (fend : PlinkEnd) (lastAccepted : BitVec 12) (s : State) : Host.Outcome State Fault Refusal :=
  let x := s.link fend
  if x.rerouting then
    let later := unacked x.replay lastAccepted.toNat 4096
    .next ((s.linkCount fend lkRerouted later.length).endReroute fend later)
  else .next s

/-- Every request that lost frames carried receives an error response (R353; log entry 86). -/
def State.answerLost (s : State) (lost : List TxFrame) : State :=
  (lost.filterMap fun f => f.pkt.bind (·.req)).foldl (fun acc r => acc.emit (.errorResponse r.1 r.2)) s

/-- SIDEBAND_TIMEOUT (R353): the unacknowledged frames are lost. -/
def execSidebandTimeout (fend : PlinkEnd) (s : State) : Host.Outcome State Fault Refusal :=
  let x := s.link fend
  if x.rerouting then
    let s1 := (s.linkCount fend lkLost x.replay.length).record (bPlink fend) 0x0207 fend x.replay.length 0
    .next ((s1.answerLost x.replay).endReroute fend [])
  else .next s

/-- PLINK_RETRAIN (R361): a link reset of both ends; a degraded link stays as it is. -/
def execPlinkRetrain (fend : PlinkEnd) (s : State) : Host.Outcome State Fault Refusal :=
  if (s.link fend).degraded then .next s else .next ((s.linkReset fend).linkReset (peerEnd fend))

/-- The mesh block at an end is disabled; the hub has none. -/
def State.meshOff (s : State) (e : Nat) : Bool := endDie e == 4 || s.isDisabled (bMesh (endDie e))

/-- PLINK_RESTORE (R351). -/
def execPlinkRestore (fend : PlinkEnd) (s : State) : Host.Outcome State Fault Refusal :=
  let e := fend.val
  let p := peerEnd e
  if (s.link e).degraded && s.meshOff e && s.meshOff p then
    let clear (st : State) (k : Nat) : State :=
      (st.setLink k { st.link k with degraded := false, ignored := false, disagree := [], hold := false }).linkReset k
    .next (clear (clear s e) p)
  else .next (s.setLink e { s.link e with ignored := true })

end Sys2Proof.Machine
end

