-- ==== Sys2Proof/Machine/Ladder.lean ====
section
/-! DEFINITION. Ladder ports: training, frames, replay, credits, marks, the side channel and partner violations
(R365 to R374, R391 to R393). -/

namespace Sys2Proof.Machine

/-! ### Violations (R374) -/

/-- A partner violation, by its row of R374: counted, and the first of each kind since enable recorded. -/
def State.violation (s : State) (p row : Nat) : State := (s.count (bLad p) 0x1E0 1).recordOnce (bLad p) 0x0214 row p row 0

/-! ### Frames (R367, R368) -/

/-- Bytes that the CRC covers: control bits [95:0], then every following word with its check bits (R368). -/
def ladderCrcBytes (control : Nat) (ws : List CodeWord) : List Byte :=
  leBytes 12 control ++ ws.flatMap fun w => leBytes 16 w.data.toNat ++ leBytes 2 w.check.toNat

/-- Frame kinds of a ladder port (R368). -/
def ladData : Nat := 0
def ladIdle : Nat := 1
def ladMark : Nat := 2
def ladHold : Nat := 3

/-- Bits [95:0] of a control word (R368). -/
def ladderControlBits (x : Ladder) (kind vc seq : Nat) (nak : Bool) : Nat :=
  seq + lastOf x.expSeq 65536 * 2 ^ 16 + (if nak then 2 ^ 32 else 0) + kind * 2 ^ 33 + vc * 2 ^ 35 + (if x.half then 2 ^ 36 else 0)
    + x.free0 * 2 ^ 40 + x.free1 * 2 ^ 50 + x.epoch.toNat * 2 ^ 56

/-- The control word, with its CRC and the check bits that the port computes. -/
def ladderWord (c : Nat) (ws : List CodeWord) : CodeWord :=
  let d : BitVec 128 := BitVec.ofNat 128 (c + crc32 (ladderCrcBytes c ws) * 2 ^ 96)
  { data := d, check := nibbleEncode d }

/-- Bytes of a frame on the line: each word, then its check bits (R367). -/
def lineBytes (frame : List CodeWord) : List Byte := frame.flatMap fun w => leBytes 16 w.data.toNat ++ leBytes 2 w.check.toNat

/-- The bytes of each of w lanes: byte i travels on lane i mod w (R367). -/
def laneBytes (w : Nat) (bs : List Byte) : List (List Byte) :=
  (List.range w).map fun k => (List.range (ceilDiv (bs.length - k) w)).map fun i => bs.getD (w * i + k) 0

/-- Lanes in use at a trained width (R366). -/
def Ladder.lanes (x : Ladder) : Nat := if x.half then 4 else 8

/-- A frame leaves a port, with the port's acknowledgement and freed credits (R368). -/
def State.sendLadder (s : State) (p kind vc seq : Nat) (nak : Bool) (ws : List CodeWord) : State :=
  let x := s.ladder p
  let frame := ladderWord (ladderControlBits x kind vc seq nak) ws :: ws
  (s.setLadder p { x with free0 := 0, free1 := 0, ackTold := lastOf x.expSeq 65536 }).emit
    (.ladderFrame p frame (laneBytes x.lanes (lineBytes frame)))

/-- The one word of a frame that carries no data. -/
def emptyWord : CodeWord := { data := 0, check := 0 }

/-- An idle frame, or a hold frame. -/
def State.ladderIdle (s : State) (p : Nat) (nak : Bool) : State := s.sendLadder p ladIdle 0 0 nak [emptyWord]
def State.ladderHold (s : State) (p : Nat) : State := s.sendLadder p ladHold 0 0 false [emptyWord]

/-- A port with an acknowledgement or credits to report sends an idle frame. -/
def State.ladderInform (s : State) (p : Nat) : State :=
  let x := s.ladder p
  if x.up && !x.down && (x.ackTold != lastOf x.expSeq 65536 || x.free0 != 0 || x.free1 != 0) then s.ladderIdle p false else s

/-! ### Sending (R369 to R371) -/

/-- Send one data frame against a credit, and keep it for replay. -/
def State.sendFrame (s : State) (p vc : Nat) (ws : List CodeWord) : State :=
  let x := s.ladder p
  let f : TxFrame := { seq := x.nextSeq, vc := vc, words := ws, pkt := none }
  let s1 := s.setLadder p
    { x with
      nextSeq := (x.nextSeq + 1) % 65536, sent := x.sent + 1, replay := x.replay ++ [f]
      cred0 := if vc = 0 then x.cred0 - 1 else x.cred0, cred1 := if vc = 1 then x.cred1 - 1 else x.cred1 }
  (s1.count (bLad p) 0x1B0 1).sendLadder p ladData vc f.seq false ws

/-- A message's words in frames of 128, the last filled with pad words (R371). -/
def framesOf (ws : List CodeWord) : List (List CodeWord) :=
  (List.range (ceilDiv ws.length 128)).map fun i =>
    let part := (ws.drop (128 * i)).take 128
    part ++ List.replicate (128 - part.length) emptyWord

/-- The port carries data frames. -/
def Ladder.carries (x : Ladder) : Bool := x.up && !x.hold && !x.down

/-- Send what waits, as far as credits and the replay buffer of 512 go: a turn mark goes ahead of every data frame (R372),
then the side channel, then VC 0 messages while no partner mismatch stands (R370, R373). -/
def State.pump : Nat → State → Nat → State
  | 0, s, _ => s
  | n + 1, s, p =>
    let x := s.ladder p
    if !x.carries || x.markDue != [] || decide (512 ≤ x.replay.length) then s
    else
      match x.out1 with
      | m :: rest =>
        if x.cred1 = 0 then s
        else State.pump n ((s.setLadder p { x with out1 := rest }).sendFrame p 1 m) p
      | [] =>
        match x.out0 with
        | m :: rest =>
          if x.mismatch || decide (x.cred0 = 0) then s
          else
            match framesOf m with
            | [] => State.pump n (s.setLadder p { x with out0 := rest }) p
            | f :: _ =>
              let left := m.drop 128
              State.pump n ((s.setLadder p { x with out0 := if left = [] then rest else left :: rest }).sendFrame p 0 f) p
        | [] => s

/-- Everything that can leave the port leaves it. -/
def State.pumpPort (s : State) (p : Nat) : State := State.pump 1024 s p

/-! ### Replay and link reset (R369) -/

/-- A link reset keeps buffers, counters and credits, retrains the lanes and adds one to EPOCH. -/
def State.ladderReset (s : State) (p : Nat) : State :=
  let x := s.ladder p
  if x.down then s
  else
    (s.setLadder p { x with up := false, training := true, epoch := x.epoch + 1, replayRun := 0, failRun := 0, badAcks := 0 }).count
      (bLad p) 0x1D8 1

/-- The word that carries a mark. -/
def markWord (m : Word64 × Nat × W32) : CodeWord :=
  codeWord (leBytes 16 (m.1.toNat + m.2.1 % 16 * 2 ^ 64 + m.2.2.toNat * 2 ^ 96))

/-- Marks that wait leave, each in a frame of its own (R372). -/
def State.flushMarks (s : State) (p : Nat) : State :=
  (s.ladder p).markDue.foldl (fun acc m => (acc.count (bLad p) 0x1E8 1).sendLadder p ladMark 0 0 false [markWord m])
    (s.setLadder p { s.ladder p with markDue := [] })

/-- Replay from the oldest unacknowledged frame, behind a mark that waits (R372); eight replays of one SEQ in a row reset the link. -/
def State.ladderReplay (s : State) (p : Nat) : State :=
  let x := s.ladder p
  match x.replay with
  | [] => s
  | f :: _ =>
    if !x.carries then s
    else
      let run := if x.replaySeq = f.seq ∧ x.replayRun ≠ 0 then x.replayRun + 1 else 1
      let s1 := s.setLadder p { x with replaySeq := f.seq, replayRun := run }
      let s2 := (s1.count (bLad p) 0x1D0 x.replay.length).count (bLad p) 0x1B0 x.replay.length
      let s3 := x.replay.foldl (fun acc g => acc.sendLadder p ladData g.vc g.seq false g.words) (s2.flushMarks p)
      if 8 ≤ run then s3.ladderReset p else s3

/-- The port goes DOWN (R366). -/
def State.ladderDown (s : State) (p : Nat) : State :=
  let x := s.ladder p
  (s.setLadder p { x with down := true, up := false, training := false, hold := false }).record (bLad p) 0x0213 p 0 0

/-- The ends disagree on the width: the port sends a hold frame, and both ends retrain (R350, R366). -/
def State.ladderDisagree (s : State) (p : Nat) : State :=
  let x := s.ladder p
  let l := noteDisagree x.disagree s.turns.elapsed (s.fld (bLad p) 0x100 16 16)
  let s1 := (s.setLadder p { x with disagree := l, hold := true }).ladderHold p
  if max 1 (s.fld (bLad p) 0x100 8 8) ≤ l.length then s1.ladderDown p else s1.ladderReset p

/-! ### The side channel (R373) -/

/-- A side-channel message as its four words. -/
def scWords (ty len : Nat) (payload : List Byte) : List CodeWord :=
  wordsOfBytes (fitBytes (leBytes 1 ty ++ leBytes 1 len ++ List.replicate 14 0 ++ fitBytes payload 48) 64)

/-- One message in a frame of its own, the rest pad words. -/
def scFrame (ws : List CodeWord) : List CodeWord := ws ++ List.replicate (128 - ws.length) emptyWord

/-- The identity message of a port. -/
def State.identity (s : State) (p : Nat) : List CodeWord :=
  scWords 1 24 (leBytes 8 s.security.serial.toNat ++ leBytes 1 p ++ leBytes 1 s.floor ++ List.replicate 6 0
    ++ leBytes 8 (s.reg (bLad p) 0x108).toNat)

/-- A message joins the transmit queue of VC 1. -/
def State.scQueue (s : State) (p : Nat) (ws : List CodeWord) : State :=
  let x := s.ladder p
  (s.setLadder p { x with out1 := x.out1 ++ [scFrame ws] }).pumpPort p

/-- PARTNER_MISMATCH is set and recorded (R373). -/
def State.partnerMismatch (s : State) (p row : Nat) : State :=
  let x := s.ladder p
  let s1 := s.violation p row
  if x.mismatch then s1
  else (s1.setLadder p { s1.ladder p with mismatch := true }).record (bLad p) 0x0215 p 0 x.peerChain.toNat

/-- An identity message: kept in LAD_PEER, its CHAIN_ID compared (R373, R374). -/
def State.takeIdentity (s : State) (p : Nat) (m : List Byte) : State :=
  let b := m.drop 16
  let x := s.ladder p
  if fieldLe m 1 1 ≠ 24 then s.partnerMismatch p 10
  else
    let chain : Word64 := BitVec.ofNat 64 (fieldLe b 16 8)
    let s1 := s.setLadder p
      { x with
        peerSerial := BitVec.ofNat 64 (fieldLe b 0 8), peerPort := BitVec.ofNat 3 (fieldLe b 8 1)
        peerFloor := BitVec.ofNat 8 (fieldLe b 9 1), peerChain := chain }
    if chain = s.reg (bLad p) 0x108 then s1.setLadder p { s1.ladder p with mismatch := false } else s1.partnerMismatch p 10

/-- The message of a VC 1 frame: its first four words (R373; log entry 88). -/
def scMessage (ws : List CodeWord) : List Byte := (ws.take 4).flatMap fun w => leBytes 16 w.data.toNat

/-- The oldest VC 1 frame has been consumed; its buffer is free. -/
def State.scConsumed (s : State) (p : Nat) : State :=
  let x := s.ladder p
  s.setLadder p { x with rx1 := x.rx1.drop 1, free1 := x.free1 + 1 }

/-- SIDE_CHANNEL_MESSAGE (R373, R374): the message of the oldest VC 1 frame that waits; while the FIFO of 16 is full, runtime
messages stay in the port's buffers and their credits are not returned. -/
def execSideChannelMessage (port : PortIx) (message : ScMessage) (s : State) : Host.Outcome State Fault Refusal :=
  let p := port.val
  let x := s.ladder p
  let ty := fieldLe message 0 1
  let len := fieldLe message 1 1
  if message.length ≠ 64 then .fault .illFormed
  else if x.rx1.head?.map scMessage ≠ some message then .next s
  else if ty = 1 then .next (((s.scConsumed p).takeIdentity p message).ladderInform p)
  else if ty ≠ 2 ∨ 48 < len then .next (((s.scConsumed p).violation p 11).ladderInform p)
  else if 16 ≤ x.scRx.length then .next s
  else .next (((s.scConsumed p).setLadder p { (s.scConsumed p).ladder p with scRx := x.scRx ++ [message] }).ladderInform p)

/-- SC_SEND (R373): a staged LENGTH above 48 is a reserved value and sends nothing. -/
def execScSend (port : PortIx) (s : State) : Host.Outcome State Fault Refusal :=
  let p := port.val
  let len := s.fld (bLad p) 0x170 0 6
  if 48 < len then .next s
  else
    let payload := (List.range 6).flatMap fun i => leBytes 8 (s.reg (bLad p) (0x140 + 8 * i)).toNat
    .next (s.scQueue p (scWords 2 len payload))

/-- SC_POP (R373). -/
def execScPop (port : PortIx) (s : State) : Host.Outcome State Fault Refusal :=
  let x := s.ladder port
  .next (s.setLadder port { x with scRx := x.scRx.drop 1 })

/-! ### Training (R366) -/

/-- Half width if a group of four passes, full if all pass; limited by MAX_WIDTH and, after a disagreement, by the
widths last seen. none where no width is available. -/
def State.ladderOffer (s : State) (p : Nat) (lanes : BitVec 8) : Option Bool :=
  let x := s.ladder p
  let half := s.fld (bLad p) 0x100 0 1 = 1 ∨ (x.hold = true ∧ (x.half || x.peerHalf) = true)
  let v := lanes.toNat
  if v = 255 ∧ ¬ half then some false else if v % 16 = 15 ∨ v / 16 = 15 then some true else none

/-- LADDER_TRAINING_ATTEMPT (R366, R373). -/
def execLadderTrainingAttempt (port : PortIx) (lanes : BitVec 8) (peerHalf : Option Bool) (hopPs : W32) (s : State) :
    Host.Outcome State Fault Refusal :=
  let p := port.val
  let x : Ladder := { s.ladder p with lanesOk := lanes }
  if !(s.ladder p).training then .next s
  else
    match s.ladderOffer p lanes, peerHalf with
    | some a, some b =>
      let s1 := s.setLadder p
        { x with up := true, training := false, hold := false, half := a || b, hopPs := hopPs, failRun := 0 }
      .next ((s1.ladderReplay p).scQueue p (s.identity p))
    | _, _ =>
      let s1 := s.setLadder p { x with failRun := x.failRun + 1 }
      .next (if 3 ≤ x.failRun + 1 then s1.ladderDown p else s1)

/-! ### Receiving frames (R368 to R370, R372, R374) -/

/-- Correct each word by the nibble code; uncorrectable words stay unchanged. The second part counts corrections. -/
def correctFrame (ws : List CodeWord) : List CodeWord × Nat :=
  ws.foldr
    (fun w acc =>
      match nibbleDecode w.data w.check with
      | .corrected d _ => ({ data := d, check := nibbleEncode d } :: acc.1, acc.2 + 1)
      | _ => (w :: acc.1, acc.2)) ([], 0)

/-- The receiver discards a frame and answers with NAK. -/
def State.ladderDiscard (s : State) (p row : Nat) : State :=
  (s.violation p row).ladderIdle p true

/-- The SEQ has been sent, or is the one before the first, which names none (R374). -/
def Ladder.hasSent (x : Ladder) (seq : Nat) : Bool :=
  seqLe seq (lastOf x.nextSeq 65536) 65536 && decide ((lastOf x.nextSeq 65536 + 65536 - seq) % 65536 ≤ x.sent)

/-- ACK of an accepted frame (R369, R374): one that names a SEQ never sent is ignored, the sixteenth in a row resets. -/
def State.ladderAck (s : State) (p ack : Nat) : State :=
  let x := s.ladder p
  if x.hasSent ack then
    let rest := unacked x.replay ack 65536
    s.setLadder p { x with badAcks := 0, replay := rest, replayRun := if rest.length = x.replay.length then x.replayRun else 0 }
  else
    let s1 := s.violation p 4
    let y := s1.ladder p
    if 16 ≤ x.badAcks + 1 then (s1.setLadder p { y with badAcks := 0 }).ladderReset p
    else s1.setLadder p { y with badAcks := x.badAcks + 1 }

/-- Credits of an accepted frame, clamped to the buffers of 512 and 32 (R370, R374). -/
def State.ladderCredit (s : State) (p c0 c1 : Nat) : State :=
  let x := s.ladder p
  let s1 := s.setLadder p { x with cred0 := min 512 (x.cred0 + c0), cred1 := min 32 (x.cred1 + c1) }
  if 512 < x.cred0 + c0 ∨ 32 < x.cred1 + c1 then s1.violation p 6 else s1

/-- NAK of an accepted frame (R369, R374). -/
def State.ladderNaked (s : State) (p : Nat) : State :=
  if (s.ladder p).replay = [] then s.violation p 5 else s.ladderReplay p

/-- The WIDTH bit of an accepted frame (R366, R374). -/
def State.ladderWidth (s : State) (p : Nat) (half : Bool) : State :=
  let x := s.ladder p
  let s1 := s.setLadder p { x with peerHalf := half }
  if x.up && half != x.half then (s1.violation p 7).ladderDisagree p else s1

/-- The control fields of an accepted frame. -/
def State.ladderControl (s : State) (p c : Nat) : State :=
  let s1 := (s.ladderAck p (bitsOf c 16 16)).ladderCredit p (bitsOf c 40 10) (bitsOf c 50 6)
  let s2 := if bitOf c 32 then s1.ladderNaked p else s1
  ((s2.ladderWidth p (bitOf c 36)).pumpPort p).ladderInform p

/-- A data frame is accepted into a buffer of its VC. -/
def State.ladderAccept (s : State) (p vc : Nat) (ws : List CodeWord) : State :=
  let x := s.ladder p
  let y := { x with expSeq := (x.expSeq + 1) % 65536 }
  (s.setLadder p
    (if vc = 0 then
       { y with rx0 := x.rx0 ++ [(x.nextBuf, ws)], bufs0 := Map.put x.bufs0 x.nextBuf ws.length 0, nextBuf := x.nextBuf + 1 }
     else { y with rx1 := x.rx1 ++ [ws] })).count (bLad p) 0x1B8 1

/-- Words of VC 0 buffers have been consumed: a buffer whose last word goes is free (R370). -/
def Ladder.consume (x : Ladder) : List (Nat × Nat) → Ladder
  | [] => x
  | (b, n) :: bs =>
    match Map.find x.bufs0 b with
    | none => x.consume bs
    | some left =>
      Ladder.consume
        (if left ≤ n then { x with bufs0 := Map.erase x.bufs0 b, free0 := x.free0 + 1 }
         else { x with bufs0 := Map.insert x.bufs0 b (left - n) }) bs

/-- Words of a port's VC 0 buffers have been consumed; credits that frees are reported. -/
def State.consumeWords (s : State) (p : Nat) (bs : List (Nat × Nat)) : State :=
  (s.setLadder p ((s.ladder p).consume bs)).ladderInform p

/-- A data frame with good CRC (R369, R370, R374). -/
def State.ladderData (s : State) (p c : Nat) (ws : List CodeWord) : State :=
  let x := s.ladder p
  let vc := bitsOf c 35 1
  if bitsOf c 0 16 ≠ x.expSeq then s.ladderDiscard p 1
  else if (if vc = 0 then 512 ≤ x.bufs0.length else 32 ≤ x.rx1.length) then s.violation p 3
  else (s.ladderAccept p vc ws).ladderControl p c

/-- The mark of a mark frame's word: TURN, LEAD_TURNS and ACC_DELAY_PS (R372). -/
def markOf (w : CodeWord) : Word64 × Nat × W32 :=
  let v := w.data.toNat
  (BitVec.ofNat 64 (bitsOf v 0 64), bitsOf v 64 4, BitVec.ofNat 32 (bitsOf v 96 32))

/-- An accepted mark waits for TURN_MARK, where marks are the turn reference; one on a port other than MARK_PORT is ignored
(R204, R206, R372, R374, R393). -/
def State.takeMark (s : State) (p : Nat) (body : List CodeWord) : State :=
  if s.turns.cfg.markPort = p then
    let s1 := s.count (bLad p) 0x1F0 1
    let x := s1.ladder p
    if s.turns.cfg.source = 1 then s1.setLadder p { x with markIn := x.markIn ++ body.map markOf } else s1
  else s.violation p 8

/-- LADDER_FRAME_RECEIVE (R366 to R370, R372, R374). A frame is a control word and 128 words, or one word for the kinds
that carry no data. What an accepted mark does is TURN_MARK. -/
def execLadderFrameReceive (port : PortIx) (frame : List CodeWord) (s : State) : Host.Outcome State Fault Refusal :=
  let p := port.val
  if frame.length ≠ 129 ∧ frame.length ≠ 2 then .fault .illFormed
  else if !(s.ladder p).up || (s.ladder p).down then .next s
  else
    let (ws, n) := correctFrame frame
    let s1 := if n = 0 then s else s.count (bLad p) 0x1C8 n
    let c := match ws with
      | w :: _ => w.data.toNat
      | [] => 0
    let body := ws.drop 1
    let kind := bitsOf c 33 2
    let shape : Bool := if kind = 0 then frame.length == 129 else frame.length == 2
    if crc32 (ladderCrcBytes (bitsOf c 0 96) body) ≠ bitsOf c 96 32 || !shape then
      .next ((s1.count (bLad p) 0x1C0 1).ladderDiscard p (if kind = 2 then 8 else 1))
    else if bitsOf c 37 3 ≠ 0 ∨ bitsOf c 64 32 ≠ 0 then .next (s1.ladderDiscard p 2)
    else
      match kind with
      | 0 => .next (s1.ladderData p c body)
      | 1 => .next (s1.ladderControl p c)
      | 2 =>
        .next ((s1.ladderControl p c).takeMark p body)
      | _ =>
        let s2 := s1.ladderControl p c
        let x := s2.ladder p
        .next (if x.hold then s2 else (s2.setLadder p { x with hold := true }).ladderReset p)

/-- LADDER_ACK_TIMEOUT (R369). -/
def execLadderAckTimeout (port : PortIx) (s : State) : Host.Outcome State Fault Refusal := .next (s.ladderReplay port)

/-- LADDER_LINK_RESET (R369). -/
def execLadderLinkReset (port : PortIx) (s : State) : Host.Outcome State Fault Refusal :=
  if (s.ladder port).up then .next (s.ladderReset port) else .next s

/-- LADDER_SILENCE_TIMEOUT (R374). -/
def execLadderSilenceTimeout (port : PortIx) (s : State) : Host.Outcome State Fault Refusal :=
  if (s.ladder port).up then .next ((s.violation port 9).ladderReset port) else .next s

/-- MARK_FRAME (R372): the oldest mark that waits leaves in a frame of its own, ahead of every data frame; those follow. -/
def execMarkFrame (port : PortIx) (s : State) : Host.Outcome State Fault Refusal :=
  let p := port.val
  let x := s.ladder p
  match x.markDue with
  | m :: rest =>
    if x.up && !x.down then
      .next ((((s.setLadder p { x with markDue := rest }).count (bLad p) 0x1E8 1).sendLadder p ladMark 0 0 false [markWord m]).pumpPort p)
    else .next s
  | [] => .next s

/-! ### RETRAIN and RESTORE (R366, R392) -/

/-- Training starts again, DOWN clears. -/
def State.ladderRetrains (s : State) (p : Nat) : State :=
  let x := s.ladder p
  ({ s with ladders := Map.put s.ladders p { x with down := false } .reset }).ladderReset p

/-- LADDER_RETRAIN (R366, R392). -/
def execLadderRetrain (port : PortIx) (s : State) : Host.Outcome State Fault Refusal := .next (s.ladderRetrains port)

/-- Ports that an engine's current step names (R375, R392): the port it sends on, and its input ports. -/
def State.stepPorts (s : State) (e : Nat) : List Nat :=
  let d := (s.cmp e).desc.getD []
  let use := fieldLe d 0 1
  let ports := fieldLe d 2 1
  (if bitOf use 3 then [e] else []) ++ (if bitOf use 0 then [bitsOf ports 0 3] else []) ++ (if bitOf use 1 then [bitsOf ports 4 3] else [])

/-- LADDER_RESTORE (R392): only while every CMP_ block whose current step names the port is disabled. -/
def execLadderRestore (port : PortIx) (s : State) : Host.Outcome State Fault Refusal :=
  if (List.range 8).all fun e => s.isDisabled (bCmp e) || !(s.cmp e).running || !((s.stepPorts e).contains port.val) then
    .next (s.ladderRetrains port)
  else .next s

end Sys2Proof.Machine
end

