-- ==== Sys2Proof/Machine/Collective.lean ====
section
/-! DEFINITION. Collective steps: the step list, the blocks of a step, waiting on tokens and inputs, delivery of VC 0
messages and table messages (R371, R374 to R381, R387 to R390). -/

namespace Sys2Proof.Machine

/-! ### Step descriptors (R375) -/

structure CollStep where
  useIn : Bool
  useIn2 : Bool
  useLocal : Bool
  out : Bool
  store : Bool
  wait : Bool
  signal : Bool
  form : Nat
  inPort : Nat
  in2Port : Nat
  inStream : Nat
  in2Stream : Nat
  outStream : Nat
  localFmt : Nat
  destFmt : Nat
  values : Nat
  waitToken : Nat
  signalToken : Nat
  localAt : Nat
  dest : Nat
  table : Nat
  status : Nat
  deriving DecidableEq, Repr

def collStepOf (d : List Byte) : CollStep :=
  let u := fieldLe d 0 1
  { useIn := bitOf u 0, useIn2 := bitOf u 1, useLocal := bitOf u 2, out := bitOf u 3, store := bitOf u 4, wait := bitOf u 5
    signal := bitOf u 6, form := fieldLe d 1 1, inPort := bitsOf (fieldLe d 2 1) 0 3, in2Port := bitsOf (fieldLe d 2 1) 4 3
    inStream := fieldLe d 3 1, in2Stream := fieldLe d 4 1, outStream := fieldLe d 5 1, localFmt := fieldLe d 6 1
    destFmt := fieldLe d 7 1, values := fieldLe d 8 4, waitToken := fieldLe d 12 2, signalToken := fieldLe d 14 2
    localAt := fieldLe d 16 8, dest := fieldLe d 24 8, table := fieldLe d 32 8, status := fieldLe d 40 8 }

/-- Blocks of 2,048 values (R376). -/
def CollStep.blocks (x : CollStep) : Nat := ceilDiv x.values 2048

/-- Values of block b. -/
def CollStep.size (x : CollStep) (b : Nat) : Nat := min 2048 (x.values - 2048 * b)

/-- fp32, bf24, bf16, fp16, e4m3 or e5m2, or 0xF for a compressed tensor. -/
def collFmt (c : Nat) : Bool := c == 15 || (c != 2 && decide (c ≤ 6))

/-- Bytes of a tensor of the step in a format. -/
def CollStep.bytes (x : CollStep) (fmt : Nat) : Nat :=
  if fmt = 15 then 4096 * x.blocks else ((Fmt.ofCode fmt).getD .fp32).size * x.values

/-- A range in one region other than the register region (R375). -/
def collRange (a n : Nat) : Bool :=
  match regionOf a with
  | some .regs => false
  | some r => inRegion r a n
  | none => false

def CollStep.needsTable (x : CollStep) : Bool := x.form == 2 || x.localFmt == 15 || x.destFmt == 15

/-- What the descriptor itself must be (R375). -/
def CollStep.valid (x : CollStep) : Bool :=
  (x.useIn || x.useLocal) && (!x.useIn2 || x.useIn) && decide (x.form ≤ 2) && collFmt x.localFmt && collFmt x.destFmt
    && decide (1 ≤ x.values) && decide (x.values ≤ 2 ^ 31) && (!x.useLocal || collRange x.localAt (x.bytes x.localFmt))
    && (!x.store || collRange x.dest (x.bytes x.destFmt)) && (!x.needsTable || collRange x.table 192)
    && (x.status == 0 || collRange x.status 32)

def cmpWho (e : Nat) : Nat := 0x1120 + e

def State.stepCount (s : State) (e : Nat) : Nat := s.fld (bCmp e) 0x108 0 24

/-- Address of an engine's current step descriptor. -/
def State.stepAt (s : State) (e : Nat) : Nat := s.fld (bCmp e) 0x100 6 46 * 64 + 64 * (s.cmp e).step

/-- An engine's current step, once its descriptor has been read. -/
def Cmp.current (y : Cmp) : Option CollStep := y.desc.map collStepOf

/-- The step's table, once its image has been read; none where the image is invalid. -/
def Cmp.stepTable (y : Cmp) : Option Table := y.table.bind tableOf

/-! ### Stopping, waiting -/

/-- The engine stops before a step (R375). -/
def State.stepFaults (s : State) (e : Nat) : State :=
  let y := s.cmp e
  ((s.setCmp e
    { y with running := false, stepFault := true, waitToken := false, waitIn := false, desc := none }).record
    (bCmp e) 0x0216 e 0 y.step).dropHeld (pCmp e)

/-- Read the current step's descriptor; one that is poison or not valid stops the engine before the step (R375). -/
def State.loadStep (s : State) (e : Nat) : State :=
  let (s1, bs) := s.readRun (cmpWho e) (s.stepAt e) 64
  if bs.anyPoison || !(collStepOf bs.data).valid then s1.stepFaults e
  else s1.setCmp e { s1.cmp e with desc := some bs.data, table := none }

/-- Read the step's table image, once the step may run; an invalid or poisoned one stops the engine (R375, R385). -/
def State.loadTable (s : State) (e : Nat) (x : CollStep) : State :=
  let (s1, bs) := s.readRun (cmpWho e) x.table 192
  if bs.anyPoison || (tableOf bs.data).isNone then s1.stepFaults e else s1.setCmp e { s1.cmp e with table := some bs.data }

/-- What the engine waits for, its token or an input; the wait starts when the first of them is set. none where nothing
changes. -/
def State.collHold (s : State) (e : Nat) (tok inp : Bool) : Option State :=
  let y := s.cmp e
  let z : Cmp := { y with waitToken := tok, waitIn := inp, waitSince := if y.waitToken || y.waitIn then y.waitSince else s.elapsed }
  if z = y then none else some (s.setCmp e z)

/-- No wait stands. -/
def Cmp.free (y : Cmp) : Cmp := { y with waitToken := false, waitIn := false, waitLong := false }

/-- Events of a step (R381): the first flag set since enable writes one record. -/
def State.collEvents (s : State) (e : Nat) (f : Flags) : State :=
  let y := s.cmp e
  let s1 := s.setCmp e { y with flags := Flags.or y.flags f, stepFlags := Flags.or y.stepFlags f }
  if f = .none then s1
  else s1.recordOnce (bCmp e) 0x0010 0 e (if f.invalid then 0 else if f.overflow then 1 else 2) y.step

/-! ### Inputs (R374, R376, R380, R388, R389) -/

/-- The table of the slot that a coded block names, at a receiving port. -/
def State.portTable (s : State) (p : Nat) (h : Header) : Option Table :=
  let t := Map.get (s.ladder p).slots (2 * h.stream + h.slot) .reset
  if t.valid then some { gen := t.gen, lens := t.lens } else none

/-- What one source of a block gives: its words where it came as a block, its values, its events, the units decoded. -/
structure Fed where
  words : List CodeWord
  vals : Values
  flags : Flags
  units : Nat
  deriving DecidableEq, Repr

/-- The message is a table message (R388). -/
def InMsg.isTable (m : InMsg) : Bool :=
  match m.words with
  | w :: _ => (headerOf w.data.toNat).kind == 2
  | [] => false

/-- What stands first for a stream in a port's input. -/
inductive InHead where
  | empty
  | broken
  | table
  | block (m : InMsg)

def Ladder.inHead (x : Ladder) (stream : Nat) : InHead :=
  match x.inq.find? fun m => m.stream = stream with
  | none => if x.brokenStreams.any fun b => b.1 = stream then .broken else .empty
  | some m => if m.isTable then .table else .block m

/-- A message of a port has been consumed, and its buffers with it (R370). -/
def State.takeMessage (s : State) (e p : Nat) (m : InMsg) : State :=
  let x := s.ladder p
  ((s.setLadder p { x with inq := x.inq.erase m }).consumeWords p m.bufs).count (bCmp e) 0x150 (16 * m.words.length)

/-- The engine consumes a broken stream: it is broken until this engine is enabled again (R374). -/
def Ladder.breakFor (x : Ladder) (stream e : Nat) : Ladder :=
  { x with brokenStreams := x.brokenStreams.map fun b => if b.1 = stream then (stream, some e) else b }

/-- Consume the next block of a stream, of n values; a broken stream delivers poison. -/
def State.feedIn (s : State) (e port stream n : Nat) : Except InHead (State × Fed) :=
  match (s.ladder port).inHead stream with
  | .empty => .error .empty
  | .table => .error .table
  | .broken =>
    let y := s.cmp e
    .ok (((s.setLadder port ((s.ladder port).breakFor stream e)).setCmp e { y with streamBroken := true }).count (bCmp e) 0x168 1,
      { words := [], vals := none, flags := .none, units := 0 })
  | .block m =>
    let s1 := s.takeMessage e port m
    match decodeBlock m.words n (s.portTable port) with
    | .ok vs f => .ok (s1, { words := m.words, vals := some vs, flags := f, units := blockUnits m.words })
    | .bad r =>
      let s2 := (if r = 0 then s1 else s1.violation port r).count (bCmp e) 0x168 1
      .ok (s2, { words := m.words, vals := none, flags := .none, units := blockUnits m.words })

/-- Block b of LOCAL; a poisoned word delivers the whole block as poison (R389, R449). -/
def State.feedLocal (s : State) (e : Nat) (x : CollStep) (b n : Nat) (t : Option Table) : State × Fed :=
  if x.localFmt = 15 then
    let (s1, ws) := s.storedBlock (cmpWho e) (x.localAt + 4096 * b)
    match decodeBlock ws n (fun _ => t) with
    | .ok vs f => (s1, { words := ws, vals := some vs, flags := f, units := blockUnits ws })
    | .bad _ => (s1.count (bCmp e) 0x168 1, { words := ws, vals := none, flags := .none, units := blockUnits ws })
  else
    let f := (Fmt.ofCode x.localFmt).getD .fp32
    let (s1, bs) := s.readRun (cmpWho e) (x.localAt + f.size * 2048 * b) (f.size * n)
    if bs.anyPoison then
      (s1.count (bCmp e) 0x168 1, { words := [], vals := none, flags := .none, units := 0 })
    else
      let outs := (bodyElems f n bs.data).map fun u => widenBits f u 127 true
      (s1,
        { words := [], vals := some (outs.map (·.1))
          flags := outs.foldl (fun (g : Flags) o => Flags.or g o.2) Flags.none, units := 0 })

/-- Add a source's values to the sum so far (R41, R42, R376). -/
def addValues (a b : Values) : Values × Flags :=
  match a, b with
  | some x, some y =>
    let outs := (x.zip y).map fun p => arith32 (FVal.add (f32 p.1) (f32 p.2))
    (some (outs.map (·.1)), outs.foldl (fun (g : Flags) o => Flags.or g o.2) Flags.none)
  | _, _ => (none, .none)

/-- The sources of block b in the order IN, IN2, LOCAL (R378). -/
def State.feed (s : State) (e : Nat) (x : CollStep) (b n : Nat) (t : Option Table) : Except InHead (State × List Fed) :=
  let first : Except InHead (State × List Fed) :=
    if x.useIn then (s.feedIn e x.inPort x.inStream n).map fun r => (r.1, [r.2]) else .ok (s, [])
  match first with
  | .error h => .error h
  | .ok (s1, l1) =>
    let second : Except InHead (State × List Fed) :=
      if x.useIn2 then (s1.feedIn e x.in2Port x.in2Stream n).map fun r => (r.1, l1 ++ [r.2]) else .ok (s1, l1)
    match second with
    | .error h => .error h
    | .ok (s2, l2) =>
      if x.useLocal then
        let (s3, g) := s2.feedLocal e x b n t
        .ok (s3, l2 ++ [g])
      else .ok (s2, l2)

def sumFed : List Fed → Values × Flags
  | [] => (none, .none)
  | f :: fs =>
    fs.foldl (fun (acc : Values × Flags) g => let r := addValues acc.1 g.vals; (r.1, Flags.or (Flags.or acc.2 g.flags) r.2))
      (f.vals, f.flags)

/-! ### Outputs (R376, R383 to R388) -/

/-- Active send slot of a stream, and the table it holds. -/
def Cmp.activeSlot (y : Cmp) (stream : Nat) : Nat := Map.get y.active stream 0

def Cmp.slotOf (y : Cmp) (stream slot : Nat) : TableSlot := Map.get y.slots (2 * stream + slot) .reset

/-- A block encoded with a slot waits in the output queue of the port. -/
def State.slotQueued (s : State) (p stream slot : Nat) : Bool :=
  (s.ladder p).out0.any fun m =>
    match m with
    | w :: _ =>
      let h := headerOf w.data.toNat
      h.kind == 1 && h.form == 2 && !h.raw && h.stream == stream && h.slot == slot && h.words == m.length
    | [] => false

/-- Make the step's table the active one of its stream (R388); none while the other slot is still in use. -/
def State.readyTable (s : State) (e : Nat) (x : CollStep) (t : Table) : Option State :=
  let y := s.cmp e
  let a := y.activeSlot x.outStream
  if (y.slotOf x.outStream a).gen = t.gen then some s
  else
    let o := 1 - a
    if s.slotQueued e x.outStream o then none
    else
      let s1 := s.setCmp e
        { y with
          slots := Map.put y.slots (2 * x.outStream + o) { gen := t.gen, lens := t.lens, valid := true } .reset
          active := Map.put y.active x.outStream o 0 }
      let m := tableMessage x.outStream o t (y.table.getD [])
      let z := s1.ladder e
      some ((((s1.setLadder e { z with out0 := z.out0 ++ [m] }).count (bCmp e) 0x170 1).count (bCmp e) 0x148 (16 * m.length)))

/-- A received block as it is passed on: the same words, its header naming this engine's stream and slot (log entry 47),
also where its values are delivered as poison; a broken stream has none, and a poisoned block goes out in their place. -/
def passOn (x : CollStep) (slot n : Nat) (f : Fed) : List CodeWord :=
  match f.words with
  | w :: ws =>
    let h := headerOf w.data.toNat
    let g : Header := { h with stream := x.outStream, slot := if h.form = 2 ∧ ¬ h.raw then slot else h.slot }
    if g = h then w :: ws else g.word :: ws
  | [] => poisonBlock x.form x.outStream n 0

/-- What a block sends: words, whether coded, events. -/
def sentBlock (x : CollStep) (n slot : Nat) (t : Table) (fs : List Fed) (v : Values) : List CodeWord × Bool × Flags :=
  match fs, x.useIn && !x.useIn2 && !x.useLocal with
  | [f], true => (passOn x slot n f, false, .none)
  | _, _ => encodeBlock v n x.form x.outStream slot 0 t

/-- Values in a packed destination, poison as poison, with the events of the conversion. -/
def packedValues (fmt n : Nat) (v : Values) : PBytes × Flags :=
  let f := (Fmt.ofCode fmt).getD .fp32
  match v with
  | none => (PBytes.refused (f.size * n), .none)
  | some l =>
    let outs := l.map fun u => convert (f32 u) f false false
    (PBytes.clean (outs.flatMap fun o => elemBytes f o.1), outs.foldl (fun (g : Flags) o => Flags.or g o.2) Flags.none)

/-- The values that a sent block decodes to. -/
def decodedSent (x : CollStep) (n : Nat) (t : Table) (w : List CodeWord) (v : Values) : Values :=
  if x.out && !(x.useIn && !x.useIn2 && !x.useLocal) then
    match v, decodeBlock w n (fun _ => some t) with
    | some _, .ok vs _ => some vs
    | _, _ => none
  else v

/-- Store block b (R376, R387): the words written, as bytes at an address, the events, and a block encoded for it. -/
def State.storeBlock (s : State) (e : Nat) (x : CollStep) (b n : Nat) (t : Table) (fs : List Fed) (v : Values)
    (w : Option (List CodeWord)) : State × Flags × Option (List CodeWord × Bool) :=
  if x.destFmt = 15 then
    let a := x.dest + 4096 * b
    let have2 : Option (List CodeWord) :=
      match w with
      | some ws => if x.form = 2 ∧ !(x.useIn && !x.useIn2 && !x.useLocal) then some ws else none
      | none => none
    let got : Option (List CodeWord) :=
      match fs, x.useIn && !x.useIn2 && !x.useLocal with
      | [f], true =>
        (match f.words with
        | c :: _ => if (headerOf c.data.toNat).form = 2 then some f.words else none
        | [] => none)
      | _, _ => none
    match have2, got with
    | some ws, _ => (s.storeWords (cmpWho e) a ws, .none, none)
    | none, some ws => (s.storeWords (cmpWho e) a ws, .none, none)
    | none, none =>
      let (ws, coded, f) := encodeBlock v n 2 x.outStream 0 0 t
      (s.storeWords (cmpWho e) a ws, f, some (ws, coded))
  else
    let u := match w with
      | some ws => decodedSent x n t ws v
      | none => v
    let (bs, f) := packedValues x.destFmt n u
    (s.writeRun (cmpWho e) (x.dest + ((Fmt.ofCode x.destFmt).getD .fp32).size * 2048 * b) bs, f, none)

/-- An encoded block is counted as coded or raw (R395). -/
def State.countCoded (s : State) (e : Nat) (ws : List CodeWord) (coded : Bool) : State :=
  let raw : Bool := match ws with
    | w :: _ => (headerOf w.data.toNat).form == 2
    | [] => false
  if coded then s.count (bCmp e) 0x158 1 else if raw then s.count (bCmp e) 0x160 1 else s

/-- Send a block on the engine's port. -/
def State.sendBlock (s : State) (e : Nat) (ws : List CodeWord) : State :=
  let z := s.ladder e
  (((s.setLadder e { z with out0 := z.out0 ++ [ws] }).count (bCmp e) 0x148 (16 * ws.length)).pumpPort e)

/-- Block b is done: counted, and the next one is current. -/
def State.nextBlock (s : State) (e b n : Nat) : State :=
  let y := (s.count (bCmp e) 0x140 n).cmp e
  (s.count (bCmp e) 0x140 n).setCmp e { y.free with block := b + 1 }

/-- Everything a block does once its table is ready and its sources are there; the work it costs. -/
def State.blockEffect (s : State) (e : Nat) (x : CollStep) (b n : Nat) (t : Table) (fs : List Fed) : State × Nat :=
  let (v, f1) := sumFed fs
  let pass := x.useIn && !x.useIn2 && !x.useLocal
  let sent : Option (List CodeWord × Bool × Flags) :=
    if x.out then some (sentBlock x n ((s.cmp e).activeSlot x.outStream) t fs v) else none
  let st : State × Flags × Option (List CodeWord × Bool) :=
    if x.store then s.storeBlock e x b n t fs v (sent.map (·.1)) else (s, .none, none)
  let f2 := Flags.or (Flags.or f1 st.2.1) ((sent.map (·.2.2)).getD Flags.none)
  let s1 := match st.2.2 with
    | some (ws, c) => st.1.countCoded e ws c
    | none => st.1
  let s2 := match sent with
    | some (ws, c, _) => (if pass then s1 else s1.countCoded e ws c).sendBlock e ws
    | none => s1
  let units := (fs.map (·.units)).sum + (match st.2.2 with
    | some (ws, _) => blockUnits ws
    | none => 0) + (match sent with
    | some (ws, _, _) => if pass then 0 else blockUnits ws
    | none => 0)
  ((s2.collEvents e f2).nextBlock e b n, units)

/-- A table with no codes, for steps that use none. -/
def noTable : Table := { gen := 0, lens := [] }

/-- One block; none where the engine can do nothing now (R376, R388, R390). The price is paid before anything else. -/
def State.blockMove (s : State) (e : Nat) (x : CollStep) (b : Nat) : Option State :=
  let n := x.size b
  let t := (s.cmp e).stepTable
  let ready : Option State := if x.out && x.form == 2 then s.readyTable e x (t.getD noTable) else some s
  match ready with
  | none => none
  | some s0 =>
    match s0.feed e x b n t with
    | .error _ => s.collHold e false true
    | .ok (s1, fs) =>
      let (s2, units) := s1.blockEffect e x b n (t.getD noTable) fs
      let work : Work := [(14, aHub, units)]
      if s.covered (pCmp e) (s.price work) then some (s2.charge (pCmp e) work)
      else
        let h := s.holdPrice (pCmp e) work
        if h = s then none else some h

/-- What the step sent and stored has been acknowledged (R376, R399). -/
def State.stepSent (s : State) (e : Nat) (x : CollStep) : Bool :=
  !s.owed (.unit (cmpWho e)) && (!x.out || ((s.ladder e).out0.isEmpty && (s.ladder e).replay.all fun f => f.vc != 0))

/-- The end of a step (R379, R381). -/
def State.endStep (s : State) (e : Nat) (x : CollStep) : State :=
  let f := (s.cmp e).stepFlags
  let s1 :=
    if x.status = 0 then s
    else
      let (r, bs) := s.readRun (cmpWho e) (x.status + 5) 1
      r.writeRun (cmpWho e) (x.status + 5) (.clean [BitVec.ofNat 8 (fieldLe bs.data 0 1 ||| f.bits)])
  let s2 :=
    if x.signal then s1.sendToken (.signal agHub (BitVec.ofNat 16 x.signalToken) 1) else s1
  let y := s2.cmp e
  s2.setCmp e { y.free with step := y.step + 1, desc := none, table := none, block := 0, tokenHeld := false, stepFlags := .none }

/-- Where an engine's step reads next in memory: LOCAL, its table, and its STATUS record (R326). -/
def CollStep.readsAt (x : CollStep) (y : Cmp) : List Nat :=
  (if x.useLocal then [x.localAt] else []) ++ (if x.needsTable && y.table.isNone then [x.table] else [])
    ++ (if x.status = 0 then [] else [x.status])

/-- One move of an engine; none where it cannot move now. The next step's descriptor is read as soon as that step is current,
its table once the token of its WAIT is held (log entry 89). -/
def State.collMove (s : State) (e : Nat) : Option State :=
  let y := s.cmp e
  if !y.running then none
  else if s.stepCount e ≤ y.step then some (s.setCmp e { y.free with running := false, done := true })
  else
    match y.current with
    | none => if s.hostWaits (s.stepAt e) 64 then s.stallOnce (cmpWho e) else some (s.loadStep e)
    | some x =>
      if x.wait && !y.tokenHeld then s.collHold e true false
      else if (x.readsAt y).any fun a => s.hostWaits a 1 then s.stallOnce (cmpWho e)
      else if (x.store && s.hostFull x.dest 1) || (x.status != 0 && s.hostFull x.status 1) then none
      else if x.needsTable && y.table.isNone then some (s.loadTable e x)
      else if y.block < x.blocks then s.blockMove e x y.block
      else if s.stepSent e x then some (s.endStep e x)
      else none

def State.collMoves : Nat → State → Nat → State
  | 0, s, _ => s
  | n + 1, s, e =>
    match s.collMove e with
    | some s1 => State.collMoves n s1 e
    | none => s

/-- A step engine may run: 0 to 7, enabled, no fatal error. -/
def State.cmpActive (s : State) (e : Nat) : Bool := decide (e < 8) && s.isEnabled (bCmp e) && !s.power.issueStopped

/-! ### The commands -/

/-- START (R375, R390): a list that runs goes on. -/
def execStart (engine : CmpIx) (s : State) : Host.Outcome State Fault Refusal :=
  let e := engine.val
  let y := s.cmp e
  if s.cmpActive e && !y.running then
    .next (s.setCmp e
      { y.free with
        running := true, step := 0, desc := none, table := none, block := 0, tokenHeld := false, stepFlags := .none, done := false
        stepFault := false })
  else .next s

/-- COLLECTIVE_STEP (R375 to R390): the engine moves on by up to `blocks` blocks, step ends or waits. -/
def execCollectiveStep (engine : CmpIx) (blocks : Nat) (s : State) : Host.Outcome State Fault Refusal :=
  if s.cmpActive engine then .next (s.collMoves blocks engine) else .next s

/-- STEP_TOKEN_TAKE (R193, R379): a Take with value 1 for the step that waits, as a token message from the hub; one that a
disabled block holds is not repeated. -/
def execStepTokenTake (engine : CmpIx) (s : State) : Host.Outcome State Fault Refusal :=
  let e := engine.val
  let y := s.cmp e
  if !(s.cmpActive e && y.running && decide (y.step < s.stepCount e)) then .next s
  else
    match y.current with
    | none => .next s
    | some x =>
      let tile := tokTile x.waitToken
      let op : HeldOp := .stepTake e (BitVec.ofNat 16 x.waitToken)
      if !x.wait || y.tokenHeld || (Map.get s.held tile []).contains op then .next s
      else
        let s1 := (s.collHold e true false).getD s
        .next (((s1.carry 4 tile 3 none).count (bTok tile) 0x158 1).offer tile op)

/-! ### Delivery of VC 0 messages (R371, R374, R380) -/

/-- Drop the rest of frames whose next word is a pad word where a header would begin; the words dropped, by buffer. -/
def dropPads : List (Nat × List CodeWord) → List (Nat × List CodeWord) × List (Nat × Nat)
  | [] => ([], [])
  | f :: fs =>
    match f.2 with
    | [] => dropPads fs
    | w :: _ =>
      if bitsOf w.data.toNat 0 16 = 0 then let (r, k) := dropPads fs; (r, (f.1, f.2.length) :: k) else (f :: fs, [])

/-- Take n words; none where they have not all arrived. What is left, and the words taken, by buffer. -/
def takeWords : List (Nat × List CodeWord) → Nat → Option (List CodeWord × List (Nat × List CodeWord) × List (Nat × Nat))
  | fs, 0 => some ([], fs, [])
  | [], _ + 1 => none
  | f :: rest, n + 1 =>
    if f.2.length ≤ n + 1 then
      (takeWords rest (n + 1 - f.2.length)).map fun r => (f.2 ++ r.1, r.2.1, (f.1, f.2.length) :: r.2.2)
    else some (f.2.take (n + 1), (f.1, f.2.drop (n + 1)) :: rest, [(f.1, n + 1)])

/-- The engine's current step names the stream as IN or IN2. -/
def State.namesStream (s : State) (e p stream : Nat) : Bool :=
  match (s.cmp e).current with
  | none => false
  | some x =>
    (x.useIn && x.inPort == p && x.inStream == stream) || (x.useIn2 && x.in2Port == p && x.in2Stream == stream)

/-- An engine runs a step. -/
def State.runsStep (s : State) (e : Nat) : Bool := s.cmpActive e && (s.cmp e).running && decide ((s.cmp e).step < s.stepCount e)

/-- The engine whose current step names a port and stream (R380). -/
def State.consumer (s : State) (p stream : Nat) : Option Nat := (List.range 8).find? fun e => s.runsStep e && s.namesStream e p stream

/-- Blocks of a stream that the current step of its engine has still to take from the port. -/
def State.blocksLeft (s : State) (p stream : Nat) : Nat :=
  match s.consumer p stream with
  | none => 0
  | some e =>
    match (s.cmp e).current with
    | none => 0
    | some x =>
      (x.blocks - (s.cmp e).block)
        * (boolBit (x.useIn && x.inPort == p && x.inStream == stream) + boolBit (x.useIn2 && x.in2Port == p && x.in2Stream == stream))

/-- A message of the stream is needed by a current step beyond those that the port has delivered to it. -/
def State.needed (s : State) (p stream : Nat) : Bool :=
  decide (((s.ladder p).inq.filter fun m => m.stream = stream && !m.isTable).length < s.blocksLeft p stream)

/-- Some engine that runs has not read the descriptor of its current step, so what that step consumes is not known yet. -/
def State.stepUnread (s : State) : Bool :=
  (List.range 8).any fun e =>
    s.cmpActive e && (s.cmp e).running && decide ((s.cmp e).step < s.stepCount e) && (s.cmp e).desc.isNone

/-- A header that cannot be delimited breaks its stream, and the rest of its frame goes (R374; log entry 88). -/
def State.breakStream (s : State) (p stream : Nat) (fs : List (Nat × List CodeWord)) : State :=
  let x := s.ladder p
  let gone := (fs.take 1).map fun f => (f.1, f.2.length)
  let old := x.brokenStreams.filter fun b => b.1 ≠ stream
  ((s.setLadder p { x with rx0 := fs.drop 1, brokenStreams := old ++ [(stream, none)] }).violation p 12).consumeWords p gone

/-- A message that a current step does not name holds the port (R374): a mismatch once every current step's descriptor has been
read. -/
def State.holdPort (s : State) (p : Nat) : State :=
  let x := s.ladder p
  if x.streamMismatch || s.stepUnread then s else (s.setLadder p { x with streamMismatch := true }).violation p 17

/-- A message that the port had delivered to a step that has stopped since stands first in its buffer again (R390). -/
def State.orphaned (s : State) (p : Nat) : Bool := (s.ladder p).inq.any fun m => (s.consumer p m.stream).isNone

/-- VC0_MESSAGE_DELIVERY (R371, R374, R380): the message at the head of the port's VC 0 buffer is delivered to the current step
that names its stream, once that step needs one more; none is taken while PARTNER_MISMATCH stands (R373). A message that no
current step consumes is held, and all that follow it. -/
def execVc0MessageDelivery (port : PortIx) (s : State) : Host.Outcome State Fault Refusal :=
  let p := port.val
  if (s.ladder p).mismatch then .next s
  else if s.orphaned p then .next (s.holdPort p)
  else
    let (fs, pads) := dropPads (s.ladder p).rx0
    let s1 := (s.setLadder p { s.ladder p with rx0 := fs }).consumeWords p pads
    let y := s1.ladder p
    match fs with
    | (_, w :: _) :: _ =>
      let (d, bad, _) := receive w.data w.check
      let h := headerOf d.toNat
      if bad || !h.ok then .next (s1.breakStream p h.stream fs)
      else
        match takeWords fs h.words with
        | none => .next s1
        | some (ws, left, taken) =>
          let z := { y with rx0 := left, streamMismatch := false }
          if y.brokenStreams.any fun b => b.1 = h.stream then .next ((s1.setLadder p z).consumeWords p taken)
          else if (s1.consumer p h.stream).isNone then .next (s1.holdPort p)
          else if s1.needed p h.stream then
            .next (s1.setLadder p { z with inq := z.inq ++ [{ stream := h.stream, words := ws, bufs := taken }] })
          else .next s1
    | _ => .next s1

/-- A VC 0 message of the port is held (R374, R391). -/
def State.streamHeld (s : State) (p : Nat) : Bool :=
  (s.ladder p).streamMismatch
    && (s.orphaned p || match (s.ladder p).rx0 with
      | (_, w :: _) :: _ => (s.consumer p (headerOf (receive w.data w.check).1.toNat).stream).isNone
      | _ => false)

/-- The first table message of a port that is first of its stream. -/
def firstTable : List Nat → List InMsg → Option InMsg
  | _, [] => none
  | seen, m :: ms => if !seen.contains m.stream && m.isTable then some m else firstTable (m.stream :: seen) ms

/-- Reference count of a receiving slot, as a table message for it sees it: the accepted blocks before that message in stream
order that name the slot and have not been consumed (R388). -/
def Ladder.slotRefs (x : Ladder) (stream slot : Nat) : Nat :=
  let h (m : InMsg) : Header := match m.words with
    | w :: _ => headerOf w.data.toNat
    | [] => headerOf 0
  (((x.inq.filter fun m => m.stream = stream).takeWhile fun m => !(m.isTable && (h m).slot == slot)).filter fun m =>
    !m.isTable && (h m).form == 2 && !(h m).raw && (h m).slot == slot).length

/-- A table message waits in a stream that the engine's current step takes its blocks from (R388, R394). -/
def State.tableWaits (s : State) (e : Nat) : Bool :=
  s.runsStep e && (List.range 8).any fun p => (s.ladder p).inq.any fun m => m.isTable && s.namesStream e p m.stream

/-- The table that a table message carries; none for a reserved field or an invalid code. -/
def messageTable (ws : List CodeWord) : Option Table :=
  let bs := wordsBytes ws
  let d := bs.data
  let h := fieldLe d 0 16
  let img := d.drop 16
  if bs.anyPoison || bitsOf h 27 5 != 0 || bitsOf h 42 6 != 0 || !zeroRange img 8 56 then none
  else match tableOf img with
    | some t => if t.gen = (headerOf h).gen then some t else none
    | none => none

/-- TABLE_MESSAGE_APPLY (R388): the slot's earlier blocks have been consumed. What the message brings is counted by the engine
whose step takes the stream, while there is one. -/
def execTableMessageApply (port : PortIx) (s : State) : Host.Outcome State Fault Refusal :=
  let p := port.val
  match firstTable [] (s.ladder p).inq with
  | none => .next s
  | some m =>
    match s.consumer p m.stream with
    | none => .next s
    | some e =>
      let h := match m.words with
        | w :: _ => headerOf w.data.toNat
        | [] => headerOf 0
      if (s.ladder p).slotRefs m.stream h.slot ≠ 0 then .next s
      else
        let s1 := s.takeMessage e p m
        let key := 2 * m.stream + h.slot
        let x := s1.ladder p
        match messageTable m.words with
        | some t =>
          .next ((s1.setLadder p { x with slots := Map.put x.slots key { gen := t.gen, lens := t.lens, valid := true } .reset }).count
            (bCmp e) 0x178 1)
        | none => .next ((s1.setLadder p { x with slots := Map.put x.slots key .reset .reset }).violation p 16)

/-- CMP_WAIT_LONG (R390). The wait kind is the number of the wait's bit in CMP_STATUS. -/
def execCmpWaitLong (engine : CmpIx) (s : State) : Host.Outcome State Fault Refusal :=
  let e := engine.val
  let y := s.cmp e
  let limit := s.fld (bCmp e) 0x108 24 16
  if s.cmpActive e && (y.waitToken || y.waitIn) && !y.waitLong && limit != 0 && decide (y.waitSince + limit ≤ s.elapsed) then
    .next ((s.setCmp e { y with waitLong := true }).record (bCmp e) 0x0011 e (if y.waitToken then 1 else 2) y.step)
  else .next s

/-! ### Enabling and disabling (R374, R381, R390) -/

/-- At enable the flags clear, and the streams that the engine has found broken are whole again. -/
def State.enableCmp (s : State) (e : Nat) : State :=
  let s1 := s.setCmp e { s.cmp e with flags := .none, stepFlags := .none, streamBroken := false }
  (List.range 8).foldl
    (fun acc p =>
      let x := acc.ladder p
      if x.brokenStreams.any fun b => b.2 = some e then
        acc.setLadder p { x with brokenStreams := x.brokenStreams.filter fun b => b.2 ≠ some e }
      else acc) s1

/-- A disabled engine has stopped after its block; it does not signal, and unconsumed messages stay. -/
def State.disableCmp (s : State) (e : Nat) : State :=
  ((s.setCmp e { (s.cmp e).free with running := false, stepFlags := .none }).dropHeld (pCmp e)).hostForget (· == cmpWho e)

end Sys2Proof.Machine
end

