-- ==== Sys2Proof/Machine/Matrix.lean ====
section
/-! DEFINITION. Issuing matrix instructions: passes, compound passes, weight loads, matrix-vector instructions and
drains are decoded, checked and handed to their unit's queue (R69 to R71, R116, R120, R134 to R143). -/

namespace Sys2Proof.Machine

/-- Code 3 unless a descriptor's format, rank, space and addresses are allowed (R134). -/
def scratchCheck (t : Tensor) (fmtOk rankOk : Bool) (reach : Option Span) : List Nat :=
  if fmtOk && rankOk && !t.physical && inScratch reach then [] else [3]

/-- The stop code of an instruction's checks; one that has passed them and is held is not checked again (R93, R135,
R137). -/
def Core.stopFor (c : Core) (codes : List Nat) : Option Nat := if c.held then none else leastCode codes

/-- A check and the code of its failure. -/
def must (ok : Bool) (code : Nat) : List Nat := if ok then [] else [code]

/-- The tensor of a slot; a slot that loaded as poison gives code 3 (R449). -/
def Core.operand (c : Core) (slot : Nat) : Tensor × List Nat :=
  match c.slot slot with
  | some d => (c.tensor d, [])
  | none => (c.tensor 0, [3])

def accSourceOf (code : Nat) : AccSource := if code = 0 then .zero else if code = 1 then .keep else .preload

/-- While a run is open, no other operation names tile d to 3 (R116). -/
def runFree (x : Engine) (tiles : List Nat) : Bool :=
  match x.issuedRun with
  | some r => tiles.all fun j => j < r.dest
  | none => true

/-! ### Passes (R69, R71, R82, R116, R138, R139) -/

/-- The pass that a word spells, and the stop codes of its descriptors (R134, R137). The weight tensor of a compound pass may
have rank 1 or 2, as a weight load's source may; R134 does not list this use (log entry 92). -/
def Core.passOf (c : Core) (compound : Bool) (w : Nat) : PassOp × List Nat :=
  let accCode := bitsOf w 14 2
  let conv := bitOf w 11
  let adesc := bitsOf w 32 8
  let m := bitsOf w 56 9 + 1
  let kv := bitsOf w 65 7 + 1
  let nv := bitsOf w 72 7 + 1
  let orient := bitOf w 22
  let row := c.plusReg (bitsOf w 84 20) (bitsOf w 80 4)
  let kblk := c.plusReg (bitsOf w 104 12) (bitsOf w 116 4)
  let (act, e1) := c.operand adesc
  let (pre, e2) := if accCode = 2 then c.operand (bitsOf w 40 8) else (c.tensor 0, [])
  let (wt, e3) := if compound then c.operand (bitsOf w 48 8) else (c.tensor 0, [])
  let (rec, e4) :=
    if conv then
      match c.slot (adesc + 1) with
      | some d => (some (convOf d), [])
      | none => (some (convOf 0), [3])
    else (none, [])
  let row0 := match rec with
    | some r => (r.p0 + row) % 2 ^ 64
    | none => row
  let p : PassOp :=
    { compound := compound, act := act, weight := if compound then some wt else none
      preload := if accCode = 2 then some pre else none, conv := rec, orient := orient, m := m, kv := kv, nv := nv
      bank := bitOf w 10, dest := bitsOf w 12 2, acc := accSourceOf accCode, split := bitOf w 16, last := bitOf w 17
      runIdx := bitsOf w 18 4, row0 := row0, kblk := kblk, satMode := c.satMode }
  let convOk := match rec with
    | some r => adesc != 255 && r.valid act row0 m
    | none => true
  let reach := if convOk then p.actReach else none
  (p,
    must (accCode != 3) 2 ++ e1 ++ e2 ++ e3 ++ (if adesc = 255 then [] else e4)
      ++ scratchCheck act (passFmt act.fmt) (act.rank == if conv then 4 else 2) reach
      ++ (if accCode = 2 then scratchCheck pre (tileFmt pre.fmt) (pre.rank == 2) p.preReach else [])
      ++ (if compound then scratchCheck wt (passFmt wt.fmt) (decide (wt.rank ≤ 2)) p.weightReach else [])
      ++ must convOk 6)

/-- The rules of a split-invariant run (R116). -/
def splitOk (x : Engine) (p : PassOp) : Bool :=
  if p.split then
    decide (p.m ≤ 128) && p.acc != .keep && decide (p.runIdx < 2 ^ (if p.compound then 3 - p.dest else 4 - p.dest))
      && (match x.issuedRun with
        | none => p.runIdx == 0
        | some r => p.runIdx == r.idx + 1 && p.dest == r.dest)
  else runFree x (EngOp.tiles (.pass p))

/-- Operand formats (R53, R71, R78, R138). `bankFmt` is that of the latest load issued to the named bank. -/
def pairCheck (p : PassOp) (bankFmt : Option Nat) : Bool :=
  match p.weight with
  | some wt => (p.act.fmt == 9 || p.act.fmt == 10) && wt.fmt == p.act.fmt
  | none => decide (p.act.fmt ≤ 4) && (match bankFmt with
    | some f => pairOk p.act.fmt f
    | none => true)

/-- Work of a pass (R214, R215). -/
def PassOp.work (p : PassOp) (core : Nat) : Work :=
  let site := core / 8
  if p.compound then [(1, site, piecePasses p.act.fmt * p.m), (2, site, 128 * pieceLoads p.act.fmt)]
  else [(if feedRate p.act.fmt = 1 then 0 else 1, site, p.m)]

/-- Hand an operation to an engine's queue, if nothing stalls it (R91, R93, R157, R159, R216). -/
def State.toEngine (s : State) (core e : Nat) (op : EngOp) (work : Work) (after : Engine → Engine) : Issue :=
  let ei := 4 * core + e
  let x := s.engine ei
  let room := s.isEnabled (bEng ei) && decide (x.queue.length < 8)
  let why := s.stallsFor core op.reads none room work
  if why ≠ 0 then .stall why (s.priceHeld core work why)
  else
    let seq := (s.core core).seq
    let s1 := s.pay core work
    let x1 := s1.engine ei
    .go (s1.setEngine ei (after { x1 with queue := x1.queue ++ [{ seq := seq, op := op, started := false, fed := 0, loads := 0, backs := [], num := 0 }] })) (s.nextPc core)

/-- Formats that later passes check against (R71, R83). -/
def Engine.noteFmt (x : Engine) (bank : Bool) (f : Nat) : Engine :=
  if bank then { x with issuedFmt1 := some f } else { x with issuedFmt0 := some f }

def Engine.afterPass (p : PassOp) (x : Engine) : Engine :=
  let x1 := if p.compound then (x.noteFmt false 3).noteFmt true 3 else x
  if p.split then { x1 with issuedRun := if p.last then none else some { dest := p.dest, idx := p.runIdx } } else x1

/-- A pass as it is issued. The bank's format is that of the latest load issued to it since the engine was enabled, one
that was discarded unstarted included; while the engine is not enabled there is none to check against (R71, R78; log
entry 77). -/
def doPass (compound : Bool) (core : Nat) (s : State) (w : Nat) : Issue :=
  let e := bitsOf w 8 2
  let x := s.engine (4 * core + e)
  let (p, errs) := (s.core core).passOf compound w
  let bankFmt := if s.isEnabled (bEng (4 * core + e)) then (if p.bank then x.issuedFmt1 else x.issuedFmt0) else none
  let c := s.core core
  let codes := errs ++ must (decide (128 * p.dest + p.m ≤ 512)) 4 ++ must (pairCheck p bankFmt) 4 ++ must (splitOk x p) 5
  match c.stopFor codes with
  | some code => .refuse code
  | none => s.toEngine core e (.pass p) (p.work core) (Engine.afterPass p)

/-! ### Weight loads (R70, R71, R140) -/

def doWeightLoad (core : Nat) (s : State) (w : Nat) : Issue :=
  let c := s.core core
  let e := bitsOf w 8 2
  let (src, e1) := c.operand (bitsOf w 32 8)
  let target := bitsOf w 12 4
  let bank := bitOf w 10
  let l : LoadOp :=
    { src := src, target := target, orient := bitOf w 11, k0 := c.plusReg (bitsOf w 64 16) (bitsOf w 56 4)
      n0 := c.plusReg (bitsOf w 80 16) (bitsOf w 60 4), kw := bitsOf w 40 7 + 1, nw := bitsOf w 48 7 + 1, bank := bank
      satMode := c.satMode }
  let codes :=
    must (decide (target ≤ 10)) 2 ++ e1 ++ scratchCheck src (loadFmt src.fmt) (decide (src.rank ≤ 2)) l.srcReach
      ++ must (targetOk src.fmt target) 4
  match c.stopFor codes with
  | some code => .refuse code
  | none => s.toEngine core e (.load l) [(2, core / 8, 128)] fun x => x.noteFmt bank target

/-! ### Matrix-vector instructions (R142, R143) -/

/-- Columns that the unit takes at once (R143). -/
def mvColumns (wfmt : Nat) : Nat := if wfmt = 3 ∨ wfmt = 4 then 4 else 8

def MvOp.cycles (o : MvOp) : Nat := o.m * ceilDiv o.nv (mvColumns o.weight.fmt)

def doMatrixVector (core : Nat) (s : State) (w : Nat) : Issue :=
  let c := s.core core
  let accCode := bitsOf w 12 2
  let (act, e1) := c.operand (bitsOf w 32 8)
  let (wt, e2) := c.operand (bitsOf w 40 8)
  let (pre, e3) := if accCode = 2 then c.operand (bitsOf w 48 8) else (c.tensor 0, [])
  let o : MvOp :=
    { engine := bitsOf w 8 2, tile := bitsOf w 10 2, acc := accSourceOf accCode, act := act, weight := wt
      preload := if accCode = 2 then some pre else none, m := bitsOf w 56 4 + 1, kv := bitsOf w 64 7 + 1
      nv := bitsOf w 72 7 + 1, row0 := c.plusReg (bitsOf w 80 12) (bitsOf w 60 4)
      k0 := 128 * c.plusReg (bitsOf w 96 12) (bitsOf w 92 4), n0 := 128 * c.plusReg (bitsOf w 112 12) (bitsOf w 108 4)
      satMode := c.satMode }
  let x := s.engine (4 * core + o.engine)
  let codes :=
    must (accCode != 3) 2 ++ e1 ++ e2 ++ e3
      ++ scratchCheck act (decide (act.fmt ≤ 4)) (act.rank == 2)
        (act.reach (o.k0, o.k0 + o.kv) (o.row0, o.row0 + o.m) (0, 1) (0, 1))
      ++ scratchCheck wt (loadFmt wt.fmt) (wt.rank == 2) (wt.reach (o.k0, o.k0 + o.kv) (o.n0, o.n0 + o.nv) (0, 1) (0, 1))
      ++ (if accCode = 2 then scratchCheck pre (tileFmt pre.fmt) (pre.rank == 2) (pre.reach (0, o.nv) (0, o.m) (0, 1) (0, 1))
          else [])
      ++ must (pairOk act.fmt (mvWeightFmt act.fmt wt.fmt)) 4 ++ must (runFree x [o.tile]) 5
  match c.stopFor codes with
  | some code => .refuse code
  | none =>
    let work : Work := [(3, core / 8, o.cycles)]
    let why := s.stallsFor core o.reads none (decide (c.mvq.length < 8)) work
    if why ≠ 0 then .stall why (s.priceHeld core work why)
    else
      let s1 := s.pay core work
      let c1 := s1.core core
      .go (s1.setCore core { c1 with mvq := c1.mvq ++ [(c.seq, o)] }) (s.nextPc core)

/-! ### Drains (R120, R141) -/

def doDrain (core : Nat) (s : State) (w : Nat) : Issue :=
  let c := s.core core
  let reduce := bitsOf w 12 2
  let (dst, e1) := c.operand (bitsOf w 32 8)
  let o : DrainOp :=
    { engine := bitsOf w 8 2, tile := bitsOf w 10 2, reduce := reduce, transform := bitOf w 14, truncate := bitOf w 15
      rows := bitsOf w 40 7 + 1, cols := bitsOf w 48 7 + 1, dst := dst
      side := c.plusReg (bitsOf w 64 22) (bitsOf w 56 4), satMode := c.satMode }
  let x := s.engine (4 * core + o.engine)
  let codes :=
    must (reduce != 3) 2 ++ e1 ++ scratchCheck dst (tileFmt dst.fmt) (dst.rank == 2) o.dstReach
      ++ must (o.side % 16 == 0 && decide (o.side + o.sideLen ≤ 0x400000)) 3
      ++ must (!o.transform || reduce == 2) 4 ++ must (runFree x [o.tile]) 5
  match c.stopFor codes with
  | some code => .refuse code
  | none =>
    let work : Work := [(7, core / 8, o.rows)]
    let why := s.stallsFor core none o.writes (decide (c.drainq.length < 8)) work
    if why ≠ 0 then .stall why (s.priceHeld core work why)
    else
      let s1 := s.pay core work
      let c1 := s1.core core
      .go (s1.setCore core { c1 with drainq := c1.drainq ++ [(c.seq, o)] }) (s.nextPc core)

/-- PASS (R69, R71, R138). -/
def execPass (core : CoreIx) (s : State) : Host.Outcome State Fault Refusal := .next (s.issue core .pass (doPass false core))
/-- COMPOUND_PASS (R82, R138). -/
def execCompoundPass (core : CoreIx) (s : State) : Host.Outcome State Fault Refusal :=
  .next (s.issue core .compoundPass (doPass true core))
/-- WEIGHT_LOAD (R70, R140). -/
def execWeightLoad (core : CoreIx) (s : State) : Host.Outcome State Fault Refusal :=
  .next (s.issue core .weightLoad (doWeightLoad core))
/-- MATRIX_VECTOR (R142). -/
def execMatrixVector (core : CoreIx) (s : State) : Host.Outcome State Fault Refusal :=
  .next (s.issue core .matrixVector (doMatrixVector core))
/-- DRAIN (R120, R141). -/
def execDrain (core : CoreIx) (s : State) : Host.Outcome State Fault Refusal := .next (s.issue core .drain (doDrain core))

end Sys2Proof.Machine
end

