-- ==== Sys2Proof/Machine/Engine.lean ====
section
/-! DEFINITION. What engines, the matrix-vector unit and the drain unit do: weight loads and passes (R65 to R85, R91,
R95), the path into the accumulator (R99 to R116, R119, R122), matrix-vector instructions (R142, R143), drains (R120,
R121) and long waits (R96). -/

namespace Sys2Proof.Machine

/-! ### Runs of a sparse store -/

def mapSeg {α : Type} (d : α) (cells : Map α) (a : Nat) : Nat → List α
  | 0 => []
  | n + 1 =>
    match cells with
    | [] => List.replicate (n + 1) d
    | (k, v) :: cs => if k = a then v :: mapSeg d cs (a + 1) n else d :: mapSeg d ((k, v) :: cs) (a + 1) n

/-- Entries a to a + n − 1 of a sparse store. -/
def mapRun {α : Type} (d : α) (m : Map α) (a n : Nat) : List α :=
  mapSeg d (m.filter fun c => decide (a ≤ c.1) && decide (c.1 < a + n)) a n

def mapCells {α : Type} [DecidableEq α] (d : α) : Nat → List α → Map α
  | _, [] => []
  | a, v :: vs => if v = d then mapCells d (a + 1) vs else (a, v) :: mapCells d (a + 1) vs

/-- Write a run of entries, keeping the canonical form. -/
def mapPut {α : Type} [DecidableEq α] (d : α) (m : Map α) (a : Nat) (vs : List α) : Map α :=
  (m.filter fun c => decide (c.1 < a)) ++ mapCells d a vs ++ (m.filter fun c => decide (a + vs.length ≤ c.1))

/-- Rows turned into columns, `n` of them. -/
def transpose {α : Type} (d : α) (n : Nat) (rows : List (List α)) : List (List α) :=
  (List.range n).map fun j => rows.map fun r => r.getD j d

/-! ### Operand values -/

/-- An operand of a product and whether it is poison. -/
abbrev Term := FVal × Bool

def Term.zero : Term := (.zero false, false)

/-- The value of a stored element: its scale joins the exponent (R35). -/
def Tensor.term (t : Tensor) (f : Fmt) (u : Nat) (bad : Bool) : Term := ((decodeVal f u).scaled t.scale, bad)

/-- Elements read for one row: none where a position is padding (R84, R88). -/
abbrev ElemRow := List (Option Elem)

/-- Row i1 of a scratchpad tensor from index lo on; padding is marked. -/
def State.markedRow (s : State) (who core : Nat) (t : Tensor) (lo n i1 : Nat) : State × ElemRow :=
  let (s1, es) := s.rowAt who core t lo n i1
  let m := if i1 < t.extent 1 then Nat.min n (t.extent 0 - lo) else 0
  (s1, (es.zip (List.range n)).map fun x => if x.2 < m then some x.1 else none)

/-- The elements of one row of a convolution pass (R85). -/
def State.convRow (s : State) (who core : Nat) (t : Tensor) (r : ConvRec) (p kbase kv : Nat) : State × ElemRow :=
  (List.range kv).foldl
    (fun (acc : State × ElemRow) k =>
      match r.index t p (kbase + k) with
      | some (c, iw, ih, img) => let (s1, e) := acc.1.elemAt who core t c iw ih img; (s1, acc.2 ++ [some e])
      | none => (acc.1, acc.2 ++ [none])) (s, [])

/-- Collect rows 0 … n − 1, threading the state. -/
def State.collect {α : Type} (s : State) (n : Nat) (f : State → Nat → State × α) : State × List α :=
  (List.range n).foldl (fun (acc : State × List α) i => let (s1, x) := f acc.1 i; (s1, acc.2 ++ [x])) (s, [])

/-- Activation rows lo to hi − 1 of a pass (R84, R85). -/
def State.passRows (s : State) (who core : Nat) (p : PassOp) (lo hi : Nat) : State × List ElemRow :=
  s.collect (hi - lo) fun s1 i =>
    match p.conv with
    | some r => s1.convRow who core p.act r (p.row0 + lo + i) (128 * p.kblk) p.kv
    | none => s1.markedRow who core p.act (128 * p.kblk) p.kv (p.row0 + lo + i)

/-- The products' operands of a row in the tensor's own format. -/
def plainTerms (t : Tensor) (row : ElemRow) : List Term :=
  row.map fun
    | some (u, bad) => t.term (t.format.getD .e4m3) u bad
    | none => Term.zero

/-- Piece i of each element of a row (R54, R82). -/
def pieceTerms (t : Tensor) (i : Nat) (row : ElemRow) : List Term :=
  row.map fun
    | some (u, bad) => t.term .bf16 (piece u i) bad
    | none => Term.zero

/-- Elements (k, n) of a weight tensor by columns n (R140). -/
def State.weightColumns (s : State) (who core : Nat) (t : Tensor) (orient : Bool) (k0 n0 kw nw : Nat) :
    State × List ElemRow :=
  if orient then s.collect nw fun s1 n => s1.markedRow who core t k0 kw (n0 + n)
  else
    let (s1, rows) := s.collect kw fun s1 k => s1.markedRow who core t n0 nw (k0 + k)
    (s1, transpose none nw rows)

/-- Columns of 4-bit elements expanded to a target format, with the flags of the expansion (R38). -/
def State.expandedColumns (s : State) (who core : Nat) (t : Tensor) (target : Fmt) (orient : Bool) (k0 n0 kw nw : Nat)
    (nonSat : Bool) : State × List ElemRow × Flags :=
  (List.range nw).foldl
    (fun (acc : State × List ElemRow × Flags) n =>
      let (s1, col, f) := (List.range kw).foldl
        (fun (a : State × ElemRow × Flags) k =>
          let (i0, i1) := if orient then (k0 + k, n0 + n) else (n0 + n, k0 + k)
          let (s2, e, g) := a.1.elem4At who core t target i0 i1 nonSat
          (s2, a.2.1 ++ [e], Flags.or a.2.2 g)) (acc.1, [], acc.2.2)
      (s1, acc.2.1 ++ [col], f)) (s, [], .none)

/-! ### Weight banks (R66, R73, R83) -/

/-- A bank that holds the given columns in its first rows and columns and +0 elsewhere (R73). -/
def bankOf (cols : List ElemRow) (fmt : BitVec 4) (scale : BitVec 8) : Bank :=
  let cell (k n : Nat) : Elem := ((cols.getD n []).getD k none).getD (0, false)
  let rows := (List.range 128).map fun k => (List.range 128).map fun n => cell k n
  { w := rows.zip (List.range 128) |>.foldl (fun m r => mapPut 0 m (128 * r.2) (r.1.map fun e => BitVec.ofNat 16 e.1)) []
    poison := (rows.zip (List.range 128)).flatMap fun r =>
      ((r.1.zip (List.range 128)).filter fun c => c.1.2).map fun c => 128 * r.2 + c.2
    rows := (cols.headD []).countP (·.isSome)
    cols := cols.countP fun c => (c.headD none).isSome
    loaded := true
    fmt := fmt
    scale := scale }

/-- The operands that cells (k, n), k < kv and n < nv, hold, by columns. The descriptor's scale belongs to the weights of
the source; a cell that the load filled with +0 is +0 under every scale, a NaN scale among them, as padding is (R34, R35,
R73; log entry 13). -/
def Bank.columns (b : Bank) (kv nv : Nat) : List (List Term) :=
  let f := (Fmt.ofCode b.fmt.toNat).getD .e4m3
  let rows := (List.range kv).map fun k =>
    ((mapRun 0 b.w (128 * k) nv).zip (List.range nv)).map fun x =>
      ((if k < b.rows ∧ x.2 < b.cols then ((decodeVal f x.1.toNat).scaled b.scale, b.poison.contains (128 * k + x.2))
        else Term.zero) : Term)
  transpose Term.zero nv rows

/-! ### Accumulators (R99 to R104, R108, R109) -/

/-- A sum with its flags and whether it is poison. -/
abbrev Sum := Res × Bool

/-- The column sums of one activation row (R103); poison enters every sum of its products (R449). Products of i8 operands,
for which `int` stands, are +0 where they are zero (R41). -/
def rowSums (n1 int : Bool) (cols : List (List Term)) (act : List Term) : List Sum :=
  cols.map fun col =>
    let ps := act.zip col
    (columnSum n1 (ps.map fun p => let v := FVal.mul p.1.1 p.2.1; if int then v.noMinus else v), ps.any fun p => p.1.2 || p.2.2)

/-- The elements of an accumulator row as they stand. -/
def Engine.accRow (x : Engine) (row nv : Nat) : List Sum :=
  ((mapRun 0 x.acc (128 * row) nv).zip (List.range nv)).map fun e =>
    ((e.1.toNat, .none), x.accPoison.contains (32 * row + e.2 / 4))

/-- Write one accumulator row: `start` is added to each sum where there is one (R104). `fresh` marks a write with
source zero or preload, which clears the poison of words written whole (R109). Answers the flags of the elements that
are not poison (R448). -/
def Engine.writeRow (x : Engine) (n1 : Bool) (row : Nat) (start : Option (List Sum)) (fresh : Bool) (sums : List Sum) :
    Engine × Flags :=
  let nv := sums.length
  let out : List Sum :=
    match start with
    | none => sums
    | some st => (st.zip sums).map fun p => (accAdd n1 p.1.1 p.2.1, p.1.2 || p.2.2)
  let old := mapRun 0 x.acc (128 * row) nv
  let vals := (out.zip old).map fun p => if p.1.2 then p.2 else BitVec.ofNat 32 p.1.1.1
  let words := (nv + 3) / 4
  let poison := (List.range words).foldl
    (fun acc i =>
      if ((out.drop (4 * i)).take 4).any (·.2) then setAdd acc (32 * row + i)
      else if fresh && decide (4 * i + 4 ≤ nv) then setDel acc (32 * row + i)
      else acc) x.accPoison
  ({ x with acc := mapPut 0 x.acc (128 * row) vals, accPoison := poison },
    out.foldl (fun f e => if e.2 then f else Flags.or f e.1.2) .none)

def Engine.tile (x : Engine) (j : Nat) : TileStat := Map.get x.tiles j .reset
def Engine.setTile (x : Engine) (j : Nat) (t : TileStat) : Engine := { x with tiles := Map.put x.tiles j t .reset }

/-- A write by a pass, piece pass, run pass or matrix-vector instruction (R122). -/
def TileStat.written (t : TileStat) (fresh : Bool) (f : Flags) : TileStat :=
  if fresh then { flags := f, count := 1, splitInv := false }
  else { flags := Flags.or t.flags f, count := Nat.min (t.count + 1) 65535, splitInv := false }

/-- One pass over a whole tile range: rows of sums written from accumulator row `first` on, with the status of each tile
they reach. Answers the flags by tile. -/
def Engine.writeRows (x : Engine) (n1 : Bool) (first : Nat) (acc : AccSource) (pre : List (List Sum))
    (rows : List (List Sum)) : Engine × List (Nat × Flags) :=
  let (x1, fl) := (rows.zip (List.range rows.length)).foldl
    (fun (a : Engine × List (Nat × Flags)) r =>
      let row := first + r.2
      let start := match acc with
        | .zero => none
        | .keep => some (a.1.accRow row r.1.length)
        | .preload => some (pre.getD r.2 [])
      let (y, f) := a.1.writeRow n1 row start (acc != .keep) r.1
      (y, a.2 ++ [(row / 128, f)])) (x, [])
  let touched := (List.range 4).filter fun j => fl.any fun e => e.1 = j
  let byTile := touched.map fun j => (j, fl.foldl (fun g e => if e.1 = j then Flags.or g e.2 else g) Flags.none)
  (byTile.foldl (fun y e => y.setTile e.1 ((y.tile e.1).written (acc != .keep) e.2)) x1, byTile)

/-- Slot `up` added into slot `up − 1` over M rows and Nv columns (R115). -/
def Engine.mergeSlots (x : Engine) (n1 : Bool) (up m nv : Nat) : Engine × List (Nat × Flags) :=
  let lo := up - 1
  let (x1, f) := (List.range m).foldl
    (fun (a : Engine × Flags) i =>
      let (y, g) := a.1.writeRow n1 (128 * lo + i) (some (a.1.accRow (128 * lo + i) nv)) false (a.1.accRow (128 * up + i) nv)
      (y, Flags.or a.2 g)) (x, .none)
  let tl := x1.tile lo
  let tu := x1.tile up
  (x1.setTile lo
    { tl with flags := Flags.or tl.flags (Flags.or tu.flags f), count := Nat.min (tl.count + tu.count) 65535 }, [(lo, f)])

/-- Merges from slot `top` down, `n` of them. -/
def Engine.mergeMany (n1 : Bool) (m nv : Nat) : Nat → Nat → Engine × List (Nat × Flags) → Engine × List (Nat × Flags)
  | 0, _, a => a
  | n + 1, top, a =>
    let (y, f) := a.1.mergeSlots n1 top m nv
    Engine.mergeMany n1 m nv n (top - 1) (y, a.2 ++ f)

/-! ### Bit errors of accumulator words (R95, R109)

Word w of engine e's accumulator memory, 32·row + word, stands in `State.upsets` beyond the storage words of memory. -/

def accWordKey (e w : Nat) : Nat := 2 ^ 60 + 16384 * e + w

/-- A word's check as it is read: corrected in place, or marked poisoned with record 0x0202 (R95, R451). -/
def State.mendAccWord (s : State) (e w : Nat) : State :=
  match Map.find s.upsets (accWordKey e w) with
  | none => s
  | some err =>
    let x := s.engine e
    let old := mapRun 0 x.acc (4 * w) 4
    let r := checkWord (wordOf (old.flatMap fun v => leBytes 4 v.toNat)) (x.accPoison.contains w) err
    let s1 :=
      ({ s with upsets := Map.erase s.upsets (accWordKey e w) }).setEngine e
        { x with
          acc := mapPut 0 x.acc (4 * w) ((List.range 4).map fun i => BitVec.ofNat 32 (r.1.toNat / 2 ^ (32 * i)))
          accPoison := if r.2.1 then setAdd x.accPoison w else x.accPoison }
    if r.2.2 = .poisoned then s1.record (bEng e) 0x0202 e 0 (w / 32) else s1

/-- Rows lo to hi − 1, columns below nv, are read. -/
def State.readAcc (s : State) (e lo hi nv : Nat) : State :=
  if s.upsets.isEmpty then s
  else
    (List.range (hi - lo)).foldl
      (fun acc i => (List.range ((nv + 3) / 4)).foldl (fun a j => a.mendAccWord e (32 * (lo + i) + j)) acc) s

/-- They are written afresh: a word written whole is not read, one written in part is (R109). -/
def State.coverAcc (s : State) (e lo hi nv : Nat) : State :=
  if s.upsets.isEmpty then s
  else
    let whole (k : Nat) : Bool :=
      let w := k - accWordKey e 0
      decide (accWordKey e (32 * lo) ≤ k) && decide (k < accWordKey e (32 * hi)) && decide (4 * (w % 32) + 4 ≤ nv)
    ({ s with upsets := s.upsets.filter fun u => !whole u.1 }).readAcc e lo hi nv

/-! ### A pass (R80 to R85, R91, R99 to R105, R115) -/

/-- The numerics mode of an engine (R60, R97). -/
def State.n1Mode (s : State) (e : Nat) : Bool := s.fld (bEng e) 0x100 0 1 = 1

/-- Preload elements of a row, widened (R104). An infinite element is widened by the conversion rules of the stream's
saturation mode, R49's row for it (log entry 20). -/
def State.preloadRow (s : State) (who core : Nat) (t : Tensor) (m nv : Nat) (nonSat : Bool) : State × List Sum :=
  let (s1, row) := s.markedRow who core t 0 nv m
  (s1, row.map fun
    | some (u, bad) => (widenBits (t.format.getD .fp32) u t.scale nonSat, bad)
    | none => ((0, .none), false))

/-- The sums of one pass or piece pass: activation terms against the bank that it names (R55, R80, R82). -/
def Engine.stepSums (x : Engine) (n1 : Bool) (p : PassOp) (piece : Nat) (bank : Bool) (rows : List ElemRow) : List (List Sum) :=
  let cols := (if bank then x.bank1 else x.bank0).columns p.kv p.nv
  rows.map fun r => rowSums n1 (p.act.fmt == 2) cols (if p.compound then pieceTerms p.act piece r else plainTerms p.act r)

/-- Where a pass or piece pass writes, from row `lo` of it on, and what it adds to: the first one by the accumulator source,
a piece pass after it keeps; in a run the slot tile, pushed or added to (R82, R104, R105, R115). -/
def PassOp.target (p : PassOp) (first : Bool) (lo : Nat) : Nat × AccSource :=
  if p.split then (128 * p.slotTile + lo, if first && p.pushes then .zero else .keep)
  else (128 * p.dest + lo, if first then p.acc else .keep)

/-- The merges of a run's pass, and the close of the run after its LAST pass (R115). Where passes of one run name different
sources, the LAST pass's source and preload descriptor are those that the close applies (log entry 92). -/
def Engine.runStep (x : Engine) (n1 : Bool) (p : PassOp) (pre : List (List Sum)) : Engine × List (Nat × Flags) :=
  let a := Engine.mergeMany n1 p.m p.nv p.merges p.slotTile (x, [])
  if !p.last then a
  else
    let open1 := onesOf 5 (p.runIdx + 1)
    let (y, fl) := Engine.mergeMany n1 p.m p.nv (open1 - 1) (p.dest + open1 - 1) a
    let (z, fp) :=
      if p.acc = .preload then
        let (z, f) := (List.range p.m).foldl
          (fun (a : Engine × Flags) i =>
            let (u, g) := a.1.writeRow n1 (128 * p.dest + i) (some (pre.getD i [])) false (a.1.accRow (128 * p.dest + i) p.nv)
            (u, Flags.or a.2 g)) (y, .none)
        let t := z.tile p.dest
        (z.setTile p.dest { t with flags := Flags.or t.flags f }, [(p.dest, f)])
      else (y, [])
    (z.setTile p.dest { z.tile p.dest with splitInv := true }, fl ++ fp)

/-- Flags of an engine's work by tile, in the core sticky status (R58, R59). -/
def State.tileFlags (s : State) (core unit e : Nat) (fl : List (Nat × Flags)) : State :=
  fl.foldl (fun acc x => acc.coreFlags core unit (4 * e + x.1) x.2) s

/-- The first operation of an engine's queue that has not started (R76). -/
def Engine.nextOp (x : Engine) : Option QEntry := x.queue.find? fun q => !q.started

/-- Entries issued before it on the same engine and incomplete. -/
def Engine.before (x : Engine) (q : QEntry) : List QEntry := x.queue.filter fun r => decide (r.seq < q.seq)

/-- The operation names a bank (R78, R82). -/
def EngOp.bankIn (op : EngOp) (bank : Bool) : Bool :=
  match op with
  | .pass p => p.compound || p.bank == bank
  | .load l => l.bank == bank

def EngOp.isPass : EngOp → Bool
  | .pass _ => true
  | .load _ => false

/-- No operation issued earlier has still to access one of the tiles (R81, R111). -/
def State.tilesFree (s : State) (core seq : Nat) (tiles : List (Nat × Nat)) : Bool :=
  (s.pendingOps core).all fun p => decide (seq ≤ p.seq) || p.tiles.all fun t => !tiles.contains t

/-- A pass waits for the loads of its bank (R78). -/
def waitsForLoad (x : Engine) (q : QEntry) (p : PassOp) : Bool := (x.before q).any fun r => !r.op.isPass && r.op.bankIn p.bank

/-- A step of the operation that is not done names the bank. -/
def QEntry.uses (q : QEntry) (bank : Bool) : Bool := q.steps.any fun t => t.bank == bank

/-- A load into a bank, of a load instruction or of a compound pass, waits for the bank to be freed (R79). -/
def bankHeld (x : Engine) (q : QEntry) (bank : Bool) : Bool := (x.before q).any fun r => r.op.isPass && r.uses bank

/-- Such a load may start: every operation before it has started, loads before it are complete, and the bank is free (R76,
R77, R79). -/
def loadMayStart (x : Engine) (q : QEntry) (bank : Bool) : Bool :=
  (x.before q).all (fun r => r.op.isPass && r.allStarted) && !bankHeld x q bank

/-- An engine may start an operation: enabled, not stopped by ARRAY_FAULT or by a fatal error (R93, R95, R446). -/
def State.engineRuns (s : State) (e : Nat) : Bool :=
  s.isEnabled (bEng e) && !(s.engine e).arrayFault && s.siteIssues (e / 32)

/-- Mark an operation started (R91, R97). -/
def Engine.start (x : Engine) (q : QEntry) (backs : List (List ReadBack)) : Engine :=
  { x with
    queue := x.queue.map fun r =>
      if r.seq = q.seq then { r with started := true, num := x.opsStarted.toNat + 1, backs := backs } else r
    opsStarted := x.opsStarted + 1 }

/-- The operation is no pass, or has fed every row (R77). -/
def QEntry.allFed (q : QEntry) : Bool := !q.op.isPass || q.steps.isEmpty

/-- The tiles that the rows of a pass go into, ascending (R81). -/
def PassOp.rowTiles (p : PassOp) : List Nat := if p.split then [p.slotTile] else EngOp.tiles (.pass p)

/-- The first tile that the rows of a pass reach and an earlier operation holds (R81). -/
def State.heldTile (s : State) (e : Nat) (q : QEntry) (p : PassOp) : Option Nat :=
  p.rowTiles.find? fun j => !s.tilesFree (e / 4) q.seq [(e % 4, j)]

/-- How many rows of a pass the feeder can send: those before the first one that goes into a held tile (R81). -/
def State.feedLimit (s : State) (e : Nat) (q : QEntry) (p : PassOp) : Nat :=
  match s.heldTile e q p with
  | none => p.m
  | some j => if p.split then 0 else min p.m (128 * (j - p.dest))

/-- A pass may start: its weights are loaded, the pass before it has fed its rows, and its first row goes into a free tile. A
compound pass starts with its first load (R76 to R78, R81, R82). -/
def State.passMayStart (s : State) (e : Nat) (q : QEntry) (p : PassOp) : Bool :=
  let x := s.engine e
  if p.compound then loadMayStart x q false
  else !waitsForLoad x q p && (x.before q).all QEntry.allFed && decide (0 < s.feedLimit e q p)

/-- Accumulator rows lo to hi − 1 are written over, or read and added to (R95, R109). -/
def State.touchAcc (s : State) (e : Nat) (src : AccSource) (lo hi nv : Nat) : State :=
  if src = .keep then s.readAcc e lo hi nv else s.coverAcc e lo hi nv

/-- Rows `at'` to `at' + n − 1` of a step of a pass are fed, those of a piece pass its activation piece, and `first` of the
first step: reads, sums, writes (R75, R80, R82, R104, R105). -/
def State.feedRows (s : State) (e : Nat) (q : QEntry) (p : PassOp) (piece : Nat) (bank first : Bool) (at' n : Nat) : State :=
  if n = 0 then s
  else
    let core := e / 4
    let who := 8 * core + 6
    let n1 := s.n1Mode e
    let (s1, rows) := s.passRows who core p at' (at' + n)
    let (s2, pre) := match p.preload with
      | some t => if p.split || !first then (s1, []) else s1.collect n fun a m => a.preloadRow who core t (at' + m) p.nv p.satMode
      | none => (s1, [])
    let (row, src) := p.target first at'
    let s3 := s2.touchAcc e src row (row + n) p.nv
    let x := s3.engine e
    let (x1, fl) := x.writeRows n1 row src pre (x.stepSums n1 p piece bank rows)
    let x2 := { x1 with
      activeBank := bank, queue := x1.queue.map fun r => if r.seq = q.seq then { r with fed := r.fed + n } else r }
    (((s3.setEngine e x2).tileFlags core (e % 4) (e % 4) fl).count (bEng e) 0x148 n).count (bEng e) 0x150
      (n * (if p.compound then 2 else feedRate p.act.fmt))

/-- Read-back outcomes of a load in order, `seen` being the rows that have mismatched once: a row is rewritten and counted;
its second mismatch stops the engine (R95). -/
def State.readBacks (s : State) (e : Nat) (seen : List Nat) : List ReadBack → State
  | [] => s
  | b :: more =>
    let row := match b with
      | .retry k => k
      | .fault k => k
    let again := seen.contains row
    let s1 := if again then s else s.count (bEng e) 0x188 1
    if again || b == .fault row then (s1.setEngine e { s1.engine e with arrayFault := true }).record (bEng e) 0x020A e 0 0
    else s1.readBacks e (row :: seen) more

/-- A piece load of a compound pass: the piece of each weight of its Kv rows and Nv columns, +0 elsewhere, tagged bf16 (R54,
R82, R83; log entry 78). It is complete, and counted, unless a row of it stops the engine. -/
def State.pieceLoad (s : State) (e : Nat) (q : QEntry) (p : PassOp) (k : Nat) (bank : Bool) : State :=
  match p.weight with
  | none => s
  | some wt =>
    let (s1, cols) := s.weightColumns (8 * (e / 4) + 6) (e / 4) wt p.orient 0 0 p.kv p.nv
    let b := bankOf (cols.map fun c => c.map fun el => el.map fun u => (piece u.1 k, u.2)) 3 wt.scale
    let x := s1.engine e
    let y := if bank then { x with bank1 := b } else { x with bank0 := b }
    let s2 := (s1.setEngine e
      { y with queue := y.queue.map fun r => if r.seq = q.seq then { r with loads := r.loads + 1, backs := r.backs.drop 1 } else r }).readBacks
      e [] (q.backs.headD [])
    if (s2.engine e).arrayFault then s2 else s2.count (bEng e) 0x178 1

/-- The engine carries a started pass forward through its steps, as far as bank and tiles allow; nothing more happens once a
load has stopped it. A piece pass is complete, and counted, when the next step can begin (R76 to R82, R95). Answers the
operation's entry as it is then. -/
def State.runSteps : Nat → State → Nat → QEntry → PassOp → State × QEntry
  | 0, s, _, q, _ => (s, q)
  | n + 1, s, e, q, p =>
    let x := s.engine e
    if x.arrayFault then (s, q)
    else match q.steps with
    | [] => (s, q)
    | .load k bank :: _ =>
      if bankHeld x q bank then (s, q)
      else State.runSteps n (s.pieceLoad e q p k bank) e { q with loads := q.loads + 1, backs := q.backs.drop 1 } p
    | .pass k bank :: rest =>
      let at' := q.fed % p.m
      let hi := if (x.before q).all QEntry.allFed then s.feedLimit e q p else 0
      let s1 := s.feedRows e q p k bank (decide (q.fed < p.m)) at' (hi - at')
      let q1 := { q with fed := q.fed + (hi - at') }
      if hi < p.m || rest.isEmpty then (s1, q1) else State.runSteps n (s1.count (bEng e) 0x140 1) e q1 p

/-- Steps of the longest operation, fp32x3 (R82). -/
def mostSteps : Nat := 11

/-- PASS_START (R76 to R85, R95, R99 to R105). -/
def execPassStart (start : PassAt) (s : State) : Host.Outcome State Fault Refusal :=
  let e : Nat := start.engine
  let x := s.engine e
  match x.nextOp with
  | some q =>
    match q.op with
    | .pass p =>
      if s.engineRuns e && s.passMayStart e q p then
        .next ((s.setEngine e (x.start q start.readBack)).runSteps mostSteps e { q with started := true, backs := start.readBack } p).1
      else .next s
    | .load _ => .next s
  | none => .next s

/-- Weights that a load writes, with the flags of their expansion (R38, R73, R140). -/
def State.loadCells (s : State) (core : Nat) (l : LoadOp) : State × List ElemRow × Flags :=
  let who := 8 * core + 6
  if l.src.is4 then
    s.expandedColumns who core l.src ((Fmt.ofCode l.target).getD .e4m3) l.orient l.k0 l.n0 l.kw l.nw l.satMode
  else
    let (s1, cols) := s.weightColumns who core l.src l.orient l.k0 l.n0 l.kw l.nw
    (s1, cols, .none)

/-- WEIGHT_LOAD_START (R73, R77, R79, R95): earlier loads are complete, earlier passes have read the bank. -/
def execWeightLoadStart (engine : EngIx) (readBack : List ReadBack) (s : State) : Host.Outcome State Fault Refusal :=
  let e : Nat := engine
  let x := s.engine e
  match x.nextOp with
  | some q =>
    match q.op with
    | .load l =>
      if s.engineRuns e && loadMayStart x q l.bank then
        let (s1, cols, f) := s.loadCells (e / 4) l
        let b := bankOf cols (BitVec.ofNat 4 l.target) l.src.scale
        let x1 := (s1.engine e).start q []
        let s2 := s1.setEngine e (if l.bank then { x1 with bank1 := b } else { x1 with bank0 := b })
        .next ((s2.coreFlags (e / 4) (e % 4) 0 f).readBacks e [] readBack)
      else .next s
    | .pass _ => .next s
  | none => .next s

/-- Take a completed operation out of its queue, and count it at an offset (R91, R97, R98). -/
def State.finishOp (s : State) (e : Nat) (q : QEntry) (off : Nat) : State :=
  let x := s.engine e
  (s.setEngine e { x with queue := x.queue.filter fun r => r.seq ≠ q.seq, opsDone := x.opsDone + 1 }).count (bEng e) off 1

/-- The merges that a run's pass triggers, and the close of its run after the LAST one (R91, R109, R115). -/
def State.runMerges (s : State) (e : Nat) (p : PassOp) : State :=
  if !p.split then s
  else
    let s1 := (EngOp.tiles (.pass p)).foldl (fun acc j => acc.readAcc e (128 * j) (128 * j + p.m) p.nv) s
    let (s2, pre) := match p.preload with
      | some t => if p.last then s1.collect p.m fun a m => a.preloadRow (8 * (e / 4) + 6) (e / 4) t m p.nv p.satMode else (s1, [])
      | none => (s1, [])
    let (x, fl) := (s2.engine e).runStep (s2.n1Mode e) p pre
    (s2.setEngine e x).tileFlags (e / 4) (e % 4) (e % 4) fl

/-- PASS_COMPLETE (R81, R91): the engine takes the steps and the feeder sends the rows that were held back, once bank and
tiles are free; the pass is complete when every row has been written, and of a run once its merges are made. -/
def execPassComplete (engine : EngIx) (s : State) : Host.Outcome State Fault Refusal :=
  let e : Nat := engine
  let x := s.engine e
  if x.arrayFault then .next s
  else
    match x.queue.find? fun q => q.started && q.op.isPass with
    | some q =>
      match q.op with
      | .pass p =>
        let (s1, r) := s.runSteps mostSteps e q p
        if r.steps.isEmpty && s1.tilesFree (e / 4) r.seq (r.tilesLeft.map fun j => (e % 4, j)) then
          .next ((s1.runMerges e p).finishOp e r 0x140)
        else .next s1
      | .load _ => .next s
    | none => .next s

/-- WEIGHT_LOAD_COMPLETE (R73, R91). -/
def execWeightLoadComplete (engine : EngIx) (s : State) : Host.Outcome State Fault Refusal :=
  let e : Nat := engine
  let x := s.engine e
  if x.arrayFault then .next s
  else
    match x.queue.find? fun q => q.started && !q.op.isPass with
    | some q => .next (s.finishOp e q 0x178)
    | none => .next s

/-! ### Matrix-vector instructions (R107, R142, R143) -/

/-- One matrix-vector instruction. Its additions are those of an engine pass, overflow included: R62 and R63 say so of
this path too, against R49's row that gives infinity (log entry 80). -/
def State.runMv (s : State) (core : Nat) (o : MvOp) : State :=
  let who := 8 * core + 5
  let e := 4 * core + o.engine
  let n1 := s.n1Mode e
  let (s1, rows) := s.collect o.m fun a m => a.markedRow who core o.act o.k0 o.kv (o.row0 + m)
  let wf := (Fmt.ofCode (mvWeightFmt o.act.fmt o.weight.fmt)).getD .e4m3
  let (s2, cols, f) :=
    if o.weight.is4 then
      let (a, c, f) := s1.expandedColumns who core o.weight wf true o.k0 o.n0 o.kv o.nv o.satMode
      (a, c.map fun col => col.map fun
        | some (u, bad) => o.weight.term wf u bad
        | none => Term.zero, f)
    else
      let (a, c) := s1.weightColumns who core o.weight true o.k0 o.n0 o.kv o.nv
      (a, c.map (plainTerms o.weight), Flags.none)
  let (s3, pre) := match o.preload with
    | some t => s2.collect o.m fun a m => a.preloadRow who core t m o.nv o.satMode
    | none => (s2, [])
  let sums := rows.map fun r => rowSums n1 (o.act.fmt == 2) cols (plainTerms o.act r)
  let s4 := s3.touchAcc e o.acc (128 * o.tile) (128 * o.tile + o.m) o.nv
  let (x, fl) := (s4.engine e).writeRows n1 (128 * o.tile) o.acc pre sums
  (((s4.setEngine e x).coreFlags core 4 0 f).tileFlags core 4 o.engine fl).count (bCore core) 0x188 o.cycles

/-- MATRIX_VECTOR_START (R111, R142, R143). -/
def execMatrixVectorStart (core : CoreIx) (s : State) : Host.Outcome State Fault Refusal :=
  let c := s.core core
  match c.mvq with
  | (seq, o) :: rest =>
    if s.tilesFree core seq [(o.engine, o.tile)] && s.siteIssues (core / 8) then
      .next ((s.setCore core { c with mvq := rest }).runMv core o)
    else .next s
  | [] => .next s

/-! ### Drains (R120 to R122, R141) -/

/-- The largest of a row's elements: NaN if any is NaN, +0 above −0 (R121). -/
def rowMax : List Nat → Res
  | [] => (0, .none)
  | u :: us => arith32 (us.foldl (fun m v => FVal.max m (f32 v)) (f32 u))

/-- What the drain computes of a row: the values presented to conversion, m, s and the events (R121). -/
structure DrainRow where
  shown : List Nat
  m : Nat
  sum : Nat
  flags : Flags
  deriving DecidableEq, Repr

def drainRow (reduce : Nat) (transform : Bool) (xs : List Nat) : DrainRow :=
  if reduce = 0 then { shown := xs, m := 0, sum := 0, flags := .none }
  else
    let m := rowMax xs
    if reduce = 1 then { shown := xs, m := m.1, sum := 0, flags := m.2 }
    else
      let es := xs.map fun x => let d := sub32 (x, .none) (m.1, .none); let r := exp32 d.1; ((r.1, Flags.or d.2 r.2) : Res)
      let pad := es.map some ++ List.replicate (128 - es.length) none
      let sum := (treeSum add32 7 pad).getD (0, .none)
      { shown := if transform then es.map (·.1) else xs, m := m.1, sum := sum.1, flags := Flags.or m.2 sum.2 }

/-- A field of the tile status word. -/
def statBits (lo v : Nat) : Nat := v * 2 ^ lo

/-- The tile status word (R122) of the shown values, row by row, with poisoned elements left out of every field. -/
def tileWord (o : DrainOp) (t : TileStat) (events : Flags) (rows : List (List Sum)) : Nat :=
  let flat := (rows.zip (List.range rows.length)).flatMap fun r =>
    (r.1.zip (List.range r.1.length)).filterMap fun c => if c.1.2 then none else some (r.2, c.2, c.1.1.1)
  let nans := flat.filter fun x => (f32 x.2.2).isNan
  let infs := flat.filter fun x => (f32 x.2.2).isInf
  let amax := flat.foldl (fun a x => if (f32 x.2.2).isNan then a else Nat.max a (x.2.2 % 2 ^ 31)) 0
  let f := Flags.or t.flags events
  let first := nans.head?.getD (0, 0, 0)
  f.bits + statBits 3 (boolBit (rows.any fun r => r.any (·.2))) + statBits 4 (boolBit t.splitInv)
    + statBits 5 (boolBit !nans.isEmpty) + statBits 8 o.tile + statBits 10 o.engine + statBits 16 (o.rows - 1)
    + statBits 24 (o.cols - 1) + statBits 32 nans.length + statBits 48 infs.length + statBits 64 first.1
    + statBits 72 first.2.1 + statBits 80 t.count + statBits 96 amax

/-- Write one drained row; positions beyond the destination's extents are not written (R141). -/
def State.drainWrite (s : State) (who core : Nat) (o : DrainOp) (i : Nat) (row : List Sum) : State × Flags :=
  let n := if i < o.dst.extent 1 then Nat.min row.length (o.dst.extent 0) else 0
  let dst := o.dst.format.getD .fp32
  let (bs, f) := (row.take n).foldl
    (fun (a : PBytes × Flags) e =>
      let (u, g) := convertScaled (f32 e.1.1) dst o.dst.scale o.truncate o.satMode
      (a.1 ++ (elemBytes dst u).map fun b => (b, e.2), if e.2 then a.2 else Flags.or a.2 g)) ([], .none)
  (if n = 0 then s else s.ownWrite who core (o.dst.addr 0 i 0 0).toNat bs, f)

def State.runDrain (s0 : State) (core : Nat) (o : DrainOp) : State :=
  let who := 8 * core + 4
  let e := 4 * core + o.engine
  let s := s0.readAcc e (128 * o.tile) (128 * o.tile + o.rows) o.cols
  let x := s.engine e
  let raw := (List.range o.rows).map fun i => x.accRow (128 * o.tile + i) o.cols
  let done := raw.map fun r =>
    let d := drainRow o.reduce o.transform (r.map (·.1.1))
    let bad := r.any (·.2)
    (d, ((d.shown.zip r).map fun p => (((p.1, .none), p.2.2 || (o.transform && bad)) : Sum)), bad)
  let (s1, conv) := (done.zip (List.range o.rows)).foldl
    (fun (a : State × Flags) r => let (y, f) := a.1.drainWrite who core o r.2 r.1.2.1; (y, Flags.or a.2 f)) (s, .none)
  let rowEvents := done.foldl (fun f r => if r.2.2 then f else Flags.or f r.1.flags) Flags.none
  let events := Flags.or conv rowEvents
  let t := x.tile o.tile
  let word := tileWord o t events (done.map (·.2.1))
  let side : PBytes :=
    PBytes.clean (leBytes 16 word) ++
      (if o.reduce = 0 then [] else done.flatMap fun r =>
        (leBytes 4 r.1.m ++ leBytes 4 r.1.sum).map fun b => (b, r.2.2))
  let s2 := s1.ownWrite who core o.side side
  let y := s2.engine e
  let s3 := s2.setEngine e (y.setTile o.tile { t with flags := Flags.or t.flags conv })
  s3.coreFlags core 7 (4 * o.engine + o.tile) events

/-- DRAIN_START (R110, R111, R120, R121). -/
def execDrainStart (core : CoreIx) (s : State) : Host.Outcome State Fault Refusal :=
  let c := s.core core
  match c.drainq with
  | (seq, o) :: rest =>
    if s.tilesFree core seq [(o.engine, o.tile)] && s.siteIssues (core / 8) then
      .next ((s.setCore core { c with drainq := rest }).runDrain core o)
    else .next s
  | [] => .next s

/-! ### Long waits (R96) -/

/-- The latest started pass, which the feeder works on (R77). -/
def Engine.feeding (x : Engine) : Option (QEntry × PassOp) :=
  match (x.queue.filter fun q => q.started && q.op.isPass).getLast? with
  | some ⟨seq, .pass p, st, fed, loads, backs, num⟩ => some (⟨seq, .pass p, st, fed, loads, backs, num⟩, p)
  | _ => none

/-- A wait: its kind as the status bit number of R97, the issue number of its operation and the tile it waits for, and the
operation's number since enable. -/
abbrev EngWait := (Nat × Nat × Nat) × Nat

/-- What the next operation of an engine waits for (R97). -/
def State.nextWaits (s : State) (e : Nat) : List EngWait :=
  let x := s.engine e
  match x.nextOp with
  | some q =>
    let n := x.opsStarted.toNat + 1
    match q.op with
    | .load l => if bankHeld x q l.bank then [((5, q.seq, 0), n)] else []
    | .pass p =>
      if p.compound then (if bankHeld x q false then [((5, q.seq, 0), n)] else [])
      else if waitsForLoad x q p then [((6, q.seq, 0), n)]
      else if !(x.before q).all QEntry.allFed then []
      else match s.heldTile e q p with
        | some j => if s.feedLimit e q p = 0 then [((7, q.seq, j), n)] else []
        | none => []
  | none => []

/-- What a started pass waits for: a row withheld for a tile, and the bank of a piece load that is to come next (R79, R81). -/
def State.feedWaits (s : State) (e : Nat) : List EngWait :=
  let x := s.engine e
  match x.feeding with
  | none => []
  | some (q, p) =>
    let bankWait (bank own : Bool) : List EngWait := if bankHeld x q bank || own then [((5, q.seq, 0), q.num)] else []
    match q.steps with
    | .load _ bank :: _ => bankWait bank false
    | .pass _ bank :: rest =>
      (match s.heldTile e q p with
        | some j => if s.feedLimit e q p ≤ q.fed % p.m then [((7, q.seq, j), q.num)] else []
        | none => [])
        ++ match rest with
          | .load _ next :: _ => bankWait next (next == bank)
          | _ => []
    | [] => []

/-- The engine's current waits; where there is none of these, the feeder's for the rows of a started pass that is not complete
(R97; log entry 36). -/
def State.engineWaits (s : State) (e : Nat) : List EngWait :=
  match s.feedWaits e ++ s.nextWaits e with
  | [] => match (s.engine e).feeding with
    | some (q, _) => [((8, q.seq, 0), q.num)]
    | none => []
  | ws => ws

/-- At a turn boundary an engine's current waits are noted; one not seen before began in the turn just ended. What has ended
is forgotten, and WAIT_LONG with it. -/
def State.noteWait (s : State) (e : Nat) : State :=
  let x := s.engine e
  let ws := s.engineWaits e
  let seen := ws.map fun w => (w.1, ((x.waitSeen.find? fun v => v.1 = w.1).map (·.2)).getD (s.elapsed - 1))
  let long := x.waitLong.filter fun k => ws.any fun w => w.1 = k
  if x.waitSeen = seen ∧ x.waitLong = long then s else s.setEngine e { x with waitSeen := seen, waitLong := long }

/-- The turn in which a current wait of an engine began, in turns elapsed. -/
def State.waitStart (s : State) (e : Nat) (k : Nat × Nat × Nat) : Nat :=
  (((s.engine e).waitSeen.find? fun v => v.1 = k).map (·.2)).getD s.elapsed

/-- A current wait that has lasted longer than WAIT_LIMIT turns, as one can from so many boundaries after its own turn on, and
has not set WAIT_LONG yet (R96). -/
def State.overdue (s : State) (e : Nat) : Option EngWait :=
  let x := s.engine e
  let limit := s.fld (bEng e) 0x100 8 16
  if limit = 0 || x.arrayFault then none
  else (s.engineWaits e).find? fun w => !x.waitLong.contains w.1 && decide (s.waitStart e w.1 + limit ≤ s.elapsed)

/-- ENGINE_WAIT_LONG (R96). -/
def execEngineWaitLong (engine : EngIx) (s : State) : Host.Outcome State Fault Refusal :=
  let e : Nat := engine
  let x := s.engine e
  match s.overdue e with
  | some w => .next ((s.setEngine e { x with waitLong := x.waitLong ++ [w.1] }).record (bEng e) 0x0011 e w.1.1 w.2)
  | none => .next s

end Sys2Proof.Machine
end

