-- ==== Sys2Proof/Machine/Mover.lean ====
section
/-! DEFINITION. The stream mover and its prefetchers (R117, R148 to R152, R512). -/

namespace Sys2Proof.Machine

/-! ### Prefetch instructions (R151, R152) -/

def doStartPrefetch (core : Nat) (s : State) (w : Nat) : Issue :=
  match (s.core core).slot (bitsOf w 32 8) with
  | none => .refuse 3
  | some d =>
    match streamRecord d with
    | none => .refuse 9
    | some p =>
      let upto := p.within (p.depth - 1) + 1
      .go ((s.prefetchTo core p upto).setPrefetch core (bitsOf w 8 4) { p with next := upto }) (s.nextPc core)

def doStopPrefetch (core : Nat) (s : State) (w : Nat) : Issue :=
  let c := s.core core
  .go (s.setCore core { c with prefetchers := Map.erase c.prefetchers (bitsOf w 8 4) }) (s.nextPc core)

/-! ### Moves -/

/-- The indices (i1, i2, i3) of a tensor's rows, dimension 1 running fastest. -/
def Tensor.rowIxs (t : Tensor) : List (Nat × Nat × Nat) :=
  (List.range (t.extent 3)).flatMap fun l =>
    (List.range (t.extent 2)).flatMap fun k => (List.range (t.extent 1)).map fun j => (j, k, l)

/-- Rank, space and addresses of a move's descriptor (R132, R134). -/
def moveCheck (t : Tensor) : List Nat :=
  if moveFmt t.fmt && decide (t.rank ≤ 4) && (!t.is4 || decide (t.rank ≤ 2))
    && (if t.physical then inOneRegion t.all else inScratch t.all) then [] else [3]

def sameShape (a b : Tensor) : Bool :=
  a.rank == b.rank && (List.range 4).all fun i => a.extent i == b.extent i

/-- Read bytes for the mover: scratchpad, data cache or non-allocating snoop (R150). -/
def State.moveRead (s : State) (core : Nat) (t : Tensor) (a n : Nat) : State × PBytes :=
  let s0 := if t.physical then s.prefetchAdvance core a n else s
  let (s1, bs) :=
    if !t.physical then s0.ownRead (8 * core + 2) core a n
    else if t.cache then s0.cachedRead (8 * core + 2) core a n
    else s0.readRun (8 * core + 2) a n
  (s1.count (bCore core) 0x190 n, bs)

def State.moveWrite (s : State) (core : Nat) (t : Tensor) (a : Nat) (bs : PBytes) : State :=
  let s1 :=
    if !t.physical then s.ownWrite (8 * core + 2) core a bs
    else if t.cache then s.cachedWrite (8 * core + 2) core a bs
    else s.writeRun (8 * core + 2) a bs
  s1.count (bCore core) 0x198 bs.length

/-- Read every row of a tensor: its elements' encodings with poison. -/
def State.readRows (s : State) (core : Nat) (t : Tensor) : State × List (List Elem) :=
  t.rowIxs.foldl
    (fun (acc : State × List (List Elem)) j =>
      let (s1, bs) := acc.1.moveRead core t (t.addr 0 j.1 j.2.1 j.2.2).toNat (t.extent 0 * t.esize)
      let es := (List.range (t.extent 0)).map fun i =>
        let part : PBytes := (bs.drop (i * t.esize)).take t.esize
        ((leNat part.data, part.anyPoison) : Elem)
      (s1, acc.2 ++ [es])) (s, [])

/-- Write rows of converted elements through a destination, each row by itself: only lines that one row covers whole are full
writes (R51, R117, R148, R250). -/
def State.writeRows (s : State) (core : Nat) (t : Tensor) (trunc nonSat : Bool) (rows : List (List (FVal × Bool))) :
    State × Flags :=
  let dst := t.format.getD .fp32
  let (runs, f) := (t.rowIxs.zip rows).foldl
    (fun (acc : List (Nat × PBytes) × Flags) x =>
      let (bs, g) := x.2.foldl
        (fun (a : PBytes × Flags) e =>
          let (u, g) := convertScaled e.1 dst t.scale trunc nonSat
          (a.1 ++ (elemBytes dst u).map fun b => (b, e.2), if e.2 then a.2 else Flags.or a.2 g)) ([], acc.2)
      (acc.1 ++ [((t.addr 0 x.1.1 x.1.2.1 x.1.2.2).toNat, bs)], g)) ([], .none)
  (runs.foldl (fun acc r => acc.moveWrite core t r.1 r.2) s, f)

/-- The byte runs of a 4-bit tensor: nibbles, then scale bytes (R36, R132). -/
def Tensor.runs4 (t : Tensor) : List (Nat × Nat) :=
  ((List.range (t.extent 1)).map fun j => ((t.addr 0 j 0 0).toNat, (t.extent 0 + 1) / 2))
    ++ (List.range (t.extent 1)).map fun j => ((t.scaleAddr 0 j).toNat, (t.extent 0 + 31) / 32)

/-- Bytes of a tensor's elements and scales. -/
def Tensor.bytes (t : Tensor) : Nat :=
  if t.is4 then t.runs4.foldl (fun n r => n + r.2) 0 else t.rowIxs.length * t.extent 0 * t.esize

/-- Kind and account of a move's side (R214): a scratchpad counts as moves within the tile. -/
def Tensor.moveKind (t : Tensor) (core : Nat) : Nat × Nat :=
  let tile := tileOfSite (core / 8)
  if t.physical then Sys2Proof.Machine.moveKind t.base.toNat tile else (8, aTile tile)

/-- Work of a move: the most expensive kind among its tensors, for the larger of what it reads and what it writes
(DESIGN CHOICE, log entry 25). -/
def moveWork (core : Nat) (srcs : List Tensor) (dst : Tensor) : Work :=
  let k := srcs.foldl (fun a t => let b := t.moveKind core; if a.1 < b.1 then b else a) (dst.moveKind core)
  let n := Nat.max (srcs.foldl (fun n t => n + t.bytes) 0) dst.bytes
  [(k.1, k.2, ceilDiv n 128)]

/-- What a read of a physical tensor waits for: the host window while the link is down (R326). -/
def State.tensorWaits (s : State) (t : Tensor) : Bool :=
  t.physical && (match t.all with
    | some (a, b) => s.hostWaits a.toNat (b - a).toNat
    | none => false)

/-- What a destination in the host window waits for: room in the egress buffer, and where lines of it are read first, in the
data cache, the link (R326, R400, R410). -/
def State.destWaits (s : State) (t : Tensor) : Bool :=
  if t.cache then s.tensorWaits t
  else
    t.physical && (match t.all with
      | some (a, b) => s.hostFull a.toNat (b - a).toNat
      | none => false)

/-! ### What a COMBINE computes (R117, R149) -/

/-- Levels of the tree over s parts. -/
def treeLevels (n : Nat) : Nat := if n ≤ 2 then 1 else if n ≤ 4 then 2 else 3

/-- One element of the parts and the addend combined (R117, R119). -/
def combineElem (n1 tree : Bool) (s : Nat) (parts : List Res) (addend : Option Res) : Res :=
  let r :=
    if tree then (treeSum (accAdd n1) (treeLevels s) (parts.map some ++ List.replicate (s - parts.length) none)).getD (0, .none)
    else match parts with
      | [] => (0, .none)
      | p :: ps => ps.foldl (accAdd n1) p
  match addend with
  | some a => accAdd n1 r a
  | none => r

/-- Column-wise reading of a list of rows read from several tensors. -/
def elemsOf (rows : List (List Elem)) : List Elem := rows.flatMap id

/-- Cut a flat list of elements into rows of n. -/
def chunk {α : Type} (n : Nat) : Nat → List α → List (List α)
  | 0, _ => []
  | k + 1, l => l.take n :: chunk n k (l.drop n)

/-! ### Running a move -/

/-- COPY (R148): every source element is read before the first write. Each row of 4-bit elements is copied in whole bytes,
the unused half of the last one with it (log entry 92). -/
def State.runCopy (s : State) (core : Nat) (o : MoveOp) (src : Tensor) : State × Flags :=
  if src.is4 then
    let (s1, parts) := src.runs4.foldl
      (fun (a : State × List PBytes) r => let (b, x) := a.1.moveRead core src r.1 r.2; (b, a.2 ++ [x])) (s, [])
    (((o.dst.runs4.map (·.1)).zip parts).foldl (fun a r => a.moveWrite core o.dst r.1 r.2) s1, .none)
  else
    let (s1, rows) := s.readRows core src
    let read := rows.map fun r => r.map fun e => (widenVal (src.format.getD .fp32) e.1 src.scale o.satMode, e.2)
    let f1 := read.foldl (fun f r => r.foldl (fun f e => if e.2 then f else Flags.or f e.1.2) f) Flags.none
    let (s2, f2) := s1.writeRows core o.dst o.truncate o.satMode (read.map fun r => r.map fun e => (e.1.1, e.2))
    (s2, Flags.or f1 f2)

/-- COMBINE (R117). Every part is read whole before the first write, so a destination that overlaps a part at another
offset does not change what is combined (log entry 82). -/
def State.runCombine (s : State) (core : Nat) (o : MoveOp) (tree : Bool) (parts : Nat) (addend : Bool) : State × Flags :=
  let n1 := s.fld (bEng (4 * core)) 0x100 0 1 = 1
  let (s1, read) := o.srcs.foldl
    (fun (a : State × List (List (Res × Bool))) t =>
      let (b, rows) := a.1.readRows core t
      (b, a.2 ++ [(elemsOf rows).map fun e => (widenBits .fp32 e.1 t.scale o.satMode, e.2)])) (s, [])
  let n := o.dst.rowIxs.length * o.dst.extent 0
  let zero : Res × Bool := ((0, .none), false)
  let out := (List.range n).map fun i =>
    let xs := read.map fun col => col.getD i zero
    let add := if addend then some (xs.getLast?.getD zero).1 else none
    (combineElem n1 tree parts ((xs.take (o.srcs.length - boolBit addend)).map (·.1)) add, xs.any (·.2))
  let f1 := out.foldl (fun f e => if e.2 then f else Flags.or f e.1.2) Flags.none
  let rows := chunk (o.dst.extent 0) o.dst.rowIxs.length (out.map fun e => (f32 e.1.1, e.2))
  let (s2, f2) := s1.writeRows core o.dst o.truncate o.satMode rows
  (s2, Flags.or f1 f2)

/-- What a move does. -/
def State.runMove (s : State) (core : Nat) (o : MoveOp) : State × Flags :=
  match o.combine, o.srcs with
  | some (tree, parts, addend), _ => s.runCombine core o tree parts addend
  | none, src :: _ => s.runCopy core o src
  | none, [] => (s, .none)

/-- A move whose writes to the host wait for acknowledgement is incomplete until they have it (R150, R399); n writes were in
the egress buffer before it. -/
def State.moveOwes (s : State) (core n : Nat) (o : MoveOp) : State :=
  let s1 := s.ownWrites n (8 * core + 2) (.move core o.seq)
  if s1.owed (.move core o.seq) then s1.setCore core { s1.core core with moves := (s1.core core).moves ++ [o] } else s1

/-- The mover's queue runs as far as it can, in order: a move waits at its head for the host (R123, R326, R400, R410). -/
def State.runMover : Nat → State → Nat → State
  | 0, s, _ => s
  | n + 1, s, core =>
    match (s.core core).moverq with
    | [] => s
    | o :: rest =>
      if !s.siteIssues (core / 8) then s
      else if o.srcs.any s.tensorWaits || s.destWaits o.dst then s.hostStall (8 * core + 2)
      else
        let (s1, f) := (s.setCore core { s.core core with moverq := rest }).runMove core o
        State.runMover n ((s1.moveOwes core s.ncl.egress.length o).coreFlags core 6 0 f) core

/-- Every mover that waits for the host goes on. -/
def State.runMovers (s : State) : State := s.cores.foldl (fun acc e => if e.2.moverq = [] then acc else acc.runMover 16 e.1) s

/-! ### Issuing moves -/

/-- Hand a move to the mover's queue, if nothing stalls it (R123, R157, R159, R216). -/
def State.moveIssue (s : State) (core : Nat) (o : MoveOp) : Issue :=
  let work := moveWork core o.srcs o.dst
  let c := s.core core
  let why := s.stallBits core o.pending (decide (c.moverq.length + c.moves.length < 16)) work
  if why ≠ 0 then .stall why (s.priceHeld core work why)
  else
    let s1 := s.pay core work
    let c1 := s1.core core
    .go ((s1.setCore core { c1 with moverq := c1.moverq ++ [{ o with seq := c.seq }] }).runMover 16 core) (s.nextPc core)

/-- COPY (R148). -/
def doCopy (core : Nat) (s : State) (w : Nat) : Issue :=
  let c := s.core core
  match c.slot (bitsOf w 32 8), c.slot (bitsOf w 40 8) with
  | some sd, some dd =>
    let src := c.tensor sd
    let dst := c.tensor dd
    let codes :=
      moveCheck src ++ moveCheck dst
        ++ (if sameShape src dst && ((!src.is4 && !dst.is4) || src.fmt == dst.fmt) then [] else [4])
    match leastCode codes with
    | some code => .refuse code
    | none =>
      s.moveIssue core { seq := 0, srcs := [src], dst := dst, combine := none, truncate := bitOf w 8, satMode := c.satMode }
  | _, _ => .refuse 3

/-- COMBINE (R149). A present part whose slot would lie beyond slot 255 is a descriptor error (log entry 92). -/
def doCombine (core : Nat) (s : State) (w : Nat) : Issue :=
  let c := s.core core
  let tree := bitOf w 9
  let parts := bitsOf w 10 3 + 1
  let present := bitsOf w 13 3 + 1
  let pdesc := bitsOf w 32 8
  let addend := bitOf w 16
  let slotOf (i : Nat) : Option Nat := if i ≤ 255 then c.slot i else none
  let want := (List.range (Nat.min present parts)).map fun i => slotOf (pdesc + i)
  let dslot := c.slot (bitsOf w 40 8)
  let aslot := if addend then c.slot (bitsOf w 48 8) else some 0
  let ps := want.map fun o => c.tensor (o.getD 0)
  let dst := c.tensor (dslot.getD 0)
  let first := ps.getD 0 dst
  let srcs := ps ++ (if addend then [c.tensor (aslot.getD 0)] else [])
  let codes :=
    (if want.all (·.isSome) && dslot.isSome && aslot.isSome then [] else [3])
      ++ srcs.flatMap moveCheck ++ moveCheck dst
      ++ (if srcs.all (fun t => t.fmt == 5 && sameShape t first) && sameShape dst first && !dst.is4
            && decide (2 ≤ parts)
            && (if tree then (parts == 2 || parts == 4 || parts == 8) && decide (present ≤ parts) else present == parts)
          then [] else [4])
  match leastCode codes with
  | some code => .refuse code
  | none =>
    s.moveIssue core
      { seq := 0, srcs := srcs, dst := dst, combine := some (tree, parts, addend), truncate := bitOf w 8, satMode := c.satMode }

/-- COPY (R148). -/
def execCopy (core : CoreIx) (s : State) : Host.Outcome State Fault Refusal := .next (s.issue core .copy (doCopy core))
/-- COMBINE (R117, R149). -/
def execCombine (core : CoreIx) (s : State) : Host.Outcome State Fault Refusal := .next (s.issue core .combine (doCombine core))
/-- START_PREFETCH (R151, R152). -/
def execStartPrefetch (core : CoreIx) (s : State) : Host.Outcome State Fault Refusal :=
  .next (s.issue core .startPrefetch (doStartPrefetch core))
/-- STOP_PREFETCH (R151). -/
def execStopPrefetch (core : CoreIx) (s : State) : Host.Outcome State Fault Refusal :=
  .next (s.issue core .stopPrefetch (doStopPrefetch core))

end Sys2Proof.Machine
end

