-- ==== Sys2Proof/Machine/Journal.lean ====
section
/-! DEFINITION. The replay journal, and what the save engine does at a turn boundary (R254, R257, R262, R266). -/

namespace Sys2Proof.Machine

def saveWho : Nat := 0x1130

def State.setSave (s : State) (x : Save) : State := { s with save := x }
def State.jrnBase (s : State) : Nat := s.fld bSav 0x158 7 45 * 128
def State.jrnLen (s : State) : Nat := s.fld bSav 0x160 0 32

/-- Work of writing bytes (R253). -/
def saveWork (bytes : Nat) : Work := [(13, aHub, ceilDiv bytes 128)]

/-- Pay for bytes written (R253). -/
def State.savePay (s : State) (bytes : Nat) : Option State := s.tryCharge pSave (saveWork bytes)
def State.saveHold (s : State) (bytes : Nat) : State := s.holdPrice pSave (saveWork bytes)

/-- The oldest journal entry in the ring. -/
def State.jrnOldest (s : State) : Nat := max s.save.jrnFirstHeld.toNat (s.save.jrnNext.toNat - s.jrnLen)

/-- Address of a journal entry (R262). -/
def State.jrnAddr (s : State) (q : Nat) : Nat := s.jrnBase + 128 * (q % max 1 s.jrnLen)

/-- The least protected sequence number: one more than the smaller JRN_LAST_SEQ of two valid slots, else 0 (R262). -/
def Save.jrnProtected (x : Save) : Nat :=
  match x.slot0, x.slot1 with
  | some a, some b => min ((a.2 + 1).toNat) ((b.2 + 1).toNat)
  | _, _ => 0

/-- An append of sequence number q has room: it overwrites no protected entry (R262). -/
def State.jrnRoom (s : State) (q : Nat) : Bool :=
  let len := s.jrnLen
  len != 0 && (decide (q < s.save.jrnFirstHeld.toNat + len) || decide (q < len) || decide (q - len < s.save.jrnProtected))

/-- Write one entry: SEQ and TURN are the engine's (R262, R266). -/
def State.jrnWrite (s : State) (entry : List Byte) : State :=
  let q := s.save.jrnNext.toNat
  let line := leBytes 8 q ++ fitBytes entry 16 ++ leBytes 8 s.turn ++ fitBytes (entry.drop 16) 96
  let s1 := s.writeRun saveWho (s.jrnAddr q) (.clean line)
  s1.setSave { s1.save with jrnNext := s1.save.jrnNext + 1 }

/-- Write one entry if its price is covered (R216, R253). -/
def State.jrnAppend (s : State) (entry : List Byte) : Option State := (s.savePay 128).map fun s1 => s1.jrnWrite entry

/-- Write the appends that wait, in order, while their prices are covered. -/
def State.drainAppends : List (List Byte) → State → State
  | [], s => s.setSave { s.save with appends := [] }
  | e :: es, s =>
    match s.jrnAppend e with
    | some s1 => State.drainAppends es s1
    | none => (s.saveHold 128).setSave { s.save with appends := e :: es }

/-- Write what can be written of the appends that wait: nothing after a fatal error (R446, R447). -/
def State.runAppends (s : State) (entries : List (List Byte)) : State :=
  if s.power.issueStopped then s.setSave { s.save with appends := entries } else State.drainAppends entries s

/-- Take a runtime append, and write what can be written. -/
def State.takeAppend (s : State) (entry : List Byte) : State := s.runAppends (s.save.appends ++ [entry])

/-- tc and what a save captures with it: at the first boundary after the grant (R256, R257). -/
def State.captureBoundary (s : State) : State :=
  let x := s.save
  if (x.granted || x.stage == .started) && x.captureTurn.isNone then
    s.setSave
      { x with
        captureTurn := some s.turns.now, captureJrn := x.jrnNext.toNat, captureDigest := s.loader.digest
        captureJob := s.loader.jobId, captureFloor := s.floor }
  else s

/-- The save engine at a turn boundary, with the turn's allotment in hand. -/
def State.saveBoundary (s : State) : State :=
  let s1 := s.captureBoundary
  if s1.save.appends = [] then s1 else s1.runAppends s1.save.appends

end Sys2Proof.Machine
end

