-- ==== Sys2Proof/Machine/Shake.lean ====
section
/-! DEFINITION. SHAKE256 and SHAKE128 (FIPS 202), which R164, R165, R166, R256, R469, R470 and R471 name, or ML-DSA-65 uses
(log entry 14). -/

namespace Sys2Proof.Machine

/-- Lane (x, y) of a Keccak state stands at 5 · y + x. -/
abbrev Keccak := List (BitVec 64)

def lane (a : Keccak) (x y : Nat) : BitVec 64 := a.getD (5 * (y % 5) + x % 5) 0

/-- The walk of ρ from lane (1, 0): step t turns its lane by (t + 1)(t + 2) ÷ 2 and goes on to lane (y, 2x + 3y). Answers
the turn of lane (x, y), or 0 for the one lane, (0, 0), that the walk never meets. -/
def rhoTurn (x y : Nat) : Nat → Nat × Nat → Nat → Nat
  | 0, _, _ => 0
  | n + 1, p, t => if p = (x, y) then (t + 1) * (t + 2) / 2 % 64 else rhoTurn x y n (p.2, (2 * p.1 + 3 * p.2) % 5) (t + 1)

/-- Rotations of ρ, lane by lane. -/
def rhoTurns : List Nat := (List.range 25).map fun i => rhoTurn (i % 5) (i / 5) 24 (1, 0) 0

/-- The shift register on x⁸ + x⁶ + x⁵ + x⁴ + 1 that ι draws its bits from. -/
def iotaShift (r : Nat) : Nat := if r < 128 then 2 * r else (2 * r - 256) ^^^ 0x71

/-- One round's constant: seven bits of the register, at places 2^j − 1; and the register as it then stands. -/
def iotaWord : Nat → Nat → Nat → Nat × Nat
  | 0, _, r => (0, r)
  | n + 1, j, r => let (w, r1) := iotaWord n (j + 1) (iotaShift r); (w + r % 2 * 2 ^ (2 ^ j - 1), r1)

/-- The constants of the rounds to come. -/
def iotaWords : Nat → Nat → List (BitVec 64)
  | 0, _ => []
  | n + 1, r => let (w, r1) := iotaWord 7 0 r; BitVec.ofNat 64 w :: iotaWords n r1

/-- The 25 positions (x, y) in order. -/
def laneIxs : List (Nat × Nat) := (List.range 25).map fun i => (i % 5, i / 5)

def theta (a : Keccak) : Keccak :=
  let c := (List.range 5).map fun x => lane a x 0 ^^^ lane a x 1 ^^^ lane a x 2 ^^^ lane a x 3 ^^^ lane a x 4
  let d := (List.range 5).map fun x => c.getD ((x + 4) % 5) 0 ^^^ (c.getD ((x + 1) % 5) 0).rotateLeft 1
  (a.zip laneIxs).map fun p => p.1 ^^^ d.getD p.2.1 0

/-- ρ and π: lane (x, y), rotated, moves to (y, 2x + 3y); position (x, y) takes lane (x + 3y, x). -/
def rhoPi (a : Keccak) : Keccak :=
  let r := (a.zip rhoTurns).map fun p => p.1.rotateLeft p.2
  laneIxs.map fun p => lane r (p.1 + 3 * p.2) p.1

def chi (a : Keccak) : Keccak :=
  laneIxs.map fun p => lane a p.1 p.2 ^^^ (~~~ lane a (p.1 + 1) p.2 &&& lane a (p.1 + 2) p.2)

def iota (rc : BitVec 64) : Keccak → Keccak
  | [] => []
  | x :: xs => (x ^^^ rc) :: xs

/-- Keccak-f[1600]. -/
def keccakF (a : Keccak) : Keccak := (iotaWords 24 1).foldl (fun b rc => iota rc (chi (rhoPi (theta b)))) a

/-- Rates of SHAKE256 and SHAKE128 in bytes. -/
def rate256 : Nat := 136
def rate128 : Nat := 168

/-- Absorb one block of the rate. -/
def absorb (a : Keccak) (block : List Byte) : Keccak :=
  keccakF ((a.zip (List.range 25)).map fun p => p.1 ^^^ BitVec.ofNat 64 (leNat ((block.drop (8 * p.2)).take 8)))

/-- Absorb every whole block, then the padded last one: suffix 1111, pad10*1. -/
def absorbAll (rate : Nat) : Nat → Keccak → List Byte → Keccak
  | 0, a, _ => a
  | n + 1, a, bs =>
    if bs.length < rate then
      let pad := bs ++ [0x1F] ++ List.replicate (rate - 1 - bs.length) 0
      absorb a (pad.take (rate - 1) ++ [pad.getD (rate - 1) 0 ||| 0x80])
    else absorbAll rate n (absorb a (bs.take rate)) (bs.drop rate)

/-- Squeeze blocks of output. -/
def squeeze (rate : Nat) : Nat → Keccak → List Byte
  | 0, _ => []
  | n + 1, a => (a.take (rate / 8)).flatMap (fun l => leBytes 8 l.toNat) ++ squeeze rate n (keccakF a)

/-- Output of `n` bytes at a rate. -/
def shake (rate : Nat) (bs : List Byte) (n : Nat) : List Byte :=
  (squeeze rate (n / rate + 1) (absorbAll rate (bs.length / rate + 1) (List.replicate 25 0) bs)).take n

def shake256 (bs : List Byte) (n : Nat) : List Byte := shake rate256 bs n
def shake128 (bs : List Byte) (n : Nat) : List Byte := shake rate128 bs n

end Sys2Proof.Machine
end

