-- ==== Sys2Proof/Machine/MlDsa.lean ====
section
/-! DEFINITION. ML-DSA-65 (FIPS 204, pure mode, empty context string), which R166, R465, R469, R470 and R472 name: key
generation, signing and verification (log entry 96). Coefficients are numbers below the modulus. -/

namespace Sys2Proof.Machine.MlDsa

/-! ### Parameters -/

/-- The modulus q, and the roots that the transform uses: 1,753 has order 512. -/
def modulus : Nat := 8380417
def root : Nat := 1753
/-- Dropped bits d, weight τ of a challenge, range γ1 of the mask, low-order range γ2, matrix of k rows by l columns, range η
of the secrets, β = τ · η, hints ω, bytes of the challenge's hash. -/
def dropped : Nat := 13
def weight : Nat := 49
def maskRange : Nat := 2 ^ 19
def lowRange : Nat := 261888
def rows : Nat := 6
def cols : Nat := 5
def secretRange : Nat := 4
def slack : Nat := 196
def maxHints : Nat := 55
def challengeBytes : Nat := 48

/-- 256 coefficients. -/
abbrev Poly := List Nat

/-- A number modulo q, of an integer. -/
def ofInt (z : Int) : Nat := (z % (modulus : Int)).toNat

/-- The representative of x modulo m in (−m/2, m/2]. -/
def centred (m x : Nat) : Int := let r := x % m; if m / 2 < r then (r : Int) - (m : Int) else (r : Int)

/-- The greatest magnitude of a coefficient. -/
def normOf (p : Poly) : Nat := p.foldl (fun n x => max n (centred modulus x).natAbs) 0

/-! ### Polynomials and the transform -/

def add (a b : Poly) : Poly := List.zipWith (fun x y => (x + y) % modulus) a b
def sub (a b : Poly) : Poly := List.zipWith (fun x y => (x + modulus - y) % modulus) a b
def mulEach (a b : Poly) : Poly := List.zipWith (fun x y => x * y % modulus) a b
def scale (c : Nat) (a : Poly) : Poly := a.map fun x => c * x % modulus

/-- x to a power, modulo q, by its binary digits. -/
def powMod : Nat → Nat → Nat → Nat
  | 0, _, _ => 1
  | fuel + 1, x, n => let r := powMod fuel (x * x % modulus) (n / 2); if n % 2 = 1 then r * x % modulus else r

/-- The low n bits of x in reverse order. -/
def reversed : Nat → Nat → Nat
  | 0, _ => 0
  | n + 1, x => x % 2 * 2 ^ n + reversed n (x / 2)

/-- The root of node m of the transform's tree, and its inverse. -/
def zeta (m : Nat) : Nat := powMod 9 root (reversed 8 m)
def zetaInv (m : Nat) : Nat := powMod 10 root (512 - reversed 8 m)

/-- The transform below node m, on 2^n coefficients: halves a and b become a + ζb and a − ζb. -/
def nttFrom : Nat → Nat → Poly → Poly
  | 0, _, w => w
  | n + 1, m, w =>
    let a := w.take (2 ^ n)
    let b := scale (zeta m) (w.drop (2 ^ n))
    nttFrom n (2 * m) (add a b) ++ nttFrom n (2 * m + 1) (sub a b)

def ntt (w : Poly) : Poly := nttFrom 8 1 w

/-- The transform undone, but for a factor 2^n. -/
def inttFrom : Nat → Nat → Poly → Poly
  | 0, _, w => w
  | n + 1, m, w =>
    let a := inttFrom n (2 * m) (w.take (2 ^ n))
    let b := inttFrom n (2 * m + 1) (w.drop (2 ^ n))
    add a b ++ scale (zetaInv m) (sub a b)

/-- 1/256 modulo q. -/
def intt (w : Poly) : Poly := scale 8347681 (inttFrom 8 1 w)

/-- A matrix times a vector, all transformed. -/
def matVec (a : List (List Poly)) (v : List Poly) : List Poly :=
  a.map fun row => (List.zipWith mulEach row v).foldl add (List.replicate 256 0)

/-! ### Sampling -/

/-- The 23-bit numbers of the bytes, three at a time, that lie below q. -/
def below : List Byte → List Nat
  | a :: b :: c :: bs =>
    let z := a.toNat + b.toNat * 256 + c.toNat % 128 * 65536
    if z < modulus then z :: below bs else below bs
  | _ => []

/-- A uniform polynomial: 560 candidates of which 256 are taken. -/
def uniform (seed : List Byte) : Poly := (below (shake128 seed 1680)).take 256

/-- The matrix of a seed, transformed. -/
def expandMatrix (rho : List Byte) : List (List Poly) :=
  (List.range rows).map fun r => (List.range cols).map fun c => uniform (rho ++ leBytes 1 c ++ leBytes 1 r)

/-- A small polynomial: of each half byte below 9, four less it. -/
def small (seed : List Byte) : Poly :=
  (((shake256 seed 680).flatMap fun b => [b.toNat % 16, b.toNat / 16]).filterMap fun (z : Nat) =>
    if z < 9 then some (ofInt (4 - (z : Int))) else none).take 256

/-- n small polynomials, of the numbers from i on. -/
def smallFrom (seed : List Byte) (i n : Nat) : List Poly := (List.range n).map fun r => small (seed ++ leBytes 2 (i + r))

/-- The challenge's places: place i takes what place j held, j the next byte not above i, and j takes 1 or −1 by a sign
bit. -/
def placeSigns : Nat → Nat → Nat → List Byte → Poly → Poly
  | 0, _, _, _, c => c
  | n + 1, i, signs, bs, c =>
    match bs.dropWhile fun b => decide (i < b.toNat) with
    | [] => c
    | b :: rest =>
      let j := b.toNat
      placeSigns n (i + 1) (signs / 2) rest ((c.set i (c.getD j 0)).set j (if signs % 2 = 1 then modulus - 1 else 1))

/-- The challenge of a hash: 49 coefficients of 1 or −1. -/
def challenge (hash : List Byte) : Poly :=
  let h := shake256 hash 544
  placeSigns weight (256 - weight) (leNat (h.take 8)) (h.drop 8) (List.replicate 256 0)

/-! ### Rounding and hints -/

/-- Power2Round: r = 2^13 · r1 + r0. -/
def power2Round (r : Nat) : Nat × Int :=
  let r0 := centred (2 ^ dropped) r
  ((((r : Int) - r0) / (2 ^ dropped : Int)).toNat, r0)

/-- Decompose: r = 2 · γ2 · r1 + r0, but r1 is 0 at the top. -/
def decompose (r : Nat) : Nat × Int :=
  let r0 := centred (2 * lowRange) r
  if (r : Int) - r0 = (modulus : Int) - 1 then (0, r0 - 1) else ((((r : Int) - r0) / (2 * lowRange : Int)).toNat, r0)

def highBits (p : Poly) : List Nat := p.map fun r => (decompose r).1
def lowNorm (p : Poly) : Nat := p.foldl (fun n r => max n (decompose r).2.natAbs) 0

/-- UseHint. -/
def useHint (h : Bool) (r : Nat) : Nat :=
  let (r1, r0) := decompose r
  if !h then r1 else if 0 < r0 then (r1 + 1) % 16 else (r1 + 15) % 16

/-! ### Encodings -/

/-- Fields of b bits each, the first lowest; 256 of them fill whole bytes. -/
def pack (b : Nat) (l : List Nat) : List Byte := leBytes (l.length * b / 8) (l.foldr (fun x n => x + 2 ^ b * n) 0)

def unpackFrom (b : Nat) : Nat → Nat → List Nat
  | 0, _ => []
  | n + 1, w => w % 2 ^ b :: unpackFrom b n (w / 2 ^ b)

/-- 256 fields of b bits. -/
def unpack (b : Nat) (bs : List Byte) : List Nat := unpackFrom b 256 (leNat (bs.take (32 * b)))

/-- γ1 less a field of 20 bits. -/
def unpackMask (bs : List Byte) : Poly := (unpack 20 bs).map fun (x : Nat) => ofInt ((maskRange : Int) - (x : Int))
def packMask (p : Poly) : List Byte := pack 20 (p.map fun x => ((maskRange : Int) - centred modulus x).toNat)

def packHigh (w : List (List Nat)) : List Byte := w.flatMap (pack 4)

/-- HintBitPack: the places of the hints, polynomial by polynomial, and where each one's end. -/
def packHints (h : List (List Nat)) : List Byte :=
  let places := h.flatMap fun p => p
  let ends := (List.range rows).map fun i => (h.take (i + 1)).foldl (fun n p => n + p.length) 0
  (places ++ List.replicate (maxHints - places.length) 0 ++ ends).map (BitVec.ofNat 8)

def rising : List Nat → Bool
  | a :: b :: l => decide (a < b) && rising (b :: l)
  | _ => true

/-- The hint places of the polynomials whose ends these are, from a position on; none where an end goes back or beyond 55, or
places do not rise. -/
def hintsFrom (places : List Nat) : Nat → List Nat → Option (List (List Nat))
  | i, [] => if (places.drop i).all (· == 0) then some [] else none
  | i, e :: ends =>
    let p := (places.drop i).take (e - i)
    if i ≤ e && decide (e ≤ maxHints) && rising p then (hintsFrom places e ends).map (p :: ·) else none

/-- HintBitUnpack. -/
def unpackHints (bs : List Byte) : Option (List (List Nat)) :=
  let v := (bs.take (maxHints + rows)).map (·.toNat)
  hintsFrom (v.take maxHints) 0 (v.drop maxHints)

/-! ### Keys (KeyGen_internal) -/

structure Secret where
  rho : List Byte
  key : List Byte
  pub : List Byte
  s1 : List Poly
  s2 : List Poly
  t0 : List Poly
  deriving DecidableEq, Repr

/-- The key pair of a 32-byte seed; the secret holds the public key of 1,952 bytes. -/
def keyPair (seed : List Byte) : Secret :=
  let h := shake256 (seed ++ leBytes 1 rows ++ leBytes 1 cols) 128
  let rho := h.take 32
  let s1 := smallFrom ((h.drop 32).take 64) 0 cols
  let s2 := smallFrom ((h.drop 32).take 64) cols rows
  let t := List.zipWith add ((matVec (expandMatrix rho) (s1.map ntt)).map intt) s2
  { rho := rho, key := (h.drop 96).take 32, s1 := s1, s2 := s2, t0 := t.map fun p => p.map fun r => ofInt (power2Round r).2
    pub := rho ++ t.flatMap fun p => pack 10 (p.map fun r => (power2Round r).1) }

def publicKey (seed : List Byte) : List Byte := (keyPair seed).pub

/-- The representative of a message under a public key. -/
def messageHash (pub msg : List Byte) : List Byte := shake256 (shake256 pub 64 ++ leBytes 1 0 ++ leBytes 1 0 ++ msg) 64

/-! ### Signing (Sign_internal) -/

/-- One attempt with the mask of a number: the signature, unless it is rejected. -/
def attempt (k : Secret) (a : List (List Poly)) (mu mask : List Byte) (kappa : Nat) : Option (List Byte) :=
  let y := (List.range cols).map fun r => unpackMask (shake256 (mask ++ leBytes 2 (kappa + r)) 640)
  let w := (matVec a (y.map ntt)).map intt
  let hash := shake256 (mu ++ packHigh (w.map highBits)) challengeBytes
  let c := ntt (challenge hash)
  let times (p : Poly) : Poly := intt (mulEach c (ntt p))
  let z := List.zipWith (fun m p => add m (times p)) y k.s1
  let v := List.zipWith (fun x p => sub x (times p)) w k.s2
  let ct0 := k.t0.map times
  let hints := List.zipWith
    (fun x p => (List.range 256).filter fun i =>
      decide ((decompose (x.getD i 0)).1 ≠ (decompose ((x.getD i 0 + p.getD i 0) % modulus)).1)) v ct0
  if (z.any fun p => decide (maskRange - slack ≤ normOf p)) || (v.any fun p => decide (lowRange - slack ≤ lowNorm p))
      || (ct0.any fun p => decide (lowRange ≤ normOf p)) || decide (maxHints < (hints.flatMap fun p => p).length) then none
  else some (hash ++ z.flatMap packMask ++ packHints hints)

/-- The first attempt of n that is not rejected. -/
def attempts (k : Secret) (a : List (List Poly)) (mu mask : List Byte) : Nat → Nat → Option (List Byte)
  | 0, _ => none
  | n + 1, kappa =>
    match attempt k a mu mask kappa with
    | some g => some g
    | none => attempts k a mu mask n (kappa + cols)

/-- The 3,309-byte signature of a message under the key pair of a seed, with 32 random bytes; none after 814 attempts. -/
def sign (seed msg random : List Byte) : Option (List Byte) :=
  let k := keyPair seed
  let mu := messageHash k.pub msg
  attempts k (expandMatrix k.rho) mu (shake256 (k.key ++ random ++ mu) 64) 814 0

/-! ### Verification (Verify_internal) -/

def verify (pub msg sig : List Byte) : Bool :=
  let hash := sig.take challengeBytes
  let z := (List.range cols).map fun i => unpackMask (sig.drop (challengeBytes + 640 * i))
  let t1 := (List.range rows).map fun i => unpack 10 (pub.drop (32 + 320 * i))
  match unpackHints (sig.drop (challengeBytes + 640 * cols)) with
  | none => false
  | some h =>
    let c := ntt (challenge hash)
    let az := matVec (expandMatrix (pub.take 32)) (z.map ntt)
    let w := List.zipWith (fun x p => intt (sub x (mulEach c (ntt (scale (2 ^ dropped) p))))) az t1
    let w1 := List.zipWith (fun x p => (List.range 256).map fun i => useHint (p.contains i) (x.getD i 0)) w h
    (z.all fun p => decide (normOf p < maskRange - slack))
      && hash == shake256 (messageHash pub msg ++ packHigh w1) challengeBytes

end Sys2Proof.Machine.MlDsa
end

