-- ==== Sys2Proof/Machine/Loader.lean ====
section
/-! DEFINITION. The layout loader: verifying an image (R163 to R177, R287, R469, R473) and loading its sections
(R178 to R184). -/

namespace Sys2Proof.Machine

/-- A directory entry: offset, length, digest (R164). -/
abbrev DirLine := Nat × Nat × List Byte

def layoutMagic : Nat := 0x594C464E
def priceMagic : Nat := 0x5250464E
def imageMax : Nat := 64 * 2 ^ 20
def signatureBlock : Nat := 3392

/-- The bytes of a range. -/
def slice (bs : List Byte) (off n : Nat) : List Byte := (bs.drop off).take n

/-! ### The container (R163 to R166) -/

def imageLength (h : List Byte) : Nat := fieldLe h 16 8
def bodyLength (h : List Byte) : Nat := fieldLe h 8 8
def imageSigned (h : List Byte) : Bool := bitOf (fieldLe h 32 4) 0

/-- The header is valid (R163). R182 has two codes that fit an IMAGE_LENGTH other than the header's lengths give; the model
counts it among the header's lengths, code 0x01 (log entry 93). -/
def headerOk (h : List Byte) : Bool :=
  let body := bodyLength h
  fieldLe h 0 4 == layoutMagic && fieldLe h 4 2 == 1 && fieldLe h 6 2 == 9 && body % 64 == 0 && decide (704 ≤ body)
    && imageLength h == body + 64 + (if imageSigned h then signatureBlock else 0)
    && decide (fieldLe h 32 4 ≤ 1) && zeroRange h 36 92

/-- The regions that hold images (R163). -/
def inImageMemory (a n : Nat) : Bool := inRegion .hbm a n || inRegion .lpx a n || inRegion .sram a n

def dirLine (img : List Byte) (i : Nat) : DirLine :=
  let e := slice img (128 + 64 * i) 64
  (fieldLe e 8 8, fieldLe e 16 8, slice e 32 32)

def dirLines (img : List Byte) : List DirLine := (List.range 9).map (dirLine img)

/-- Sections in ascending order without overlap, inside the body, zero bytes between them (R164). -/
def dirFrom (img : List Byte) (body : Nat) : Nat → List DirLine → Bool
  | at0, [] => zeroRange img at0 (body - at0)
  | at0, (off, len, _) :: rest =>
    off % 64 == 0 && decide (at0 ≤ off) && decide (off + len ≤ body) && zeroRange img at0 (off - at0)
      && dirFrom img body (off + len) rest

def strictRising : List Nat → Bool
  | a :: b :: l => decide (a < b) && strictRising (b :: l)
  | _ => true

def dirOk (img : List Byte) : Bool :=
  ((List.range 9).all fun i =>
    let e := slice img (128 + 64 * i) 64
    fieldLe e 0 2 == i + 1 && fieldLe e 2 2 == 1)
    && dirFrom img (bodyLength img) 704 (dirLines img) && strictRising ((dirLines img).map (·.1))

/-- The layout signature policy (R166, R469). -/
def State.signatureOk (s : State) (signed : Bool) (digest block : List Byte) (clean : Bool) : Bool :=
  if !signed then !s.security.requireSigned
  else
    clean && fieldLe block 32 4 == 3309
      && (s.security.signers.take s.security.keyCount).any fun key =>
        shake256 key 32 == slice block 0 32 && MlDsa.verify key digest (slice block 64 3309)

/-! ### Section content (R168 to R174, R213, R287) -/

/-- Site of each logical die, in order (R168). -/
def mapBytes (d : List Byte) : List Nat := (d.take 48).map (·.toNat)

def dieMapOk (s : State) (d : List Byte) : Bool :=
  let m := mapBytes d
  d.length == 64
    && ((m.zip (List.range 48)).all fun x => x.1 / 13 == x.2 / 12 && decide (x.1 < 52) && (s.site x.1).status != .quarantined)
    && ((List.range 52).all fun site => decide ((m.filter (· == site)).length ≤ 1))

/-- Used cores: logical core, stage and stream base (R170). -/
def stageEntries (d : List Byte) : List (Nat × Nat × Nat) :=
  (List.range 384).filterMap fun c =>
    let e := slice d (64 + 16 * c) 16
    if fieldLe e 0 2 = 0xFFFF then none else some (c, fieldLe e 0 2, fieldLe e 8 8)

def stagesOk (d : List Byte) : Bool :=
  d.length == 6208
    && (stageEntries d).all fun x => decide (x.2.1 ≤ 383) && x.2.2 % 64 == 0 && decide (x.2.2 < 2 ^ 52)

def routesOk (d : List Byte) : Bool :=
  let vc := (slice d 8 6).map (·.toNat)
  d.length == 64 && (slice d 0 8).all (fun b => decide (b.toNat ≤ 1)) && vc.all (fun v => decide (v ≤ 3))
    && vc.getD 1 0 != vc.getD 2 0 && vc.getD 1 0 != vc.getD 3 0 && vc.getD 2 0 != vc.getD 3 0

/-- 0 or a power of two (R287). -/
def zeroOrPow2 (n : Nat) : Bool := n == 0 || (List.range 9).any fun k => n == 2 ^ k

def banksOk (d : List Byte) : Bool :=
  d.length == 13312
    && (List.range 4).all fun t =>
      let modes := (slice d (256 * t) 256).map fun b => b.toNat % 4
      modes.all (· != 3) && zeroOrPow2 (modes.filter (· == 2)).length

/-- A token range record (R172). -/
structure TokRange where
  first : Nat
  last : Nat
  ownerType : Nat
  rights : Nat
  owner : Nat
  init : Nat
  deriving DecidableEq, Repr

def tokRanges (d : List Byte) : List TokRange :=
  (List.range (fieldLe d 0 4)).map fun i =>
    let e := slice d (64 + 16 * i) 16
    { first := fieldLe e 0 2, last := fieldLe e 0 2 + fieldLe e 2 2, ownerType := fieldLe e 4 1
      rights := fieldLe e 5 1 % 4, owner := fieldLe e 6 2, init := fieldLe e 8 4 }

/-- Agents that a range belongs to; a stage stands for its cores (R170, R172). -/
def TokRange.agents (r : TokRange) (stages : Map Nat) : List Nat :=
  match r.ownerType with
  | 0 => [agCore r.owner]
  | 1 => (stages.filter fun e => e.2 = r.owner).map fun e => agCore e.1
  | 2 => [agIntake r.owner]
  | 3 => [agSweep r.owner]
  | _ => [agSave]

def TokRange.ok (r : TokRange) : Bool :=
  decide (r.last ≤ 65535) && r.first / 16384 == r.last / 16384 && decide (r.ownerType ≤ 4) && r.rights != 0
    && (match r.ownerType with
      | 0 => decide (r.owner ≤ 383)
      | 1 => decide (r.owner ≤ 383)
      | 2 => decide (r.owner ≤ 15)
      | 3 => decide (r.owner ≤ 15)
      | _ => r.owner == 0)

/-- Stage numbers by logical core. -/
def stageMap (d : List Byte) : Map Nat := (stageEntries d).map fun x => (x.1, x.2.1)

def tokensOk (d : List Byte) (stages : Map Nat) : Bool :=
  let n := fieldLe d 0 4
  decide (1 ≤ n) && decide (n ≤ 16384) && d.length == 64 + 16 * n
    && (let rs := tokRanges d
        rs.all TokRange.ok
          && (rs.all fun a => rs.all fun b => decide (a.last < b.first) || decide (b.last < a.first) || a.init == b.init)
          && (List.range 384).all fun c => decide ((rs.filter fun r => (r.agents stages).contains c).length ≤ 16))

/-- Section 6 (R174, R213, R214). A BASE of kind 15 other than 0 is a field out of its range (log entry 93). -/
def energyOk (s : State) (d : List Byte) : Bool :=
  let lo := fieldLe d 0 2
  let hi := fieldLe d 2 2
  let po := fieldLe d 16 4
  let p := slice d po 512
  let scale := (List.range 21).map fun i => fieldLe p (64 + 2 * i) 2
  d.length == 64 + 512 && decide (400 ≤ lo) && decide (lo ≤ hi) && decide (hi ≤ 1400) && lo % 10 == 0 && hi % 10 == 0
    && decide (fieldLe d 4 4 ≤ s.energy.ceilingW) && po % 64 == 0 && decide (64 ≤ po) && fieldLe d 20 4 == 512
    && decide (po + 512 ≤ d.length) && fieldLe p 0 4 == priceMagic && fieldLe p 4 2 == 1
    && (scale.zip scale.tail).all (fun x => decide (x.1 ≤ x.2)) && fieldLe p (128 + 60) 4 == 0

def intakeOk (d : List Byte) : Bool :=
  let w := fieldLe d 0 2
  let h := fieldLe d 2 2
  let r := fieldLe d 4 4
  d.length == 64 && decide (1 ≤ w) && decide (w ≤ 16384) && decide (1 ≤ h) && decide (h ≤ 16384) && decide (1 ≤ r)
    && decide (r ≤ 268435456) && decide (1 ≤ fieldLe d 8 4) && decide (fieldLe d 12 1 ≤ 1) && decide (fieldLe d 13 1 ≤ 1)

/-- Content rules of a section by its type. -/
def sectionOk (s : State) (img : List Byte) (dirs : List DirLine) (ty : Nat) (d : List Byte) : Bool :=
  match ty with
  | 1 => dieMapOk s d
  | 2 => stagesOk d
  | 3 => routesOk d
  | 4 => banksOk d
  | 5 =>
    let st := dirs.getD 1 (0, 0, [])
    tokensOk d (stageMap (slice img st.1 st.2.1))
  | 6 => energyOk s d
  | 7 => intakeOk d
  | 8 => d.length == 64
  | _ => d.length == 64

/-- Sections from type `ty` on: bytes hashed, and whether all are valid. -/
def sectionsOk (s : State) (img : List Byte) (dirs : List DirLine) : Nat → List DirLine → Nat × Bool
  | _, [] => (0, true)
  | ty, (off, len, dg) :: rest =>
    let d := slice img off len
    if shake256 d 32 == dg && sectionOk s img dirs ty d then
      let (n, ok) := sectionsOk s img dirs (ty + 1) rest
      (len + n, ok)
    else (len, false)

/-! ### VERIFY (R176, R177) -/

/-- The latest command was refused with a code (R182). -/
def State.refuseLayout (s : State) (code : Nat) : State :=
  { s with loader := { s.loader with refused := true, code := BitVec.ofNat 8 code } }

/-- A command is accepted: REFUSED and IGNORED clear (R181, R197). -/
def State.acceptLayout (s : State) : State :=
  { s with loader := { s.loader with refused := false, code := 0, ignored := false } }

/-- No image is verified (R177). -/
def State.dropVerified (s : State) : State :=
  { s with loader := { s.loader with verified := false, digest := [], dirs := [], mapVerified := [], signed := false, jobId := 0, stages := [] } }

def whoLoader : Nat := 0x1131

/-- The first image verified since reset, and CLEAN (R473). -/
def State.noteImage (s : State) (digest : List Byte) : State :=
  match s.loader.firstDigest with
  | none => { s with loader := { s.loader with firstDigest := some digest } }
  | some d => if d = digest then s else { s with security := { s.security with clean := false } }

/-- The checks of R176 from the header on, over the bytes of an image. -/
def State.verifyImage (s : State) (base : Nat) (bs : PBytes) : State :=
  let img := bs.data
  let body := bodyLength img
  let poisonAt (off n : Nat) : Bool := ((bs.drop off).take n).any (·.2)
  if poisonAt 0 128 || !headerOk img then s.refuseLayout 1
  else if poisonAt 128 576 || !dirOk img then s.refuseLayout 2
  else
    let s1 := s.count bLayout 0x180 body
    let digest := shake256 (img.take body) 64
    if poisonAt 0 (body + 64) || digest != slice img body 64 then s1.refuseLayout 3
    else if !s1.signatureOk (imageSigned img) digest (slice img (body + 64) signatureBlock) (!poisonAt (body + 64) signatureBlock)
    then (s1.count bSec 0x248 1).refuseLayout 4
    else
      let dirs := dirLines img
      let lvl := dirs.getD 8 (0, 0, [])
      if s.floor < fieldLe img lvl.1 1 then s1.refuseLayout 5
      else
        let (n, ok) := sectionsOk s img dirs 1 dirs
        let s2 := s1.count bLayout 0x180 n
        if !ok then s2.refuseLayout 6
        else
          let st := dirs.getD 1 (0, 0, [])
          ({ s2 with
            loader :=
              { s2.loader with
                verified := true, base := base, digest := digest, dirs := dirs
                mapVerified := mapBytes (slice img (dirs.getD 0 (0, 0, [])).1 64), jobId := BitVec.ofNat 64 (fieldLe img 24 8)
                signed := imageSigned img, stages := stageMap (slice img st.1 st.2.1) } }).noteImage digest

/-- A command is written: it is accepted and runs, or is ignored while another one runs (R181). Until phase 9 of the boot no
layout is verified or loaded (R463). -/
def State.startLayout (s : State) (c : LayoutCmd) : State :=
  if s.power.phase < 9 then s
  else match s.loader.busy with
  | none => let s1 := s.acceptLayout; { s1 with loader := { s1.loader with busy := some c } }
  | some _ => { s with loader := { s.loader with ignored := true } }

/-- A command runs to its end: the one that was accepted, or one written now that none is running; any other is ignored
(R181; log entry 7). -/
def State.runLayout (s : State) (c : LayoutCmd) (run : State → State) : State :=
  if s.power.phase < 9 then s
  else match s.loader.busy with
  | none => run s.acceptLayout
  | some d => if d = c then run { s with loader := { s.loader with busy := none } } else s.startLayout c

/-- What VERIFY does (R176). -/
def State.verifyRun (s : State) : State :=
  let base := s.fld bLayout 0x100 6 46 * 64
  let s0 := s.dropVerified
  if !inImageMemory base 128 then s0.refuseLayout 8
  else
    let (s1, hp) := s0.readRun whoLoader base 128
    let len := imageLength hp.data
    if hp.anyPoison then s1.refuseLayout 1
    else if imageMax < len || !inImageMemory base len then s1.refuseLayout 8
    else
      let (s2, rest) := s1.readRun whoLoader (base + 128) (len - 128)
      s2.verifyImage base (hp ++ rest)

/-! ### Writing sections (R167, R184, R485) -/

/-- Configuration writes ignored in an enabled block: each of the k fields that the block would take is counted, and
WRITE_WHILE_ENABLED is set. Where the configuration has no register, the offset that IGNORED_OFFSET takes is open, and
what counts as a field is the model's reading (log entry 26). -/
def State.ignoreConfig (s : State) (blk : Nat) (off : Option Nat) (k : Nat) : State :=
  let s1 := s.count bLayout 0x190 k
  match off with
  | some o => s1.writeWhileEnabled blk o
  | none => let (v, s2) := s1.free; s2.writeWhileEnabled blk (v.toNat % 65536)

/-- The loader's writes do not reach a block: it is not disabled (R184), or its frame is unmapped (R483). -/
def State.keepsOut (s : State) (blk : Nat) : Bool := !s.isDisabled blk || !s.reachable blk

/-- What such writes leave: fields ignored in an enabled block, an unmapped access to one that cannot be reached. -/
def State.turnsAway (s : State) (blk : Nat) (off : Option Nat) (k : Nat) : State :=
  if s.reachable blk then s.ignoreConfig blk off k else s.unmappedLine whoLoader (regBase + blk * 65536 + off.getD 0)

/-- Write a per-block target, or none of it. -/
def State.perBlock (acc : State × Bool) (blk : Nat) (off : Option Nat) (k : Nat) (w : State → State) : State × Bool :=
  if acc.1.keepsOut blk then (acc.1.turnsAway blk off k, false) else (w acc.1, acc.2)

/-- Write all targets, each with its number of fields, or none (R184). -/
def State.allOrNone (s : State) (targets : List (Nat × Nat)) (off : Option Nat) (w : State → State) : State × Bool :=
  let on := targets.filter fun b => s.keepsOut b.1
  if on = [] then (w s, true) else (on.foldl (fun acc b => acc.turnsAway b.1 off b.2) s, false)

/-- Sites named by the die map are in service, the others spare (R168, R270). -/
def State.siteFromMap (s : State) : State :=
  (List.range 52).foldl
    (fun acc i =>
      let x := acc.site i
      if x.status = .service ∨ x.status = .spare then
        let st : SiteStatus := if (dieOnSite acc.dieMap i).isSome then .service else .spare
        if x.status = st then acc else (acc.setSite i { x with status := st }).noteSite i
      else acc) s

def State.loadDieMap (s : State) (d : List Byte) (tiles : List Nat) : State :=
  let m := (List.range 48).zip (mapBytes d)
  ({ s with dieMap := m.filter fun e => tiles.contains (e.1 / 12) || (Map.find s.dieMap e.1).isSome || s.dieMap = [] }).siteFromMap

/-- Blocks of a used core that a site selection keeps. -/
def keepCore (only : Option Nat) (p : Nat) : Bool :=
  match only with
  | some site => p / 8 == site
  | none => true

/-- Section 2 (R170). -/
def State.loadStages (s : State) (d : List Byte) (only : Option Nat) : State × Bool :=
  let wl := fieldLe d 0 2
  (stageEntries d).foldl
    (fun acc x =>
      match acc.1.physCore x.1 with
      | none => acc
      | some p =>
        if !keepCore only p then acc
        else
          let a1 := State.perBlock acc (bCore p) (some 0x100) 1 fun t => t.setFld (bCore p) 0x100 6 46 (x.2.2 / 64)
          (List.range 4).foldl
            (fun a e => State.perBlock a (bEng (4 * p + e)) (some 0x100) 1 fun t => t.setFld (bEng (4 * p + e)) 0x100 8 16 wl) a1)
    (s, true)

/-- Section 3 (R167, R171): each mesh block keeps the routes it is given; the hub fabric, which has no enable, always takes
them. A mesh block's own fields are its RING_DIR, its MESH_ORDER and the six CLASS_VC. -/
def State.loadRoutes (s : State) (d : List Byte) : State × Bool :=
  let put (k : Nat) (x : State) : State := { x with routes := Map.put x.routes k (d.take 14) [] }
  let (s1, ok) := (List.range 4).foldl (fun acc t => State.perBlock acc (bMesh t) none 8 (put t)) (s, true)
  (put 4 s1, ok)

/-- Section 4 (R173): modes are stored and take effect at the block's enable. While no die map is loaded no logical core has a
site, and the core banks have no target; the load goes on without them (log entry 93). -/
def State.loadBanks (s : State) (d : List Byte) : State × Bool :=
  let put (blk : Nat) (bs : List Byte) (tile : Bool) (t : State) : State :=
    (bs.zip (List.range bs.length)).foldl
      (fun a x =>
        let v := x.1.toNat
        let b := a.bank blk x.2
        a.setBank blk x.2
          { b with modeCfg := BitVec.ofNat 2 (if tile then v % 4 else v % 2), retainCfg := bitOf v (if tile then 2 else 1) }) t
  let a1 := (List.range 4).foldl
    (fun acc t => State.perBlock acc (bBankTile t) (some 0x110) 512 (put (bBankTile t) (slice d (256 * t) 256) true)) (s, true)
  (List.range 384).foldl
    (fun acc c =>
      match acc.1.physCore c with
      | some p => State.perBlock acc (bBankCore p) (some 0x110) 64 (put (bBankCore p) (slice d (1024 + 32 * c) 32) false)
      | none => acc) a1

/-- The allotment that the range records give an agent (R172). -/
def allotOf (rs : List TokRange) (stages : Map Nat) (agent : Nat) : List Allot :=
  (rs.filter fun r => (r.agents stages).contains agent).map fun r =>
    { first := r.first, last := r.last, wait := bitOf r.rights 0, signal := bitOf r.rights 1 }

/-- Tables written for agents, each under its key; the others stay. -/
def allotsOf (rs : List TokRange) (stages : Map Nat) (agents : List (Nat × Nat)) (old : Map (List Allot)) : Map (List Allot) :=
  agents.foldl (fun m a => Map.put m a.2 (allotOf rs stages a.1) []) old

def engineAgents : List (Nat × Nat) :=
  ((List.range 16).map agIntake ++ (List.range 16).map agSweep ++ [agSave]).map fun a => (a, a)

/-- Section 5 (R172). -/
def State.loadTokens (s : State) (d : List Byte) (only : Option Nat) : State × Bool :=
  let rs := tokRanges d
  let stages := s.loader.stages
  let cores := stages.filterMap fun e => (s.physCore e.1).bind fun p => if keepCore only p then some (e.1, p) else none
  let coreBlocks := cores.map fun c => (bCore c.2, (allotOf rs stages c.1).length)
  match only with
  | some _ => s.allOrNone coreBlocks none fun t => { t with allots := allotsOf rs stages cores t.allots }
  | none =>
    s.allOrNone ((List.range 4).map (fun t => (bTok t, 16384)) ++ coreBlocks) none fun t =>
      let t1 := { t with allots := allotsOf rs stages (cores ++ engineAgents) t.allots }
      let cleared := t1.tokens.foldl
        (fun acc e => if rs.any fun r => decide (r.first ≤ e.1) && decide (e.1 ≤ r.last) then acc else acc.setCount e.1 0) t1
      rs.foldl
        (fun acc r =>
          (List.range (r.last + 1 - r.first)).foldl (fun a i => (a.setCount (r.first + i) r.init).release (r.first + i)) acc)
        cleared

/-- Section 6 (R174, R213, R219). -/
def State.loadEnergy (s : State) (d : List Byte) : State × Bool :=
  State.perBlock (s, true) bNrg none 104 fun t =>
    let p := slice d (fieldLe d 16 4) 512
    let e := t.energy
    { t with
      energy :=
        { e with
          clockMin := fieldLe d 0 2, clockMax := fieldLe d 2 2, powerCapW := fieldLe d 4 4, reservoirMax := fieldLe d 8 8
          priceScale := (List.range 21).map fun i => fieldLe p (64 + 2 * i) 2
          priceBase := (List.range 16).map fun i => fieldLe p (128 + 4 * i) 4
          idle := (List.range 63).map fun i => fieldLe p (192 + 4 * i) 4
          accounts := (e.accounts.map fun a => (a.1, { a.2 with corr := 1024 })).filter fun a => a.2 ≠ Account.reset } }

/-- Section 7 (R174). -/
def State.loadIntake (s : State) (d : List Byte) : State × Bool :=
  (List.range 16).foldl
    (fun acc i =>
      State.perBlock acc (bItk i) (some 0x130) 6 fun t =>
        (t.setReg (bItk i) 0x128 (BitVec.ofNat 64 (fieldLe d 0 8))).setReg (bItk i) 0x130
          (BitVec.ofNat 64 (fieldLe d 8 4 + fieldLe d 12 1 * 2 ^ 32 + fieldLe d 13 1 * 2 ^ 33))) (s, true)

/-- Section 8 (R60, R174, R175). -/
def State.loadNumerics (s : State) (d : List Byte) (only : Option Nat) : State × Bool :=
  let sites := s.dieMap.filterMap fun e => if keepCore only (8 * e.2) && (s.site e.2).status == .service then some e.2 else none
  let engs := sites.flatMap fun site => (List.range 32).map fun j => 32 * site + j
  s.allOrNone (engs.map fun e => (bEng e, 1)) (some 0x100) fun t => engs.foldl (fun a e => a.setFld (bEng e) 0x100 0 1 (fieldLe d 0 1 % 2)) t

/-- Write one section; `only` is the site of a SITE_ONLY load (R180). -/
def State.writeSection (s : State) (ty : Nat) (d : List Byte) (only : Option Nat) : State × Bool :=
  match ty with
  | 1 =>
    let tiles := match only with
      | some site => [tileOfSite site]
      | none => List.range 4
    let (s1, ok) := s.allOrNone (tiles.map fun t => (bMesh t, 48)) none fun t => t.loadDieMap d tiles
    (if ok then { s1 with loader := { s1.loader with dieMapLoaded := true } } else s1, ok)
  | 2 => s.loadStages d only
  | 3 => s.loadRoutes d
  | 4 => s.loadBanks d
  | 5 => s.loadTokens d only
  | 6 => s.loadEnergy d
  | 7 => s.loadIntake d
  | 8 => s.loadNumerics d only
  | _ => (s, true)

/-- The record of a section's load: digest and LOADED when all its targets were written, else PARTIAL (R179, R184). -/
def State.noteSection (s : State) (ty : Nat) (dg : List Byte) (ok : Bool) : State :=
  let l := s.loader
  let bit : BitVec 9 := BitVec.ofNat 9 (2 ^ (ty - 1))
  if ok then
    ({ s with
      loader := { l with
        recorded := Map.insert l.recorded ty dg, mapRecorded := if ty = 1 then l.mapVerified else l.mapRecorded, loaded := l.loaded ||| bit, partLoad := l.partLoad &&& ~~~bit } }).count
      bLayout 0x188 1
  else { s with loader := { l with partLoad := l.partLoad ||| bit } }

/-- Load sections in ascending order; a changed section ends the command, one that lacks its die map is refused alone
(R178). -/
def State.loadSections (only : Option Nat) : List Nat → State → State
  | [], s => s
  | ty :: rest, s =>
    let (off, len, dg) := s.loader.dirs.getD (ty - 1) (0, 0, [])
    let (s1, bs) := s.readRun whoLoader (s.loader.base + off) len
    let s2 := s1.count bLayout 0x180 len
    if bs.anyPoison || shake256 bs.data 32 != dg then s2.refuseLayout 7
    else if (ty == 2 || ty == 5 || ty == 8) && !s2.loader.dieMapLoaded then
      State.loadSections only rest (s2.refuseLayout 10)
    else
      let (s3, ok) := s2.writeSection ty bs.data only
      State.loadSections only rest (s3.noteSection ty dg ok)

/-- The types a mask names, ascending. -/
def maskTypes (mask : Nat) : List Nat := (List.range 9).filterMap fun i => if bitOf mask i then some (i + 1) else none

/-- What LOAD does (R178). One that names no section while no image is verified is refused for the image (R182; log entry
93). -/
def State.loadRun (mask : BitVec 9) (s : State) : State :=
  if !s.loader.verified then s.refuseLayout 9
  else if mask = 0 then s.refuseLayout 10
  else State.loadSections none (maskTypes mask.toNat) s

/-- The recorded and the verified die map differ only in entries that now name the site (R180). -/
def Loader.siteOnlyMap (l : Loader) (site : Nat) : Bool :=
  l.mapRecorded.length == 48 && (l.mapVerified.zip l.mapRecorded).all fun e => e.1 == e.2 || e.1 == site

/-- What LOAD with SITE_ONLY does (R180). A SITE that is no site is refused like a request against the rule (R182; log entry
93). -/
def State.siteOnlyRun (mask : BitVec 9) (site : BitVec 6) (s : State) : State :=
  let l := s.loader
  let digests := (List.range 8).all fun i => Map.find l.recorded (i + 2) == some (l.dirs.getD (i + 1) (0, 0, [])).2.2
  if !l.verified then s.refuseLayout 9
  else if mask = 0 || decide (51 < site.toNat) || !((maskTypes mask.toNat).all fun t => t == 1 || t == 2 || t == 5 || t == 8)
    || !digests || !l.siteOnlyMap site.toNat then s.refuseLayout 10
  else
    let s1 := State.loadSections (some site.toNat) (maskTypes mask.toNat) s
    if s1.loader.refused || s1.loader.partLoad &&& mask ≠ 0 then s1
    else
      { s1 with
        loader :=
          { s1.loader with
            recorded := Map.insert s1.loader.recorded 1 (s1.loader.dirs.getD 0 (0, 0, [])).2.2
            mapRecorded := s1.loader.mapVerified } }

/-- MIXED (R179). -/
def State.layoutMixed (s : State) : Bool :=
  let l := s.loader
  if l.verified then (List.range 9).any fun i => Map.find l.recorded (i + 1) != some (l.dirs.getD i (0, 0, [])).2.2
  else l.recorded != []

end Sys2Proof.Machine
end

