-- ==== Sys2Proof/Machine/Save.lean ====
section
/-! DEFINITION. The save engine: checkpoint slots, save plans, a save from start to copy-out, RESTORE, and the replay
journal (R253 to R267, R279). -/

namespace Sys2Proof.Machine

def pad128 (n : Nat) : Nat := (n + 127) / 128 * 128

def State.slotBase (s : State) (k : Nat) : Nat := s.fld bSav (if k = 0 then 0x108 else 0x110) 7 45 * 128
def State.slotSize (s : State) : Nat := s.fld bSav 0x118 7 45 * 128

/-! ### Slots (R254, R256) -/

/-- A control line that marks a valid checkpoint (R254). -/
def controlValid (bs : PBytes) : Bool :=
  !bs.anyPoison && fieldLe bs.data 0 4 == 0x4B43464E && fieldLe bs.data 4 2 == 1 && fieldLe bs.data 6 1 == 1

/-- STEP and JRN_LAST_SEQ of a valid control line. -/
def controlMark (bs : PBytes) : Option (W32 × Word64) :=
  if controlValid bs then some (BitVec.ofNat 32 (fieldLe bs.data 8 4), BitVec.ofNat 64 (fieldLe bs.data 56 8)) else none

def Save.slotMark (x : Save) (k : Nat) : Option (W32 × Word64) := if k = 0 then x.slot0 else x.slot1

def Save.setSlot (x : Save) (k : Nat) (m : Option (W32 × Word64)) : Save := if k = 0 then { x with slot0 := m } else { x with slot1 := m }

/-- The newest valid slot (R254). -/
def Save.newestSlot (x : Save) : Option Nat :=
  match x.slot0, x.slot1 with
  | some a, some b => some (if a.1.ult b.1 then 1 else 0)
  | some _, none => some 0
  | none, some _ => some 1
  | none, none => none

/-- Read the control line of a slot; a slot of no length holds none (R279). -/
def State.readSlot (s : State) (k : Nat) : State :=
  if s.slotSize = 0 then s.setSave (s.save.setSlot k none)
  else
    let (s1, bs) := s.readRun saveWho (s.slotBase k) 128
    s1.setSave (s1.save.setSlot k (controlMark bs))

/-- SLOT0_STEP, SLOT1_STEP and NEWEST_SLOT read anew (R279). -/
def State.readSlots (s : State) : State := (s.readSlot 0).readSlot 1

/-! ### Plans (R255) -/

structure PlanEntry where
  src : Nat
  len : Nat
  kind : Nat
  phase : Nat
  reserved : Bool
  deriving DecidableEq, Repr

structure SavePlan where
  bytes : List Byte
  step : Nat
  entries : List PlanEntry
  /-- First token and count. -/
  ranges : List (Nat × Nat)
  deriving DecidableEq, Repr

/-- The header is sound, so that the rest can be read. -/
def planHeaderOk (h : List Byte) : Bool :=
  fieldLe h 0 4 == 0x5053464E && fieldLe h 4 2 == 1 && decide (fieldLe h 6 2 ≤ 64) && decide (1 ≤ fieldLe h 8 4)
    && decide (fieldLe h 8 4 ≤ 4096) && zeroRange h 16 48

/-- Length of a plan from its header. -/
def planLen (h : List Byte) : Nat := 64 + 32 * fieldLe h 8 4 + 4 * fieldLe h 6 2

def planOf (d : List Byte) : SavePlan :=
  let n := if planHeaderOk (d.take 64) then fieldLe d 8 4 else 0
  { bytes := d, step := fieldLe d 12 4
    entries := (List.range n).map fun i =>
      let o := 64 + 32 * i
      { src := fieldLe d o 8, len := fieldLe d (o + 8) 8, kind := fieldLe d (o + 16) 1, phase := fieldLe d (o + 17) 1
        reserved := !zeroRange d (o + 18) 14 }
    ranges := (List.range (if n = 0 then 0 else fieldLe d 6 2)).map fun i =>
      let o := 64 + 32 * n + 4 * i
      (fieldLe d o 2, fieldLe d (o + 2) 2 + 1) }

def planEntryOk (e : PlanEntry) : Bool :=
  e.src % 128 == 0 && e.len % 128 == 0 && decide (128 ≤ e.len) && decide (e.kind ≤ 2) && decide (e.phase ≤ 1) && !e.reserved
    && (inRegion .hbm e.src e.len || inRegion .lpx e.src e.len || inRegion .sram e.src e.len)

/-- A token range lies within one tile (R255). -/
def planRangeOk (r : Nat × Nat) : Bool := decide (tokTile r.1 = tokTile (r.1 + r.2 - 1)) && decide (r.1 + r.2 ≤ 65536)

def SavePlan.ok (p : SavePlan) : Bool := planHeaderOk p.bytes && p.entries.all planEntryOk && p.ranges.all planRangeOk

/-- The tokens of a plan in range order, then token order. -/
def SavePlan.tokens (p : SavePlan) : List Nat := p.ranges.flatMap fun r => (List.range r.2).map (r.1 + ·)

/-- Offsets of the parts of a slot (R256). -/
def SavePlan.tokenOff (p : SavePlan) : Nat := 512 + pad128 p.bytes.length
def SavePlan.dataOff (p : SavePlan) : Nat := p.tokenOff + pad128 (4 * p.tokens.length)
def SavePlan.jrnOff (p : SavePlan) : Nat := p.dataOff + (p.entries.map (·.len)).sum

/-- The entries of a plan with their index and slot offset. -/
def placeEntries : Nat → Nat → List PlanEntry → List (Nat × Nat × PlanEntry)
  | _, _, [] => []
  | i, off, e :: es => (i, off, e) :: placeEntries (i + 1) (off + e.len) es

def SavePlan.placed (p : SavePlan) : List (Nat × Nat × PlanEntry) := placeEntries 0 p.dataOff p.entries

/-- Read the save plan: none if a word is poison, the header alone where it is not sound. -/
def State.readPlan (s : State) (a : Nat) : State × Option (List Byte) :=
  let (s1, h) := s.readRun saveWho a 64
  if h.anyPoison then (s1, none)
  else if planHeaderOk h.data then
    let (s2, d) := s1.readRun saveWho (a + 64) (planLen h.data - 64)
    if d.anyPoison then (s2, none) else (s2, some (h.data ++ d.data))
  else (s1, some h.data)

/-- The plan cannot be read now: its header or the rest lies in host memory that cannot be read (R326, R410). -/
def State.planStalls (s : State) (a : Nat) : Bool :=
  let h := (s.peek a 64 : PBytes).data
  s.hostWaits a 64 || (planHeaderOk h && s.hostWaits (a + 64) (planLen h - 64))

def State.planBase (s : State) : Nat := s.fld bSav 0x100 6 46 * 64

/-! ### Writing a slot -/

/-- Bytes written into a slot (R280). -/
def State.slotWrite (s : State) (k off : Nat) (bs : List Byte) : State :=
  (s.writeRun saveWho (s.slotBase k + off) (.clean bs)).count bSav 0x200 bs.length

/-- A control line (R256). -/
def controlLine (state floor step jobId tc endTurn len first last : Nat) : List Byte :=
  leBytes 4 0x4B43464E ++ leBytes 2 1 ++ leBytes 1 state ++ leBytes 1 floor ++ leBytes 4 step ++ leBytes 4 0
    ++ leBytes 8 jobId ++ leBytes 8 tc ++ leBytes 8 endTurn ++ leBytes 8 len ++ leBytes 8 first ++ leBytes 8 last
    ++ List.replicate 64 0

/-- The section digests that the layout loader recorded, types 2 to 9 (R179, R256). -/
def State.sectionDigests (s : State) : List Byte :=
  (List.range 8).flatMap fun i => fitBytes (Map.get s.loader.recorded (i + 2) []) 32

/-! ### Ends of a save -/

/-- Wait for the start token (R257). -/
def State.saveWaits (s : State) : State :=
  (s.setSave { s.save with waiting := true, granted := false, stage := .idle, copyoutEpoch := none }).sendToken
    (.wait agSave (BitVec.ofNat 16 (s.fld bSav 0x120 0 16)) 1)

def State.signalRelease (s : State) : State :=
  (s.setSave { s.save with released := true }).sendToken
    (.signal agSave (BitVec.ofNat 16 (s.fld bSav 0x120 16 16)) (BitVec.ofNat 32 (s.fld bSav 0x128 0 32)))

def State.signalDone (s : State) : State :=
  s.sendToken (.signal agSave (BitVec.ofNat 16 (s.fld bSav 0x120 32 16)) 1)

/-- A save fault (R258): recorded, both tokens signalled; the slot stays invalid. -/
def State.saveFault (s : State) (code entry : Nat) : State :=
  let s1 := ((s.dropHeld pSave).setSave
    { s.save with fault := true, faultCode := BitVec.ofNat 4 code, stage := .idle, granted := false }).record bSav 0x0212 0 code entry
  let s2 := if s1.save.released then s1 else s1.signalRelease
  s2.signalDone

/-- A fault of a save that goes on to wait for its next start. -/
def State.saveFaults (s : State) (code entry : Nat) : State := (s.saveFault code entry).saveWaits

/-- The engine may run. -/
def State.saveActive (s : State) : Bool := s.isEnabled bSav && !s.power.issueStopped

/-! ### A save (R257 to R259) -/

/-- Bytes that the start of a save writes: control line, section digests and plan (R256). -/
def SavePlan.startBytes (p : SavePlan) : Nat := 384 + pad128 p.bytes.length

/-- The plan is checked, the slot chosen, made invalid and given its first parts (R254 to R258). -/
def State.saveBegin (s : State) (p : SavePlan) : State :=
  let k := if s.save.newestSlot = some 0 then 1 else 0
  if !p.ok then s.saveFaults 1 0
  else if s.slotSize < p.jrnOff then s.saveFaults 5 0
  else
    match s.savePay p.startBytes with
    | none => s.saveHold p.startBytes
    | some s1 =>
      let s2 := s1.slotWrite k 0 (controlLine 0 s.floor p.step s.loader.jobId.toNat 0 0 0 0 0)
      let s3 := (s2.slotWrite k 256 s.sectionDigests).slotWrite k 512 (fitBytes p.bytes (pad128 p.bytes.length))
      s3.setSave ({ s3.save with stage := .started, granted := false, slot := k }.setSlot k none)

/-- SAVE_START (R254 to R258): the plan is read once. -/
def execSaveStart (s : State) : Host.Outcome State Fault Refusal :=
  if s.saveActive && s.save.granted then
    if s.save.plan = [] then
      if s.planStalls s.planBase then .next (s.hostStall saveWho)
      else match s.readPlan s.planBase with
      | (s1, none) => .next (s1.saveFaults 4 0)
      | (s1, some d) => .next ((s1.setSave { s1.save with plan := d }).saveBegin (planOf d))
    else .next (s.saveBegin (planOf s.save.plan))
  else .next s

/-- First line of a run of source lines that cannot be saved, with the fault code (R258, R259). -/
def badLine (kind step : Nat) : Nat → List PBytes → Option (Nat × Nat)
  | _, [] => none
  | i, l :: ls =>
    if l.anyPoison then some (i, 4)
    else if kind ≠ 0 ∧ fieldLe l.data 0 4 ≠ step then some (i, 3)
    else badLine kind step (i + 1) ls

/-- The 128-byte lines of a run. -/
def linesOfRun (bs : PBytes) (n : Nat) : List PBytes := (List.range n).map fun i => (bs.drop (128 * i)).take 128

/-- Copy one entry into the slot; the fault code if a line cannot be saved. Lines before it are written. -/
def State.copyEntry (s : State) (k step off : Nat) (e : PlanEntry) : State × Option Nat :=
  let (s1, bs) := s.readRun saveWho e.src e.len
  match badLine e.kind step 0 (linesOfRun bs (e.len / 128)) with
  | some (i, code) => (s1.slotWrite k off ((bs.take (128 * i)).map (·.1)), some code)
  | none => (s1.slotWrite k off bs.data, none)

/-- Copy the entries of a phase in plan order; stops at a fault with its code and entry index. -/
def State.copyEntries (k step : Nat) : List (Nat × Nat × PlanEntry) → State → State × Option (Nat × Nat)
  | [], s => (s, none)
  | (i, off, e) :: es, s =>
    let (s1, f) := s.copyEntry k step off e
    match f with
    | some code => (s1, some (code, i))
    | none => State.copyEntries k step es s1

def SavePlan.phase (p : SavePlan) (ph : Nat) : List (Nat × Nat × PlanEntry) := p.placed.filter fun e => e.2.2.phase = ph

def phaseBytes (es : List (Nat × Nat × PlanEntry)) : Nat := (es.map fun e => e.2.2.len).sum

/-- First journal entry of a save: one after the other slot's last, or the oldest in the ring (R257). -/
def State.segmentFirst (s : State) (k : Nat) : Nat :=
  match s.save.slotMark (1 - k) with
  | some m => (m.2 + 1).toNat
  | none => s.jrnOldest

/-- Token counts and quiet entries, then the release; they wait for their price (R216, R257). -/
def State.saveQuiet (s : State) (p : SavePlan) : State :=
  let x := s.save
  let part := fitBytes (x.counts.flatMap (leBytes 4)) (pad128 (4 * x.counts.length))
  let quiet := p.phase 1
  match s.savePay (part.length + phaseBytes quiet) with
  | none => s.saveHold (part.length + phaseBytes quiet)
  | some s1 =>
    match State.copyEntries x.slot p.step quiet (s1.slotWrite x.slot p.tokenOff part) with
    | (s3, some (code, i)) => s3.saveFaults code i
    | (s3, none) =>
      let first := s3.segmentFirst x.slot
      let fin := max first x.captureJrn
      let s4 := s3.setSave
        { s3.save with
          stage := .captured, jrnFirst := first, jrnLast := fin, payloadLen := p.jrnOff + 128 * (fin - first) - 256 }
      s4.signalRelease

/-- At tc the counts of the plan's tokens are read; one that has moved since is a fault (R257). -/
def State.saveCounts (s : State) (p : SavePlan) : State :=
  let tc := (s.save.captureTurn.getD 0).toNat
  if p.tokens.any fun t => tc ≤ (s.token t).stamp.toNat then s.saveFaults 2 0
  else s.setSave { s.save with stage := .counted, counts := p.tokens.map fun t => (s.token t).count.toNat }

/-- The late entries, the journal segment and the digest line (R256, R257). `jrnLast` holds one past the last entry. -/
def State.saveLate (s : State) (p : SavePlan) : State :=
  let x := s.save
  let late := p.phase 0
  let n := phaseBytes late + 128 * (x.jrnLast - x.jrnFirst) + 128
  if s.slotSize < x.payloadLen + 256 then s.saveFaults 5 0
  else
    match s.savePay n with
    | none => s.saveHold n
    | some s1 =>
      match State.copyEntries x.slot p.step late s1 with
      | (s2, some (code, i)) => s2.saveFaults code i
      | (s2, none) =>
        let (s3, seg) := (List.range (x.jrnLast - x.jrnFirst)).foldl
          (fun (acc : State × PBytes) i => let (t, bs) := acc.1.readRun saveWho (acc.1.jrnAddr (x.jrnFirst + i)) 128
            (t, acc.2 ++ bs)) (s2, [])
        if seg.anyPoison then s3.saveFaults 4 0
        else
          let s4 := s3.slotWrite x.slot p.jrnOff seg.data
          let payload : PBytes := s4.peek (s4.slotBase x.slot + 256) x.payloadLen
          let s5 := s4.slotWrite x.slot 128 (fitBytes x.captureDigest 64 ++ shake256 payload.data 32 ++ List.replicate 32 0)
          s5.setSave { s5.save with stage := .done }

/-- The quiet part, and the late part behind it. -/
def State.saveToLate (s : State) (p : SavePlan) : State :=
  let s1 := s.saveQuiet p
  if s1.save.stage = .captured then s1.saveLate p else s1

/-- SAVE_CAPTURE (R257 to R260): due from the first boundary after the grant. -/
def execSaveCapture (s : State) : Host.Outcome State Fault Refusal :=
  let x := s.save
  let p := planOf x.plan
  if s.saveActive && x.captureTurn.isSome then
    match x.stage with
    | .started => let s1 := s.saveCounts p; .next (if s1.save.stage = .counted then s1.saveToLate p else s1)
    | .counted => .next (s.saveToLate p)
    | .captured => .next (s.saveLate p)
    | _ => .next s
  else .next s

/-- JRN_LAST_SEQ: the entry before `fin`, counted modulo 2⁶⁴ where there is none. -/
def lastSeq (fin : Nat) : Nat := (fin + (2 ^ 64 - 1)) % 2 ^ 64

/-- SAVE_VALIDATE (R254, R257): the control line takes STATE 1; the done token follows the copy-out, if one is asked. -/
def execSaveValidate (s : State) : Host.Outcome State Fault Refusal :=
  let x := s.save
  if s.saveActive && x.stage == .done then
    match s.savePay 128 with
    | none => .next (s.saveHold 128)
    | some s1 =>
      let p := planOf x.plan
      let last := lastSeq x.jrnLast
      let s2 := (s1.slotWrite x.slot 0 (controlLine 1 x.captureFloor p.step x.captureJob.toNat (x.captureTurn.getD 0).toNat s.turn
        x.payloadLen x.jrnFirst last)).count bSav 0x208 1
      let s3 := s2.setSave (s2.save.setSlot x.slot (some (BitVec.ofNat 32 p.step, BitVec.ofNat 64 last)))
      if s3.fld bSav 0x130 0 1 = 1 then .next (s3.setSave { s3.save with stage := .copyOut })
      else .next s3.signalDone.saveWaits
  else .next s

/-! ### Copy-out (R261) -/

def State.copyDest (s : State) : Nat := s.fld bSav 0x130 7 45 * 128

/-- Lines of a copy still in the egress buffer. -/
def State.copyoutHeld (s : State) : Bool := s.owed .copyout

/-- The copy-out record of module flash (R503); the manual gives its fields and not their places (log entry 31). -/
def State.noteCopyout (s : State) (step job dest : Nat) (digest : List Byte) : State :=
  s.flashWrite copyoutRecord (leBytes 4 step ++ leBytes 4 0 ++ leBytes 8 job ++ leBytes 8 dest ++ fitBytes digest 32)

/-- The copy is given up (R261). -/
def State.abandonCopyout (s : State) : State :=
  (((s.dropHeld pSave).setSave { s.save with copyoutAborted := true, stage := .idle, copyoutEpoch := none }).signalDone).saveWaits

/-- A write of the copy, or its control line; one outside the host window is an unmapped access (R318). -/
def State.copyWrite (s : State) (o : WriteOwner) (a : Nat) (bs : PBytes) : State :=
  match s.placeOf a with
  | .host => (s.writeRun saveWho a bs).ownWrites s.ncl.egress.length saveWho o
  | _ => s.unmappedLine saveWho a

/-- Digest line and payload of the slot, written out line by line. -/
def State.copyBody (s : State) (base dest n : Nat) : State :=
  (List.range (n / 128)).foldl
    (fun acc i => let (t, bs) := acc.readRun saveWho (base + 128 * i) 128; t.copyWrite .copyout (dest + 128 * i) bs) s

/-- COPY_OUT_SLOT (R253, R261): digest line and payload first; the control line once they are acknowledged. -/
def execCopyOutSlot (s : State) : Host.Outcome State Fault Refusal :=
  let x := s.save
  let base := s.slotBase x.slot
  let dest := s.copyDest
  if s.saveActive && x.stage == .copyOut then
    match x.copyoutEpoch with
    | none =>
      if s.hostFull dest (x.payloadLen + 256) then .next s
      else match s.savePay (x.payloadLen + 128) with
      | none => .next (s.saveHold (x.payloadLen + 128))
      | some s1 =>
        let s2 := s1.copyBody (base + 128) (dest + 128) (x.payloadLen + 128)
        .next (s2.setSave { s2.save with copyoutEpoch := some s.ncl.epoch })
    | some e =>
      if e ≠ s.ncl.epoch then .next s.abandonCopyout
      else if s.copyoutHeld then .next s
      else
        match s.savePay 128 with
        | none => .next (s.saveHold 128)
        | some s1 =>
          let (s2, ctl) := s1.readRun saveWho base 128
          let dig : PBytes := s.peek (base + 192) 32
          let s3 := (s2.copyWrite .control dest ctl).noteCopyout (fieldLe ctl.data 8 4) (fieldLe ctl.data 16 8) dest dig.data
          .next s3.signalDone.saveWaits
  else .next s

/-! ### RESTORE (R263, R264) -/

/-- The checkpoint's layout agrees with the verified layout (R264). -/
def State.layoutAgrees (s : State) (substituted : Bool) (layoutDigest sections : List Byte) : Bool :=
  s.loader.verified
    && (if substituted then
          !s.layoutMixed && (List.range 8).all fun i =>
            (sections.drop (32 * i)).take 32 == fitBytes (match s.loader.dirs[i + 1]? with | some d => d.2.2 | none => []) 32
        else layoutDigest == fitBytes s.loader.digest 64)

/-- A control line marks a checkpoint of which something can be read: all of it lies below the end of LPDDR5X. -/
def restoreReadable (base : Nat) (ctl : PBytes) : Bool := controlValid ctl && decide (base + 256 + fieldLe ctl.data 40 8 ≤ lpxEnd)

/-- The checks of RESTORE on the control line, and the digest line and payload, as they were read (R263, R449); the plan of
the checkpoint where they pass. -/
def State.restoreCheck (s : State) (base : Nat) (substituted : Bool) (ctl all : PBytes) : Option SavePlan :=
  if !restoreReadable base ctl then none
  else
    let payload := all.data.drop 128
    if all.anyPoison || (all.data.drop 64).take 32 != shake256 payload 32 then none
    else
      let h := (payload.drop 256).take 64
      let p := planOf ((payload.drop 256).take (planLen h))
      if planHeaderOk h && p.ok && s.layoutAgrees substituted (all.data.take 64) (payload.take 256)
          && p.tokens.all (fun t => s.isDisabled (bTok (tokTile t))) then some p
      else none

/-- Reading for the checks: the control line, and the digest line and payload where that is valid (R263). -/
def State.restoreReads (s : State) (base : Nat) : State × PBytes × PBytes :=
  let (s1, ctl) := s.readRun saveWho base 128
  if restoreReadable base ctl then
    let (s2, all) := s1.readRun saveWho (base + 128) (128 + fieldLe ctl.data 40 8)
    (s2, ctl, all)
  else (s1, ctl, [])

/-- Copy a run of bytes. -/
def State.copyRun (s : State) (dst src n : Nat) : State := let (s1, bs) := s.readRun saveWho src n; s1.writeRun saveWho dst bs

/-- Copy every entry back, and set the saved tokens to the counts that the check has read (R189, R263). -/
def State.restoreState (s : State) (base : Nat) (p : SavePlan) (counts : List Byte) : State :=
  let s1 := p.placed.foldl (fun acc e => acc.copyRun e.2.2.src (base + e.2.1) e.2.2.len) s
  (p.tokens.zip (List.range p.tokens.length)).foldl
    (fun acc t => (acc.setCount t.1 (fieldLe counts (4 * t.2) 4)).release t.1) s1

/-- First entry of a checkpoint's journal segment, and one past its last (R256). -/
def segmentOf (ctl : List Byte) : Nat × Nat := (fieldLe ctl 48 8, (fieldLe ctl 56 8 + 1) % 2 ^ 64)

/-- Write the journal segment back into the ring and go on after it (R263). -/
def State.restoreJournal (s : State) (base : Nat) (p : SavePlan) (first fin : Nat) : State :=
  let s1 := (List.range (fin - first)).foldl
    (fun acc i => acc.copyRun (acc.jrnAddr (first + i)) (base + p.jrnOff + 128 * i) 128) s
  s1.setSave { s1.save with jrnNext := BitVec.ofNat 64 fin, jrnFirstHeld := BitVec.ofNat 64 first }

/-- A RESTORE ends; the slots are read anew (R279). -/
def State.restoreEnds (s : State) (refused : Bool) : State :=
  (s.setSave { s.save with restoring := none, restoreRefused := refused }).readSlots

/-- The checks of a RESTORE, and what it writes once its price is covered (R216, R253, R263, R264). -/
def State.restoreRun (s : State) (journal substituted : Bool) : State :=
  let base := s.fld bSav 0x140 7 45 * 128
  let (s0, ctl, all) := s.restoreReads base
  match s.restoreCheck base substituted ctl all with
  | none => s0.restoreEnds true
  | some p =>
    let (first, fin) := segmentOf ctl.data
    let n := (p.entries.map (·.len)).sum + (if journal then 128 * (fin - first) else 0)
    match s0.savePay n with
    | none => s.saveHold n
    | some s1 =>
      let s2 := s1.restoreState base p (all.data.drop (p.tokenOff - 128))
      (if journal then s2.restoreJournal base p first fin else s2).restoreEnds false

/-- A RESTORE is accepted; one written while another runs is ignored (R279; log entry 7). -/
def State.startRestore (s : State) (journal substituted : Bool) : State :=
  match s.save.restoring with
  | none => s.setSave { s.save with restoring := some (journal, substituted), restoreRefused := false }
  | some _ => s

/-- RESTORE (R263, R264): the one that was accepted, or one written now that none runs, comes to its end; after a fatal error
none goes on (R446). -/
def execRestore (journal substituted : Bool) (s : State) : Host.Outcome State Fault Refusal :=
  let s1 := s.startRestore journal substituted
  if s1.save.restoring ≠ some (journal, substituted) then .next s
  else if s1.power.issueStopped then .next s1
  else if s1.hostWaits (s1.fld bSav 0x140 7 45 * 128) 128 then .next (s1.hostStall saveWho)
  else .next (s1.restoreRun journal substituted)

/-! ### Appends (R262, R266) -/

/-- APPEND (R262): the staged entry, or a refusal that JRN_FULL reports. -/
def execAppend (s : State) : Host.Outcome State Fault Refusal :=
  if s.jrnRoom (s.save.jrnNext.toNat + s.save.appends.length) then
    let stage (i : Nat) : List Byte := leBytes 8 (s.reg bSav (0x180 + 8 * i)).toNat
    let s1 := s.setSave { s.save with jrnFull := false }
    .next (s1.takeAppend ((List.range 14).flatMap stage))
  else .next ((s.setSave { s.save with jrnFull := true }).count bSav 0x210 1)

/-- The bytes of a SUBSTITUTION entry that the save engine does not fill (R266). -/
def substitutionEntry (engine sample pos work reason step : Nat) : List Byte :=
  leBytes 1 4 ++ leBytes 1 (engine + 1) ++ leBytes 6 0 ++ leBytes 8 step
    ++ leBytes 8 sample ++ leBytes 4 pos ++ leBytes 4 work ++ leBytes 1 reason

/-- INTAKE_JOURNAL_APPEND (R262, R266, R438): the engine's oldest SUBSTITUTION entry, once there is room and its price is
covered. -/
def execIntakeJournalAppend (engine : Ix16) (s : State) : Host.Outcome State Fault Refusal :=
  let x := s.intake engine
  match x.journal with
  | (sample, pos, work, reason, step) :: rest =>
    if s.jrnRoom s.save.jrnNext.toNat && s.save.appends.isEmpty && !s.power.issueStopped then
      match (s.setIntake engine { x with journal := rest }).jrnAppend (substitutionEntry engine sample pos work reason step) with
      | some s1 => .next s1
      | none => .next (s.saveHold 128)
    else .next s
  | [] => .next s

/-! ### Enabling and disabling (R257, R258, R279) -/

def State.enableSave (s : State) : State := (s.readSlots).saveWaits

/-- A save runs and has not made its slot valid. -/
def Save.unfinished (x : Save) : Bool := x.granted || x.stage == .started || x.stage == .counted || x.stage == .captured || x.stage == .done

/-- A save that the disabling of its engine ends: a fault with code 6, or, once the slot is valid, a copy given up (R258,
R261; log entry 84). -/
def State.stopSave (s : State) : State :=
  if s.save.unfinished then s.saveFault 6 0
  else if s.save.stage = .copyOut then
    ((s.dropHeld pSave).setSave { s.save with copyoutAborted := true, stage := .idle, copyoutEpoch := none }).signalDone
  else s

/-- Disabling ends a running save and withdraws an outstanding wait. -/
def State.disableSave (s : State) : State :=
  let s1 := s.stopSave.hostForget (· == saveWho)
  if s1.save.waiting then
    (s1.setSave { s1.save with withdrawing := true }).sendToken
      (.withdrawal agSave (BitVec.ofNat 16 (s.fld bSav 0x120 0 16)))
  else s1

end Sys2Proof.Machine
end

