-- ==== Sys2Proof/Machine/HostLink.lean ====
section
/-! DEFINITION. The companion link: link loss and epochs, the egress buffer, host snoops, command rings, copies, the
mailbox and the fence (R396 to R416). -/

namespace Sys2Proof.Machine

def State.setNcl (s : State) (x : Ncl) : State := { s with ncl := x }

/-! ### Link loss (R278, R396, R410) -/

/-- The link goes down. -/
def State.linkLost (s : State) : State :=
  s.setNcl { s.ncl with up := false, egressHeld := true, lossTurn := s.turns.now, flitAcked := 0, flitReplays := 0 }

/-- NCL_LINK_DOWN (R396, R397, R410). A host reset is remembered until a decision, also while the link is down. -/
def execNclLinkDown (cause : DownCause) (s : State) : Host.Outcome State Fault Refusal :=
  let s1 := if cause = .hostReset then s.setNcl { s.ncl with hostReset := true } else s
  .next (if s1.ncl.up then s1.linkLost else s1)

/-- The last flit acknowledged when a replay begins, and replays in a row of the flit after it: a NAK that acknowledges
another flit begins a new run. -/
def Ncl.replayed (x : Ncl) : ReplayCause → Nat × Nat
  | .nak acked => (acked, if acked = x.flitAcked then x.flitReplays + 1 else 1)
  | .timeout => (x.flitAcked, x.flitReplays + 1)

/-- NCL_FLIT_REPLAY (R396): the eighth replay of one flit in a row takes the link down. What a flit's header and payload hold
is not said, and the replay buffer is not kept (log entry 95). -/
def execNclFlitReplay (cause : ReplayCause) (s : State) : Host.Outcome State Fault Refusal :=
  if !s.ncl.up then .next s
  else
    let (acked, run) := s.ncl.replayed cause
    let s1 := s.setNcl { s.ncl with flitAcked := acked, flitReplays := run }
    .next (if 8 ≤ run then s1.linkLost else s1)

/-! ### Link-up and decisions (R278, R397, R411 to R413) -/

/-- A job runs while some compute core is not disabled (log entry 61). -/
def State.jobRuns (s : State) : Bool := (List.range 416).any fun c => !s.isDisabled (bCore c)

/-- The resume record (R278). -/
def State.resumeRecord (s : State) (hostReset : Bool) (oldEpoch newEpoch : Nat) : List Byte :=
  let lastStep := (List.range 16).foldl (fun (m : Nat) i => min m (s.sweep i).lastStep.toNat) (2 ^ 32 - 1)
  let ckpt := match s.save.newestSlot with
    | some k => ((s.save.slotMark k).map (·.1.toNat)).getD 0
    | none => 0
  let flags := (if s.jobRuns then 1 else 0) + (if s.ncl.egressHeld then 2 else 0) + (if s.save.copyoutAborted then 4 else 0)
  leBytes 4 0x5352464E ++ leBytes 2 1 ++ leBytes 1 (if hostReset then 1 else 2) ++ leBytes 1 flags ++ leBytes 4 oldEpoch
    ++ leBytes 4 newEpoch ++ leBytes 8 s.loader.jobId.toNat ++ leBytes 8 s.ncl.lossTurn.toNat ++ leBytes 8 s.turn
    ++ leBytes 4 lastStep ++ leBytes 4 ckpt ++ leBytes 8 s.save.jrnNext.toNat ++ leBytes 8 s.egressBytes
    ++ leBytes 8 s.ncl.seq ++ fitBytes s.loader.digest 32 ++ List.replicate 24 0

/-- Transactions that waited for the host go on (R410, R412). -/
def State.wakeHost (s : State) : State :=
  (List.range 8).foldl (fun acc i => ((s.home (64 + i)).txns.map (·.line)).foldl (fun a l => a.advance (64 + i) l) acc) s

/-- Transactions that wait to read the host are answered with poison (R412). -/
def State.refuseReads (s : State) : State :=
  (List.range 8).foldl
    (fun acc i =>
      let x := acc.home (64 + i)
      acc.setHome (64 + i)
        { x with txns := x.txns.map fun t => if t.started && t.snoops.isEmpty && t.readsHome && acc.placeOf (t.line * 128) == .host
            then { t with fwd := some (false, PBytes.refused 128) } else t }) s

/-- Interrupts that waited for the decision are sent (R411). -/
def State.sendVectors (s : State) : State :=
  s.ncl.vectors.foldl (fun acc v => acc.emit (.nclInterrupt v)) (s.setNcl { s.ncl with vectors := [] })

/-- A host snoop at the home of its line (R399). -/
def State.hostSnoop (s : State) (line : Nat) (req : CohReq) : State :=
  if s.placeOf (line * 128) = .host then s.request line req .host [] 0 else s.emit (.hostSnoopAnswer line none [])

/-- Snoops that were held are answered, in the order they came. -/
def State.answerSnoops (s : State) : State :=
  s.ncl.heldSnoops.foldl (fun acc x => acc.hostSnoop x.1 x.2) (s.setNcl { s.ncl with heldSnoops := [] })

/-- Adoption of the old epoch (R412): held writes go out in order, waiting reads are reissued, rings resume. -/
def State.adopt (s : State) : State :=
  ((s.setNcl { s.ncl with decide := false, egressHeld := false, hostReset := false, waiting := [] }).wakeHost).runMovers.answerSnoops.sendVectors

/-- Each hub home invalidates the host lines that agents hold; dirty data is discarded (R412). -/
def State.dropHostLines (s : State) : State :=
  let hit := s.dirs.filter fun e => hostBase ≤ e.1 * 128
  let s1 := hit.foldl
    (fun acc e =>
      let d := e.2
      let n := (if d.st = .X ∨ d.st = .O then 1 else 0) + (snoopTargets d.sharers).length
      acc.count (bHome (homeOf (e.1 * 128))) 0x150 n) s
  { s1 with
    dirs := s1.dirs.filter fun e => e.1 * 128 < hostBase
    lines := s1.lines.filter fun e => e.1 / 512 * 128 < hostBase }

/-- A command is a copy. -/
def RingCmd.copies (c : RingCmd) : Bool := c.op == 2 || c.op == 3

/-- A ring is taken out of service; a command in progress stops before its next line and writes no completion (R412). -/
def State.disableRing (s : State) (r : Nat) : State :=
  let copying := ((s.ring r).cmd.map (·.copies)).getD false
  let s1 := (s.setRing r { s.ring r with enabled := false, cmd := none, staleReads := 0 }).setFld bNcl (0x1000 + 0x40 * r) 0 1 0
  if copying then s1.dropHeld (pCmp 8) else s1

/-- A ring is put in service (R403): its counts start at 0, its status bits stay until what clears them (R404, R405). -/
def State.enableRing (s : State) (r : Nat) : State :=
  (s.setRing r { s.ring r with enabled := true, cmd := none, c := 0, p := 0, tail := 0, head := 0, staleReads := 0 }).setFld bNcl (0x1000 + 0x40 * r) 0 1 1

/-- A core's moves whose writes the host has acknowledged, or that a decision discarded, are complete (R150, R399). -/
def State.settleMoves (s : State) (core : Nat) : State :=
  if (s.core core).moves.isEmpty then s
  else s.setCore core { s.core core with moves := (s.core core).moves.filter fun m => s.owed (.move core m.seq) }

/-- Declining the old epoch (R412): the writes in the buffer are discarded, those that waited for room follow them into it;
waiting reads are answered with poison. -/
def State.decline (s : State) : State :=
  let s1 := (s.count bNcl 0x150 s.egressBytes).setNcl
    { s.ncl with
      decide := false, egressHeld := false, hostReset := false, resumePending := false, resume := []
      egress := s.ncl.egress.drop (inBuffer 0 s.ncl.egress).length, waiting := [], refused := s.ncl.waiting }
  let s2 := (List.range 416).foldl State.settleMoves ((List.range 16).foldl State.disableRing s1.dropHostLines.refuseReads)
  s2.wakeHost.runMovers.answerSnoops.sendVectors

/-- The copy-out to the host is abandoned at an epoch change, and a control line that the host has not acknowledged is
never sent (R261, R412). -/
def State.copyoutLost (s : State) : State :=
  let s1 := if s.save.copyoutEpoch.isSome then s.abandonCopyout else s
  if s1.owed .control then
    { s1 with
      ncl := { s1.ncl with egress := s1.ncl.egress.filter fun e => e.owner ≠ .control }
      save := { s1.save with copyoutAborted := true } }
  else s1

/-- NCL_LINK_UP (R397, R411, R413). -/
def execNclLinkUp (hostReset : Bool) (halfWidth : Bool) (s : State) : Host.Outcome State Fault Refusal :=
  if s.ncl.up then .next s
  else
    let old := s.ncl.epoch
    let hr := hostReset || s.ncl.hostReset
    let s1 := s.setNcl { s.ncl with up := true, everUp := true, half := halfWidth, epoch := old + 1, flitReplays := 0 }
    if old = 0 then
      .next (s1.setNcl { s1.ncl with egressHeld := false, hostReset := false, waiting := [] }).wakeHost.runMovers
    else
      let s2 := s1.copyoutLost
      let s3 := (s2.setNcl
        { s2.ncl with
          resume := s2.resumeRecord hr old.toNat (old + 1).toNat, resumePending := true, decide := true, hostReset := hr }).emit
        (.nclInterrupt s.eventVector)
      .next (if !hr && s.fld bNcl 0x108 0 1 == 1 then s3.adopt else s3)

/-- A write of NCL_EPOCH_CTL that is not accepted (R412). -/
def State.epochIgnored (s : State) : State := s.setNcl { s.ncl with ignored := true }

/-- ADOPT (R412). -/
def execAdopt (epoch : BitVec 32) (s : State) : Host.Outcome State Fault Refusal :=
  if s.ncl.decide && epoch == s.ncl.epoch then
    .next (s.setNcl { s.ncl with ignored := false, resumePending := false, resume := [] }).adopt
  else .next s.epochIgnored

/-- DECLINE (R412). -/
def execDecline (epoch : BitVec 32) (s : State) : Host.Outcome State Fault Refusal :=
  if s.ncl.decide && epoch == s.ncl.epoch then .next (s.setNcl { s.ncl with ignored := false }).decline
  else .next s.epochIgnored

/-- ACK (R413): ends the presentation of the resume record after an automatic adoption. -/
def execAck (epoch : BitVec 32) (s : State) : Host.Outcome State Fault Refusal :=
  if s.ncl.resumePending && !s.ncl.decide && epoch == s.ncl.epoch then
    .next (s.setNcl { s.ncl with ignored := false, resumePending := false, resume := [] })
  else .next s.epochIgnored

/-- DECIDE_TIMEOUT (R413). -/
def execDecideTimeout (s : State) : Host.Outcome State Fault Refusal :=
  if s.ncl.decide && s.fld bNcl 0x108 16 32 != 0 then .next (s.decline.record bNcl 0x0218 0 0 s.ncl.epoch.toNat)
  else .next s

/-! ### The egress buffer (R400) -/

/-- What the acknowledgement of a write completes (R399); what waits for room in the buffer goes on (R400). -/
def State.writeDone (s : State) (own : WriteOwner) : State :=
  match own with
  | .move core _ => (s.settleMoves core).runMovers
  | _ => s.runMovers

/-- HOST_WRITE_ACKNOWLEDGEMENT (R399, R400, R406): the oldest write is visible in host memory and complete; a completion's
interrupt follows. -/
def execHostWriteAcknowledgement (s : State) : Host.Outcome State Fault Refusal :=
  match s.ncl.egress with
  | [] => .next s
  | e :: rest =>
    if !s.ncl.up || s.ncl.decide || s.ncl.egressHeld then .next s
    else
      let s1 := (s.setNcl { s.ncl with egress := rest, flitReplays := 0 }).writeKey e.addr (e.bytes.map fun b => (b, e.poison)) false
      let s2 := s1.writeDone e.owner
      match e.completion with
      | some (_, seq, vec) =>
        let s3 := s2.setNcl { s2.ncl with seqAcked := seq }
        .next (match vec with
          | some v => s3.emit (.nclInterrupt v)
          | none => s3)
      | none => .next s2

/-! ### Host snoops (R399, R411) -/

/-- A host snoop: held or answered as a miss while a decision is open. -/
def State.snoopFromHost (s : State) (line : Nat) (req : CohReq) : State :=
  if !s.ncl.up then s
  else if s.ncl.decide then
    if (s.dir line).st = .U then s.emit (.hostSnoopAnswer line none [])
    else s.setNcl { s.ncl with heldSnoops := s.ncl.heldSnoops ++ [(line, req)] }
  else s.hostSnoop line req

/-- HSNPS (R399). -/
def execHsnps (line : Nat) (s : State) : Host.Outcome State Fault Refusal := .next (s.snoopFromHost line .hsnps)

/-- HSNPU (R399). -/
def execHsnpu (line : Nat) (s : State) : Host.Outcome State Fault Refusal := .next (s.snoopFromHost line .hsnpu)

/-- HSNPI (R399). -/
def execHsnpi (line : Nat) (s : State) : Host.Outcome State Fault Refusal := .next (s.snoopFromHost line .hsnpi)

/-! ### Rings (R403 to R406) -/

def ringBase (r : Nat) : Nat := 0x1000 + 0x40 * r

/-- Slots of ring r. -/
def State.ringSlots (s : State) (r : Nat) : Nat := 2 ^ s.fld bNcl (ringBase r) 1 5

def State.sqBase (s : State) (r : Nat) : Nat := s.fld bNcl (ringBase r + 8) 6 46 * 64
def State.cqBase (s : State) (r : Nat) : Nat := s.fld bNcl (ringBase r + 0x10) 6 46 * 64

/-- The stamp of number i in a ring of n slots. -/
def stampOf (i n : Nat) : Nat := (i / n + 1) % 65536

/-- The completion ring has no free entry. -/
def State.cqFull (s : State) (r : Nat) : Bool :=
  let x := s.ring r
  decide (s.ringSlots r ≤ (x.tail - x.head).toNat)

/-- DOORBELL (R404, R405): an accepted one ends STALE_WAIT, after which the reads of slot C start anew. -/
def execDoorbell (ring : Ix16) (p : BitVec 32) (s : State) : Host.Outcome State Fault Refusal :=
  let r := ring.val
  let x := s.ring r
  let d := (p - x.c).toNat
  if d = 0 then .next s
  else if d ≤ s.ringSlots r then .next (s.setRing r { x with p := p, ringError := false, staleWait := false })
  else .next ((s.setRing r { x with ringError := true }).count bNcl 0x148 1)

/-- CQ_HEAD (R406). -/
def execCqHead (ring : Ix16) (head : BitVec 32) (s : State) : Host.Outcome State Fault Refusal :=
  .next (s.setRing ring { s.ring ring with head := head })

/-- A slot can be fetched now. -/
def State.canFetch (s : State) (r : Nat) : Bool :=
  let x := s.ring r
  x.enabled && s.ncl.up && !s.ncl.decide && x.c != x.p && x.cmd.isNone && !x.staleWait && !s.cqFull r

/-- Requester code of link compression engine 8 (R509). -/
def ringWho : Nat := cmpWho 8

/-- A slot as it arrives from the host: a request at the line's home that no cache answers; an access outside the window is
unmapped (R318, R399, R405). Its answer shows that a flit has got through (R396). -/
def State.readHost (s : State) (a n : Nat) : State × PBytes :=
  match s.placeOf a with
  | .host => ((s.setNcl { s.ncl with flitReplays := 0 }).countRequest (homeOf a) 0 0).arrive (s.readKey a n)
  | _ => (s.unmappedLine ringWho a, PBytes.refused n)

/-- Addresses and format of a copy (R407). -/
structure CopyArgs where
  host : Nat
  dev : Nat
  len : Nat
  form : Nat
  vfmt : Nat
  table : Nat
  deriving DecidableEq, Repr

def copyArgs (a : List Byte) : CopyArgs :=
  { host := fieldLe a 0 8, dev := fieldLe a 8 8, len := fieldLe a 16 8, form := fieldLe a 24 1, vfmt := fieldLe a 25 1
    table := fieldLe a 32 8 }

def CopyArgs.esize (x : CopyArgs) : Nat := ((Fmt.ofCode x.vfmt).getD .fp32).size
def CopyArgs.values (x : CopyArgs) : Nat := x.len / x.esize

/-- Blocks of a compressed copy. -/
def CopyArgs.blocks (x : CopyArgs) : Nat := ceilDiv x.values 2048

/-- Bytes of host memory that the copy may touch. -/
def CopyArgs.hostBytes (x : CopyArgs) : Nat := if x.form = 0 then x.len else 4096 * x.blocks

/-- The table image of a compressed copy lies in one region of the device. -/
def CopyArgs.hasTable (x : CopyArgs) : Bool := x.form == 2 && inImageMemory x.table 192

/-- The status of arguments that are invalid, none where they are valid, with the table image that was read (R407, R408). -/
def State.copyInvalid (s : State) (a : List Byte) (image : PBytes) : Option Nat :=
  let x := copyArgs a
  let compressed : Bool := x.form == 2
  if !(zeroRange a 26 6 && zeroRange a 40 8) || !(x.form == 0 || compressed) || x.len == 0 || decide (2 ^ 40 < x.len)
      || (compressed && !((x.vfmt == 3 || x.vfmt == 5) && x.len % x.esize == 0)) then some 1
  else if !inImageMemory x.dev x.len || decide (x.host < hostBase) || decide (hostBase + s.hostSize < x.host + x.hostBytes)
      || (compressed && !inImageMemory x.table 192) then some 2
  else if compressed && (image.anyPoison || (tableOf image.data).isNone) then some 4
  else none

/-- The status of a command that is refused at once: a reserved OP, field or value, or invalid copy arguments. -/
def State.slotInvalid (s : State) (d : List Byte) (image : PBytes) : Option Nat :=
  let op := fieldLe d 2 1
  let a := (d.drop 8).take 48
  if bitsOf (fieldLe d 3 1) 1 7 ≠ 0 ∨ ¬ (zeroRange d 56 4 = true) ∨ op = 0 ∨ 5 < op then some 1
  else if op = 2 ∨ op = 3 then s.copyInvalid a image
  else if op = 5 ∧ (¬ (zeroRange a 2 2 && zeroRange a 8 40) = true ∨ fieldLe a 4 4 = 0) then some 1
  else if op = 1 ∧ ¬ (zeroRange a 0 48 = true) then some 1
  else none

/-- Read slot C and execute or reject it (R405). -/
def State.fetchSlot (s : State) (r : Nat) : State :=
  let x := s.ring r
  let n := s.ringSlots r
  let (s1, bs) := s.readHost (s.sqBase r + 64 * (x.c.toNat % n)) 64
  let d := bs.data
  let stamp : Bool := fieldLe d 0 2 == stampOf x.c.toNat n
  let check : Bool := fieldLe d 60 4 == crc32 (d.take 60)
  if !bs.anyPoison && stamp && check then
    let y := copyArgs ((d.drop 8).take 48)
    let (s2, image) :=
      if (fieldLe d 2 1 == 2 || fieldLe d 2 1 == 3) && y.hasTable then s1.readRun ringWho y.table 192 else (s1, [])
    s2.setRing r
      { x with
        staleReads := 0
        cmd := some
          { op := fieldLe d 2 1, irq := bitOf (fieldLe d 3 1) 0, tag := BitVec.ofNat 32 (fieldLe d 4 4)
            args := (d.drop 8).take 48, image := image.data, progress := 0, finished := s.slotInvalid d image } }
  else
    (s1.setRing r
      { x with
        staleReads := if x.staleReads = 8 then 0 else x.staleReads + 1
        staleWait := decide (x.staleReads = 8), checkFail := !bs.anyPoison && stamp && !check }).count bNcl 0x140 1

/-- SLOT_READ (R405): the first read of slot C. -/
def execSlotRead (ring : Ix16) (s : State) : Host.Outcome State Fault Refusal :=
  if s.canFetch ring && (s.ring ring).staleReads == 0 then .next (s.fetchSlot ring) else .next s

/-- STALE_REREAD (R405). -/
def execStaleReread (ring : Ix16) (s : State) : Host.Outcome State Fault Refusal :=
  if s.canFetch ring && (s.ring ring).staleReads != 0 then .next (s.fetchSlot ring) else .next s

/-! ### Commands (R407, R408) -/

/-- The ring's command, where it has an opcode and its work is not done. -/
def State.ringWork (s : State) (r op : Nat) : Option RingCmd :=
  match (s.ring r).cmd with
  | some c => if c.op = op ∧ c.finished = none then some c else none
  | none => none

def State.setCmd (s : State) (r : Nat) (c : RingCmd) : State := s.setRing r { s.ring r with cmd := some c }

/-- RING_NOP (R407). -/
def execRingNop (ring : Ix16) (s : State) : Host.Outcome State Fault Refusal :=
  match s.ringWork ring 1 with
  | some c => .next (s.setCmd ring { c with finished := some 0 })
  | none => .next s

/-- MESSAGE (R407): waits while the mailbox of 64 is full. -/
def execMessage (ring : Ix16) (s : State) : Host.Outcome State Fault Refusal :=
  match s.ringWork ring 4 with
  | some c =>
    if s.ncl.mailbox.length < 64 then
      .next ((s.setNcl { s.ncl with mailbox := s.ncl.mailbox ++ [c.args] }).setCmd ring { c with finished := some 0 })
    else .next s
  | none => .next s

/-- COMMAND_SIGNAL (R407): a signal without rights. -/
def execCommandSignal (ring : Ix16) (s : State) : Host.Outcome State Fault Refusal :=
  match s.ringWork ring 5 with
  | some c =>
    let tok := fieldLe c.args 0 2
    let s1 := s.setCmd ring { c with finished := some 0 }
    .next (s1.sendToken (.signal agHub (BitVec.ofNat 16 tok) (BitVec.ofNat 32 (fieldLe c.args 4 4))))
  | none => .next s

/-- Engine 8 may work: enabled, no fatal error (R446). -/
def State.copyActive (s : State) : Bool := s.isEnabled (bCmp 8) && !s.power.issueStopped

/-- Line k of a destination range: its first byte as an offset in the range, and its length. -/
def rangeLine (base len k : Nat) : Nat × Nat :=
  let lo := if k = 0 then 0 else (base / 128 + k) * 128 - base
  (lo, min len ((base / 128 + k + 1) * 128 - base) - lo)

/-- Lines of a destination range. -/
def rangeLines (base len : Nat) : Nat := (base + len - 1) / 128 - base / 128 + 1

/-- Write bytes of a copy to the host (R400, R407). -/
def State.copyToHost (s : State) (r a : Nat) (bs : PBytes) : State :=
  (s.writeRun ringWho a bs).ownWrites s.ncl.egress.length ringWho (.ring r)

/-- What one piece of a copy does: the state after, whether a poisoned word was read. -/
abbrev CopyPiece := State × Bool

/-- One line of a raw copy. -/
def State.rawPiece (s : State) (r : Nat) (out : Bool) (x : CopyArgs) (k : Nat) : CopyPiece :=
  let (lo, n) := rangeLine (if out then x.host else x.dev) x.len k
  let (s1, bs) := s.readRun ringWho ((if out then x.dev else x.host) + lo) n
  let bad := bs.anyPoison
  let w : PBytes := if bad then bs.map fun b => (b.1, true) else bs
  (if out then s1.copyToHost r (x.host + lo) w else s1.writeRun ringWho (x.dev + lo) w, bad)

/-- One block of a compressed copy to the host. -/
def State.outPiece (s : State) (r : Nat) (x : CopyArgs) (t : Table) (i : Nat) : CopyPiece × Nat :=
  let n := min 2048 (x.values - 2048 * i)
  let f := (Fmt.ofCode x.vfmt).getD .fp32
  let (s1, bs) := s.readRun ringWho (x.dev + f.size * 2048 * i) (f.size * n)
  let outs := (bodyElems f n bs.data).map fun u => widenBits f u 127 true
  let vs : Values := if bs.anyPoison then none else some (outs.map (·.1))
  let (ws, coded, fl) := encodeBlock vs n 2 0 0 t.gen t
  let s2 := (s1.copyToHost r (x.host + 4096 * i) (wordsBytes ws)).countCoded 8 ws coded
  let s3 := if bs.anyPoison then s2.count (bCmp 8) 0x168 1
    else (s2.count (bCmp 8) 0x140 n).collEvents 8 (outs.foldl (fun (g : Flags) o => Flags.or g o.2) fl)
  ((s3, bs.anyPoison), blockUnits ws)

/-- One block of a compressed copy from the host; a block that R374 delivers as poison writes poison. -/
def State.inPiece (s : State) (x : CopyArgs) (t : Table) (i : Nat) : CopyPiece × Nat :=
  let n := min 2048 (x.values - 2048 * i)
  let f := (Fmt.ofCode x.vfmt).getD .fp32
  let (s1, ws) := s.storedBlock ringWho (x.host + 4096 * i)
  let a := x.dev + f.size * 2048 * i
  match decodeBlock ws n (fun _ => some t) with
  | .ok vs fl =>
    let (bs, f2) := packedValues x.vfmt n (some vs)
    ((((s1.writeRun ringWho a bs).count (bCmp 8) 0x140 n).collEvents 8 (Flags.or fl f2), false), blockUnits ws)
  | .bad row => (((s1.writeRun ringWho a (PBytes.refused (f.size * n))).count (bCmp 8) 0x168 1, decide (row = 0)), blockUnits ws)

/-- One piece of a ring's copy, paid for; none where it cannot move now. -/
def State.copyMove (s : State) (r : Nat) (out : Bool) : Option State :=
  match s.ringWork r (if out then 3 else 2) with
  | none => none
  | some c =>
    let x := copyArgs c.args
    let k := c.progress
    let t := (tableOf c.image).getD noTable
    let raw : Bool := x.form == 0
    let total := if raw then rangeLines (if out then x.host else x.dev) x.len else x.blocks
    let (piece, units) :=
      if raw then (s.rawPiece r out x k, 1) else if out then s.outPiece r x t k else s.inPiece x t k
    let work : Work := [(if raw then 10 else 14, aHub, units)]
    if (out && s.hostFull x.host x.hostBytes) || !s.copyActive then none
    else if !out && s.hostWaits x.host x.hostBytes then
      let h := s.hostStall ringWho
      if h = s then none else some h
    else if s.covered (pCmp 8) (s.price work) then
      let s1 := piece.1.charge (pCmp 8) work
      some (s1.setCmd r
        { c with progress := k + 1, finished := if piece.2 then some 3 else if total ≤ k + 1 then some 0 else none })
    else
      let h := s.holdPrice (pCmp 8) work
      if h = s then none else some h

def State.copyMoves (out : Bool) (r : Nat) : Nat → State → State
  | 0, s => s
  | n + 1, s =>
    match s.copyMove r out with
    | some s1 => State.copyMoves out r n s1
    | none => s

/-- COPY_IN (R407, R408): up to `lines` lines or blocks of the copy. -/
def execCopyIn (ring : Ix16) (lines : Nat) (s : State) : Host.Outcome State Fault Refusal :=
  .next (s.copyMoves false ring lines)

/-- COPY_OUT (R407, R408). -/
def execCopyOut (ring : Ix16) (lines : Nat) (s : State) : Host.Outcome State Fault Refusal :=
  .next (s.copyMoves true ring lines)

/-- The writes that have joined the egress buffer after the first n end with a completion entry: the last of them carries
it. -/
def State.tagCompletion (s : State) (n : Nat) (c : Nat × Nat × Option Byte) : State :=
  match s.ncl.egress.getLast? with
  | some e =>
    if s.ncl.egress.length ≤ n then s
    else s.setNcl { s.ncl with egress := s.ncl.egress.dropLast ++ [{ e with owner := .home, completion := some c }] }
  | none => s

/-- COMPLETION_WRITE (R403, R406): every write of the command has been acknowledged. -/
def execCompletionWrite (ring : Ix16) (s : State) : Host.Outcome State Fault Refusal :=
  let r := ring.val
  let x := s.ring r
  match x.cmd with
  | none => .next s
  | some c =>
    match c.finished with
    | none => .next s
    | some st =>
      if s.owed (.ring r) || s.egressFull then .next s
      else
        let n := s.ringSlots r
        let seq := s.ncl.seq + 1
        let a := s.cqBase r + 16 * (x.tail.toNat % n)
        let bytes := leBytes 2 (stampOf x.tail.toNat n) ++ leBytes 1 st ++ leBytes 1 r ++ leBytes 4 c.tag.toNat ++ leBytes 8 seq
        let vec : Option Byte := if c.irq then some (BitVec.ofNat 8 (s.fld bNcl (ringBase r) 8 8)) else none
        let s1 := (s.setRing r { x with cmd := none, c := x.c + 1, tail := x.tail + 1 })
        let s2 := s1.setNcl { s1.ncl with seq := seq }
        .next ((s2.writeRun ringWho a (.clean bytes)).tagCompletion s2.ncl.egress.length (r, seq, vec))

/-! ### The fence and the mailbox (R409, R416) -/

/-- FENCE (R409): the writes ahead of it have taken effect, and acknowledgements come in the order of the buffer. -/
def execFence (s : State) : Host.Outcome State Fault Refusal :=
  if !s.ncl.up then .next s
  else .next (s.emit (.nclReadData (if s.ncl.decide then BitVec.allOnes 64 else BitVec.ofNat 64 s.ncl.seqAcked)))

/-- MBX_POP (R416). -/
def execMbxPop (s : State) : Host.Outcome State Fault Refusal := .next (s.setNcl { s.ncl with mailbox := s.ncl.mailbox.drop 1 })

end Sys2Proof.Machine
end

