-- ==== Sys2Proof/Machine/Jpeg.lean ====
section
/-! DEFINITION. Decoding of baseline JPEG records (R424, R425) with the work that each step charges (R435). -/

namespace Sys2Proof.Machine

/-! ### Reading a record -/

/-- Why a sample ends early: its reason (R437), the work charged so far, and the size if its header was reached. -/
structure Stop where
  reason : Nat
  work : Nat
  h : Nat
  w : Nat
  deriving DecidableEq, Repr

/-- A record being read: what is left of it, the work charged, the budget where it applies, and the size once known. -/
structure Rd where
  rest : PBytes
  work : Nat
  budget : Option Nat
  h : Nat
  w : Nat
  deriving DecidableEq, Repr

def Rd.stop {α : Type} (r : Rd) (reason : Nat) : Except Stop α :=
  .error { reason := reason, work := r.work, h := r.h, w := r.w }

/-- Charge work; the sample stops at the charge that crosses the budget (R435, R436). -/
def Rd.charge (r : Rd) (n : Nat) : Except Stop Rd :=
  let r1 : Rd := { r with work := r.work + n }
  match r.budget with
  | some b => if b < r1.work then r1.stop 5 else .ok r1
  | none => .ok r1

/-- Consume one byte: a record that has ended is a syntax error, poison is reason 6. -/
def Rd.byte (r : Rd) : Except Stop (Nat × Rd) :=
  match r.rest with
  | [] => r.stop 3
  | (b, bad) :: rest =>
    if bad then r.stop 6 else (Rd.charge { r with rest := rest } 1).map fun r1 => (b.toNat, r1)

def Rd.bytes : Nat → Rd → Except Stop (List Nat × Rd)
  | 0, r => .ok ([], r)
  | n + 1, r =>
    match r.byte with
    | .error e => .error e
    | .ok (b, r1) => (Rd.bytes n r1).map fun x => (b :: x.1, x.2)

/-- A big-endian number. -/
def beNat (l : List Nat) : Nat := l.foldl (fun (a : Nat) b => 256 * a + b) 0

/-- The bytes of a marker segment, after its length. -/
def Rd.segment (r : Rd) : Except Stop (List Nat × Rd) :=
  match r.bytes 2 with
  | .error e => .error e
  | .ok (l, r1) => if beNat l < 2 then r1.stop 3 else r1.bytes (beNat l - 2)

/-! ### Tables and frame -/

/-- (length, code, symbol) of a Huffman table. -/
abbrev Huff := List (Nat × Nat × Nat)

structure JComp where
  id : Nat
  h : Nat
  v : Nat
  tq : Nat
  deriving DecidableEq, Repr

structure Jpeg where
  comps : List JComp
  w : Nat
  h : Nat
  /-- Quantisation tables in zigzag order, and Huffman tables, DC 0 and 1, AC 16 and 17. -/
  quant : Map (List Nat)
  huff : Map Huff
  restart : Nat
  /-- Sample blocks, keyed (component · 65,536 + block row) · 65,536 + block column, 64 samples row by row. -/
  blocks : Map (List Nat)
  /-- Components that have been scanned. -/
  seen : List Nat
  scans : Nat
  deriving DecidableEq, Repr

def Jpeg.empty : Jpeg :=
  { comps := [], w := 0, h := 0, quant := [], huff := [], restart := 0, blocks := [], seen := [], scans := 0 }

/-- Quantisation tables of a DQT segment. -/
def readQuant : Nat → List Nat → Jpeg → Option Jpeg
  | _, [], j => some j
  | 0, _ :: _, _ => none
  | n + 1, p :: l, j =>
    if 3 < p ∨ l.length < 64 then none else readQuant n (l.drop 64) { j with quant := Map.insert j.quant p (l.take 64) }

/-- Codes of a Huffman table from its counts and symbols; none where they are no code. -/
def huffCodes : Nat → Nat → List Nat → List Nat → Option Huff
  | _, _, [], _ => some []
  | len, code, c :: cs, syms =>
    if 2 ^ len < code + c ∨ syms.length < c then none
    else
      (huffCodes (len + 1) (2 * (code + c)) cs (syms.drop c)).map fun r =>
        ((syms.take c).zip (List.range c)).map (fun x => (len, code + x.2, x.1)) ++ r

/-- Tables of a DHT segment: up to two DC and two AC tables. -/
def readHuff : Nat → List Nat → Jpeg → Option Jpeg
  | _, [], j => some j
  | 0, _ :: _, _ => none
  | n + 1, t :: l, j =>
    let counts := l.take 16
    let total := counts.foldl (· + ·) 0
    if ¬ (t = 0 ∨ t = 1 ∨ t = 16 ∨ t = 17) ∨ l.length < 16 + total ∨ 256 < total then none
    else
      match huffCodes 1 0 counts ((l.drop 16).take total) with
      | none => none
      | some h => readHuff n (l.drop (16 + total)) { j with huff := Map.insert j.huff t h }

/-- The frame header, or the reason for which it is refused. -/
def readFrame (l : List Nat) (j : Jpeg) : Except Nat Jpeg :=
  let n := l.getD 5 0
  let comp (i : Nat) : JComp :=
    { id := l.getD (6 + 3 * i) 0, h := l.getD (7 + 3 * i) 0 / 16, v := l.getD (7 + 3 * i) 0 % 16, tq := l.getD (8 + 3 * i) 0 }
  let comps := (List.range n).map comp
  if l.length < 6 ∨ ¬ j.comps.isEmpty then .error 3
  else if l.getD 0 0 ≠ 8 ∨ ¬ (n = 1 ∨ n = 3) then .error 2
  else if l.length ≠ 6 + 3 * n then .error 3
  else if ¬ ((comps.take 1).all fun c => (c.h == 1 || c.h == 2) && (c.v == 1 || c.v == 2)) then .error 2
  else if ¬ ((comps.drop 1).all fun c => c.h == 1 && c.v == 1) then .error 2
  else if comps.any fun c => decide (3 < c.tq) then .error 3
  else
    let h := beNat ((l.drop 1).take 2)
    let w := beNat ((l.drop 3).take 2)
    if h = 0 ∨ w = 0 then .error 3 else .ok { j with comps := comps, h := h, w := w }

/-! ### Entropy-coded data -/

/-- A reader with the unread bits of its current byte. -/
structure Br where
  rd : Rd
  bits : List Bool
  deriving DecidableEq, Repr

def byteBits (b : Nat) : List Bool := (List.range 8).map fun i => b.testBit (7 - i)

/-- One bit; 0xFF stands for itself only before a zero byte. -/
def Br.bit (b : Br) : Except Stop (Bool × Br) :=
  match b.bits with
  | x :: xs => .ok (x, { b with bits := xs })
  | [] =>
    match b.rd.byte with
    | .error e => .error e
    | .ok (v, r) =>
      let got (r : Rd) : Except Stop (Bool × Br) :=
        match byteBits v with
        | x :: xs => .ok (x, { rd := r, bits := xs })
        | [] => r.stop 3
      if v ≠ 255 then got r
      else
        match r.byte with
        | .error e => .error e
        | .ok (z, r2) => if z = 0 then got r2 else r2.stop 3

/-- n bits, the first the most significant. -/
def Br.number : Nat → Nat → Br → Except Stop (Nat × Br)
  | 0, acc, b => .ok (acc, b)
  | n + 1, acc, b =>
    match b.bit with
    | .error e => .error e
    | .ok (x, c) => Br.number n (2 * acc + (if x then 1 else 0)) c

/-- The next Huffman symbol. -/
def Br.symbol (t : Huff) : Nat → Nat → Nat → Br → Except Stop (Nat × Br)
  | 0, _, _, b => b.rd.stop 3
  | n + 1, len, code, b =>
    match b.bit with
    | .error e => .error e
    | .ok (x, c) =>
      let code1 := 2 * code + (if x then 1 else 0)
      match t.find? (fun h => h.1 = len + 1 ∧ h.2.1 = code1) with
      | some h => .ok (h.2.2, c)
      | none => Br.symbol t n (len + 1) code1 c

/-- A value of n bits in the sign form of ISO/IEC 10918-1. -/
def extend (v n : Nat) : Int := if n = 0 then 0 else if v < 2 ^ (n - 1) then (v : Int) - (2 ^ n - 1 : Nat) else v

/-- AC coefficients from zigzag index k onward. -/
def Br.ac (t : Huff) : Nat → Nat → List (Nat × Int) → Br → Except Stop (List (Nat × Int) × Br)
  | 0, _, acc, b => .ok (acc, b)
  | n + 1, k, acc, b =>
    if 63 < k then .ok (acc, b)
    else
      match b.symbol t 16 0 0 with
      | .error e => .error e
      | .ok (rs, c) =>
        let run := rs / 16
        let size := rs % 16
        if size = 0 then
          if run = 0 then .ok (acc, c) else if run = 15 ∧ k + 16 ≤ 63 then Br.ac t n (k + 16) acc c else c.rd.stop 3
        else if 10 < size ∨ 63 < k + run then c.rd.stop 3
        else
          match c.number size 0 with
          | .error e => .error e
          | .ok (v, d) => Br.ac t n (k + run + 1) ((k + run, extend v size) :: acc) d

/-- The coefficients of a block by zigzag index, its DC value after prediction. -/
def Br.block (dc ac : Huff) (pred : Int) (b : Br) : Except Stop (List (Nat × Int) × Int × Br) :=
  match b.symbol dc 16 0 0 with
  | .error e => .error e
  | .ok (n, c) =>
    if 11 < n then c.rd.stop 3
    else
      match c.number n 0 with
      | .error e => .error e
      | .ok (v, d) =>
        let x := pred + extend v n
        match d.ac ac 63 1 [(0, x)] with
        | .error e => .error e
        | .ok (cs, f) => .ok (cs, x, f)

/-! ### The transform (R425) -/

/-- Position 8·v + u of each zigzag index. -/
def zigzag : List Nat :=
  [0, 1, 8, 16, 9, 2, 3, 10, 17, 24, 32, 25, 18, 11, 4, 5, 12, 19, 26, 33, 40, 48, 41, 34, 27, 20, 13, 6, 7, 14, 21, 28]
  ++ [35, 42, 49, 56, 57, 50, 43, 36, 29, 22, 15, 23, 30, 37, 44, 51, 58, 59, 52, 45, 38, 31, 39, 46, 53, 60, 61, 54, 47, 55, 62, 63]

/-- round(4096 · cos(m · π / 16)) for m from 0 to 8; the m = 0 entry serves u = 0, where it is divided by √2. -/
def cosSixteenths : List Int := [4096, 4017, 3784, 3406, 2896, 2276, 1567, 799, 0]

/-- k[x][u] of R425. -/
def dctK (x u : Nat) : Int :=
  if u = 0 then 2896
  else
    let m := (2 * x + 1) * u % 32
    let q := if 16 < m then 32 - m else m
    if q ≤ 8 then cosSixteenths.getD q 0 else -(cosSixteenths.getD (16 - q) 0)

/-- ⌊a / 2^n⌋, the arithmetic shift. -/
def sar (a : Int) (n : Nat) : Int := a / ((2 ^ n : Nat) : Int)

def clampByte (a : Int) : Nat := if a < 0 then 0 else if 255 < a then 255 else a.toNat

/-- Dequantised coefficient f[u][v]. -/
def coefAt (cs : List (Nat × Int)) (q : List Nat) (u v : Nat) : Int :=
  match cs.find? (fun c => zigzag.getD c.1 64 = 8 * v + u) with
  | some c => c.2 * (q.getD c.1 0 : Nat)
  | none => 0

/-- The 64 samples of a block, row by row. -/
def blockSamples (cs : List (Nat × Int)) (q : List Nat) : List Nat :=
  let t (x v : Nat) : Int := sar ((List.range 8).foldl (fun (a : Int) u => a + dctK x u * coefAt cs q u v) 1024) 11
  let rows := (List.range 8).map fun x => (List.range 8).map fun v => t x v
  (List.range 8).flatMap fun y =>
    (List.range 8).map fun x =>
      clampByte (sar ((List.range 8).foldl (fun (a : Int) v => a + dctK y v * (rows.getD x []).getD v 0) 16384) 15 + 128)

/-! ### Scans -/

/-- One component of a scan: its index, its blocks in an MCU and its tables. -/
structure ScanComp where
  ix : Nat
  h : Nat
  v : Nat
  quant : List Nat
  dc : Huff
  ac : Huff
  deriving DecidableEq, Repr

/-- The prediction of each component, by index. -/
abbrev Preds := Map Int

/-- Decode the blocks of a list of places (component, row, column). -/
def scanBlocks : List (ScanComp × Nat × Nat) → Preds → Jpeg → Br → Except Stop (Preds × Jpeg × Br)
  | [], p, j, b => .ok (p, j, b)
  | (c, row, col) :: rest, p, j, b =>
    match b.block c.dc c.ac (Map.get p c.ix 0) with
    | .error e => .error e
    | .ok (cs, x, b1) =>
      match b1.rd.charge 16 with
      | .error e => .error e
      | .ok r =>
        scanBlocks rest (Map.insert p c.ix x)
          { j with blocks := Map.insert j.blocks ((c.ix * 65536 + row) * 65536 + col) (blockSamples cs c.quant) } { b1 with rd := r }

/-- Blocks of MCU m of a scan that is `wide` MCUs wide. -/
def mcuPlaces (cs : List ScanComp) (wide m : Nat) : List (ScanComp × Nat × Nat) :=
  cs.flatMap fun c =>
    (List.range c.v).flatMap fun y => (List.range c.h).map fun x => (c, m / wide * c.v + y, m % wide * c.h + x)

/-- Skip fill bytes before a marker. -/
def markerCode : Nat → Rd → Except Stop (Nat × Rd)
  | 0, r => r.stop 3
  | n + 1, r =>
    match r.byte with
    | .error e => .error e
    | .ok (b, r1) => if b = 255 then markerCode n r1 else .ok (b, r1)

/-- The next marker. -/
def Rd.marker (r : Rd) : Except Stop (Nat × Rd) :=
  match r.byte with
  | .error e => .error e
  | .ok (b, r1) => if b ≠ 255 then r1.stop 3 else markerCode (r1.rest.length + 1) r1

/-- RSTn with the number expected (R424). -/
def Br.restart (b : Br) (k : Nat) : Except Stop Br :=
  match b.rd.marker with
  | .error e => .error e
  | .ok (m, r) => if m = 0xD0 + k % 8 then .ok { rd := r, bits := [] } else r.stop 3

/-- The MCUs that are left, of `total`. -/
def scanMcus (cs : List ScanComp) (wide total : Nat) : Nat → Preds → Jpeg → Br → Except Stop (Jpeg × Br)
  | 0, _, j, b => .ok (j, b)
  | n + 1, p, j, b =>
    let m := total - (n + 1)
    let again : Bool := j.restart != 0 && m != 0 && m % j.restart == 0
    let b0 := if again then b.restart (m / j.restart - 1) else .ok b
    match b0 with
    | .error e => .error e
    | .ok b1 =>
      match scanBlocks (mcuPlaces cs wide m) (if again then [] else p) j b1 with
      | .error e => .error e
      | .ok (p2, j2, b2) => scanMcus cs wide total n p2 j2 b2

/-- A scan: its header's bytes, then its data. -/
def readScan (l : List Nat) (j : Jpeg) (r : Rd) : Except Stop (Jpeg × Rd) :=
  let n := l.getD 0 0
  let hMax := (j.comps.map (·.h)).foldl Nat.max 1
  let vMax := (j.comps.map (·.v)).foldl Nat.max 1
  let pick (i : Nat) : Option ScanComp :=
    let id := l.getD (1 + 2 * i) 0
    let t := l.getD (2 + 2 * i) 0
    match (j.comps.zip (List.range j.comps.length)).find? (fun c => c.1.id = id) with
    | none => none
    | some (c, ix) =>
      match Map.find j.quant c.tq, Map.find j.huff (t / 16), Map.find j.huff (16 + t % 16) with
      | some q, some d, some a =>
        if 1 < t / 16 ∨ 1 < t % 16 then none
        else some { ix := ix, h := if n = 1 then 1 else c.h, v := if n = 1 then 1 else c.v, quant := q, dc := d, ac := a }
      | _, _, _ => none
  let cs := (List.range n).filterMap pick
  let ixs := cs.map (·.ix)
  if l.length ≠ 4 + 2 * n ∨ n = 0 ∨ cs.length ≠ n ∨ l.drop (1 + 2 * n) ≠ [0, 63, 0] ∨ ¬ ixs.Nodup
      ∨ (ixs.any fun i => j.seen.contains i) then r.stop 3
  else
    let (wide, high) :=
      match cs, n with
      | [c], 1 =>
        let f := j.comps.getD c.ix { id := 0, h := 1, v := 1, tq := 0 }
        (ceilDiv (ceilDiv (j.w * f.h) hMax) 8, ceilDiv (ceilDiv (j.h * f.v) vMax) 8)
      | _, _ => (ceilDiv j.w (8 * hMax), ceilDiv j.h (8 * vMax))
    (scanMcus cs wide (wide * high) (wide * high) [] j { rd := r, bits := [] }).map fun x =>
      ({ x.1 with seen := x.1.seen ++ ixs, scans := x.1.scans + 1 }, x.2.rd)

/-! ### The record -/

/-- Markers that name a JPEG process or feature outside R424. -/
def otherProcess (m : Nat) : Bool := (decide (0xC1 ≤ m) && decide (m ≤ 0xCF) && m != 0xC4) || m == 0xDC || m == 0xDE || m == 0xDF

/-- Segments from here to EOI; `maxW` and `maxH` are checked at the first SOS (R434). -/
def readSegments (maxW maxH : Nat) : Nat → Jpeg → Rd → Except Stop (Jpeg × Rd)
  | 0, _, r => r.stop 3
  | n + 1, j, r =>
    match r.marker with
    | .error e => .error e
    | .ok (m, r1) =>
      if otherProcess m then r1.stop 2
      else if m = 0xD9 then if j.comps.isEmpty ∨ j.seen.length ≠ j.comps.length then r1.stop 3 else .ok (j, r1)
      else if ¬ (m = 0xC0 ∨ m = 0xC4 ∨ m = 0xDB ∨ m = 0xDD ∨ m = 0xDA ∨ m = 0xFE ∨ (0xE0 ≤ m ∧ m ≤ 0xEF)) then r1.stop 3
      else if m = 0xDA ∧ j.comps.isEmpty then r1.stop 3
      else if m = 0xDA ∧ j.scans = 0 ∧ (maxW < j.w ∨ maxH < j.h) then r1.stop 4
      else
        match r1.segment with
        | .error e => .error e
        | .ok (l, r2) =>
          if m = 0xC0 then
            match readFrame l j with
            | .error reason => r2.stop reason
            | .ok j2 => readSegments maxW maxH n j2 { r2 with h := j2.h, w := j2.w }
          else if m = 0xC4 then
            match readHuff l.length l j with
            | none => r2.stop 3
            | some j2 => readSegments maxW maxH n j2 r2
          else if m = 0xDB then
            match readQuant l.length l j with
            | none => r2.stop 3
            | some j2 => readSegments maxW maxH n j2 r2
          else if m = 0xDD then
            if l.length = 2 then readSegments maxW maxH n { j with restart := beNat l } r2 else r2.stop 3
          else if m = 0xDA then
            match readScan l j r2 with
            | .error e => .error e
            | .ok (j2, r3) => readSegments maxW maxH n j2 r3
          else readSegments maxW maxH n j r2

/-- A JPEG record from SOI to EOI. -/
def readJpeg (maxW maxH : Nat) (r : Rd) : Except Stop (Jpeg × Rd) :=
  match r.bytes 2 with
  | .error e => .error e
  | .ok (l, r1) => if l = [255, 0xD8] then readSegments maxW maxH (r1.rest.length + 1) Jpeg.empty r1 else r1.stop 3

/-- A sample of component c at a place of its own plane. -/
def Jpeg.sampleAt (j : Jpeg) (c x y : Nat) : Nat :=
  (Map.get j.blocks ((c * 65536 + y / 8) * 65536 + x / 8) []).getD (8 * (y % 8) + x % 8) 0

/-- The colour of a pixel, or its one component (R425). -/
def Jpeg.pixel (j : Jpeg) (outC x y : Nat) : List Nat :=
  let yy := j.sampleAt 0 x y
  if j.comps.length = 1 then List.replicate outC yy
  else if outC = 1 then [yy]
  else
    let f := j.comps.getD 0 { id := 0, h := 1, v := 1, tq := 0 }
    let cb : Int := (j.sampleAt 1 (x / f.h) (y / f.v) : Int) - 128
    let cr : Int := (j.sampleAt 2 (x / f.h) (y / f.v) : Int) - 128
    [clampByte (yy + sar (91881 * cr + 32768) 16), clampByte (yy + sar (-22554 * cb - 46802 * cr + 32768) 16),
      clampByte (yy + sar (116130 * cb + 32768) 16)]

end Sys2Proof.Machine
end

