-- ==== Sys2Proof/Machine/Intake.lean ====
section
/-! DEFINITION. Intake engines: batches, sample order, records, programs, limits and work, placeholders, faults
(R418 to R440). -/

namespace Sys2Proof.Machine

/-! ### Sample order and rolls (R421, R422) -/

def mix64 (x0 : Word64) : Word64 :=
  let x1 := (x0 ^^^ (x0 >>> 31)) * 0x7FB5D329728EA185
  let x2 := (x1 ^^^ (x1 >>> 27)) * 0x81DADEF4BC2DD44D
  x2 ^^^ (x2 >>> 33)

def roll (seed sample op i : Nat) : Nat :=
  let k1 := mix64 (BitVec.ofNat 64 seed ^^^ 0x243F6A8885A308D3)
  let k2 := mix64 (k1 ^^^ BitVec.ofNat 64 sample)
  (mix64 (k2 ^^^ BitVec.ofNat 64 (op * 2 ^ 32 + i))).toNat

/-- unit(v) as fp32. -/
def rollUnit (v : Nat) : FVal := .fin false (v >>> 40) (-24)

def rollPick (v n : Nat) : Nat := ((v >>> 32) * n) >>> 32

/-- Least h ≥ 1 with 4^h ≥ d. -/
def halfBits (d : Nat) : Nat := ((List.range 33).find? fun h => decide (1 ≤ h) && decide (d ≤ 4 ^ h)).getD 32

/-- One pass of the four rounds. -/
def orderPass (seed e h x : Nat) : Nat :=
  let st := (List.range 4).foldl
    (fun (p : Nat × Nat) j => (p.2, p.1 ^^^ (roll seed e (0xFFFFFFF0 + j) p.2 % 2 ^ h))) (x >>> h, x % 2 ^ h)
  st.1 * 2 ^ h + st.2

/-- Repeat the pass until the index lies below d; the passes are a bijection on 4^h values, so 4^h are enough. -/
def orderLoop (seed e h d : Nat) : Nat → Nat → Nat
  | 0, x => x
  | n + 1, x =>
    let y := orderPass seed e h x
    if y < d then y else orderLoop seed e h d n y

def sampleIndex (p seed d : Nat) : Nat :=
  if seed = 0 then p % d else orderLoop seed (p / d) (halfBits d) d (4 ^ halfBits d) (p % d)

/-! ### Batch records and programs (R418, R428, R429) -/

structure Batch where
  bytes : List Byte
  engines : Nat
  step : Nat
  count : Nat
  first : Nat
  orderSeed : Nat
  rollSeed : Nat
  dir : Nat
  dirCount : Nat
  program : Nat
  dest : Nat
  stride : Nat
  side : Nat
  deriving DecidableEq, Repr

def batchOf (d : List Byte) : Batch :=
  { bytes := d, engines := fieldLe d 6 1, step := fieldLe d 8 4, count := fieldLe d 12 4, first := fieldLe d 16 8
    orderSeed := fieldLe d 24 8, rollSeed := fieldLe d 32 8, dir := fieldLe d 40 8, dirCount := fieldLe d 48 8
    program := fieldLe d 56 8, dest := fieldLe d 64 8, stride := fieldLe d 72 8, side := fieldLe d 80 8 }

structure IntakeOp where
  opc : Nat
  mode : Nat
  p0 : Nat
  p1 : Nat
  p2 : Nat
  deriving DecidableEq, Repr

structure IntakeProg where
  bytes : List Byte
  token : Bool
  ops : List IntakeOp
  h : Nat
  w : Nat
  c : Nat
  fmt : Nat
  scale : Nat
  tokLen : Nat
  padId : Nat
  window : Nat
  deriving DecidableEq, Repr

def intakeOpOf (d : List Byte) (j : Nat) : IntakeOp :=
  let o := 64 + 16 * j
  { opc := fieldLe d o 1, mode := fieldLe d (o + 1) 1, p0 := fieldLe d (o + 4) 4, p1 := fieldLe d (o + 8) 4
    p2 := fieldLe d (o + 12) 4 }

def intakeProgOf (d : List Byte) : IntakeProg :=
  { bytes := d, token := fieldLe d 6 1 == 1, ops := (List.range (fieldLe d 7 1)).map (intakeOpOf d), h := fieldLe d 8 2
    w := fieldLe d 10 2, c := fieldLe d 12 1, fmt := fieldLe d 13 1, scale := fieldLe d 14 1, tokLen := fieldLe d 16 4
    padId := fieldLe d 20 4, window := fieldLe d 24 1 }

def IntakeProg.mean (p : IntakeProg) (c : Nat) : Nat := fieldLe p.bytes (28 + 4 * c) 4
def IntakeProg.istd (p : IntakeProg) (c : Nat) : Nat := fieldLe p.bytes (40 + 4 * c) 4
def IntakeProg.fill (p : IntakeProg) (c : Nat) : Nat := fieldLe p.bytes (52 + 4 * c) 4

/-- Elements of an image output. -/
def IntakeProg.elems (p : IntakeProg) : Nat := p.h * p.w * p.c

/-- Bytes of the output of a position (R428). -/
def IntakeProg.outBytes (p : IntakeProg) : Nat :=
  if p.token then 4 * p.tokLen else p.elems * ((Fmt.ofCode p.fmt).getD .fp32).size

def fle (x y : FVal) : Bool := !x.isNan && !y.isNan && !FVal.lt y x

def fpInt (z : Int) : FVal := FVal.ofInt z

/-- The parameters of an operation lie in their ranges (R429). -/
def IntakeOp.ok (o : IntakeOp) : Bool :=
  let a := f32 o.p0
  let b := f32 o.p1
  let c := f32 o.p2
  let zero := fpInt 0
  let one := fpInt 1
  match o.opc with
  | 1 =>
    if o.mode = 0 then FVal.lt zero a && fle a one
    else o.mode == 1 && FVal.lt zero a && fle a b && fle b one && fle one c && !c.isInf
  | 2 => decide (o.mode ≤ 1)
  | 3 => decide (o.mode ≤ 1) && fle zero a && fle a one
  | 4 => o.mode == 1 || (o.mode == 0 && (List.range 4).any fun k => FVal.eq a (fpInt k))
  | 5 => fle (fpInt (-180)) a && fle a b && fle b (fpInt 180)
  | 6 => true
  | _ => false

/-- The operations before and after the one RESIZE (R429). -/
def opsOk (ops : List IntakeOp) : Bool :=
  let before := ops.takeWhile fun o => o.opc != 2
  let rest := (ops.dropWhile fun o => o.opc != 2).drop 1
  decide (before.length < ops.length) && before.all (fun o => o.opc == 1 || o.opc == 3 || o.opc == 4)
    && decide ((before.filter fun o => o.opc == 1).length ≤ 1) && rest.all (fun o => o.opc == 3 || o.opc == 5 || o.opc == 6)

/-- Output formats: e4m3, e5m2, bf16, fp16, fp32. -/
def intakeFmt (c : Nat) : Bool := c == 0 || c == 1 || c == 3 || c == 4 || c == 5

def IntakeProg.ok (p : IntakeProg) : Bool :=
  fieldLe p.bytes 0 4 == 0x5049464E && fieldLe p.bytes 4 2 == 1 && decide (fieldLe p.bytes 6 1 ≤ 1)
    && (if p.token then p.ops.isEmpty && decide (1 ≤ p.tokLen) && decide (p.tokLen ≤ 1048576) && decide (p.window ≤ 1)
      else
        decide (p.ops.length ≤ 12) && p.ops.all IntakeOp.ok && opsOk p.ops && decide (1 ≤ p.h) && decide (p.h ≤ 16384)
          && decide (1 ≤ p.w) && decide (p.w ≤ 16384) && (p.c == 1 || p.c == 3) && intakeFmt p.fmt && decide (1 ≤ p.scale)
          && decide (p.scale ≤ 254))

/-- What the batch record alone must be (R418, R439). -/
def Batch.ok (b : Batch) (rank : Nat) : Bool :=
  fieldLe b.bytes 0 4 == 0x4249464E && fieldLe b.bytes 4 2 == 1 && zeroRange b.bytes 7 1 && zeroRange b.bytes 88 40
    && decide (1 ≤ b.engines) && decide (b.engines ≤ 16) && decide (rank < b.engines) && b.count != 0
    && decide (1 ≤ b.dirCount) && decide (b.dirCount ≤ 2 ^ 40) && b.dir % 16 == 0 && b.program % 64 == 0 && b.dest % 16 == 0
    && b.stride % 16 == 0 && b.side % 32 == 0 && collRange b.dir (16 * b.dirCount) && collRange b.program 256
    && collRange b.side (32 * b.count)

/-- What the outputs must be. -/
def Batch.outOk (b : Batch) (p : IntakeProg) : Bool :=
  decide (p.outBytes ≤ b.stride) && collRange b.dest ((b.count - 1) * b.stride + p.outBytes)

/-! ### Exact quotients, roots and cosines, for one rounding (R430) -/

/-- num ÷ den with enough bits, and a last bit that says whether more follow. -/
def ratVal (neg : Bool) (num den : Nat) : FVal :=
  let k := 64 + bitLen den
  let q := num * 2 ^ k / den
  .fin neg (2 * q + (if q * den = num * 2 ^ k then 0 else 1)) (-(k : Int) - 1)

/-- Integer square root, one bit at a time. -/
def isqrtFrom (n : Nat) : Nat → Nat → Nat
  | 0, r => r
  | i + 1, r => isqrtFrom n i (if (r + 2 ^ i) * (r + 2 ^ i) ≤ n then r + 2 ^ i else r)

def isqrt (n : Nat) : Nat := isqrtFrom n (bitLen n / 2 + 1) 0

/-- √(num ÷ den), likewise. -/
def sqrtRat (num den : Nat) : FVal :=
  let k := 64 + bitLen den
  let n := num * 2 ^ (2 * k)
  let r := isqrt (n / den)
  .fin false (2 * r + (if r * r * den = n then 0 else 1)) (-(k : Int) - 1)

/-- A finite value as a quotient of integers. -/
def ratOf : FVal → Bool × Nat × Nat
  | .fin s m e => if 0 ≤ e then (s, m * 2 ^ e.toNat, 1) else (s, m, 2 ^ (-e).toNat)
  | _ => (false, 0, 1)

/-- Correctly rounded quotient of an fp32 value by a count. -/
def divCount (a : Res) (n : Nat) : Res :=
  match f32 a.1 with
  | .fin s m e => let (_, num, den) := ratOf (.fin s m e); let r := arith32 (ratVal s num (den * n)); (r.1, Flags.or a.2 r.2)
  | x => let r := arith32 x; (r.1, Flags.or a.2 r.2)

/-- round_rne to an integer. -/
def nearInt (u : Nat) : Int :=
  match f32 u with
  | .fin s m e => roundInt s m e false
  | _ => 0

/-- ⌊x⌋ of an fp32 value. -/
def floorOf (u : Nat) : Int :=
  match f32 u with
  | .fin s m e =>
    let z : Int := if s then -(m : Int) else m
    if 0 ≤ e then z * (2 ^ e.toNat : Nat) else z / ((2 ^ (-e).toNat : Nat) : Int)
  | _ => 0

/-- π · 2¹²⁸. -/
def piFix : Nat := 0x3243f6a8885a308d313198a2e03707344

/-- Partial sums of the cosine or sine series at x (scaled by 2¹²⁸); 18 terms are exact to well below half a unit of every
fp32 result needed here. -/
def seriesFix (x2 : Nat) : Nat → Nat → Nat → Bool → Int
  | 0, _, _, _ => 0
  | n + 1, k, t, neg => (if neg then -(t : Int) else t) + seriesFix x2 n (k + 2) (t * x2 / 2 ^ 128 / ((k + 1) * (k + 2))) (!neg)

/-- cos(a · π ÷ 46,080) for a from 0 to 23,040, scaled by 2¹²⁸. -/
def cosQuarter (a : Nat) : Int :=
  let x := (if a ≤ 11520 then a else 23040 - a) * piFix / 46080
  let x2 := x * x / 2 ^ 128
  if a ≤ 11520 then seriesFix x2 18 0 (2 ^ 128) false else seriesFix x2 18 1 x false

/-- cr(cos(k · π ÷ 46,080)) (R430). -/
def cosAt (k : Int) : Nat :=
  let m := (k % 92160).toNat
  let a := if 46080 < m then 92160 - m else m
  let z := if 23040 < a then -cosQuarter (46080 - a) else cosQuarter a
  (arith32 (.fin (decide (z < 0)) z.natAbs (-128))).1

def sinAt (k : Int) : Nat := cosAt (k - 23040)

/-! ### Images and their operations (R430 to R432) -/

/-- An image: rows of pixels of channels, as fp32 encodings, and the events so far. -/
structure Img where
  w : Nat
  h : Nat
  c : Nat
  px : List (List (List Nat))
  flags : Flags
  deriving DecidableEq, Repr

def Img.at (m : Img) (x y c : Nat) : Nat := (((m.px.getD y []).getD x []).getD c 0)

/-- An image whose elements are computed with their events. -/
def Img.build (m : Img) (w h : Nat) (f : Nat → Nat → Nat → Res) : Img :=
  let rs := (List.range h).map fun y => (List.range w).map fun x => (List.range m.c).map fun c => f x y c
  { w := w, h := h, c := m.c, px := rs.map fun r => r.map fun p => p.map (·.1)
    flags := rs.foldl (fun (g : Flags) r => r.foldl (fun (g : Flags) p => p.foldl (fun (g : Flags) e => Flags.or g e.2) g) g) m.flags }

/-- An image whose pixels are moved. -/
def Img.move (m : Img) (w h : Nat) (src : Nat → Nat → Nat × Nat) : Img :=
  m.build w h fun x y c => let p := src x y; (m.at p.1 p.2 c, .none)

def half32 : Res := k32 0x3F000000

def clampInt (z lo hi : Int) : Int := if z < lo then lo else if hi < z then hi else z

/-- The bilinear sample of R431; `pixel` gives a neighbour. -/
def bil (pixel : Int → Int → Nat) (x y : Res) : Res :=
  let x0 := floorOf x.1
  let y0 := floorOf y.1
  let fx := sub32 x (int32 x0)
  let fy := sub32 y (int32 y0)
  let p (dx dy : Int) : Res := k32 (pixel (x0 + dx) (y0 + dy))
  let top := fma32 fx (sub32 (p 1 0) (p 0 0)) (p 0 0)
  let bottom := fma32 fx (sub32 (p 1 1) (p 0 1)) (p 0 1)
  fma32 fy (sub32 bottom top) top

/-- Size and offset of a crop: (width, height, x, y) (R430). -/
def cropBox (m : Img) (o : IntakeOp) (draw : Nat → Nat) : Nat × Nat × Nat × Nat :=
  if o.mode = 0 then
    let side (n : Nat) : Nat :=
      match FVal.mul (f32 o.p0) (fpInt n) with
      | .fin s a e => (max 1 (roundInt s a e false)).toNat
      | _ => 1
    let cw := side m.w
    let ch := side m.h
    (cw, ch, (m.w - cw) / 2, (m.h - ch) / 2)
  else
    let s := fma32 ((arith32 (rollUnit (draw 0))).1, .none) (sub32 (k32 o.p1) (k32 o.p0)) (k32 o.p0)
    let (_, pn, pd) := ratOf (f32 o.p2)
    let inv := arith32 (ratVal false pd pn)
    let a := fma32 ((arith32 (rollUnit (draw 1))).1, .none) (sub32 (k32 o.p2) inv) inv
    let (_, sn, sd) := ratOf (f32 s.1)
    let (_, an, ad) := ratOf (f32 a.1)
    let cw := (clampInt (nearInt (arith32 (sqrtRat (sn * m.w * m.h * an) (sd * ad))).1) 1 m.w).toNat
    let ch := (clampInt (nearInt (arith32 (sqrtRat (sn * m.w * m.h * ad) (sd * an))).1) 1 m.h).toNat
    (cw, ch, rollPick (draw 2) (m.w - cw + 1), rollPick (draw 3) (m.h - ch + 1))

def Img.crop (m : Img) (o : IntakeOp) (draw : Nat → Nat) : Img :=
  let (cw, ch, x0, y0) := cropBox m o draw
  m.move cw ch fun x y => (x0 + x, y0 + y)

def Img.flip (m : Img) (o : IntakeOp) (draw : Nat → Nat) : Img :=
  if FVal.lt (rollUnit (draw 0)) (f32 o.p0) then
    m.move m.w m.h fun x y => if o.mode = 0 then (m.w - 1 - x, y) else (x, m.h - 1 - y)
  else m

def Img.turns : Nat → Img → Img
  | 0, m => m
  | n + 1, m => Img.turns n (m.move m.h m.w fun x y => (y, m.h - 1 - x))

def Img.rot90 (m : Img) (o : IntakeOp) (draw : Nat → Nat) : Img :=
  m.turns (if o.mode = 0 then (nearInt o.p0).toNat else rollPick (draw 0) 4)

/-- Bilinear resize. -/
def Img.resizeBilinear (m : Img) (w h : Nat) : Img :=
  let sx : Res := arith32 (ratVal false m.w w)
  let sy : Res := arith32 (ratVal false m.h h)
  let place (o : Nat) (s : Res) : Res := sub32 (mul32 (add32 (int32 o) half32) s) half32
  m.build w h fun ox oy c =>
    bil (fun x y => m.at (clampInt x 0 (m.w - 1)).toNat (clampInt y 0 (m.h - 1)).toNat c) (place ox sx) (place oy sy)

/-- First and last source index that an output index averages. -/
def areaSpan (o n out : Nat) : Nat × Nat :=
  let lo := o * n / out
  (lo, max lo ((o + 1) * n / out - 1))

/-- Resize by area. -/
def Img.resizeArea (m : Img) (w h : Nat) : Img :=
  m.build w h fun ox oy c =>
    let (xs, xe) := areaSpan ox m.w w
    let (ys, ye) := areaSpan oy m.h h
    let elems := (List.range (ye + 1 - ys)).flatMap fun dy => (List.range (xe + 1 - xs)).map fun dx => m.at (xs + dx) (ys + dy) c
    match elems with
    | e :: es => divCount (es.foldl (fun (a : Res) v => add32 a (k32 v)) (k32 e)) elems.length
    | [] => (0, .none)

/-- n ÷ 2, which fp32 holds. -/
def halfOf (n : Nat) : Res := k32 (arith32 (.fin false n (-1))).1

def Img.rotate (m : Img) (o : IntakeOp) (fill : Nat → Nat) (draw : Nat → Nat) : Img :=
  let theta := fma32 ((arith32 (rollUnit (draw 0))).1, .none) (sub32 (k32 o.p1) (k32 o.p0)) (k32 o.p0)
  let k := nearInt (mul32 theta (int32 256)).1
  let cs := k32 (cosAt k)
  let sn := k32 (sinAt k)
  let hw := halfOf m.w
  let hh := halfOf m.h
  m.build m.w m.h fun ox oy c =>
    let dx := sub32 (add32 (int32 ox) half32) hw
    let dy := sub32 (add32 (int32 oy) half32) hh
    let x := add32 (fma32 cs dx (mul32 sn dy)) hw
    let y := add32 (fma32 cs dy (neg32 (mul32 sn dx))) hh
    bil (fun px py => if 0 ≤ px ∧ px < m.w ∧ 0 ≤ py ∧ py < m.h then m.at px.toNat py.toNat c else fill c)
      (sub32 x half32) (sub32 y half32)

def Img.normalise (m : Img) (mean istd : Nat → Nat) : Img :=
  m.build m.w m.h fun x y c => mul32 (sub32 (k32 (m.at x y c)) (k32 (mean c))) (k32 (istd c))

/-- Operation j of a program (R429, R430). -/
def Img.apply (m : Img) (p : IntakeProg) (seed sample j : Nat) (o : IntakeOp) : Img :=
  let draw (i : Nat) : Nat := roll seed sample j i
  match o.opc with
  | 1 => m.crop o draw
  | 2 => if o.mode = 0 then m.resizeBilinear p.w p.h else m.resizeArea p.w p.h
  | 3 => m.flip o draw
  | 4 => m.rot90 o draw
  | 5 => m.rotate o p.fill draw
  | _ => m.normalise p.mean p.istd

/-- Units of an operation or of the output conversion (R435). -/
def IntakeProg.units (p : IntakeProg) : Nat := ceilDiv p.elems 64

/-- Run the operations from j onward; RESIZE and what follows it is charged. -/
def runOps (p : IntakeProg) (seed sample : Nat) : Nat → Bool → List IntakeOp → Img → Rd → Except Stop (Img × Rd)
  | _, _, [], m, r => .ok (m, r)
  | j, after, o :: os, m, r =>
    let late := after || o.opc == 2
    match (if late then r.charge p.units else .ok r) with
    | .error e => .error e
    | .ok r1 => runOps p seed sample (j + 1) late os (m.apply p seed sample j o) r1

/-- The output of an image (R432). -/
def imageOut (p : IntakeProg) (sat : Bool) (m : Img) : List Byte × Flags :=
  let f := (Fmt.ofCode p.fmt).getD .fp32
  let outs := m.px.flatMap fun row => row.flatMap fun px => px.map fun u => convertScaled (f32 u) f (BitVec.ofNat 8 p.scale) false sat
  (outs.flatMap fun o => elemBytes f o.1, outs.foldl (fun (g : Flags) o => Flags.or g o.2) m.flags)

/-! ### One sample (R423 to R427, R433 to R437) -/

/-- What a sample leaves: its output, or the reason of its placeholder. -/
structure Sample where
  out : List Byte
  flags : Flags
  reason : Nat
  work : Nat
  h : Nat
  w : Nat
  tokens : Nat
  jpeg : Bool
  recordBytes : Nat
  deriving DecidableEq, Repr

/-- A placeholder (R437). -/
def placeholder (p : IntakeProg) (e : Stop) (jpeg : Bool) (bytes : Nat) : Sample :=
  { out := List.replicate p.outBytes 0, flags := .none, reason := e.reason, work := e.work, h := e.h, w := e.w, tokens := 0
    jpeg := jpeg, recordBytes := bytes }

/-- Limits of the layout that a sample is held to (R434, R436). -/
structure Limits where
  maxW : Nat
  maxH : Nat
  maxBytes : Nat
  budget : Option Nat
  sat : Bool
  deriving DecidableEq, Repr

/-- The program on a decoded image. -/
def finishImage (p : IntakeProg) (lim : Limits) (seed sample : Nat) (m : Img) (r : Rd) : Except Stop (List Byte × Flags × Rd) :=
  match runOps p seed sample 0 false p.ops m r with
  | .error e => .error e
  | .ok (m1, r1) => (r1.charge p.units).map fun r2 => let o := imageOut p lim.sat m1; (o.1, o.2, r2)

/-- A JPEG record. -/
def jpegSample (p : IntakeProg) (lim : Limits) (seed sample : Nat) (rec : PBytes) : Sample :=
  match readJpeg lim.maxW lim.maxH { rest := rec, work := 0, budget := lim.budget, h := 0, w := 0 } with
  | .error e => placeholder p e false rec.length
  | .ok (j, r) =>
    let m : Img :=
      { w := j.w, h := j.h, c := p.c, flags := .none
        px := (List.range j.h).map fun y => (List.range j.w).map fun x => (j.pixel p.c x y).map fun (v : Nat) => (int32 v).1 }
    match finishImage p lim seed sample m r with
    | .error e => placeholder p e true rec.length
    | .ok (out, f, r2) =>
      { out := out, flags := f, reason := 0, work := r2.work, h := j.h, w := j.w, tokens := 0, jpeg := true, recordBytes := rec.length }

/-- The header of a raw tensor record is right (R426). -/
def rawHeaderOk (d : List Byte) (len : Nat) : Bool :=
  let fmt := fieldLe d 4 1
  let c := fieldLe d 5 1
  let h := fieldLe d 6 2
  let w := fieldLe d 8 2
  fieldLe d 0 4 == 0x5452464E && (fmt == 2 || intakeFmt fmt) && (c == 1 || c == 3) && zeroRange d 10 22 && decide (1 ≤ h)
    && decide (h ≤ 16384) && decide (1 ≤ w) && decide (w ≤ 16384) && len == 32 + h * w * c * ((Fmt.ofCode fmt).getD .fp32).size

/-- A raw tensor record. -/
def rawSample (p : IntakeProg) (lim : Limits) (seed sample : Nat) (rec : PBytes) : Sample :=
  let len := rec.length
  let head : PBytes := rec.take 32
  let d := head.data
  let c := fieldLe d 5 1
  let h := fieldLe d 6 2
  let w := fieldLe d 8 2
  let f := (Fmt.ofCode (fieldLe d 4 1)).getD .fp32
  let r : Rd := { rest := [], work := 0, budget := lim.budget, h := h, w := w }
  let fail (reason : Nat) (seen : Bool) : Sample :=
    placeholder p { reason := reason, work := 0, h := if seen then h else 0, w := if seen then w else 0 } false len
  if head.anyPoison then fail 6 false
  else if !rawHeaderOk d len then fail 7 false
  else if lim.maxW < w ∨ lim.maxH < h then fail 4 true
  else if c = 3 ∧ p.c = 1 then fail 7 true
  else
    match r.charge (ceilDiv len 64) with
    | .error e => placeholder p e false len
    | .ok r1 =>
      let body : PBytes := rec.drop 32
      if body.anyPoison then placeholder p { reason := 6, work := r1.work, h := h, w := w } false len
      else
        let vals := (bodyElems f (h * w * c) body.data).map fun u => widenBits f u 127 lim.sat
        let m : Img :=
          { w := w, h := h, c := p.c, flags := vals.foldl (fun (g : Flags) v => Flags.or g v.2) Flags.none
            px := (List.range h).map fun y => (List.range w).map fun x => (List.range p.c).map fun k =>
              (vals.getD ((y * w + x) * c + (if c = 1 then 0 else k)) (0, .none)).1 }
        match finishImage p lim seed sample m r1 with
        | .error e => placeholder p e false len
        | .ok (out, fl, r2) =>
          { out := out, flags := fl, reason := 0, work := r2.work, h := h, w := w, tokens := 0, jpeg := false, recordBytes := len }

/-- A token record (R427, R433). -/
def tokenSample (p : IntakeProg) (lim : Limits) (seed sample : Nat) (rec : PBytes) : Sample :=
  let len := rec.length
  let head : PBytes := rec.take 16
  let d := head.data
  let n := fieldLe d 4 4
  let fail (reason work : Nat) : Sample := placeholder p { reason := reason, work := work, h := 0, w := 0 } false len
  if head.anyPoison then fail 6 0
  else if !(fieldLe d 0 4 == 0x4B54464E && zeroRange d 8 8 && decide (1 ≤ n) && len == 16 + 4 * n) then fail 8 0
  else
    match Rd.charge { rest := [], work := 0, budget := lim.budget, h := 0, w := 0 } (ceilDiv len 64) with
    | .error e => placeholder p e false len
    | .ok r =>
      let body : PBytes := rec.drop 16
      if body.anyPoison then fail 6 r.work
      else
        let k := min n p.tokLen
        let w0 := if p.window = 1 ∧ p.tokLen < n then rollPick (roll seed sample 0 0) (n - p.tokLen + 1) else 0
        { out := ((body.data.drop (4 * w0)).take (4 * k)) ++ (List.range (p.tokLen - k)).flatMap fun _ => leBytes 4 p.padId
          flags := .none, reason := 0, work := r.work, h := 0, w := 0, tokens := k, jpeg := false, recordBytes := len }

/-! ### Runs (R420, R434 to R439) -/

def intakeWho (i : Nat) : Nat := 0x1100 + i

/-- Address of the batch record of the run (R418, R420). -/
def State.batchAddr (s : State) (i : Nat) : Nat :=
  let n := s.fld (bItk i) 0x108 0 16
  let run := s.fld (bItk i) 0x140 0 32
  s.fld (bItk i) 0x100 7 45 * 128 + 128 * (run % max 1 n)

def State.limits (s : State) (i : Nat) : Limits :=
  let b := bItk i
  { maxW := s.fld b 0x128 0 16, maxH := s.fld b 0x128 16 16, maxBytes := s.fld b 0x128 32 32
    budget := if s.fld b 0x130 32 1 = 1 then some (s.fld b 0x130 0 32) else none, sat := s.fld b 0x130 33 1 == 1 }

/-- The working area holds what R434 requires. -/
def State.workAreaOk (s : State) (i : Nat) (p : IntakeProg) : Bool :=
  let b := bItk i
  let size := 4096 * s.fld b 0x120 0 28
  let lim := s.limits i
  decide (lim.maxW * lim.maxH * 3 + (if p.token then 0 else 8 * p.elems) ≤ size) && collRange (s.fld b 0x118 12 40 * 4096) size

/-- The batch record and, where it is valid, the program are read; the fault code of the batch, 0 for none (R420, R439). -/
def State.batchCode (s : State) (i : Nat) : State × Nat :=
  let (s1, bs) := s.readRun (intakeWho i) (s.batchAddr i) 128
  let b := batchOf bs.data
  if bs.anyPoison then (s1, 3)
  else if !b.ok (s.fld (bItk i) 0x108 16 4) then (s1, 1)
  else
    let (s2, ps) := s1.readRun (intakeWho i) b.program 256
    let p := intakeProgOf ps.data
    (s2.setIntake i { s2.intake i with batch := bs.data, prog := ps.data },
      if ps.anyPoison then 3 else if !p.ok then 2 else if !b.outOk p then 1 else if !s.workAreaOk i p then 4 else 0)

/-- Start waiting for the start token (R420). -/
def State.intakeWaits (s : State) (i : Nat) : State :=
  (s.setIntake i { s.intake i with waiting := true, running := false, granted := false }).sendToken
    (.wait (agIntake i) (BitVec.ofNat 16 (s.fld (bItk i) 0x110 0 16)) 1)

/-- The end of a run (R420): the done token is signalled, RUN advances. -/
def State.intakeDone (s : State) (i : Nat) : State :=
  let run := s.fld (bItk i) 0x140 0 32
  ((s.setFld (bItk i) 0x140 0 32 ((run + 1) % 2 ^ 32)).sendToken
    (.signal (agIntake i) (BitVec.ofNat 16 (s.fld (bItk i) 0x110 16 16)) 1)).intakeWaits i

/-- A batch fault (R439). -/
def State.batchFaults (s : State) (i code : Nat) : State :=
  let s1 := (s.setIntake i { s.intake i with batchFault := true, faultCode := BitVec.ofNat 3 code }).count (bItk i) 0x178 1
  (s1.record (bItk i) 0x0217 i code (s.fld (bItk i) 0x140 0 32)).intakeDone i

/-- A run starts (R420). -/
def State.intakeStart (s : State) (i : Nat) : State :=
  let s0 := s.setIntake i { s.intake i with granted := false, batchFault := false, faultCode := 0, waitLong := false }
  if s.fld (bItk i) 0x108 0 16 = 0 then s0.intakeDone i
  else
    let (s1, code) := s0.batchCode i
    if code ≠ 0 then s1.batchFaults i code
    else s1.setIntake i { s1.intake i with running := true, position := s.fld (bItk i) 0x108 16 4, waitSince := s.elapsed }

/-- What the start of a run reads waits for the host (R410). -/
def State.startHeld (s : State) (i : Nat) : Bool :=
  s.fld (bItk i) 0x108 0 16 != 0
    && (s.hostWaits (s.batchAddr i) 128 || s.hostWaits (batchOf (s.peek (s.batchAddr i) 128 : PBytes).data).program 256)

/-- The sample of a directory entry, and whether its record was read. -/
def State.sampleOf (s : State) (i : Nat) (b : Batch) (p : IntakeProg) (ix : Nat) : State × Sample :=
  let lim := s.limits i
  let (s1, entry) := s.readRun (intakeWho i) (b.dir + 16 * ix) 16
  let d := entry.data
  let len := fieldLe d 8 4
  let kind := fieldLe d 12 1
  let fail (reason : Nat) : Sample := placeholder p { reason := reason, work := 0, h := 0, w := 0 } false 0
  if entry.anyPoison then (s1, fail 6)
  else if decide (2 < kind) || (kind == 2) != p.token then (s1, fail 1)
  else if len = 0 ∨ lim.maxBytes < len then (s1, fail 4)
  else
    let (s2, rec) := s1.readRun (intakeWho i) (fieldLe d 0 8) len
    (s2, if kind = 0 then jpegSample p lim b.rollSeed ix rec
      else if kind = 1 then rawSample p lim b.rollSeed ix rec else tokenSample p lim b.rollSeed ix rec)

/-- The side record of a position (R437). -/
def sideRecord (x : Sample) (ix : Nat) : List Byte :=
  leBytes 1 (if x.reason = 0 then 1 else 0) ++ leBytes 1 x.flags.bits ++ leBytes 1 x.reason ++ leBytes 1 0 ++ leBytes 4 x.work
    ++ leBytes 8 ix ++ leBytes 2 x.h ++ leBytes 2 x.w ++ leBytes 4 x.tokens ++ List.replicate 8 0

/-- Numeric events of the engine (R441): the first since enable writes a record. -/
def State.intakeEvents (s : State) (i pos : Nat) (f : Flags) : State :=
  let y := s.intake i
  let s1 := s.setIntake i { y with flags := Flags.or y.flags f }
  if f = .none then s1
  else s1.recordOnce (bItk i) 0x0010 0 i (if f.invalid then 0 else if f.overflow then 1 else 2) pos

/-- Write position q and go on to the next. -/
def State.writePosition (s : State) (i q : Nat) (b : Batch) (ix : Nat) (x : Sample) : State :=
  let who := intakeWho i
  let blk := bItk i
  let s1 := (s.writeRun who (b.dest + q * b.stride) (.clean x.out)).writeRun who (b.side + 32 * q) (.clean (sideRecord x ix))
  let s2 := ((s1.count blk 0x148 1).count blk 0x158 x.work).count blk 0x160 x.recordBytes
  let s3 := (s2.count blk 0x168 (x.out.length + 32)).count blk 0x170 (if x.jpeg then 1 else 0)
  let s4 := if x.reason = 0 then s3.intakeEvents i q x.flags else s3.count blk 0x150 1
  let y := s4.intake i
  s4.setIntake i
    { y with
      position := q + b.engines, waitSince := s.elapsed, waitLong := false
      journal := if x.reason = 0 then y.journal else y.journal ++ [(ix, q, x.work, x.reason, b.step)] }

/-- One position, or the end of the run once all its writes are acknowledged; none where the engine waits for the host,
for an acknowledgement or for its price (R216, R326, R400, R420, R435). -/
def State.positionMove (s : State) (i : Nat) : Option State :=
  let y := s.intake i
  let b := batchOf y.batch
  let p := intakeProgOf y.prog
  let q := y.position
  if b.count ≤ q then if s.owed (.unit (intakeWho i)) then none else some (s.intakeDone i)
  else
    let ix := sampleIndex (b.first + q) b.orderSeed b.dirCount
    let recAt := fieldLe (s.peek (b.dir + 16 * ix) 8 : PBytes).data 0 8
    if s.hostWaits (b.dir + 16 * ix) 16 || s.hostWaits recAt 1 then s.stallOnce (intakeWho i)
    else if s.hostFull b.dest 1 || s.hostFull b.side 1 then none
    else
      let (s1, x) := s.sampleOf i b p ix
      let work : Work := [(12, aHub, x.work)]
      if s.covered (pIntake i) (s.price work) then some ((s1.writePosition i q b ix x).charge (pIntake i) work)
      else
        let h := s.holdPrice (pIntake i) work
        if h = s then none else some h

/-- One move of an engine; none where it cannot move now. -/
def State.intakeMove (s : State) (i : Nat) : Option State :=
  let y := s.intake i
  if !y.journal.isEmpty then none
  else if y.granted && !y.running then if s.startHeld i then s.stallOnce (intakeWho i) else some (s.intakeStart i)
  else if y.running then s.positionMove i
  else none

def State.intakeMoves : Nat → State → Nat → State
  | 0, s, _ => s
  | n + 1, s, i =>
    match s.intakeMove i with
    | some s1 => State.intakeMoves n s1 i
    | none => s

def State.intakeActive (s : State) (i : Nat) : Bool := s.isEnabled (bItk i) && !s.power.issueStopped

/-! ### The commands -/

/-- INTAKE_RUN (R418 to R439): the engine moves on by up to `positions` positions, starts or ends of runs. -/
def execIntakeRun (engine : Ix16) (positions : Nat) (s : State) : Host.Outcome State Fault Refusal :=
  if s.intakeActive engine then .next (s.intakeMoves positions engine) else .next s

/-- INTAKE_WAIT_LONG (R441). The wait kind is the number of the status bit that stands, JRN_WAIT or RUNNING. -/
def execIntakeWaitLong (engine : Ix16) (s : State) : Host.Outcome State Fault Refusal :=
  let i := engine.val
  let y := s.intake i
  let limit := s.fld (bItk i) 0x108 32 16
  if s.intakeActive i && y.running && !y.waitLong && limit != 0 && decide (y.waitSince + limit ≤ s.elapsed) then
    .next ((s.setIntake i { y with waitLong := true }).record (bItk i) 0x0011 i (if y.journal.isEmpty then 1 else 2) y.position)
  else .next s

/-! ### Enabling and disabling (R420, R440) -/

def State.enableIntake (s : State) (i : Nat) : State :=
  (s.setIntake i { s.intake i with flags := .none }).intakeWaits i

/-- A disabled engine has completed its sample; it keeps RUN and does not signal. -/
def State.disableIntake (s : State) (i : Nat) : State :=
  let x := s.intake i
  let s1 := ((s.setIntake i { x with running := false, granted := false, waitLong := false, withdrawing := x.waiting }).dropHeld
    (pIntake i)).hostForget (· == intakeWho i)
  if x.waiting then s1.sendToken (.withdrawal (agIntake i) (BitVec.ofNat 16 (s.fld (bItk i) 0x110 0 16))) else s1

end Sys2Proof.Machine
end

