-- ==== Sys2Proof/Machine/Planner.lean ====
section
/-! DEFINITION. The energy planner at a turn boundary: grants, the reservoir, the plan, reconciliation, and the backstop
(R210 to R212, R216 to R219). -/

namespace Sys2Proof.Machine

/-! Energies are exact: pips are divided by 10⁶ · 2³⁴ for reconciliation (idle power times ns, and prices of 2⁻²⁴ pip
times CORR ÷ 1,024, both come out whole). -/

/-- P in ns, of the configuration in force (R210, R511). -/
def State.turnNs (s : State) : Nat := s.turns.cfg.nominalNs

/-- Pips of a power over a turn: W · ns ÷ 1,000. -/
def State.wattPips (s : State) (w : Nat) : Nat := w * s.turnNs / 1000

/-- The account's rail is on (R219). -/
def State.powered (s : State) (a : Nat) : Bool := if a < 52 then (s.site a).railOn else true

/-- Idle power of an account at a clock, in mW (R213). -/
def State.idleMw (s : State) (a mhz : Nat) : Nat :=
  s.energy.idle.getD ((if a < 52 then 0 else if a < 56 then 21 else 42) + bandOf mhz) 0

/-- Idle power at a clock, in mW: the sum over all accounts, as the plan takes it (R218). -/
def State.idleTotal (s : State) (mhz : Nat) : Nat := ((List.range 57).map fun a => s.idleMw a mhz).sum

/-- SUPPLY_LIMIT_W · P. -/
def State.supplyPips (s : State) : Nat := s.wattPips (s.fld bNrg 0x108 0 16)

/-- CAP_W (R210). -/
def State.capW (s : State) : Nat :=
  let e := s.energy
  let layout := if e.powerCapW = 0 then e.ceilingW else e.powerCapW
  if e.planCap = 0 then layout else min layout (10 * e.planCap)

/-- ALLOWANCE_PIPS has stood unwritten for the turns that GRANT_TIMEOUT gives now; 0 disables it (R211, R222). -/
def State.grantLapsed (s : State) : Bool :=
  let limit := s.fld bNrg 0x108 16 16
  limit != 0 && decide (s.energy.lastGrant + limit ≤ s.elapsed)

/-- G (R210, R211). -/
def State.grantPips (s : State) : Nat :=
  let g := min (min (s.fld bNrg 0x100 0 32) (s.wattPips s.energy.ceilingW)) (min (s.wattPips s.capW) s.supplyPips)
  if s.grantLapsed then min g (s.wattPips 2400) else g

/-- B (R212). -/
def State.borrowPips (s : State) (g : Nat) : Nat :=
  if s.energy.hot then 0 else min s.energy.reservoir (g * s.fld bNrg 0x130 0 8 / 100)

/-! ### Reconciliation (R219) -/

/-- One account's error against its estimate, and its correction; both are in pips divided by 10⁶ · 2³⁴. -/
def reconcileAccount (x : Account) (est got : Nat) : Account × Bool :=
  let sign : Int := if got < est then -1 else 1
  let off : Nat := if got < est then est - got else got - est
  let x1 : Account :=
    if off * 50 ≤ est then { x with run := 0, priced := 0 }
    else if sign = x.lastSign then { x with run := x.run + 1, priced := 0 }
    else { x with run := 1, lastSign := sign, priced := 0 }
  if x1.run = 16 then
    let c : Nat := if got < est then max 896 (x1.corr - 4) else min 1280 (x1.corr + 4)
    ({ x1 with corr := c, run := 0 }, c != x1.corr)
  else (x1, false)

/-- Estimated energy of the turn just ended, in pips divided by 10⁶ · 2³⁴: idle power and priced work. -/
def State.estimate (s : State) (a : Nat) : Nat :=
  let y := s.account a
  s.idleMw a s.energy.clockMhz * s.turnNs * 17179869184 + y.priced * y.corr * 1000000

/-- Measured energy in the same unit. -/
def measuredOf (m : Measures) (a : Nat) : Nat := m.energy.getD a 0 * 1000000 * 17179869184

/-- An account after its reconciliation; a change is counted, and reaching a bound writes one record. -/
def State.noteAccount (s : State) (a : Nat) (r : Account × Bool) : State :=
  let s1 := s.setAccount a r.1
  if r.2 then
    let s2 := s1.count bNrg 0x1A8 1
    if r.1.corr = 896 ∨ r.1.corr = 1280 then s2.record bNrg 0x0012 a r.1.corr 0 else s2
  else s1

/-- Reconcile the turn just ended for one account. -/
def State.reconcile (s : State) (m : Measures) (a : Nat) : State :=
  if s.powered a then s.noteAccount a (reconcileAccount (s.account a) (s.estimate a) (measuredOf m a))
  else s.setAccount a { s.account a with priced := 0 }

/-! ### The reservoir (R212) -/

/-- Some sensor is at its threshold less a margin, or above. -/
def State.sensorAt (s : State) (m : Measures) (margin : Nat) : Bool :=
  ((List.range 52).any fun i =>
      (s.site i).status == .service && decide (s.fld bNrg 0x130 8 8 < m.siteTemp.getD i 0 + margin + (if margin = 0 then 1 else 0)))
    || (List.range 16).any fun i =>
      decide (s.fld bNrg 0x130 16 8 < m.hbmTemp.getD i 0 + margin + (if margin = 0 then 1 else 0))

/-- The turn's energy is settled with the reservoir, and borrowing is judged. -/
def State.settleReservoir (s : State) (m : Measures) : State :=
  let e := s.energy
  let used := m.energy.sum
  let drawn := min e.reservoir (used - e.grant)
  let s1 := if drawn = 0 then s else s.count bNrg 0x190 drawn
  let hot := s.sensorAt m 0 || (e.hot && s.sensorAt m 5)
  let rsv := if s.sensorAt m 0 then 0 else min e.reservoirMax (e.reservoir + e.grant - used)
  { s1 with energy := { s1.energy with reservoir := rsv, hot := hot } }

/-! ### The plan (R218) -/

/-- Every priced agent's account, for CORR of its demand. -/
def State.agentAccount (s : State) (x : Nat) : Nat := ((s.physCore x).map (· / 8)).getD x

/-- Cycles of the turn before in which a core stood stalled for its price. The model has no cycles: none where nothing
waited, else a free value below the turn's cycles. -/
def State.stallCycles (s : State) (x : Nat) (u : AgentUse) (cycles : Nat) : Nat :=
  if u.stalledPrev then (Config.freeWord (s.fresh + x)).toNat % cycles else 0

/-- Demand of an agent at a clock, in 2⁻¹⁶ pip; `f0` is the clock of the turn measured. -/
def State.demand (s : State) (f0 f x : Nat) : Nat :=
  let u := s.agentUse x
  if x < 384 then
    let a := s.agentAccount x
    let cycles := max 1 (f0 * s.turnNs / 1000)
    let free := max 1 (cycles - s.stallCycles x u cycles)
    let turnCycles := f * s.turnNs / 1000
    ceilDiv ((u.basePrev * turnCycles + u.heldPrev * free) * s.energy.priceScale.getD (bandOf f) 0 * (s.account a).corr)
      (free * 262144)
  else u.pricedPrev + u.heldPrev

def State.needAt (s : State) (f0 f : Nat) : Nat := ((List.range pricedAgents).map fun x => s.demand f0 f x).sum

/-- What is left of a budget after idle energy, in 2⁻¹⁶ pip. -/
def State.poolAt (s : State) (budget f : Nat) : Nat := (budget * 1000000 - s.idleTotal f * s.turnNs) * 65536 / 1000000

/-- The loop that lowers the clock by 10 MHz until the need is met or the least clock is reached. -/
def State.planClock (s : State) (f0 budget : Nat) : Nat → Nat → Nat
  | 0, f => f
  | n + 1, f =>
    if s.needAt f0 f ≤ s.poolAt budget f ∨ f ≤ s.energy.clockMin then f
    else s.planClock f0 budget n (max s.energy.clockMin (f - 10))

/-- The clock that the plan starts from: the lower of the layout's and the latest PLAN entry's (R208, R218). A PLAN entry's
clock is taken down to a step of 10 MHz (R17), and one below CLOCK_MIN_MHZ, from which the plan's loop would never reach
its least clock, up to CLOCK_MIN_MHZ: both are the model's choice (log entry 42). -/
def State.planStart (s : State) : Nat :=
  let e := s.energy
  if e.planClockMax = 0 then e.clockMax else max e.clockMin (min e.clockMax (e.planClockMax / 10 * 10))

/-- The plan for the next turn, from the measurements of the turn before this one; `f0` was its clock, `b` the borrow. -/
def State.makePlan (s : State) (f0 b : Nat) : Plan :=
  let g := s.grantPips
  let budget := min (g + b) s.supplyPips
  let f := s.planClock f0 budget 200 s.planStart
  let need := s.needAt f0 f
  let pool := s.poolAt budget f
  let share (x : Nat) : Nat :=
    if need ≤ pool then s.demand f0 f x + (pool - need) / pricedAgents
    else pool * s.demand f0 f x / need
  { clockMhz := f, grant := g, borrow := b, budget := budget
    allot := ((List.range pricedAgents).map fun x => (x, share x)).filter fun e => e.2 ≠ 0 }

/-- The plan made during the ended turn takes effect: clock, budget and allotments together (R216, R218); with borrowing
stopped, the one made without it (R212; log entry 83). With no plan made, in the first turn after NRG's enable, grant and budget
are those of R210 and R212, the clock stays and nothing is allotted (log entry 42). -/
def State.applyPlan (s : State) : State :=
  let e := s.energy
  let g := s.grantPips
  let b := s.borrowPips g
  let p : Plan := (if e.hot then e.coolPlan else e.nextPlan).getD
    { clockMhz := e.clockMhz, grant := g, borrow := b, budget := min (g + b) s.supplyPips, allot := [] }
  let s1 :=
    { s with
      energy :=
        { e with
          clockMhz := p.clockMhz, grant := p.grant, borrow := p.borrow, budget := p.budget, nextPlan := none, coolPlan := none } }
  (List.range pricedAgents).foldl
    (fun acc x =>
      let u := acc.agentUse x
      acc.setAgentUse x { u with balance := Map.get p.allot x 0 + min u.balance 0 }) s1

/-- A new turn begins for an agent's measurements. -/
def AgentUse.shift (u : AgentUse) : AgentUse :=
  { u with
    issued := false, basePrev := u.baseNow, baseNow := 0, pricedPrev := u.pricedNow, pricedNow := 0
    heldPrev := u.held, stalledPrev := u.stalled, stalled := false }

def State.shiftAgents (s : State) : State :=
  { s with
    energy :=
      { s.energy with
        agents := (s.energy.agents.map fun e => (e.1, e.2.shift)).filter fun e => e.2 ≠ AgentUse.reset
        backstop := false } }

/-- Everything the planner does at a boundary: it reconciles the turn just ended and settles the reservoir in every state
of NRG; while NRG is disabled it plans nothing and balances keep their values (R212, R216, R219). -/
def State.energyBoundary (s : State) (m : Measures) : State :=
  let f0 := s.energy.clockMhz
  let s1 := ((List.range 57).foldl (fun acc a => acc.reconcile m a) s).settleReservoir m
  if s.isEnabled bNrg then
    let s2 := s1.applyPlan.shiftAgents
    { s2 with
      energy :=
        { s2.energy with
          nextPlan := some (s2.makePlan f0 (s2.borrowPips s2.grantPips)), coolPlan := some (s2.makePlan f0 0) }
      fresh := s2.fresh + 384 }
  else { s1.shiftAgents with energy := { s1.shiftAgents.energy with grant := s1.grantPips, borrow := 0 } }

/-! ### Commands -/

/-- GRANT_TIMEOUT (R211): due once ALLOWANCE_PIPS has stood unwritten for the register's number of turns. -/
def execGrantTimeout (s : State) : Host.Outcome State Fault Refusal :=
  let e := s.energy
  if s.grantLapsed && !e.grantExpired then
    .next (({ s with energy := { e with grantExpired := true } }).record bNrg 0x021B 0 0 e.lastGrantTurn)
  else .next s

/-- Price of what a core has issued and not completed, in 2⁻¹⁶ pip: engine, matrix-vector and drain operations, and moves that
wait in their queue or for an acknowledgement of the host's (R217). -/
def State.incompletePrice (s : State) (core : Nat) : Nat :=
  let c := s.core core
  let eng := (List.range 4).foldl
    (fun n e => (s.engine (4 * core + e)).queue.foldl
      (fun (n : Nat) (q : QEntry) => n + match q.op with
        | .pass p => s.price (p.work core)
        | .load _ => s.price [(2, core / 8, 128)]) n) 0
  let mv := (c.mvq.map fun x => s.price [(3, core / 8, x.2.cycles)]).sum
  let dr := (c.drainq.map fun x => s.price [(7, core / 8, x.2.rows)]).sum
  let mo := ((c.moverq ++ c.moves).map fun o => s.price (moveWork core o.srcs o.dst)).sum
  eng + mv + dr + mo

/-- Kind of work whose write to the host waits for acknowledgement: a save's copy, a ring's copy, a collective step's (R214);
none of what is no priced agent's, or a core's own. -/
def State.owedKind (s : State) : WriteOwner → Option Nat
  | .copyout => some 13
  | .control => some 13
  | .ring r => some (if ((s.ring r).cmd.map fun c => fieldLe c.args 24 1) = some 0 then 10 else 14)
  | .unit w => if 0x1120 ≤ w ∧ w < 0x1128 then some 14 else if w = 0x1130 then some 13 else none
  | .home => none
  | .move _ _ => none

/-- Price of the copies that have been written and wait for the host (R217). -/
def State.owedPrice (s : State) : Nat :=
  (s.ncl.egress.map fun e => match s.owedKind e.owner with
    | some k => s.price [(k, aHub, ceilDiv e.bytes.length 128)]
    | none => 0).sum

/-- BACKSTOP_CHECK (R217). Each turn in which it acts is counted once. -/
def execBackstopCheck (measuredPips timeLeftNs : Nat) (s : State) : Host.Outcome State Fault Refusal :=
  let pending := ((List.range 416).map s.incompletePrice).sum + s.owedPrice
  let total := measuredPips * 65536 * 1000000 + pending * 1000000 + s.idleTotal s.energy.clockMhz * timeLeftNs * 65536
  if s.isEnabled bNrg && decide (s.energy.budget * 65536 * 1000000 ≤ total) && !s.energy.backstop then
    .next (({ s with energy := { s.energy with backstop := true } }).count bNrg 0x198 1)
  else .next s

/-- NRG_CORR_SEL (R222): an account that does not exist selects nothing. -/
def execNrgCorrSel (account : BitVec 6) (s : State) : Host.Outcome State Fault Refusal :=
  if account.toNat < 57 then .next { s with energy := { s.energy with corrSel := account.toNat } } else .next s

end Sys2Proof.Machine
end

