-- ==== Sys2Proof/Machine/ScoreSheet.lean ====
section
/-! DEFINITION. The score sheets' own commands: records written, freezes lifted, flushes to module flash (R453 to R460). -/

namespace Sys2Proof.Machine

/-! ### Records (R454, R455) -/

/-- The 32 bytes of a record. -/
def Record.bytes (r : Record) : List Byte :=
  leBytes 8 r.turn.toNat ++ leBytes 4 r.seq.toNat ++ leBytes 2 r.event.toNat ++ leBytes 1 r.origin.toNat ++ leBytes 1 0
    ++ leBytes 2 r.block.toNat ++ leBytes 2 r.unit.toNat ++ leBytes 4 r.arg0.toNat ++ leBytes 8 r.arg1.toNat

/-! A sheet's two words of a record carry check bits (R453). `State.upsets` holds their flipped bits under keys of their
own, by sheet, SEQ and half; a read checks them and leaves the ring as it is. -/

/-- Key of word h of the record with a SEQ in a sheet. -/
def sheetWordKey (t seq h : Nat) : Nat := 2 ^ 62 + t * 2 ^ 34 + 2 * seq + h

/-- Word h of a record as a read delivers it, and whether it is poison. -/
def State.recordWord (s : State) (t : Nat) (r : Record) (h : Nat) : BitVec 128 × Bool :=
  let d := wordOf ((r.bytes.drop (16 * h)).take 16)
  match Map.find s.upsets (sheetWordKey t r.seq.toNat h) with
  | none => (d, false)
  | some e => let c := checkWord d false e; (c.1, c.2.1)

/-- The 32 bytes of a record as read. -/
def State.recordRead (s : State) (t : Nat) (r : Record) : List Byte :=
  leBytes 16 (s.recordWord t r 0).1.toNat ++ leBytes 16 (s.recordWord t r 1).1.toNat

/-- A record holds a poisoned word (R458, R461). -/
def State.recordPoisoned (s : State) (t : Nat) (r : Record) : Bool := (s.recordWord t r 0).2 || (s.recordWord t r 1).2

/-- SCORE_RECORD_WRITE (R455, R457). -/
def execScoreRecordWrite (sheet : TrnIx) (s : State) : Host.Outcome State Fault Refusal :=
  let x := s.sheet sheet
  match x.queue with
  | [] => .next s
  | r :: rest =>
    if x.frozen != .none then .next s
    else .next (((s.setSheet sheet { x with queue := rest }).writeRecord sheet r).noteDropped sheet)

/-! ### Freezes (R457) -/

/-- FREEZE_CAUSE (R461). -/
def FreezeCause.code : FreezeCause → Nat
  | .none => 0
  | .fatal => 1
  | .powerWarning => 2

/-- A freeze lifts, and the sheet writes the record that says so. -/
def State.liftFreeze (s : State) (t code arg0 : Nat) : State :=
  (s.setSheet t { s.sheet t with frozen := .none }).writeRecord t (sheetRecord t code 0 arg0 0)

/-- UNFREEZE of one sheet (R457). -/
def State.unfreezeSheet (s : State) (t : Nat) : State :=
  let x := s.sheet t
  if x.frozen = .none ∨ s.power.fatal then s else s.liftFreeze t 0x0005 x.frozen.code

/-- UNFREEZE (R457, R452). -/
def execUnfreeze (sheet : TrnIx) (s : State) : Host.Outcome State Fault Refusal := .next (s.unfreezeSheet sheet)

/-! ### Flushes (R458) -/

def flushAreaA : Nat := 0x3000000
def flushAreaB : Nat := 0x3080000
def flushMagic : Nat := 0x4853464E

/-- Records of a sheet that a flush copies. -/
def flushShare (t : Nat) : Nat := if t = 4 then 4096 else 2048

/-- The order of the sheets in a flush: the hub, then tiles 0 to 3. -/
def flushOrder : List Nat := [4, 0, 1, 2, 3]

/-- The newest records of a sheet, in SEQ order. -/
def State.flushRecords (s : State) (t : Nat) : List Record := ((s.sheet t).records.take (flushShare t)).reverse

/-- A record as a flush copies it: UNIT 0xFFFF where a word of it was poisoned. -/
def State.flushRecord (s : State) (t : Nat) (r : Record) : List Byte :=
  let bs := s.recordRead t r
  if s.recordPoisoned t r then bs.take 18 ++ leBytes 2 0xFFFF ++ bs.drop 20 else bs

/-- FLUSH_COUNT of a valid area: MAGIC, VERSION and CRC are correct. -/
def State.flushCount (s : State) (area : Nat) : Option Nat :=
  let h := s.flashRead area 64
  let n := ((List.range 5).map fun i => fieldLe h (24 + 4 * i) 4).sum
  if fieldLe h 0 4 = flushMagic ∧ fieldLe h 4 2 = 1 ∧ 64 + 32 * n ≤ 0x80000 then
    if crc32 (h.take 60 ++ s.flashRead (area + 64) (32 * n)) = fieldLe h 60 4 then some (fieldLe h 8 4) else none
  else none

/-- The newest valid area: where it lies, and its FLUSH_COUNT. -/
def State.newestFlush (s : State) : Option (Nat × Nat) :=
  match s.flushCount flushAreaA, s.flushCount flushAreaB with
  | some a, some b => if a < b then some (flushAreaB, b) else some (flushAreaA, a)
  | some a, none => some (flushAreaA, a)
  | none, some b => some (flushAreaB, b)
  | none, none => none

/-- The area a flush writes, and its FLUSH_COUNT: not the newest valid one; one more than the other area's, or 1. -/
def State.flushTarget (s : State) : Nat × Nat :=
  match s.newestFlush with
  | some (a, n) => (if a = flushAreaA then flushAreaB else flushAreaA, n + 1)
  | none => (flushAreaA, 1)

/-- What a flush writes: header, then records. -/
def State.flushImage (s : State) (f : Flush) (count : Nat) : List Byte :=
  let body := flushOrder.flatMap fun t => (s.flushRecords t).flatMap (s.flushRecord t)
  let h := leBytes 4 flushMagic ++ leBytes 2 1 ++ leBytes 1 f.reason ++ leBytes 1 0 ++ leBytes 4 count ++ leBytes 4 0
    ++ leBytes 8 f.turn.toNat ++ (flushOrder.flatMap fun t => leBytes 4 (s.flushRecords t).length) ++ List.replicate 16 0
  h ++ leBytes 4 (crc32 (h ++ body)) ++ body

/-- The flush in progress ends with a valid area. -/
def State.endFlush (s : State) (f : Flush) : State :=
  let (area, count) := s.flushTarget
  let s1 := (s.flashWrite area (s.flushImage f count)).count (bSsh 4) 0x190 1
  { s1 with power := { s1.power with flushing := none } }

/-- FLUSH (R458): merged into a flush in progress; nothing obeys it while the device is held in reset (R498). -/
def execFlush (s : State) : Host.Outcome State Fault Refusal := .next (if s.power.held then s else s.startFlush 3)

end Sys2Proof.Machine
end

