-- ==== Sys2Proof/Machine/Snapshot.lean ====
section
/-! DEFINITION. Snapshots: live counters copied into holding registers (R487 to R489). -/

namespace Sys2Proof.Machine

/-- Copy every live counter of one block, with the capture's number and turn (R487, R489). -/
def State.capture (s : State) (n num : Nat) : State :=
  match blockOf n with
  | none => s
  | some (k, _) =>
    let s1 := k.holds.foldl
      (fun acc off => { acc with holds := Map.put acc.holds (regKey n off) (acc.counter n off) 0 }) s
    s1.setBlk n { s1.blk n with snapId := BitVec.ofNat 64 num, snapTurn := s.turns.now }

/-- The blocks that a block snapshot captures: of a core, also its four engines (R487). -/
def captureSet (n : Nat) : List Nat :=
  match blockOf n with
  | some (.core, c) => n :: (List.range 4).map fun e => bEng (4 * c + e)
  | _ => [n]

/-- The next capture takes the hub's next number, from 1 on (R489). -/
def State.captureAll (s : State) (ns : List Nat) : State :=
  let num := s.snapNext + 1
  (ns.filter s.reachable).foldl (fun acc n => acc.capture n num) { s with snapNext := num }

/-- A block snapshot. -/
def State.snapshotBlock (s : State) (n : Nat) : State := s.captureAll (captureSet n)

/-- A device snapshot. -/
def State.snapshotDevice (s : State) : State := s.captureAll allBlocks

/-- SNAPSHOT_BLOCK (R487 to R489). -/
def execSnapshotBlock (block : BitVec 16) (s : State) : Host.Outcome State Fault Refusal :=
  if s.reachable block.toNat then .next (s.snapshotBlock block.toNat) else .next (s.frameFault block.toNat 0x018)

/-- SNAPSHOT_DEVICE (R487 to R489). -/
def execSnapshotDevice (s : State) : Host.Outcome State Fault Refusal := .next s.snapshotDevice

end Sys2Proof.Machine
end

