-- ==== Sys2Proof/Machine/Turns.lean ====
section
/-! DEFINITION. Turns: the reference clock, marks, boundaries and turn tables (R201 to R209, R511). -/

namespace Sys2Proof.Machine

/-! Edges are timed in hub fabric cycles of 0.625 ns (R202); reference instants and marks in ps. -/

/-- A hub fabric cycle, in ps. -/
def cyclePs : Nat := 625

/-- The latency from an edge to its boundary, in ps (R202). -/
def boundaryLatency : Nat := 40 * cyclePs

/-- d ps are at least 0.9 · P and at most 1.1 · P of p ns (R203). -/
def inWindow (d p : Nat) : Bool := decide (900 * p ≤ d) && decide (d ≤ 1100 * p)

/-- d ps are at least 0.5 · P (R203). -/
def halfPast (d p : Nat) : Bool := decide (500 * p ≤ d)

/-! ### Edges (R201 to R203) -/

/-- Count of a run of good spacings during holdover. -/
def runOf (run : Nat) (good : Bool) : Nat := if run = 0 then 1 else if good then run + 1 else 1

/-- An edge, or a mark with SOURCE 1, during holdover: the 16th of a good run ends it, and the oscillator makes no
further boundary (R203). -/
def Turns.runEdge (t : Turns) (good : Bool) : Turns :=
  let n := runOf t.goodEdges good
  if 16 ≤ n then { t with goodEdges := 0, holdover := false, ending := true, missedRun := 0 } else { t with goodEdges := n }

/-- An edge at an instant makes the next boundary, is ignored as a glitch, or is ignored (R203). From the edge that ends
holdover to the boundary after it, no edge is a glitch. -/
def State.edgePlaces (s : State) (at_ : Nat) : State :=
  let t := s.turns
  let p := t.cfg.nominalNs
  if t.ending then
    if t.due.isNone && halfPast (at_ - t.lastRef) p then { s with turns := { t with due := some (at_, true), ending := false } } else s
  else if t.due.isSome then s.count (bTrn 4) 0x148 1
  else if inWindow (at_ - t.lastRef) p then { s with turns := { t with due := some (at_, true) } }
  else s.count (bTrn 4) 0x148 1

/-- TURN_IN_EDGE (R201 to R203). -/
def execTurnInEdge (time : Nat) (s : State) : Host.Outcome State Fault Refusal :=
  let t := s.turns
  let at_ := cyclePs * time
  if t.cfg.source ≠ 0 then .next s
  else
    let good := match t.lastEdge with
      | some e => inWindow (at_ - e) t.cfg.nominalNs
      | none => false
    if t.holdover then
      let t1 := { t.runEdge good with lastEdge := some at_ }
      let s1 := { s with turns := t1 }
      .next (if t1.ending then s1.edgePlaces at_ else s1)
    else
      let s1 := s.edgePlaces at_
      .next { s1 with turns := { s1.turns with lastEdge := some at_ } }

/-! ### Marks (R204 to R206) -/

/-- P̂ in ps: the mean spacing of the last 16 marks, or the nominal length until 16 have arrived (R205). -/
def Turns.meanPs (t : Turns) : Int :=
  match t.marks[0]?, t.marks[15]? with
  | some a, some b => (a - b) / 15
  | _, _ => 1000 * t.cfg.nominalNs

/-- Queue a mark at the ports of FORWARD (R204). -/
def State.sendMarks (s : State) (turn : Word64) (lead : Nat) (acc : W32) : State :=
  (List.range 8).foldl
    (fun st p =>
      if bitOf s.turns.cfg.forward.toNat p then
        let x := st.ladder p
        st.setLadder p { x with markDue := x.markDue ++ [(turn, lead, acc)] }
      else st) s

/-- The turn number that the next mark should carry. -/
def Turns.expected (t : Turns) : Word64 :=
  match t.placed.getLast? with
  | some e => e.2 + 1
  | none => t.now + 1

/-- A mark on MARK_PORT places its boundary, or comes too late (R205, R206). -/
def State.placeMark (s : State) (port : Nat) (turn : Word64) (lead : Nat) (e : Int) (arrivalPs : Nat) : State :=
  let t := s.turns
  let p := ({ t with marks := (e :: t.marks).take 16 } : Turns).meanPs
  let at_ := e + lead * p
  let d := e - (t.marks.head?.getD 0)
  let good := !t.marks.isEmpty && decide (9 * p ≤ 10 * d) && decide (10 * d ≤ 11 * p)
  let t1 := if t.holdover then t.runEdge good else t
  let t2 := { t1 with marks := (e :: t1.marks).take 16 }
  if at_ < arrivalPs then s.count (bTrn 4) 0x158 1
  else if t1.holdover then { s with turns := t2 }
  else
    let ref := (at_ - boundaryLatency).toNat
    let jump := turn != t.expected
    let s1 :=
      { s with
        turns := { t2 with placed := t2.placed ++ [(ref, turn)], turnJump := jump, ending := false } }
    if jump then s1.record (bTrn 4) 0x021A port 0 turn.toNat else s1

/-- The oldest mark that a mark frame has brought to a port is taken. -/
def State.dropMark (s : State) (p : Nat) : State :=
  s.setLadder p { s.ladder p with markIn := (s.ladder p).markIn.drop 1 }

/-- TURN_MARK (R201, R204 to R206, R372): the mark that an accepted mark frame has brought, with its two time stamps; marks on
other ports, and with another source, are ignored. -/
def execTurnMark (port : PortIx) (turn : Word64) (lead : BitVec 4) (accDelayPs : W32) (arrivalPs sendPs : Nat) (s : State) :
    Host.Outcome State Fault Refusal :=
  let t := s.turns
  if (s.ladder port).markIn.head? ≠ some (turn, lead.toNat, accDelayPs) then .next s
  else if t.cfg.source ≠ 1 ∨ t.cfg.markPort ≠ port.val then .next (s.dropMark port)
  else
    let hop := (s.ladder port).hopPs
    let s1 := (s.dropMark port).sendMarks turn lead.toNat (accDelayPs + hop + BitVec.ofNat 32 (sendPs - arrivalPs))
    .next (s1.placeMark port turn lead.toNat ((arrivalPs : Int) - accDelayPs.toNat - hop.toNat) arrivalPs)

/-! ### Boundaries without a reference (R203, R206) -/

/-- 1.1 · P, or 1.1 · P̂ with SOURCE 1, in ps. -/
def Turns.lateAfter (t : Turns) : Nat := if t.cfg.source = 1 then (t.meanPs * 11 / 10).toNat else 1100 * t.cfg.nominalNs

/-- With SOURCE 1, a mark has placed a boundary by 1.1 · P̂ after the last one (R206). -/
def Turns.placedInTime (t : Turns) : Bool := t.placed.any fun e => decide (e.1 ≤ t.lastRef + t.lateAfter)

/-- Number of the boundary: TRN_SET's, the mark's, or one more (R206, R207). -/
def Turns.nextNumber (t : Turns) : Word64 :=
  match t.next with
  | some v => v
  | none =>
    match t.due, t.placed.head? with
    | none, some e => e.2
    | _, _ => t.now + 1

/-- MISSED_BOUNDARY (R203, R206). The record of holdover carries the number of the fourth boundary. -/
def execMissedBoundary (s : State) : Host.Outcome State Fault Refusal :=
  let t := s.turns
  if t.cfg.source = 2 ∨ t.holdover ∨ t.ending ∨ t.due.isSome ∨ (t.cfg.source = 1 ∧ t.placedInTime = true) then .next s
  else
    let run := t.missedRun + 1
    let t1 := { t with due := some (t.lastRef + t.lateAfter, false), missedRun := run }
    let s1 := ({ s with turns := t1 }).count (bTrn 4) 0x150 1
    if 4 ≤ run then
      .next (({ s1 with turns := { t1 with holdover := true, goodEdges := 0, missedRun := 0 } }).record (bTrn 4) 0x0219 0
        t.cfg.source t.nextNumber.toNat)
    else .next s1

/-- HOLDOVER_BOUNDARY (R201, R203). -/
def execHoldoverBoundary (s : State) : Host.Outcome State Fault Refusal :=
  let t := s.turns
  if t.due.isSome ∨ ¬ (t.cfg.source = 2 ∨ t.holdover) then .next s
  else .next { s with turns := { t with due := some (t.lastRef + 1000 * t.cfg.nominalNs, t.cfg.source == 2) } }

/-! ### Turn tables (R208, R209) -/

def State.table (s : State) (i : Nat) : List TtEntry := Map.get s.turns.tables i []

def State.setTable (s : State) (i : Nat) (l : List TtEntry) : State :=
  { s with turns := { s.turns with tables := Map.put s.turns.tables i l [] } }

/-- Reasons to refuse an append, by code (R208). -/
def State.appendReasons (s : State) (i : Nat) (x : TtEntry) : List Nat :=
  let l := s.table i
  let last := match l.getLast? with
    | some e => decide (x.turn.toNat < e.turn.toNat)
    | none => false
  let tgt := x.target.toNat
  (if (if i < 4 then 256 else 1024) ≤ l.length then [1] else []) ++ (if last then [2] else [])
    ++ (if x.action = 0 ∨ 3 < x.action then [3] else [])
    ++ (if x.action = 1 ∧ i < 4 ∧ tokTile tgt ≠ i then [4] else [])
    ++ (if x.action = 1 ∧ x.arg = 0 then [5] else [])
    ++ (if x.action = 2 ∧ (if tgt = 0xFFFF then i < 4 else (blockOf tgt).isNone) then [6] else [])

/-- TURN_TABLE_APPEND (R208). -/
def execTurnTableAppend (trn : TrnIx) (hi : Word64) (s : State) : Host.Outcome State Fault Refusal :=
  let i := trn.val
  let v := hi.toNat
  let x : TtEntry :=
    { turn := Map.get s.turns.stagedLo i 0, action := bitsOf v 0 4, target := BitVec.ofNat 16 (bitsOf v 16 16)
      arg := BitVec.ofNat 32 (bitsOf v 32 32) }
  match s.appendReasons i x with
  | [] => .next (s.setTable i (s.table i ++ [x]))
  | r :: _ =>
    let s1 := s.count (bTrn i) 0x168 1
    if s1.turns.refusedThisTurn.contains i then .next s1
    else
      .next (({ s1 with turns := { s1.turns with refusedThisTurn := setAdd s1.turns.refusedThisTurn i } }).record (bTrn i)
        0x0210 i r x.turn.toNat)

/-- A capture at a boundary takes the counters as they stand at the end of the turn before (R209, R488). -/
def State.captureAt (s : State) (base : Map Word64) (tgt : Nat) : State :=
  let s0 := { s with counters := base }
  { (if tgt = 0xFFFF then s0.snapshotDevice else s0.snapshotBlock tgt) with counters := s.counters }

/-- Run one entry in block i (R208, R209). A SIGNAL acts as a runtime signal; from the hub it sets
out for its tile as a token message (R510). `base`
holds the counters at the end of the turn before. -/
def State.runEntry (s : State) (base : Map Word64) (i : Nat) (x : TtEntry) : State :=
  let tgt := x.target.toNat
  match x.action with
  | 1 => if i < 4 then s.offer (tokTile tgt) (.cmdSignal x.target x.arg) else s.sendToken (.signal agHub x.target x.arg)
  | 2 => s.captureAt base tgt
  | 3 => { s with energy := { s.energy with planClockMax := bitsOf x.arg.toNat 0 16, planCap := bitsOf x.arg.toNat 16 16 } }
  | _ => s

/-- Take the entries that match out of every table, blocks in order, and run them in table order. -/
def State.runEntries (s : State) (base : Map Word64) (sel : TtEntry → Bool) (late : Bool) : State :=
  (List.range 5).foldl
    (fun acc i =>
      let l := acc.table i
      let go := l.filter sel
      let s1 := acc.setTable i (l.filter fun x => !sel x)
      go.foldl (fun st x => (if late then st.count (bTrn i) 0x160 1 else st).runEntry base i x) s1) s

/-- The SNAPSHOT entries that run at a boundary, late ones and the turn's own. A device entry and block entries have one capture
instant, so they make one capture with the device's number (R489). -/
def State.runSnapshots (s : State) (base : Map Word64) (late due : TtEntry → Bool) : State :=
  let sel (x : TtEntry) : Bool := late x || due x
  if (List.range 5).any fun i => (s.table i).any fun x => sel x && x.target == 0xFFFF then
    ((List.range 5).foldl
      (fun acc i => (acc.setTable i ((acc.table i).filter fun x => !sel x)).count (bTrn i) 0x160 ((acc.table i).filter late).length)
      s).captureAt base 0xFFFF
  else (s.runEntries base late true).runEntries base due false

/-! ### The boundary (R203, R207, R209) -/

/-- Reference instant of the boundary that is due: made by an edge or the clock, or placed by a mark. -/
def Turns.boundaryDue (t : Turns) : Option (Nat × Bool) :=
  match t.due with
  | some d => some d
  | none => if t.cfg.source = 1 ∧ t.holdover = false then t.placed.head?.map fun e => (e.1, true) else none

/-- The clock at a boundary: counter, period, run of missed boundaries and LOCKED (R203, R207, R511). -/
def Turns.advance (t : Turns) (ref : Nat) (locked : Bool) : Turns :=
  { t with
    now := t.nextNumber, next := none, due := none, locked := locked, lastRef := ref
    periodPs := BitVec.ofNat 32 (ref - t.lastRef), missedRun := if locked then 0 else t.missedRun
    placed := (if t.due.isNone then t.placed.drop 1 else t.placed).filter fun e => ref < e.1
    refusedThisTurn := [], elapsed := t.elapsed + 1 }

/-- Entries of a turn that have an action. -/
def TtEntry.isFor (now : Word64) (action : Nat) (x : TtEntry) : Bool := x.turn == now && x.action == action

/-- Entries whose turn has passed. -/
def TtEntry.isLate (now : Word64) (x : TtEntry) : Bool := x.turn.ult now

/-- The four steps of R209; the plan takes effect, and the next one is made, after the PLAN entries. -/
def State.boundarySteps (s : State) (m : Measures) : State :=
  let s1 := s.count bNrg 0x180 m.energy.sum
  let base := s1.counters
  let now := s.turns.now
  let s2 := s1.runEntries base (fun x => x.isLate now && x.action != 2) true
  let s3 := s2.runSnapshots base (fun x => x.isLate now && x.action == 2) (TtEntry.isFor now 2)
  let s4 := s3.runEntries base (TtEntry.isFor now 3) false
  (s4.energyBoundary m).runEntries base (TtEntry.isFor now 1) false

/-- Every TRN block counts the boundary (R221). -/
def State.countTurns (s : State) : State := (List.range 5).foldl (fun acc i => acc.count (bTrn i) 0x140 1) s

/-- A chain root sends its mark (R204). -/
def State.rootMarks (s : State) : State :=
  let c := s.turns.cfg
  if c.source = 1 then s else s.sendMarks (s.turns.now + BitVec.ofNat 64 c.lead) c.lead 0

/-- What the blocks that count turns do at a boundary: waits of engines are noted (R96), a walk of the directories ends
(R311; log entry 62), HBM3E stacks in hot refresh count the turn (R337), banks end tests and enter retention (R291, R294),
the save engine captures (R257), and link ends report their widths (R350). -/
def State.unitsBoundary (s : State) : State :=
  let s1 := s.engines.foldl (fun acc e => acc.noteWait e.1) s
  let s2 := { s1 with homes := Map.mapVals s1.homes (fun h => { h with reclaiming := false }) .reset }
  s2.hotBoundary.bankBoundary.saveBoundary.linkBoundary

/-- What the turn just ended has brought about in stored words, in words on their way, and in control state, where an
uncorrectable word is a fatal error (R333, R451; log entry 35). -/
def State.disturb (s : State) (m : Measures) : State :=
  (m.control.filter fun e => (blockOf e.1).isSome).foldl (fun acc e => acc.fatalError e.1 0x0307 e.1 0 e.2)
    { s.upset 0 m.upsets with wire := s.wire ++ m.wire }

/-- TURN_BOUNDARY (R201 to R212, R216, R218, R219, R291): nothing happens before a boundary is due. -/
def execTurnBoundary (m : Measures) (s : State) : Host.Outcome State Fault Refusal :=
  match s.turns.boundaryDue with
  | none => .next s
  | some d =>
    .next ((({ s with turns := s.turns.advance d.1 d.2 }.boundarySteps m).countTurns.rootMarks.unitsBoundary).disturb m)

/-- TRN_SET (R207). -/
def execTrnSet (value : Word64) (s : State) : Host.Outcome State Fault Refusal :=
  if s.turns.cfg.source = 1 then .next (s.count (bTrn 4) 0x170 1)
  else .next { s with turns := { s.turns with next := some value } }

/-- Enabling the hub's TRN block takes the stored configuration and starts its reference logic afresh (R511). -/
def State.enableTrn (s : State) : State :=
  let b := bTrn 4
  { s with
    turns :=
      { s.turns with
        cfg :=
          { source := s.fld b 0x100 0 2, markPort := s.fld b 0x100 2 3, forward := BitVec.ofNat 8 (s.fld b 0x100 8 8)
            lead := s.fld b 0x100 16 4, nominalNs := s.fld b 0x100 24 17 }
        missedRun := 0, goodEdges := 0, holdover := false, turnJump := false, locked := false, ending := false
        marks := [], placed := [], due := none } }

end Sys2Proof.Machine
end

