-- ==== Sys2Proof/Machine/Boot.lean ====
section
/-! DEFINITION. Boot: configuration read at phase 1, identity, the firmware image and the boot phases (R463 to R470,
R496, R498, R504). -/

namespace Sys2Proof.Machine

/-! ### Straps and EEPROM (R468, R496, R504) -/

/-- CEILING_W of a cooling class (R19, R496). -/
def ceilingOf (cool : Nat) : Nat := if cool = 1 then 4500 else if cool = 2 ∨ cool = 3 then 6000 else 2400

/-- Bytes of the EEPROM; a byte never written reads as flash does (log entry 6). -/
def State.eepromRead (s : State) (off n : Nat) : List Byte :=
  (List.range n).map fun i => Map.get s.eeprom (off + i) flashErased

def securityMagic : Nat := 0x5345464E
def configMagic : Nat := 0x4345464E
def configArea : Nat := 0x2400
def securitySize : Nat := 8896
def helperOffset : Nat := 7872
def keySize : Nat := 1952

/-- The security area is taken as written: right MAGIC, no reserved value of REQUIRE_SIGNED, at most four keys; its reserved
bytes are ignored (R9, R468). -/
def securityOk (d : List Byte) : Bool :=
  fieldLe d 0 4 == securityMagic && decide (fieldLe d 4 1 ≤ 1) && decide (fieldLe d 5 1 ≤ 4)

/-- Keys in service. -/
def signerKeys (d : List Byte) : List (List Byte) :=
  (List.range (fieldLe d 5 1)).map fun k => (d.drop (64 + keySize * k)).take keySize

/-- The EEPROM areas as phase 1 reads them. -/
def State.readEeprom (s : State) (addr : BitVec 3) : State :=
  let sec := s.eepromRead 0 securitySize
  let cfg := s.eepromRead configArea 64
  let ok := securityOk sec
  { s with
    security :=
      { s.security with
        requireSigned := !ok || fieldLe sec 4 1 == 1
        keyCount := if ok then fieldLe sec 5 1 else 0
        signers := if ok then signerKeys sec else []
        configDigest := shake256 (Config.strapByte s.energy.cls addr :: (sec ++ cfg)) 64
        serial := if fieldLe cfg 0 4 = configMagic then BitVec.ofNat 64 (fieldLe cfg 8 8) else 0 } }

/-- SUPPLY_LIMIT_W as the configuration area gives it. -/
def State.supplyLimit (s : State) : Nat :=
  let cfg := s.eepromRead configArea 64
  if fieldLe cfg 0 4 = configMagic then fieldLe cfg 16 2 else 2400

/-- Phase 1: straps are latched at cold reset only. -/
def State.bootPhase1 (s : State) (kind : ResetKind) (b : BootIn) : State :=
  let s1 :=
    if kind = .cold then
      { s with
        energy := { s.energy with cls := b.cool, ceilingW := ceilingOf b.cool.toNat }
        power := { s.power with addr := b.addr } }
    else s
  s1.readEeprom s1.power.addr

/-! ### Identity (R470) -/

/-- Bits in which two byte strings differ, over a number of bytes. -/
def bitsApart (a b : List Byte) (n : Nat) : Nat :=
  (List.range n).foldl
    (fun m i => m + ((List.range 8).filter fun k => (a.getD i 0 ^^^ b.getD i 0).getLsbD k).length) 0

/-- Bytes of the identity SRAM. -/
def idBytes : Nat := 8192

/-- The fuzzy extractor: with up to 12 % of the bits flipped from the pattern that the helper data was written for, the seed
is the same. -/
def extractSeed (pattern helper : List Byte) : Option (List Byte) :=
  if 100 * bitsApart pattern (Config.enrolledPattern helper) idBytes ≤ 12 * (8 * idBytes) then
    some (fitBytes (Config.enrolledSeed helper) 32)
  else (Config.farSeed pattern helper).map (fitBytes · 32)

/-- Phase 2 of a cold boot. -/
def State.bootPhase2 (s : State) (kind : ResetKind) (b : BootIn) : State :=
  if kind ≠ .cold then s
  else
    let helper := s.eepromRead helperOffset 1024
    match extractSeed b.idPattern helper with
    | none => s
    | some seed =>
      if shake256 seed 32 = Config.helperCheck helper then
        { s with
          security :=
            { s.security with
              identityOk := true, idSeed := seed, idDigest := shake256 (MlDsa.publicKey seed) 32 } }
      else s

/-! ### The firmware image (R464, R465) -/

def firmwareMagic : Nat := 0x5746464E
def firmwareHead : Nat := 2048
def firmwareMaxBody : Nat := 16777216

/-- BODY_LENGTH. -/
def firmwareBody (d : List Byte) : Nat := fieldLe d 16 8

/-- Bytes of an image whose body has a given length. -/
def firmwareSize (body : Nat) : Nat := firmwareHead + body + 64 + 3309

/-- Check 1: the header. -/
def firmwareHeadOk (d : List Byte) : Bool :=
  let n := firmwareBody d
  fieldLe d 0 4 == firmwareMagic && fieldLe d 4 2 == 1 && zeroRange d 6 2 && zeroRange d 12 4 && zeroRange d 32 32
    && zeroRange d 2016 32 && n % 64 == 0 && decide (64 ≤ n) && decide (n ≤ firmwareMaxBody) && decide (fieldLe d 24 8 < n)

/-- The checks in order: the first that fails, or none. -/
def State.firmwareReason (s : State) (d : List Byte) : Option Nat :=
  let n := firmwareBody d
  if !firmwareHeadOk d || decide (d.length < firmwareSize n) then some 1
  else
    let key := (d.drop 64).take keySize
    let digest := (d.drop (firmwareHead + n)).take 64
    if shake256 key 32 ≠ s.rom.vendorDigest then some 2
    else if shake256 (d.take (firmwareHead + n)) 64 ≠ digest then some 3
    else if !MlDsa.verify key digest ((d.drop (firmwareHead + 64 + n)).take 3309) then some 4
    else none

/-- The body loaded into the hub L3, and the measurements fixed at phase 4, in which server core 0 starts at ENTRY (R463, R465,
R467). -/
def State.measure (s : State) (d : List Byte) (recovery : Bool) : State :=
  { s with
    security :=
      { s.security with
        fwVerified := true, recovery := recovery, recovWaiting := false, recovReading := false
        startAt := some (fieldLe d 24 8), body := (d.drop firmwareHead).take (firmwareBody d)
        fwDigest := (d.drop (firmwareHead + firmwareBody d)).take 64, svn := BitVec.ofNat 32 (fieldLe d 8 4) } }

/-- The checks in the table's order, a failed or poisoned read last (R465). -/
def State.imageReason (s : State) (d : List Byte) (readBad : Bool) : Option Nat :=
  match s.firmwareReason d with
  | some r => some r
  | none => if readBad then some 5 else none

/-- The image in module flash. -/
def State.flashImage (s : State) : List Byte :=
  let h := s.flashRead 0 firmwareHead
  if firmwareHeadOk h then s.flashRead 0 (firmwareSize (firmwareBody h)) else h

/-- A refusal: record 0x0308, a fatal error, recovery (R465, R466). -/
def State.refuseFirmware (s : State) (reason : Nat) : State :=
  let s1 := s.fatalError bPkg 0x0308 0 reason 0
  { s1 with
    security :=
      { s1.security with
        fwVerified := false, recovery := false, fwDigest := [], svn := 0, startAt := none, body := [], recovWaiting := true, recovReading := false
        recovReason := reason } }

/-! ### Links, dies and the feature floor (R344, R349, R354 to R356) -/

/-- Every end of the links not degraded tests its lanes (R349). -/
def State.testLanes (s : State) (b : BootIn) : State :=
  (List.range 16).foldl
    (fun acc e =>
      let x := acc.link e
      if x.degraded then acc
      else acc.setLink e { x with up := false, training := false, hold := false, groupsOk := usableGroups e (b.panelLanes.getD e []) })
    s

/-- Training of all panel links at boot (R349): the outcome is the same in each attempt, so a link that finds no width
becomes degraded. -/
def State.trainPanel (s : State) (b : BootIn) : State :=
  let s0 := s.testLanes b
  let width (e : Nat) : Option Nat := s0.advertise e (s0.link e).groupsOk
  (List.range 16).foldl
    (fun acc e =>
      let x := acc.link e
      if x.degraded then acc
      else
        match width e, width (peerEnd e) with
        | some a, some c => (acc.setLink e { x with up := true, width := max a c, peerWidth := max a c, failRun := 0 }).reportWidth e
        | _, _ => (acc.setLink e { x with failRun := 3 }).degrade e) s0

/-- Failing bonds that training finds in each direction of a port: the device's outward and inward ones. -/
def bootBonds (b : BootIn) (port : Nat) : Nat × Nat :=
  match b.bondFail.find? fun x => x.1 = port with
  | some (_, out, inw) => (out, inw)
  | none => (0, 0)

/-- A port has more failing bonds than its 128 spares in a direction (R344). -/
def bootBondFails (b : BootIn) (port : Nat) : Bool := decide (128 < (bootBonds b port).1) || decide (128 < (bootBonds b port).2)

/-- Bond ports of the powered sites train; a site with a port that fails is quarantined with cause 1 (R344). -/
def State.trainBonds (s : State) (b : BootIn) : State :=
  (List.range 52).foldl
    (fun acc i =>
      let x := acc.site i
      if x.status = .quarantined ∨ !x.railOn then acc
      else if bootBondFails b (2 * i) || bootBondFails b (2 * i + 1) then acc.quarantine i 1
      else
        (List.range 2).foldl (fun a c => a.bondTrained (bondEnd i c) (bootBonds b (2 * i + c)).1 (bootBonds b (2 * i + c)).2) acc) s

/-- A die counts for the floor: base tiles, the hub, and every compute die found whose site is not quarantined. -/
def State.floorDie (s : State) (d : Nat) : Bool :=
  decide (52 ≤ d) || (s.presentDies.contains d && (s.site d).status != .quarantined)

/-- The package feature floor. -/
def State.computeFloor (s : State) : Nat :=
  (((List.range 57).filter s.floorDie).map s.level).foldl min 3

/-- Phase 5. A tile that links degraded before a warm reset cut off is a fatal error anew (R351, R352). -/
def State.bootPhase5 (s : State) (b : BootIn) : State :=
  let s1 := ((s.cutFatal []).trainPanel b).trainBonds b
  let s2 := { s1 with presentDies := b.present }
  { s2 with floor := s2.computeFloor }

/-! ### DRAM (R323, R325) -/

/-- Storage of the memory below an address is zeros with valid check bits. -/
def State.zeroBelow (s : State) (hi : Nat) : State :=
  { s with
    mem := s.mem.filter fun c => decide (hi ≤ c.1), poison := s.poison.filter fun w => decide (hi ≤ 16 * w)
    upsets := s.upsets.filter fun e => decide (hi ≤ 16 * e.1) }

/-- Training of every controller; the ones that fail raise fatal errors. -/
def State.trainDrams (s : State) (b : BootIn) : State :=
  let failed (c : Nat) : Bool := if c < 16 then b.hbmFail.contains c else b.lpxFail.contains (c - 16)
  let s1 := (List.range 48).foldl
    (fun acc c => acc.setDram c { acc.dram c with trained := !failed c, trainFail := failed c, filling := false }) s
  (List.range 48).foldl
    (fun acc c =>
      if failed c then acc.fatalError (dramBlock c) (if c < 16 then 0x0301 else 0x0302) (if c < 16 then c else c - 16) 0 0
      else acc) s1

/-- Phase 6: HBM3E is filled at every boot, LPDDR5X at cold ones. -/
def State.bootPhase6 (s : State) (kind : ResetKind) (b : BootIn) : State :=
  (s.zeroBelow (if kind = .warm then hbmEnd else lpxEnd)).trainDrams b

/-! ### Phases 7 to 9 -/

/-- The record with which a sheet begins after a reset: after a warm one it gives the sheet's latest SEQ before that (R452). -/
def State.startRecord (s : State) (kind : ResetKind) (t : Nat) : State :=
  if kind = .cold then
    let n := match s.newestFlush with
      | some (_, c) => c
      | none => 0
    s.recordIn t (bSsh t) 0x0001 0 s.floor n
  else s.recordIn t (bSsh t) 0x0002 0 0 (s.power.seqBefore.getD t 0).toNat

/-- Phase 7: repair records reapplied, SUPPLY_LIMIT_W written, the sheets' first records. -/
def State.bootPhase7 (s : State) (kind : ResetKind) : State :=
  let s1 := (s.reapplyRepairs fun _ => true).setFld bNrg 0x108 0 16 s.supplyLimit
  (List.range 5).foldl (fun acc t => acc.startRecord kind t) s1

/-- Phase 8: every ladder port trains. -/
def State.bootPhase8 (s : State) : State :=
  (List.range 8).foldl (fun acc p => acc.setLadder p { acc.ladder p with training := true }) s

/-- The blocks that firmware enables during boot (R185). -/
def firmwareBlocks : List Nat :=
  (List.range 5).map bTrn ++ (List.range 16).map bHbm ++ [bLpx] ++ (List.range 8).map bLad ++ [bNcl] ++ (List.range 5).map bSsh
    ++ [bSec, bLayout, bCmp 8, bSite, bPkg] ++ (List.range 16).map bPlink ++ (List.range 4).map bBond

/-- Firmware enables a block and waits for state 2 (R481, R482); its "once" records start anew (R451). -/
def State.enabledByFirmware (s : State) (n : Nat) : State :=
  let s1 := s.clearOnce n
  s1.setBlk n { s1.blk n with enable := true, state := .enabled }

/-- The firmware's enables (R185): of these blocks the hub TRN block and CMP_ block 8 have enable actions (R511, R374, R381). -/
def State.firmwareEnables (s : State) : State := ((firmwareBlocks.foldl State.enabledByFirmware s).enableTrn).enableCmp 8

/-- Phases 5 to 9, once firmware runs. -/
def State.bootOn (s : State) (kind : ResetKind) (b : BootIn) : State :=
  let s1 := ((s.bootPhase5 b).bootPhase6 kind b).bootPhase7 kind
  let s2 := s1.bootPhase8.firmwareEnables
  let s3 := if kind = .scrub then s2.count bSec 0x250 1 else s2
  { s3 with power := { s3.power with phase := 9 } }

/-- Phases 1 to 9 (R463). A refused firmware image leaves the boot in phase 3, in recovery. -/
def State.boot (s : State) (kind : ResetKind) (b : BootIn) : State :=
  let s1 := { s with power := { s.power with phase := 1, bootKind := kind, boot := b } }
  let s2 := (s1.bootPhase1 kind b).bootPhase2 kind b
  let d := s2.flashImage
  match s2.imageReason d b.flashReadFails with
  | some reason =>
    let s3 := s2.refuseFirmware reason
    { s3 with power := { s3.power with phase := 3 } }
  | none => (s2.measure d false).bootOn kind b

end Sys2Proof.Machine
end

