-- ==== Sys2Proof/Machine/Resets.lean ====
section
/-! DEFINITION. Resets of the whole device, power events and the fatal errors that arrive from outside the digital core
(R12, R271, R360, R446, R451, R458, R473, R494, R498, R499). -/

namespace Sys2Proof.Machine

/-! ### Cold reset (R12, R498) -/

/-- The storage of host memory, which no reset of the device touches. -/
def hostOnly (m : List Host.Cell) : List Host.Cell := m.filter fun c => decide (hostBase ≤ c.1)

/-- Everything but module flash, EEPROM and mask ROM takes its reset value; the rails are off. -/
def State.coldState (s : State) : State :=
  { State.reset with
    pending := s.pending, rom := s.rom, flash := s.flash, eeprom := s.eeprom, out := s.out, fresh := s.fresh
    mem := hostOnly s.mem, poison := s.poison.filter fun w => decide (hostBase ≤ 16 * w) }

/-- COLD_RESET (R12, R498): during a flush it takes effect when the flush ends. -/
def execColdReset (s : State) : Host.Outcome State Fault Refusal :=
  match s.power.flushing with
  | some _ => .next { s with power := { s.power with resetPending := some (.cold, bootNone) } }
  | none => .next s.coldState

/-! ### Power-up (R498) -/

/-- The site rails come up, and quarantined sites stay off (R272, R273). -/
def State.railsUp (s : State) (siteOf : State → Nat → Site) : State :=
  (List.range 52).foldl
    (fun acc i =>
      let x := siteOf s i
      acc.setSite i { x with railOn := x.status != .quarantined, resetting := false }) s

/-- POWER_UP_SEQUENCE (R463, R498): RESET_N goes high. -/
def execPowerUpSequence (boot : BootIn) (s : State) : Host.Outcome State Fault Refusal :=
  if s.power.held then
    let s1 := { s with power := { s.power with held := false, hubRails := true, hbmRails := true, lpxRails := true } }
    .next ((s1.railsUp State.siteFromFlash).boot .cold boot)
  else .next s

/-! ### Warm reset (R12, R360) -/

/-- Every cache writes its dirty lines back (R360): transactions in progress come to their end (log entry 33), then the
agents that can still be reached write back, then the last-level caches and the hub L3. -/
def State.writeBack (s : State) : State :=
  let s0 := s.homes.foldl (fun acc e => e.2.txns.foldl (fun a t => a.settleLine e.1 t.line) acc) s
  let s1 := s0.dirs.foldl (fun acc e => acc.ownerBack (agentCode e.2.owner) e.1) s0
  s1.llc.foldl (fun acc e => acc.llcDrop e.1) s1

/-- What a block keeps: its holding registers' stamps (R483, R489). -/
def Blk.warm (b : Blk) : Blk := { Blk.reset with snapId := b.snapId, snapTurn := b.snapTurn }

/-- What an engine keeps: its accumulators, its weight banks (R94), and the fields that report on past operations. -/
def Engine.warm (x : Engine) : Engine :=
  { Engine.reset with
    bank0 := x.bank0, bank1 := x.bank1, acc := x.acc, accPoison := x.accPoison, tiles := x.tiles, opsStarted := x.opsStarted, opsDone := x.opsDone
    activeBank := x.activeBank, arrayFault := x.arrayFault }

/-- What a core keeps: CORE_STATUS, CORE_FLAGS, CORE_STOP and CORE_PC. Work that the reset cuts off never completes, so
DONE stays as it is (R155). -/
def Core.warm (c : Core) (done : Bool) : Core :=
  { Core.reset with
    dropped := c.dropped || (c.halted && !done), pc := c.pc, halted := c.halted, stopped := c.stopped, stopCode := c.stopCode, stopIndex := c.stopIndex, sticky := c.sticky }

def Sweep.warm (x : Sweep) : Sweep :=
  { Sweep.reset with
    shard := x.shard, shardFault := x.shardFault, faulted := x.faulted, faultShard := x.faultShard, faultCode := x.faultCode
    lastStep := x.lastStep, flags := x.flags, tflags := x.tflags, tflagSel := x.tflagSel }

def Save.warm (x : Save) : Save :=
  { x with
    waiting := false, withdrawing := false, granted := false, stage := .idle, plan := [], captureTurn := none, counts := []
    restoring := none, copyoutEpoch := none, appends := [] }

def Cmp.warm (x : Cmp) : Cmp :=
  { Cmp.reset with step := x.step, streamBroken := x.streamBroken, stepFault := x.stepFault, flags := x.flags, done := x.done }

def Intake.warm (x : Intake) : Intake :=
  { Intake.reset with position := x.position, batchFault := x.batchFault, faultCode := x.faultCode, flags := x.flags }

/-- A panel link end, or a bond port, keeps what its status registers report (R351, R361, R363); its lanes train anew. -/
def LinkEnd.warm (x : LinkEnd) : LinkEnd :=
  { LinkEnd.reset with
    degraded := x.degraded, ignored := x.ignored, width := x.width, peerWidth := x.peerWidth, groupsOk := x.groupsOk
    epoch := x.epoch, disagree := x.disagree, sparesOut := x.sparesOut, sparesIn := x.sparesIn }

/-- A ladder port keeps what its status registers report (R391); its lanes train anew. -/
def Ladder.warm (x : Ladder) : Ladder :=
  { Ladder.reset with
    down := x.down, half := x.half, peerHalf := x.peerHalf, mismatch := x.mismatch, epoch := x.epoch, lanesOk := x.lanesOk
    hopPs := x.hopPs, peerSerial := x.peerSerial, peerPort := x.peerPort, peerFloor := x.peerFloor, peerChain := x.peerChain
    streamMismatch := x.streamMismatch, scRx := x.scRx }

/-- IGNORED of HOME_STATUS stays (R314); the directory and its transactions go. -/
def Home.warm (x : Home) : Home := { Home.reset with ignored := x.ignored }

/-- The link is down and the epoch 0 (R397); the rings keep their fields and their commands stop, and a resume record with
its decision and the mailbox stay (R416). -/
def Ncl.warm (x : Ncl) (now : Word64) : Ncl :=
  { Ncl.reset with
    half := x.half, decide := x.decide, resumePending := x.resumePending, egressHeld := x.up || x.egressHeld
    ignored := x.ignored, lossTurn := if x.up then now else x.lossTurn, hostReset := x.hostReset, resume := x.resume
    egress := x.egress, rings := Map.mapVals x.rings (fun r => { r with cmd := none }) .reset, seq := x.seq
    seqAcked := x.seqAcked, mailbox := x.mailbox, windowEn := x.windowEn }

/-- Turns run on (R511): what the reference logic has under way starts afresh at the enable that follows. -/
def Turns.warm (x : Turns) : Turns :=
  { x with
    next := none, lastEdge := none, missedRun := 0, goodEdges := 0, ending := false, due := none, marks := [], placed := []
    refusedThisTurn := [] }

def Energy.warm (x : Energy) : Energy := { x with nextPlan := none, coolPlan := none, agents := [] }

/-- LOADED is cleared by warm reset (R197). -/
def Loader.warm (x : Loader) : Loader := { x with busy := none, loaded := 0 }

/-- HBM3E keeps nothing, and its controllers await training (R12, R323). -/
def State.warmHbm (s : State) : State :=
  (List.range 16).foldl (fun acc c => acc.setDram c { acc.dram c with trained := false, filling := false }) (s.zeroBelow hbmEnd)

/-- Cores stop (R360). -/
def State.warmCores (s : State) : State :=
  s.cores.foldl (fun acc e => acc.setCore e.1 (e.2.warm (s.coreDone e.1))) s

/-- Sites at warm reset: one whose rail was off, or that was resetting or under test, keeps nothing within it. -/
def State.warmSites (s : State) : State :=
  let lost := (List.range 52).filter fun i => !(s.site i).railOn || (s.site i).resetting || (s.site i).status == .testing
  let s1 := lost.foldl State.resetSite s
  s1.railsUp fun st i => let x := st.site i; if x.status = .testing then { x with status := .quarantined } else x

/-- The state with which the warm boot begins: what R12 lists is kept, and nothing else. -/
def State.warmState (s : State) : State :=
  let s1 := s.writeBack.warmSites.warmHbm.warmCores
  { s1 with
    blocks := Map.mapVals s1.blocks Blk.warm .reset, engines := Map.mapVals s1.engines Engine.warm .reset, tokens := [], held := [], tokMsgs := [], loader := s1.loader.warm
    turns := s1.turns.warm, energy := s1.energy.warm, sweeps := Map.mapVals s1.sweeps Sweep.warm .reset, save := s1.save.warm
    testers := [], lines := [], dirs := [], llc := [], homes := Map.mapVals s1.homes Home.warm .reset, retried := []
    upsets := s1.upsets.filter fun e => decide (e.1 < 2 ^ 61) || decide (2 ^ 62 ≤ e.1), wire := []
    links := Map.mapVals s1.links LinkEnd.warm .reset, sendq := [], ladders := Map.mapVals s1.ladders Ladder.warm .reset
    cmps := Map.mapVals s1.cmps Cmp.warm .reset
    ncl := s1.ncl.warm s1.turns.now, intakes := Map.mapVals s1.intakes Intake.warm .reset
    security :=
      { s1.security with busy := false, recovWaiting := false, recovReading := false, startAt := none, body := [], asked := [] }
    power :=
      { s1.power with
        fatal := false, issueStopped := false, hbmRails := true, resetPending := none
        seqBefore := (List.range 5).map fun t => (s1.sheet t).nextSeq - 1 }
    harts := [] }

/-! ### Scrubbing reset (R473) -/

/-- What a scrubbing reset does beside a warm one: every SRAM and accumulator is zero-filled, the egress buffer is
discarded, the host window is disabled, CLEAN is set. LPDDR5X is filled with the rest of the DRAM. -/
def State.scrubState (s : State) : State :=
  let s1 := { s with
    engines := Map.mapVals s.engines (fun (x : Engine) => { x with acc := [], accPoison := [], tiles := [] }) .reset
    mem := hostOnly s.mem, poison := s.poison.filter fun w => decide (hostBase ≤ 16 * w)
    upsets := s.upsets.filter fun e => decide (hostBase ≤ 16 * e.1) && decide (e.1 < 2 ^ 60) || decide (2 ^ 62 ≤ e.1)
    ncl := { s.ncl with egress := [], windowEn := false }
    loader := { s.loader with firstDigest := none }
    security := { s.security with clean := true, refused := false } }
  s1.setFld bNcl 0x100 0 1 0

/-- A warm or scrubbing reset now. -/
def State.resetNow (s : State) (kind : ResetKind) (b : BootIn) : State :=
  match kind with
  | .cold => s.coldState
  | .warm => s.warmState.boot .warm b
  | .scrub => s.warmState.scrubState.boot .scrub b

/-- The request that waits when a further one arrives: cold before scrubbing before warm (R360, R498). -/
def mergeReset (old : Option (ResetKind × BootIn)) (kind : ResetKind) (b : BootIn) : ResetKind × BootIn :=
  match old, kind with
  | some (.cold, x), _ => (.cold, x)
  | some (.scrub, x), .warm => (.scrub, x)
  | some (.scrub, x), .scrub => (.scrub, x)
  | some (.warm, x), .warm => (.warm, x)
  | some (.warm, x), .scrub => (.scrub, x)
  | _, .cold => (.cold, b)
  | none, k => (k, b)

/-- A request of a warm or scrubbing reset waits for a flush in progress (R360, R458); a scrubbing one is an accepted command of
the SEC block (R475). -/
def State.requestReset (s0 : State) (kind : ResetKind) (b : BootIn) : State :=
  let s := if kind = .scrub then { s0 with security := { s0.security with refused := false } } else s0
  if s0.power.held then s0
  else
    match s.power.flushing with
    | some _ => { s with power := { s.power with resetPending := some (mergeReset s.power.resetPending kind b) } }
    | none => s.resetNow kind b

/-- WARM_RESET (R12, R360). -/
def execWarmReset (boot : BootIn) (s : State) : Host.Outcome State Fault Refusal := .next (s.requestReset .warm boot)

/-- NCL_RESET (R360, R416): the driver's request must name the current epoch. -/
def State.nclReset (s : State) (epoch : BitVec 32) (b : BootIn) : State :=
  if epoch = s.ncl.epoch then
    State.requestReset { s with ncl := { s.ncl with ignored := false } } .warm b
  else { s with ncl := { s.ncl with ignored := true } }

/-- NCL_RESET (R360, R416): it comes over the link, which must be up. -/
def execNclReset (epoch : BitVec 32) (boot : BootIn) (s : State) : Host.Outcome State Fault Refusal :=
  if s.ncl.up then .next (s.nclReset epoch boot) else .next s

/-- SCRUB_RESET (R473, R475). -/
def execScrubReset (boot : BootIn) (s : State) : Host.Outcome State Fault Refusal := .next (s.requestReset .scrub boot)

/-- FLUSH_COMPLETE (R458): the reset that waits for the flush proceeds. -/
def execFlushComplete (s : State) : Host.Outcome State Fault Refusal :=
  match s.power.flushing with
  | none => .next s
  | some f =>
    let s1 := s.endFlush f
    match s.power.resetPending with
    | none => .next s1
    | some (k, b) => .next (State.resetNow { s1 with power := { s1.power with resetPending := none } } k b)

/-! ### Power-loss warning (R457, R458, R499) -/

/-- The site rails go off, and the bond ports of every site with them (R344). -/
def State.siteRailsOff (s : State) : State :=
  (List.range 52).foldl (fun acc i => (acc.bondsDown i false).setSite i { acc.site i with railOn := false }) s

/-- POWER_LOSS_WARNING (R457, R458, R499): both sources together start one flush. -/
def execPowerLossWarning (_src : WarnSource) (s : State) : Host.Outcome State Fault Refusal :=
  if s.power.held || s.power.warning then .next s
  else
    let s1 := s.siteRailsOff
    let s2 := { s1 with power := { s1.power with warning := true, hbmRails := false } }
    .next (((s2.record (bSsh 4) 0x0003 0 0 0).freezeAll .powerWarning).startFlush 1)

/-- POWER_WARNING_CLEARED (R457, R499): the sheets that the warning froze run on. -/
def execPowerWarningCleared (s : State) : Host.Outcome State Fault Refusal :=
  if s.power.warning then
    let s1 := { s with power := { s.power with warning := false } }
    .next ((List.range 5).foldl
      (fun acc t => if (acc.sheet t).frozen = .powerWarning then acc.liftFreeze t 0x0004 0 else acc) s1)
  else .next s

/-! ### Fatal errors from the rails, sensors and clocks (R446, R451) -/

/-- RAIL_FAULT (R446, R451): 0x0304. -/
def execRailFault (rail : BitVec 16) (millivolts : Word64) (s : State) : Host.Outcome State Fault Refusal :=
  if s.power.held then .next s else .next (s.fatalError bPkg 0x0304 rail.toNat 0 millivolts.toNat)

/-- JUNCTION_LIMIT (R446, R451): 0x0305, and the arithmetic clock goes to 400 MHz. -/
def execJunctionLimit (sensor : BitVec 16) (celsius : W32) (s : State) : Host.Outcome State Fault Refusal :=
  if s.power.held then .next s
  else
    let s1 := s.fatalError bPkg 0x0305 sensor.toNat celsius.toNat 0
    .next { s1 with energy := { s1.energy with clockMhz := 400 } }

/-- CLOCK_LOCK_LOSS (R446, R451): 0x0306. -/
def execClockLockLoss (domain : BitVec 16) (s : State) : Host.Outcome State Fault Refusal :=
  if s.power.held then .next s else .next (s.fatalError bPkg 0x0306 domain.toNat 0 0)

/-- SITE_RAIL_TRIP (R271): quarantine with cause 2. -/
def execSiteRailTrip (site : SiteIx) (s : State) : Host.Outcome State Fault Refusal :=
  if s.power.held then .next s else .next (s.quarantine site 2)

end Sys2Proof.Machine
end

