-- ==== Sys2Proof/Machine/Security.lean ====
section
/-! DEFINITION. Attestation, firmware recovery, and the management endpoint and flash port (R459, R466, R471, R472, R501,
R502). -/

namespace Sys2Proof.Machine

/-! ### Attestation (R471, R472) -/

def whoSecurity : Nat := 0x1132
def reportMagic : Nat := 0x5441464E

/-- FLAGS of a report. -/
def State.reportFlags (s : State) : Nat :=
  boolBit s.security.recovery + 2 * boolBit s.loader.verified
    + 4 * boolBit (s.loader.loaded == BitVec.allOnes 9 && !s.layoutMixed) + 8 * boolBit s.loader.signed
    + 16 * boolBit s.security.requireSigned + 32 * boolBit s.security.clean

/-- Stepping byte of a die: 0xFF for a site that is quarantined or whose die is absent. -/
def State.steppingByte (s : State) (d : Nat) : Nat :=
  if d < 52 ∧ ((s.site d).status = .quarantined ∨ !s.presentDies.contains d) then 0xFF else s.stepping d

/-- Signer digests of the four keys; 0 for keys not in service. -/
def State.signerDigest (s : State) (k : Nat) : List Byte :=
  if k < s.security.keyCount then shake256 (s.security.signers.getD k []) 32 else List.replicate 32 0

/-- The 512-byte body of a report for a nonce. -/
def State.reportBody (s : State) (nonce : List Byte) : List Byte :=
  leBytes 4 reportMagic ++ leBytes 2 1 ++ leBytes 1 s.floor ++ leBytes 1 s.reportFlags ++ leBytes 8 s.security.serial.toNat
    ++ leBytes 8 s.turn ++ leBytes 4 s.security.svn.toNat ++ leBytes 4 0 ++ fitBytes nonce 32
    ++ fitBytes s.security.fwDigest 64 ++ fitBytes (if s.loader.verified then s.loader.digest else []) 64
    ++ fitBytes s.security.configDigest 64 ++ fitBytes s.security.idDigest 32 ++ fitBytes s.rom.vendorDigest 32
    ++ (List.range 4).flatMap s.signerDigest ++ (List.range 57).flatMap (fun d => leBytes 1 (s.steppingByte d))
    ++ List.replicate 7 0

/-- The report: body, signature under the identity key, 19 zero bytes. The signer's 32 random bytes are free, as are the bytes
of a signature that 814 attempts have not made (FIPS 204; log entry 96). -/
def State.report (s : State) (nonce : List Byte) : List Byte :=
  let body := s.reportBody nonce
  let random := (List.range 32).map fun i => Config.freeByte (s.fresh + i)
  let unsigned := (List.range 3309).map fun i => Config.freeByte (s.fresh + 32 + i)
  body ++ fitBytes ((MlDsa.sign s.security.idSeed body random).getD unsigned) 3309 ++ List.replicate 19 0

/-- A signature has been made: the model's counter moves past the bytes it may have drawn. -/
def State.signed (s : State) : State := { s with fresh := s.fresh + 3341 }

/-- SEC_NONCE0 to SEC_NONCE3 as bytes. -/
def State.nonceBytes (s : State) : List Byte := (List.range 4).flatMap fun i => leBytes 8 (s.reg bSec (0x120 + 8 * i)).toNat

/-- SEC_REPORT_ADDR. -/
def State.reportAddr (s : State) : Nat := s.fld bSec 0x118 7 45 * 128

/-- BUSY (R471): a report is under way, or a write of one is not acknowledged. -/
def State.attestBusy (s : State) : Bool := s.security.busy || s.owed (.unit whoSecurity)

/-- An ATTEST is written: refused without an identity, or while BUSY is set. -/
def State.startAttest (s : State) : State :=
  let ok := !s.attestBusy && s.security.identityOk
  { s with security := { s.security with busy := s.security.busy || ok, refused := !ok } }

/-- The report is captured, signed and written. -/
def State.attestRun (s : State) : State :=
  let s1 := { s with security := { s.security with busy := false } }
  (s1.signed.writeRun whoSecurity s1.reportAddr (PBytes.clean (s1.report s1.nonceBytes))).count bSec 0x240 1

/-- ATTEST (R471, R472): the one that was accepted, or one written now, comes to its end; it waits while the layout loader is
BUSY, and for room in the egress buffer (log entry 7). -/
def execAttest (s : State) : Host.Outcome State Fault Refusal :=
  let s1 := if s.security.busy then s else s.startAttest
  if s1.security.busy && s1.loader.busy.isNone && !s1.hostFull s1.reportAddr 3840 then .next s1.attestRun else .next s1

/-! ### Recovery (R466) -/

/-- The image that RECOV_ADDR and RECOV_LEN name, read over NCL. -/
def State.recoveryImage (s : State) : State × PBytes :=
  s.arrive (s.readKey (hostBase + (s.reg bNcl 0x900).toNat) (s.fld bNcl 0x908 0 25))

/-- A recovered image passes: FATAL clears and the boot goes on from phase 4. -/
def State.runRecovered (s : State) (d : List Byte) : State :=
  let s1 := { s with power := { s.power with fatal := false, issueStopped := false } }
  (s1.measure d true).bootOn s.power.bootKind s.power.boot

/-- A RECOV_GO is written: a read begins, unless one is in progress. -/
def State.startRecovery (s : State) : State :=
  { s with security := { s.security with recovReading := s.security.recovReading || s.security.recovWaiting } }

/-- The image has been read over NCL and is checked. -/
def State.recoveryRun (s : State) : State :=
  let (s1, img) := s.recoveryImage
  match s1.imageReason img.data img.anyPoison with
  | some reason => { s1 with security := { s1.security with recovReading := false, recovReason := reason } }
  | none => s1.runRecovered img.data

/-- RECOV_GO (R465, R466): the read that was begun, or one begun now, comes to its end, once the link is up (log entry 7). -/
def execRecovGo (s : State) : Host.Outcome State Fault Refusal :=
  let s1 := s.startRecovery
  if s1.security.recovReading && s1.ncl.up then .next s1.recoveryRun else .next s1

/-! ### Module flash and firmware updates (R501 to R503) -/

def flashSize : Nat := 0x4000000
def imageArea : Nat := 0x2000000

/-- FLASH_READ (R459, R501): standby power is enough. -/
def execFlashRead (offset : BitVec 32) (length : BitVec 16) (s : State) : Host.Outcome State Fault Refusal :=
  let n := length.toNat
  if 1 ≤ n ∧ n ≤ 256 ∧ offset.toNat + n ≤ flashSize then .next (s.emit (.portStatus 0 (s.flashRead offset.toNat n)))
  else .next (s.emit (.portStatus 3 []))

/-- FIRMWARE_UPDATE (R502, R503): the image replaces the one in flash, or a write cut off leaves none that passes. -/
def execFirmwareUpdate (image : List Byte) (completed : Bool) (s : State) : Host.Outcome State Fault Refusal :=
  if s.power.phase < 8 ∨ imageArea < image.length then .next s
  else
    let s1 := { s with
      flash := s.flash.filter fun e => decide (imageArea ≤ e.1), power := { s.power with updateFailed := !completed } }
    .next (if completed then s1.flashWrite 0 image else s1)

/-- The endpoint returns a report in parts of 256 bytes (R502). -/
def State.sendReport (s : State) (nonce : List Byte) : State :=
  let r := s.report nonce
  (List.range 15).foldl (fun acc i => acc.emit (.pldmResponse true ((r.drop (256 * i)).take 256))) s.signed

/-- The reports asked for while the layout loader was BUSY follow once it is not (R471, R502). -/
def State.answerAsked (s : State) : State :=
  if s.loader.busy.isSome then s
  else s.security.asked.foldl State.sendReport { s with security := { s.security with asked := [] } }

/-- Sensors that report over PLDM, as the model numbers them: 52 sites, 16 of the base tiles, 4 of the hub, 16 HBM3E stacks, 8
of regulators and edges, then input voltage, current and power (R502, R507; log entry 94). -/
def pldmSensors : Nat := 99

/-- A sensor's value: an HBM3E stack's is TEMP_C; any other is the world's, which no register holds. -/
def State.sensorRead (s : State) (n : Nat) : State × Nat :=
  if 72 ≤ n ∧ n < 88 then (s, (s.dram (n - 72)).tempC.toNat) else (s.free.2, s.free.1.toNat)

/-- GET_ATTESTATION (R471, R502): ERROR_NOT_READY while SEC is busy or without an identity; the report waits while the layout
loader is BUSY. The endpoint's other PLDM requests come the same way. -/
def execGetAttestation (request : PldmRequest) (s : State) : Host.Outcome State Fault Refusal :=
  match request with
  | .attestation nonce =>
    if nonce.length ≠ 32 then .fault .illFormed
    else if s.power.phase < 8 then .next s
    else if s.attestBusy || !s.security.identityOk then .next (s.emit (.pldmResponse false []))
    else if s.loader.busy.isSome then .next { s with security := { s.security with asked := s.security.asked ++ [nonce] } }
    else .next (s.sendReport nonce)
  | .types => if s.power.phase < 8 then .next s else .next (s.emit (.pldmResponse true [0x25, 0, 0, 0, 0, 0, 0, 0x80]))
  | .sensor n =>
    if s.power.phase < 8 then .next s
    else if n.toNat < pldmSensors then
      let (s1, v) := s.sensorRead n.toNat
      .next (s1.emit (.pldmResponse true (leBytes 8 v)))
    else .next (s.emit (.pldmResponse false []))

/-! ### The layout loader's commands (R176 to R181) -/

/-- VERIFY (R176, R181). -/
def execVerify (s : State) : Host.Outcome State Fault Refusal := .next (s.runLayout .verify State.verifyRun).answerAsked

/-- LAYOUT_LOAD (R178, R179, R181, R184). -/
def execLayoutLoad (mask : BitVec 9) (s : State) : Host.Outcome State Fault Refusal :=
  .next (s.runLayout (.load mask) (State.loadRun mask)).answerAsked

/-- SITE_ONLY (R180, R181). -/
def execSiteOnly (mask : BitVec 9) (site : BitVec 6) (s : State) : Host.Outcome State Fault Refusal :=
  .next (s.runLayout (.siteOnly mask site) (State.siteOnlyRun mask site)).answerAsked

/-- Static address of a management target: the register port's, or the endpoint's (R501). -/
def State.staticAddress (s : State) (endpoint : Bool) : BitVec 7 :=
  BitVec.ofNat 7 ((if endpoint then 0x48 else 0x40) + s.power.addr.toNat)

/-- A frame's target address is the register port's: static, or dynamic once it has one (R501). -/
def State.portAnswers (s : State) (target : BitVec 7) : Bool :=
  target == s.staticAddress false || s.power.regAddress == some target

/-- DYNAMIC_ADDRESS (R501): the register port needs standby power only, the endpoint firmware in phase 8. -/
def execDynamicAddress (endpoint : Bool) (address : BitVec 7) (s : State) : Host.Outcome State Fault Refusal :=
  if endpoint then
    if s.power.phase < 8 then .next s
    else .next { s with power := { s.power with endpointAddress := some address } }
  else .next { s with power := { s.power with regAddress := some address } }

end Sys2Proof.Machine
end

