-- ==== Sys2Proof/Machine/Vector.lean ====
section
/-! DEFINITION. The vector unit (R144 to R147): lanes, masks and poison (R449), arithmetic, functions, compares,
reductions, LOAD and STORE. -/

namespace Sys2Proof.Machine

/-! ### Fields and lanes (R144) -/

def vBf16 (w : Nat) : Bool := bitOf w 16
def vTrunc (w : Nat) : Bool := bitOf w 17
def vMreg (w : Nat) : Nat := bitsOf w 20 3
def vVd (w : Nat) : Nat := bitsOf w 23 5
def vVa (w : Nat) : Nat := bitsOf w 28 5
def vVb (w : Nat) : Nat := bitsOf w 33 5
def vVc (w : Nat) : Nat := bitsOf w 38 5
def vImm (w : Nat) : Nat := bitsOf w 64 32

/-- Format and lane count of a mode. -/
def vFmt (w : Nat) : Fmt := if vBf16 w then .bf16 else .fp32
def vLanes (w : Nat) : Nat := if vBf16 w then 512 else 256

/-- A lane: its value and whether it is poison. -/
abbrev Lane := FVal × Bool

/-- The lanes of a register. -/
def Core.lanes (c : Core) (w reg : Nat) : List Lane :=
  let f := vFmt w
  let bs := memRead c.vregs (1024 * reg) 1024
  (List.range (vLanes w)).map fun i =>
    (decodeFp f (leNat ((bs.drop (i * f.size)).take f.size)), c.vpoison.contains (64 * reg + i * f.size / 16))

/-- Operand B: a register, or IMM in every lane at its exact fp32 value (R144, R145). -/
def Core.lanesB (c : Core) (w : Nat) : List Lane :=
  if bitOf w 18 then List.replicate (vLanes w) (f32 (vImm w), false) else c.lanes w (vVb w)

/-- A mask bit and whether its mask word is poison. -/
def Core.maskBit (c : Core) (m i : Nat) : Bool × Bool := ((Map.get c.masks m 0).getLsbD i, c.mpoison.contains (4 * m + i / 128))

/-- What MASKEN does to lane i: written or not, and written as poison (R144, R449). -/
def Core.laneMask (c : Core) (w i : Nat) : Bool × Bool :=
  if bitOf w 19 then
    let (b, bad) := c.maskBit (vMreg w) i
    (b || bad, bad)
  else (true, false)

/-- A result lane: none where it is not written; its encoding and flags, and whether it is poison. -/
abbrev OutLane := Option (Res × Bool)

/-- Apply MASKEN to a list of results. -/
def Core.masked (c : Core) (w : Nat) (rs : List (Res × Bool)) : List OutLane :=
  (rs.zip (List.range rs.length)).map fun x =>
    let (wr, bad) := c.laneMask w x.2
    if wr then some (x.1.1, x.1.2 || bad) else none

/-- The flags of the lanes that are written and not poison (R56, R448). -/
def laneFlags (rs : List OutLane) : Flags :=
  rs.foldl (fun f r => match r with
    | some (x, false) => Flags.or f x.2
    | _ => f) .none

/-- Write lanes into a register: unwritten lanes keep their bytes; a 16-byte piece takes poison from any lane, and
loses it only when every lane of it is written clean (R449, R450). -/
def Core.writeLanes (c : Core) (w reg : Nat) (rs : List OutLane) : Core :=
  let f := vFmt w
  let old := memRead c.vregs (1024 * reg) 1024
  let bs := (rs.zip (List.range rs.length)).flatMap fun x => match x.1 with
    | some (r, false) => elemBytes f r.1
    | _ => (old.drop (x.2 * f.size)).take f.size
  let per := 16 / f.size
  let poison := (List.range 64).foldl
    (fun acc i =>
      let part := (rs.drop (i * per)).take per
      if part.any (fun r => match r with | some (_, b) => b | none => false) then setAdd acc (64 * reg + i)
      else if part.all (·.isSome) then setDel acc (64 * reg + i)
      else acc) c.vpoison
  { c with vregs := memWrite c.vregs (1024 * reg) bs, vpoison := poison }

/-- Write compare results into a mask register (R144, R449). -/
def Core.writeMask (c : Core) (m : Nat) (rs : List (Option (Bool × Bool))) : Core :=
  let old : BitVec 512 := Map.get c.masks m 0
  let bits : Nat := (rs.zip (List.range rs.length)).foldl
    (fun (v : Nat) x => match x.1 with
      | some (b, false) => if old.getLsbD x.2 = b then v else v ^^^ 2 ^ x.2
      | _ => v) old.toNat
  let poison := (List.range 4).foldl
    (fun acc i =>
      let part := (rs.drop (128 * i)).take 128
      if part.any (fun r => match r with | some (_, b) => b | none => false) then setAdd acc (4 * m + i)
      else if part.length = 128 ∧ part.all (·.isSome) then setDel acc (4 * m + i)
      else acc) c.mpoison
  { c with masks := Map.put c.masks m (BitVec.ofNat 512 bits) 0, mpoison := poison }

/-! ### Issue -/

/-- Stalls, price and counters of a vector instruction that is not refused; it completes as it issues (log entry 12). -/
def State.vectorIssue (s : State) (core kind : Nat) (r w : Option Span) (run : State → State × Flags) : Issue :=
  let work : Work := [(kind, core / 8, 1)]
  let why := s.stallsFor core r w true work
  if why ≠ 0 then .stall why (s.priceHeld core work why)
  else
    let next := s.nextPc core
    let (s1, f) := run (s.pay core work)
    .go ((s1.coreFlags core 5 0 f).count (bCore core) 0x180 1) next

/-- An operation of one operand, lane by lane into VD; poison of the operand enters the lane. -/
def lanes1 (op : Fmt → FVal → Res) (kind core : Nat) (s : State) (w : Nat) : Issue :=
  s.vectorIssue core kind none none fun s1 =>
    let c := s1.core core
    let rs := (c.lanes w (vVa w)).map fun x => (op (vFmt w) x.1, x.2)
    let out := c.masked w rs
    (s1.setCore core (c.writeLanes w (vVd w) out), laneFlags out)

/-- Two operands. -/
def lanes2 (op : Fmt → FVal → FVal → Res) (core : Nat) (s : State) (w : Nat) : Issue :=
  s.vectorIssue core 4 none none fun s1 =>
    let c := s1.core core
    let rs := ((c.lanes w (vVa w)).zip (c.lanesB w)).map fun x => (op (vFmt w) x.1.1 x.2.1, x.1.2 || x.2.2)
    let out := c.masked w rs
    (s1.setCore core (c.writeLanes w (vVd w) out), laneFlags out)

/-- Three operands. -/
def lanes3 (op : Fmt → FVal → FVal → FVal → Res) (core : Nat) (s : State) (w : Nat) : Issue :=
  s.vectorIssue core 4 none none fun s1 =>
    let c := s1.core core
    let rs := ((c.lanes w (vVa w)).zip ((c.lanesB w).zip (c.lanes w (vVc w)))).map fun x =>
      (op (vFmt w) x.1.1 x.2.1.1 x.2.2.1, x.1.2 || x.2.1.2 || x.2.2.2)
    let out := c.masked w rs
    (s1.setCore core (c.writeLanes w (vVd w) out), laneFlags out)

/-- SEL: a where K[MREG] is 1, else b; a poisoned mask word makes the lane poison. -/
def doSel (core : Nat) (s : State) (w : Nat) : Issue :=
  s.vectorIssue core 4 none none fun s1 =>
    let c := s1.core core
    let ab := (c.lanes w (vVa w)).zip (c.lanesB w)
    let rs := (ab.zip (List.range ab.length)).map fun x =>
      let (bit, bad) := c.maskBit (vMreg w) x.2
      let pick := if bit then x.1.1 else x.1.2
      (arith (vFmt w) pick.1, pick.2 || bad)
    let out := c.masked w rs
    (s1.setCore core (c.writeLanes w (vVd w) out), laneFlags out)

/-- A transcendental on fp32 lanes; refused in bf16 mode (R145), as an encoding that the operation does not have (stop code
0x02 of R137's 0x02 and 0x04; log entry 92). -/
def lanesFn (fn : Nat → Res) (kind core : Nat) (s : State) (w : Nat) : Issue :=
  if vBf16 w then .refuse 2
  else lanes1 (fun _ x => fn (arith32 x).1) kind core s w

/-- Compares write mask bits (R42, R144, R145). -/
def lanesCmp (rel : FVal → FVal → Bool) (core : Nat) (s : State) (w : Nat) : Issue :=
  s.vectorIssue core 4 none none fun s1 =>
    let c := s1.core core
    let ab := (c.lanes w (vVa w)).zip (c.lanesB w)
    let rs := (ab.zip (List.range ab.length)).map fun x =>
      let (wr, bad) := c.laneMask w x.2
      if wr then some (rel x.1.1.1 x.1.2.1, x.1.1.2 || x.1.2.2 || bad) else none
    (s1.setCore core (c.writeMask (vVd w % 8) rs), .none)

/-! ### Reductions (R114, R121, R145) -/

/-- Give every written lane one result. -/
def Core.spread (c : Core) (w : Nat) (r : Res) (bad : Bool) : Core × Flags :=
  let out := c.masked w (List.replicate (vLanes w) (r, bad))
  (c.writeLanes w (vVd w) out, laneFlags out)

def reduceWith (fold : List (Option FVal) → Res) (core : Nat) (s : State) (w : Nat) : Issue :=
  s.vectorIssue core 6 none none fun s1 =>
    let c := s1.core core
    let a := c.lanes w (vVa w)
    let present := (a.zip (List.range a.length)).map fun x => let (wr, bad) := c.laneMask w x.2; (x.1, wr, bad)
    let bad := present.any fun x => (x.2.1 && x.1.2) || x.2.2
    let r := fold (present.map fun x => if x.2.1 then some x.1.1 else none)
    let (c1, f) := c.spread w r bad
    (s1.setCore core c1, f)

/-- The tree of fp32 additions over lane positions, rounded once to the mode's format (R114, R145). -/
def redSum (w : Nat) (xs : List (Option FVal)) : Res :=
  let t := (treeSum add32 (if vBf16 w then 9 else 8) (xs.map fun o => o.map arith32)).getD (0, .none)
  let r := arith (vFmt w) (f32 t.1)
  (r.1, Flags.or t.2 r.2)

def redMax (w : Nat) (xs : List (Option FVal)) : Res :=
  match xs.filterMap id with
  | [] => (0, .none)
  | v :: vs => arith (vFmt w) (vs.foldl FVal.max v)

/-! ### LOAD and STORE (R145) -/

/-- Row of a LOAD or STORE. -/
def vRow (c : Core) (w : Nat) : Nat := c.plusReg (vImm w) (bitsOf w 56 4)

/-- The tensor of a LOAD or STORE; none when its checks fail (R134). -/
def vTensor (c : Core) (w : Nat) : Option Tensor :=
  match c.slot (bitsOf w 48 8) with
  | none => none
  | some d =>
    let t := c.tensor d
    let reach := t.reach (0, vLanes w) (vRow c w, vRow c w + 1) (0, 1) (0, 1)
    if vectorFmt t.fmt && decide (t.rank ≤ 2) && !t.physical && inScratch reach then some t else none

def vReach (c : Core) (w : Nat) (t : Tensor) : Option Span := t.reach (0, vLanes w) (vRow c w, vRow c w + 1) (0, 1) (0, 1)

def doVload (core : Nat) (s : State) (w : Nat) : Issue :=
  let c0 := s.core core
  match vTensor c0 w with
  | none => .refuse 3
  | some t =>
    s.vectorIssue core 4 (vReach c0 w t) none fun s1 =>
      let (s2, es) := s1.rowAt (8 * core + 3) core t 0 (vLanes w) (vRow c0 w)
      let m := if vRow c0 w < t.extent 1 then t.extent 0 else 0
      let rs := (es.zip (List.range es.length)).map fun x =>
        if x.2 < m then
          (convertElem (t.format.getD .fp32) x.1.1 t.scale (vFmt w) 127 (vTrunc w) c0.satMode, x.1.2)
        else ((0, .none), false)
      let c := s2.core core
      let out := c.masked w rs
      (s2.setCore core (c.writeLanes w (vVd w) out), laneFlags out)

/-- Maximal runs of lanes that are written: first lane and bytes. -/
def storeRuns (lane : Nat) : List (Option PBytes) → List (Nat × PBytes)
  | [] => []
  | none :: rest => storeRuns (lane + 1) rest
  | some bs :: rest =>
    match storeRuns (lane + 1) rest with
    | (k, more) :: tail => if k = lane + 1 then (lane, bs ++ more) :: tail else (lane, bs) :: (k, more) :: tail
    | [] => [(lane, bs)]

def doVstore (core : Nat) (s : State) (w : Nat) : Issue :=
  let c0 := s.core core
  match vTensor c0 w with
  | none => .refuse 3
  | some t =>
    s.vectorIssue core 4 none (vReach c0 w t) fun s1 =>
      let c := s1.core core
      let m := if vRow c0 w < t.extent 1 then t.extent 0 else 0
      let dst := t.format.getD .fp32
      let rs := c.masked w ((c.lanes w (vVa w)).map fun l => (convertScaled l.1 dst t.scale (vTrunc w) c.satMode, l.2))
      let out := (rs.zip (List.range rs.length)).map fun x => if x.2 < m then x.1 else none
      let runs := storeRuns 0 (out.map fun o => o.map fun r => (elemBytes dst r.1.1).map fun b => (b, r.2))
      (runs.foldl (fun acc r => acc.ownWrite (8 * core + 3) core (t.addr r.1 (vRow c0 w) 0 0).toNat r.2) s1, laneFlags out)

/-! ### The commands -/

/-- ADD (R145). -/
def execAdd (core : CoreIx) (s : State) : Host.Outcome State Fault Refusal :=
  .next (s.issue core .add (lanes2 (fun f a b => arith f (FVal.add a b)) core))
/-- SUB (R145). -/
def execSub (core : CoreIx) (s : State) : Host.Outcome State Fault Refusal :=
  .next (s.issue core .sub (lanes2 (fun f a b => arith f (FVal.sub a b)) core))
/-- MUL (R145). -/
def execMul (core : CoreIx) (s : State) : Host.Outcome State Fault Refusal :=
  .next (s.issue core .mul (lanes2 (fun f a b => arith f (FVal.mul a b)) core))
/-- FMA (R145). -/
def execFma (core : CoreIx) (s : State) : Host.Outcome State Fault Refusal :=
  .next (s.issue core .fma (lanes3 (fun f a b d => arith f (FVal.add (FVal.mul a b) d)) core))
/-- MIN (R42, R145). -/
def execMin (core : CoreIx) (s : State) : Host.Outcome State Fault Refusal :=
  .next (s.issue core .min (lanes2 (fun f a b => arith f (FVal.min a b)) core))
/-- MAX (R42, R145). -/
def execMax (core : CoreIx) (s : State) : Host.Outcome State Fault Refusal :=
  .next (s.issue core .max (lanes2 (fun f a b => arith f (FVal.max a b)) core))
/-- ABS (R145). -/
def execAbs (core : CoreIx) (s : State) : Host.Outcome State Fault Refusal :=
  .next (s.issue core .abs (lanes1 (fun f a => arith f a.abs) 4 core))
/-- NEG (R145). -/
def execNeg (core : CoreIx) (s : State) : Host.Outcome State Fault Refusal :=
  .next (s.issue core .neg (lanes1 (fun f a => arith f a.neg) 4 core))
/-- SEL (R145). -/
def execSel (core : CoreIx) (s : State) : Host.Outcome State Fault Refusal := .next (s.issue core .sel (doSel core))
/-- EXP (R147). -/
def execExp (core : CoreIx) (s : State) : Host.Outcome State Fault Refusal := .next (s.issue core .exp (lanesFn exp32 5 core))
/-- LOG (R147). -/
def execLog (core : CoreIx) (s : State) : Host.Outcome State Fault Refusal := .next (s.issue core .log (lanesFn log32 5 core))
/-- RCP (R147). -/
def execRcp (core : CoreIx) (s : State) : Host.Outcome State Fault Refusal := .next (s.issue core .rcp (lanesFn rcp32 5 core))
/-- RSQRT (R147). -/
def execRsqrt (core : CoreIx) (s : State) : Host.Outcome State Fault Refusal :=
  .next (s.issue core .rsqrt (lanesFn rsqrt32 5 core))
/-- TANH (R147). -/
def execTanh (core : CoreIx) (s : State) : Host.Outcome State Fault Refusal := .next (s.issue core .tanh (lanesFn tanh32 5 core))
/-- CMPLT (R42, R145). -/
def execCmplt (core : CoreIx) (s : State) : Host.Outcome State Fault Refusal := .next (s.issue core .cmplt (lanesCmp FVal.lt core))
/-- CMPLE (R42, R145). -/
def execCmple (core : CoreIx) (s : State) : Host.Outcome State Fault Refusal :=
  .next (s.issue core .cmple (lanesCmp (fun a b => FVal.lt a b || FVal.eq a b) core))
/-- CMPEQ (R42, R145). -/
def execCmpeq (core : CoreIx) (s : State) : Host.Outcome State Fault Refusal := .next (s.issue core .cmpeq (lanesCmp FVal.eq core))
/-- CMPNE (R42, R145). -/
def execCmpne (core : CoreIx) (s : State) : Host.Outcome State Fault Refusal :=
  .next (s.issue core .cmpne (lanesCmp (fun a b => !FVal.eq a b) core))
/-- REDSUM (R114, R145). -/
def execRedsum (core : CoreIx) (s : State) : Host.Outcome State Fault Refusal :=
  .next (s.issue core .redsum fun s1 w => reduceWith (redSum w) core s1 w)
/-- REDMAX (R121, R145). -/
def execRedmax (core : CoreIx) (s : State) : Host.Outcome State Fault Refusal :=
  .next (s.issue core .redmax fun s1 w => reduceWith (redMax w) core s1 w)
/-- VECTOR_LOAD (R145). -/
def execVectorLoad (core : CoreIx) (s : State) : Host.Outcome State Fault Refusal := .next (s.issue core .vload (doVload core))
/-- VECTOR_STORE (R145). -/
def execVectorStore (core : CoreIx) (s : State) : Host.Outcome State Fault Refusal := .next (s.issue core .vstore (doVstore core))

end Sys2Proof.Machine
end

