-- ==== Sys2Proof/Machine/Stalls.lean ====
section
/-! DEFINITION. What a core's sequencer waits for at the moment (R159). -/

namespace Sys2Proof.Machine

/-- Presenting an operation to its unit. -/
def CoreOp.run (op : CoreOp) (core : Nat) : State → Nat → Issue :=
  match op with
  | .nop => doNop core
  | .halt => doHalt core
  | .sets => doSets core
  | .adds => doAdds core
  | .loop => doLoop core
  | .jump => doJump core
  | .barrier => doBarrier core
  | .pass => doPass false core
  | .compoundPass => doPass true core
  | .drain => doDrain core
  | .weightLoad => doWeightLoad core
  | .matrixVector => doMatrixVector core
  | .add => lanes2 (fun f a b => arith f (FVal.add a b)) core
  | .sub => lanes2 (fun f a b => arith f (FVal.sub a b)) core
  | .mul => lanes2 (fun f a b => arith f (FVal.mul a b)) core
  | .fma => lanes3 (fun f a b d => arith f (FVal.add (FVal.mul a b) d)) core
  | .min => lanes2 (fun f a b => arith f (FVal.min a b)) core
  | .max => lanes2 (fun f a b => arith f (FVal.max a b)) core
  | .abs => lanes1 (fun f a => arith f a.abs) 4 core
  | .neg => lanes1 (fun f a => arith f a.neg) 4 core
  | .sel => doSel core
  | .exp => lanesFn exp32 5 core
  | .log => lanesFn log32 5 core
  | .rcp => lanesFn rcp32 5 core
  | .rsqrt => lanesFn rsqrt32 5 core
  | .tanh => lanesFn tanh32 5 core
  | .cmplt => lanesCmp FVal.lt core
  | .cmple => lanesCmp (fun a b => FVal.lt a b || FVal.eq a b) core
  | .cmpeq => lanesCmp FVal.eq core
  | .cmpne => lanesCmp (fun a b => !FVal.eq a b) core
  | .redsum => fun s w => reduceWith (redSum w) core s w
  | .redmax => fun s w => reduceWith (redMax w) core s w
  | .vload => doVload core
  | .vstore => doVstore core
  | .copy => doCopy core
  | .combine => doCombine core
  | .startPrefetch => doStartPrefetch core
  | .stopPrefetch => doStopPrefetch core
  | .wait => doWait core
  | .signal => doSignal core

/-- Every condition that holds the instruction at CORE_PC back, and an outstanding token wait (R159). -/
def State.stallNow (s : State) (core : Nat) : BitVec 7 :=
  (if (s.core core).waiting.isSome then stToken else 0) |||
    match s.fetched core with
    | .absent => stFetch
    | .word w =>
      match opOf w with
      | none => 0
      | some op =>
        match op.run core s w with
        | .stall why _ => why
        | _ => 0
    | _ => 0

end Sys2Proof.Machine
end

