-- ==== Sys2Proof/Machine/Sweep.lean ====
section
/-! DEFINITION. The sweep engines: shard descriptors, sweep programs, commits, the three stages of a run, shard faults
and status records (R224 to R252). -/

namespace Sys2Proof.Machine

/-! ### Shard descriptors (R227, R228) -/

structure Shard where
  program : Nat
  grad : Nat
  moment : Nat
  master : Nat
  work : Nat
  elements : Nat
  fmt : Nat
  slot : Nat
  tensor : Nat
  commit : Bool
  scale : Nat
  status : Nat
  reserved : Nat
  deriving DecidableEq, Repr

def shardOf (d : List Byte) : Shard :=
  let t := fieldLe d 46 2
  { program := fieldLe d 0 8, grad := fieldLe d 8 8, moment := fieldLe d 16 8, master := fieldLe d 24 8
    work := fieldLe d 32 8, elements := fieldLe d 40 4, fmt := fieldLe d 44 1, slot := fieldLe d 45 1, tensor := bitsOf t 0 12
    commit := bitOf t 15, scale := fieldLe d 48 8, status := fieldLe d 56 8, reserved := bitsOf t 12 3 }

/-- Bytes of a working-copy element; none for no working copy or a reserved format. -/
def Shard.workSize (x : Shard) : Option Nat := if x.fmt = 0 then some 1 else if x.fmt = 3 then some 2 else none

def Shard.workFmt (x : Shard) : Fmt := if x.fmt = 0 then .e4m3 else .bf16

def Shard.momentLines (x : Shard) : Nat := ceilDiv x.elements 30
def Shard.masterLines (x : Shard) : Nat := ceilDiv x.elements 40

/-- A range lies in one region other than the register region (R228). -/
def sweepRange (a n : Nat) : Bool :=
  n == 0 || (match regionOf a with
    | some .regs => false
    | some r => inRegion r a n
    | none => false)

/-- The descriptor is valid (R228). -/
def Shard.valid (x : Shard) : Bool :=
  let e := x.elements
  x.program % 64 == 0 && x.grad % 2 == 0 && x.moment % 128 == 0 && x.master % 128 == 0 && x.scale % 128 == 0
    && x.status % 32 == 0 && x.reserved == 0 && (x.fmt == 0 || x.fmt == 3 || x.fmt == 15)
    && (decide (x.slot < 64) || x.slot == 255) && (e != 0 || x.commit) && (x.scale != 0 || (!x.commit && x.slot == 255))
    && (x.fmt != 0 || x.scale != 0) && sweepRange x.program 64
    && inRegion .hbm x.grad (2 * e) && sweepRange x.moment (128 * x.momentLines)
    && sweepRange x.master (128 * x.masterLines) && sweepRange x.work ((x.workSize.getD 0) * e)
    && sweepRange x.scale (if x.scale = 0 then 0 else 128) && sweepRange x.status 32

/-! ### Sweep programs (R229 to R232) -/

structure SweepOp where
  opc : Nat
  d : Nat
  a : Nat
  b : Nat
  c : Nat
  deriving DecidableEq, Repr

structure SweepProg where
  header : List Byte
  mops : List SweepOp
  wops : List SweepOp
  deriving DecidableEq, Repr

def sweepOpOf (w : Nat) : SweepOp :=
  { opc := bitsOf w 0 8, d := bitsOf w 8 6, a := bitsOf w 14 6, b := bitsOf w 20 6, c := bitsOf w 26 6 }

/-- Operands an operation reads; none for an unlisted OPC (R231). -/
def opArity : Nat → Option Nat
  | 0x01 => some 2
  | 0x02 => some 2
  | 0x03 => some 2
  | 0x04 => some 3
  | 0x05 => some 2
  | 0x06 => some 2
  | 0x07 => some 1
  | 0x08 => some 1
  | 0x09 => some 1
  | 0x0A => some 1
  | 0x0B => some 3
  | 0x10 => some 1
  | 0x11 => some 1
  | 0x12 => some 1
  | _ => none

def SweepProg.satMode (p : SweepProg) : Bool := bitOf (fieldLe p.header 6 1) 0
def SweepProg.moments (p : SweepProg) : Nat := fieldLe p.header 7 1
def SweepProg.schedLen (p : SweepProg) : Nat := fieldLe p.header 12 4
def SweepProg.schedOffset (p : SweepProg) : Nat := fieldLe p.header 48 8

/-- Registers that a phase may read besides its written temporaries (R230). -/
def readable (weight : Bool) (r : Nat) : Bool :=
  r == 3 || (decide (8 ≤ r) && decide (r ≤ 24)) || (if weight then r == 4 || r == 5 else decide (r ≤ 2))

/-- Registers that a phase may write besides temporaries (R232). -/
def writable (weight : Bool) (r : Nat) : Bool := if weight then r == 6 else r == 4 || r == 5

/-- One operation is allowed after the writes `done` of its phase (R231, R232). -/
def opOk (weight : Bool) (done : List Nat) (o : SweepOp) : Bool :=
  match opArity o.opc with
  | none => false
  | some n =>
    let rd (r : Nat) : Bool := readable weight r || (decide (32 ≤ r) && done.contains r)
    rd o.a && (if n ≥ 2 then rd o.b else o.b == 0) && (if n = 3 then rd o.c else o.c == 0)
      && (writable weight o.d || decide (32 ≤ o.d))

def phaseOk (weight : Bool) : List Nat → List SweepOp → Bool
  | _, [] => true
  | done, o :: os => opOk weight done o && phaseOk weight (o.d :: done) os

/-- Operations of a header: of the moment phase, and of both. -/
def progOps (h : List Byte) : Nat × Nat := (fieldLe h 8 1, fieldLe h 8 1 + fieldLe h 9 1)

/-- A program's header is accepted (R229, R232). -/
def progHeaderOk (h : List Byte) : Bool :=
  let m := fieldLe h 8 1
  let w := fieldLe h 9 1
  let mom := fieldLe h 7 1
  fieldLe h 0 4 == 0x5057464E && fieldLe h 4 2 == 1 && decide (fieldLe h 6 1 < 2) && (mom == 1 || mom == 2)
    && decide (1 ≤ m) && decide (m ≤ 32) && decide (1 ≤ w) && decide (w ≤ 32) && zeroRange h 10 2 && zeroRange h 56 8
    && decide (1 ≤ fieldLe h 12 4) && decide (fieldLe h 12 4 ≤ 65536) && fieldLe h 48 8 % 64 == 0
    && decide (64 + 4 * (m + w) ≤ fieldLe h 48 8)

/-- A program's operations are accepted (R231, R232). -/
def SweepProg.opsOk (p : SweepProg) : Bool :=
  let wrote (os : List SweepOp) (r : Nat) : Bool := os.any fun o => o.d == r
  phaseOk false [] p.mops && phaseOk true [] p.wops && wrote p.mops 4 && (p.moments == 1 || wrote p.mops 5) && wrote p.wops 6

/-- The program is accepted (R229, R232). -/
def SweepProg.ok (p : SweepProg) : Bool := progHeaderOk p.header && p.opsOk

/-- The whole program, schedule included, lies in one region (R228). -/
def progRange (a : Nat) (h : List Byte) : Bool := sweepRange a (fieldLe h 48 8 + 32 * fieldLe h 12 4)

/-- A program from the bytes of its header and operations. -/
def progOf (h os : List Byte) : SweepProg :=
  let (m, n) := progOps h
  let ops := (List.range n).map fun i => sweepOpOf (fieldLe os (4 * i) 4)
  { header := h, mops := ops.take m, wops := ops.drop m }

/-- The program that the engine has read in the check of its shard. -/
def Sweep.program (y : Sweep) : SweepProg := progOf (y.prog.take 64) (y.prog.drop 64)

/-- The shard in progress, as the engine has read it. -/
def Sweep.shardNow (y : Sweep) : Shard := shardOf y.desc

/-- Address of the schedule entry min(s, SCHED_LEN) − 1 of a run of stamp s > 0 (R230). -/
def SweepProg.schedEntry (p : SweepProg) (a step : Nat) : Nat := a + p.schedOffset + 32 * (min step p.schedLen - 1)

/-! ### Phases (R230, R231, R233) -/

/-- Registers of an element as fp32 encodings. -/
abbrev SweepRegs := Map Nat

/-- SIGN (R231). -/
def sign32 (a : FVal) : Res :=
  match a with
  | .nan => arith .fp32 .nan
  | a => if a.isZero then arith .fp32 a else (if a.sign then 0xBF800000 else 0x3F800000, .none)

/-- SQRT (R231). -/
def sqrt32 (u : Nat) : Res :=
  match f32 u with
  | .nan => (Fmt.fp32.nanCode, .inv)
  | .inf true => (Fmt.fp32.nanCode, .inv)
  | .inf false => (0x7F800000, .none)
  | .fin s m e =>
    if m = 0 then arith .fp32 (.fin s m e)
    else if s then (Fmt.fp32.nanCode, .inv)
    else mul32 (k32 u) (rsqrt32 u)

/-- The result of one operation, rounded once (R46, R231). -/
def opResult (o : SweepOp) (rs : SweepRegs) : Res :=
  let ua := Map.get rs o.a 0
  let a := f32 ua
  let b := f32 (Map.get rs o.b 0)
  let c := f32 (Map.get rs o.c 0)
  match o.opc with
  | 0x01 => arith .fp32 (FVal.add a b)
  | 0x02 => arith .fp32 (FVal.sub a b)
  | 0x03 => arith .fp32 (FVal.mul a b)
  | 0x04 => arith .fp32 (FVal.add (FVal.mul a b) c)
  | 0x05 => arith .fp32 (FVal.min a b)
  | 0x06 => arith .fp32 (FVal.max a b)
  | 0x07 => arith .fp32 a.abs
  | 0x08 => arith .fp32 a.neg
  | 0x09 => arith .fp32 a
  | 0x0A => sign32 a
  | 0x0B => arith .fp32 (if FVal.lt (.zero false) a then b else c)
  | 0x10 => rcp32 ua
  | 0x11 => rsqrt32 ua
  | _ => sqrt32 ua

/-- Run a phase on one element; its flag events. -/
def runPhase : List SweepOp → SweepRegs → SweepRegs × Flags
  | [], rs => (rs, .none)
  | o :: os, rs =>
    let (v, f) := opResult o rs
    let (rs1, g) := runPhase os (Map.insert rs o.d v)
    (rs1, Flags.or f g)

/-- Registers 8 to 24 of a run: constants, the schedule entry read in the shard's check, and T. A run of stamp 0 has no
schedule entry in the manual: its scalars are free values. -/
def Sweep.consts (y : Sweep) (step : Nat) : SweepRegs :=
  let cs := (List.range 8).map fun i => (8 + i, fieldLe y.program.header (16 + 4 * i) 4)
  let ss := (List.range 8).map fun i =>
    (16 + i, if step = 0 then (Config.stampZero y.program.header i).toNat else fieldLe y.row (4 * i) 4)
  cs ++ ss ++ [(24, (arith32 (.ofInt step)).1)]

/-! ### Shard faults, flags and prices -/

def sweepWho (i : Nat) : Nat := 0x1110 + i

def State.sweepStepNo (s : State) (i : Nat) : Nat := s.fld (bSwp i) 0x118 0 32

/-- A shard fault (R237): one record for each faulted shard; the first one stands in SWP_FAULT. -/
def State.shardFault (s : State) (i shard code : Nat) : State :=
  let x := s.sweep i
  if x.faulted.contains shard then s
  else
    ((s.setSweep i
      { x with
        shardFault := true, faulted := setAdd x.faulted shard
        faultShard := if x.shardFault then x.faultShard else shard
        faultCode := if x.shardFault then x.faultCode else BitVec.ofNat 4 code }).count (bSwp i) 0x180 1).record (bSwp i)
      0x0211 i code shard

/-- Numeric events of the engine (R246): the first of each flag since enable writes a record. -/
def State.sweepEvents (s : State) (i shard : Nat) (f : Flags) : State :=
  let x := s.sweep i
  let s1 := s.setSweep i { x with flags := Flags.or x.flags f }
  let one (st : State) (bit : Nat) (set : Bool) : State := if set then st.recordOnce (bSwp i) 0x0010 bit i bit shard else st
  one (one (one s1 0 f.invalid) 1 f.overflow) 2 f.saturated

/-- Pay for n elements (R214, R216, R234); otherwise they are held. -/
def State.sweepPay (s : State) (i n : Nat) : Option State := s.tryCharge (pSweep i) [(11, aTile (i / 4), n)]

def State.sweepHold (s : State) (i n : Nat) : State := s.holdPrice (pSweep i) [(11, aTile (i / 4), n)]

def State.setStage (s : State) (i : Nat) (st : SweepStage) : State := s.setSweep i { s.sweep i with stage := st }

/-- Read a line of state; bytes from LPDDR5X are counted (R252). -/
def State.sweepRead (s : State) (i a n : Nat) : State × PBytes :=
  let (s1, bs) := s.readRun (sweepWho i) a n
  (if regionOf a = some .lpx then s1.count (bSwp i) 0x168 n else s1, bs)

def State.sweepWrite (s : State) (i a : Nat) (bs : List Byte) : State :=
  let s1 := s.writeRun (sweepWho i) a (.clean bs)
  if regionOf a = some .lpx then s1.count (bSwp i) 0x170 bs.length else s1

def flagsOfByte (n : Nat) : Flags := { invalid := bitOf n 0, overflow := bitOf n 1, saturated := bitOf n 2 }

/-! ### Scale records and commits (R240 to R242) -/

/-- The record holds a reserved value (R241). -/
def scaleRecordOk (r : List Byte) : Bool :=
  let b (o : Nat) := fieldLe r o 1
  b 4 != 0 && b 4 != 255 && decide (b 5 < 16) && decide (b 6 ≤ 16) && decide (b 8 ≤ 8) && decide (1 ≤ b 9) && decide (b 9 ≤ 64)
    && fieldLe r 80 8 % 128 == 0

/-- Least j with h ≤ 448 · 2^j, for h > 0 finite: 448 is 1.75 · 2⁸ (R241). -/
def scaleExp (m : Nat) (e : Int) : Int := leadExp m e - (if 4 * m ≤ 7 * 2 ^ (bitLen m - 1) then 8 else 7)

/-- The record after a commit, from the pending values (R241). A history that holds a NaN has a NaN for its maximum (R42),
which is not above 0: SCALE is kept. -/
def committed (r : List Byte) (pending : List Nat) (step : Nat) : List Byte :=
  let b (o : Nat) := fieldLe r o 1
  let vs := pending.map f32
  let nan := vs.any (·.isNan)
  let a := (arith32 (((vs.filter fun v => !v.isNan).map (·.abs)).foldl FVal.max (.zero false))).1
  let cold0 := b 6 = 0
  let head := if cold0 then 0 else (b 5 + 1) % 16
  let valid := if cold0 then 1 else min (b 6 + 1) 16
  let cold := if cold0 then true else if valid = 16 then false else bitOf (b 7) 0
  let hist := (List.range 16).map fun k => if cold0 || k == head then a else fieldLe r (16 + 4 * k) 4
  let h := (hist.map f32).foldl FVal.max (.inf true)
  let scale : Nat :=
    match h with
    | .nan => b 4
    | .inf false => 254
    | .inf true => b 4
    | .fin sg m e =>
      if sg || m == 0 then b 4
      else (max 1 (min 254 (127 + scaleExp m e + (b 8 : Int) + (if cold then 2 else 0)))).toNat
  leBytes 4 step ++ leBytes 1 scale ++ leBytes 1 head ++ leBytes 1 valid
    ++ leBytes 1 ((if cold then 1 else 0) + (if nan then 2 else 0)) ++ (r.drop 8).take 8
    ++ hist.flatMap (leBytes 4) ++ (r.drop 80).take 48

/-- A commit (R241): the state after it, and the code of the fault that ended it. -/
def State.commitScale (s : State) (i a step : Nat) : State × Option Nat :=
  let (s1, r) := s.sweepRead i a 128
  let d := r.data
  if r.anyPoison then (s1, some 2)
  else if !scaleRecordOk d then (s1, some 4)
  else if fieldLe d 0 4 = step then (s1, none)
  else
    let (s2, p) := s1.sweepRead i (fieldLe d 80 8) (4 * fieldLe d 9 1)
    if p.anyPoison then (s2, some 2)
    else
      let pend := (List.range (fieldLe d 9 1)).map fun k => fieldLe p.data (4 * k) 4
      let d1 := committed d pend step
      let s4 := (s2.sweepWrite i a d1).count (bSwp i) 0x158 1
      (if bitOf (fieldLe d1 7 1) 0 then s4.count (bSwp i) 0x160 1 else s4, none)

/-! ### The stages (R233, R234) -/

/-- What a step of a run does: nothing more now, a fault of the shard, or progress. -/
inductive SweepMove where
  | stay (s : State)
  | fault (code : Nat) (s : State)
  | go (s : State)

/-- Address of entry k of the list in force. -/
def State.shardAddr (s : State) (i k : Nat) : Nat := s.fld (bSwp i) 0x100 6 46 * 64 + 64 * k

def State.listLen (s : State) (i : Nat) : Nat := s.fld (bSwp i) 0x108 0 24

/-- Numbers of the lines, of `per` elements each, that hold elements lo to hi − 1. -/
def linesOver (per lo hi : Nat) : List Nat := (List.range (ceilDiv hi per - lo / per)).map (lo / per + ·)

/-- The lines that hold elements lo to hi − 1, as the engine has them. It reads those that begin here: one that begins before
has come with the elements before, and a line in LPDDR5X comes in once in a run, for the stage that rewrites it (R249; log
entry 44). -/
def State.sweepLines (s : State) (i base per lo hi : Nat) : State × Map PBytes :=
  (linesOver per lo hi).foldl
    (fun (acc : State × Map PBytes) k =>
      let a := base + 128 * k
      if k * per < lo ∨ regionOf a = some .lpx then (acc.1, acc.2 ++ [(k, acc.1.peek a 128)])
      else
        let (t, bs) := acc.1.sweepRead i a 128
        (t, acc.2 ++ [(k, bs)])) (s, [])

/-- Elements lo to hi − 1, of `size` bytes each, from lines of `per` elements; none if one is poison. -/
def elemsIn (lines : Map PBytes) (per size lo hi : Nat) : Option (List (List Byte)) :=
  let es : List PBytes := (List.range (hi - lo)).map fun k =>
    ((Map.get lines ((lo + k) / per) []).drop (8 + size * ((lo + k) % per))).take size
  if es.any fun b => b.anyPoison || b.length != size then none else some (es.map fun b => b.data)

/-- Master weights as bf24 encodings (R226), and moments in pairs (R225). -/
def mastersIn (lines : Map PBytes) (lo hi : Nat) : Option (List Nat) := (elemsIn lines 40 3 lo hi).map fun es => es.map leNat
def momentsIn (lines : Map PBytes) (lo hi : Nat) : Option (List Nat) :=
  (elemsIn lines 30 4 lo hi).map fun es => es.flatMap fun b => [fieldLe b 0 2, fieldLe b 2 2]

/-- The program's moment phase reads the old master weight (R230). -/
def SweepProg.usesW (p : SweepProg) : Bool := p.mops.any fun o => o.a == 3 || o.b == 3 || o.c == 3

/-- fp32 encoding of a stored element. -/
def widen32 (f : Fmt) (u : Nat) : Nat := (widenBits f u 127 true).1

/-- A new moment line (R225, R233). -/
def momentLine (p : SweepProg) (consts : SweepRegs) (step : Nat) (g m w : List Nat) : List Byte × Flags :=
  let outs := (List.range g.length).map fun k =>
    let rs : SweepRegs := [(0, widen32 .bf16 (g.getD k 0)), (1, widen32 .bf16 (m.getD (2 * k) 0)),
      (2, widen32 .bf16 (m.getD (2 * k + 1) 0)), (3, widen32 .bf24 (w.getD k 0))] ++ consts
    let (rs1, f) := runPhase p.mops rs
    let (u1, f1) := convert (f32 (Map.get rs1 4 0)) .bf16 false p.satMode
    let (u2, f2) := if p.moments = 2 then convert (f32 (Map.get rs1 5 0)) .bf16 false p.satMode else (0, Flags.none)
    (leBytes 2 u1 ++ leBytes 2 u2, Flags.or f (Flags.or f1 f2))
  let fl := outs.foldl (fun f o => Flags.or f o.2) Flags.none
  (fitBytes (leBytes 4 step ++ leBytes 1 fl.bits ++ [0, 0, 0] ++ outs.flatMap (·.1)) 128, fl)

/-- A new master line (R226, R233). -/
def masterLine (p : SweepProg) (consts : SweepRegs) (step : Nat) (w m : List Nat) : List Byte × Flags :=
  let outs := (List.range w.length).map fun k =>
    let rs : SweepRegs := [(3, widen32 .bf24 (w.getD k 0)), (4, widen32 .bf16 (m.getD (2 * k) 0)),
      (5, widen32 .bf16 (m.getD (2 * k + 1) 0))] ++ consts
    let (rs1, f) := runPhase p.wops rs
    let (u, f1) := convert (f32 (Map.get rs1 6 0)) .bf24 false p.satMode
    (leBytes 3 u, Flags.or f f1)
  let fl := outs.foldl (fun f o => Flags.or f o.2) Flags.none
  (fitBytes (leBytes 4 step ++ leBytes 1 fl.bits ++ [0, 0, 0] ++ outs.flatMap (·.1)) 128, fl)

/-- What a line's stamp says (R234): already written, to be rewritten, or a fault. -/
inductive LineTest where
  | skip | rewrite | stampFault | poison

def lineTest (bs : PBytes) (step : Nat) : LineTest :=
  if bs.anyPoison then .poison
  else
    let st := fieldLe bs.data 0 4
    if st = step then .skip else if (st + 1) % 2 ^ 32 = step then .rewrite else .stampFault

/-- A skipped line joins its FLAGS to the shard's. -/
def State.skipLine (s : State) (i : Nat) (bs : PBytes) (next : SweepStage) : State :=
  let x := s.sweep i
  (s.setSweep i
    { x with shardFlags := Flags.or x.shardFlags (flagsOfByte (fieldLe bs.data 4 1)), stage := next }).count (bSwp i) 0x148 1

/-- A line has been computed: write it, count and keep its events. -/
def State.putLine (s : State) (i a : Nat) (line : List Byte × Flags) (n : Nat) (next : SweepStage) : State :=
  let s1 := (s.sweepWrite i a line.1).count (bSwp i) 0x140 n
  let x := s1.sweep i
  (s1.setSweep i { x with shardFlags := Flags.or x.shardFlags line.2, stage := next }).sweepEvents i x.shard line.2

/-- Moment stage, line l (R234). -/
def State.momentStep (s : State) (i : Nat) (x : Shard) (l : Nat) : SweepMove :=
  let step := s.sweepStepNo i
  let a := x.moment + 128 * l
  let next : SweepStage := if l + 1 < x.momentLines then .moment (l + 1) else .weight 0
  let (s1, bs) := s.sweepRead i a 128
  match lineTest bs step with
  | .poison => .fault 2 s1
  | .stampFault => .fault 1 s1
  | .skip => .go (s1.skipLine i bs next)
  | .rewrite =>
    let n := min 30 (x.elements - 30 * l)
    let y := s.sweep i
    let (s2, g) := s1.sweepRead i (x.grad + 60 * l) (2 * n)
    let (s3, ls) := if y.program.usesW then s2.sweepLines i x.master 40 (30 * l) (30 * l + n) else (s2, [])
    match if y.program.usesW then mastersIn ls (30 * l) (30 * l + n) else some [] with
    | none => .fault 2 s3
    | some w =>
      if g.anyPoison then .fault 2 s3
      else
        match s3.sweepPay i n with
        | none => .stay (s.sweepHold i n)
        | some s4 =>
          let gs := (List.range n).map fun k => fieldLe g.data (2 * k) 2
          let ms := (List.range (2 * n)).map fun k => fieldLe bs.data (8 + 2 * k) 2
          .go (s4.putLine i a (momentLine y.program (y.consts step) step gs ms w) n next)

/-- First chunk of the working-copy stage, and how many there are: elements go out by the 128-byte line of the working
copy in which they start, or by 128 where there is none. -/
def Shard.chunks (x : Shard) : Nat × Nat :=
  let sz := x.workSize.getD 1
  let base := if x.workSize.isSome then x.work else 0
  (base / 128, (base + sz * x.elements - 1) / 128 - base / 128 + 1)

/-- Elements of chunk c. -/
def Shard.chunkElems (x : Shard) (c : Nat) : Nat × Nat :=
  let sz := x.workSize.getD 1
  let base := if x.workSize.isSome then x.work else 0
  let lo := 128 * (base / 128 + c) - base
  let hi := 128 * (base / 128 + c + 1) - base
  (ceilDiv lo sz, min x.elements (ceilDiv hi sz))

/-- The working-copy stage must see a record of stamp s (R234, R243). -/
def Shard.needsScale (x : Shard) : Bool := x.workSize.isSome && x.scale != 0

/-- Enter the working-copy stage, or wait for its scale record (R243); a poisoned or reserved record faults. -/
def State.enterWorking (s : State) (i : Nat) (x : Shard) : SweepMove :=
  if !x.needsScale then .go (s.setStage i (.working 0))
  else
    let (s1, r) := s.sweepRead i x.scale 128
    if r.anyPoison then .fault 2 s1
    else if !scaleRecordOk r.data then .fault 4 s1
    else if fieldLe r.data 0 4 = s.sweepStepNo i then
      let y := s1.sweep i
      .go (s1.setSweep i { y with stage := .working 0, scaleWait := false, waitLong := false, record := r.data })
    else
      let y := s1.sweep i
      .stay (s1.setSweep i
        { y with stage := .scaleWait, scaleWait := true, waitSince := if y.scaleWait then y.waitSince else s.elapsed })

/-- Weight stage, line l (R234). -/
def State.weightStep (s : State) (i : Nat) (x : Shard) (l : Nat) : SweepMove :=
  let step := s.sweepStepNo i
  let a := x.master + 128 * l
  let last : Bool := decide (x.masterLines ≤ l + 1)
  let next : SweepStage := if last then .scaleWait else .weight (l + 1)
  let (s1, bs) := s.sweepRead i a 128
  match lineTest bs step with
  | .poison => .fault 2 s1
  | .stampFault => .fault 1 s1
  | .skip => .go (s1.skipLine i bs next)
  | .rewrite =>
    let n := min 40 (x.elements - 40 * l)
    let (s2, ls) := s1.sweepLines i x.moment 30 (40 * l) (40 * l + n)
    match momentsIn ls (40 * l) (40 * l + n) with
    | none => .fault 2 s2
    | some ms =>
      match s2.sweepPay i n with
      | none => .stay (s.sweepHold i n)
      | some s3 =>
        let y := s.sweep i
        let ws := (List.range n).map fun k => fieldLe bs.data (8 + 3 * k) 3
        .go (s3.putLine i a (masterLine y.program (y.consts step) step ws ms) n next)

/-- Working-copy stage, chunk c (R234). -/
def State.workingStep (s : State) (i : Nat) (x : Shard) (c : Nat) : SweepMove :=
  let (lo, hi) := x.chunkElems c
  let next : SweepStage := if c + 1 < x.chunks.2 then .working (c + 1) else .finish
  let (s0, ls) := s.sweepLines i x.master 40 lo hi
  match mastersIn ls lo hi with
  | none => .fault 2 s0
  | some ws =>
    match s0.sweepPay i (hi - lo) with
    | none => .stay (s.sweepHold i (hi - lo))
    | some s1 =>
      match x.workSize with
      | none => .go (s1.setStage i next)
      | some sz =>
        let e8 : BitVec 8 := if x.scale = 0 then 127 else BitVec.ofNat 8 (fieldLe (s.sweep i).record 4 1)
        let outs := ws.map fun u => convertScaled (f32 (widen32 .bf24 u)) x.workFmt e8 false (s.sweep i).program.satMode
        let f := outs.foldl (fun g o => Flags.or g o.2) Flags.none
        let s2 := s1.sweepWrite i (x.work + sz * lo) (outs.flatMap fun o => leBytes sz o.1)
        let y := s2.sweep i
        .go ((s2.setSweep i { y with shardFlags := Flags.or y.shardFlags f, stage := next }).sweepEvents i y.shard f)

/-- Counts of a shard's master weights (R245): NaNs, infinities, first NaN, amax as fp32. -/
def masterStats (ws : List Nat) : Nat × Nat × Nat × Nat :=
  (ws.zip (List.range ws.length)).foldl
    (fun (acc : Nat × Nat × Nat × Nat) e =>
      let v := decodeVal .bf24 e.1
      let (nn, ni, first, amax) := acc
      if v.isNan then (nn + 1, ni, min first e.2, amax)
      else (nn, if v.isInf then ni + 1 else ni, first, max amax (widen32 .bf24 e.1 % 2 ^ 31)))
    (0, 0, 0xFFFFFFFF, 0)

/-- The scale record that gives a shard's pending slot its place: read in the working-copy stage, or now (R241). -/
def State.pendingRecord (s : State) (i : Nat) (x : Shard) : Except (Nat × State) (State × List Byte) :=
  if x.slot = 255 then .ok (s, [])
  else if x.needsScale then .ok (s, (s.sweep i).record)
  else
    let (s1, r) := s.sweepRead i x.scale 128
    if r.anyPoison then .error (2, s1) else if scaleRecordOk r.data then .ok (s1, r.data) else .error (4, s1)

/-- The end of a shard: pending slot, status record, per-tensor flags (R234, R245, R246). -/
def State.finishShard (s : State) (i : Nat) (x : Shard) : SweepMove :=
  let lines : Map PBytes := (List.range x.masterLines).map fun k => (k, s.peek (x.master + 128 * k) 128)
  match mastersIn lines 0 x.elements, s.pendingRecord i x with
  | none, _ => .fault 2 s
  | _, .error e => .fault e.1 e.2
  | some ws, .ok (s0, rec) =>
    let (nn, ni, first, amax) := masterStats ws
    let y := s0.sweep i
    let s1 := if x.slot = 255 then s0 else s0.sweepWrite i (fieldLe rec 80 8 + 4 * x.slot) (leBytes 4 amax)
    let s2 := s1.sweepWrite i x.status (leBytes 4 (s.sweepStepNo i) ++ leBytes 1 y.shardFlags.bits)
    let s3 := s2.sweepWrite i (x.status + 8) (leBytes 4 nn ++ leBytes 4 ni ++ leBytes 4 first ++ leBytes 4 amax ++ leBytes 8 0)
    let z := s3.sweep i
    .go ((s3.setSweep i
      { z with
        tflags := Map.put z.tflags x.tensor (Flags.or (Map.get z.tflags x.tensor .none) y.shardFlags) .none
        shard := z.shard + 1, stage := .check }).count (bSwp i) 0x150 1)

/-- Start waiting for the start token (R234, R251). -/
def State.sweepWaits (s : State) (i : Nat) : State :=
  (s.setSweep i { s.sweep i with waiting := true, running := false, stage := .idle }).sendToken
    (.wait (agSweep i) (BitVec.ofNat 16 (s.fld (bSwp i) 0x110 0 16)) 1)

/-- The end of a run (R234). -/
def State.endRun (s : State) (i : Nat) : State :=
  let x := s.sweep i
  let step := s.sweepStepNo i
  let s1 := s.setSweep i { x with lastStep := BitVec.ofNat 32 step, granted := false }
  let s2 := if x.shardFault then s1 else s1.setFld (bSwp i) 0x118 0 32 ((step + 1) % 2 ^ 32)
  (s2.sendToken (.signal (agSweep i) (BitVec.ofNat 16 (s.fld (bSwp i) 0x110 16 16)) 1)).sweepWaits i

/-- Leave the shard in progress (R237). -/
def State.leaveShard (s : State) (i code : Nat) (stage : SweepStage) : State :=
  let s1 := s.shardFault i (s.sweep i).shard code
  let x := s1.sweep i
  s1.setSweep i { x with shard := x.shard + 1, stage := stage, scaleWait := false, waitLong := false }

/-- The descriptor of a commit is invalid, its program's range included where the program's header gives it (R228). -/
def State.commitInvalid (s : State) (i : Nat) (x : Shard) : State × Bool :=
  if !x.valid then (s, true)
  else if x.elements = 0 then (s, false)
  else
    let (s1, h) := s.sweepRead i x.program 64
    (s1, !h.anyPoison && progHeaderOk h.data && !progRange x.program h.data)

/-- The commits of a run, one descriptor at a time (R234). -/
def State.commitStep (s : State) (i : Nat) : State :=
  let y := s.sweep i
  if s.listLen i ≤ y.shard then s.setSweep i { y with shard := 0, stage := .check }
  else
    let (s0, d) := s.sweepRead i (s.shardAddr i y.shard) 64
    let x := shardOf d.data
    if d.anyPoison then s0.leaveShard i 2 .commits
    else if !x.commit then s0.setSweep i { y with shard := y.shard + 1 }
    else
      match s0.commitInvalid i x with
      | (s1, true) => s1.leaveShard i 4 .commits
      | (s1, false) =>
        match s1.commitScale i x.scale (s.sweepStepNo i) with
        | (s2, some code) => s2.leaveShard i code .commits
        | (s2, none) => s2.setSweep i { s2.sweep i with shard := y.shard + 1 }

/-- The check of a shard's program (R228, R232), with the schedule entry of the run: a stop code, or none. A header that
is not accepted leaves the program's range open, so it is refused first (log entry 44). -/
def State.checkProgram (s : State) (i a : Nat) : State × Option Nat :=
  let (s1, h) := s.sweepRead i a 64
  if h.anyPoison then (s1, some 2)
  else if !progHeaderOk h.data then (s1, some 3)
  else if !progRange a h.data then (s1, some 4)
  else
    let (s2, os) := s1.sweepRead i (a + 64) (4 * (progOps h.data).2)
    let s2 := s2.setSweep i { s2.sweep i with prog := h.data ++ os.data, row := [] }
    let p := progOf h.data os.data
    if os.anyPoison then (s2, some 2)
    else if !p.opsOk then (s2, some 3)
    else if s.sweepStepNo i = 0 then (s2, none)
    else
      let (s3, e) := s2.sweepRead i (p.schedEntry a (s.sweepStepNo i)) 32
      (s3.setSweep i { s3.sweep i with row := e.data }, if e.anyPoison then some 2 else none)

/-- The check of a shard and its program (R228, R232); shards that have faulted and shards without elements are passed
over. -/
def State.checkStep (s : State) (i : Nat) : State :=
  let y := s.sweep i
  if s.listLen i ≤ y.shard then s.endRun i
  else if y.faulted.contains y.shard then s.setSweep i { y with shard := y.shard + 1 }
  else
    let (s0, d) := s.sweepRead i (s.shardAddr i y.shard) 64
    let x := shardOf d.data
    if d.anyPoison then s0.leaveShard i 2 .check
    else if !x.valid then s0.leaveShard i 4 .check
    else if x.elements = 0 then s0.setSweep i { y with shard := y.shard + 1 }
    else
      match s0.checkProgram i x.program with
      | (s1, some code) => s1.leaveShard i code .check
      | (s1, none) => s1.setSweep i { s1.sweep i with stage := .moment 0, shardFlags := .none, desc := d.data }

/-- What the next move of a run reads: addresses and lengths. -/
def State.sweepNeeds (s : State) (i : Nat) : List (Nat × Nat) :=
  let y := s.sweep i
  let listed := s.shardAddr i y.shard
  let entry := shardOf (s.peek listed 64 : PBytes).data
  let inList := decide (y.shard < s.listLen i)
  let lines (base per lo hi : Nat) : List (Nat × Nat) :=
    ((linesOver per lo hi).filter fun k => decide (lo ≤ k * per)).map fun k => (base + 128 * k, 128)
  let x := y.shardNow
  match y.stage with
  | .idle => []
  | .commits =>
    if !inList then []
    else if !entry.commit || !entry.valid then [(listed, 64)]
    else
      let r := (s.peek entry.scale 128 : PBytes).data
      [(listed, 64), (entry.scale, 128)] ++ (if entry.elements = 0 then [] else [(entry.program, 64)])
        ++ (if scaleRecordOk r && fieldLe r 0 4 != s.sweepStepNo i then [(fieldLe r 80 8, 4 * fieldLe r 9 1)] else [])
  | .check =>
    if !inList || y.faulted.contains y.shard then []
    else if entry.elements = 0 || !entry.valid then [(listed, 64)]
    else
      let h := (s.peek entry.program 64 : PBytes).data
      [(listed, 64), (entry.program, 64)]
        ++ (if !progHeaderOk h then []
          else [(entry.program + 64, 4 * (progOps h).2), ((progOf h []).schedEntry entry.program (s.sweepStepNo i), 32)])
  | .moment l =>
    (x.moment + 128 * l, 128) :: (if y.program.usesW then lines x.master 40 (30 * l) (min x.elements (30 * l + 30)) else [])
  | .weight l => (x.master + 128 * l, 128) :: lines x.moment 30 (40 * l) (min x.elements (40 * l + 40))
  | .scaleWait => if x.needsScale then [(x.scale, 128)] else []
  | .working c => lines x.master 40 (x.chunkElems c).1 (x.chunkElems c).2
  | .finish => if x.slot = 255 || x.needsScale then [] else [(x.scale, 128)]

/-- The next move reads host memory that cannot be read now (R326, R410). -/
def State.sweepStalls (s : State) (i : Nat) : Bool := (s.sweepNeeds i).any fun r => s.hostWaits r.1 r.2

/-- The next move writes host memory while the egress buffer is full (R400). -/
def State.sweepFull (s : State) (i : Nat) : Bool :=
  let y := s.sweep i
  let x := if y.stage = .commits then shardOf (s.peek (s.shardAddr i y.shard) 64 : PBytes).data else y.shardNow
  let full (l : List Nat) : Bool := l.any fun a => s.hostFull a 128
  match y.stage with
  | .commits => decide (y.shard < s.listLen i) && x.commit && x.valid && full [x.scale]
  | .moment l => full [x.moment + 128 * l]
  | .weight l => full [x.master + 128 * l]
  | .working _ => x.workSize.isSome && full [x.work]
  | .finish => full [x.status] || (x.slot != 255 && full [fieldLe (if x.needsScale then y.record else (s.peek x.scale 128 : PBytes).data) 80 8])
  | _ => false

/-- One move of the run in progress; none where it cannot move now. -/
def State.sweepMove (s : State) (i : Nat) : Option State :=
  let y := s.sweep i
  let shard := y.shardNow
  let act (m : SweepMove) : Option State :=
    match m with
    | .stay s1 => if s1 = s then none else some s1
    | .fault code s1 => some (s1.leaveShard i code .check)
    | .go s1 => some s1
  if y.scaleWait || s.sweepFull i then none
  else if s.sweepStalls i then s.stallOnce (sweepWho i)
  else
    match y.stage with
    | .idle => if y.granted then some (s.setSweep i
        { y with
          granted := false, running := true, stage := .commits, shard := 0, shardFault := false, faulted := []
          faultShard := 0, faultCode := 0 }) else none
    | .commits => some (s.commitStep i)
    | .check => some (s.checkStep i)
    | .moment l => act (s.momentStep i shard l)
    | .weight l => act (s.weightStep i shard l)
    | .scaleWait => act (s.enterWorking i shard)
    | .working c => act (s.workingStep i shard c)
    | .finish => act (s.finishShard i shard)

/-- Up to n moves. -/
def State.sweepMoves : Nat → State → Nat → State
  | 0, s, _ => s
  | n + 1, s, i =>
    match s.sweepMove i with
    | some s1 => State.sweepMoves n s1 i
    | none => s

/-- The engine may run: enabled, no fatal error (R446). -/
def State.sweepActive (s : State) (i : Nat) : Bool := s.isEnabled (bSwp i) && !s.power.issueStopped

/-- SWEEP_RUN (R234 to R248): the run moves on by up to `lines` line writes, checks or commits. -/
def execSweepRun (engine : Ix16) (lines : Nat) (s : State) : Host.Outcome State Fault Refusal :=
  if s.sweepActive engine then .next (s.sweepMoves lines engine) else .next s

/-- SCALE_RECHECK (R243). -/
def execScaleRecheck (engine : Ix16) (s : State) : Host.Outcome State Fault Refusal :=
  let y := s.sweep engine
  if !s.sweepActive engine || !y.scaleWait then .next s
  else if s.sweepStalls engine then .next (s.hostStall (sweepWho engine))
  else
    match s.enterWorking engine y.shardNow with
    | .stay s1 => .next s1
    | .fault code s1 => .next (s1.leaveShard engine code .check)
    | .go s1 => .next s1

/-- SWEEP_WAIT_LONG (R251). The wait kind is the number of SCALE_WAIT's bit in SWP_STATUS. -/
def execSweepWaitLong (engine : Ix16) (s : State) : Host.Outcome State Fault Refusal :=
  let y := s.sweep engine
  let limit := s.fld (bSwp engine) 0x108 32 16
  if y.scaleWait && !y.waitLong && limit != 0 && decide (y.waitSince + limit ≤ s.elapsed) then
    .next ((s.setSweep engine { y with waitLong := true }).record (bSwp engine) 0x0011 engine 2 (s.sweepStepNo engine))
  else .next s

/-- SWP_TFLAG_SEL (R251). -/
def execSwpTflagSel (engine : Ix16) (tensor : BitVec 12) (s : State) : Host.Outcome State Fault Refusal :=
  .next (s.setSweep engine { s.sweep engine with tflagSel := tensor })

/-! ### Enabling and disabling (R234, R235, R246) -/

/-- At enable the per-tensor table and the flags clear, and the engine waits for its start token. -/
def State.enableSweep (s : State) (i : Nat) : State :=
  (s.setSweep i { s.sweep i with tflags := [], flags := .none, granted := false }).sweepWaits i

/-- Disabling stops a run before its next line; an outstanding wait is withdrawn (R160, R193, R235). -/
def State.disableSweep (s : State) (i : Nat) : State :=
  let x := s.sweep i
  let s1 := s.setSweep i
    { x with
      running := false, stage := .idle, granted := false, scaleWait := false, waitLong := false, withdrawing := x.waiting }
  ((if x.waiting then s1.sendToken (.withdrawal (agSweep i) (BitVec.ofNat 16 (s.fld (bSwp i) 0x110 0 16))) else s1).dropHeld
    (pSweep i)).hostForget (· == sweepWho i)

/-- LPX_WAIT: a line that the run needs next lies in LPDDR5X and has not come; the next SWEEP_RUN brings it (R248; log
entry 44). -/
def State.lpxWait (s : State) (i : Nat) : Bool :=
  (s.sweep i).running && (s.sweepNeeds i).any fun r => regionOf r.1 == some .lpx

end Sys2Proof.Machine
end

