-- ==== Sys2Proof/Machine/RegRead.lean ====
section
/-! DEFINITION. Reading a register: stored fields, holding registers, and the fields that report the device's state at the
moment of the read (R477, R479, R486, R490 and the register tables of the owning chapters). A live function answers none
for a field that stands in the stored word. -/

namespace Sys2Proof.Machine

/-! ### Compute-die blocks -/

/-- A current wait of an engine has set WAIT_LONG (R96). -/
def State.shownLong (s : State) (e : Nat) : Bool := (s.engineWaits e).any fun w => (s.engine e).waitLong.contains w.1

/-- A wait of a kind stands; a feeder's wait for data is known to be one only once it is long (log entry 36). -/
def State.waits (s : State) (e kind : Nat) : Bool :=
  (s.engineWaits e).any fun w => w.1.1 == kind && (kind != 8 || (s.engine e).waitLong.contains w.1)

/-- ENG_STATUS, ENG_BANK_FMT, ENG_SEQ (R97). -/
def State.engLive (s : State) (e off lo : Nat) : Option Nat :=
  let x := s.engine e
  match off, lo with
  | 0x108, 0 => some (boolBit (x.queue.any fun q => q.started && q.op.isPass))
  | 0x108, 1 => some (boolBit (x.queue.any fun q => q.started && !q.op.isPass))
  | 0x108, 2 => some (boolBit x.bank0.loaded)
  | 0x108, 3 => some (boolBit x.bank1.loaded)
  | 0x108, 4 => some (boolBit x.activeBank)
  | 0x108, 5 => some (boolBit (s.waits e 5))
  | 0x108, 6 => some (boolBit (s.waits e 6))
  | 0x108, 7 => some (boolBit (s.waits e 7))
  | 0x108, 8 => some (boolBit (s.waits e 8))
  | 0x108, 9 => some (boolBit (s.shownLong e))
  | 0x108, 10 => some (boolBit x.arrayFault)
  | 0x108, 11 => some (boolBit ((s.blk (bEng e)).state == .disabling))
  | 0x108, 12 => some x.queue.length
  | 0x110, 0 => some x.bank0.fmt.toNat
  | 0x110, 4 => some x.bank1.fmt.toNat
  | 0x118, 0 => some x.opsStarted.toNat
  | 0x118, 32 => some x.opsDone.toNat
  | _, _ => none

/-- CORE_STATUS, CORE_STICKY, CORE_STOP, CORE_PC, CORE_CLU_STATUS (R159, R161, R344). -/
def State.coreLive (s : State) (c off lo : Nat) : Option Nat :=
  let x := s.core c
  match off, lo with
  | 0x108, 0 => some (boolBit (s.isEnabled (bCore c) && !x.stopped && !s.coreDone c))
  | 0x108, 1 => some (boolBit (s.coreDone c))
  | 0x108, 2 => some (boolBit x.stopped)
  | 0x108, 3 => some (boolBit ((s.stallNow c).getLsbD 0))
  | 0x108, 4 => some (boolBit ((s.stallNow c).getLsbD 1))
  | 0x108, 5 => some (boolBit ((s.stallNow c).getLsbD 2))
  | 0x108, 6 => some (boolBit ((s.stallNow c).getLsbD 3))
  | 0x108, 7 => some (boolBit ((s.stallNow c).getLsbD 4))
  | 0x108, 8 => some (boolBit ((s.stallNow c).getLsbD 5))
  | 0x108, 9 => some (boolBit ((s.stallNow c).getLsbD 6))
  | 0x108, 10 => some (boolBit ((s.blk (bCore c)).state == .disabling))
  | 0x108, 16 => some (x.prefetchers.map fun p => 2 ^ p.1).sum
  | 0x110, 0 => some (boolBit x.sticky.invalid)
  | 0x110, 1 => some (boolBit x.sticky.overflow)
  | 0x110, 2 => some (boolBit x.sticky.saturated)
  | 0x118, 0 => some x.stopCode.toNat
  | 0x118, 16 => some x.stopIndex.toNat
  | 0x120, 0 => some x.pc.toNat
  | 0x128, 0 => some (boolBit (s.link (bondEnd (c / 8) (c % 8 / 4))).up)
  | _, _ => none

/-- POWER codes of a bank (R312). -/
def BankPower.code : BankPower → Nat
  | .off => 0
  | .retention => 1
  | .on => 2
  | .waking => 3

/-- The banks of a block that are not as after reset. -/
def State.bankList (s : State) (n : Nat) : List BankSt := (s.banks.filter fun e => e.1 / 256 = n).map (·.2)

/-- BANK_MODE, BANK_INFO of the selected bank, and BANK_STATUS (R312). -/
def State.bankLive (s : State) (n : Nat) (tile : Bool) (u off lo : Nat) : Option Nat :=
  let x := s.bank n (s.fld n 0x108 0 8)
  match off, lo with
  | 0x110, 0 => some x.modeCfg.toNat
  | 0x110, 2 => some (boolBit x.retainCfg)
  | 0x118, 0 => some x.power.code
  | 0x118, 8 => some x.spares.length
  | 0x118, 16 => some (boolBit (x.pins != []))
  | 0x118, 17 => some (boolBit (x.degradedRows != []))
  | 0x118, 18 => some (boolBit ((s.tester n).running.any fun r => r.2.1 = s.fld n 0x108 0 8))
  | 0x120, 0 => some (boolBit ((s.bankList n).any fun b => b.power == .waking))
  | 0x120, 1 => some (boolBit ((s.bankList n).any fun b => b.degradedRows != []))
  | 0x120, 2 => some (boolBit ((s.blk n).state == .enabling))
  | 0x120, 3 => some (boolBit ((s.blk n).state == .disabling))
  | 0x120, 8 => some (s.pinsUsed n).length
  | 0x120, 16 => some (if tile then s.cacheBanks u else 0)
  | _, _ => none

/-! ### Tile blocks -/

/-- TOK_STATUS (R199); TOK_RESULT and TOK_STAMP are stored. -/
def State.tokLive (s : State) (t off lo : Nat) : Option Nat :=
  let mine := s.tokens.filter fun e => tokTile e.1 = t
  match off, lo with
  | 0x118, 0 => some (boolBit (mine.any fun e => e.2.count == BitVec.allOnes 32))
  | 0x118, 1 => some (boolBit (Map.get s.held t [] != []))
  | 0x118, 16 => some (mine.map fun e => e.2.waiters.length).sum
  | _, _ => none

/-- TRN_NOW, TRN_PERIOD, TRN_STATUS (R220): base-tile blocks follow the hub. -/
def State.trnLive (s : State) (i off lo : Nat) : Option Nat :=
  match off, lo with
  | 0x108, _ => some s.turn
  | 0x120, _ => some s.turns.periodPs.toNat
  | 0x118, 0 => some (boolBit s.turns.locked)
  | 0x118, 1 => some (boolBit s.turns.holdover)
  | 0x118, 2 => some (boolBit s.turns.turnJump)
  | 0x118, 16 => some (s.table i).length
  | _, _ => none

/-- MOD_BOND_STATUS of the selected port (R363). -/
def State.bondLive (s : State) (t off lo : Nat) : Option Nat :=
  let site := 13 * t + s.fld (bBond t) 0x100 0 4
  let x := s.link (bondEnd site (s.fld (bBond t) 0x100 4 1))
  match off, lo with
  | 0x108, 0 => some (boolBit x.up)
  | 0x108, 1 => some (boolBit x.training)
  | 0x108, 2 => some (boolBit (decide (3 ≤ s.level site) && decide (3 ≤ s.level (52 + t))))
  | 0x108, 8 => some x.sparesOut
  | 0x108, 16 => some x.sparesIn
  | _, _ => none

/-- HOME_STATUS, HOME_DIR (R314). The walk of a reclaim is over at the next turn boundary (log entry 62). -/
def State.homeLive (s : State) (h off lo : Nat) : Option Nat :=
  let x := s.home h
  match off, lo with
  | 0x110, 0 => some (boolBit x.reclaiming)
  | 0x110, 1 => some (boolBit (x.late != []))
  | 0x110, 2 => some (boolBit (x.aged != []))
  | 0x110, 3 => some (boolBit x.ignored)
  | 0x110, 8 => some x.txns.length
  | 0x110, 16 => some (x.late.headD (0, 0)).2
  | 0x118, 0 => some (s.dirs.filter fun e => homeOf (e.1 * 128) = h).length
  | _, _ => none

/-- HBM_STATUS and SCRUB_POS (R336); LAST_PIN, LAST_PC and ERR_LINE are stored. -/
def State.hbmLive (s : State) (c off lo : Nat) : Option Nat :=
  let x := s.dram c
  match off, lo with
  | 0x108, 0 => some (boolBit x.trained)
  | 0x108, 1 => some (boolBit x.trainFail)
  | 0x108, 2 => some (boolBit x.filling)
  | 0x108, 3 => some (boolBit (s.hotRefresh c))
  | 0x108, 4 => some (boolBit (x.suspects != []))
  | 0x108, 8 => some x.tempC.toNat
  | 0x118, _ => some x.scrubPos
  | _, _ => none

/-- SWP_STEP, SWP_STATUS, SWP_FAULT, SWP_TFLAG (R251). -/
def State.swpLive (s : State) (i off lo : Nat) : Option Nat :=
  let x := s.sweep i
  match off, lo with
  | 0x118, 32 => some x.lastStep.toNat
  | 0x120, 0 => some (boolBit x.waiting)
  | 0x120, 1 => some (boolBit x.running)
  | 0x120, 2 => some (boolBit x.scaleWait)
  | 0x120, 3 => some (boolBit (s.lpxWait i))
  | 0x120, 4 => some (boolBit x.shardFault)
  | 0x120, 5 => some (boolBit x.flags.invalid)
  | 0x120, 6 => some (boolBit x.flags.overflow)
  | 0x120, 7 => some (boolBit x.flags.saturated)
  | 0x120, 8 => some (boolBit x.waitLong)
  | 0x120, 9 => some (boolBit ((s.blk (bSwp i)).state == .disabling))
  | 0x120, 16 => some x.shard
  | 0x128, 0 => some x.faultShard
  | 0x128, 24 => some x.faultCode.toNat
  | 0x138, _ => some (Map.get x.tflags x.tflagSel.toNat .none).bits
  | _, _ => none

/-- Disagreements within the current window (R351, R361). -/
def State.disagreeRun (s : State) (e : Nat) : Nat :=
  ((s.link e).disagree.filter fun t => decide (s.elapsed < t + s.fld (bPlink e) 0x100 16 16)).length

/-- MOD_PLINK_STATUS (R361). -/
def State.plinkLive (s : State) (e off lo : Nat) : Option Nat :=
  let x := s.link e
  match off, lo with
  | 0x110, 0 => some (boolBit x.up)
  | 0x110, 1 => some (boolBit x.training)
  | 0x110, 2 => some (boolBit x.hold)
  | 0x110, 3 => some (boolBit x.degraded)
  | 0x110, 4 => some (boolBit x.ignored)
  | 0x110, 5 => some x.width
  | 0x110, 7 => some x.peerWidth
  | 0x110, 16 => some x.groupsOk.toNat
  | 0x110, 24 => some x.epoch.toNat
  | 0x110, 32 => some (s.disagreeRun e)
  | _, _ => none

/-! ### Hub blocks -/

/-- NRG_ registers (R222). -/
def State.nrgLive (s : State) (off lo : Nat) : Option Nat :=
  let x := s.energy
  match off, lo with
  | 0x110, 0 => some x.cls.toNat
  | 0x110, 16 => some x.ceilingW
  | 0x118, 0 => some (boolBit (x.borrow != 0))
  | 0x118, 1 => some (boolBit x.hot)
  | 0x118, 2 => some (boolBit x.grantExpired)
  | 0x118, 3 => some (boolBit x.backstop)
  | 0x118, 4 => some (boolBit (x.accounts.any fun a => a.2.corr == 896 || a.2.corr == 1280))
  | 0x118, 16 => some x.clockMhz
  | 0x120, _ => some x.reservoir
  | 0x128, 0 => some x.planClockMax
  | 0x128, 16 => some x.planCap
  | 0x140, _ => some (s.account x.corrSel).corr
  | _, _ => none

/-- LPX_STATUS and SCRUB_POS, over all packages (R338). -/
def State.lpxLive (s : State) (off lo : Nat) : Option Nat :=
  let pk := (List.range 32).map fun i => s.dram (16 + i)
  match off, lo with
  | 0x108, 0 => some (boolBit (pk.all (·.trained)))
  | 0x108, 1 => some (boolBit (pk.any (·.trainFail)))
  | 0x108, 2 => some (boolBit (pk.any (·.filling)))
  | 0x108, 3 => some (boolBit (pk.any fun d => d.suspects != []))
  | 0x118, _ => some (s.dram 16).scrubPos
  | _, _ => none

/-- STEP of a slot whose control line is valid, else 0 (R279). -/
def Save.slotStep (x : Save) (k : Nat) : Nat :=
  match x.slotMark k with
  | some m => m.1.toNat
  | none => 0

/-- SAV_STATUS, SAV_STEPS, SAV_JRN_NEXT_SEQ (R279). -/
def State.savLive (s : State) (off lo : Nat) : Option Nat :=
  let x := s.save
  match off, lo with
  | 0x148, 0 => some (boolBit x.waiting)
  | 0x148, 1 => some (boolBit (x.granted || x.stage != .idle))
  | 0x148, 2 => some (boolBit x.restoring.isSome)
  | 0x148, 3 => some (boolBit x.fault)
  | 0x148, 4 => some (boolBit x.restoreRefused)
  | 0x148, 5 => some (boolBit x.copyoutAborted)
  | 0x148, 6 => some (boolBit x.jrnFull)
  | 0x148, 7 => some (boolBit ((s.blk bSav).state == .disabling))
  | 0x148, 8 => some x.faultCode.toNat
  | 0x148, 12 => some (boolBit (x.newestSlot == some 1))
  | 0x150, 0 => some (x.slotStep 0)
  | 0x150, 32 => some (x.slotStep 1)
  | 0x168, _ => some x.jrnNext.toNat
  | _, _ => none

/-- The bytes of a value that eight-byte registers show from an offset on. -/
def wordAt (bs : List Byte) (base off : Nat) : Nat := fieldLe bs (off - base) 8

/-- NCL_ registers beside the rings (R401, R416, R466): the recovery registers stand only while recovery waits. -/
def State.nclLive (s : State) (off lo : Nat) : Option Nat :=
  let x := s.ncl
  if 0x800 ≤ off ∧ off < 0x880 then some (wordAt x.resume 0x800 off)
  else if 0x3000 ≤ off ∧ off < 0x3030 then some (wordAt (x.mailbox.head?.getD []) 0x3000 off)
  else
    match off, lo with
    | 0x110, 0 => some (boolBit x.up)
    | 0x110, 1 => some (boolBit x.decide)
    | 0x110, 2 => some (boolBit x.resumePending)
    | 0x110, 3 => some (boolBit x.egressHeld)
    | 0x110, 4 => some (boolBit s.egressFull)
    | 0x110, 5 => some (boolBit x.ignored)
    | 0x110, 6 => some (boolBit x.half)
    | 0x110, 7 => some (boolBit (decide (64 ≤ x.mailbox.length)))
    | 0x118, _ => some x.epoch.toNat
    | 0x128, _ => some (if x.decide then 2 ^ 64 - 1 else x.seqAcked)
    | 0x130, _ => some s.egressBytes
    | 0x3038, _ => some x.mailbox.length
    | 0x918, 0 => some (boolBit s.security.recovWaiting)
    | 0x918, 1 => some (boolBit s.security.recovReading)
    | 0x918, 8 => some s.security.recovReason
    | _, _ => none

/-- The registers of a ring (R416). -/
def State.ringLive (s : State) (r off lo : Nat) : Option Nat :=
  let x := s.ring r
  match off, lo with
  | 0x28, 0 => some x.c.toNat
  | 0x28, 32 => some x.tail.toNat
  | 0x30, 0 => some (boolBit x.cmd.isSome)
  | 0x30, 1 => some (boolBit x.staleWait)
  | 0x30, 2 => some (boolBit x.checkFail)
  | 0x30, 3 => some (boolBit x.ringError)
  | 0x30, 4 => some (boolBit (x.enabled && s.cqFull r))
  | _, _ => none

/-- SEC_ registers (R475). -/
def State.secLive (s : State) (off lo : Nat) : Option Nat :=
  let x := s.security
  if 0x140 ≤ off ∧ off < 0x180 then some (wordAt x.fwDigest 0x140 off)
  else if 0x180 ≤ off ∧ off < 0x200 then some (wordAt ((List.range 4).flatMap s.signerDigest) 0x180 off)
  else if 0x200 ≤ off ∧ off < 0x220 then some (wordAt x.idDigest 0x200 off)
  else
    match off, lo with
    | 0x100, 0 => some (boolBit x.requireSigned)
    | 0x100, 4 => some x.keyCount
    | 0x108, 0 => some (boolBit x.fwVerified)
    | 0x108, 1 => some (boolBit x.recovery)
    | 0x108, 2 => some (boolBit x.identityOk)
    | 0x108, 3 => some (boolBit x.clean)
    | 0x108, 4 => some (boolBit s.attestBusy)
    | 0x108, 5 => some (boolBit x.refused)
    | 0x220, _ => some x.svn.toNat
    | _, _ => none

/-- SEQ of the oldest record that a sheet holds (R461). -/
def Sheet.oldest (x : Sheet) : Nat := x.nextSeq.toNat - x.records.length

/-- The record that SEL names, if it is held. -/
def State.selectedRecord (s : State) (t : Nat) : Option Record :=
  (s.sheet t).records.find? fun r => r.seq.toNat = s.fld (bSsh t) 0x110 0 32

/-- SSH_ registers (R461). -/
def State.sshLive (s : State) (t off lo : Nat) : Option Nat :=
  let x := s.sheet t
  if 0x118 ≤ off ∧ off < 0x138 then
    some (match s.selectedRecord t with
      | some r => wordAt (s.recordRead t r) 0x118 off
      | none => 0)
  else
    match off, lo with
    | 0x108, 0 => some x.nextSeq.toNat
    | 0x108, 32 => some x.oldest
    | 0x138, 0 => some (boolBit (x.frozen != .none))
    | 0x138, 1 => some x.frozen.code
    | 0x138, 3 => some (boolBit s.power.flushing.isSome)
    | 0x138, 4 => some (boolBit (s.selectedRecord t).isNone)
    | 0x138, 5 => some (match s.selectedRecord t with
        | some r => boolBit (s.recordPoisoned t r)
        | none => 0)
    | 0x138, 6 => some x.queue.length
    | 0x148, 0 => some (boolBit s.power.fatal)
    | 0x148, 16 => some s.power.fatalCode.toNat
    | 0x148, 32 => some s.power.fatalOrigin.toNat
    | _, _ => none

/-- MOD_LAYOUT_STATUS and MOD_LAYOUT_DIGEST (R179, R197). -/
def State.layoutLive (s : State) (off lo : Nat) : Option Nat :=
  let x := s.loader
  if 0x140 ≤ off ∧ off < 0x180 then some (wordAt x.digest 0x140 off)
  else
    match off, lo with
    | 0x110, 0 => some (boolBit x.busy.isSome)
    | 0x110, 1 => some (boolBit x.verified)
    | 0x110, 2 => some (boolBit x.refused)
    | 0x110, 3 => some (boolBit s.layoutMixed)
    | 0x110, 4 => some (boolBit x.ignored)
    | 0x110, 8 => some x.code.toNat
    | 0x110, 16 => some x.loaded.toNat
    | 0x110, 32 => some x.partLoad.toNat
    | _, _ => none

/-- State codes of n sites from site i on, two bits each (R281). -/
def State.siteCodes (s : State) (i n : Nat) : Nat :=
  ((List.range n).map fun k => (s.site (i + k)).status.code * 4 ^ k).sum

/-- MOD_SITE_ registers (R281). -/
def State.siteLive (s : State) (off lo : Nat) : Option Nat :=
  let x := s.site s.siteSel
  match off, lo with
  | 0x108, _ => some (s.siteCodes 0 32)
  | 0x110, _ => some (s.siteCodes 32 20)
  | 0x120, 0 => some x.incarnation.toNat
  | 0x120, 4 => some x.readmits
  | 0x120, 8 => some x.cause.toNat
  | 0x120, 10 => some (boolBit s.siteIgnored)
  | _, _ => none

/-- MOD_PKG_ registers (R359): the assembly record holds eight bytes for each die (log entry 31). -/
def State.pkgLive (s : State) (off lo : Nat) : Option Nat :=
  let d := s.fld bPkg 0x108 0 6
  match off, lo with
  | 0x100, _ => some s.floor
  | 0x110, 0 => some (if 1 ≤ s.power.phase then s.stepping d else 0)
  | 0x110, 8 => some (if 1 ≤ s.power.phase then s.level d else 0)
  | 0x110, 16 => some (boolBit (s.presentDies.contains d))
  | 0x118, _ => some (leNat (s.flashRead (assemblyRecord + 8 * d) 8))
  | _, _ => none

/-- LAD_ registers (R391). -/
def State.ladLive (s : State) (p off lo : Nat) : Option Nat :=
  let x := s.ladder p
  let head := x.scRx.head?.getD []
  if 0x178 ≤ off ∧ off < 0x1A8 then some (wordAt (head.drop 16) 0x178 off)
  else
    match off, lo with
    | 0x118, 0 => some (boolBit x.up)
    | 0x118, 1 => some (boolBit x.training)
    | 0x118, 2 => some (boolBit x.hold)
    | 0x118, 3 => some (boolBit x.down)
    | 0x118, 4 => some (boolBit x.half)
    | 0x118, 5 => some (boolBit x.peerHalf)
    | 0x118, 6 => some (boolBit x.mismatch)
    | 0x118, 7 => some (boolBit (x.out1 != []))
    | 0x118, 8 => some x.scRx.length
    | 0x118, 13 => some (boolBit (s.streamHeld p))
    | 0x118, 16 => some x.epoch.toNat
    | 0x118, 24 => some x.lanesOk.toNat
    | 0x120, _ => some x.hopPs.toNat
    | 0x128, _ => some x.peerSerial.toNat
    | 0x130, 0 => some x.peerPort.toNat
    | 0x130, 8 => some x.peerFloor.toNat
    | 0x138, _ => some x.peerChain.toNat
    | 0x1A8, _ => some (fieldLe head 1 1)
    | _, _ => none

/-- CMP_STATUS (R394). -/
def State.cmpLive (s : State) (e off lo : Nat) : Option Nat :=
  let x := s.cmp e
  match off, lo with
  | 0x118, 0 => some (boolBit x.running)
  | 0x118, 1 => some (boolBit x.waitToken)
  | 0x118, 2 => some (boolBit x.waitIn)
  | 0x118, 3 => some (boolBit (s.tableWaits e))
  | 0x118, 4 => some (boolBit x.streamBroken)
  | 0x118, 5 => some (boolBit x.stepFault)
  | 0x118, 6 => some (boolBit x.flags.invalid)
  | 0x118, 7 => some (boolBit x.flags.overflow)
  | 0x118, 8 => some (boolBit x.flags.saturated)
  | 0x118, 9 => some (boolBit x.waitLong)
  | 0x118, 10 => some (boolBit x.done)
  | 0x118, 11 => some (boolBit ((s.blk (bCmp e)).state == .disabling))
  | 0x118, 16 => some x.step
  | _, _ => none

/-- ITK_STATUS (R441). -/
def State.itkLive (s : State) (i off lo : Nat) : Option Nat :=
  let x := s.intake i
  match off, lo with
  | 0x138, 0 => some (boolBit x.waiting)
  | 0x138, 1 => some (boolBit x.running)
  | 0x138, 2 => some (boolBit (x.journal != [] && !s.jrnRoom (s.save.jrnNext.toNat + s.save.appends.length)))
  | 0x138, 3 => some (boolBit x.batchFault)
  | 0x138, 4 => some (boolBit x.flags.invalid)
  | 0x138, 5 => some (boolBit x.flags.overflow)
  | 0x138, 6 => some (boolBit x.flags.saturated)
  | 0x138, 7 => some (boolBit x.waitLong)
  | 0x138, 8 => some (boolBit ((s.blk (bItk i)).state == .disabling))
  | 0x138, 9 => some x.faultCode.toNat
  | 0x138, 16 => some x.position
  | _, _ => none

/-! ### The common registers (R490) -/

/-- STATE codes (R481). -/
def BlkState.code : BlkState → Nat
  | .disabled => 0
  | .enabling => 1
  | .enabled => 2
  | .disabling => 3

/-- ID, latched at boot phase 1, ENABLE and STATUS. -/
def State.commonLive (s : State) (n : Nat) (k : Kind) (off lo : Nat) : Option Nat :=
  let b := s.blk n
  let d := blockDie n
  let id (v : Nat) : Option Nat := some (if 1 ≤ s.power.phase then v else 0)
  match off, lo with
  | 0x000, 0 => id n
  | 0x000, 16 => id k.code
  | 0x000, 24 => id 1
  | 0x000, 32 => id (s.stepping d)
  | 0x000, 40 => id (s.level d)
  | 0x000, 48 => id d
  | 0x008, _ => some (boolBit b.enable)
  | 0x010, 0 => some b.state.code
  | 0x010, 2 => some (boolBit b.wwe)
  | 0x010, 16 => some (if b.wwe then b.ignoredOffset.toNat else 0)
  | 0x020, _ => some b.snapId.toNat
  | 0x028, _ => some b.snapTurn.toNat
  | _, _ => none

/-- What a field of a block shows now, unless it stands in the stored word. -/
def State.live (s : State) (n : Nat) (k : Kind) (u off lo : Nat) : Option Nat :=
  if off < 0x100 then s.commonLive n k off lo
  else
    match k with
    | .eng => s.engLive u off lo
    | .core => s.coreLive u off lo
    | .bankCore => s.bankLive n false u off lo
    | .bankTile => s.bankLive n true u off lo
    | .tok => s.tokLive u off lo
    | .trnTile => s.trnLive u off lo
    | .trnHub => s.trnLive 4 off lo
    | .mesh => none
    | .bond => s.bondLive u off lo
    | .sshTile => s.sshLive u off lo
    | .sshHub => s.sshLive 4 off lo
    | .home => s.homeLive u off lo
    | .hbm => s.hbmLive u off lo
    | .swp => s.swpLive u off lo
    | .plink => s.plinkLive u off lo
    | .nrg => s.nrgLive off lo
    | .lpx => s.lpxLive off lo
    | .sav => s.savLive off lo
    | .ncl => match ringOffset off with
      | some (r, o) => s.ringLive r o lo
      | none => s.nclLive off lo
    | .sec => s.secLive off lo
    | .layout => s.layoutLive off lo
    | .site => s.siteLive off lo
    | .pkg => s.pkgLive off lo
    | .lad => s.ladLive u off lo
    | .cmp => s.cmpLive u off lo
    | .itk => s.itkLive u off lo

/-- Width of a field. -/
def FieldRow.width (r : FieldRow) : Nat := r.hi - r.lo + 1

/-- The value that a read of a field returns (R479). -/
def State.fieldNow (s : State) (n : Nat) (k : Kind) (u off : Nat) (r : FieldRow) : Nat :=
  match r.acc with
  | .WC => 0
  | _ => (s.live n k u off r.lo).getD (s.fld n off r.lo r.width)

/-- The recovery registers are reserved once firmware runs (R466). -/
def State.recoveryGone (s : State) (k : Kind) (off : Nat) : Bool :=
  k == .ncl && decide (0x900 ≤ off) && decide (off < 0x920) && !s.security.recovWaiting

/-- In engine 8's block the registers of the step list are reserved (R375, R394). -/
def noSteps (k : Kind) (u off : Nat) : Bool := k == .cmp && u == 8 && decide (0x100 ≤ off) && decide (off < 0x118)

/-- The fields that a register has now: none at a reserved offset. -/
def State.fields (s : State) (k : Kind) (u off : Nat) : List FieldRow :=
  if s.recoveryGone k off || noSteps k u off then [] else fieldsAt k off

/-- A read returns all 64 bits of a register as they stand (R477); reserved fields and offsets read 0 (R9). -/
def State.regRead (s : State) (n off : Nat) : Word64 :=
  match blockOf n with
  | none => 0
  | some (k, u) =>
    if k.holds.contains off then Map.get s.holds (regKey n off) 0
    else (s.fields k u off).foldl (fun w r => putField w r.lo r.width (s.fieldNow n k u off r)) 0

end Sys2Proof.Machine
end

