-- ==== Sys2Proof/Machine/Registers.lean ====
section
/-! DEFINITION. Writing a register by its access codes, the commands that registers issue, enabling and disabling, and the
ports through which registers are reached (R9, R318, R401, R402, R477 to R486, R501, R505). -/

namespace Sys2Proof.Machine

/-! ### Enabling and disabling (R481 to R483) -/

/-- An engine's enable actions (R92). A split-invariant run that was open is closed, of which the manual says nothing (log
entry 77). -/
def State.enableEngine (s : State) (e : Nat) : State :=
  let x := s.engine e
  s.setEngine e
    { x with
      bank0 := .reset, bank1 := .reset, issuedRun := none, issuedFmt0 := none, issuedFmt1 := none, queue := []
      opsStarted := 0, opsDone := 0, activeBank := false, waitSeen := [], waitLong := [] }

/-- An engine's disable actions begin (R93): unstarted operations go, and after ARRAY_FAULT the started ones too. -/
def State.disableEngine (s : State) (e : Nat) : State :=
  let s1 := s.discardUnstarted e
  let x := s1.engine e
  if x.arrayFault ∧ x.queue ≠ [] then
    let s2 := (s1.setEngine e { x with queue := [] }).count (bEng e) 0x180 x.queue.length
    let c := s2.core (e / 4)
    s2.setCore (e / 4) { c with lost := c.lost ++ x.queue.map fun q => (e % 4, q) }
  else s1

/-- The enable actions of a block. Those of a BANK_ block are taken as it enters state 1 (R289). -/
def State.enableActions (s : State) (n : Nat) : State :=
  match blockOf n with
  | some (.eng, e) => s.enableEngine e
  | some (.core, c) => s.enableCore c
  | some (.tok, t) => s.enableTok t
  | some (.trnHub, _) => s.enableTrn
  | some (.swp, i) => s.enableSweep i
  | some (.sav, _) => s.enableSave
  | some (.cmp, e) => s.enableCmp e
  | some (.itk, i) => s.enableIntake i
  | some (.home, h) => if 64 ≤ h then { s with security := { s.security with body := [] } } else s
  | some (.nrg, _) => { s with energy := { s.energy with nextPlan := none, coolPlan := none } }
  | _ => s

/-- What a block does when it begins to disable. -/
def State.disableActions (s : State) (n : Nat) : State :=
  match blockOf n with
  | some (.eng, e) => s.disableEngine e
  | some (.core, c) => s.startCoreDisable c
  | some (.bankCore, _) => s.disableBanks n
  | some (.bankTile, _) => s.disableBanks n
  | some (.swp, i) => s.disableSweep i
  | some (.sav, _) => s.disableSave
  | some (.cmp, e) => s.disableCmp e
  | some (.itk, i) => s.disableIntake i
  | _ => s

/-- The disable actions of a block are complete. -/
def State.disableDone (s : State) (n : Nat) : Bool :=
  match blockOf n with
  | some (.eng, e) => (s.engine e).queue.isEmpty
  | some (.core, c) => s.coreQuiet c
  | some (.swp, i) => !(s.sweep i).withdrawing && !s.owed (.unit (sweepWho i))
  | some (.sav, _) => !s.save.withdrawing
  | some (.itk, i) => !(s.intake i).withdrawing && !s.owed (.unit (intakeWho i))
  | _ => true

def State.setBlkState (s : State) (n : Nat) (st : BlkState) : State := s.setBlk n { s.blk n with state := st }

/-- A block enters state 1: a BANK_ block takes its modes, so that an access that finds it enabling is served under the mode
that state 2 will have (R289). -/
def State.startEnable (s : State) (n : Nat) : State :=
  match bankBlock n with
  | some _ => (s.setBlkState n .enabling).enableBanks n
  | none => s.setBlkState n .enabling

/-- A block in state 0 or 2 acts on ENABLE; in states 1 and 3 its transition goes first (R482). -/
def State.actOnEnable (s : State) (n : Nat) : State :=
  let b := s.blk n
  match b.state, b.enable with
  | .disabled, true => s.startEnable n
  | .enabled, false => (s.setBlkState n .disabling).disableActions n
  | _, _ => s

/-- State 0 is reached: WRITE_WHILE_ENABLED and IGNORED_OFFSET clear (R485). -/
def State.reachDisabled (s : State) (n : Nat) : State :=
  (s.setBlk n { s.blk n with state := .disabled, wwe := false, ignoredOffset := 0 }).actOnEnable n

/-- An engine stopped by ARRAY_FAULT reaches state 0 at once (R93). -/
def State.stopFaulted (s : State) (n : Nat) : State :=
  match blockOf n with
  | some (.eng, e) => if (s.engine e).arrayFault && (s.blk n).state == .disabling then s.reachDisabled n else s
  | _ => s

/-- A write to ENABLE. -/
def State.setEnable (s : State) (n : Nat) (v : Bool) : State :=
  ((s.setBlk n { s.blk n with enable := v }).actOnEnable n).stopFaulted n

/-- ENABLE_WRITE (R481 to R483). -/
def execEnableWrite (block : BitVec 16) (value : Bool) (s : State) : Host.Outcome State Fault Refusal :=
  if s.reachable block.toNat then .next (s.setEnable block.toNat value) else .next (s.frameFault block.toNat 0x008)

/-- "Once" records start anew at a block's enable (R451); those of a BANK_ block have with its actions, so that what waited
in state 1 writes one record (R289). -/
def State.freshOnce (s : State) (n : Nat) : State := if (bankBlock n).isSome then s else s.clearOnce n

/-- ENABLE_COMPLETE (R482): the enable actions are complete. -/
def execEnableComplete (block : BitVec 16) (s : State) : Host.Outcome State Fault Refusal :=
  let n := block.toNat
  if (s.blk n).state = .enabling ∧ s.reachable n then
    .next (((((s.freshOnce n).enableActions n).setBlkState n .enabled).actOnEnable n).stopFaulted n)
  else .next s

/-- DISABLE_COMPLETE (R482, R485). -/
def execDisableComplete (block : BitVec 16) (s : State) : Host.Outcome State Fault Refusal :=
  let n := block.toNat
  if (s.blk n).state = .disabling ∧ s.reachable n ∧ s.disableDone n then .next (s.reachDisabled n) else .next s

/-! ### Commands that registers issue (R479, R484) -/

/-- The state that a command's meaning leaves. -/
def after (o : Host.Outcome State Fault Refusal) (s : State) : State :=
  match o with
  | .next t => t
  | _ => s

/-- A number below a bound, for a command's operand. -/
def finOf (m : Nat) [NeZero m] (k : Nat) : Fin m := Fin.ofNat m k

/-- MOD_LAYOUT_CMD (R181, R197): a command is accepted, or ignored while another runs; its row brings it to its end (log
entry 7). -/
def State.layoutCmd (s : State) (v : Nat) : State :=
  match bitsOf v 0 4 with
  | 1 => s.startLayout .verify
  | 2 =>
    let mask := BitVec.ofNat 9 (bitsOf v 16 9)
    s.startLayout (if bitOf v 25 then .siteOnly mask (BitVec.ofNat 6 (bitsOf v 32 6)) else .load mask)
  | _ => { s with loader := { s.loader with ignored := true } }

/-- TOK_CMD (R199): an operation not listed is ignored and counted. -/
def State.tokOp (s : State) (t v : Nat) : State :=
  let tile : TileIx := finOf 4 t
  let token := BitVec.ofNat 16 (bitsOf v 0 16)
  let value := BitVec.ofNat 32 (bitsOf v 32 32)
  match bitsOf v 16 3 with
  | 1 => after (execTokCmdSignal tile token value s) s
  | 2 => after (execTake tile token value s) s
  | 3 => after (execSet tile token value s) s
  | 4 => after (execPeek tile token s) s
  | _ => s.count (bTok t) 0x168 1

/-- MOD_SITE_CMD (R281). -/
def State.siteOp (s : State) (v : Nat) : State :=
  let site := bitsOf v 0 6
  if 52 ≤ site then s
  else
    match bitsOf v 8 2 with
    | 1 => after (execQuarantine (finOf 52 site) s) s
    | 2 => after (execRelease (finOf 52 site) s) s
    | 3 => after (execSiteReset (finOf 52 site) s) s
    | _ => s

/-- MOD_PLINK_CMD (R361). -/
def State.plinkOp (s : State) (e v : Nat) : State :=
  match bitsOf v 0 2 with
  | 1 => after (execPlinkRetrain (finOf 16 e) s) s
  | 2 => after (execPlinkRestore (finOf 16 e) s) s
  | _ => s

/-- LAD_CMD (R391): its three fields, lowest first. -/
def State.ladOp (s : State) (p v : Nat) : State :=
  let port : PortIx := finOf 8 p
  let s1 := match bitsOf v 0 2 with
    | 1 => after (execLadderRetrain port s) s
    | 2 => after (execLadderRestore port s) s
    | _ => s
  let s2 := if bitOf v 2 then after (execScSend port s1) s1 else s1
  if bitOf v 3 then after (execScPop port s2) s2 else s2

/-- The commands of the NCL block (R412, R413, R416, R466). -/
def State.nclOp (s : State) (off v : Nat) : State :=
  let epoch := BitVec.ofNat 32 (bitsOf v 32 32)
  match off with
  | 0x120 =>
    match bitsOf v 0 2 with
    | 1 => after (execAdopt epoch s) s
    | 2 => after (execDecline epoch s) s
    | 3 => after (execAck epoch s) s
    | _ => if epoch = s.ncl.epoch then s else s.epochIgnored
  | 0x138 =>
    if bitOf v 0 then s.nclReset epoch s.power.boot else if epoch = s.ncl.epoch then s else s.epochIgnored
  | 0x910 => if bitOf v 0 then s.startRecovery else s
  | 0x3030 => if bitOf v 0 then after (execMbxPop s) s else s
  | _ => s

/-- DOORBELL and CQ_HEAD of a ring (R404, R406). -/
def State.ringOp (s : State) (r off v : Nat) : State :=
  let w := BitVec.ofNat 32 (bitsOf v 0 32)
  match off with
  | 0x18 => after (execDoorbell (finOf 16 r) w s) s
  | 0x20 => after (execCqHead (finOf 16 r) w s) s
  | _ => s

/-- SSH_CMD (R457, R461): UNFREEZE is the management controller's, FLUSH the hub sheet's. -/
def State.sshOp (s : State) (src : RegSource) (t v : Nat) : State :=
  match bitsOf v 0 2 with
  | 1 => if src = .managementPort then s.unfreezeSheet t else s
  | 2 => if t = 4 then s.startFlush 3 else s
  | _ => s

/-- SAV_CMD and APPEND (R279). -/
def State.savOp (s : State) (off v : Nat) : State :=
  match off with
  | 0x138 => if bitsOf v 0 4 = 1 then s.startRestore (bitOf v 4) (bitOf v 5) else s
  | 0x170 => if bitOf v 0 then after (execAppend s) s else s
  | _ => s

/-- TRN_SET, TRN_TT_LO and TRN_TT_HI (R207, R208). -/
def State.trnOp (s : State) (i off : Nat) (v : Word64) : State :=
  match off with
  | 0x110 => after (execTrnSet v s) s
  | 0x128 => { s with turns := { s.turns with stagedLo := Map.put s.turns.stagedLo i v 0 } }
  | 0x130 => after (execTurnTableAppend (finOf 5 i) v s) s
  | _ => s

/-- SEC_CMD (R471, R473). -/
def State.secOp (s : State) (v : Nat) : State :=
  match bitsOf v 0 2 with
  | 1 => s.startAttest
  | 2 => s.requestReset .scrub s.power.boot
  | _ => s

/-- SNAPSHOT (R487): scopes 0 and 3 are ignored. -/
def State.snapOp (s : State) (n v : Nat) : State :=
  match bitsOf v 0 2 with
  | 1 => s.snapshotBlock n
  | 2 => s.snapshotDevice
  | _ => s

/-- The command that the WC fields of a register issue. A reset finds outside what the latest boot found (log entry 63). -/
def State.issueCommand (s : State) (src : RegSource) (n : Nat) (k : Kind) (u off : Nat) (w : Word64) : State :=
  let v := w.toNat
  if off < 0x100 then s.snapOp n v
  else
    match k with
    | .layout => s.layoutCmd v
    | .tok => s.tokOp u v
    | .trnTile => s.trnOp u off w
    | .trnHub => s.trnOp 4 off w
    | .nrg => after (execNrgCorrSel (BitVec.ofNat 6 (bitsOf v 0 6)) s) s
    | .swp => after (execSwpTflagSel (finOf 16 u) (BitVec.ofNat 12 (bitsOf v 0 12)) s) s
    | .sav => s.savOp off v
    | .site =>
      if off = 0x100 then s.siteOp v else if bitsOf v 0 6 < 52 then { s with siteSel := bitsOf v 0 6 } else s
    | .home => after (execHomeDead (finOf 72 u) (BitVec.ofNat 9 (bitsOf v 0 9)) s) s
    | .pkg => if bitsOf v 0 2 = 1 then s.requestReset .warm s.power.boot else s
    | .plink => s.plinkOp u v
    | .lad => s.ladOp u v
    | .cmp => if bitOf v 0 then after (execStart (finOf 9 u) s) s else s
    | .ncl => match ringOffset off with
      | some (r, o) => s.ringOp r o v
      | none => s.nclOp off v
    | .sshTile => s.sshOp src u v
    | .sshHub => s.sshOp src 4 v
    | .sec => s.secOp v
    | .eng | .core | .bankCore | .bankTile | .mesh | .bond | .hbm | .lpx | .itk => s

/-! ### Writes by access code (R9, R479, R480, R485) -/

/-- RWD fields of a register accept writes (R402, R479). -/
def State.writable (s : State) (n : Nat) (k : Kind) (off : Nat) : Bool :=
  match k, ringOffset off with
  | .ncl, some (r, _) => !(s.ring r).enabled
  | .ncl, none => if off = 0x100 then !s.ncl.windowEn else s.isDisabled n
  | _, _ => s.isDisabled n

/-- Store a field that a write sets: the modes of the selected bank, or the stored word. -/
def State.storeField (s : State) (n : Nat) (k : Kind) (off : Nat) (r : FieldRow) (v : Nat) : State :=
  if (k = .bankCore ∨ k = .bankTile) ∧ off = 0x110 then
    let b := s.fld n 0x108 0 8
    let x := s.bank n b
    s.setBank n b (if r.lo = 0 then { x with modeCfg := BitVec.ofNat 2 v } else { x with retainCfg := v == 1 })
  else s.setFld n off r.lo r.width v

/-- An RW field takes its value, with what hangs on it: ENABLE, the window, a ring, the power allowance. -/
def State.storeRw (s : State) (n : Nat) (k : Kind) (off : Nat) (r : FieldRow) (v : Nat) : State :=
  if off = 0x008 then s.setEnable n (v == 1)
  else
    match k, ringOffset off with
    | .ncl, some (i, 0) =>
      if v = 1 then (if (s.ring i).enabled then s else s.enableRing i)
      else if (s.ring i).enabled then s.disableRing i else s
    | .ncl, none =>
      let s1 := s.setFld n off r.lo r.width v
      if off = 0x100 then { s1 with ncl := { s1.ncl with windowEn := v == 1 } } else s1
    | .nrg, _ =>
      let s1 := s.setFld n off r.lo r.width v
      if off = 0x100 then { s1 with energy := { s1.energy with lastGrantTurn := s1.turn, lastGrant := s1.elapsed, grantExpired := false } } else s1
    | _, _ => s.storeField n k off r v

/-- The RWD fields that a write names: none that keeps its value beside RW or WC fields, none with a reserved value. -/
def State.namedRwd (s : State) (n : Nat) (k : Kind) (u off : Nat) (v : Word64) : List FieldRow :=
  let fs := s.fields k u off
  let beside := fs.any fun r => r.acc == .RW || r.acc == .WC
  fs.filter fun r =>
    r.acc == .RWD && !reservedValue k r (bitsOf v.toNat r.lo r.width)
      && (!beside || s.fieldNow n k u off r != bitsOf v.toNat r.lo r.width)

/-- A write to a register of a block, its fields judged against the state before it: RWD fields, then RW, then WC. -/
def State.regWrite (s : State) (src : RegSource) (n off : Nat) (v : Word64) : State :=
  match blockOf n with
  | none => s
  | some (k, u) =>
    let part (r : FieldRow) : Nat := bitsOf v.toNat r.lo r.width
    let fs := s.fields k u off
    let rwd := s.namedRwd n k u off v
    let s1 :=
      if rwd = [] then s
      else if s.writable n k off then rwd.foldl (fun acc r => acc.storeField n k off r (part r)) s
      else s.writeWhileEnabled n off
    let s2 := (fs.filter fun r => r.acc == .RW && !reservedValue k r (part r)).foldl
      (fun acc r => acc.storeRw n k off r (part r)) s1
    if fs.any fun r => r.acc == .WC then s2.issueCommand src n k u off v else s2

/-! ### Paths to the registers (R318, R401, R477, R501) -/

def frameBase (n : Nat) : Nat := regBase + n * 65536

def State.hart (s : State) (c : Nat) : Hart := Map.get s.harts c .reset

/-- Server cores run from phase 4 on (R463). -/
def State.serverCoresRun (s : State) : Bool := decide (4 ≤ s.power.phase)

/-- A server core's access to an address that no register answers (R318). -/
def State.serverFault (s : State) (core a : Nat) : State := (s.unmappedLine (0x1000 + core) a).emit (.accessFault core)

/-- The mailbox, which server cores alone can reach (R416). -/
def mailbox (n off : Nat) : Bool := n == bNcl && decide (0x3000 ≤ off) && decide (off < 0x3040)

/-- A server core acts: released, and not halted by a debugger (R463, R505). -/
def State.coreActs (s : State) (c : Nat) : Bool := s.serverCoresRun && !(s.hart c).halted

/-- Offsets of the window that are reserved for the host: those with no field, and the mailbox (R401, R416). -/
def State.windowReserved (s : State) (off : Nat) : Bool :=
  off % 8 != 0 || mailbox bNcl off
    || ((s.fields .ncl 0 off).isEmpty && !(Kind.ncl.holds.contains off))

/-- The host's write to the control window. -/
def State.windowWrite (s : State) (off : Nat) (v : Word64) : State :=
  if s.windowReserved off then s.count bNcl 0x158 1 else s.regWrite .host bNcl off v

/-- REGISTER_WRITE (R401, R477 to R480): by a server core, the register port, or the host in its window. -/
def execRegisterWrite (src : RegSource) (block offset : BitVec 16) (value : Word64) (s : State) :
    Host.Outcome State Fault Refusal :=
  let n := block.toNat
  let off := offset.toNat
  match src with
  | .narrowStore core => if s.coreActs core then .next (s.serverFault core (frameBase n + off)) else .next s
  | .serverCore core =>
    if !s.coreActs core then .next s
    else if !s.reachable n || off % 8 ≠ 0 then .next (s.serverFault core (frameBase n + off))
    else .next (s.regWrite src n off value)
  | .managementPort =>
    if s.power.held || off % 8 ≠ 0 then .next s
    else if !s.reachable n || mailbox n off then .next (s.unmappedLine 0x1133 (frameBase n + off))
    else .next (s.regWrite src n off value)
  | .host => if s.ncl.up && n == bNcl then .next (s.windowWrite off value) else .next s

/-- CONTROL_WINDOW_ACCESS (R401). -/
def execControlWindowAccess (write : Bool) (offset : BitVec 16) (value : Word64) (s : State) :
    Host.Outcome State Fault Refusal :=
  let off := offset.toNat
  if !s.ncl.up then .next s
  else if write then .next (s.windowWrite off value)
  else .next (s.emit (.nclReadData (if s.windowReserved off then 0 else s.regRead bNcl off)))

/-- Status of a register-port frame for an address (R501). -/
def State.portCode (s : State) (a : Nat) : Nat :=
  if a % 8 ≠ 0 ∨ a < regBase ∨ regEnd ≤ a then 3
  else if s.power.held then 1
  else if s.reachable ((a - regBase) / 65536) && !mailbox ((a - regBase) / 65536) ((a - regBase) % 65536) then 0
  else 2

/-- An unmapped access by the register port is counted and recorded like any other. -/
def State.portNote (s : State) (a : Nat) : State := if s.portCode a = 2 then s.unmappedLine 0x1133 a else s

/-- A read of CORE_CLU_STATUS waits while its bond port carries no frames, during a site reset too, unless the site is
quarantined or its rail is off (R161, R344). -/
def State.cluWaits (s : State) (a : Nat) : Bool :=
  match cluPort a with
  | some e =>
    let x := s.site (bondSite e)
    x.status != .quarantined && x.railOn && !(s.link e).up && !s.power.held
  | none => false

/-- The register port's read of an address (R161, R501): eight data bytes, zero unless the status is 0. -/
def State.portRead (s : State) (a : Nat) : State :=
  if s.cluWaits a then { s with cluReads := s.cluReads ++ [(a, none)] }
  else
    let v := if s.portCode a = 0 then (s.regRead ((a - regBase) / 65536) ((a - regBase) % 65536)).toNat else 0
    (s.portNote a).emit (.portStatus (s.portCode a) (leBytes 8 v))

/-- Its write (R501). -/
def State.portWrite (s : State) (a : Nat) (value : Word64) : State :=
  let s1 :=
    if s.portCode a = 0 then s.regWrite .managementPort ((a - regBase) / 65536) ((a - regBase) % 65536) value
    else s.portNote a
  s1.emit (.portStatus (s.portCode a) [])

/-- A write frame by its opcode and length; any other is malformed (R501). -/
def State.portFrame (s : State) (bytes : List Byte) : State :=
  match bytes with
  | 1 :: args => if args.length = 8 then s.portRead (leNat args) else s.emit (.portStatus 3 [])
  | 2 :: args =>
    if args.length = 16 then s.portWrite (leNat (args.take 8)) (BitVec.ofNat 64 (leNat (args.drop 8))) else s.emit (.portStatus 3 [])
  | 3 :: args =>
    if args.length = 6 then after (execFlashRead (BitVec.ofNat 32 (fieldLe args 0 4)) (BitVec.ofNat 16 (fieldLe args 4 2)) s) s
    else s.emit (.portStatus 3 [])
  | _ => s.emit (.portStatus 3 [])

/-- A server core's load from the register region (R161, R477): all 64 bits of a register, or an access fault. -/
def State.coreLoad (s : State) (core a bytes : Nat) : State :=
  let n := (a - regBase) / 65536
  if bytes ≠ 8 ∨ a % 8 ≠ 0 ∨ s.reachable n = false then s.serverFault core a
  else if s.cluWaits a then { s with cluReads := s.cluReads ++ [(a, some core)] }
  else s.emit (.loadData core (s.regRead n ((a - regBase) % 65536)))

/-- REGISTER_READ (R161, R459, R477, R501): the register port's; and a server core's load, which is of a register where its
address is. -/
def execRegisterRead (load : RegLoad) (s : State) : Host.Outcome State Fault Refusal :=
  match load with
  | .port address => .next (s.portRead address.toNat)
  | .frame target bytes => if s.portAnswers target then .next (s.portFrame bytes) else .next s
  | .core core address bytes =>
    if s.coreActs core ∧ regBase ≤ address.toNat ∧ address.toNat < regEnd then .next (s.coreLoad core address.toNat bytes)
    else .next s

/-- REGISTER_PORT_WRITE (R501). -/
def execRegisterPortWrite (address value : Word64) (s : State) : Host.Outcome State Fault Refusal :=
  .next (s.portWrite address.toNat value)

/-! ### The test access port (R505) -/

def State.setHart (s : State) (c : Nat) (h : Hart) : State := { s with harts := Map.put s.harts c h .reset }

/-- Instructions of the port, as the model numbers them. -/
def tapBypass : Nat := 0
def tapIdcode : Nat := 1
def tapSample : Nat := 2
def tapExtest : Nat := 3
def tapDtmcs : Nat := 4
def tapDmi : Nat := 5

def State.tapIr (s : State) (i : Nat) : State := { s with tap := { s.tap with ir := i } }

/-- Level of FAULT_N, an open-drain output: low while FATAL is set, or as EXTEST drives it (R446, R494, R505). -/
def State.faultN (s : State) : Bool := if s.tap.ir = tapExtest then s.tap.cells.faultN else !s.power.fatal

/-- Level of PRESENT_N, which is tied to ground on the module (R494). -/
def presentN : Bool := false

/-- What a boundary scan captures: J1's low-speed pins and the straps; the other cells, and where in the chain each stands, the
manual leaves open (R494, R505). -/
def State.capturePins (s : State) : State :=
  (s.free.2).emit (.pinLevels s.faultN presentN s.power.boot.cool s.power.boot.addr s.free.1)

/-- A value that the manual leaves open leaves through TDO. -/
def State.tdoFree (s : State) : State := (s.free.2).emit (.tdo s.free.1)

/-- System-bus read of eight bytes by the debug module: a register, or memory. It waits as any read does (R161, R326); what
the port shows after a failed or poisoned read is left open. -/
def State.busRead (s : State) (a : Nat) : State :=
  if regBase ≤ a ∧ a < regEnd then
    let n := (a - regBase) / 65536
    if s.cluWaits a then s
    else if a % 8 = 0 ∧ s.reachable n then s.emit (.tdo (s.regRead n ((a - regBase) % 65536)))
    else (s.unmappedLine 0x1000 a).tdoFree
  else if s.hostWaits a 8 then s
  else
    let (s1, bs) := s.readRun 0x1000 a 8
    if bs.anyPoison then s1.tdoFree else s1.emit (.tdo (BitVec.ofNat 64 (leNat bs.data)))

/-- System-bus write of eight bytes by the debug module; one to the host waits for room (R400). -/
def State.busWrite (s : State) (a : Nat) (v : Word64) : State :=
  if regBase ≤ a ∧ a < regEnd then
    let n := (a - regBase) / 65536
    if a % 8 = 0 ∧ s.reachable n then s.regWrite (.serverCore 0) n ((a - regBase) % 65536) v else s.unmappedLine 0x1000 a
  else if s.hostFull a 8 then s
  else s.writeRun 0x1000 a (PBytes.clean (leBytes 8 v.toNat))

/-- Abstract register access needs a halted hart; a register the model has not seen written holds a free value. -/
def State.hartRead (s : State) (c r : Nat) : State :=
  let h := s.hart c
  if !h.halted then s
  else
    match Map.find h.regs r with
    | some v => s.emit (.tdo v)
    | none =>
      let v := s.free.1
      ((s.free.2).setHart c { h with regs := Map.insert h.regs r v }).emit (.tdo v)

/-- TEST_ACCESS_PORT (R505). A scan through BYPASS comes out one bit later, behind a 0. The DMI reaches the debug module while the hub is out of reset. -/
def execTestAccessPort (op : TapOp) (s : State) : Host.Outcome State Fault Refusal :=
  let dmi (run : State → State) : Host.Outcome State Fault Refusal :=
    if s.power.held then .next (s.tapIr tapDmi) else .next (run (s.tapIr tapDmi))
  match op with
  | .bypass scan => .next ((s.tapIr tapBypass).emit (.tdo (scan <<< 1)))
  | .idcode => .next (s.tapIr tapIdcode).tdoFree
  | .samplePreload cells => .next { (s.tapIr tapSample).capturePins with tap := { ir := tapSample, cells := cells } }
  | .extest cells => .next { s.capturePins with tap := { ir := tapExtest, cells := cells } }
  | .trst => .next { s with tap := .reset }
  | .dtmcs => .next (s.tapIr tapDtmcs).tdoFree
  | .dmiHalt core => dmi fun t => t.setHart core { t.hart core with halted := true }
  | .dmiResume core => dmi fun t => t.setHart core .reset
  | .dmiRegRead core reg => dmi fun t => t.hartRead core reg.toNat
  | .dmiRegWrite core reg value => dmi fun t =>
      if (t.hart core).halted then t.setHart core { t.hart core with regs := Map.insert (t.hart core).regs reg.toNat value }
      else t
  | .dmiBusRead addr => dmi fun t => t.busRead addr
  | .dmiBusWrite addr value => dmi fun t => t.busWrite addr value

end Sys2Proof.Machine
end

