-- ==== Sys2Proof/Machine/Dispatch.lean ====
section
/-! DEFINITION. One arm for each command, each a direct call of its meaning. -/

namespace Sys2Proof.Machine

def exec (i : Instr) (s : State) : Host.Outcome State Fault Refusal :=
  match i with
  | .coldReset => Sys2Proof.Machine.execColdReset s
  | .powerUpSequence boot => Sys2Proof.Machine.execPowerUpSequence boot s
  | .warmReset boot => Sys2Proof.Machine.execWarmReset boot s
  | .nclReset epoch boot => Sys2Proof.Machine.execNclReset epoch boot s
  | .scrubReset boot => Sys2Proof.Machine.execScrubReset boot s
  | .powerLossWarning src => Sys2Proof.Machine.execPowerLossWarning src s
  | .powerWarningCleared => Sys2Proof.Machine.execPowerWarningCleared s
  | .railFault rail millivolts => Sys2Proof.Machine.execRailFault rail millivolts s
  | .junctionLimit sensor celsius => Sys2Proof.Machine.execJunctionLimit sensor celsius s
  | .clockLockLoss domain => Sys2Proof.Machine.execClockLockLoss domain s
  | .siteRailTrip site => Sys2Proof.Machine.execSiteRailTrip site s
  | .enableWrite block value => Sys2Proof.Machine.execEnableWrite block value s
  | .enableComplete block => Sys2Proof.Machine.execEnableComplete block s
  | .disableComplete block => Sys2Proof.Machine.execDisableComplete block s
  | .registerWrite src block offset value => Sys2Proof.Machine.execRegisterWrite src block offset value s
  | .snapshotBlock block => Sys2Proof.Machine.execSnapshotBlock block s
  | .snapshotDevice => Sys2Proof.Machine.execSnapshotDevice s
  | .nop core => Sys2Proof.Machine.execNop core s
  | .halt core => Sys2Proof.Machine.execHalt core s
  | .sets core => Sys2Proof.Machine.execSets core s
  | .adds core => Sys2Proof.Machine.execAdds core s
  | .loop core => Sys2Proof.Machine.execLoop core s
  | .jump core => Sys2Proof.Machine.execJump core s
  | .barrier core => Sys2Proof.Machine.execBarrier core s
  | .pass core => Sys2Proof.Machine.execPass core s
  | .compoundPass core => Sys2Proof.Machine.execCompoundPass core s
  | .drain core => Sys2Proof.Machine.execDrain core s
  | .weightLoad core => Sys2Proof.Machine.execWeightLoad core s
  | .matrixVector core => Sys2Proof.Machine.execMatrixVector core s
  | .passStart start => Sys2Proof.Machine.execPassStart start s
  | .weightLoadStart engine readBack => Sys2Proof.Machine.execWeightLoadStart engine readBack s
  | .passComplete engine => Sys2Proof.Machine.execPassComplete engine s
  | .drainStart core => Sys2Proof.Machine.execDrainStart core s
  | .engineWaitLong engine => Sys2Proof.Machine.execEngineWaitLong engine s
  | .add core => Sys2Proof.Machine.execAdd core s
  | .sub core => Sys2Proof.Machine.execSub core s
  | .mul core => Sys2Proof.Machine.execMul core s
  | .fma core => Sys2Proof.Machine.execFma core s
  | .min core => Sys2Proof.Machine.execMin core s
  | .max core => Sys2Proof.Machine.execMax core s
  | .abs core => Sys2Proof.Machine.execAbs core s
  | .neg core => Sys2Proof.Machine.execNeg core s
  | .sel core => Sys2Proof.Machine.execSel core s
  | .exp core => Sys2Proof.Machine.execExp core s
  | .log core => Sys2Proof.Machine.execLog core s
  | .rcp core => Sys2Proof.Machine.execRcp core s
  | .rsqrt core => Sys2Proof.Machine.execRsqrt core s
  | .tanh core => Sys2Proof.Machine.execTanh core s
  | .cmplt core => Sys2Proof.Machine.execCmplt core s
  | .cmple core => Sys2Proof.Machine.execCmple core s
  | .cmpeq core => Sys2Proof.Machine.execCmpeq core s
  | .cmpne core => Sys2Proof.Machine.execCmpne core s
  | .redsum core => Sys2Proof.Machine.execRedsum core s
  | .redmax core => Sys2Proof.Machine.execRedmax core s
  | .vectorLoad core => Sys2Proof.Machine.execVectorLoad core s
  | .vectorStore core => Sys2Proof.Machine.execVectorStore core s
  | .copy core => Sys2Proof.Machine.execCopy core s
  | .combine core => Sys2Proof.Machine.execCombine core s
  | .startPrefetch core => Sys2Proof.Machine.execStartPrefetch core s
  | .stopPrefetch core => Sys2Proof.Machine.execStopPrefetch core s
  | .wait core => Sys2Proof.Machine.execWait core s
  | .signal core => Sys2Proof.Machine.execSignal core s
  | .signalApply core => Sys2Proof.Machine.execSignalApply core s
  | .tokenSignalArrival agent token value => Sys2Proof.Machine.execTokenSignalArrival agent token value s
  | .tokenWaitArrival agent token value => Sys2Proof.Machine.execTokenWaitArrival agent token value s
  | .tokenGrantArrival agent => Sys2Proof.Machine.execTokenGrantArrival agent s
  | .withdrawal agent => Sys2Proof.Machine.execWithdrawal agent s
  | .tokCmdSignal tile token value => Sys2Proof.Machine.execTokCmdSignal tile token value s
  | .take tile token value => Sys2Proof.Machine.execTake tile token value s
  | .set tile token value => Sys2Proof.Machine.execSet tile token value s
  | .peek tile token => Sys2Proof.Machine.execPeek tile token s
  | .verify => Sys2Proof.Machine.execVerify s
  | .layoutLoad mask => Sys2Proof.Machine.execLayoutLoad mask s
  | .siteOnly mask site => Sys2Proof.Machine.execSiteOnly mask site s
  | .turnInEdge time => Sys2Proof.Machine.execTurnInEdge time s
  | .turnMark port turn lead accDelayPs arrivalPs sendPs => Sys2Proof.Machine.execTurnMark port turn lead accDelayPs arrivalPs sendPs s
  | .missedBoundary => Sys2Proof.Machine.execMissedBoundary s
  | .holdoverBoundary => Sys2Proof.Machine.execHoldoverBoundary s
  | .turnBoundary m => Sys2Proof.Machine.execTurnBoundary m s
  | .backstopCheck measuredPips timeLeftNs => Sys2Proof.Machine.execBackstopCheck measuredPips timeLeftNs s
  | .grantTimeout => Sys2Proof.Machine.execGrantTimeout s
  | .trnSet value => Sys2Proof.Machine.execTrnSet value s
  | .turnTableAppend trn hi => Sys2Proof.Machine.execTurnTableAppend trn hi s
  | .nrgCorrSel account => Sys2Proof.Machine.execNrgCorrSel account s
  | .sweepRun engine lines => Sys2Proof.Machine.execSweepRun engine lines s
  | .scaleRecheck engine => Sys2Proof.Machine.execScaleRecheck engine s
  | .sweepWaitLong engine => Sys2Proof.Machine.execSweepWaitLong engine s
  | .swpTflagSel engine tensor => Sys2Proof.Machine.execSwpTflagSel engine tensor s
  | .saveStart => Sys2Proof.Machine.execSaveStart s
  | .saveCapture => Sys2Proof.Machine.execSaveCapture s
  | .saveValidate => Sys2Proof.Machine.execSaveValidate s
  | .copyOutSlot => Sys2Proof.Machine.execCopyOutSlot s
  | .restore journal substituted => Sys2Proof.Machine.execRestore journal substituted s
  | .append => Sys2Proof.Machine.execAppend s
  | .intakeJournalAppend engine => Sys2Proof.Machine.execIntakeJournalAppend engine s
  | .quarantine site => Sys2Proof.Machine.execQuarantine site s
  | .release site => Sys2Proof.Machine.execRelease site s
  | .readmissionTestDone site result => Sys2Proof.Machine.execReadmissionTestDone site result s
  | .siteReset site => Sys2Proof.Machine.execSiteReset site s
  | .siteResetDone site bonds => Sys2Proof.Machine.execSiteResetDone site bonds s
  | .quarantinedPacket site trafficClass => Sys2Proof.Machine.execQuarantinedPacket site trafficClass s
  | .bankWake block bank => Sys2Proof.Machine.execBankWake block bank s
  | .regionTestStart block tester failing => Sys2Proof.Machine.execRegionTestStart block tester failing s
  | .rds agent line => Sys2Proof.Machine.execRds agent line s
  | .rdu agent line => Sys2Proof.Machine.execRdu agent line s
  | .upg agent line => Sys2Proof.Machine.execUpg agent line s
  | .evc agent line => Sys2Proof.Machine.execEvc agent line s
  | .evd agent line stored => Sys2Proof.Machine.execEvd agent line stored s
  | .rdns requester line => Sys2Proof.Machine.execRdns requester line s
  | .wfi requester line data => Sys2Proof.Machine.execWfi requester line data s
  | .wp requester line mask data => Sys2Proof.Machine.execWp requester line mask data s
  | .snps agent line stored => Sys2Proof.Machine.execSnps agent line stored s
  | .snpu agent line stored => Sys2Proof.Machine.execSnpu agent line stored s
  | .snpi agent line stored => Sys2Proof.Machine.execSnpi agent line stored s
  | .snpns agent line stored => Sys2Proof.Machine.execSnpns agent line stored s
  | .snprecall agent line stored => Sys2Proof.Machine.execSnprecall agent line stored s
  | .retry requester => Sys2Proof.Machine.execRetry requester s
  | .agedAdmission home => Sys2Proof.Machine.execAgedAdmission home s
  | .snoopLate home line => Sys2Proof.Machine.execSnoopLate home line s
  | .homeDead home agent => Sys2Proof.Machine.execHomeDead home agent s
  | .scrubRead ctrl errors => Sys2Proof.Machine.execScrubRead ctrl errors s
  | .bondTraining site cluster failingOut failingIn => Sys2Proof.Machine.execBondTraining site cluster failingOut failingIn s
  | .bondRetryLimit site cluster retrained => Sys2Proof.Machine.execBondRetryLimit site cluster retrained s
  | .panelFrameReceive fend control data => Sys2Proof.Machine.execPanelFrameReceive fend control data s
  | .panelNak fend ack => Sys2Proof.Machine.execPanelNak fend ack s
  | .panelAckTimeout fend => Sys2Proof.Machine.execPanelAckTimeout fend s
  | .panelLinkReset fend => Sys2Proof.Machine.execPanelLinkReset fend s
  | .panelTrainingAttempt fend failing peerWidth => Sys2Proof.Machine.execPanelTrainingAttempt fend failing peerWidth s
  | .widthReport fend width => Sys2Proof.Machine.execWidthReport fend width s
  | .sidebandTimeout fend => Sys2Proof.Machine.execSidebandTimeout fend s
  | .plinkRetrain fend => Sys2Proof.Machine.execPlinkRetrain fend s
  | .plinkRestore fend => Sys2Proof.Machine.execPlinkRestore fend s
  | .ladderTrainingAttempt port lanes peerHalf hopPs => Sys2Proof.Machine.execLadderTrainingAttempt port lanes peerHalf hopPs s
  | .ladderFrameReceive port frame => Sys2Proof.Machine.execLadderFrameReceive port frame s
  | .ladderAckTimeout port => Sys2Proof.Machine.execLadderAckTimeout port s
  | .ladderLinkReset port => Sys2Proof.Machine.execLadderLinkReset port s
  | .ladderSilenceTimeout port => Sys2Proof.Machine.execLadderSilenceTimeout port s
  | .markFrame port => Sys2Proof.Machine.execMarkFrame port s
  | .sideChannelMessage port message => Sys2Proof.Machine.execSideChannelMessage port message s
  | .scSend port => Sys2Proof.Machine.execScSend port s
  | .scPop port => Sys2Proof.Machine.execScPop port s
  | .ladderRetrain port => Sys2Proof.Machine.execLadderRetrain port s
  | .ladderRestore port => Sys2Proof.Machine.execLadderRestore port s
  | .start engine => Sys2Proof.Machine.execStart engine s
  | .collectiveStep engine blocks => Sys2Proof.Machine.execCollectiveStep engine blocks s
  | .stepTokenTake engine => Sys2Proof.Machine.execStepTokenTake engine s
  | .vc0MessageDelivery port => Sys2Proof.Machine.execVc0MessageDelivery port s
  | .tableMessageApply port => Sys2Proof.Machine.execTableMessageApply port s
  | .cmpWaitLong engine => Sys2Proof.Machine.execCmpWaitLong engine s
  | .nclLinkDown cause => Sys2Proof.Machine.execNclLinkDown cause s
  | .nclLinkUp hostReset halfWidth => Sys2Proof.Machine.execNclLinkUp hostReset halfWidth s
  | .nclFlitReplay cause => Sys2Proof.Machine.execNclFlitReplay cause s
  | .adopt epoch => Sys2Proof.Machine.execAdopt epoch s
  | .decline epoch => Sys2Proof.Machine.execDecline epoch s
  | .ack epoch => Sys2Proof.Machine.execAck epoch s
  | .decideTimeout => Sys2Proof.Machine.execDecideTimeout s
  | .doorbell ring p => Sys2Proof.Machine.execDoorbell ring p s
  | .slotRead ring => Sys2Proof.Machine.execSlotRead ring s
  | .staleReread ring => Sys2Proof.Machine.execStaleReread ring s
  | .ringNop ring => Sys2Proof.Machine.execRingNop ring s
  | .copyIn ring lines => Sys2Proof.Machine.execCopyIn ring lines s
  | .copyOut ring lines => Sys2Proof.Machine.execCopyOut ring lines s
  | .message ring => Sys2Proof.Machine.execMessage ring s
  | .commandSignal ring => Sys2Proof.Machine.execCommandSignal ring s
  | .completionWrite ring => Sys2Proof.Machine.execCompletionWrite ring s
  | .cqHead ring head => Sys2Proof.Machine.execCqHead ring head s
  | .fence => Sys2Proof.Machine.execFence s
  | .hsnps line => Sys2Proof.Machine.execHsnps line s
  | .hsnpu line => Sys2Proof.Machine.execHsnpu line s
  | .hsnpi line => Sys2Proof.Machine.execHsnpi line s
  | .controlWindowAccess write offset value => Sys2Proof.Machine.execControlWindowAccess write offset value s
  | .mbxPop => Sys2Proof.Machine.execMbxPop s
  | .intakeRun engine positions => Sys2Proof.Machine.execIntakeRun engine positions s
  | .intakeWaitLong engine => Sys2Proof.Machine.execIntakeWaitLong engine s
  | .scoreRecordWrite sheet => Sys2Proof.Machine.execScoreRecordWrite sheet s
  | .unfreeze sheet => Sys2Proof.Machine.execUnfreeze sheet s
  | .flush => Sys2Proof.Machine.execFlush s
  | .flushComplete => Sys2Proof.Machine.execFlushComplete s
  | .attest => Sys2Proof.Machine.execAttest s
  | .recovGo => Sys2Proof.Machine.execRecovGo s
  | .registerRead load => Sys2Proof.Machine.execRegisterRead load s
  | .registerPortWrite address value => Sys2Proof.Machine.execRegisterPortWrite address value s
  | .flashRead offset length => Sys2Proof.Machine.execFlashRead offset length s
  | .firmwareUpdate image completed => Sys2Proof.Machine.execFirmwareUpdate image completed s
  | .getAttestation request => Sys2Proof.Machine.execGetAttestation request s
  | .weightLoadComplete engine => Sys2Proof.Machine.execWeightLoadComplete engine s
  | .matrixVectorStart core => Sys2Proof.Machine.execMatrixVectorStart core s
  | .hotRefresh stack celsius => Sys2Proof.Machine.execHotRefresh stack celsius s
  | .sidebandAnswer fend lastAccepted => Sys2Proof.Machine.execSidebandAnswer fend lastAccepted s
  | .hostWriteAcknowledgement => Sys2Proof.Machine.execHostWriteAcknowledgement s
  | .dynamicAddress endpoint address => Sys2Proof.Machine.execDynamicAddress endpoint address s
  | .testAccessPort op => Sys2Proof.Machine.execTestAccessPort op s

end Sys2Proof.Machine
end

