-- ==== Sys2Proof/WellFormed.lean ====
section
/-! DEFINITION. Well-formed commands: operands of the shapes that the device's inputs have. -/

namespace Sys2Proof

/-- A cache line number: 128-byte lines of a 52-bit physical address (R299, R316). -/
def lineOk (line : Nat) : Bool := decide (line < 2 ^ 45)

/-- The 128 bytes of a line. -/
def lineDataOk (d : List Byte) : Bool := d.length == 128

/-- What an agent's stores have left in a line. -/
def storedOk (d : Option (List Byte)) : Bool :=
  match d with
  | some x => lineDataOk x
  | none => true

/-- What a boot finds outside: every list names parts that exist, the identity SRAM holds 8 KiB (R470), and each of the
sixteen panel link ends reports its failing lanes. -/
def BootIn.ok (b : BootIn) : Bool :=
  (b.hbmFail.all fun i => decide (i < 16)) && (b.lpxFail.all fun i => decide (i < 32))
    && (b.bondFail.all fun x => decide (x.1 < 104)) && b.panelLanes.length == 16
    && (b.present.all fun i => decide (i < 57)) && b.idPattern.length == 8192

/-- One energy for each of the 57 accounts, one temperature for each site and stack (R212, R219). -/
def Measures.ok (m : Measures) : Bool :=
  m.energy.length == 57 && m.siteTemp.length == 52 && m.hbmTemp.length == 16
    && (m.upsets.all fun e => decide (e.1 < 2 ^ 64)) && m.control.all fun e => decide (e.1 < 65536)

/-- One core, bank, row and spare row of a site; a core has one pin buffer (R124, R284, R295). -/
def SelfTest.ok (r : SelfTest) : Bool :=
  (r.repairs.all fun x => decide (x.1 < 8 ∧ x.2.1 < 32 ∧ x.2.2.1 < 2048 ∧ x.2.2.2 < 8))
    && r.pins.all fun x => decide (x.1 < 8 ∧ x.2.1 < 32 ∧ x.2.2.1 < 2048 ∧ x.2.2.1 % 64 = 0 ∧ x.2.2.2 = 0)

/-- Bank rows of a weight load (R66, R95). -/
def ReadBack.ok : ReadBack → Bool
  | .retry row => decide (row < 128)
  | .fault row => decide (row < 128)

/-- A token agent: a core, or an intake, sweep or save engine (R172, R190). -/
def agentOk (a : Nat) : Bool :=
  decide (a < 384) || (decide (2 * 65536 ≤ a) && decide (a < 2 * 65536 + 16))
    || (decide (3 * 65536 ≤ a) && decide (a < 3 * 65536 + 16)) || a == 4 * 65536

/-- Data words of a frame at a panel link end or a bond port (R343, R346). -/
def panelWords (e : Nat) : Nat := if e < 16 then 32 else 128

/-- The debug module's bus reaches the 52-bit physical address space (R316, R505). -/
def TapOp.ok : TapOp → Bool
  | .dmiBusRead a => decide (a + 8 ≤ 2 ^ 52)
  | .dmiBusWrite a _ => decide (a + 8 ≤ 2 ^ 52)
  | _ => true

/-- The shape of a command's operands. Commands whose operand types already hold exactly the legal values pass. -/
def Instr.wellFormed : Instr → Bool
  | .powerUpSequence b => b.ok
  | .warmReset b => b.ok
  | .nclReset _ b => b.ok
  | .scrubReset b => b.ok
  | .passStart x => decide (x.readBack.length ≤ 5) && x.readBack.all fun l => l.all ReadBack.ok
  | .weightLoadStart _ l => l.all ReadBack.ok
  | .tokenSignalArrival a _ _ => agentOk a
  | .tokenWaitArrival a _ _ => agentOk a
  | .tokenGrantArrival a => agentOk a
  | .withdrawal a => agentOk a
  | .turnBoundary m => m.ok
  | .readmissionTestDone _ r => r.ok
  | .rds _ line => lineOk line
  | .rdu _ line => lineOk line
  | .upg _ line => lineOk line
  | .evc _ line => lineOk line
  | .evd _ line d => lineOk line && storedOk d
  | .rdns _ line => lineOk line
  | .wfi _ line d => lineOk line && lineDataOk d
  | .wp _ line _ d => lineOk line && lineDataOk d
  | .snps _ line d => lineOk line && storedOk d
  | .snpu _ line d => lineOk line && storedOk d
  | .snpi _ line d => lineOk line && storedOk d
  | .snpns _ line d => lineOk line && storedOk d
  | .snprecall _ line d => lineOk line && storedOk d
  | .snoopLate _ line => lineOk line
  | .hsnps line => lineOk line
  | .hsnpu line => lineOk line
  | .hsnpi line => lineOk line
  | .panelFrameReceive e _ ws => ws.length == panelWords e
  | .ladderFrameReceive _ ws => ws.length == 129 || ws.length == 2
  | .sideChannelMessage _ m => m.length == 64
  | .getAttestation (.attestation n) => n.length == 32
  | .getAttestation _ => true
  | .testAccessPort op => op.ok
  | _ => true

end Sys2Proof
end

