-- ==== Sys2Proof/Certificates/Slice0/Obligations.lean ====
section
/-! DEFINITION. The statements for the provers. Each docstring cites the rules a statement formalises or rests on; one that
rests on a choice of the model names the log entry. -/

open Sys2Proof Sys2Proof.Machine

/-! ### Terms the statements share -/

/-- The forty instructions of a core, each with the operation that its word names (R129, R145, R155). -/
def Sys2Proof.coreRows (core : CoreIx) : List (Instr × CoreOp) :=
  [(.nop core, .nop), (.halt core, .halt), (.sets core, .sets), (.adds core, .adds), (.loop core, .loop),
   (.jump core, .jump), (.barrier core, .barrier), (.pass core, .pass), (.compoundPass core, .compoundPass),
   (.drain core, .drain), (.weightLoad core, .weightLoad), (.matrixVector core, .matrixVector), (.add core, .add),
   (.sub core, .sub), (.mul core, .mul), (.fma core, .fma), (.min core, .min), (.max core, .max), (.abs core, .abs),
   (.neg core, .neg), (.sel core, .sel), (.exp core, .exp), (.log core, .log), (.rcp core, .rcp),
   (.rsqrt core, .rsqrt), (.tanh core, .tanh), (.cmplt core, .cmplt), (.cmple core, .cmple), (.cmpeq core, .cmpeq),
   (.cmpne core, .cmpne), (.redsum core, .redsum), (.redmax core, .redmax), (.vectorLoad core, .vload),
   (.vectorStore core, .vstore), (.copy core, .copy), (.combine core, .combine), (.startPrefetch core, .startPrefetch),
   (.stopPrefetch core, .stopPrefetch), (.wait core, .wait), (.signal core, .signal)]

/-- The core may issue, and the instruction that it has before it, fetched ahead, is `w`, of operation `op` (R128, R129). -/
def Sys2Proof.Presents (s : State) (core : Nat) (op : CoreOp) (w : Nat) : Prop :=
  s.coreIssues core = true ∧ s.fetched core = .word w ∧ opOf w = some op

/-- Core `core` becomes `c`, CORE_HOLD_ISSUED counts one, and nothing else of the state changes. -/
def Sys2Proof.OnlyCore (s t : State) (core : Nat) (c : Core) : Prop :=
  t.core core = c ∧ (∀ n, n ≠ core → t.core n = s.core n)
    ∧ (∀ b o, o < 65536 → t.counter b o = s.counter b o + if b = bCore core ∧ o = 0x140 then 1 else 0)
    ∧ t = { s with cores := t.cores, counters := t.counters }

/-- What a priced operation changes beside its effect: counters, the planner's balances and accounts (R216, R219), and
the score-sheet queues and first-occurrence latches of its numeric events (R59, R455). -/
def Sys2Proof.paidFrame (s t : State) : State :=
  { s with
      counters := t.counters, sheets := t.sheets, once := t.once
      energy := { s.energy with agents := t.energy.agents, accounts := t.energy.accounts } }

/-- A priced operation has issued: core `core` becomes `c` with the next index and one more issue number; no other core
changes. -/
def Sys2Proof.Issued (s t : State) (core : Nat) (c : Core) : Prop :=
  t.core core = { c with pc := BitVec.ofNat 48 (s.nextPc core), seq := (s.core core).seq + 1, held := false }
    ∧ ∀ n, n ≠ core → t.core n = s.core n

/-- Every bank of the core's scratchpad serves addresses (R285). -/
def Sys2Proof.scratchServes (s : State) (core : Nat) : Prop := ∀ b, b < 32 → s.bankServes (bBankCore core) b = true

/-- No bit error waits to be found, in storage or on the wire (R330, R333). -/
def Sys2Proof.errorFree (s : State) : Prop := s.upsets = [] ∧ s.wire = []

/-- The byte stored under key `k` stays; a word with a bit error may be mended by whatever reads it (R333). -/
def Sys2Proof.sameByte (s t : State) (k : Nat) : Prop :=
  Map.find s.upsets (k / 16) = none → Map.get t.mem k unlistedByte = Map.get s.mem k unlistedByte


/-- Element lo + k of row i1 of a core's scratchpad tensor as it stands in memory, read with the row from lo on; none beyond
the extents (R132, R134). -/
def Sys2Proof.standing (s : State) (core : Nat) (t : Tensor) (lo i1 k : Nat) : Option Elem :=
  if i1 < t.extent 1 ∧ lo + k < t.extent 0 then
    let bs := s.readKey (scratchKey core (t.addr lo i1 0 0).toNat + k * t.esize) t.esize
    some (leNat bs.data, bs.anyPoison)
  else none

/-- Activation k of row i of a pass as it stands; none where it is padding (R84, R85, R88). -/
def Sys2Proof.actAt (s : State) (core : Nat) (p : PassOp) (i k : Nat) : Option Elem :=
  match p.conv with
  | none => standing s core p.act (128 * p.kblk) (p.row0 + i) k
  | some r =>
    match r.index p.act (p.row0 + i) (128 * p.kblk + k) with
    | none => none
    | some (c, iw, ih, img) =>
      if c < p.act.extent 0 ∧ iw < p.act.extent 1 ∧ ih < p.act.extent 2 ∧ img < p.act.extent 3 then
        let bs := s.readKey (scratchKey core (p.act.addr c iw ih img).toNat) p.act.esize
        some (leNat bs.data, bs.anyPoison)
      else some (0, false)

/-- Weight (k, n) of a source as it stands, by its orientation; a 4-bit one expanded to `target` (R38, R140). -/
def Sys2Proof.weightAt (s : State) (core : Nat) (t : Tensor) (target : Fmt) (orient : Bool) (k0 n0 k n : Nat) (nonSat : Bool) :
    Option Elem :=
  if t.is4 then
    (if orient then (s.elem4At (8 * core) core t target (k0 + k) (n0 + n) nonSat).2.1
      else (s.elem4At (8 * core) core t target (n0 + n) (k0 + k) nonSat).2.1)
  else if orient then standing s core t k0 (n0 + n) k else standing s core t n0 (k0 + k) n

/-- An operand of a product; padding is +0. -/
def Sys2Proof.termOf (f : Fmt) (t : Tensor) (e : Option Elem) : Term :=
  match e with
  | some (u, bad) => t.term f u bad
  | none => Term.zero

/-- The sum of one activation row and one weight column (R103). -/
def Sys2Proof.dot (n1 int : Bool) (act col : List Term) : Sum := (rowSums n1 int [col] act).headD ((0, .none), false)

/-- What a sum leaves in an accumulator element that began at `start`, or that it overwrites, and whether that is poison
(R104, R449). -/
def Sys2Proof.added (n1 : Bool) (start : Option Sum) (sum : Sum) : W32 × Bool :=
  match start with
  | none => (BitVec.ofNat 32 sum.1.1, sum.2)
  | some st => (BitVec.ofNat 32 (accAdd n1 st.1 sum.1).1, st.2 || sum.2)

/-- The value of an accumulator element as the next addition takes it. -/
def Sys2Proof.taken (v : W32 × Bool) : Sum := ((v.1.toNat, .none), v.2)

/-- What element (i, n) of a tile begins from by the accumulator source: nothing, what stands there, or the preload element
(R104). -/
def Sys2Proof.startOf (s : State) (core : Nat) (x : Engine) (src : AccSource) (pre : Option Tensor) (row nv i n : Nat) (nonSat : Bool) :
    Option Sum :=
  match src with
  | .zero => none
  | .keep => some ((x.accRow row nv).getD n ((0, .none), false))
  | .preload =>
    some (match pre with
      | none => ((0, .none), false)
      | some t =>
        match standing s core t 0 i n with
        | some (u, bad) => (widenBits (t.format.getD .fp32) u t.scale nonSat, bad)
        | none => ((0, .none), false))

/-- The pairs of an activation piece and a weight piece that a compound pass multiplies, in order (R55, R82). -/
def Sys2Proof.piecePairs (fmt : Nat) : List (Nat × Nat) :=
  if fmt = 9 then [(1, 0), (0, 1), (0, 0)] else [(2, 0), (1, 1), (0, 2), (1, 0), (0, 1), (0, 0)]

/-- Memory at rest: no bit error waits, no stored word is poison, no agent's cache holds a line, no home has a request. -/
def Sys2Proof.quiet (s : State) : Prop :=
  errorFree s ∧ s.poison = [] ∧ s.lines = [] ∧ s.dirs = [] ∧ Memory.wf s.mem = true ∧ s.retried = []
    ∧ ∀ h, (s.home h).txns = [] ∧ (s.home h).aged = []

/-- A range of HBM3E or LPDDR5X. -/
def Sys2Proof.inDram (a n : Nat) : Prop := inRegion .hbm a n = true ∨ inRegion .lpx a n = true

/-- The bytes of a range as they stand. -/
def Sys2Proof.bytesAt (s : State) (a n : Nat) : List Byte := (s.readKey a n).data

/-- Memory takes the bytes at `a` and keeps every other one. -/
def Sys2Proof.OnlyBytes (s t : State) (a : Nat) (bs : List Byte) : Prop :=
  (∀ k, k < bs.length → Map.get t.mem (a + k) unlistedByte = bs.getD k 0)
    ∧ ∀ k, k < a ∨ a + bs.length ≤ k → Map.get t.mem k unlistedByte = Map.get s.mem k unlistedByte

/-- Element k of packed lines of `per` elements of `size` bytes, behind eight bytes each (R225, R226). -/
def Sys2Proof.packed (s : State) (base per size k : Nat) : List Byte := bytesAt s (base + 128 * (k / per) + 8 + size * (k % per)) size

/-- The row of a load that a read-back names (R95). -/
def Sys2Proof.backRow (b : ReadBack) : Nat :=
  match b with
  | .retry k => k
  | .fault k => k

/-- A link end has sent a frame: what it had freed and accepted is reported (R347). -/
def Sys2Proof.panelTold (x : LinkEnd) : LinkEnd := { x with freed := creditsLeft x.freed, ackTold := lastOf x.expSeq 4096 }

/-- The frame that link end `e`, in state `x`, sends (R347). -/
def Sys2Proof.panelSent (e : Nat) (x : LinkEnd) (kind vc seq : Nat) (nak : Bool) (data : List CodeWord) : Output :=
  .panelFrame e (sealed (panelControl x kind vc seq nak) data) data

/-- An idle frame goes out where the end has something to report: its state and output then. -/
def Sys2Proof.panelInformed (e : Nat) (x : LinkEnd) : LinkEnd × List Output :=
  if x.up = true ∧ (x.ackTold ≠ lastOf x.expSeq 4096 ∨ x.freed.any (· != 0) = true) then
    (panelTold x, [panelSent e x kIdle 0 0 false (noPayload e)])
  else (x, [])

/-- A ladder port has sent a frame: what it had freed and accepted is reported (R368). -/
def Sys2Proof.ladderTold (x : Ladder) : Ladder := { x with free0 := 0, free1 := 0, ackTold := lastOf x.expSeq 65536 }

/-- The frame that ladder port `p`, in state `x`, sends: control word, words, and the bytes of each lane (R367, R368). -/
def Sys2Proof.ladderSent (p : Nat) (x : Ladder) (kind vc seq : Nat) (nak : Bool) (ws : List CodeWord) : Output :=
  let frame := ladderWord (ladderControlBits x kind vc seq nak) ws :: ws
  .ladderFrame p frame (laneBytes x.lanes (lineBytes frame))

/-- An idle frame goes out where the port has something to report: its state and output then. -/
def Sys2Proof.ladderInformed (p : Nat) (x : Ladder) : Ladder × List Output :=
  if x.up = true ∧ x.down = false ∧ (x.ackTold ≠ lastOf x.expSeq 65536 ∨ x.free0 ≠ 0 ∨ x.free1 ≠ 0) then
    (ladderTold x, [ladderSent p x ladIdle 0 0 false [emptyWord]])
  else (x, [])

/-- What the boot leaves of the state `u` it began with (R463 to R467, R325, R349, R356). An image that fails a check leaves
it in phase 3, in recovery, with a fatal error; a good one is measured and the boot goes on to phase 9. -/
def Sys2Proof.BootLeaves (u t : State) (kind : ResetKind) (b : BootIn) : Prop :=
  let d := u.flashImage
  let filled := if kind = .warm then hbmEnd else lpxEnd
  let failed (c : Nat) : Bool := if c < 16 then b.hbmFail.contains c else b.lpxFail.contains (c - 16)
  (t.eeprom = u.eeprom ∧ t.rom = u.rom ∧ t.pending = u.pending ∧ t.power.bootKind = kind) ∧
  (∀ r, u.imageReason d b.flashReadFails = some r →
    t.power.phase = 3 ∧ t.power.fatal = true ∧ t.power.issueStopped = true
      ∧ t.power.fatalCode = (if u.power.fatal then u.power.fatalCode else 0x308)
      ∧ t.security.fwVerified = false ∧ t.security.recovWaiting = true ∧ t.security.recovReason = r
      ∧ t.security.startAt = none ∧ t.security.svn = 0 ∧ t.security.fwDigest = []
      ∧ t.flash = u.flash ∧ t.mem = u.mem ∧ t.blocks = u.blocks ∧ t.links = u.links ∧ t.drams = u.drams ∧ t.ladders = u.ladders ∧ t.floor = u.floor) ∧
  (u.imageReason d b.flashReadFails = none →
    t.power.phase = 9 ∧ t.security.fwVerified = true ∧ t.security.recovery = false
      ∧ t.security.startAt = some (fieldLe d 24 8) ∧ t.security.body = (d.drop 2048).take (fieldLe d 16 8)
      ∧ t.security.fwDigest = (d.drop (2048 + fieldLe d 16 8)).take 64 ∧ t.security.svn = BitVec.ofNat 32 (fieldLe d 8 4)
      ∧ (∀ a, Map.get t.mem a unlistedByte = if a < filled then 0 else Map.get u.mem a unlistedByte)
      ∧ (∀ w ∈ t.poison, w ∈ u.poison ∧ filled ≤ 16 * w)
      ∧ (∀ c, c < 48 → (t.dram c).trained = !failed c ∧ (t.dram c).trainFail = failed c ∧ (failed c = true → t.power.fatal = true))
      ∧ (∀ i, i < 52 → bootBondFails b (2 * i) = true ∨ bootBondFails b (2 * i + 1) = true → (u.site i).railOn = true →
          (t.site i).status = .quarantined)
      ∧ t.presentDies = b.present
      ∧ t.floor = (((List.range 57).filter fun k =>
          decide (52 ≤ k) || (b.present.contains k && (t.site k).status != .quarantined)).map u.level).foldl min 3
      ∧ t.fld bNrg 0x108 0 16 = u.supplyLimit
      ∧ (∀ p, p < 8 → (t.ladder p).training = true)
      ∧ ∀ n ∈ firmwareBlocks, (t.blk n).enable = true ∧ (t.blk n).state = .enabled)

/-- A step takes the command at the front of the queue and runs it on the state with the queue's rest. -/
def Obligations.FrontCommandRuns : Prop :=
  ∀ (s : State) (c : Instr) (rest : List Instr), s.pending = c :: rest → step s = exec c { s with pending := rest }

/-- An empty queue leaves the state as it is: the model's DESIGN CHOICE (log entry 1), no rule of the manual. -/
def Obligations.EmptyQueueIdles : Prop := ∀ s : State, s.pending = [] → step s = .next s

/-- No command is refused, and only one that is not well formed ends in a fault. -/
def Obligations.OnlyIllFormedCommandsStop : Prop :=
  ∀ (c : Instr) (s : State),
    (∃ t, exec c s = .next t) ∨ (exec c s = .fault .illFormed ∧ c.wellFormed = false)

/-- The canonical form of memory is an invariant of every step, from every state that has it. -/
def Obligations.StepKeepsMemoryCanonical : Prop :=
  ∀ s t : State, Memory.wf s.mem = true → step s = .next t → Memory.wf t.mem = true

/-- The reset state meets the memory invariant; no command waits and every block is in state 0 with ENABLE 0 (R483). -/
def Obligations.ResetMemoryCanonical : Prop :=
  Memory.wf State.reset.mem = true ∧ State.reset.pending = []
    ∧ ∀ n, State.reset.isDisabled n = true ∧ (State.reset.blk n).enable = false

/-- Mask ROM is fixed, and no command of the table writes the EEPROM: both hold in every step from every state. -/
def Obligations.NoCommandWritesRomOrEeprom : Prop :=
  ∀ s t : State, step s = .next t → t.rom = s.rom ∧ t.eeprom = s.eeprom

/-- A step takes one command off the front of the queue and touches no other. -/
def Obligations.QueueStaysInOrder : Prop :=
  ∀ (s t : State) (c : Instr) (rest : List Instr), s.pending = c :: rest → step s = .next t → t.pending = rest

/-- COLD_RESET (R12): flash and EEPROM stay, the device's memory reads as unlisted, all else takes its reset value. Mask
ROM, the queue, the outputs, the free-value counter and host memory are not the device's to clear (log entry 55). -/
def Obligations.ColdResetKeepsFlashAndEeprom : Prop :=
  ∀ s : State, s.power.flushing = none → ∃ t, exec .coldReset s = .next t
    ∧ t = { State.reset with
        flash := s.flash, eeprom := s.eeprom, rom := s.rom, pending := s.pending, out := s.out, fresh := s.fresh
        mem := t.mem, poison := t.poison }
    ∧ (∀ a, Map.get t.mem a unlistedByte = if a < hostBase then unlistedByte else Map.get s.mem a unlistedByte)
    ∧ ∀ w ∈ t.poison, w ∈ s.poison ∧ hostBase ≤ 16 * w

/-- R498: RESET_N low during a flush is noted, and FLUSH_COMPLETE carries it out; without one, FLUSH_COMPLETE writes the
area, ends the flush, and leaves the rest. -/
def Obligations.ColdResetWaitsForTheFlush : Prop :=
  (∀ (s : State) (f : Flush), s.power.flushing = some f → ∃ t, exec .coldReset s = .next t
    ∧ t = { s with power := { s.power with resetPending := some (.cold, bootNone) } }) ∧
  (∀ (s : State) (f : Flush) (b : BootIn), s.power.flushing = some f → s.power.resetPending = some (.cold, b) →
    ∃ t, exec .flushComplete s = .next t
      ∧ t = { State.reset with
          flash := (s.flashWrite s.flushTarget.1 (s.flushImage f s.flushTarget.2)).flash, eeprom := s.eeprom, rom := s.rom
          pending := s.pending, out := s.out, fresh := s.fresh, mem := t.mem, poison := t.poison }
      ∧ (∀ a, Map.get t.mem a unlistedByte = if a < hostBase then unlistedByte else Map.get s.mem a unlistedByte)
      ∧ ∀ w ∈ t.poison, w ∈ s.poison ∧ hostBase ≤ 16 * w) ∧
  (∀ (s : State) (f : Flush), s.power.flushing = some f → s.power.resetPending = none →
    ∃ t, exec .flushComplete s = .next t ∧ t.power.flushing = none
      ∧ t.flashRead s.flushTarget.1 (s.flushImage f s.flushTarget.2).length = s.flushImage f s.flushTarget.2
      ∧ t.counter (bSsh 4) 0x190 = s.counter (bSsh 4) 0x190 + 1
      ∧ t = { s with flash := t.flash, counters := t.counters, power := { s.power with flushing := none } })

/-- R360, R473: the three warm resets run at once or wait for a flush; R483: every block starts the boot in state 0 with
ENABLE 0. -/
def Obligations.WarmResetRequestsBoot : Prop :=
  (∀ (s : State) (b : BootIn), s.power.held = false → s.power.flushing = none →
    exec (.warmReset b) s = .next (s.warmState.boot .warm b)
    ∧ BootLeaves s.warmState (s.warmState.boot .warm b) .warm b
    ∧ (let u := State.scrubState (State.warmState { s with security := { s.security with refused := false } })
      exec (.scrubReset b) s = .next (u.boot .scrub b) ∧ BootLeaves u (u.boot .scrub b) .scrub b)
    ∧ (s.ncl.up = true → exec (.nclReset s.ncl.epoch b) s
        = .next (State.boot (State.warmState { s with ncl := { s.ncl with ignored := false } }) .warm b))) ∧
  (∀ (s : State) (b : BootIn) (f : Flush), s.power.held = false → s.power.flushing = some f →
    s.power.resetPending = none →
    exec (.warmReset b) s = .next { s with power := { s.power with resetPending := some (.warm, b) } }
    ∧ exec (.scrubReset b) s = .next { s with
        power := { s.power with resetPending := some (.scrub, b) }, security := { s.security with refused := false } }
    ∧ (s.ncl.up = true → exec (.nclReset s.ncl.epoch b) s = .next { s with
        power := { s.power with resetPending := some (.warm, b) }, ncl := { s.ncl with ignored := false } })) ∧
  (∀ (s : State) (b : BootIn) (e : BitVec 32), s.ncl.up = true → e ≠ s.ncl.epoch →
    exec (.nclReset e b) s = .next { s with ncl := { s.ncl with ignored := true } }) ∧
  (∀ s : State, s.warmState.power.fatal = false ∧ s.warmState.power.issueStopped = false
    ∧ ∀ n, (s.warmState.blk n).enable = false ∧ (s.warmState.blk n).state = .disabled)

/-- POWER_UP_SEQUENCE (R498, R463): rails, then the boot phases of a cold boot, which leave what BootLeaves says. -/
def Obligations.PowerUpBootsOnce : Prop :=
  ∀ (s : State) (b : BootIn),
    (s.power.held = true → ∃ u : State, exec (.powerUpSequence b) s = .next (u.boot .cold b)
      ∧ u = { s with sites := u.sites
                     power := { s.power with held := false, hubRails := true, hbmRails := true, lpxRails := true } }
      ∧ (∀ i, i < 52 → u.site i
          = { s.siteFromFlash i with railOn := (s.siteFromFlash i).status != .quarantined, resetting := false })
      ∧ BootLeaves u (u.boot .cold b) .cold b) ∧
    (s.power.held = false → exec (.powerUpSequence b) s = .next s)

/-- R499, R457, R458: rails off, sheets frozen, one flush started; the end of the warning lifts its freezes. -/
def Obligations.PowerWarningFreezesTheSheets : Prop :=
  (∀ (s : State) (src : WarnSource), s.power.held = false → s.power.warning = false →
    ∃ t, exec (.powerLossWarning src) s = .next t
      ∧ t.power = { s.power with
          warning := true, hbmRails := false
          flushing := some (s.power.flushing.getD { reason := 1, turn := s.turns.now }) }
      ∧ (∀ i, i < 52 → t.site i = { s.site i with railOn := false })
      ∧ (∀ k, k < 5 → (t.sheet k).frozen = if (s.sheet k).frozen = .none then .powerWarning else (s.sheet k).frozen)
      ∧ t.mem = s.mem ∧ t.flash = s.flash ∧ t.cores = s.cores ∧ t.engines = s.engines) ∧
  (∀ s : State, s.power.warning = true → ∃ t, exec .powerWarningCleared s = .next t
      ∧ t.power = { s.power with warning := false }
      ∧ (∀ k, k < 5 → (t.sheet k).frozen = if (s.sheet k).frozen = .powerWarning then .none else (s.sheet k).frozen)
      ∧ t.sites = s.sites ∧ t.mem = s.mem ∧ t.flash = s.flash)

/-- R446, R451: what the fatal controller does on the three errors that arrive from outside the digital core. -/
def Obligations.FatalErrorsStopIssue : Prop :=
  ∀ (s : State) (rail sensor domain : BitVec 16) (mv : Word64) (celsius : W32), s.power.held = false →
    let stopped (code : BitVec 10) (t : State) : Prop :=
      t.power.fatal = true ∧ t.power.fatalCode = (if s.power.fatal then s.power.fatalCode else code)
        ∧ t.power.issueStopped = true ∧ t.power.flushing = some (s.power.flushing.getD { reason := 2, turn := s.turns.now })
        ∧ (∀ k, k < 5 → (t.sheet k).frozen ≠ .none)
        ∧ t.mem = s.mem ∧ t.cores = s.cores ∧ t.engines = s.engines ∧ t.blocks = s.blocks ∧ t.regs = s.regs
    (∃ t, exec (.railFault rail mv) s = .next t ∧ stopped 0x304 t ∧ t.energy = s.energy)
    ∧ (∃ t, exec (.clockLockLoss domain) s = .next t ∧ stopped 0x306 t ∧ t.energy = s.energy)
    ∧ ∃ t, exec (.junctionLimit sensor celsius) s = .next t ∧ stopped 0x305 t ∧ t.energy = { s.energy with clockMhz := 400 }

/-- R482, R483, R485: the four block states and what moves a block between them; R93 of a stopped engine; each of the
three commands completes for every block that can be reached. -/
def Obligations.EnableMovesTheBlock : Prop :=
  ∀ (s : State) (b : BitVec 16), let n := b.toNat
    (s.reachable n = false → ∀ v, ∃ t, exec (.enableWrite b v) s = .next t ∧ t.blocks = s.blocks ∧ t.regs = s.regs
      ∧ t.out = .accessFault 0 :: s.out ∧ t.counter bLpx 0x170 = s.counter bLpx 0x170 + 1) ∧
    (s.reachable n = true → ∀ e, blockOf n = some (.eng, e) → (s.engine e).arrayFault = true → (s.blk n).state = .enabled →
      ∃ t, exec (.enableWrite b false) s = .next t
        ∧ t.blk n = { s.blk n with enable := false, state := .disabled, wwe := false, ignoredOffset := 0 }
        ∧ (t.engine e).queue = [] ∧ ∀ m, m ≠ n → t.blk m = s.blk m) ∧
    (s.reachable n = true → ∀ tile u, bankBlock n = some (tile, u) → (s.blk n).state = .disabled →
      ∃ t, exec (.enableWrite b true) s = .next t
        ∧ (∀ i, i < bankCount tile → t.bank n i = { s.bank n i with
            mode := (s.bank n i).modeCfg, retain := (s.bank n i).retainCfg, filled := true
            power := if (s.bank n i).modeCfg = 0 then .off else .on })
        ∧ t = { s with blocks := t.blocks, banks := t.banks, once := t.once, mem := t.mem, poison := t.poison, upsets := t.upsets }) ∧
    (s.reachable n = true →
      (∀ v : Bool, ∃ t, exec (.enableWrite b v) s = .next t ∧ (t.blk n).enable = v ∧ ∀ m, m ≠ n → t.blk m = s.blk m)
      ∧ ((s.blk n).state = .enabling → ∃ t, exec (.enableComplete b) s = .next t
        ∧ (t.blk n).enable = (s.blk n).enable ∧ (t.blk n).state ≠ .enabling ∧ ∀ m, m ≠ n → t.blk m = s.blk m)
      ∧ ((s.blk n).state = .disabling → s.disableDone n = true → ∃ t, exec (.disableComplete b) s = .next t
        ∧ (bankBlock n = none → t = { s with blocks := t.blocks })
        ∧ t.blk n = { s.blk n with
            state := if (s.blk n).enable then .enabling else .disabled, wwe := false, ignoredOffset := 0 }
        ∧ ∀ m, m ≠ n → t.blk m = s.blk m)) ∧
    (s.reachable n = true → (∀ e, blockOf n = some (.eng, e) → (s.engine e).arrayFault = false) →
      ((s.blk n).state = .disabled → ∃ t, exec (.enableWrite b true) s = .next t
        ∧ (bankBlock n = none → t = { s with blocks := t.blocks })
        ∧ t.blk n = { s.blk n with enable := true, state := .enabling }
        ∧ ∀ m, m ≠ n → t.blk m = s.blk m)
      ∧ ((s.blk n).state = .enabled → ∃ t, exec (.enableWrite b false) s = .next t
        ∧ t.blk n = { s.blk n with enable := false, state := .disabling } ∧ ∀ m, m ≠ n → t.blk m = s.blk m)
      ∧ (∀ v : Bool, ((s.blk n).state = .enabling ∨ (s.blk n).state = .disabling ∨ ((s.blk n).state = .disabled ∧ v = false)
          ∨ ((s.blk n).state = .enabled ∧ v = true)) → ∃ t, exec (.enableWrite b v) s = .next t
        ∧ t = { s with blocks := t.blocks } ∧ t.blk n = { s.blk n with enable := v } ∧ ∀ m, m ≠ n → t.blk m = s.blk m)
      ∧ ((s.blk n).state = .enabling → ∃ t, exec (.enableComplete b) s = .next t
        ∧ t.blk n = { s.blk n with state := if (s.blk n).enable then .enabled else .disabling }
        ∧ ∀ m, m ≠ n → t.blk m = s.blk m))

/-- R487, R489: what a snapshot captures, and its number and turn. -/
def Obligations.SnapshotsCopyTheLiveCounters : Prop :=
  let captured (s t : State) (n : Nat) : Prop :=
    (∀ k u off, blockOf n = some (k, u) → off ∈ k.holds → Map.get t.holds (regKey n off) 0 = s.counter n off)
      ∧ t.blk n = { s.blk n with snapId := BitVec.ofNat 64 (s.snapNext + 1), snapTurn := s.turns.now }
  let rest (s t : State) : Prop := t = { s with snapNext := s.snapNext + 1, holds := t.holds, blocks := t.blocks }
  (∀ (s : State) (b : BitVec 16), s.reachable b.toNat = true →
    ∃ t, exec (.snapshotBlock b) s = .next t ∧ rest s t ∧ captured s t b.toNat
      ∧ (∀ c e, blockOf b.toNat = some (.core, c) → e < 4 → captured s t (bEng (4 * c + e)))
      ∧ ∀ m, m ∉ captureSet b.toNat → t.blk m = s.blk m) ∧
  (∀ (s : State) (b : BitVec 16), s.reachable b.toNat = false →
    ∃ t, exec (.snapshotBlock b) s = .next t ∧ t.holds = s.holds ∧ t.blocks = s.blocks ∧ t.snapNext = s.snapNext
      ∧ t.out = .accessFault 0 :: s.out ∧ t.counter bLpx 0x170 = s.counter bLpx 0x170 + 1) ∧
  (∀ s : State, ∃ t, exec .snapshotDevice s = .next t ∧ rest s t
      ∧ ∀ n ∈ allBlocks, s.reachable n = true → captured s t n)

/-- R9, R479, R480, R485: what a server core's write to a register does, by the access codes of its fields. -/
def Obligations.WritesActByAccessCode : Prop :=
  (∀ (s : State) (core : Fin 32) (b o : BitVec 16) (v : Word64) (k : Kind) (u : Nat),
    4 ≤ s.power.phase → (s.hart core).halted = false → s.reachable b.toNat = true → o.toNat % 8 = 0 → blockOf b.toNat = some (k, u) →
    s.namedRwd b.toNat k u o.toNat v ≠ [] → s.writable b.toNat k o.toNat = false →
    (∀ r ∈ s.fields k u o.toNat, r.acc ≠ .RW ∧ r.acc ≠ .WC) →
    exec (.registerWrite (.serverCore core) b o v) s
      = .next (s.setBlk b.toNat { s.blk b.toNat with wwe := true, ignoredOffset := o })) ∧
  (∀ (s : State) (core : Fin 32) (c : CoreIx) (v : Word64), 4 ≤ s.power.phase → (s.hart core).halted = false → s.reachable (bCore c) = true →
    s.isDisabled (bCore c) = true →
    ∃ t, exec (.registerWrite (.serverCore core) (BitVec.ofNat 16 (bCore c)) 0x100 v) s = .next t
      ∧ t = { s with regs := t.regs } ∧ t.fld (bCore c) 0x100 6 46 = bitsOf v.toNat 6 46
      ∧ ∀ n off, regKey n off ≠ regKey (bCore c) 0x100 → t.reg n off = s.reg n off) ∧
  (∀ (s : State) (core : Fin 32) (tile : TileIx) (v : Word64), 4 ≤ s.power.phase → (s.hart core).halted = false →
    ∃ t, exec (.registerWrite (.serverCore core) (BitVec.ofNat 16 (bBond tile)) 0x100 v) s = .next t
      ∧ t = { s with regs := t.regs } ∧ t.fld (bBond tile) 0x100 4 1 = bitsOf v.toNat 4 1
      ∧ t.fld (bBond tile) 0x100 0 4
        = (if bitsOf v.toNat 0 4 ≤ 12 then bitsOf v.toNat 0 4 else s.fld (bBond tile) 0x100 0 4)
      ∧ (t.regRead (bBond tile) 0x100).toNat = t.fld (bBond tile) 0x100 0 4 + 16 * t.fld (bBond tile) 0x100 4 1
      ∧ ∀ n off, regKey n off ≠ regKey (bBond tile) 0x100 → t.reg n off = s.reg n off) ∧
  (∀ (s : State) (core : Fin 32) (b : BitVec 16) (v : Word64) (e : PlinkEnd), 4 ≤ s.power.phase → (s.hart core).halted = false →
    (s.reachable b.toNat = true →
      exec (.registerWrite (.serverCore core) b 0x008 v) s = exec (.enableWrite b (v.getLsbD 0)) s
      ∧ exec (.registerWrite (.serverCore core) b 0x018 1) s = exec (.snapshotBlock b) s
      ∧ exec (.registerWrite (.serverCore core) b 0x018 2) s = exec .snapshotDevice s)
    ∧ exec (.registerWrite (.serverCore core) (BitVec.ofNat 16 (bPlink e)) 0x108 v) s =
      (if bitsOf v.toNat 0 2 = 1 then exec (.plinkRetrain e) s else if bitsOf v.toNat 0 2 = 2 then exec (.plinkRestore e) s
        else .next s)) ∧
  (∀ (s : State) (core : Fin 32) (b o : BitVec 16) (v : Word64) (k : Kind) (u : Nat),
    4 ≤ s.power.phase → (s.hart core).halted = false → s.reachable b.toNat = true → o.toNat % 8 = 0 →
    blockOf b.toNat = some (k, u) →
    (∀ r ∈ s.fields k u o.toNat, r.acc ≠ .WC
      ∧ (r.acc = .RWD ∨ r.acc = .RW → reservedValue k r (bitsOf v.toNat r.lo r.width) = true)) →
    exec (.registerWrite (.serverCore core) b o v) s = .next s
      ∧ (s.fields k u o.toNat = [] → o.toNat ∉ k.holds → s.regRead b.toNat o.toNat = 0))

/-- R318, R477, R483, R505: register accesses of a server core that no register answers, and loads that one does. -/
def Obligations.UnreachableRegistersFault : Prop :=
  ∀ (s : State) (core : Fin 32) (b o : BitVec 16) (v a : Word64) (bytes : Nat), 4 ≤ s.power.phase →
    let n := (a.toNat - regBase) / 65536
    let faults (t : State) : Prop := t.regs = s.regs ∧ t.blocks = s.blocks
      ∧ t.out = .accessFault core :: s.out ∧ t.counter bLpx 0x170 = s.counter bLpx 0x170 + 1 ∧ t.mem = s.mem
    ((s.hart core).halted = true → exec (.registerWrite (.serverCore core) b o v) s = .next s
      ∧ exec (.registerRead (.core core a bytes)) s = .next s) ∧
    ((s.hart core).halted = false →
      (s.reachable b.toNat = false ∨ o.toNat % 8 ≠ 0 →
        ∃ t, exec (.registerWrite (.serverCore core) b o v) s = .next t ∧ faults t)
      ∧ (∃ t, exec (.registerWrite (.narrowStore core) b o v) s = .next t ∧ faults t)
      ∧ (regBase ≤ a.toNat → a.toNat < regEnd →
        (bytes ≠ 8 ∨ a.toNat % 8 ≠ 0 ∨ s.reachable n = false →
          ∃ t, exec (.registerRead (.core core a bytes)) s = .next t ∧ faults t)
        ∧ (bytes = 8 → a.toNat % 8 = 0 → s.reachable n = true → s.cluWaits a.toNat = false →
          exec (.registerRead (.core core a bytes)) s
            = .next (s.emit (.loadData core (s.regRead n ((a.toNat - regBase) % 65536)))))
        ∧ (bytes = 8 → a.toNat % 8 = 0 → s.reachable n = true → s.cluWaits a.toNat = true →
          exec (.registerRead (.core core a bytes)) s = .next { s with cluReads := s.cluReads ++ [(a.toNat, some core.val)] })))

/-- R501, R459, R161: read and write frames of the register port. -/
def Obligations.RegisterPortAnswers : Prop :=
  ∀ (s : State) (a v : Word64),
    let k := (a.toNat - regBase) / 65536
    let o := (a.toNat - regBase) % 65536
    let inside : Prop := a.toNat % 8 = 0 ∧ regBase ≤ a.toNat ∧ a.toNat < regEnd
    let answers : Prop := s.reachable k = true ∧ mailbox k o = false
    (¬ inside → exec (.registerRead (.port a)) s = .next (s.emit (.portStatus 3 (List.replicate 8 0)))
      ∧ exec (.registerPortWrite a v) s = .next (s.emit (.portStatus 3 []))) ∧
    (inside → s.power.held = true → exec (.registerRead (.port a)) s = .next (s.emit (.portStatus 1 (List.replicate 8 0)))
      ∧ exec (.registerPortWrite a v) s = .next (s.emit (.portStatus 1 []))) ∧
    (inside → s.power.held = false → answers →
      (s.cluWaits a.toNat = false → exec (.registerRead (.port a)) s = .next (s.emit (.portStatus 0 (leBytes 8 (s.regRead k o).toNat))))
      ∧ exec (.registerPortWrite a v) s = .next ((s.regWrite .managementPort k o v).emit (.portStatus 0 []))) ∧
    (inside → s.power.held = false → ¬ answers →
      exec (.registerPortWrite a v) s = .next ((s.unmappedLine 0x1133 a.toNat).emit (.portStatus 2 []))
      ∧ (s.cluWaits a.toNat = false → ∃ t, exec (.registerRead (.port a)) s = .next t ∧ t.out = .portStatus 2 (List.replicate 8 0) :: s.out
        ∧ t.counter bLpx 0x170 = s.counter bLpx 0x170 + 1 ∧ t.regs = s.regs ∧ t.mem = s.mem)) ∧
    (s.cluWaits a.toNat = true → exec (.registerRead (.port a)) s = .next { s with cluReads := s.cluReads ++ [(a.toNat, none)] }) ∧
    (∀ target : BitVec 7, let row (bytes : List Byte) := exec (.registerRead (.frame target bytes)) s
      (target.toNat ≠ (0x40 + s.power.addr.toNat) ∧ s.power.regAddress ≠ some target → ∀ bytes, row bytes = .next s) ∧
      (target.toNat = 0x40 + s.power.addr.toNat ∨ s.power.regAddress = some target →
        row (1 :: leBytes 8 a.toNat) = exec (.registerRead (.port a)) s
        ∧ row (2 :: (leBytes 8 a.toNat ++ leBytes 8 v.toNat)) = exec (.registerPortWrite a v) s
        ∧ (∀ (off : BitVec 32) (len : BitVec 16),
          row (3 :: (leBytes 4 off.toNat ++ leBytes 2 len.toNat)) = exec (.flashRead off len) s)
        ∧ row [] = .next (s.emit (.portStatus 3 []))
        ∧ ∀ (opcode : Byte) (args : List Byte),
          (opcode = 1 ∧ args.length ≠ 8 ∨ opcode = 2 ∧ args.length ≠ 16 ∨ opcode = 3 ∧ args.length ≠ 6 ∨ 3 < opcode.toNat ∨ opcode = 0) →
          row (opcode :: args) = .next (s.emit (.portStatus 3 []))))

/-- R401: the host's accesses through the control window. -/
def Obligations.ControlWindowReservedOffsets : Prop :=
  ∀ (s : State) (o : BitVec 16) (v : Word64),
    (s.ncl.up = false → ∀ w, exec (.controlWindowAccess w o v) s = .next s) ∧
    (s.ncl.up = true → s.windowReserved o.toNat = true →
      exec (.controlWindowAccess false o v) s = .next (s.emit (.nclReadData 0))
      ∧ exec (.controlWindowAccess true o v) s = .next (s.count bNcl 0x158 1)) ∧
    (s.ncl.up = true → s.windowReserved o.toNat = false →
      exec (.controlWindowAccess false o v) s = .next (s.emit (.nclReadData (s.regRead bNcl o.toNat)))
      ∧ exec (.controlWindowAccess true o v) s = .next (s.regWrite .host bNcl o.toNat v)) ∧
    (∀ off, 0x3000 ≤ off → off < 0x3040 → s.windowReserved off = true)

/-- R454, R455, R457, R458: records written, freezes lifted, and a flush asked for. TURN is taken at the write (log entry 68). -/
def Obligations.SheetsWriteInSequence : Prop :=
  (∀ (s : State) (k : TrnIx) (r : Record) (rest : List Record), (s.sheet k).queue = r :: rest →
    (s.sheet k).frozen = .none → (s.sheet k).dropped = 0 →
    ∃ t, exec (.scoreRecordWrite k) s = .next t
      ∧ t.sheet k = { s.sheet k with
          queue := rest, nextSeq := (s.sheet k).nextSeq + 1
          records := ({ r with seq := (s.sheet k).nextSeq, turn := s.turns.now } :: (s.sheet k).records).take (sheetSize k) }
      ∧ (∀ j, j ≠ k.val → t.sheet j = s.sheet j)
      ∧ t.counter (bSsh k) 0x180 = s.counter (bSsh k) 0x180 + 1
      ∧ t = { s with sheets := t.sheets, counters := t.counters, out := t.out }) ∧
  (∀ (s : State) (k : TrnIx) (r : Record) (rest : List Record), (s.sheet k).queue = r :: rest →
    (s.sheet k).frozen = .none → (s.sheet k).dropped ≠ 0 → rest.length < 64 →
    ∃ t, exec (.scoreRecordWrite k) s = .next t ∧ (t.sheet k).queue = rest ∧ (t.sheet k).dropped = 0
      ∧ (t.sheet k).nextSeq = (s.sheet k).nextSeq + 2
      ∧ ((t.sheet k).records.take 2).map (fun x => (x.event, x.seq, x.turn))
        = [(0x021E, (s.sheet k).nextSeq + 1, s.turns.now), (r.event, (s.sheet k).nextSeq, s.turns.now)]
      ∧ ((t.sheet k).records.head?).map (fun x => (x.arg0, x.arg1))
        = some (BitVec.ofNat 32 (s.sheet k).dropped, (s.sheet k).droppedTurn)
      ∧ t.counter (bSsh k) 0x180 = s.counter (bSsh k) 0x180 + 2) ∧
  (∀ (s : State) (k : TrnIx), s.power.fatal = false → (s.sheet k).frozen ≠ .none →
    ∃ t, exec (.unfreeze k) s = .next t ∧ (t.sheet k).frozen = .none
      ∧ ((t.sheet k).records.head?).map (fun r => (r.event, r.arg0)) = some (0x0005, BitVec.ofNat 32 (s.sheet k).frozen.code)
      ∧ (t.sheet k).queue = (s.sheet k).queue ∧ (∀ j, j ≠ k.val → t.sheet j = s.sheet j)
      ∧ t = { s with sheets := t.sheets, counters := t.counters, out := t.out }) ∧
  (∀ (s : State) (k : TrnIx), s.power.fatal = true → exec (.unfreeze k) s = .next s) ∧
  ∀ s : State,
    (s.power.held = true → exec .flush s = .next s) ∧
    (s.power.held = false → s.power.flushing = none →
      exec .flush s = .next { s with power := { s.power with flushing := some { reason := 3, turn := s.turns.now } } }) ∧
    (∀ f, s.power.flushing = some f → exec .flush s = .next s)

/-- R471, R472, R502, R507: attestation reports, and the endpoint's other requests. -/
def Obligations.AttestationNeedsIdentity : Prop :=
  (∀ s : State, s.security.busy = false → s.attestBusy = true →
    exec .attest s = .next { s with security := { s.security with refused := true } }) ∧
  ∀ (s : State) (nonce : List Byte), s.attestBusy = false → nonce.length = 32 →
    (s.security.identityOk = false →
      exec .attest s = .next { s with security := { s.security with refused := true } }
      ∧ (8 ≤ s.power.phase → exec (.getAttestation (.attestation nonce)) s = .next (s.emit (.pldmResponse false [])))) ∧
    (s.security.identityOk = true →
      (∀ c, s.loader.busy = some c →
        exec .attest s = .next { s with security := { s.security with busy := true, refused := false } }
        ∧ (8 ≤ s.power.phase → exec (.getAttestation (.attestation nonce)) s
          = .next { s with security := { s.security with asked := s.security.asked ++ [nonce] } }))
      ∧ (s.loader.busy = none → s.hostFull s.reportAddr 3840 = false → ∃ t u, exec .attest s = .next t
        ∧ u = { s with security := { s.security with refused := false }, fresh := s.fresh + 3341 }
        ∧ t = (u.writeRun 0x1132 s.reportAddr (PBytes.clean (s.report s.nonceBytes))).count bSec 0x240 1)
      ∧ (s.loader.busy = none → 8 ≤ s.power.phase → exec (.getAttestation (.attestation nonce)) s
          = .next { s with
              fresh := s.fresh + 3341
              out := ((List.range 15).map fun i => .pldmResponse true (((s.report nonce).drop (256 * i)).take 256)).reverse ++ s.out })
      ∧ (s.report nonce).length = 3840 ∧ (s.report nonce).take 512 = s.reportBody nonce
      ∧ (s.report nonce).drop 3821 = List.replicate 19 0) ∧
    (8 ≤ s.power.phase → exec (.getAttestation .types) s = .next (s.emit (.pldmResponse true [0x25, 0, 0, 0, 0, 0, 0, 0x80]))
      ∧ ∀ n : Byte, (72 ≤ n.toNat → n.toNat < 88 → exec (.getAttestation (.sensor n)) s
          = .next (s.emit (.pldmResponse true (leBytes 8 (s.dram (n.toNat - 72)).tempC.toNat))))
        ∧ (n.toNat < 72 ∨ 88 ≤ n.toNat ∧ n.toNat < 99 → ∃ v : Word64, exec (.getAttestation (.sensor n)) s
          = .next (State.emit { s with fresh := s.fresh + 1 } (.pldmResponse true (leBytes 8 v.toNat))))
        ∧ (99 ≤ n.toNat → exec (.getAttestation (.sensor n)) s = .next (s.emit (.pldmResponse false []))))

/-- R465, R466: recovery over NCL. -/
def Obligations.RecoveryRunsAGoodImageOnly : Prop :=
  ∀ s : State,
    (s.security.recovWaiting = false → s.security.recovReading = false → exec .recovGo s = .next s) ∧
    (s.security.recovWaiting = true → s.ncl.up = false →
      exec .recovGo s = .next { s with security := { s.security with recovReading := true } }) ∧
    (s.security.recovWaiting = true → s.ncl.up = true → ∀ (u : State) (img : PBytes), s.recoveryImage = (u, img) →
      (∀ r, s.firmwareReason img.data = some r →
        exec .recovGo s = .next { u with security := { s.security with recovReading := false, recovReason := r } })
      ∧ (s.firmwareReason img.data = none → img.anyPoison = true →
        exec .recovGo s = .next { u with security := { s.security with recovReading := false, recovReason := 5 } })
      ∧ (s.firmwareReason img.data = none → img.anyPoison = false → ∃ t, exec .recovGo s = .next t
        ∧ t = (State.measure { u with power := { u.power with fatal := false, issueStopped := false } } img.data
            true).bootOn u.power.bootKind u.power.boot
        ∧ t.power.phase = 9 ∧ t.security.fwVerified = true ∧ t.security.recovery = true ∧ t.security.recovWaiting = false
        ∧ t.security.startAt = some (fieldLe img.data 24 8)
        ∧ t.security.fwDigest = (img.data.drop (2048 + fieldLe img.data 16 8)).take 64
        ∧ ∀ n ∈ firmwareBlocks, (t.blk n).enable = true ∧ (t.blk n).state = .enabled))

/-- R459, R501 to R503: module flash as the management bus reaches it, and the two dynamic addresses. An update cut off
leaves the area erased (log entry 59). -/
def Obligations.FlashPortReadsAndUpdates : Prop :=
  (∀ (s : State) (off : BitVec 32) (n : BitVec 16), exec (.flashRead off n) s = .next (s.emit
    (if 1 ≤ n.toNat ∧ n.toNat ≤ 256 ∧ off.toNat + n.toNat ≤ 0x4000000 then .portStatus 0 (s.flashRead off.toNat n.toNat)
      else .portStatus 3 []))) ∧
  (∀ (s : State) (image : List Byte) (done : Bool), 8 ≤ s.power.phase → image.length ≤ imageArea →
    ∃ t, exec (.firmwareUpdate image done) s = .next t
      ∧ t = { s with flash := t.flash, power := { s.power with updateFailed := !done } }
      ∧ ∀ a, Map.get t.flash a flashErased = if imageArea ≤ a then Map.get s.flash a flashErased
          else if done then image.getD a flashErased else flashErased) ∧
  (∀ (s : State) (a : BitVec 7),
    exec (.dynamicAddress false a) s = .next { s with power := { s.power with regAddress := some a } }
    ∧ (8 ≤ s.power.phase →
      exec (.dynamicAddress true a) s = .next { s with power := { s.power with endpointAddress := some a } }))

/-- R505: the debugger's access to the harts. -/
def Obligations.TestPortHaltsHarts : Prop :=
  (∀ (s : State) (c : Fin 32), s.power.held = false → ∃ t, exec (.testAccessPort (.dmiHalt c)) s = .next t
    ∧ (t.hart c).halted = true ∧ (t.hart c).regs = (s.hart c).regs ∧ (∀ d, d ≠ c.val → t.hart d = s.hart d)
    ∧ t = { s with harts := t.harts, tap := t.tap }) ∧
  (∀ (s : State) (c : Fin 32), s.power.held = false → ∃ t, exec (.testAccessPort (.dmiResume c)) s = .next t
    ∧ (t.hart c).halted = false ∧ (∀ d, d ≠ c.val → t.hart d = s.hart d) ∧ t = { s with harts := t.harts, tap := t.tap }) ∧
  (∀ (s : State) (c : Fin 32) (r : BitVec 16) (v : Word64), s.power.held = false → (s.hart c).halted = true →
    ∃ t u, exec (.testAccessPort (.dmiRegWrite c r v)) s = .next t ∧ t = { s with harts := t.harts, tap := t.tap }
      ∧ exec (.testAccessPort (.dmiRegRead c r)) t = .next u ∧ u = { t with out := .tdo v :: t.out }) ∧
  (∀ (s : State) (cells : PinCells),
    (∃ t v, exec (.testAccessPort (.extest cells)) s = .next t ∧ t.tap.cells = cells ∧ t.faultN = cells.faultN
      ∧ t = { s with
          tap := t.tap, fresh := s.fresh + 1
          out := .pinLevels s.faultN false s.power.boot.cool s.power.boot.addr v :: s.out })
    ∧ ∃ t v, exec (.testAccessPort (.samplePreload cells)) s = .next t ∧ t.tap.cells = cells ∧ t.faultN = !s.power.fatal
      ∧ t.out.head? = some (.pinLevels (!s.power.fatal) false s.power.boot.cool s.power.boot.addr v)
      ∧ t = { s with tap := t.tap, fresh := s.fresh + 1, out := t.out }) ∧
  (∀ (s : State) (scan : Word64), (∃ t, exec (.testAccessPort (.bypass scan)) s = .next t ∧ t.faultN = !s.power.fatal
      ∧ t = { s with tap := { s.tap with ir := 0 }, out := .tdo (scan <<< 1) :: s.out })
    ∧ ∃ t, exec (.testAccessPort .trst) s = .next t ∧ t.faultN = !s.power.fatal
      ∧ t = { s with tap := t.tap } ∧ t.tap.ir = 1) ∧
  (∀ (s : State) (c : Fin 32) (r : BitVec 16) (v : Word64) (a : Nat), s.power.held = true →
    ∀ op, op ∈ [TapOp.dmiHalt c, .dmiResume c, .dmiRegRead c r, .dmiRegWrite c r v, .dmiBusRead a, .dmiBusWrite a v] →
      ∃ t, exec (.testAccessPort op) s = .next t ∧ t = { s with tap := t.tap })

/-- R125, R128, R129, R135, R137: what comes before the sequencer of a core, for every instruction of `coreRows`. -/
def Obligations.InstructionsIssueRefuseOrWait : Prop :=
  ∀ (s : State) (core : CoreIx) (row : Instr × CoreOp), row ∈ coreRows core →
    let c := s.core core
    let a := c.insnBase + 16 * c.pc.toNat
    let n := min 64 (c.insnCount - c.pc.toNat)
    let stopped (code : Nat) (t : State) : Prop :=
      t.core core = { c with stopped := true, stopCode := BitVec.ofNat 8 code, stopIndex := c.pc, held := false }
        ∧ (∀ n : Nat, n ≠ core → t.core n = s.core n) ∧ t.mem = s.mem ∧ t.engines = s.engines
    (s.coreRuns core = false → exec row.1 s = .next s) ∧
    (s.coreIssues core = false → exec row.1 s = .next (s.fetchAhead core)) ∧
    (s.coreIssues core = true ↔ s.coreRuns core = true ∧ c.waiting = none) ∧
    (∀ w op, s.fetched core = .word w → opOf w = some op → op ≠ row.2 → exec row.1 s = .next s) ∧
    (s.coreIssues core = true → c.insnCount ≤ c.pc.toNat → ∃ t, exec row.1 s = .next t ∧ stopped 8 t) ∧
    (s.coreIssues core = true → c.pc.toNat < c.insnCount →
      (∀ w, c.wordAt c.pc.toNat = some (w, true) → ∃ t, exec row.1 s = .next t ∧ stopped 2 t) ∧
      (∀ w, c.wordAt c.pc.toNat = some (w, false) → opOf w = some row.2 → Presents s core row.2 w) ∧
      (∀ w, c.wordAt c.pc.toNat = some (w, false) → opOf w = none → ∃ t, exec row.1 s = .next t ∧ stopped 2 t) ∧
      (c.wordAt c.pc.toNat = none → s.hostWaits a (16 * n) = true →
        exec row.1 s = .next { s with ncl := { s.ncl with waiting := setAdd s.ncl.waiting (8 * core) } }) ∧
      (c.wordAt c.pc.toNat = none → s.hostWaits a (16 * n) = false →
        ((s.fetchAhead core).core core).wordAt c.pc.toNat ≠ none ∧ exec row.1 s = exec row.1 (s.fetchAhead core)))

/-- R155: the seven control instructions, with everything they leave unchanged. -/
def Obligations.ControlInstructions : Prop :=
  ∀ (s : State) (core : CoreIx) (w : Nat),
    let c := s.core core
    let after (c1 : Core) (next : Nat) : Core := { c1 with pc := BitVec.ofNat 48 next, held := false }
    let one := s.nextPc core
    let sum : W32 := c.scalar (insnSa w) + BitVec.ofNat 32 (insnImm w)
    let left : W32 := c.scalar (insnSa w) - 1
    (Presents s core .nop w → ∃ t, exec (.nop core) s = .next t ∧ OnlyCore s t core (after c one)) ∧
    (Presents s core .halt w → ∃ t, exec (.halt core) s = .next t ∧ OnlyCore s t core (after { c with halted := true } one)) ∧
    (Presents s core .sets w → ∃ t, exec (.sets core) s = .next t
      ∧ OnlyCore s t core (after (if insnSd w = 0 then c else
          { c with scalars := Map.put c.scalars (insnSd w) (BitVec.ofNat 32 (insnImm w)) 0 }) one)) ∧
    (Presents s core .adds w → ∃ t, exec (.adds core) s = .next t
      ∧ OnlyCore s t core (after (if insnSd w = 0 then c else { c with scalars := Map.put c.scalars (insnSd w) sum 0 }) one)) ∧
    (Presents s core .loop w → insnSa w ≠ 0 → ∀ target, s.branchTarget core w = some target →
      ∃ t, exec (.loop core) s = .next t ∧ OnlyCore s t core
        (after { c with scalars := Map.put c.scalars (insnSa w) left 0 } (if left = 0 then one else target))) ∧
    (Presents s core .loop w → insnSa w = 0 → exec (.loop core) s = .next (s.refuse core 2)) ∧
    (Presents s core .loop w → insnSa w ≠ 0 → s.branchTarget core w = none → exec (.loop core) s = .next (s.refuse core 8)) ∧
    (Presents s core .jump w → ∀ target, s.branchTarget core w = some target →
      ∃ t, exec (.jump core) s = .next t ∧ OnlyCore s t core (after c target)) ∧
    (Presents s core .jump w → s.branchTarget core w = none → exec (.jump core) s = .next (s.refuse core 8)) ∧
    (Presents s core .barrier w → (∀ p ∈ s.pendingOps core, unitIn (insnUnits w) p.unit = false) → c.sigq = [] →
      ∃ t, exec (.barrier core) s = .next t ∧ OnlyCore s t core (after c one)) ∧
    (Presents s core .barrier w → ((∃ p ∈ s.pendingOps core, unitIn (insnUnits w) p.unit = true) ∨ c.sigq ≠ []) →
      exec (.barrier core) s = .next (s.setCore core { c with held := true }) ∧ s.stallNow core &&& stBarrier = stBarrier)

/-- R144, R145, R147: the lane-by-lane operations; each result is the operation's own, rounded once to the mode's format. -/
def Obligations.VectorLanesAreWritten : Prop :=
  ∀ (s : State) (core : CoreIx) (w : Nat),
    let c := s.core core
    let f := vFmt w
    let va := c.lanes w (vVa w)
    let vb := c.lanesB w
    let vc := c.lanes w (vVc w)
    let one (g : FVal → Res) : List (Res × Bool) := va.map fun x => (g x.1, x.2)
    let two (g : FVal → FVal → Res) : List (Res × Bool) := (va.zip vb).map fun x => (g x.1.1 x.2.1, x.1.2 || x.2.2)
    let three : List (Res × Bool) := (va.zip (vb.zip vc)).map fun x =>
      (arith f (FVal.add (FVal.mul x.1.1 x.2.1.1) x.2.2.1), x.1.2 || x.2.1.2 || x.2.2.2)
    let pick : List (Res × Bool) := ((va.zip vb).zip (List.range (va.zip vb).length)).map fun x =>
      (arith f (if (c.maskBit (vMreg w) x.2).1 then x.1.1.1 else x.1.2.1),
        (if (c.maskBit (vMreg w) x.2).1 then x.1.1.2 else x.1.2.2) || (c.maskBit (vMreg w) x.2).2)
    let done (rs : List (Res × Bool)) (t : State) : Prop :=
      Issued s t core { c.writeLanes w (vVd w) (c.masked w rs) with sticky := Flags.or c.sticky (laneFlags (c.masked w rs)) }
        ∧ t = { paidFrame s t with cores := t.cores }
    (s.stallsFor core none none true [(4, core / 8, 1)] = 0 →
      (Presents s core .add w → ∃ t, exec (.add core) s = .next t ∧ done (two fun a b => arith f (FVal.add a b)) t) ∧
      (Presents s core .sub w → ∃ t, exec (.sub core) s = .next t ∧ done (two fun a b => arith f (FVal.sub a b)) t) ∧
      (Presents s core .mul w → ∃ t, exec (.mul core) s = .next t ∧ done (two fun a b => arith f (FVal.mul a b)) t) ∧
      (Presents s core .min w → ∃ t, exec (.min core) s = .next t ∧ done (two fun a b => arith f (FVal.min a b)) t) ∧
      (Presents s core .max w → ∃ t, exec (.max core) s = .next t ∧ done (two fun a b => arith f (FVal.max a b)) t) ∧
      (Presents s core .fma w → ∃ t, exec (.fma core) s = .next t ∧ done three t) ∧
      (Presents s core .abs w → ∃ t, exec (.abs core) s = .next t ∧ done (one fun a => arith f a.abs) t) ∧
      (Presents s core .neg w → ∃ t, exec (.neg core) s = .next t ∧ done (one fun a => arith f a.neg) t) ∧
      (Presents s core .sel w → ∃ t, exec (.sel core) s = .next t ∧ done pick t)) ∧
    (vBf16 w = false → s.stallsFor core none none true [(5, core / 8, 1)] = 0 →
      (Presents s core .exp w → ∃ t, exec (.exp core) s = .next t ∧ done (one fun a => exp32 (arith32 a).1) t) ∧
      (Presents s core .log w → ∃ t, exec (.log core) s = .next t ∧ done (one fun a => log32 (arith32 a).1) t) ∧
      (Presents s core .rcp w → ∃ t, exec (.rcp core) s = .next t ∧ done (one fun a => rcp32 (arith32 a).1) t) ∧
      (Presents s core .rsqrt w → ∃ t, exec (.rsqrt core) s = .next t ∧ done (one fun a => rsqrt32 (arith32 a).1) t) ∧
      (Presents s core .tanh w → ∃ t, exec (.tanh core) s = .next t ∧ done (one fun a => tanh32 (arith32 a).1) t)) ∧
    (vBf16 w = true →
      (Presents s core .exp w → exec (.exp core) s = .next (s.refuse core 2)) ∧
      (Presents s core .log w → exec (.log core) s = .next (s.refuse core 2)) ∧
      (Presents s core .rcp w → exec (.rcp core) s = .next (s.refuse core 2)) ∧
      (Presents s core .rsqrt w → exec (.rsqrt core) s = .next (s.refuse core 2)) ∧
      (Presents s core .tanh w → exec (.tanh core) s = .next (s.refuse core 2)))

/-- R42, R114, R145: the operations that write masks, and the two reductions. -/
def Obligations.VectorComparesAndReductions : Prop :=
  ∀ (s : State) (core : CoreIx) (w : Nat),
    let c := s.core core
    let va := c.lanes w (vVa w)
    let ab := va.zip (c.lanesB w)
    let rows (rel : FVal → FVal → Bool) : List (Option (Bool × Bool)) := (ab.zip (List.range ab.length)).map fun x =>
      if (c.laneMask w x.2).1 then some (rel x.1.1.1 x.1.2.1, x.1.1.2 || x.1.2.2 || (c.laneMask w x.2).2) else none
    let compared (rel : FVal → FVal → Bool) (t : State) : Prop :=
      Issued s t core (c.writeMask (vVd w % 8) (rows rel)) ∧ t = { paidFrame s t with cores := t.cores }
    let present : List (Option FVal) :=
      (va.zip (List.range va.length)).map fun x => if (c.laneMask w x.2).1 then some x.1.1 else none
    let bad : Bool := (va.zip (List.range va.length)).any fun x => ((c.laneMask w x.2).1 && x.1.2) || (c.laneMask w x.2).2
    let reduced (r : Res) (t : State) : Prop :=
      let out := c.masked w (List.replicate (vLanes w) (r, bad))
      Issued s t core { c.writeLanes w (vVd w) out with sticky := Flags.or c.sticky (laneFlags out) }
        ∧ t = { paidFrame s t with cores := t.cores }
    (s.stallsFor core none none true [(4, core / 8, 1)] = 0 →
      (Presents s core .cmplt w → ∃ t, exec (.cmplt core) s = .next t ∧ compared FVal.lt t) ∧
      (Presents s core .cmple w → ∃ t, exec (.cmple core) s = .next t ∧ compared (fun a b => FVal.lt a b || FVal.eq a b) t) ∧
      (Presents s core .cmpeq w → ∃ t, exec (.cmpeq core) s = .next t ∧ compared FVal.eq t) ∧
      (Presents s core .cmpne w → ∃ t, exec (.cmpne core) s = .next t ∧ compared (fun a b => !FVal.eq a b) t)) ∧
    (s.stallsFor core none none true [(6, core / 8, 1)] = 0 →
      (Presents s core .redsum w → ∃ t, exec (.redsum core) s = .next t ∧ reduced (redSum w present) t) ∧
      (Presents s core .redmax w → ∃ t, exec (.redmax core) s = .next t ∧ reduced (redMax w present) t))

/-- R144, R449: the frame of a register write, byte by byte, and of a mask write, bit by bit. -/
def Obligations.LanesAndMasksKeepTheRest : Prop :=
  (∀ (c : Core) (w reg k : Nat) (rs : List OutLane), rs.length = vLanes w → (k < 1024 * reg ∨ 1024 * reg + 1024 ≤ k) →
    Map.get (c.writeLanes w reg rs).vregs k 0 = Map.get c.vregs k 0) ∧
  (∀ (c : Core) (w reg i j : Nat) (rs : List OutLane), Memory.wf c.vregs = true → rs.length = vLanes w → i < vLanes w →
    j < (vFmt w).size →
    Map.get (c.writeLanes w reg rs).vregs (1024 * reg + i * (vFmt w).size + j) 0 =
      match rs.getD i none with
      | some (r, false) => BitVec.ofNat 8 (r.1 / 256 ^ j)
      | _ => Map.get c.vregs (1024 * reg + i * (vFmt w).size + j) 0) ∧
  (∀ (c : Core) (m n : Nat) (rs : List (Option (Bool × Bool))), n ≠ m →
    Map.get (c.writeMask m rs).masks n 0 = Map.get c.masks n (0 : BitVec 512)) ∧
  (∀ (c : Core) (m i : Nat) (rs : List (Option (Bool × Bool))), rs.length ≤ 512 → i < 512 →
    (Map.get (c.writeMask m rs).masks m (0 : BitVec 512)).getLsbD i =
      match rs.getD i none with
      | some (b, false) => b
      | _ => (Map.get c.masks m (0 : BitVec 512)).getLsbD i)

/-- R134, R145: the two vector operations that reach memory, with the frame of the store by byte. -/
def Obligations.VectorLoadAndStore : Prop :=
  ∀ (s : State) (core : CoreIx) (w : Nat),
    let c := s.core core
    (vTensor c w = none → (Presents s core .vload w → exec (.vectorLoad core) s = .next (s.refuse core 3)) ∧
      (Presents s core .vstore w → exec (.vectorStore core) s = .next (s.refuse core 3))) ∧
    ∀ tn, vTensor c w = some tn →
      let row := vRow c w
      let m := if row < tn.extent 1 then Nat.min (vLanes w) (tn.extent 0) else 0
      let at0 := scratchKey core (tn.addr 0 row 0 0).toNat
      let fmt := tn.format.getD .fp32
      (Presents s core .vload w → s.stallsFor core (vReach c w tn) none true [(4, core / 8, 1)] = 0 →
        ∃ t, exec (.vectorLoad core) s = .next t
          ∧ t = { paidFrame s t with cores := t.cores, banks := t.banks, mem := t.mem, poison := t.poison, upsets := t.upsets }
          ∧ (∀ k, sameByte s t k) ∧ (∀ n : Nat, n ≠ core → t.core n = s.core n)
          ∧ (scratchServes s core → errorFree s → Memory.wf s.mem = true →
              let lane (i : Nat) : Res × Bool :=
                if i < m then
                  let bs := s.readKey (at0 + i * tn.esize) tn.esize
                  (convertElem fmt (leNat bs.data) tn.scale (vFmt w) 127 (vTrunc w) c.satMode, bs.anyPoison)
                else ((0, .none), false)
              let out := c.masked w ((List.range (vLanes w)).map lane)
              Issued s t core { c.writeLanes w (vVd w) out with sticky := Flags.or c.sticky (laneFlags out) })) ∧
      (Presents s core .vstore w → s.stallsFor core none (vReach c w tn) true [(4, core / 8, 1)] = 0 →
        ∃ t, exec (.vectorStore core) s = .next t
          ∧ t = { paidFrame s t with cores := t.cores, banks := t.banks, mem := t.mem, poison := t.poison, upsets := t.upsets }
          ∧ Issued s t core { c with sticky := (t.core core).sticky }
          ∧ (∀ k, k < at0 ∨ at0 + m * tn.esize ≤ k → sameByte s t k)
          ∧ (scratchServes s core → errorFree s → bitOf w 19 = false → ∀ i j, i < m → j < tn.esize →
              Map.get t.mem (at0 + i * tn.esize + j) unlistedByte = BitVec.ofNat 8
                ((convertScaled ((c.lanes w (vVa w)).getD i (.zero false, false)).1 fmt tn.scale (vTrunc w) c.satMode).1
                  / 256 ^ j)))

/-- R117, R148, R149: the moves; frames are stated for destinations in the core's scratchpad. -/
def Obligations.MovesReadAllThenWrite : Prop :=
  ∀ (s : State) (core : CoreIx) (w : Nat),
    let c := s.core core
    let moved (t : State) : Prop :=
      Issued s t core { c with
          sticky := (t.core core).sticky, prefetchers := (t.core core).prefetchers, moverq := (t.core core).moverq
          moves := (t.core core).moves }
        ∧ t.engines = s.engines ∧ t.tokens = s.tokens ∧ (s.upsets = [] → t.regs = s.regs) ∧ t.blocks = s.blocks ∧ t.flash = s.flash
    let stalls (o : MoveOp) : BitVec 7 :=
      s.stallBits core o.pending (decide (c.moverq.length + c.moves.length < 16)) (moveWork core o.srcs o.dst)
    let waits (o : MoveOp) : Bool := o.srcs.any s.tensorWaits || s.destWaits o.dst
    let queued (o : MoveOp) (t : State) : Prop :=
      Issued s t core { c with moverq := [o] }
        ∧ t = { paidFrame s t with cores := t.cores, ncl := { s.ncl with waiting := setAdd s.ncl.waiting (8 * core + 2) } }
    let done (o : MoveOp) (t : State) : Prop :=
      (t.core core).moverq = [] ∧ (t.core core).moves = if t.owed (.move core o.seq) then c.moves ++ [o] else c.moves
    let inside (srcs : List Tensor) (dst : Tensor) (t : State) : Prop :=
      (∀ x ∈ srcs, x.physical = false) → dst.physical = false →
        t = { paidFrame s t with cores := t.cores, banks := t.banks, mem := t.mem, poison := t.poison, upsets := t.upsets }
        ∧ ∀ lo hi, dst.all = some (lo, hi) → ∀ k, (k < scratchKey core lo.toNat ∨ scratchKey core hi.toNat ≤ k) → sameByte s t k
    let plain (x : Tensor) : Prop := x.physical = false ∧ x.is4 = false ∧ x.rank = 1
    let elem (x : Tensor) (i : Nat) : PBytes := s.readKey (scratchKey core (x.addr i 0 0 0).toNat) x.esize
    let shows (t : State) (dst : Tensor) (trunc : Bool) (i : Nat) (v : FVal) : Prop :=
      ∀ j, j < dst.esize → Map.get t.mem (scratchKey core (dst.addr i 0 0 0).toNat + j) unlistedByte = BitVec.ofNat 8
        ((convertScaled v (dst.format.getD .fp32) dst.scale trunc c.satMode).1 / 256 ^ j)
    (Presents s core .copy w →
      ((c.slot (bitsOf w 32 8) = none ∨ c.slot (bitsOf w 40 8) = none) → exec (.copy core) s = .next (s.refuse core 3)) ∧
      ∀ sd dd, c.slot (bitsOf w 32 8) = some sd → c.slot (bitsOf w 40 8) = some dd →
        let src := c.tensor sd
        let dst := c.tensor dd
        moveCheck src = [] → moveCheck dst = [] → sameShape src dst = true →
        ((src.is4 = false ∧ dst.is4 = false) ∨ src.fmt = dst.fmt) →
        let o : MoveOp :=
          { seq := c.seq, srcs := [src], dst := dst, combine := none, truncate := bitOf w 8, satMode := c.satMode }
        stalls o = 0 →
        (c.moverq ≠ [] → ∃ t, exec (.copy core) s = .next t ∧ moved t) ∧
        (c.moverq = [] → waits o = true → ∃ t, exec (.copy core) s = .next t ∧ queued o t) ∧
        (c.moverq = [] → waits o = false →
        ∃ t, exec (.copy core) s = .next t ∧ moved t ∧ done o t ∧ inside [src] dst t
          ∧ (plain src → plain dst → scratchServes s core → errorFree s → Memory.wf s.mem = true →
              ∀ i, i < dst.extent 0 → (elem src i).anyPoison = false →
                shows t dst (bitOf w 8) i (widenVal (src.format.getD .fp32) (leNat (elem src i).data) src.scale c.satMode).1))) ∧
    (Presents s core .combine w →
      let tree := bitOf w 9
      let parts := bitsOf w 10 3 + 1
      let present := bitsOf w 13 3 + 1
      let pdesc := bitsOf w 32 8
      ∀ (pd : Nat → Nat) (dd ad : Nat),
        (∀ i, i < Nat.min present parts → pdesc + i ≤ 255 ∧ c.slot (pdesc + i) = some (pd i)) →
        c.slot (bitsOf w 40 8) = some dd → (bitOf w 16 = true → c.slot (bitsOf w 48 8) = some ad) →
        let ps := (List.range (Nat.min present parts)).map fun i => c.tensor (pd i)
        let dst := c.tensor dd
        let srcs := ps ++ (if bitOf w 16 then [c.tensor ad] else [])
        (∀ x ∈ srcs, moveCheck x = [] ∧ x.fmt = 5 ∧ sameShape x (c.tensor (pd 0)) = true) → moveCheck dst = [] →
        sameShape dst (c.tensor (pd 0)) = true → dst.is4 = false → 2 ≤ parts →
        (if tree then (parts = 2 ∨ parts = 4 ∨ parts = 8) ∧ present ≤ parts else present = parts) →
        let o : MoveOp :=
          { seq := c.seq, srcs := srcs, dst := dst, combine := some (tree, parts, bitOf w 16), truncate := bitOf w 8
            satMode := c.satMode }
        stalls o = 0 →
        (c.moverq ≠ [] → ∃ t, exec (.combine core) s = .next t ∧ moved t) ∧
        (c.moverq = [] → waits o = true → ∃ t, exec (.combine core) s = .next t ∧ queued o t) ∧
        (c.moverq = [] → waits o = false →
        ∃ t, exec (.combine core) s = .next t ∧ moved t ∧ done o t ∧ inside srcs dst t
          ∧ (bitOf w 16 = false → tree = false → parts = 2 → plain (c.tensor (pd 0)) → plain (c.tensor (pd 1)) → plain dst →
              scratchServes s core → errorFree s → Memory.wf s.mem = true → ∀ i, i < dst.extent 0 →
              (elem (c.tensor (pd 0)) i).anyPoison = false → (elem (c.tensor (pd 1)) i).anyPoison = false →
              let part (k : Nat) : Res :=
                widenBits .fp32 (leNat (elem (c.tensor (pd k)) i).data) (c.tensor (pd k)).scale c.satMode
              shows t dst (bitOf w 8) i
                (f32 (accAdd (decide (s.fld (bEng (4 * core)) 0x100 0 1 = 1)) (part 0) (part 1)).1))))

/-- R151, R152: the two prefetch instructions. -/
def Obligations.PrefetchersStartAndStop : Prop :=
  ∀ (s : State) (core : CoreIx) (w : Nat), let c := s.core core
    (Presents s core .startPrefetch w →
      (c.slot (bitsOf w 32 8) = none → exec (.startPrefetch core) s = .next (s.refuse core 3)) ∧
      (∀ d, c.slot (bitsOf w 32 8) = some d → streamRecord d = none →
        exec (.startPrefetch core) s = .next (s.refuse core 9)) ∧
      (∀ d p, c.slot (bitsOf w 32 8) = some d → streamRecord d = some p →
        let steps := if p.count = 0 then p.depth else Nat.min p.depth p.count
        ∃ t, exec (.startPrefetch core) s = .next t
          ∧ t.core core = { c with
              prefetchers := Map.insert c.prefetchers (bitsOf w 8 4) { p with next := steps }
              pc := BitVec.ofNat 48 (s.nextPc core), held := false }
          ∧ (∀ n : Nat, n ≠ core → t.core n = s.core n) ∧ t.mem = s.mem ∧ t.engines = s.engines
          ∧ t.counter (bCore core) 0x1A0 = s.counter (bCore core) 0x1A0 + BitVec.ofNat 64 (steps * (p.stepBytes / 128)))) ∧
    (Presents s core .stopPrefetch w → ∃ t, exec (.stopPrefetch core) s = .next t
      ∧ OnlyCore s t core { c with
          prefetchers := Map.erase c.prefetchers (bitsOf w 8 4), pc := BitVec.ofNat 48 (s.nextPc core), held := false })

/-- R91, R116, R138, R140 to R142: issuing the five instructions of the matrix units. -/
def Obligations.MatrixInstructionsAreQueued : Prop :=
  ∀ (s : State) (core : CoreIx) (w : Nat),
    let c := s.core core
    let ei := 4 * (core : Nat) + bitsOf w 8 2
    let x := s.engine ei
    let room := s.isEnabled (bEng ei) = true ∧ x.queue.length < 8
    let queued (op : EngOp) : List QEntry := x.queue ++ [{ seq := c.seq, op := op, started := false, fed := 0, loads := 0, backs := [], num := 0 }]
    let toEngine (t : State) (y : Engine) : Prop :=
      Issued s t core c ∧ t.engine ei = y ∧ (∀ n, n ≠ ei → t.engine n = s.engine n)
        ∧ t = { paidFrame s t with cores := t.cores, engines := t.engines }
    let toCore (t : State) (c1 : Core) : Prop := Issued s t core c1 ∧ t = { paidFrame s t with cores := t.cores }
    (∀ comp : Bool, Presents s core (if comp then .compoundPass else .pass) w →
      let p := (c.passOf comp w).1
      (c.passOf comp w).2 = [] → 128 * p.dest + p.m ≤ 512 →
      pairCheck p (if p.bank then x.issuedFmt1 else x.issuedFmt0) = true → splitOk x p = true → room →
      s.stallsFor core (EngOp.reads (.pass p)) none true (p.work core) = 0 →
      ∃ t, exec (if comp then .compoundPass core else .pass core) s = .next t ∧ toEngine t { x with
        queue := queued (.pass p)
        issuedRun := if p.split then (if p.last then none else some { dest := p.dest, idx := p.runIdx }) else x.issuedRun
        issuedFmt0 := if comp then some 3 else x.issuedFmt0
        issuedFmt1 := if comp then some 3 else x.issuedFmt1 }) ∧
    (Presents s core .weightLoad w → ∀ d, c.slot (bitsOf w 32 8) = some d →
      let l : LoadOp :=
        { src := c.tensor d, target := bitsOf w 12 4, orient := bitOf w 11
          k0 := c.plusReg (bitsOf w 64 16) (bitsOf w 56 4), n0 := c.plusReg (bitsOf w 80 16) (bitsOf w 60 4)
          kw := bitsOf w 40 7 + 1, nw := bitsOf w 48 7 + 1, bank := bitOf w 10, satMode := c.satMode }
      (l.target ≤ 10 → scratchCheck l.src (loadFmt l.src.fmt) (decide (l.src.rank ≤ 2)) l.srcReach = [] →
        targetOk l.src.fmt l.target = true → room → s.stallsFor core l.srcReach none true [(2, core / 8, 128)] = 0 →
        ∃ t, exec (.weightLoad core) s = .next t ∧ toEngine t { x with
          queue := queued (.load l)
          issuedFmt0 := if l.bank then x.issuedFmt0 else some l.target
          issuedFmt1 := if l.bank then some l.target else x.issuedFmt1 }) ∧
      (c.held = false → 10 < l.target → exec (.weightLoad core) s = .next (s.refuse core 2)) ∧
      (c.held = false → l.target ≤ 10 → scratchCheck l.src (loadFmt l.src.fmt) (decide (l.src.rank ≤ 2)) l.srcReach = [] →
        targetOk l.src.fmt l.target = false → exec (.weightLoad core) s = .next (s.refuse core 4))) ∧
    (Presents s core .matrixVector w → ∀ ad wd pd, c.slot (bitsOf w 32 8) = some ad → c.slot (bitsOf w 40 8) = some wd →
      (bitsOf w 12 2 = 2 → c.slot (bitsOf w 48 8) = some pd) → bitsOf w 12 2 ≠ 3 →
      let o : MvOp :=
        { engine := bitsOf w 8 2, tile := bitsOf w 10 2, acc := accSourceOf (bitsOf w 12 2), act := c.tensor ad
          weight := c.tensor wd, preload := if bitsOf w 12 2 = 2 then some (c.tensor pd) else none, m := bitsOf w 56 4 + 1
          kv := bitsOf w 64 7 + 1, nv := bitsOf w 72 7 + 1, row0 := c.plusReg (bitsOf w 80 12) (bitsOf w 60 4)
          k0 := 128 * c.plusReg (bitsOf w 96 12) (bitsOf w 92 4), n0 := 128 * c.plusReg (bitsOf w 112 12) (bitsOf w 108 4)
          satMode := c.satMode }
      scratchCheck o.act (decide (o.act.fmt ≤ 4)) (o.act.rank == 2)
        (o.act.reach (o.k0, o.k0 + o.kv) (o.row0, o.row0 + o.m) (0, 1) (0, 1)) = [] →
      scratchCheck o.weight (loadFmt o.weight.fmt) (o.weight.rank == 2)
        (o.weight.reach (o.k0, o.k0 + o.kv) (o.n0, o.n0 + o.nv) (0, 1) (0, 1)) = [] →
      (bitsOf w 12 2 = 2 → scratchCheck (c.tensor pd) (tileFmt (c.tensor pd).fmt) ((c.tensor pd).rank == 2)
        ((c.tensor pd).reach (0, o.nv) (0, o.m) (0, 1) (0, 1)) = []) →
      pairOk o.act.fmt (mvWeightFmt o.act.fmt o.weight.fmt) = true → runFree x [o.tile] = true → c.mvq.length < 8 →
      s.stallsFor core o.reads none true [(3, core / 8, o.m * ceilDiv o.nv (mvColumns o.weight.fmt))] = 0 →
      ∃ t, exec (.matrixVector core) s = .next t ∧ toCore t { c with mvq := c.mvq ++ [(c.seq, o)] }) ∧
    (Presents s core .drain w → ∀ d, c.slot (bitsOf w 32 8) = some d → bitsOf w 12 2 ≠ 3 →
      let o : DrainOp :=
        { engine := bitsOf w 8 2, tile := bitsOf w 10 2, reduce := bitsOf w 12 2, transform := bitOf w 14
          truncate := bitOf w 15, rows := bitsOf w 40 7 + 1, cols := bitsOf w 48 7 + 1, dst := c.tensor d
          side := c.plusReg (bitsOf w 64 22) (bitsOf w 56 4), satMode := c.satMode }
      scratchCheck o.dst (tileFmt o.dst.fmt) (o.dst.rank == 2) o.dstReach = [] → o.side % 16 = 0 →
      o.side + o.sideLen ≤ 0x400000 → (o.transform = true → o.reduce = 2) → runFree x [o.tile] = true → c.drainq.length < 8 →
      s.stallsFor core none o.writes true [(7, core / 8, o.rows)] = 0 →
      ∃ t, exec (.drain core) s = .next t ∧ toCore t { c with drainq := c.drainq ++ [(c.seq, o)] })

/-- R73, R76 to R81, R91, R95, R111: the four starts, what they wait for, and their frames. -/
def Obligations.MatrixUnitsStartTheirWork : Prop :=
  ∀ s : State,
    let unitFrame (t : State) : Prop :=
      t = { s with engines := t.engines, cores := t.cores, banks := t.banks, counters := t.counters, once := t.once
                   sheets := t.sheets, mem := t.mem, poison := t.poison, upsets := t.upsets } ∧ ∀ k, sameByte s t k
    let mark (x : Engine) (q r : QEntry) (backs : List (List ReadBack)) : QEntry :=
      if r.seq = q.seq then { r with started := true, num := x.opsStarted.toNat + 1, backs := backs } else r
    (∀ (engine : EngIx) (backs : List (List ReadBack)),
      let e : Nat := engine
      let x := s.engine e
      ((∀ q, x.nextOp = some q → q.op.isPass = false) → exec (.passStart ⟨engine, backs⟩) s = .next s) ∧
      ∀ (q : QEntry) (p : PassOp), x.nextOp = some q → q.op = .pass p →
      let hi := s.feedLimit e q p
      let base := (p.target true 0).1
      (s.engineRuns e = false ∨ s.passMayStart e q p = false → exec (.passStart ⟨engine, backs⟩) s = .next s) ∧
      (p.compound = false → (s.passMayStart e q p = true ↔ (∀ r ∈ x.queue, r.seq < q.seq →
          (r.op.isPass = false → r.op.bankIn p.bank = false) ∧ r.allFed = true) ∧ 0 < hi)) ∧
      (p.compound = true → (s.passMayStart e q p = true ↔ ∀ r ∈ x.queue, r.seq < q.seq →
          r.op.isPass = true ∧ r.allStarted = true ∧ r.uses false = false)) ∧
      (s.engineRuns e = true → s.passMayStart e q p = true → ∃ t, exec (.passStart ⟨engine, backs⟩) s = .next t ∧ unitFrame t
        ∧ (t.engine e).opsStarted = x.opsStarted + 1 ∧ (t.engine e).opsDone = x.opsDone
        ∧ (∀ n, n ≠ e → t.engine n = s.engine n)
        ∧ (∀ n, t.core n = { s.core n with sticky := (t.core n).sticky }) ∧ (∀ n, n ≠ e / 4 → t.core n = s.core n)
        ∧ (p.nv ≤ 128 → ∀ k, k < 128 * base ∨ 128 * (base + p.m) ≤ k → Map.get (t.engine e).acc k 0 = Map.get x.acc k (0 : W32))
        ∧ (p.compound = true → ∃ q1 : QEntry, (t.engine e).queue = x.queue.map fun r =>
            if r.seq = q.seq then { mark x q r q1.backs with fed := r.fed + q1.fed, loads := r.loads + q1.loads } else r)
        ∧ (p.compound = false →
            (t.engine e).queue = (x.queue.map fun r =>
              let r1 := mark x q r backs
              if r.seq = q.seq then { r1 with fed := r.fed + (hi - q.fed) } else r1)
            ∧ (q.fed < hi → (t.engine e).activeBank = p.bank)
            ∧ (t.engine e).bank0 = x.bank0 ∧ (t.engine e).bank1 = x.bank1 ∧ (t.engine e).arrayFault = false))) ∧
    (∀ (engine : EngIx) (backs : List ReadBack),
      let e : Nat := engine
      let x := s.engine e
      ((∀ q, x.nextOp = some q → q.op.isPass = true) → exec (.weightLoadStart engine backs) s = .next s) ∧
      ∀ (q : QEntry) (l : LoadOp), x.nextOp = some q → q.op = .load l →
      let ready := s.engineRuns e && (x.queue.filter fun r => decide (r.seq < q.seq)).all fun r =>
        r.op.isPass && r.allStarted && !r.uses l.bank
      let held (y : Engine) : Bank := if l.bank then y.bank1 else y.bank0
      (ready = false → exec (.weightLoadStart engine backs) s = .next s) ∧
      (ready = true → ∃ t, exec (.weightLoadStart engine backs) s = .next t ∧ unitFrame t
        ∧ (t.engine e).queue = (x.queue.map fun r => mark x q r []) ∧ (t.engine e).opsStarted = x.opsStarted + 1
        ∧ (t.engine e).acc = x.acc ∧ (t.engine e).accPoison = x.accPoison
        ∧ (held (t.engine e)).loaded = true ∧ (held (t.engine e)).fmt = BitVec.ofNat 4 l.target
        ∧ (held (t.engine e)).scale = l.src.scale
        ∧ (if l.bank then (t.engine e).bank0 = x.bank0 else (t.engine e).bank1 = x.bank1)
        ∧ (∀ k n, k < 128 → n < 128 → (l.kw ≤ k ∨ l.nw ≤ n) → Map.get (held (t.engine e)).w (128 * k + n) 0 = (0 : BitVec 16))
        ∧ ((t.engine e).arrayFault = true ↔ (∃ row, ReadBack.fault row ∈ backs) ∨ ¬ (backs.map backRow).Nodup)
        ∧ (∀ n, n ≠ e → t.engine n = s.engine n) ∧ ∀ n, t.core n = { s.core n with sticky := (t.core n).sticky })) ∧
    (∀ (core : CoreIx),
      let c := s.core core
      (c.mvq = [] → exec (.matrixVectorStart core) s = .next s) ∧ (c.drainq = [] → exec (.drainStart core) s = .next s)) ∧
    (∀ (core : CoreIx) (seq : Nat) (o : MvOp) (rest : List (Nat × MvOp)),
      let c := s.core core
      let ready := s.tilesFree core seq [(o.engine, o.tile)] && s.siteIssues (core / 8)
      c.mvq = (seq, o) :: rest →
      (ready = false → exec (.matrixVectorStart core) s = .next s) ∧
      (ready = true → ∃ t, exec (.matrixVectorStart core) s = .next t ∧ unitFrame t
        ∧ t.core core = { c with mvq := rest, sticky := (t.core core).sticky }
        ∧ (∀ n : Nat, n ≠ core → t.core n = s.core n) ∧ (∀ n, n ≠ 4 * (core : Nat) + o.engine → t.engine n = s.engine n)
        ∧ (o.nv ≤ 128 → ∀ k, k < 128 * (128 * o.tile) ∨ 128 * (128 * o.tile + o.m) ≤ k →
            Map.get (t.engine (4 * (core : Nat) + o.engine)).acc k 0
              = Map.get (s.engine (4 * (core : Nat) + o.engine)).acc k (0 : W32)))) ∧
    (∀ (core : CoreIx) (seq : Nat) (o : DrainOp) (rest : List (Nat × DrainOp)),
      let c := s.core core
      let ready := s.tilesFree core seq [(o.engine, o.tile)] && s.siteIssues (core / 8)
      c.drainq = (seq, o) :: rest →
      (ready = false → exec (.drainStart core) s = .next s) ∧
      (ready = true → ∃ t, exec (.drainStart core) s = .next t
        ∧ t = { s with engines := t.engines, cores := t.cores, banks := t.banks, counters := t.counters, once := t.once
                       sheets := t.sheets, mem := t.mem, poison := t.poison, upsets := t.upsets }
        ∧ t.core core = { c with drainq := rest, sticky := (t.core core).sticky }
        ∧ (∀ n : Nat, n ≠ core → t.core n = s.core n)
        ∧ (∀ n, (s.upsets = [] ∨ n ≠ 4 * (core : Nat) + o.engine → (t.engine n).acc = (s.engine n).acc)
            ∧ (t.engine n).queue = (s.engine n).queue
            ∧ (t.engine n).bank0 = (s.engine n).bank0 ∧ (t.engine n).bank1 = (s.engine n).bank1)
        ∧ (o.dst.is4 = false → ∀ lo hi, o.writes = some (lo, hi) → 0 ≤ lo →
            ∀ k, k < scratchKey core lo.toNat ∨ scratchKey core hi.toNat ≤ k → sameByte s t k)))

/-- R73, R82, R84, R85, R103, R104, R115, R120 to R122, R143: what the matrix units leave, element by element. -/
def Obligations.MatrixUnitsLeaveTheirResults : Prop :=
  ∀ (s : State), errorFree s → Memory.wf s.mem = true →
    let fmtOf (t : Tensor) : Fmt := t.format.getD .e4m3
    (∀ (engine : EngIx) (backs : List (List ReadBack)) (q : QEntry) (p : PassOp),
      let e : Nat := engine
      let core := e / 4
      let x := s.engine e
      let n1 := s.n1Mode e
      let int := p.act.fmt == 2
      let base := (p.target true 0).1
      let src := (p.target true 0).2
      let begins (i n : Nat) : Option Sum := startOf s core x src p.preload (base + i) p.nv i n p.satMode
      scratchServes s core → x.nextOp = some q → q.op = .pass p → s.engineRuns e = true → s.passMayStart e q p = true →
      p.kv ≤ 128 → p.nv ≤ 128 → (src = .preload → p.preload.isSome = true) →
      ∃ t, exec (.passStart ⟨engine, backs⟩) s = .next t
        ∧ (p.compound = false → ∀ i n, q.fed ≤ i → i < s.feedLimit e q p → n < p.nv →
            let col := ((if p.bank then x.bank1 else x.bank0).columns p.kv p.nv).getD n []
            let row := (List.range p.kv).map fun k => termOf (fmtOf p.act) p.act (actAt s core p i k)
            let v := added n1 (begins i n) (dot n1 int row col)
            v.2 = false → Map.get (t.engine e).acc (128 * (base + i) + n) 0 = v.1)
        ∧ (∀ wt, p.compound = true → p.weight = some wt → s.feedLimit e q p = p.m → q.fed = 0 → q.loads = 0 → (∀ b ∈ backs, b = []) →
            (∀ r ∈ x.queue, q.seq ≤ r.seq) → s.poison = [] → x.accPoison = [] → ∀ i n, i < p.m → n < p.nv →
            let row (a : Nat) := (List.range p.kv).map fun k => termOf .bf16 p.act ((actAt s core p i k).map fun u => (piece u.1 a, u.2))
            let col (b : Nat) := (List.range p.kv).map fun k =>
              termOf .bf16 wt ((weightAt s core wt .bf16 p.orient 0 0 k n p.satMode).map fun u => (piece u.1 b, u.2))
            let v := (piecePairs p.act.fmt).foldl (fun st ab => some (taken (added n1 st (dot n1 int (row ab.1) (col ab.2))))) (begins i n)
            wt.is4 = false → (t.engine e).queue = (x.queue.map fun r => if r.seq = q.seq then
                { r with started := true, num := x.opsStarted.toNat + 1, backs := backs.drop (pieceLoads p.act.fmt)
                         loads := r.loads + pieceLoads p.act.fmt, fed := r.fed + piecePasses p.act.fmt * p.m } else r)
              ∧ ∃ sum, v = some sum ∧ Map.get (t.engine e).acc (128 * (base + i) + n) 0 = BitVec.ofNat 32 sum.1.1)) ∧
    (∀ (engine : EngIx) (q : QEntry) (p : PassOp),
      let e : Nat := engine
      let core := e / 4
      let x := s.engine e
      let n1 := s.n1Mode e
      let lo := if p.last then p.dest else p.slotTile - p.merges
      scratchServes s core → x.arrayFault = false → x.queue.find? (fun r => r.started && r.op.isPass) = some q → q.op = .pass p →
      q.steps = [] → s.tilesFree core q.seq (q.tilesLeft.map fun j => (e % 4, j)) = true → p.split = true → p.m ≤ 128 → p.nv ≤ 128 →
      p.runIdx < 16 → x.accPoison = [] → s.poison = [] → (p.acc = .preload → p.preload.isSome = true) →
      ∃ t, exec (.passComplete engine) s = .next t
        ∧ (p.last = true → ((t.engine e).tile p.dest).splitInv = true)
        ∧ (∀ i n, i < p.m → n < p.nv →
            let at' (j : Nat) : Sum := (x.accRow (128 * j + i) p.nv).getD n ((0, .none), false)
            let merged := (List.range (p.slotTile - lo)).foldl (fun v k => added n1 (some (at' (p.slotTile - 1 - k))) (taken v))
              (added n1 none (at' p.slotTile))
            let v := if p.last && p.acc == .preload then
                added n1 (startOf s core x .preload p.preload 0 p.nv i n p.satMode) (taken merged)
              else merged
            Map.get (t.engine e).acc (128 * (128 * lo + i) + n) 0 = v.1)
        ∧ (∀ k, k < 128 * (128 * lo) ∨ 128 * (128 * Nat.max p.slotTile (lo + 1)) ≤ k →
            Map.get (t.engine e).acc k 0 = Map.get x.acc k (0 : W32))) ∧
    (∀ (engine : EngIx) (backs : List ReadBack) (q : QEntry) (l : LoadOp),
      let e : Nat := engine
      let x := s.engine e
      scratchServes s (e / 4) → x.nextOp = some q → q.op = .load l → s.engineRuns e = true → loadMayStart x q l.bank = true →
      ∃ t, exec (.weightLoadStart engine backs) s = .next t ∧ ∀ k n, k < 128 → n < 128 → k < l.kw → n < l.nw →
        Map.get (if l.bank then (t.engine e).bank1 else (t.engine e).bank0).w (128 * k + n) 0
          = BitVec.ofNat 16 ((weightAt s (e / 4) l.src ((Fmt.ofCode l.target).getD .e4m3) l.orient l.k0 l.n0 k n l.satMode).getD
              (0, false)).1) ∧
    (∀ (core : CoreIx) (seq : Nat) (o : MvOp) (rest : List (Nat × MvOp)),
      let e := 4 * (core : Nat) + o.engine
      let x := s.engine e
      let wf := if o.weight.is4 then (Fmt.ofCode (mvWeightFmt o.act.fmt o.weight.fmt)).getD .e4m3 else fmtOf o.weight
      scratchServes s core → (s.core core).mvq = (seq, o) :: rest → s.tilesFree core seq [(o.engine, o.tile)] = true →
      s.siteIssues (core / 8) = true → o.nv ≤ 128 → (o.acc = .preload → o.preload.isSome = true) →
      ∃ t, exec (.matrixVectorStart core) s = .next t ∧ ∀ i n, i < o.m → n < o.nv →
        let row := (List.range o.kv).map fun k => termOf (fmtOf o.act) o.act (standing s core o.act o.k0 (o.row0 + i) k)
        let col := (List.range o.kv).map fun k => termOf wf o.weight (weightAt s core o.weight wf true o.k0 o.n0 k n o.satMode)
        let v := added (s.n1Mode e) (startOf s core x o.acc o.preload (128 * o.tile + i) o.nv i n o.satMode)
          (dot (s.n1Mode e) (o.act.fmt == 2) row col)
        v.2 = false → Map.get (t.engine e).acc (128 * (128 * o.tile + i) + n) 0 = v.1) ∧
    (∀ (core : CoreIx) (seq : Nat) (o : DrainOp) (rest : List (Nat × DrainOp)),
      let x := s.engine (4 * (core : Nat) + o.engine)
      let vals (i : Nat) : List Sum := x.accRow (128 * o.tile + i) o.cols
      let d (i : Nat) : DrainRow := drainRow o.reduce o.transform ((vals i).map (·.1.1))
      let fmt := o.dst.format.getD .fp32
      let cols := Nat.min o.cols (o.dst.extent 0)
      let at' (i : Nat) : Nat := scratchKey core (o.dst.addr 0 i 0 0).toNat
      let side := scratchKey core o.side
      let apart (a n b m : Nat) : Prop := a + n ≤ b ∨ b + m ≤ a
      scratchServes s core → (s.core core).drainq = (seq, o) :: rest → s.tilesFree core seq [(o.engine, o.tile)] = true →
      s.siteIssues (core / 8) = true → 1 ≤ o.rows → o.rows ≤ 128 → o.cols ≤ 128 → x.accPoison = [] → o.dst.is4 = false →
      ∃ t, exec (.drainStart core) s = .next t
        ∧ (∀ i j k, i < o.rows → i < o.dst.extent 1 → j < cols → k < fmt.size →
            (∀ r, i < r → r < o.rows → apart (at' i) (cols * fmt.size) (at' r) (cols * fmt.size)) →
            apart (at' i) (cols * fmt.size) side o.sideLen →
            Map.get t.mem (at' i + j * fmt.size + k) unlistedByte = BitVec.ofNat 8
              ((convertScaled (f32 ((d i).shown.getD j 0)) fmt o.dst.scale o.truncate o.satMode).1 / 256 ^ k))
        ∧ (let word := leNat ((List.range 16).map fun k => Map.get t.mem (side + k) unlistedByte)
          o.tile < 4 → o.engine < 4 → bitsOf word 8 2 = o.tile ∧ bitsOf word 10 2 = o.engine
              ∧ bitsOf word 16 7 = o.rows - 1 ∧ bitsOf word 24 7 = o.cols - 1
              ∧ bitsOf word 32 16 = ((List.range o.rows).flatMap fun i => (d i).shown.filter fun u => (f32 u).isNan).length)
        ∧ (o.reduce ≠ 0 → ∀ i k, i < o.rows → k < 8 → Map.get t.mem (side + 16 + 8 * i + k) unlistedByte
            = BitVec.ofNat 8 (if k < 4 then (d i).m / 256 ^ k else (d i).sum / 256 ^ (k - 4))))

/-- R81, R91, R96: operations complete, and long waits are recorded once. -/
def Obligations.MatrixUnitsCompleteOrWait : Prop :=
  ∀ (s : State) (engine : EngIx),
    let e : Nat := engine
    let x := s.engine e
    let gone (q : QEntry) (t : State) : Prop :=
      (t.engine e).queue = (x.queue.filter fun r => r.seq ≠ q.seq) ∧ (t.engine e).opsDone = x.opsDone + 1
      ∧ (∀ n, n ≠ e → t.engine n = s.engine n) ∧ ∀ k, sameByte s t k
    let counted (q : QEntry) (off : Nat) (t : State) : Prop :=
      t = { s with engines := t.engines, counters := t.counters }
      ∧ t.engine e = { x with queue := x.queue.filter fun r => r.seq ≠ q.seq, opsDone := x.opsDone + 1 }
      ∧ (∀ n, n ≠ e → t.engine n = s.engine n)
      ∧ t.counter (bEng e) off = s.counter (bEng e) off + 1
    let limit := s.fld (bEng e) 0x100 8 16
    (x.arrayFault = true → exec (.passComplete engine) s = .next s ∧ exec (.weightLoadComplete engine) s = .next s) ∧
    (x.queue.find? (fun r => r.started && r.op.isPass) = none → exec (.passComplete engine) s = .next s) ∧
    (x.queue.find? (fun r => r.started && !r.op.isPass) = none → exec (.weightLoadComplete engine) s = .next s) ∧
    (x.arrayFault = false → ∀ q p, x.queue.find? (fun r => r.started && r.op.isPass) = some q → q.op = .pass p →
      let hi := if (x.queue.filter fun r => decide (r.seq < q.seq)).all QEntry.allFed then s.feedLimit e q p else 0
      let free := s.tilesFree (e / 4) q.seq ((EngOp.tiles (.pass p)).map fun j => (e % 4, j))
      (∃ t, exec (.passComplete engine) s = .next t ∧ (∀ n, n ≠ e → t.engine n = s.engine n) ∧ (∀ k, sameByte s t k)
        ∧ (t.engine e).opsDone = x.opsDone + (if (t.engine e).queue.any fun r => r.seq == q.seq then 0 else 1)) ∧
      (q.steps = [] → p.split = false → ∃ t, exec (.passComplete engine) s = .next t ∧ counted q 0x140 t) ∧
      (q.steps = [] → p.split = true → free = true → ∃ t, exec (.passComplete engine) s = .next t ∧ gone q t
        ∧ t.counter (bEng e) 0x140 = s.counter (bEng e) 0x140 + 1) ∧
      (q.steps = [] → p.split = true → free = false → exec (.passComplete engine) s = .next s) ∧
      (p.compound = false → q.fed < p.m → hi < p.m →
        exec (.passComplete engine) s = .next (s.feedRows e q p 0 p.bank true q.fed (hi - q.fed))) ∧
      (p.compound = false → q.fed < p.m → p.m ≤ hi → (p.split = false ∨ free = true) →
        ∃ t, exec (.passComplete engine) s = .next t ∧ gone q t)) ∧
    (x.arrayFault = false → ∀ q, x.queue.find? (fun r => r.started && !r.op.isPass) = some q →
      ∃ t, exec (.weightLoadComplete engine) s = .next t ∧ counted q 0x178 t) ∧
    (∀ w ∈ s.engineWaits e, limit ≠ 0 → x.arrayFault = false → w.1 ∉ x.waitLong → s.waitStart e w.1 + limit ≤ s.elapsed →
      ∃ v ∈ s.engineWaits e, v.1 ∉ x.waitLong ∧ s.waitStart e v.1 + limit ≤ s.elapsed ∧ exec (.engineWaitLong engine) s
        = .next ((s.setEngine e { x with waitLong := x.waitLong ++ [v.1] }).record (bEng e) 0x0011 e v.1.1 v.2)) ∧
    (limit = 0 ∨ x.arrayFault = true ∨ (∀ w ∈ s.engineWaits e, w.1 ∈ x.waitLong ∨ s.elapsed < s.waitStart e w.1 + limit) →
      exec (.engineWaitLong engine) s = .next s)

/-- R153, R191: the token instructions and the signal queue. -/
def Obligations.TokenInstructionsLeaveTheCore : Prop :=
  ∀ (s : State) (core : CoreIx) (w : Nat),
    let c := s.core core
    let agent := agCore ((s.logicalCore core).getD core)
    let tok : BitVec 16 := BitVec.ofNat 16 (tokOf c w)
    let value : W32 := BitVec.ofNat 32 (bitsOf w 32 32)
    let sent (t : State) (c1 : Core) (ms : List TokMsg) : Prop :=
      t = { s with cores := t.cores, counters := t.counters, tokMsgs := s.tokMsgs ++ ms, sendq := t.sendq } ∧ t.core core = c1
        ∧ (∀ n : Nat, n ≠ core → t.core n = s.core n)
    (Presents s core .wait w → s.tokenAllowed core (tokOf c w) (bitsOf w 32 32) true = true →
      ∃ t, exec (.wait core) s = .next t ∧ t.coreIssues core = false
        ∧ sent t { c with waiting := some (tok, value), pc := BitVec.ofNat 48 (s.nextPc core), held := false }
            [.wait agent tok value]) ∧
    (Presents s core .wait w → s.tokenAllowed core (tokOf c w) (bitsOf w 32 32) true = false →
      exec (.wait core) s = .next (s.refuse core 7)) ∧
    (Presents s core .signal w → s.tokenAllowed core (tokOf c w) (bitsOf w 32 32) false = true →
      (c.sigq.length < 16 → ∃ t, exec (.signal core) s = .next t
        ∧ sent t { c with
            sigq := c.sigq ++ [{ seq := c.seq, units := BitVec.ofNat 8 (bitsOf w 8 8), token := tok, value := value }]
            pc := BitVec.ofNat 48 (s.nextPc core), held := false } []) ∧
      (16 ≤ c.sigq.length → exec (.signal core) s = .next (s.setCore core { c with held := true }))) ∧
    (Presents s core .signal w → s.tokenAllowed core (tokOf c w) (bitsOf w 32 32) false = false →
      exec (.signal core) s = .next (s.refuse core 7)) ∧
    (c.sigq = [] → exec (.signalApply core) s = .next s) ∧
    (∀ g rest, c.sigq = g :: rest →
      ((∀ p ∈ s.pendingOps core, p.seq < g.seq → unitIn g.units.toNat p.unit = false) →
        (s.site (core / 8)).status = .quarantined → ∃ t, exec (.signalApply core) s = .next t
          ∧ t = { s with cores := t.cores, counters := t.counters, sites := t.sites, sheets := t.sheets }
          ∧ t.core core = { c with sigq := rest } ∧ (∀ n : Nat, n ≠ core → t.core n = s.core n)
          ∧ t.counter bSite 0x140 = s.counter bSite 0x140 + 1) ∧
      ((∀ p ∈ s.pendingOps core, p.seq < g.seq → unitIn g.units.toNat p.unit = false) →
        (s.site (core / 8)).status ≠ .quarantined → ∃ t, exec (.signalApply core) s = .next t ∧ sent t { c with sigq := rest } [.signal agent g.token g.value]) ∧
      ((∃ p ∈ s.pendingOps core, p.seq < g.seq ∧ unitIn g.units.toNat p.unit = true) →
        exec (.signalApply core) s = .next s))

/-- R189: the operations of a token block, one at a time, and the scan after a change of the count. -/
def Obligations.TokenOperations : Prop :=
  (∀ (count : Nat) (ws : List (Nat × W32)), let r := releaseScan count ws
    r.2.1.Sublist ws ∧ (∀ w ∈ r.2.1, r.1 < w.2.toNat) ∧ r.1 ≤ count ∧ r.2.2.length + r.2.1.length = ws.length
      ∧ ∀ a v more, ws = (a, v) :: more →
          (v.toNat ≤ count → r.2.2 = a :: (releaseScan (count - v.toNat) more).2.2) ∧
          (count < v.toNat → r.2.1 = (a, v) :: (releaseScan count more).2.1)) ∧
  (∀ (s : State) (tile : Nat), Map.wf Token.reset s.tokens = true →
    (s.tokLive tile 0x118 0 = some 1 ↔ ∃ i, tokTile i = tile ∧ (s.token i).count = BitVec.allOnes 32)) ∧
  ∀ (s : State) (token : BitVec 16) (value : W32) (agent : Nat) (tile : TileIx),
    let i := token.toNat
    let blk := bTok (tokTile i)
    let old := s.token i
    let scanned (v : Nat) : Token :=
      { count := BitVec.ofNat 32 (releaseScan v old.waiters).1
        stamp := if v = old.count.toNat ∧ (releaseScan v old.waiters).1 = v then old.stamp else s.turns.now
        waiters := (releaseScan v old.waiters).2.1 }
    let grants (v : Nat) : List TokMsg := (releaseScan v old.waiters).2.2.map TokMsg.grant
    let done (t : State) (tk : Token) (base : List TokMsg) : Prop :=
      t = { s with tokens := t.tokens, counters := t.counters, sheets := t.sheets, regs := t.regs, tokMsgs := base
                   sendq := t.sendq }
        ∧ t.token i = tk ∧ ∀ j, j ≠ i → t.token j = s.token j
    let reported (t : State) (tk : Token) (taken : Bool) : Prop :=
      t.reg blk 0x108 = BitVec.ofNat 64 (tk.count.toNat + tk.waiters.length % 1024 * 2 ^ 32 + (if taken then 2 ^ 42 else 0)
          + 2 ^ 43) ∧ t.reg blk 0x110 = tk.stamp
    let signalled := Nat.min (old.count.toNat + value.toNat) (2 ^ 32 - 1)
    let limitRecord (t : State) : Prop :=
      t.sheets = if 2 ^ 32 ≤ old.count.toNat + value.toNat then (s.record blk 0x020E (tokTile i) i 0).sheets else s.sheets
    (s.isDisabled blk = false → Map.get s.held (tokTile i) [] = [] →
      (agent / 65536 = 0 ∨ agent = agHub ∨ s.hasRight agent i false = true → s.tokNext (.signal agent token value) = true →
        s.tokenQuarantine agent = none → ∃ t, exec (.tokenSignalArrival agent token value) s = .next t
        ∧ done t (scanned signalled) (s.tokMsgs.erase (.signal agent token value) ++ grants signalled) ∧ limitRecord t
        ∧ t.regs = s.regs) ∧
      (agent / 65536 = 0 ∨ s.hasRight agent i true = true → s.tokNext (.wait agent token value) = true →
        s.tokenQuarantine agent = none → ∃ t, exec (.tokenWaitArrival agent token value) s = .next t ∧ t.sheets = s.sheets ∧ t.regs = s.regs
          ∧ if value ≤ old.count then
              done t (scanned (old.count.toNat - value.toNat)) (s.tokMsgs.erase (.wait agent token value)
                ++ grants (old.count.toNat - value.toNat) ++ [.grant agent])
            else done t { old with waiters := old.waiters ++ [(agent, value)] } (s.tokMsgs.erase (.wait agent token value))) ∧
      (tokTile i = tile → value ≠ 0 →
        (∃ t, exec (.tokCmdSignal tile token value) s = .next t ∧ done t (scanned signalled) (s.tokMsgs ++ grants signalled)
          ∧ limitRecord t ∧ t.regs = s.regs) ∧
        (∃ t, exec (.take tile token value) s = .next t ∧ t.sheets = s.sheets
          ∧ if value ≤ old.count then
              done t (scanned (old.count.toNat - value.toNat)) (s.tokMsgs ++ grants (old.count.toNat - value.toNat))
                ∧ reported t (scanned (old.count.toNat - value.toNat)) true
            else done t old s.tokMsgs ∧ reported t old false)) ∧
      (tokTile i = tile → ∃ t, exec (.peek tile token) s = .next t ∧ t.sheets = s.sheets ∧ done t old s.tokMsgs
        ∧ reported t old false)) ∧
    (s.isDisabled blk = true → tokTile i = tile → ∃ t, exec (.set tile token value) s = .next t ∧ t.sheets = s.sheets
      ∧ t.regs = s.regs ∧ done t (scanned value.toNat) (s.tokMsgs ++ grants value.toNat))

/-- R160, R171, R191, R193, R199, R273: where a token operation is held, ignored or undone. -/
def Obligations.TokenBlocksHoldAndRefuse : Prop :=
  ∀ (s : State) (token : BitVec 16) (value : W32) (agent : Nat) (tile : TileIx),
    let i := token.toNat
    let home := tokTile i
    let hold (t : State) (op : HeldOp) : Prop :=
      Map.get t.held home [] = Map.get s.held home [] ++ [op] ∧ (∀ n, n ≠ home → Map.get t.held n [] = Map.get s.held n [])
        ∧ t.tokens = s.tokens ∧ t.counter (bTok home) 0x170 = s.counter (bTok home) 0x170 + 1
    let ignored (t : State) : Prop :=
      t = { s with counters := t.counters } ∧ t.counter (bTok tile) 0x168 = s.counter (bTok tile) 0x168 + 1
    let sig : TokMsg := .signal agent token value
    let wt : TokMsg := .wait agent token value
    (s.tokNext sig = false → exec (.tokenSignalArrival agent token value) s = .next s) ∧
    (s.tokNext wt = false → exec (.tokenWaitArrival agent token value) s = .next s) ∧
    (s.tokNext (.grant agent) = false → exec (.tokenGrantArrival agent) s = .next s) ∧
    (∀ site, s.tokenQuarantine agent = some site →
      (s.tokNext sig = true → ∃ t, exec (.tokenSignalArrival agent token value) s = .next t
        ∧ t = { s with counters := t.counters, sites := t.sites, sheets := t.sheets, tokMsgs := s.tokMsgs.erase sig }
        ∧ t.counter bSite 0x140 = s.counter bSite 0x140 + 1) ∧
      (s.tokNext wt = true → ∃ t, exec (.tokenWaitArrival agent token value) s = .next t
        ∧ t = { s with counters := t.counters, sites := t.sites, sheets := t.sheets, tokMsgs := s.tokMsgs.erase wt }
        ∧ t.counter bSite 0x140 = s.counter bSite 0x140 + 1)) ∧
    (s.isDisabled (bTok home) = true ∨ Map.get s.held home [] ≠ [] →
      (s.tokNext sig = true → s.tokenQuarantine agent = none →
        ∃ t, exec (.tokenSignalArrival agent token value) s = .next t ∧ hold t (.signal agent token value)
        ∧ t = { s with held := t.held, counters := t.counters, tokMsgs := s.tokMsgs.erase (.signal agent token value) }) ∧
      (s.tokNext wt = true → s.tokenQuarantine agent = none →
        ∃ t, exec (.tokenWaitArrival agent token value) s = .next t ∧ hold t (.wait agent token value)
        ∧ t = { s with held := t.held, counters := t.counters, tokMsgs := s.tokMsgs.erase (.wait agent token value) }) ∧
      (home = tile → value ≠ 0 →
        (∃ t, exec (.tokCmdSignal tile token value) s = .next t ∧ hold t (.cmdSignal token value)
          ∧ t = { s with held := t.held, counters := t.counters }) ∧
        (∃ t, exec (.take tile token value) s = .next t ∧ hold t (.take token value)
          ∧ t = { s with held := t.held, counters := t.counters })) ∧
      (home = tile → ∃ t, exec (.peek tile token) s = .next t ∧ hold t (.peek token)
        ∧ t = { s with held := t.held, counters := t.counters })) ∧
    (s.isDisabled (bTok home) = false → Map.get s.held home [] = [] → agent / 65536 ≠ 0 → agent ≠ agHub →
      s.hasRight agent i false = false → s.tokNext sig = true →
      ∃ t, exec (.tokenSignalArrival agent token value) s = .next t
        ∧ t = { s with counters := t.counters, sheets := t.sheets, once := t.once
                       tokMsgs := s.tokMsgs.erase (.signal agent token value) }
        ∧ t.counter (bTok home) 0x168 = s.counter (bTok home) 0x168 + 1) ∧
    (home ≠ tile →
      (∃ t, exec (.tokCmdSignal tile token value) s = .next t ∧ ignored t) ∧ (∃ t, exec (.take tile token value) s = .next t ∧ ignored t)
        ∧ (∃ t, exec (.peek tile token) s = .next t ∧ ignored t) ∧ ∃ t, exec (.set tile token value) s = .next t ∧ ignored t) ∧
    (value = 0 → (∃ t, exec (.tokCmdSignal tile token value) s = .next t ∧ ignored t)
      ∧ ∃ t, exec (.take tile token value) s = .next t ∧ ignored t) ∧
    (home = tile → s.isDisabled (bTok tile) = false →
      exec (.set tile token value) s
        = .next (s.setBlk (bTok tile) { s.blk (bTok tile) with wwe := true, ignoredOffset := 0x100 })) ∧
    (s.tokNext (.grant agent) = true → ∃ t, exec (.tokenGrantArrival agent) s = .next t
      ∧ t = { s with cores := t.cores, intakes := t.intakes, sweeps := t.sweeps, save := t.save
                     tokMsgs := s.tokMsgs.erase (.grant agent) }
      ∧ (agent / 65536 = 0 → ∀ n, t.core n =
          if n = s.coreOfAgent agent ∧ (s.core n).withdrawing = false then { s.core n with waiting := none } else s.core n)
      ∧ (agent / 65536 = 2 → ∀ n, t.intake n =
          if n = agent % 65536 ∧ (s.intake n).waiting = true ∧ (s.intake n).withdrawing = false then
            { s.intake n with waiting := false, granted := true } else s.intake n)
      ∧ (agent / 65536 = 3 → ∀ n, t.sweep n =
          if n = agent % 65536 ∧ (s.sweep n).waiting = true ∧ (s.sweep n).withdrawing = false then
            { s.sweep n with waiting := false, granted := true } else s.sweep n)
      ∧ (agent / 65536 = 4 → t.save =
          if s.save.waiting = true ∧ s.save.withdrawing = false then
            { s.save with
              waiting := false, granted := true, plan := [], captureTurn := none, released := false, fault := false
              faultCode := 0, copyoutAborted := false } else s.save)) ∧
    (s.withdraws agent = false ∨ s.withdrawalOf agent = none → exec (.withdrawal agent) s = .next s) ∧
    (∀ tok, s.withdraws agent = true → s.withdrawalOf agent = some tok → s.tokNext (.withdrawal agent tok) = true →
      ∃ t, exec (.withdrawal agent) s = .next t
      ∧ t = { s with cores := t.cores, intakes := t.intakes, sweeps := t.sweeps, save := t.save, tokens := t.tokens
                     held := t.held, tokMsgs := t.tokMsgs, counters := t.counters }
      ∧ (∀ e ∈ t.tokens, ∀ w ∈ e.2.waiters, w.1 ≠ agent) ∧ (∀ e ∈ t.held, ∀ o ∈ e.2, o.waitOf agent = false)
      ∧ (∀ m ∈ t.tokMsgs, m.agentOf ≠ some agent) ∧ t.withdraws agent = false)

/-- R168 to R184: the three commands of the layout loader, section by section. -/
def Obligations.LayoutCommands : Prop :=
  ∀ s : State,
    let base := s.fld bLayout 0x100 6 46 * 64
    let refused (t : State) (code : Byte) : Prop :=
      t.loader.refused = true ∧ t.loader.code = code ∧ t.loader.ignored = false ∧ t = { s with loader := t.loader }
    let clean := { s.loader with refused := false, code := 0, ignored := false }
    let ended : State := { s with loader := { s.loader with busy := none } }
    let ignored : State := { s with loader := { s.loader with ignored := true } }
    (∀ (mask : BitVec 9) (site : BitVec 6) (c : Instr), c ∈ [.verify, .layoutLoad mask, .siteOnly mask site] →
      ∃ t, exec c { s with security := { s.security with asked := [] } } = .next t
        ∧ exec c s = .next (State.answerAsked { t with security := { t.security with asked := s.security.asked } })) ∧
    (s.security.asked = [] →
    (s.power.phase < 9 → ∀ (mask : BitVec 9) (site : BitVec 6),
      exec .verify s = .next s ∧ exec (.layoutLoad mask) s = .next s ∧ exec (.siteOnly mask site) s = .next s) ∧
    (9 ≤ s.power.phase →
    (∀ c, s.loader.busy = some c → ∀ (mask : BitVec 9) (site : BitVec 6),
      exec .verify s = .next (if c = .verify then ended.verifyRun else ignored)
      ∧ exec (.layoutLoad mask) s = .next (if c = .load mask then State.loadRun mask ended else ignored)
      ∧ exec (.siteOnly mask site) s = .next (if c = .siteOnly mask site then State.siteOnlyRun mask site ended else ignored)) ∧
    (s.loader.busy = none →
    (∃ t, exec .verify s = .next t ∧ t.loader.ignored = false ∧ (t.loader.verified = true ↔ t.loader.refused = false)
      ∧ (t.loader.refused = true → t.loader.code ∈ [1, 2, 3, 4, 5, 6, (8 : Byte)])
      ∧ t.tokens = s.tokens ∧ (s.upsets = [] → t.regs = s.regs) ∧ t.blocks = s.blocks ∧ t.cores = s.cores ∧ t.dieMap = s.dieMap) ∧
    (inImageMemory base 128 = false → ∃ t, exec .verify s = .next t ∧ refused t 8 ∧ t.loader.verified = false) ∧
    (let s0 := s.acceptLayout.dropVerified
      let r1 := s0.readRun whoLoader base 128
      let len := imageLength r1.2.data
      let r2 := r1.1.readRun whoLoader (base + 128) (len - 128)
      let img := (r1.2 ++ r2.2).data
      let body := bodyLength img
      let digest := shake256 (img.take body) 64
      inImageMemory base 128 = true → (r1.2 ++ r2.2).anyPoison = false → len ≤ imageMax → inImageMemory base len = true →
      headerOk img = true → dirOk img = true → digest = slice img body 64 →
      s.signatureOk (imageSigned img) digest (slice img (body + 64) signatureBlock) true = true →
      fieldLe img ((dirLines img).getD 8 (0, 0, [])).1 1 ≤ s.floor →
      (sectionsOk s img (dirLines img) 1 (dirLines img)).2 = true →
      ∃ t, exec .verify s = .next t ∧ t.loader.verified = true ∧ t.loader.base = base ∧ t.loader.digest = digest
        ∧ t.loader.dirs = dirLines img ∧ t.loader.jobId = BitVec.ofNat 64 (fieldLe img 24 8)
        ∧ t.loader.mapVerified = mapBytes (slice img ((dirLines img).getD 0 (0, 0, [])).1 64)) ∧
    (s.loader.verified = false → ∀ (mask : BitVec 9) (site : BitVec 6),
      (∃ t, exec (.layoutLoad mask) s = .next t ∧ refused t 9) ∧ ∃ t, exec (.siteOnly mask site) s = .next t ∧ refused t 9) ∧
    (s.loader.verified = true →
      let line (ty : Nat) := s.loader.dirs.getD (ty - 1) (0, 0, [])
      let bit (ty : Nat) : BitVec 9 := BitVec.ofNat 9 (2 ^ (ty - 1))
      let r (ty : Nat) := State.readRun { s with loader := clean } whoLoader (s.loader.base + (line ty).1) (line ty).2.1
      let d (ty : Nat) := (r ty).2.data
      let good (ty : Nat) : Prop := (r ty).2.anyPoison = false ∧ shake256 (d ty) 32 = (line ty).2.2
      let shut := s.keepsOut
      let whole (ty : Nat) (t : State) : Prop :=
        t.loader.refused = false ∧ t.loader.loaded = s.loader.loaded ||| bit ty
          ∧ t.loader.partLoad = s.loader.partLoad &&& ~~~(bit ty) ∧ Map.find t.loader.recorded ty = some (line ty).2.2
      let partly (ty : Nat) (t : State) : Prop :=
        t.loader.refused = false ∧ t.loader.partLoad = s.loader.partLoad ||| bit ty ∧ t.loader.loaded = s.loader.loaded
          ∧ t.loader.recorded = s.loader.recorded
      let load (ty : Nat) (p : State → Prop) : Prop := ∃ t, exec (.layoutLoad (bit ty)) s = .next t ∧ p t
      let used (c : Nat) (p : Nat) : Prop := s.physCore c = some p
      (∃ t, exec (.layoutLoad 0) s = .next t ∧ refused t 10) ∧
      (∀ (mask : BitVec 9) (site : BitVec 6), (mask = 0 ∨ 51 < site.toNat) →
        ∃ t, exec (.siteOnly mask site) s = .next t ∧ refused t 10) ∧
      (∀ ty, 1 ≤ ty → ty ≤ 9 →
        (¬ good ty → load ty fun t => t.loader = { clean with refused := true, code := 7 } ∧ t.energy = s.energy ∧ t.dieMap = s.dieMap
          ∧ t.routes = s.routes ∧ t.allots = s.allots ∧ t.tokens = s.tokens ∧ t.blocks = s.blocks ∧ (s.upsets = [] → t.regs = s.regs)) ∧
        (good ty → (ty = 2 ∨ ty = 5 ∨ ty = 8) → s.loader.dieMapLoaded = false → load ty fun t =>
          t.loader = { clean with refused := true, code := 10 } ∧ t.allots = s.allots ∧ t.tokens = s.tokens
            ∧ (s.upsets = [] → t.regs = s.regs))) ∧
      (good 1 → (d 1).length = 64 →
        ((∀ k, k < 4 → shut (bMesh k) = false) → load 1 fun t => whole 1 t ∧ t.loader.dieMapLoaded = true
          ∧ t.loader.mapRecorded = s.loader.mapVerified
          ∧ (∀ n, n < 48 → t.siteOfDie n = some ((mapBytes (d 1)).getD n 0))
          ∧ ∀ i, i < 52 → (t.site i).status =
              (if (s.site i).status = .service ∨ (s.site i).status = .spare then
                (if (mapBytes (d 1)).contains i then .service else .spare) else (s.site i).status)) ∧
        ((∃ k, k < 4 ∧ shut (bMesh k) = true) → load 1 fun t => partly 1 t ∧ t.dieMap = s.dieMap)) ∧
      (good 2 → s.loader.dieMapLoaded = true → load 2 fun t =>
        (∀ x ∈ stageEntries (d 2), ∀ p, used x.1 p → (∀ y ∈ stageEntries (d 2), used y.1 p → y = x) →
          (shut (bCore p) = false → t.fld (bCore p) 0x100 6 46 = x.2.2 / 64 % 2 ^ 46) ∧
          ∀ e, e < 4 → shut (bEng (4 * p + e)) = false → t.fld (bEng (4 * p + e)) 0x100 8 16 = fieldLe (d 2) 0 2)
        ∧ ((∀ x ∈ stageEntries (d 2), ∀ p, used x.1 p → shut (bCore p) = false ∧ ∀ e, e < 4 → shut (bEng (4 * p + e)) = false) →
            whole 2 t)
        ∧ ((∃ x ∈ stageEntries (d 2), ∃ p, used x.1 p ∧ (shut (bCore p) = true ∨ ∃ e, e < 4 ∧ shut (bEng (4 * p + e)) = true)) →
            partly 2 t)) ∧
      (good 3 → load 3 fun t => Map.get t.routes 4 [] = (d 3).take 14
        ∧ (∀ k, k < 4 → Map.get t.routes k [] = if shut (bMesh k) then Map.get s.routes k [] else (d 3).take 14)
        ∧ ((∀ k, k < 4 → shut (bMesh k) = false) → whole 3 t) ∧ ((∃ k, k < 4 ∧ shut (bMesh k) = true) → partly 3 t)) ∧
      (good 4 → (d 4).length = 13312 → load 4 fun t =>
        (∀ k i, k < 4 → i < 256 → shut (bBankTile k) = false → let v := ((d 4).getD (256 * k + i) 0).toNat
          (t.bank (bBankTile k) i).modeCfg = BitVec.ofNat 2 (v % 4) ∧ (t.bank (bBankTile k) i).retainCfg = bitOf v 2)
        ∧ (∀ c p i, c < 384 → used c p → (∀ n, n < 384 → used n p → n = c) → i < 32 → shut (bBankCore p) = false →
            let v := ((d 4).getD (1024 + 32 * c + i) 0).toNat
            (t.bank (bBankCore p) i).modeCfg = BitVec.ofNat 2 (v % 2) ∧ (t.bank (bBankCore p) i).retainCfg = bitOf v 1)
        ∧ ((∀ k, k < 4 → shut (bBankTile k) = false) → (∀ c p, c < 384 → used c p → shut (bBankCore p) = false) → whole 4 t)
        ∧ (((∃ k, k < 4 ∧ shut (bBankTile k) = true) ∨ ∃ c p, c < 384 ∧ used c p ∧ shut (bBankCore p) = true) → partly 4 t)) ∧
      (good 5 → s.loader.dieMapLoaded = true → Map.wf Token.reset s.tokens = true →
        let rs := tokRanges (d 5)
        let naming (i : Nat) := rs.filter fun x => decide (x.first ≤ i) && decide (i ≤ x.last)
        let lets : Prop := (∀ k, k < 4 → shut (bTok k) = false) ∧ ∀ e ∈ s.loader.stages, ∀ p, used e.1 p → shut (bCore p) = false
        (lets → load 5 fun t => whole 5 t
          ∧ (∀ i, naming i = [] → (t.token i).count = 0 ∧ (t.token i).waiters = (s.token i).waiters)
          ∧ (∀ i x, naming i = [x] → (t.token i).count.toNat = (releaseScan x.init (s.token i).waiters).1
              ∧ (t.token i).waiters = (releaseScan x.init (s.token i).waiters).2.1)
          ∧ (∀ a, a ∈ (List.range 16).map agIntake ∨ a ∈ (List.range 16).map agSweep ∨ a = agSave →
              Map.get t.allots a [] = allotOf rs s.loader.stages a)
          ∧ ∀ e ∈ s.loader.stages, ∀ p, used e.1 p → p < 416 → (∀ f ∈ s.loader.stages, used f.1 p → f.1 = e.1) →
              Map.get t.allots p [] = allotOf rs s.loader.stages e.1) ∧
        (¬ lets → load 5 fun t => partly 5 t ∧ t.tokens = s.tokens ∧ t.allots = s.allots)) ∧
      (good 6 →
        (shut bNrg = false → load 6 fun t => whole 6 t
          ∧ t.energy.clockMin = fieldLe (d 6) 0 2 ∧ t.energy.clockMax = fieldLe (d 6) 2 2
          ∧ t.energy.powerCapW = fieldLe (d 6) 4 4 ∧ t.energy.reservoirMax = fieldLe (d 6) 8 8
          ∧ (let price := slice (d 6) (fieldLe (d 6) 16 4) 512
            (∀ k, k < 21 → t.energy.priceScale[k]? = some (fieldLe price (64 + 2 * k) 2))
              ∧ (∀ k, k < 16 → t.energy.priceBase[k]? = some (fieldLe price (128 + 4 * k) 4))
              ∧ ∀ k, k < 63 → t.energy.idle[k]? = some (fieldLe price (192 + 4 * k) 4))
          ∧ (∀ a, (t.account a).corr = 1024)
          ∧ t.energy.reservoir = s.energy.reservoir ∧ t.tokens = s.tokens ∧ t.cores = s.cores ∧ (s.upsets = [] → t.regs = s.regs)) ∧
        (s.isDisabled bNrg = false → load 6 fun t => partly 6 t ∧ t.energy = s.energy ∧ (t.blk bNrg).wwe = true)) ∧
      (good 7 → load 7 fun t =>
        (∀ i, i < 16 → shut (bItk i) = false → t.reg (bItk i) 0x128 = BitVec.ofNat 64 (fieldLe (d 7) 0 8)
          ∧ t.reg (bItk i) 0x130
              = BitVec.ofNat 64 (fieldLe (d 7) 8 4 + fieldLe (d 7) 12 1 * 2 ^ 32 + fieldLe (d 7) 13 1 * 2 ^ 33))
        ∧ (s.upsets = [] → ∀ i, i < 16 → shut (bItk i) = true → t.reg (bItk i) 0x128 = s.reg (bItk i) 0x128)
        ∧ ((∀ i, i < 16 → shut (bItk i) = false) → whole 7 t) ∧ ((∃ i, i < 16 ∧ shut (bItk i) = true) → partly 7 t)) ∧
      (good 8 → s.loader.dieMapLoaded = true →
        let mine (e : Nat) : Prop := ∃ n ∈ s.dieMap, (s.site n.2).status = .service ∧ e / 32 = n.2
        ((∀ e, mine e → shut (bEng e) = false) → load 8 fun t => whole 8 t
          ∧ ∀ e, mine e → t.fld (bEng e) 0x100 0 1 = fieldLe (d 8) 0 1 % 2) ∧
        ((∃ e, mine e ∧ shut (bEng e) = true) → load 8 fun t => partly 8 t
          ∧ ∀ e, s.upsets = [] → t.fld (bEng e) 0x100 0 1 = s.fld (bEng e) 0x100 0 1)) ∧
      (good 9 → load 9 fun t => whole 9 t ∧ t.energy = s.energy ∧ t.tokens = s.tokens ∧ t.blocks = s.blocks) ∧
      (good 1 → (d 1).length = 64 → ∀ site : BitVec 6, site.toNat ≤ 51 → s.loader.siteOnlyMap site.toNat = true →
        (∀ i, i < 8 → Map.find s.loader.recorded (i + 2) = some (line (i + 2)).2.2) →
        shut (bMesh (tileOfSite site.toNat)) = false →
        ∃ t, exec (.siteOnly 1 site) s = .next t ∧ t.loader.refused = false ∧ Map.find t.loader.recorded 1 = some (line 1).2.2
          ∧ t.loader.mapRecorded = s.loader.mapVerified
          ∧ (∀ n, n < 48 → n / 12 = tileOfSite site.toNat → t.siteOfDie n = some ((mapBytes (d 1)).getD n 0))
          ∧ t.tokens = s.tokens ∧ t.cores = s.cores ∧ t.engines = s.engines ∧ t.allots = s.allots)))))

/-- R201 to R208: what places a boundary, and what waits for one. Instants are in ps, edges in cycles of 625 ps. -/
def Obligations.TurnReferenceEvents : Prop :=
  ∀ s : State,
    let t0 := s.turns
    let p0 := t0.cfg.nominalNs
    let glitch (t : State) (time : Nat) : Prop :=
      t = { s with turns := { t0 with lastEdge := some (625 * time) }, counters := t.counters }
        ∧ t.counter (bTrn 4) 0x148 = s.counter (bTrn 4) 0x148 + 1
    (∀ time, t0.cfg.source ≠ 0 → exec (.turnInEdge time) s = .next s) ∧
    (∀ time, t0.cfg.source = 0 → t0.holdover = false → t0.due = none → t0.ending = false →
      (inWindow (625 * time - t0.lastRef) p0 = true → exec (.turnInEdge time) s
        = .next { s with turns := { t0 with due := some (625 * time, true), lastEdge := some (625 * time) } }) ∧
      (inWindow (625 * time - t0.lastRef) p0 = false → ∃ t, exec (.turnInEdge time) s = .next t ∧ glitch t time)) ∧
    (∀ time, t0.cfg.source = 0 → t0.holdover = false → t0.ending = false → t0.due.isSome = true →
      ∃ t, exec (.turnInEdge time) s = .next t ∧ glitch t time) ∧
    (∀ time, t0.cfg.source = 0 → t0.holdover = false → t0.ending = true → exec (.turnInEdge time) s
      = .next { s with turns := if t0.due = none ∧ halfPast (625 * time - t0.lastRef) p0 = true then
          { t0 with due := some (625 * time, true), ending := false, lastEdge := some (625 * time) }
        else { t0 with lastEdge := some (625 * time) } }) ∧
    (∀ time e, t0.cfg.source = 0 → t0.holdover = true → t0.lastEdge = some e → t0.goodEdges ≠ 0 → t0.goodEdges < 15 →
      t0.ending = false →
      exec (.turnInEdge time) s = .next { s with turns := { t0 with
        goodEdges := if inWindow (625 * time - e) p0 then t0.goodEdges + 1 else 1, lastEdge := some (625 * time) } }) ∧
    (∀ (port : PortIx) turn lead acc arrival send, (s.ladder port).markIn.head? ≠ some (turn, (lead : BitVec 4).toNat, acc) →
      exec (.turnMark port turn lead acc arrival send) s = .next s) ∧
    (∀ (port : PortIx) turn lead acc arrival send, (s.ladder port).markIn.head? = some (turn, (lead : BitVec 4).toNat, acc) →
      (t0.cfg.source ≠ 1 ∨ t0.cfg.markPort ≠ port) → exec (.turnMark port turn lead acc arrival send) s
        = .next (s.setLadder port { s.ladder port with markIn := (s.ladder port).markIn.drop 1 })) ∧
    (∀ (port : PortIx) turn lead acc (arrival send : Nat), (s.ladder port).markIn.head? = some (turn, (lead : BitVec 4).toNat, acc) →
      t0.cfg.source = 1 → t0.cfg.markPort = port →
      let hop := (s.ladder port).hopPs
      let e : Int := (arrival : Int) - acc.toNat - hop.toNat
      let seen : Turns := { t0 with marks := (e :: t0.marks).take 16 }
      let place : Int := e + lead.toNat * seen.meanPs
      let taken (p : Nat) : Ladder :=
        if p = port then { s.ladder p with markIn := (s.ladder p).markIn.drop 1 } else s.ladder p
      ∃ t, exec (.turnMark port turn lead acc arrival send) s = .next t
        ∧ t = { s with ladders := t.ladders, turns := t.turns, counters := t.counters, sheets := t.sheets }
        ∧ (∀ p, p < 8 → t.ladder p = if bitOf t0.cfg.forward.toNat p then
            { taken p with markDue :=
                (s.ladder p).markDue ++ [(turn, lead.toNat, acc + hop + BitVec.ofNat 32 (send - arrival))] }
            else taken p)
        ∧ (place < arrival → t.turns = t0 ∧ t.counter (bTrn 4) 0x158 = s.counter (bTrn 4) 0x158 + 1)
        ∧ ((arrival : Int) ≤ place → t0.holdover = false → t.turns = { t0 with
            marks := (e :: t0.marks).take 16, ending := false, turnJump := turn != t0.expected
            placed := t0.placed ++ [((place - 25000).toNat, turn)] })) ∧
    ((t0.cfg.source = 2 ∨ t0.holdover = true ∨ t0.ending = true ∨ t0.due.isSome = true
        ∨ (t0.cfg.source = 1 ∧ ∃ x ∈ t0.placed, x.1 ≤ t0.lastRef + t0.lateAfter)) → exec .missedBoundary s = .next s) ∧
    (t0.cfg.source ≠ 2 → t0.holdover = false → t0.ending = false → t0.due = none →
      (t0.cfg.source = 1 → ∀ x ∈ t0.placed, t0.lastRef + t0.lateAfter < x.1) →
      ∃ t, exec .missedBoundary s = .next t ∧ t.counter (bTrn 4) 0x150 = s.counter (bTrn 4) 0x150 + 1
        ∧ t = { s with turns := t.turns, counters := t.counters, sheets := t.sheets }
        ∧ t.turns = (if t0.missedRun < 3 then
            { t0 with due := some (t0.lastRef + t0.lateAfter, false), missedRun := t0.missedRun + 1 }
          else
            { t0 with due := some (t0.lastRef + t0.lateAfter, false), missedRun := 0, goodEdges := 0, holdover := true })
        ∧ (t0.missedRun < 3 → t.sheets = s.sheets)) ∧
    ((t0.due.isSome = true ∨ (t0.cfg.source ≠ 2 ∧ t0.holdover = false)) → exec .holdoverBoundary s = .next s) ∧
    (t0.due = none → (t0.cfg.source = 2 ∨ t0.holdover = true) → exec .holdoverBoundary s
      = .next { s with turns := { t0 with due := some (t0.lastRef + 1000 * p0, decide (t0.cfg.source = 2)) } }) ∧
    (∀ v, t0.cfg.source ≠ 1 → exec (.trnSet v) s = .next { s with turns := { t0 with next := some v } }) ∧
    (∀ v, t0.cfg.source = 1 → ∃ t, exec (.trnSet v) s = .next t ∧ t = { s with counters := t.counters }
      ∧ t.counter (bTrn 4) 0x170 = s.counter (bTrn 4) 0x170 + 1) ∧
    (∀ (trn : TrnIx) (hi : Word64),
      let i : Nat := trn
      let x : TtEntry :=
        { turn := Map.get t0.stagedLo i 0, action := bitsOf hi.toNat 0 4, target := BitVec.ofNat 16 (bitsOf hi.toNat 16 16)
          arg := BitVec.ofNat 32 (bitsOf hi.toNat 32 32) }
      (s.appendReasons i x = [] → ∃ t, exec (.turnTableAppend trn hi) s = .next t ∧ t.table i = s.table i ++ [x]
        ∧ (∀ j, j ≠ i → t.table j = s.table j) ∧ t = { s with turns := { t0 with tables := t.turns.tables } }) ∧
      (∀ r more, s.appendReasons i x = r :: more → ∃ t, exec (.turnTableAppend trn hi) s = .next t
        ∧ t.turns.tables = t0.tables ∧ t.counter (bTrn i) 0x168 = s.counter (bTrn i) 0x168 + 1
        ∧ (t0.refusedThisTurn.contains i = true → t = { s with counters := t.counters })
        ∧ (t0.refusedThisTurn.contains i = false → i ∈ t.turns.refusedThisTurn)))

/-- R207 to R209, R212, R216, R218: the boundary as a whole. -/
def Obligations.BoundariesRunTheTurn : Prop :=
  ∀ (s : State) (m : Measures),
    (s.turns.boundaryDue = none → exec (.turnBoundary m) s = .next s) ∧
    (∀ d, s.turns.boundaryDue = some d → ∃ t, exec (.turnBoundary m) s = .next t
      ∧ t.turns = { s.turns.advance d.1 d.2 with tables := t.turns.tables }
      ∧ t.turns.now = s.turns.nextNumber
      ∧ (∀ i, i < 5 → t.counter (bTrn i) 0x140 = s.counter (bTrn i) 0x140 + 1)
      ∧ (∀ i, i < 5 → ∀ x ∈ t.table i, x ∈ s.table i ∧ x.turn.ult s.turns.nextNumber = false
          ∧ (x.turn = s.turns.nextNumber → x.action ≠ 1 ∧ x.action ≠ 2 ∧ x.action ≠ 3))
      ∧ t.cores = s.cores ∧ (∀ n, t.engine n = { s.engine n with waitSeen := (t.engine n).waitSeen, waitLong := (t.engine n).waitLong })
      ∧ (s.testers = [] → t.flash = s.flash) ∧ (s.upsets = [] → t.regs = s.regs) ∧ (s.save.appends = [] → t.mem = s.mem)
      ∧ (s.isEnabled bNrg = true → Map.wf AgentUse.reset s.energy.agents = true →
          let plan : Plan := (if t.energy.hot then s.energy.coolPlan else s.energy.nextPlan).getD
            { clockMhz := s.energy.clockMhz, grant := t.grantPips, borrow := t.borrowPips t.grantPips
              budget := min (t.grantPips + t.borrowPips t.grantPips) t.supplyPips, allot := [] }
          t.energy.clockMhz = plan.clockMhz ∧ t.energy.grant = plan.grant ∧ t.energy.budget = plan.budget
            ∧ t.energy.nextPlan.isSome = true
            ∧ ∀ x, x < pricedAgents → (x = pSave → s.save.appends = []) →
                (t.agentUse x).balance = Map.get plan.allot x 0 + min (s.agentUse x).balance 0)
      ∧ (s.isEnabled bNrg = false → Map.wf AgentUse.reset s.energy.agents = true →
          t.energy.clockMhz = s.energy.clockMhz
            ∧ ∀ x, (x = pSave → s.save.appends = []) → (t.agentUse x).balance = (s.agentUse x).balance))

/-- R211, R217, R222: the three commands of the planner between boundaries. -/
def Obligations.PlannerLimits : Prop :=
  ∀ s : State,
    (∀ measured left : Nat,
      let issued := ((List.range 416).map s.incompletePrice).sum + s.owedPrice
      let total := measured * 65536 * 1000000 + issued * 1000000 + s.idleTotal s.energy.clockMhz * left * 65536
      (s.isEnabled bNrg = true → s.energy.budget * 65536 * 1000000 ≤ total → s.energy.backstop = false →
        ∃ t, exec (.backstopCheck measured left) s = .next t
          ∧ t = { s with energy := { s.energy with backstop := true }, counters := t.counters }
          ∧ t.counter bNrg 0x198 = s.counter bNrg 0x198 + 1 ∧ ∀ agent price, t.covered agent price = false) ∧
      ((s.isEnabled bNrg = false ∨ total < s.energy.budget * 65536 * 1000000 ∨ s.energy.backstop = true) →
        exec (.backstopCheck measured left) s = .next s)) ∧
    (let limit := s.fld bNrg 0x108 16 16;
      (limit ≠ 0 → s.energy.lastGrant + limit ≤ s.elapsed → s.energy.grantExpired = false →
        ∃ t, exec .grantTimeout s = .next t ∧ t.energy = { s.energy with grantExpired := true }
          ∧ t = { s with energy := t.energy, sheets := t.sheets, counters := t.counters }
          ∧ t.grantPips ≤ s.wattPips 2400) ∧
      ((limit = 0 ∨ s.elapsed < s.energy.lastGrant + limit ∨ s.energy.grantExpired = true) →
        exec .grantTimeout s = .next s)) ∧
    (∀ a : BitVec 6, exec (.nrgCorrSel a) s
      = .next (if a.toNat < 57 then { s with energy := { s.energy with corrSel := a.toNat } } else s))

/-- R225 to R251: the course of a run, what each move of it leaves in memory, and the commands beside it. -/
def Obligations.SweepRunsMoveOn : Prop :=
  ∀ (s : State) (engine : Ix16),
    let i : Nat := engine
    let y := s.sweep i
    let step := s.sweepStepNo i
    let only (t : State) (z : Sweep) : Prop := t = { s with sweeps := t.sweeps } ∧ t.sweep i = z ∧ ∀ j, j ≠ i → t.sweep j = s.sweep j
    let moved (z : Sweep) (p : State → Prop) : Prop := ∃ t, exec (.sweepRun engine 1) s = .next t ∧ t.sweep i = z
      ∧ (∀ j, j ≠ i → t.sweep j = s.sweep j) ∧ t.tokens = s.tokens ∧ t.cores = s.cores ∧ t.regs = s.regs ∧ t.flash = s.flash ∧ p t
    let still (t : State) : Prop := t.mem = s.mem
    let plus (off k : Nat) (t : State) : Prop := t.counter (bSwp i) off = s.counter (bSwp i) off + BitVec.ofNat 64 k
    let left (code : Nat) (stage : SweepStage) : Sweep :=
      let z := if y.faulted.contains y.shard then y else
        { y with
          shardFault := true, faulted := setAdd y.faulted y.shard
          faultShard := if y.shardFault then y.faultShard else y.shard
          faultCode := if y.shardFault then y.faultCode else BitVec.ofNat 4 code }
      { z with shard := y.shard + 1, stage := stage, scaleWait := false, waitLong := false }
    let paid (n : Nat) : Bool := s.covered (pSweep i) (s.price [(11, aTile (i / 4), n)])
    let unpaid : Prop := ∃ t, exec (.sweepRun engine 1) s = .next t ∧ t = { s with energy := t.energy }
    let flagged (fl : Flags) (z : Sweep) : Sweep :=
      { z with shardFlags := Flags.or y.shardFlags fl, flags := Flags.or y.flags fl }
    (∀ n, s.sweepActive i = false → exec (.sweepRun engine n) s = .next s ∧ exec (.scaleRecheck engine) s = .next s) ∧
    (exec (.sweepRun engine 0) s = .next s) ∧
    (∀ n, y.stage = .idle → y.granted = false → exec (.sweepRun engine n) s = .next s) ∧
    (s.sweepActive i = true → y.scaleWait = false →
      (y.stage = .idle → y.granted = true → ∃ t, exec (.sweepRun engine 1) s = .next t
        ∧ only t { y with
            granted := false, running := true, stage := .commits, shard := 0, shardFault := false, faulted := []
            faultShard := 0, faultCode := 0 }) ∧
      (y.stage = .commits → s.listLen i ≤ y.shard → ∃ t, exec (.sweepRun engine 1) s = .next t
        ∧ only t { y with shard := 0, stage := .check }) ∧
      (y.stage = .check → s.listLen i ≤ y.shard →
        let start : BitVec 16 := BitVec.ofNat 16 (s.fld (bSwp i) 0x110 0 16)
        let done : BitVec 16 := BitVec.ofNat 16 (s.fld (bSwp i) 0x110 16 16)
        ∃ t, exec (.sweepRun engine 1) s = .next t
          ∧ t = { s with sweeps := t.sweeps, regs := t.regs, sendq := t.sendq
                         tokMsgs := s.tokMsgs ++ [.signal (agSweep i) done 1, .wait (agSweep i) start 1] }
          ∧ t.sweep i = { y with
              lastStep := BitVec.ofNat 32 step, granted := false, waiting := true, running := false, stage := .idle }
          ∧ (∀ j, j ≠ i → t.sweep j = s.sweep j)
          ∧ (y.shardFault = true → t.regs = s.regs)
          ∧ (y.shardFault = false → t.fld (bSwp i) 0x118 0 32 = (step + 1) % 2 ^ 32))) ∧
    (s.sweepActive i = true → y.scaleWait = false → quiet s →
      (y.shard < s.listLen i → inDram (s.shardAddr i y.shard) 64 →
        let d := bytesAt s (s.shardAddr i y.shard) 64
        let x := shardOf d
        let h := bytesAt s x.program 64
        (y.stage = .commits →
          (x.commit = false → moved { y with shard := y.shard + 1 } still) ∧
          (x.commit = true → x.valid = false → moved (left 4 .commits) still) ∧
          (x.commit = true → x.valid = true → inDram x.scale 128 →
            (x.elements = 0 ∨ (inDram x.program 64 ∧ (progHeaderOk h = false ∨ progRange x.program h = true))) →
            let r := bytesAt s x.scale 128
            let pend := (List.range (fieldLe r 9 1)).map fun k => fieldLe (bytesAt s (fieldLe r 80 8) (4 * fieldLe r 9 1)) (4 * k) 4
            (scaleRecordOk r = false → moved (left 4 .commits) still) ∧
            (scaleRecordOk r = true → fieldLe r 0 4 = step → moved { y with shard := y.shard + 1 } still) ∧
            (scaleRecordOk r = true → fieldLe r 0 4 ≠ step → inDram (fieldLe r 80 8) (4 * fieldLe r 9 1) →
              moved { y with shard := y.shard + 1 } fun t => OnlyBytes s t x.scale (committed r pend step) ∧ plus 0x158 1 t
                ∧ plus 0x160 (if bitOf (fieldLe (committed r pend step) 7 1) 0 then 1 else 0) t))) ∧
        (y.stage = .check → y.faulted.contains y.shard = false →
          let os := bytesAt s (x.program + 64) (4 * (progOps h).2)
          let p := progOf h os
          (x.valid = false → moved (left 4 .check) fun t => still t ∧ plus 0x180 1 t) ∧
          (x.valid = true → x.elements = 0 → moved { y with shard := y.shard + 1 } still) ∧
          (x.valid = true → x.elements ≠ 0 → inDram x.program 64 →
            (progHeaderOk h = false → moved (left 3 .check) still) ∧
            (progHeaderOk h = true → progRange x.program h = false →
              inDram (x.program + 64) (4 * (progOps h).2) → inDram (p.schedEntry x.program step) 32 → moved (left 4 .check) still) ∧
            (progHeaderOk h = true → progRange x.program h = true → p.opsOk = true →
              moved { y with
                stage := .moment 0, shardFlags := .none, desc := d, prog := h ++ os
                row := if step = 0 then [] else bytesAt s (p.schedEntry x.program step) 32 } still)))) ∧
      (let x := y.shardNow
        let p := y.program
        let next (l : Nat) : SweepStage := if l + 1 < x.momentLines then .moment (l + 1) else .weight 0
        let nextW (l : Nat) : SweepStage := if x.masterLines ≤ l + 1 then .scaleWait else .weight (l + 1)
        let weights (lo n : Nat) : List Nat := (List.range n).map fun k => leNat (packed s x.master 40 3 (lo + k))
        let moments (lo n : Nat) : List Nat :=
          (List.range n).flatMap fun k => let b := packed s x.moment 30 4 (lo + k); [fieldLe b 0 2, fieldLe b 2 2]
        x.valid = true → inDram x.master (128 * x.masterLines) → inDram x.moment (128 * x.momentLines) →
        (∀ l, y.stage = .moment l → l < x.momentLines →
          let a := x.moment + 128 * l
          let n := min 30 (x.elements - 30 * l)
          let old := bytesAt s a 128
          let st := fieldLe old 0 4
          let gs := (List.range n).map fun k => leNat (bytesAt s (x.grad + 2 * (30 * l + k)) 2)
          let ws := if p.usesW then weights (30 * l) n else []
          let line := momentLine p (y.consts step) step gs (moments (30 * l) n) ws
          (st = step → moved { y with shardFlags := Flags.or y.shardFlags (flagsOfByte (fieldLe old 4 1)), stage := next l }
            fun t => still t ∧ plus 0x148 1 t) ∧
          (st ≠ step → (st + 1) % 2 ^ 32 ≠ step → moved (left 1 .check) still) ∧
          ((st + 1) % 2 ^ 32 = step → st ≠ step → paid n = true → moved { flagged line.2 y with stage := next l } fun t =>
            OnlyBytes s t a line.1 ∧ plus 0x140 n t) ∧
          ((st + 1) % 2 ^ 32 = step → st ≠ step → paid n = false → unpaid)) ∧
        (∀ l, y.stage = .weight l → l < x.masterLines →
          let a := x.master + 128 * l
          let n := min 40 (x.elements - 40 * l)
          let old := bytesAt s a 128
          let st := fieldLe old 0 4
          let line := masterLine p (y.consts step) step (weights (40 * l) n) (moments (40 * l) n)
          (st = step → moved { y with shardFlags := Flags.or y.shardFlags (flagsOfByte (fieldLe old 4 1)), stage := nextW l }
            fun t => still t ∧ plus 0x148 1 t) ∧
          (st ≠ step → (st + 1) % 2 ^ 32 ≠ step → moved (left 1 .check) still) ∧
          ((st + 1) % 2 ^ 32 = step → st ≠ step → paid n = true → moved { flagged line.2 y with stage := nextW l } fun t =>
            OnlyBytes s t a line.1 ∧ plus 0x140 n t) ∧
          ((st + 1) % 2 ^ 32 = step → st ≠ step → paid n = false → unpaid)) ∧
        (y.stage = .scaleWait → x.needsScale = false → moved { y with stage := .working 0 } still) ∧
        (∀ c, y.stage = .working c →
          let lo := (x.chunkElems c).1
          let n := (x.chunkElems c).2 - lo
          let after : SweepStage := if c + 1 < x.chunks.2 then .working (c + 1) else .finish
          let e8 : BitVec 8 := if x.scale = 0 then 127 else BitVec.ofNat 8 (fieldLe y.record 4 1)
          let outs := (weights lo n).map fun u => convertScaled (f32 (widen32 .bf24 u)) x.workFmt e8 false p.satMode
          lo + n ≤ x.elements →
          (paid n = true → x.workSize = none → moved { y with stage := after } still) ∧
          (∀ sz, paid n = true → x.workSize = some sz → inDram x.work (sz * x.elements) →
            moved { flagged (outs.foldl (fun g o => Flags.or g o.2) Flags.none) y with stage := after } fun t =>
              OnlyBytes s t (x.work + sz * lo) (outs.flatMap fun o => leBytes sz o.1)) ∧
          (paid n = false → (∀ sz, x.workSize = some sz → inDram x.work (sz * x.elements)) → unpaid)) ∧
        (y.stage = .finish →
          let (nn, ni, first, amax) := masterStats (weights 0 x.elements)
          let record := if x.needsScale then y.record else bytesAt s x.scale 128
          let slot := fieldLe record 80 8 + 4 * x.slot
          let status := leBytes 4 nn ++ leBytes 4 ni ++ leBytes 4 first ++ leBytes 4 amax ++ leBytes 8 0
          inDram x.status 32 → (x.slot ≠ 255 → inDram slot 4 ∧ (slot + 4 ≤ x.status ∨ x.status + 32 ≤ slot)
            ∧ (x.needsScale = false → inDram x.scale 128 ∧ scaleRecordOk record = true)) →
          moved { y with
            tflags := Map.put y.tflags x.tensor (Flags.or (Map.get y.tflags x.tensor .none) y.shardFlags) .none
            shard := y.shard + 1, stage := .check } fun t =>
            plus 0x150 1 t
              ∧ (∀ k, k < 4 → Map.get t.mem (x.status + k) unlistedByte = BitVec.ofNat 8 (step / 256 ^ k))
              ∧ Map.get t.mem (x.status + 4) unlistedByte = BitVec.ofNat 8 y.shardFlags.bits
              ∧ (∀ k, k < 24 → Map.get t.mem (x.status + 8 + k) unlistedByte = status.getD k 0)
              ∧ (x.slot ≠ 255 → ∀ k, k < 4 → Map.get t.mem (slot + k) unlistedByte = BitVec.ofNat 8 (amax / 256 ^ k))
              ∧ ∀ k, (k < x.status ∨ x.status + 32 ≤ k) → (x.slot = 255 ∨ k < slot ∨ slot + 4 ≤ k) →
                  Map.get t.mem k unlistedByte = Map.get s.mem k unlistedByte))) ∧
    (y.scaleWait = false → exec (.scaleRecheck engine) s = .next s) ∧
    (s.sweepActive i = true → y.scaleWait = true → s.sweepStalls i = true →
      exec (.scaleRecheck engine) s = .next { s with ncl := { s.ncl with waiting := setAdd s.ncl.waiting (sweepWho i) } }) ∧
    (s.sweepActive i = true → y.scaleWait = true → s.sweepStalls i = false →
      let x := y.shardNow
      let r := (s.sweepRead i x.scale 128).2
      x.needsScale = true → r.anyPoison = false → scaleRecordOk r.data = true →
      ∃ t, exec (.scaleRecheck engine) s = .next t ∧ (∀ j, j ≠ i → t.sweep j = s.sweep j)
        ∧ t.sweep i = if fieldLe r.data 0 4 = step then
            { y with stage := .working 0, scaleWait := false, waitLong := false, record := r.data }
          else { y with stage := .scaleWait }) ∧
    (let limit := s.fld (bSwp i) 0x108 32 16;
      (y.scaleWait = true → y.waitLong = false → limit ≠ 0 → y.waitSince + limit ≤ s.elapsed →
        ∃ t, exec (.sweepWaitLong engine) s = .next t ∧ t.sweep i = { y with waitLong := true }
          ∧ t = { s with sweeps := t.sweeps, sheets := t.sheets, counters := t.counters }) ∧
      ((y.scaleWait = false ∨ y.waitLong = true ∨ limit = 0 ∨ s.elapsed < y.waitSince + limit) →
        exec (.sweepWaitLong engine) s = .next s)) ∧
    (∀ tensor, ∃ t, exec (.swpTflagSel engine tensor) s = .next t ∧ only t { y with tflagSel := tensor })

/-- R254 to R266: the save engine's commands and the journal's. A held price keeps what has been read and nothing else. -/
def Obligations.SavesAndJournal : Prop :=
  ∀ s : State,
    let x := s.save
    let tok (off lo : Nat) : BitVec 16 := BitVec.ofNat 16 (s.fld bSav off lo 16)
    let releaseMsg : List TokMsg :=
      if x.released then [] else [.signal agSave (tok 0x120 16) (BitVec.ofNat 32 (s.fld bSav 0x128 0 32))]
    let doneMsg : TokMsg := .signal agSave (tok 0x120 32) 1
    let waitMsg : TokMsg := .wait agSave (tok 0x120 0) 1
    let sent (t : State) (ms : List TokMsg) : Prop := t.tokMsgs = s.tokMsgs ++ ms ∧ t.tokens = s.tokens
    let faulted (t : State) (code : BitVec 4) : Prop :=
      t.save.fault = true ∧ t.save.faultCode = code ∧ t.save.stage = .idle ∧ t.save.waiting = true
        ∧ sent t (releaseMsg ++ [doneMsg, waitMsg]) ∧ (errorFree s → t.flash = s.flash)
    let held (t : State) (y : Save) : Prop := t.save = y ∧ sent t []
    ((s.saveActive = false ∨ x.granted = false) → exec .saveStart s = .next s) ∧
    (s.saveActive = true → x.granted = true →
      let read := if x.plan = [] then (s.readPlan s.planBase).2 else some x.plan
      (x.plan = [] → s.planStalls s.planBase = true → exec .saveStart s = .next (s.hostStall saveWho)) ∧
      ((x.plan = [] → s.planStalls s.planBase = false) →
      (read = none → ∃ t, exec .saveStart s = .next t ∧ faulted t 4) ∧
      (∀ d, read = some d → let p := planOf d
        (p.ok = false → ∃ t, exec .saveStart s = .next t ∧ faulted t 1) ∧
        (p.ok = true → s.slotSize < p.jrnOff → ∃ t, exec .saveStart s = .next t ∧ faulted t 5) ∧
        (p.ok = true → p.jrnOff ≤ s.slotSize → s.savePay p.startBytes = none →
          ∃ t, exec .saveStart s = .next t ∧ held t { x with plan := d }) ∧
        (p.ok = true → p.jrnOff ≤ s.slotSize → s.savePay p.startBytes ≠ none →
          ∃ t, exec .saveStart s = .next t ∧ sent t []
            ∧ t.save = { x with plan := d, stage := .started, granted := false, slot := t.save.slot, slot0 := t.save.slot0
                                slot1 := t.save.slot1 }
            ∧ t.save.slot = (if x.newestSlot = some 0 then 1 else 0) ∧ t.save.slotMark t.save.slot = none
            ∧ t.save.slotMark (1 - t.save.slot) = x.slotMark (1 - t.save.slot))))) ∧
    ((s.saveActive = false ∨ x.captureTurn = none ∨ x.stage = .idle ∨ x.stage = .done ∨ x.stage = .copyOut) →
      exec .saveCapture s = .next s) ∧
    (∀ tc, s.saveActive = true → x.captureTurn = some tc → let p := planOf x.plan
      let quiet := (fitBytes (x.counts.flatMap (leBytes 4)) (pad128 (4 * x.counts.length))).length + phaseBytes (p.phase 1)
      (x.stage = .started → (∃ k ∈ p.tokens, tc.toNat ≤ (s.token k).stamp.toNat) →
        ∃ t, exec .saveCapture s = .next t ∧ faulted t 2) ∧
      (x.stage = .counted → s.savePay quiet = none → ∃ t, exec .saveCapture s = .next t ∧ held t x) ∧
      (x.stage = .captured → s.slotSize < x.payloadLen + 256 → ∃ t, exec .saveCapture s = .next t ∧ faulted t 5) ∧
      (x.stage = .captured → x.payloadLen + 256 ≤ s.slotSize →
        ∀ s1 s2, s.savePay (phaseBytes (p.phase 0) + 128 * (x.jrnLast - x.jrnFirst) + 128) = some s1 →
          State.copyEntries x.slot p.step (p.phase 0) s1 = (s2, none) →
          ((List.range (x.jrnLast - x.jrnFirst)).foldl
            (fun (acc : State × PBytes) i => ((acc.1.readRun saveWho (acc.1.jrnAddr (x.jrnFirst + i)) 128).1,
              acc.2 ++ (acc.1.readRun saveWho (acc.1.jrnAddr (x.jrnFirst + i)) 128).2)) (s2, [])).2.anyPoison = false →
          ∃ t, exec .saveCapture s = .next t ∧ held t { x with stage := .done })) ∧
    ((s.saveActive = false ∨ x.stage ≠ .done) → exec .saveValidate s = .next s) ∧
    (s.saveActive = true → x.stage = .done →
      (s.savePay 128 = none → ∃ t, exec .saveValidate s = .next t ∧ held t x) ∧
      (s.savePay 128 ≠ none → ∃ t, exec .saveValidate s = .next t ∧ t.counter bSav 0x208 = s.counter bSav 0x208 + 1
        ∧ t.save.slotMark x.slot = some (BitVec.ofNat 32 (planOf x.plan).step, BitVec.ofNat 64 (lastSeq x.jrnLast))
        ∧ if s.fld bSav 0x130 0 1 = 1 then t.save.stage = .copyOut ∧ sent t []
          else t.save.waiting = true ∧ t.save.stage = .idle ∧ sent t [doneMsg, waitMsg])) ∧
    ((s.saveActive = false ∨ x.stage ≠ .copyOut) → exec .copyOutSlot s = .next s) ∧
    (s.saveActive = true → x.stage = .copyOut →
      (x.copyoutEpoch = none → s.hostFull s.copyDest (x.payloadLen + 256) = true → exec .copyOutSlot s = .next s) ∧
      (x.copyoutEpoch = none → s.hostFull s.copyDest (x.payloadLen + 256) = false → ∃ t, exec .copyOutSlot s = .next t
        ∧ held t (if (s.savePay (x.payloadLen + 128)).isSome then { x with copyoutEpoch := some s.ncl.epoch } else x)) ∧
      (∀ e, x.copyoutEpoch = some e → e ≠ s.ncl.epoch → ∃ t, exec .copyOutSlot s = .next t
        ∧ t.save = { x with copyoutEpoch := none, copyoutAborted := true, waiting := true, granted := false, stage := .idle }
        ∧ t = { s with save := t.save, energy := t.energy, sendq := t.sendq, tokMsgs := s.tokMsgs ++ [doneMsg, waitMsg] }) ∧
      (x.copyoutEpoch = some s.ncl.epoch → s.copyoutHeld = true → exec .copyOutSlot s = .next s) ∧
      (x.copyoutEpoch = some s.ncl.epoch → s.copyoutHeld = false → s.savePay 128 = none →
        ∃ t, exec .copyOutSlot s = .next t ∧ held t x) ∧
      (x.copyoutEpoch = some s.ncl.epoch → s.copyoutHeld = false → s.savePay 128 ≠ none →
        ∃ t, exec .copyOutSlot s = .next t ∧ sent t [doneMsg, waitMsg]
          ∧ t.save = { x with copyoutEpoch := none, waiting := true, granted := false, stage := .idle })) ∧
    (∀ journal substituted, let base := s.fld bSav 0x140 7 45 * 128
      let s1 := s.startRestore journal substituted
      let read := s1.restoreReads base
      let seg := segmentOf read.2.1.data
      (∀ u, x.restoring = some u → u ≠ (journal, substituted) → exec (.restore journal substituted) s = .next s) ∧
      ((x.restoring = none ∨ x.restoring = some (journal, substituted)) →
        s1 = { s with save := s1.save } ∧ s1.save.restoring = some (journal, substituted) ∧
        (s.power.issueStopped = true → exec (.restore journal substituted) s = .next s1) ∧
        (s.power.issueStopped = false → s.hostWaits base 128 = true →
          exec (.restore journal substituted) s = .next (s1.hostStall saveWho)) ∧
        (s.power.issueStopped = false → s.hostWaits base 128 = false →
        (s1.restoreCheck base substituted read.2.1 read.2.2 = none → ∃ t, exec (.restore journal substituted) s = .next t ∧ sent t []
          ∧ t.save = { x with restoring := none, restoreRefused := true, slot0 := t.save.slot0, slot1 := t.save.slot1 }) ∧
        (∀ p, s1.restoreCheck base substituted read.2.1 read.2.2 = some p →
          let n := (p.entries.map (·.len)).sum + (if journal then 128 * (seg.2 - seg.1) else 0)
          (read.1.savePay n = none → ∃ t, exec (.restore journal substituted) s = .next t ∧ sent t []
            ∧ t.save.restoring = some (journal, substituted)) ∧
          (read.1.savePay n ≠ none → ∃ t, exec (.restore journal substituted) s = .next t
            ∧ t.save.restoring = none ∧ t.save.restoreRefused = false ∧ (∀ k, k ∉ p.tokens → t.token k = s.token k)
            ∧ t.save.jrnNext = if journal then BitVec.ofNat 64 seg.2 else x.jrnNext))))) ∧
    (s.jrnRoom (x.jrnNext.toNat + x.appends.length) = true → ∃ t, exec .append s = .next t ∧ sent t []
      ∧ t.save = { x with jrnFull := false, jrnNext := t.save.jrnNext, appends := t.save.appends }
      ∧ t.save.jrnNext + BitVec.ofNat 64 t.save.appends.length = x.jrnNext + BitVec.ofNat 64 (x.appends.length + 1)
      ∧ (s.power.issueStopped = true → t.save.jrnNext = x.jrnNext ∧ t.mem = s.mem)
      ∧ (x.appends = [] → s.power.issueStopped = false → t.save.jrnNext = if s.savePay 128 = none then x.jrnNext else x.jrnNext + 1)) ∧
    (s.jrnRoom (x.jrnNext.toNat + x.appends.length) = false → ∃ t, exec .append s = .next t
      ∧ t = { s with save := { x with jrnFull := true }, counters := t.counters }
      ∧ t.counter bSav 0x210 = s.counter bSav 0x210 + 1) ∧
    (∀ engine : Ix16, let z := s.intake engine
      ((z.journal = [] ∨ s.jrnRoom x.jrnNext.toNat = false ∨ x.appends ≠ [] ∨ s.power.issueStopped = true) →
        exec (.intakeJournalAppend engine) s = .next s) ∧
      (∀ g rest, z.journal = g :: rest → s.jrnRoom x.jrnNext.toNat = true → x.appends = [] → s.power.issueStopped = false →
        ∃ t, exec (.intakeJournalAppend engine) s = .next t ∧ sent t [] ∧ (∀ j, j ≠ (engine : Nat) → t.intake j = s.intake j)
          ∧ if s.savePay 128 = none then t.save = x ∧ t.intake engine = z
            else t.save = { x with jrnNext := x.jrnNext + 1 } ∧ t.intake engine = { z with journal := rest }))

/-- R94: both resets, every cell of both banks and every accumulator element. -/
def Obligations.ResetsClearWeightsAndAccumulators : Prop :=
  let cleared (x : Engine) : Prop :=
    (∀ k, Map.get x.bank0.w k 0 = (0 : BitVec 16) ∧ Map.get x.bank1.w k 0 = (0 : BitVec 16) ∧ Map.get x.acc k 0 = (0 : W32))
      ∧ x.bank0.poison = [] ∧ x.bank1.poison = [] ∧ x.accPoison = []
  (∀ s : State, s.power.flushing = none → ∃ t, exec .coldReset s = .next t ∧ ∀ e, cleared (t.engine e)) ∧
  (∀ (s : State) (site : SiteIx), ((s.site site).status = .service ∨ (s.site site).status = .spare) →
    ∃ t, exec (.siteReset site) s = .next t ∧ ∀ e, e / 32 = (site : Nat) → cleared (t.engine e))

/-- R271 to R276, R357: the life of a site. -/
def Obligations.SitesLeaveAndReturn : Prop :=
  ∀ (s : State) (site : SiteIx),
    let i : Nat := site
    let x := s.site i
    let others (t : State) : Prop := ∀ j, j ≠ i → t.site j = s.site j
    let bonds (t : State) (b : LinkEnd) : Prop :=
      ∀ c, c < 2 → t.link (bondEnd i c) = b ∧ t.link (dieEnd i c) = b
    let isolated (t : State) (cause : BitVec 2) : Prop :=
      t.site i = { x with status := .quarantined, cause := cause, railOn := false, resetting := false, packetSeen := false }
        ∧ others t ∧ bonds t .reset
        ∧ (∀ c line, c < 8 → (t.held1 (8 * i + c) line).st = .I) ∧ t.engines = s.engines ∧ t.cores = s.cores
    let fresh (t : State) : Prop :=
      (∀ e, t.engine e = if e / 32 = i then .reset else s.engine e)
        ∧ (∀ c, t.core c = if c / 8 = i then .reset else s.core c)
        ∧ (∀ n ∈ siteBlocks i, (t.blk n).enable = false ∧ (t.blk n).state = .disabled ∧ ∀ off, off < 65536 → t.reg n off = regDefault n off)
        ∧ (∀ k, scratchKey (8 * i) 0 ≤ k → k < scratchKey (8 * i + 8) 0 → Map.get t.mem k unlistedByte = unlistedByte)
    (x.status ≠ .quarantined →
      (∃ t, exec (.quarantine site) s = .next t ∧ isolated t 0 ∧ t.siteIgnored = false) ∧
      (s.power.held = false → ∃ t, exec (.siteRailTrip site) s = .next t ∧ isolated t 2)) ∧
    (x.status = .quarantined → exec (.quarantine site) s = .next { s with siteIgnored := false }) ∧
    (x.status = .quarantined → x.readmits < 3 → s.power.hbmRails = true → ∃ t, exec (.release site) s = .next t ∧ others t ∧ fresh t
      ∧ t.site i = { x with status := .testing, railOn := true, resetting := false } ∧ t.siteIgnored = false
      ∧ bonds t { LinkEnd.reset with training := true }) ∧
    ((x.status ≠ .quarantined ∨ 3 ≤ x.readmits ∨ s.power.hbmRails = false) → exec (.release site) s = .next { s with siteIgnored := true }) ∧
    (∀ r : SelfTest, x.status = .testing →
      ∃ t, exec (.readmissionTestDone site r) s = .next t ∧ others t ∧ t.mem = s.mem ∧ t.engines = s.engines
        ∧ (s.level i < s.floor → bonds t .reset
          ∧ t.site i = { x with status := .quarantined, railOn := false, readmits := x.readmits + 1 })
        ∧ (s.floor ≤ s.level i → r.passed = true → t.links = s.links ∧ (∀ e ∈ t.dieMap, e.2 ≠ i)
          ∧ t.site i = { x with
              status := .spare, incarnation := x.incarnation + 1, readmits := x.readmits + 1, packetSeen := false })
        ∧ (s.floor ≤ s.level i → r.passed = false → bonds t .reset
          ∧ t.site i = { x with status := .quarantined, railOn := false })) ∧
    (∀ r : SelfTest, x.status ≠ .testing → exec (.readmissionTestDone site r) s = .next s) ∧
    ((x.status = .service ∨ x.status = .spare) → ∃ t, exec (.siteReset site) s = .next t ∧ others t ∧ fresh t
      ∧ t.site i = { x with resetting := true } ∧ bonds t { LinkEnd.reset with training := true }
      ∧ ∀ c line, c < 8 → (t.held1 (8 * i + c) line).st = .I) ∧
    ((x.status = .quarantined ∨ x.status = .testing) → exec (.siteReset site) s = .next { s with siteIgnored := true }) ∧
    (∀ bonds : List (Nat × Nat), let port (k : Nat) := bonds.getD k (0, 0)
      (x.resetting = false → exec (.siteResetDone site bonds) s = .next s) ∧
      (x.resetting = true → ∃ t1 t2 t,
        exec (.bondTraining site 0 (port 0).1 (port 0).2) s = .next t1
        ∧ exec (.bondTraining site 1 (port 1).1 (port 1).2) t1 = .next t2
        ∧ exec (.siteResetDone site bonds) s = .next t ∧ t = { t2 with sites := t.sites }
        ∧ t.site i = { t2.site i with resetting := false } ∧ (∀ k, k ≠ i → t.site k = t2.site k)
        ∧ (s.bondUp i 0 = true → s.bondUp i 1 = true → t2 = s))) ∧
    (∀ cls, x.status = .quarantined → ∃ t, exec (.quarantinedPacket site cls) s = .next t
      ∧ t.counter bSite 0x140 = s.counter bSite 0x140 + 1 ∧ t.site i = { x with packetSeen := true } ∧ others t
      ∧ t = { s with sites := t.sites, counters := t.counters, sheets := t.sheets }
      ∧ (x.packetSeen = true → t.sheets = s.sheets)) ∧
    (∀ cls, x.status ≠ .quarantined → exec (.quarantinedPacket site cls) s = .next s)

/-- R291 to R295, R322, R330, R335: upkeep of the banks and of DRAM. -/
def Obligations.BanksAndControllersKeepData : Prop :=
  ∀ s : State,
    (∀ (block : BitVec 16) (bank : BitVec 8), let x := s.bank block.toNat bank.toNat
      (x.power = .waking → ∃ t, exec (.bankWake block bank) s = .next t ∧ t = { s with banks := t.banks, counters := t.counters }
        ∧ t.bank block.toNat bank.toNat = { x with power := .on }
        ∧ t.counter block.toNat 0x150 = s.counter block.toNat 0x150 + 1) ∧
      (x.power ≠ .waking → exec (.bankWake block bank) s = .next s)) ∧
    (∀ (block : BitVec 16) (tester : Fin 4) (failing : List Nat), let blk := block.toNat
      ((bankBlock blk = none ∨ s.isEnabled blk = false ∨ s.fld blk 0x100 0 16 = 0
          ∨ (∃ e, Map.find (s.tester blk).lastStart tester = some e ∧ s.elapsed < e + s.fld blk 0x100 0 16)) →
        exec (.regionTestStart block tester failing) s = .next s) ∧
      (∀ tile unit, bankBlock blk = some (tile, unit) → s.isEnabled blk = true → s.fld blk 0x100 0 16 ≠ 0 →
        (tile = false → (tester : Nat) = 0) →
        (∀ e, Map.find (s.tester blk).lastStart tester = some e → e + s.fld blk 0x100 0 16 ≤ s.elapsed) →
        let x := s.tester blk
        let going := x.running.find? fun r => r.1 = (tester : Nat)
        let left := x.running.filter fun r => r.1 ≠ (tester : Nat)
        s.upsets = [] → ∃ t, exec (.regionTestStart block tester failing) s = .next t ∧ t.mem = s.mem ∧ t.poison = s.poison
          ∧ t.upsets = s.upsets ∧ t.regs = s.regs
          ∧ (going = none → t = { s with testers := t.testers })
          ∧ (nextOn s blk (bankCount tile) x.bank = none → (t.tester blk).running = left)
          ∧ (∀ b, nextOn s blk (bankCount tile) x.bank = some b →
              let region := if b = x.bank then x.region else 0
              let last := region + 1 = rowsInBank tile / 64
              t.tester blk =
                { bank := if last then (b + 1) % bankCount tile else b, region := if last then 0 else region + 1
                  lastStart := Map.insert x.lastStart tester s.elapsed
                  running := left ++ [((tester : Nat), b, region, failing)] })
          ∧ (∀ b region rows, going = some ((tester : Nat), b, region, rows) →
              t.counter blk 0x140 = s.counter blk 0x140 + 1
              ∧ (rows = [] → t = { s with testers := t.testers, counters := t.counters })
              ∧ ∀ row spare, rows = [row] → row / 64 = region → (∀ p ∈ (s.bank blk b).pins, p.1 ≠ row / 64 * 64) →
                  leastFree ((s.bank blk b).spares.map (·.2)) (spareRows tile) = some spare →
                  (t.bank blk b).spares = (s.bank blk b).spares ++ [(row, spare)]
                    ∧ t.counter blk 0x148 = s.counter blk 0x148 + 1))) ∧
    (∀ ctrl : DramIx,
      let c : Nat := ctrl
      let blk := dramBlock c
      let d := s.dram c
      let a := if c < 16 then hbmLine c d.scrubPos else lpxLine (c - 16) d.scrubPos
      let stale := (s.dir (lineOf a)).st = .X ∨ (s.dir (lineOf a)).st = .O ∨ Map.find s.llc (lineOf a) = some true
      let more := d.scrubPos + 1 < (if c < 16 then hbmLines else lpxLines)
      ((s.fld blk 0x100 0 20 = 0 ∨ d.trained = false) → ∀ errs, exec (.scrubRead ctrl errs) s = .next s) ∧
      (s.fld blk 0x100 0 20 ≠ 0 → d.trained = true → (s.home (homeOf a)).txns = [] →
        (∀ r ∈ (s.home (homeOf a)).aged, r.src ≠ .host) →
        (stale → more → ∀ errs, ∃ t, exec (.scrubRead ctrl errs) s = .next t ∧ t = { s with drams := t.drams }
          ∧ t.dram c = { d with scrubPos := d.scrubPos + 1 }) ∧
        (¬ stale → more → s.upsets = [] → ∃ t, exec (.scrubRead ctrl []) s = .next t ∧ t = { s with drams := t.drams, counters := t.counters }
          ∧ t.dram c = { d with scrubPos := d.scrubPos + 1 } ∧ t.counter blk 0x140 = s.counter blk 0x140 + 128
          ∧ t.counter blk 0x160 = s.counter blk 0x160 + 1
          ∧ t.counter (bHome (homeOf a)) 0x140 = s.counter (bHome (homeOf a)) 0x140 + 1) ∧
        (¬ stale → s.upsets = [] → Memory.wf s.mem = true → ∀ w j x, w < 8 → j < 36 → 1 ≤ x → x < 16 → s.poisoned (a + 16 * w) = false →
          ∃ t, exec (.scrubRead ctrl [(w, BitVec.ofNat 144 x <<< (4 * j))]) s = .next t
            ∧ t.counter blk 0x150 = s.counter blk 0x150 + 1 ∧ t.upsets = [] ∧ t.poisoned (a + 16 * w) = false
            ∧ ∀ k, Map.get t.mem k unlistedByte = Map.get s.mem k unlistedByte))) ∧
    (∀ (stack : Ix16) (celsius : Byte), ∃ t, exec (.hotRefresh stack celsius) s = .next t ∧ t = { s with drams := t.drams }
      ∧ t.dram stack = { s.dram stack with tempC := celsius }
      ∧ t.hotRefresh stack = decide (s.fld (bHbm stack) 0x100 20 8 < celsius.toNat)
      ∧ ∀ n, n ≠ (stack : Nat) → t.dram n = s.dram n)

/-- R329, R330: encoding, and correction of every error confined to one aligned nibble. -/
def Obligations.NibbleCodeCorrectsOneSymbol : Prop :=
  (∀ d : BitVec 128, nibbleDecode d (nibbleEncode d) = .clean d ∧ receive d (nibbleEncode d) = (d, false, false)) ∧
  ∀ (d : BitVec 128) (j x : Nat), j < 36 → 1 ≤ x → x < 16 →
    let err : BitVec 144 := BitVec.ofNat 144 x <<< (4 * j)
    nibbleDecode (d ^^^ err.truncate 128) (nibbleEncode d ^^^ (err >>> 128).truncate 16) = .corrected d j

/-- R332: the stored form of poison, and the full write that replaces it. -/
def Obligations.PoisonIsStoredAndReplaced : Prop :=
  (∀ (d : BitVec 128) (q : BitVec 16), poisonForm q = q ^^^ 0x0110
    ∧ syndrome d (poisonForm (nibbleEncode d)) = ⟨0, 1, 0, 1⟩
    ∧ nibbleDecode d (poisonForm (nibbleEncode d)) = .storedPoison ∧ receive d (poisonForm (nibbleEncode d)) = (d, true, false)) ∧
  ∀ (s : State) (w : Nat) (bs : List Byte), bs.length = 16 → Memory.wf s.mem = true → s.poison.Pairwise (· < ·) →
    let t := s.writeKey (16 * w) (PBytes.clean bs) false
    t.poisoned (16 * w) = false ∧ t.readKey (16 * w) 16 = PBytes.clean bs

/-- R273, R304, R305: each request carried through where no snoop is needed. -/
def Obligations.CoherentRequestsAtAnIdleLine : Prop :=
  ∀ (s : State) (agent : AgentIx) (line : Nat),
    let a : Nat := agent
    let h := homeOf (line * 128)
    let d := s.dir line
    let held := s.held1 a line
    let idle : Prop := s.placeOf (line * 128) = .dram ∧ errorFree s ∧ tableRoom (s.home h) = true
      ∧ (s.home h).aged = [] ∧ (s.home h).hostSnoops = [] ∧ (∀ t ∈ (s.home h).txns, t.line ≠ line) ∧ s.dirRoom h line = s
    let settled (t : State) (e : DirEntry) (b : Nat) : Prop :=
      t.dir line = e ∧ (t.home h).txns = (s.home h).txns ∧ (∀ l, l ≠ line → t.dir l = s.dir l)
        ∧ (∀ n l, n < 512 → b < 512 → (n ≠ b ∨ l ≠ line) → t.held1 n l = s.held1 n l)
        ∧ t.counter (bHome h) 0x140 = s.counter (bHome h) 0x140 + 1 ∧ t.cores = s.cores ∧ t.regs = s.regs
    let byte (t : State) (i : Nat) : Byte := Map.get t.mem (line * 128 + i) unlistedByte
    let same (t : State) : Prop := t.mem = s.mem ∧ t.poison = s.poison
    (s.agentLive a = false → s.fromQuarantine (.agent a) = none → exec (.rds agent line) s = .next s
      ∧ exec (.rdu agent line) s = .next s ∧ exec (.upg agent line) s = .next s) ∧
    (s.agentLive a = false → exec (.evc agent line) s = .next s) ∧
    (∀ site, s.fromQuarantine (.agent a) = some site → ∃ t, exec (.rds agent line) s = .next t
      ∧ exec (.rdu agent line) s = .next t ∧ exec (.upg agent line) s = .next t
      ∧ t = { s with counters := t.counters, sites := t.sites, sheets := t.sheets }
      ∧ t.counter bSite 0x140 = s.counter bSite 0x140 + 1 ∧ (t.site site).packetSeen = true) ∧
    (idle → s.agentLive a = true →
      (d.st = .U → held.st = .I → s.cacheRoom a line = s → s.cacheHasRoom a line = true →
        (∃ t, exec (.rds agent line) s = .next t ∧ settled t { st := .X, owner := a, sharers := [] } a ∧ same t
          ∧ (t.held1 a line).st = .E ∧ (t.held1 a line).bytes.data = (s.homeCopy (line * 128) 128).data) ∧
        (∃ t, exec (.rdu agent line) s = .next t ∧ settled t { st := .X, owner := a, sharers := [] } a ∧ same t
          ∧ (t.held1 a line).st = .E ∧ (t.held1 a line).bytes.data = (s.homeCopy (line * 128) 128).data)) ∧
      (held.st = .I → (s.cacheRoom a line).cacheHasRoom a line = false →
        exec (.rds agent line) s = .next (s.cacheRoom a line) ∧ exec (.rdu agent line) s = .next (s.cacheRoom a line)) ∧
      (d.st = .S → d.sharers = [a] → held.st = .S → ∃ t, exec (.upg agent line) s = .next t
        ∧ settled t { st := .X, owner := a, sharers := [] } a ∧ same t ∧ t.held1 a line = { held with st := .E }) ∧
      (d.st = .X → d.owner = a → held.st = .E → ∃ t, exec (.evc agent line) s = .next t
        ∧ settled t .reset a ∧ same t ∧ t.held1 a line = .reset) ∧
      (d.st = .X → d.owner = a → held.st = .M → ∃ t, exec (.evd agent line none) s = .next t
        ∧ settled t .reset a ∧ t.held1 a line = .reset ∧ (∀ i, i < 128 → byte t i = Map.get held.data i 0)
        ∧ ∀ k, k < line * 128 ∨ line * 128 + 128 ≤ k → Map.get t.mem k unlistedByte = Map.get s.mem k unlistedByte)) ∧
    (∀ r : Requester, idle → s.fromQuarantine (.requester r) = none → d.st = .U → ∃ t, exec (.rdns r line) s = .next t ∧ settled t d 512 ∧ same t
      ∧ (∀ n l, t.held1 n l = s.held1 n l) ∧ .readData (.requester r) line (s.homeCopy (line * 128) 128) ∈ t.out
      ∧ ((s.homeCopy (line * 128) 128).anyPoison = false →
          t.out = .readData (.requester r) line (s.homeCopy (line * 128) 128) :: s.out)) ∧
    (∀ (r : Requester) (data : List Byte), idle → s.fromQuarantine (.requester r) = none → d.st = .U → data.length = 128 →
      (∃ t, exec (.wfi r line data) s = .next t ∧ settled t .reset 512 ∧ (∀ i, i < 128 → byte t i = data.getD i 0)
        ∧ ∀ k, k < line * 128 ∨ line * 128 + 128 ≤ k → Map.get t.mem k unlistedByte = Map.get s.mem k unlistedByte) ∧
      (Memory.wf s.mem = true → ∀ mask : BitVec 128, ∃ t, exec (.wp r line mask data) s = .next t ∧ settled t .reset 512
        ∧ (∀ i, i < 128 → byte t i = if mask.getLsbD i then data.getD i 0 else byte s i)
        ∧ ∀ k, k < line * 128 ∨ line * 128 + 128 ≤ k → Map.get t.mem k unlistedByte = Map.get s.mem k unlistedByte))

/-- R303 to R310: what comes back to a home, and what happens when it does not. -/
def Obligations.SnoopsRetriesAndDeadAgents : Prop :=
  ∀ s : State,
    (∀ (agent : AgentIx) (line : Nat) (k : SnoopKind) (stored : Option (List Byte)),
      let a : Nat := agent
      let cmd : Instr := match k with
        | .snpS => .snps agent line stored
        | .snpU => .snpu agent line stored
        | .snpI => .snpi agent line stored
        | .snpNS => .snpns agent line stored
        | .snpRecall => .snprecall agent line stored
      let h := homeOf (line * 128)
      let held := s.held1 a line
      let stays : SnoopKind → Moesi → Moesi
        | .snpS, .M => .O
        | .snpS, .E => .S
        | .snpS, m => m
        | .snpNS, m => m
        | _, _ => .I
      ((∀ t ∈ (s.home h).txns, t.line ≠ line) → exec cmd s = .next s) ∧
      (∀ x more y ys, (s.home h).txns = x :: more → x.line = line → x.started = true → x.snoops = (a, k) :: y :: ys →
        y ≠ (a, k) → (a, k) ∉ ys → s.upsets = [] → (s.home h).hostSnoops = [] →
        ∃ t, exec cmd s = .next t ∧ t.dirs = s.dirs ∧ t.cores = s.cores
          ∧ (stored = none → (t.held1 a line).st = stays k held.st)
          ∧ (∀ n l, n < 512 → (n ≠ a ∨ l ≠ line) → t.held1 n l = s.held1 n l)
          ∧ ∃ x', (t.home h).txns = x' :: more ∧ x' = { x with snoops := y :: ys, fwd := x'.fwd }
            ∧ (t.home h).late = (s.home h).late.filter (· ≠ (line, a))
            ∧ (stored = none → (k = .snpS ∨ k = .snpU ∨ k = .snpNS) →
                x'.fwd = if held.st = .M ∨ held.st = .O then some (true, held.bytes)
                  else if held.st = .E then some (false, held.bytes) else x.fwd))) ∧
    (∀ (owner : AgentIx) (b line : Nat) (x : Txn) (more : List Txn), let a : Nat := owner; let h := homeOf (line * 128)
      (s.home h).txns = x :: more → (∀ t ∈ more, t.line ≠ line) → x.line = line → x.started = true →
      x.snoops = [(a, .snpS)] → x.req = .rds → x.src = .agent b → a ≠ b → b < 512 → errorFree s → (s.home h).hostSnoops = [] → s.agentLive b = true →
      s.dir line = { st := .X, owner := a, sharers := [] } → (s.held1 a line).st = .M →
      ∃ t, exec (.snps owner line none) s = .next t ∧ (t.home h).txns = more
        ∧ t.dir line = { st := .O, owner := a, sharers := [b] } ∧ (t.held1 a line).st = .O ∧ (t.held1 b line).st = .S
        ∧ (t.held1 b line).bytes.data = (s.held1 a line).bytes.data ∧ t.mem = s.mem) ∧
    (∀ q : Requester, (∀ r ∈ s.retried, r.src.code = q.toNat → s.mayResend r = false) → exec (.retry q) s = .next s) ∧
    (∀ (q : Requester) (r : Retried), s.nextRetry q = some r →
      let age := if r.sent then min 255 (r.age + 1) else r.age
      let x := s.home r.home
      let s1 := { s with retried := s.retried.erase r }
      (∀ t, s1.turnedAway r.line r.req r.src r.mask = some t → exec (.retry q) s = .next t) ∧
      (s1.turnedAway r.line r.req r.src r.mask = none →
      (s.ageThreshold r.home ≤ age → ∃ t, exec (.retry q) s = .next t
        ∧ t = { s1 with homes := t.homes }
        ∧ t.home r.home = { x with aged := x.aged ++ [{ r with age := age, sent := true }] }) ∧
      (age < s.ageThreshold r.home → tableRoom x = false → ∃ t, exec (.retry q) s = .next t
        ∧ t = { s with
            retried := s.retried.erase r ++ [{ r with age := age, sent := true }], counters := t.counters
            out := .retryAnswer r.home r.line :: s.out }) ∧
      (age < s.ageThreshold r.home → tableRoom x = true → x.hostSnoops = [] → ∃ t, exec (.retry q) s = .next t
        ∧ t.retried = s.retried.erase r ∧ t.counter (bHome r.home) 0x140 = s.counter (bHome r.home) 0x140 + 1))) ∧
    (∀ home : HomeIx, let x := s.home home
      ((x.aged = [] ∨ (∃ t ∈ x.txns, t.aged = true)) → exec (.agedAdmission home) s = .next s) ∧
      (∀ r, oldestAged x.aged = some r → (∀ t ∈ x.txns, t.aged = false) → ∃ t, exec (.agedAdmission home) s = .next t
        ∧ (t.home home).aged = x.aged.erase r
        ∧ (s.turnedAway r.line r.req r.src r.mask = none →
            t.counter (bHome home) 0x160 = s.counter (bHome home) 0x160 + 1))) ∧
    (∀ (home : HomeIx) (line : Nat), let x := s.home home
      ((∀ t ∈ x.txns, t.line ≠ line) → exec (.snoopLate home line) s = .next s) ∧
      (∀ t0 more, x.txns = t0 :: more → t0.line = line →
        ((∀ y ∈ t0.snoops, (line, y.1) ∈ x.late) → exec (.snoopLate home line) s = .next s) ∧
        (∀ a k, t0.snoops.find? (fun y => !x.late.contains (line, y.1)) = some (a, k) → ∃ t, exec (.snoopLate home line) s = .next t
          ∧ t = { s with homes := t.homes, sheets := t.sheets, counters := t.counters }
          ∧ t.home home = { x with late := x.late ++ [(line, a)] }))) ∧
    (∀ (home : HomeIx) (agent : BitVec 9), let a := agent.toNat
      ((a < 416 ∨ 447 < a) → exec (.homeDead home agent) s = .next (s.setHome home { s.home home with ignored := true })) ∧
      (416 ≤ a → a ≤ 447 → ∃ t, exec (.homeDead home agent) s = .next t ∧ (∀ h, h < 72 → a ∈ (t.home h).dead)
        ∧ t.agentLive a = false ∧ (∀ line, (t.held1 a line).st = .I) ∧ t.cores = s.cores ∧ (s.upsets = [] → t.regs = s.regs)))

/-- R345, R347, R348, R350: reception and replay at the ends 0 to 15 of the panel links and at the bond ports. -/
def Obligations.PanelFramesInSequence : Prop :=
  ∀ (s : State) (fend : FrameEnd),
    let e : Nat := fend.val
    let x := s.link e
    let others (t : State) : Prop := ∀ k, k ≠ e → t.link k = s.link k
    let onlyLinks (t : State) : Prop := t = { s with links := t.links, counters := t.counters, out := t.out, sendq := t.sendq }
    let kept (ack : Nat) : List TxFrame × Nat :=
      let l := unacked x.replay ack 4096
      (l, if l.length = x.replay.length then x.replayRun else 0)
    let resetEnd (y : LinkEnd) : LinkEnd :=
      { y with up := false, training := true, epoch := y.epoch + 1, replayRun := 0, failRun := 0 }
    let resendable : Prop := e < 16 ∨ (3 ≤ s.level (bondSite e) ∧ 3 ≤ s.level (52 + tileOfSite (bondSite e)))
    let replays (l : List TxFrame) (run0 : Nat) (t : State) : Prop := match l with
      | f :: _ =>
        let run := if x.replaySeq = f.seq ∧ run0 ≠ 0 then run0 + 1 else 1
        let z : LinkEnd := { x with replay := l, replaySeq := f.seq, replayRun := run }
        let like (a b : LinkEnd) : Prop := a = { b with freed := a.freed, ackTold := a.ackTold }
        (run < 8 → onlyLinks t ∧ others t ∧ like (t.link e) z
            ∧ t.counters = ((s.linkCount e lkReplays l.length).linkCount e lkSent l.length).counters
            ∧ (∃ o, t.out = o ++ s.out ∧ o.length = l.length)
            ∧ (x.freed = [0, 0, 0, 0] → t.link e = panelTold z
                ∧ t.out = (l.map fun g => panelSent e x kData g.vc g.seq false g.words).reverse ++ s.out)) ∧
        (8 ≤ run → e < 16 → onlyLinks t ∧ others t ∧ like (t.link e) (resetEnd z)) ∧
        (8 ≤ run → 16 ≤ e → resendable → onlyLinks t ∧ (∀ k, k ≠ e → k ≠ peerEnd e → t.link k = s.link k)
          ∧ like (t.link e) (resetEnd z) ∧ t.link (peerEnd e) = resetEnd (s.link (peerEnd e))) ∧
        (8 ≤ run → ¬ resendable → (s.site (bondSite e)).status ≠ .quarantined →
          (t.site (bondSite e)).status = .quarantined ∧ (t.site (bondSite e)).cause = 1)
      | [] => t.link e = { x with replay := [], replayRun := run0 } ∧ others t ∧ t = { s with links := t.links }
    (∀ (control : BitVec 128) (data : List CodeWord), data.length = frameWords e →
      let c := control.toNat
      let good : Prop := crc32 (frameBytes data (bitsOf c 0 96)) = bitsOf c 96 32
      let ack := kept (bitsOf c 12 12)
      let seen (y : LinkEnd) : LinkEnd :=
        { y with
          replay := ack.1, replayRun := ack.2, peerWidth := bitsOf c 25 2
          credits := (List.range 4).map fun v => x.credits.getD v 0 + bitsOf c (32 + 8 * v) 8 }
      let quiet : Prop := bitOf c 24 = false ∧ (e < 16 → bitsOf c 25 2 = x.width)
      let nothingWaits : Prop := Map.get s.sendq e [] = []
      let nakd (t : State) : Prop := others t ∧ t.link e = panelTold x ∧ onlyLinks t
        ∧ t.out = panelSent e x kIdle 0 0 true (noPayload e) :: s.out
      ((x.up = false ∨ x.degraded = true) → exec (.panelFrameReceive fend control data) s = .next s) ∧
      (x.up = true → x.degraded = false →
        (¬ good → ∃ t, exec (.panelFrameReceive fend control data) s = .next t ∧ nakd t
          ∧ t.counters = (s.linkCount e lkCrc 1).counters) ∧
        (good → bitsOf c 27 2 = 0 → bitsOf c 0 12 ≠ x.expSeq →
          ∃ t, exec (.panelFrameReceive fend control data) s = .next t ∧ nakd t ∧ t.counters = s.counters) ∧
        (good → bitsOf c 27 2 = 0 → bitsOf c 0 12 = x.expSeq → quiet →
          let z := panelInformed e (seen
            { x with expSeq := (x.expSeq + 1) % 4096, freed := bump x.freed (bitsOf c 29 2) 1 })
          ∃ t, exec (.panelFrameReceive fend control data) s = .next t ∧ others t ∧ onlyLinks t
            ∧ (t.link e).expSeq = (x.expSeq + 1) % 4096
            ∧ (∀ p, s.arriving e (bitsOf c 0 12) = some p → ∀ q, s.nextEnd (endDie e) p.dst = some q → q ≠ e →
                Map.get t.sendq q [] = Map.get s.sendq q [] ++ [p])
            ∧ (nothingWaits → (∀ p, s.arriving e (bitsOf c 0 12) = some p → s.nextEnd (endDie e) p.dst ≠ some e) → t.link e = z.1 ∧ t.out = z.2 ++ s.out
                ∧ t.counters = (s.linkCount e lkAccepted 1).counters)) ∧
        (good → bitsOf c 27 2 = 1 → quiet →
          let z := panelInformed e (seen x)
          ∃ t, exec (.panelFrameReceive fend control data) s = .next t ∧ others t ∧ onlyLinks t
            ∧ (t.link e).expSeq = x.expSeq
            ∧ (nothingWaits → t.link e = z.1 ∧ t.out = z.2 ++ s.out ∧ t.counters = s.counters)) ∧
        (good → bitsOf c 27 2 = 2 → quiet → x.hold = false →
          let z := panelInformed e (seen x)
          ∃ t, exec (.panelFrameReceive fend control data) s = .next t ∧ others t ∧ onlyLinks t
            ∧ (t.link e).hold = true ∧ (t.link e).up = false ∧ (t.link e).training = true
            ∧ (nothingWaits → t.link e = resetEnd { z.1 with hold := true } ∧ t.out = z.2 ++ s.out
                ∧ t.counters = (s.linkCount e lkRetrains 1).counters)) ∧
        (good → bitsOf c 27 2 = 3 → exec (.panelFrameReceive fend control data) s = .next s))) ∧
    (∀ ack : BitVec 12, ∃ t, exec (.panelNak fend ack) s = .next t
      ∧ (x.open = true → replays (kept ack.toNat).1 (kept ack.toNat).2 t)
      ∧ (x.open = false → t = { s with links := t.links } ∧ others t
          ∧ t.link e = { x with replay := (kept ack.toNat).1, replayRun := (kept ack.toNat).2 })) ∧
    (∃ t, exec (.panelAckTimeout fend) s = .next t
      ∧ (x.open = true → x.replay ≠ [] → replays x.replay x.replayRun t)
      ∧ ((x.open = false ∨ x.replay = []) → t = s)) ∧
    (x.up = true → e < 16 → ∃ t, exec (.panelLinkReset fend) s = .next t ∧ others t ∧ t.link e = resetEnd x
      ∧ t.counters = (s.linkCount e lkRetrains 1).counters ∧ t = { s with links := t.links, counters := t.counters }) ∧
    ((x.up = false ∨ 16 ≤ e) → exec (.panelLinkReset fend) s = .next s)

/-- R344, R345, R349 to R353, R361. That the hub has no mesh block to disable is the model's reading of R351 (DEDUCED,
assumption log entry 71). -/
def Obligations.LinksTrainAndReroute : Prop :=
  ∀ s : State,
    let resetEnd (y : LinkEnd) : LinkEnd :=
      { y with up := false, training := true, epoch := y.epoch + 1, replayRun := 0, failRun := 0 }
    let degradedEnd (y : LinkEnd) : LinkEnd :=
      { y with degraded := true, up := false, training := false, hold := false, rerouting := y.replay != [] }
    let others (t : State) (l : List Nat) : Prop := ∀ k, k ∉ l → t.link k = s.link k
    let onlyLinks (t : State) : Prop := t = { s with links := t.links, counters := t.counters, out := t.out }
    (∀ (site : SiteIx) (cluster : Fin 2),
      let e := bondEnd site cluster
      let d := dieEnd site cluster
      let x := s.link e
      let y := s.link d
      let failed (t : State) : Prop :=
        (t.site site).status = .quarantined ∧ (t.site site).cause = 1 ∧ (t.site site).railOn = false
          ∧ (∀ k : Nat, k ≠ site → t.site k = s.site k)
      (∀ o i : Nat,
        (((s.site site).status = .quarantined ∨ (s.site site).railOn = false ∨ x.up = true) →
          exec (.bondTraining site cluster o i) s = .next s) ∧
        ((s.site site).status ≠ .quarantined → (s.site site).railOn = true → x.up = false →
          ((128 < o ∨ 128 < i) → ∃ t, exec (.bondTraining site cluster o i) s = .next t ∧ failed t) ∧
          (o ≤ 128 → i ≤ 128 → x.replayRun < 7 → y.replayRun < 7 →
            ∃ t, exec (.bondTraining site cluster o i) s = .next t ∧ others t [e, d]
            ∧ (t.link e).up = true ∧ (t.link e).training = false ∧ (t.link e).sparesOut = o ∧ (t.link e).sparesIn = i
            ∧ (t.link d).up = true ∧ (t.link d).training = false ∧ (∀ a ∈ t.cluReads, cluPort a.1 ≠ some e)
            ∧ (s.cluReads = [] → x.replay = [] → y.replay = [] → Map.get s.sendq e [] = [] → Map.get s.sendq d [] = [] →
                t = { s with links := t.links }
                ∧ t.link e = { x with up := true, training := false, sparesOut := o, sparesIn := i }
                ∧ t.link d = { y with up := true, training := false })))) ∧
      (∀ r, ((s.site site).status = .quarantined ∨ x.up = false) → exec (.bondRetryLimit site cluster r) s = .next s) ∧
      ((s.site site).status ≠ .quarantined → x.up = true →
        let strong : Prop := 3 ≤ s.level site ∧ 3 ≤ s.level (52 + tileOfSite site)
        ∃ t, exec (.bondRetryLimit site cluster none) s = .next t
          ∧ (strong → others t [e, d] ∧ onlyLinks t ∧ t.out = s.out ∧ t.link e = resetEnd x ∧ t.link d = resetEnd y) ∧ (¬ strong → failed t)
          ∧ ∀ o i, exec (.bondRetryLimit site cluster (some (o, i))) s = exec (.bondTraining site cluster o i) t)) ∧
    ∀ fend : PlinkEnd,
      let e : Nat := fend
      let p := peerEnd e
      let x := s.link e
      let y := s.link p
      let fallen (t : State) (z : LinkEnd) : Prop := (t.link e).degraded = true ∧ (t.link p).degraded = true
        ∧ (t.link e).up = false ∧ (t.link p).up = false
        ∧ (z.replay ≠ [] → .sidebandRequest e ∈ t.out) ∧ (y.replay ≠ [] → .sidebandRequest p ∈ t.out)
        ∧ (s.sendq = [] → others t [e, p] ∧ t.link p = degradedEnd y ∧ t.link e = degradedEnd z)
      (∀ (failing : List Nat) (peer : Option (Fin 3)),
        let groups := usableGroups e failing
        (x.training = false → exec (.panelTrainingAttempt fend failing peer) s = .next s) ∧
        (x.training = true → ∃ t, exec (.panelTrainingAttempt fend failing peer) s = .next t ∧
          match s.advertise e groups, peer with
          | some a, some b => x.replayRun < 7 → others t [e] ∧ t = { s with links := t.links, counters := t.counters, out := t.out, sendq := t.sendq }
              ∧ (t.link e).up = true ∧ (t.link e).training = false ∧ (t.link e).hold = false
              ∧ (t.link e).width = max a b.val ∧ (t.link e).groupsOk = groups
              ∧ (x.degraded = false → x.replay = [] → Map.get s.sendq e [] = [] → t.counters = s.counters
                  ∧ t.out = .widthReport e (max a b.val) :: s.out)
          | _, _ =>
            (x.failRun < 2 → t = { s with links := t.links } ∧ others t [e]
              ∧ t.link e = { x with groupsOk := groups, failRun := x.failRun + 1 }) ∧
            (2 ≤ x.failRun → fallen t { x with groupsOk := groups, failRun := x.failRun + 1 }))) ∧
      (∀ width : Fin 3,
        let seen := { x with peerWidth := width.val }
        let l := noteDisagree x.disagree s.turns.elapsed (s.fld (bPlink e) 0x100 16 16)
        ∃ t, exec (.widthReport fend width) s = .next t
          ∧ ((x.up = false ∨ width.val = x.width) → t = { s with links := t.links } ∧ others t [e] ∧ t.link e = seen)
          ∧ (x.up = true → width.val ≠ x.width → l.length < max 1 (s.fld (bPlink e) 0x100 8 8) →
              onlyLinks t ∧ others t [e, p] ∧ t.link e = resetEnd (panelTold { seen with disagree := l, hold := true })
                ∧ t.link p = resetEnd { y with hold := true }
                ∧ t.out = .sidebandHold e :: panelSent e x kHold 0 0 false (noPayload e) :: s.out)
          ∧ (x.up = true → width.val ≠ x.width → max 1 (s.fld (bPlink e) 0x100 8 8) ≤ l.length →
              fallen t (panelTold { seen with disagree := l, hold := true }))) ∧
      (∀ last : BitVec 12,
        (x.rerouting = false → exec (.sidebandAnswer fend last) s = .next s ∧ exec (.sidebandTimeout fend) s = .next s) ∧
        (let later := unacked x.replay last.toNat 4096
         let s1 := s.setLink e { x with rerouting := false, replay := [] }
         let waiting := Map.get s.sendq e []
         let onto (k : Nat) (l : List LinkPkt) : List LinkPkt := l.filter fun q => s1.nextEnd (endDie e) q.dst = some k
         let moved (t : State) (pkts : List LinkPkt) : Prop :=
           t.link e = { x with rerouting := false, replay := [] } ∧ Map.get t.sendq e [] = []
             ∧ (∀ k, k ≠ e → onto k (pkts ++ waiting) = [] → t.link k = s.link k)
             ∧ ∀ k, k ≠ e → (s.link k).open = false ∨ onto k (pkts ++ waiting) = [] →
                 Map.get t.sendq k [] = onto k pkts ++ Map.get s.sendq k [] ++ onto k waiting
         x.rerouting = true → x.degraded = true →
          (∃ t, exec (.sidebandAnswer fend last) s = .next t ∧ moved t (later.filterMap (·.pkt))
            ∧ t = { s with links := t.links, counters := t.counters, out := t.out, sendq := t.sendq }
            ∧ t.counter (bPlink e) 0x170 = s.counter (bPlink e) 0x170 + BitVec.ofNat 64 later.length) ∧
          (∃ t, exec (.sidebandTimeout fend) s = .next t ∧ moved t []
            ∧ t = { s with links := t.links, counters := t.counters, out := t.out, sendq := t.sendq, sheets := t.sheets }
            ∧ t.counter (bPlink e) 0x178 = s.counter (bPlink e) 0x178 + BitVec.ofNat 64 x.replay.length
            ∧ ∀ f ∈ x.replay, ∀ q r, f.pkt = some q → q.req = some r → .errorResponse r.1 r.2 ∈ t.out))) ∧
      (x.degraded = true → exec (.plinkRetrain fend) s = .next s) ∧
      (x.degraded = false → ∃ t, exec (.plinkRetrain fend) s = .next t ∧ onlyLinks t ∧ others t [e, p]
        ∧ t.link e = resetEnd x ∧ t.link p = resetEnd y) ∧
      (let off (k : Nat) : Prop := endDie k = 4 ∨ s.isDisabled (bMesh (endDie k)) = true
       let whole (z : LinkEnd) : LinkEnd :=
        resetEnd { z with degraded := false, ignored := false, disagree := [], hold := false }
       ((x.degraded = true ∧ off e ∧ off p) → ∃ t, exec (.plinkRestore fend) s = .next t ∧ onlyLinks t
          ∧ others t [e, p] ∧ t.link e = whole x ∧ t.link p = whole y) ∧
       (¬ (x.degraded = true ∧ off e ∧ off p) → ∃ t, exec (.plinkRestore fend) s = .next t
          ∧ t = { s with links := t.links } ∧ others t [e] ∧ t.link e = { x with ignored := true }))

/-- R366 to R374: reception, replay, marks and the side channel of a ladder port. -/
def Obligations.LadderFramesAndMarks : Prop :=
  ∀ (s : State) (port : PortIx),
    let p : Nat := port.val
    let x := s.ladder p
    let others (t : State) : Prop := ∀ k, k ≠ p → t.ladder k = s.ladder k
    let within (t : State) : Prop := others t ∧
      t = { s with ladders := t.ladders, counters := t.counters, out := t.out, sheets := t.sheets, once := t.once }
    let up1 (t : State) (off n : Nat) : Prop := t.counter (bLad p) off = s.counter (bLad p) off + BitVec.ofNat 64 n
    let rebooted (y : Ladder) : Ladder :=
      { y with up := false, training := true, epoch := y.epoch + 1, replayRun := 0, failRun := 0, badAcks := 0 }
    (∀ frame : List CodeWord, frame.length = 129 ∨ frame.length = 2 →
      let ws := (correctFrame frame).1
      let body := ws.drop 1
      let c := match ws with
        | w :: _ => w.data.toNat
        | [] => 0
      let kind := bitsOf c 33 2
      let vc := bitsOf c 35 1
      let good : Prop := crc32 (ladderCrcBytes (bitsOf c 0 96) body) = bitsOf c 96 32
        ∧ frame.length = (if kind = 0 then 129 else 2)
      let plain : Prop := good ∧ bitsOf c 37 3 = 0 ∧ bitsOf c 64 32 = 0
      let full : Prop := if vc = 0 then 512 ≤ x.bufs0.length else 32 ≤ x.rx1.length
      let refused (t : State) : Prop := t.ladder p = ladderTold x ∧ up1 t 0x1E0 1
        ∧ t.out = ladderSent p x ladIdle 0 0 true [emptyWord] :: s.out
      let buffers (y : Ladder) := (y.expSeq, y.rx0, y.bufs0, y.rx1)
      let myMark : Prop := s.turns.cfg.source = 1 ∧ s.turns.cfg.markPort = p
      ((x.up = false ∨ x.down = true) → exec (.ladderFrameReceive port frame) s = .next s) ∧
      (x.up = true → x.down = false → ∃ t, exec (.ladderFrameReceive port frame) s = .next t ∧ within t
        ∧ up1 t 0x1C8 (correctFrame frame).2
        ∧ (¬ good → refused t ∧ up1 t 0x1C0 1)
        ∧ (good → (bitsOf c 37 3 ≠ 0 ∨ bitsOf c 64 32 ≠ 0) → refused t)
        ∧ (plain → kind = 0 → bitsOf c 0 16 ≠ x.expSeq → refused t)
        ∧ (plain → kind = 0 → bitsOf c 0 16 = x.expSeq → full → t.ladder p = x ∧ up1 t 0x1E0 1 ∧ t.out = s.out)
        ∧ (plain → kind = 0 → bitsOf c 0 16 = x.expSeq → ¬ full → up1 t 0x1B8 1
            ∧ buffers (t.ladder p) = ((x.expSeq + 1) % 65536,
                if vc = 0 then (x.rx0 ++ [(x.nextBuf, body)], Map.put x.bufs0 x.nextBuf body.length 0, x.rx1)
                else (x.rx0, x.bufs0, x.rx1 ++ [body])))
        ∧ (plain → kind ≠ 0 → buffers (t.ladder p) = buffers x)
        ∧ (plain → kind = 3 → (t.ladder p).hold = true ∧ (x.hold = false → (t.ladder p).up = false))
        ∧ (plain → kind = 2 → myMark → up1 t 0x1F0 1 ∧ (t.ladder p).markIn = x.markIn ++ body.map markOf)
        ∧ (plain → kind = 2 → s.turns.cfg.markPort = p → up1 t 0x1F0 1)
        ∧ (plain → (kind ≠ 2 ∨ ¬ myMark) → (t.ladder p).markIn = x.markIn)
        ∧ (plain → kind = 1 → bitOf c 32 = false → bitOf c 36 = x.half → x.out0 = [] → x.out1 = [] →
            x.hasSent (bitsOf c 16 16) = true → x.cred0 + bitsOf c 40 10 ≤ 512 →
            x.cred1 + bitsOf c 50 6 ≤ 32 →
            let rest := unacked x.replay (bitsOf c 16 16) 65536
            let z := ladderInformed p { x with
              badAcks := 0, replay := rest, replayRun := if rest.length = x.replay.length then x.replayRun else 0
              cred0 := x.cred0 + bitsOf c 40 10, cred1 := x.cred1 + bitsOf c 50 6, peerHalf := x.half }
            t.ladder p = z.1 ∧ t.out = z.2 ++ s.out))) ∧
    ((x.carries = false ∨ x.replay = []) → exec (.ladderAckTimeout port) s = .next s) ∧
    (x.carries = true → ∀ f l, x.replay = f :: l →
      let run := if x.replaySeq = f.seq ∧ x.replayRun ≠ 0 then x.replayRun + 1 else 1
      let y := ladderTold { x with replaySeq := f.seq, replayRun := run, markDue := [] }
      ∃ t, exec (.ladderAckTimeout port) s = .next t ∧ within t ∧ t.sheets = s.sheets
        ∧ (∃ o, t.out = o ++ s.out ∧ o.length = x.replay.length + x.markDue.length)
        ∧ (x.free0 = 0 → x.free1 = 0 →
            t.out = (x.replay.map fun g => ladderSent p x ladData g.vc g.seq false g.words).reverse
              ++ (x.markDue.map fun m => ladderSent p x ladMark 0 0 false [markWord m]).reverse ++ s.out)
        ∧ up1 t 0x1E8 x.markDue.length ∧ up1 t 0x1D0 x.replay.length ∧ up1 t 0x1B0 x.replay.length
        ∧ t.ladder p = if run < 8 then y else rebooted y) ∧
    ((x.markDue = [] ∨ x.up = false ∨ x.down = true) → exec (.markFrame port) s = .next s) ∧
    (x.up = true → x.down = false → ∀ m l, x.markDue = m :: l →
      let f := ladderSent p x ladMark 0 0 false [markWord m]
      ∃ t, exec (.markFrame port) s = .next t ∧ within t ∧ t.sheets = s.sheets ∧ up1 t 0x1E8 1
        ∧ (t.ladder p).markDue = l ∧ (∃ o, t.out = o ++ f :: s.out)
        ∧ ((l ≠ [] ∨ (x.out0 = [] ∧ x.out1 = [])) →
            t.ladder p = ladderTold { x with markDue := l } ∧ t.out = f :: s.out)) ∧
    (∀ m : ScMessage, m.length = 64 →
      let ty := fieldLe m 0 1
      let len := fieldLe m 1 1
      let chain : Word64 := BitVec.ofNat 64 (fieldLe (m.drop 16) 16 8)
      let used : Ladder := { x with rx1 := x.rx1.drop 1, free1 := x.free1 + 1 }
      let gives (t : State) (z : Ladder) : Prop :=
        t.ladder p = (ladderInformed p z).1 ∧ t.out = (ladderInformed p z).2 ++ s.out
      (x.rx1.head?.map scMessage ≠ some m → exec (.sideChannelMessage port m) s = .next s) ∧
      (x.rx1.head?.map scMessage = some m → ∃ t, exec (.sideChannelMessage port m) s = .next t ∧ within t
        ∧ (ty = 2 → len ≤ 48 → x.scRx.length < 16 → gives t { used with scRx := x.scRx ++ [m] } ∧ t.counters = s.counters)
        ∧ (ty = 2 → len ≤ 48 → 16 ≤ x.scRx.length → t = s)
        ∧ ((ty ≠ 1 ∧ ty ≠ 2) ∨ (ty = 2 ∧ 48 < len) → gives t used ∧ up1 t 0x1E0 1)
        ∧ (ty = 1 → len = 24 → gives t { used with
            peerSerial := BitVec.ofNat 64 (fieldLe (m.drop 16) 0 8)
            peerPort := BitVec.ofNat 3 (fieldLe (m.drop 16) 8 1), peerFloor := BitVec.ofNat 8 (fieldLe (m.drop 16) 9 1)
            peerChain := chain, mismatch := decide (chain ≠ s.reg (bLad p) 0x108) }
            ∧ up1 t 0x1E0 (if chain = s.reg (bLad p) 0x108 then 0 else 1))
        ∧ (ty = 1 → len ≠ 24 → gives t { used with mismatch := true } ∧ up1 t 0x1E0 1))) ∧
    (let len := s.fld (bLad p) 0x170 0 6
     let words := scFrame (scWords 2 len ((List.range 6).flatMap fun i => leBytes 8 (s.reg (bLad p) (0x140 + 8 * i)).toNat))
     (48 < len → exec (.scSend port) s = .next s) ∧
     (len ≤ 48 → (x.carries = false ∨ x.markDue ≠ []) →
        ∃ t, exec (.scSend port) s = .next t ∧ within t ∧ t.ladder p = { x with out1 := x.out1 ++ [words] }
          ∧ t.out = s.out) ∧
     (len ≤ 48 → x.carries = true → x.markDue = [] → x.out0 = [] → x.out1 = [] → x.cred1 ≠ 0 →
        x.replay.length < 512 → ∃ t, exec (.scSend port) s = .next t ∧ within t
          ∧ t.ladder p = ladderTold { x with
              nextSeq := (x.nextSeq + 1) % 65536, sent := x.sent + 1, cred1 := x.cred1 - 1
              replay := x.replay ++ [{ seq := x.nextSeq, vc := 1, words := words, pkt := none }] }
          ∧ t.out = ladderSent p x ladData 1 x.nextSeq false words :: s.out)) ∧
    (∃ t, exec (.scPop port) s = .next t ∧ within t ∧ t.ladder p = { x with scRx := x.scRx.drop 1 } ∧ t.out = s.out
      ∧ t.counters = s.counters ∧ t.sheets = s.sheets)

/-- R366, R369, R373, R374, R392: the port's lanes. -/
def Obligations.LadderPortsTrain : Prop :=
  ∀ (s : State) (port : PortIx),
    let p : Nat := port.val
    let x := s.ladder p
    let within (t : State) : Prop := (∀ k, k ≠ p → t.ladder k = s.ladder k) ∧
      t = { s with ladders := t.ladders, counters := t.counters, out := t.out, sheets := t.sheets, once := t.once }
    let up1 (t : State) (off n : Nat) : Prop := t.counter (bLad p) off = s.counter (bLad p) off + BitVec.ofNat 64 n
    let rebooted (y : Ladder) : Ladder :=
      { y with up := false, training := true, epoch := y.epoch + 1, replayRun := 0, failRun := 0, badAcks := 0 }
    let resets (t : State) : Prop := within t ∧ t.ladder p = rebooted x ∧ up1 t 0x1D8 1 ∧ t.out = s.out
    let named : Prop := ∃ e, e < 8 ∧ s.isDisabled (bCmp e) = false ∧ (s.cmp e).running = true ∧ p ∈ s.stepPorts e
    (∀ (lanes : BitVec 8) (peer : Option Bool) (hop : W32),
      (x.training = false → exec (.ladderTrainingAttempt port lanes peer hop) s = .next s) ∧
      (x.training = true → ∃ t, exec (.ladderTrainingAttempt port lanes peer hop) s = .next t ∧ within t ∧
        match s.ladderOffer p lanes, peer with
        | some a, some b =>
          (x.replayRun < 7 → x.down = false → (t.ladder p).up = true ∧ (t.ladder p).training = false
            ∧ (t.ladder p).hold = false ∧ (t.ladder p).half = (a || b) ∧ (t.ladder p).lanesOk = lanes
            ∧ (t.ladder p).hopPs = hop) ∧
          (x.down = false → x.markDue = [] → x.replay = [] → x.out0 = [] → x.out1 = [] → x.cred1 ≠ 0 →
            (t.ladder p).replay = [{ seq := x.nextSeq, vc := 1, words := scFrame (s.identity p), pkt := none }]
              ∧ t.out = ladderSent p { x with half := a || b } ladData 1 x.nextSeq false (scFrame (s.identity p)) :: s.out)
        | _, _ =>
          t.out = s.out ∧
          (x.failRun < 2 → t.ladder p = { x with lanesOk := lanes, failRun := x.failRun + 1 } ∧ t.sheets = s.sheets) ∧
          (2 ≤ x.failRun → t.ladder p = { x with
            lanesOk := lanes, failRun := x.failRun + 1, down := true, up := false, training := false, hold := false }))) ∧
    ((x.up = false ∨ x.down = true) → exec (.ladderLinkReset port) s = .next s) ∧
    (x.up = false → exec (.ladderSilenceTimeout port) s = .next s) ∧
    (x.up = true → x.down = false → (∃ t, exec (.ladderLinkReset port) s = .next t ∧ resets t ∧ t.sheets = s.sheets)
      ∧ ∃ t, exec (.ladderSilenceTimeout port) s = .next t ∧ resets t ∧ up1 t 0x1E0 1) ∧
    (∃ t, exec (.ladderRetrain port) s = .next t ∧ within t ∧ t.ladder p = rebooted { x with down := false }
      ∧ up1 t 0x1D8 1 ∧ t.out = s.out ∧ t.sheets = s.sheets) ∧
    (named → exec (.ladderRestore port) s = .next s) ∧
    (¬ named → ∃ t, exec (.ladderRestore port) s = .next t ∧ within t ∧ t.ladder p = rebooted { x with down := false })

/-- R371 to R390: the step engines 0 to 7 and the delivery of VC 0 messages. One move at a time (log entry 10). -/
def Obligations.CollectiveStepsMoveOn : Prop :=
  ∀ s : State,
    (∀ engine : CmpIx,
      let e : Nat := engine.val
      let y := s.cmp e
      let others (t : State) : Prop := ∀ k, k ≠ e → t.cmp k = s.cmp k
      let onlyCmp (t : State) : Prop := others t ∧ t = { s with cmps := t.cmps }
      let waitsFor : Cmp := { y with
        waitToken := true, waitIn := false, waitSince := if y.waitToken || y.waitIn then y.waitSince else s.elapsed }
      let faulted (t : State) : Prop := others t ∧ (t.cmp e).running = false ∧ (t.cmp e).stepFault = true
        ∧ (t.cmp e).step = y.step ∧ t.tokens = s.tokens
      let stalled := if s.ncl.waiting.contains (cmpWho e) then s else s.hostStall (cmpWho e)
      ((s.cmpActive e = false ∨ y.running = true) → exec (.start engine) s = .next s) ∧
      (s.cmpActive e = true → y.running = false → ∃ t, exec (.start engine) s = .next t ∧ onlyCmp t
        ∧ t.cmp e = { y.free with
          running := true, step := 0, desc := none, table := none, block := 0, tokenHeld := false, stepFlags := .none
          done := false, stepFault := false }) ∧
      (∀ n, (s.cmpActive e = false ∨ y.running = false ∨ n = 0) → exec (.collectiveStep engine n) s = .next s) ∧
      (s.cmpActive e = true → y.running = true →
        (∀ n, 0 < n → s.stepCount e ≤ y.step → ∃ t, exec (.collectiveStep engine n) s = .next t ∧ onlyCmp t
          ∧ t.cmp e = { y.free with running := false, done := true }) ∧
        (y.step < s.stepCount e → y.current = none →
          let r := s.readRun (cmpWho e) (s.stepAt e) 64
          (s.hostWaits (s.stepAt e) 64 = true → ∀ n, 0 < n → exec (.collectiveStep engine n) s = .next stalled) ∧
          (s.hostWaits (s.stepAt e) 64 = false → r.2.anyPoison = false → (collStepOf r.2.data).valid = true →
            ∃ t, exec (.collectiveStep engine 1) s = .next t ∧ others t ∧ t.cmp e = { y with desc := some r.2.data, table := none }
              ∧ t = { r.1 with cmps := t.cmps }) ∧
          (s.hostWaits (s.stepAt e) 64 = false → (r.2.anyPoison = true ∨ (collStepOf r.2.data).valid = false) →
            ∀ n, 0 < n → ∃ t, exec (.collectiveStep engine n) s = .next t ∧ faulted t)) ∧
        ∀ x, y.step < s.stepCount e → y.current = some x →
          let waits := (x.readsAt y).any fun a => s.hostWaits a 1
          let full := (x.store && s.hostFull x.dest 1) || (x.status != 0 && s.hostFull x.status 1)
          let clear : Prop := waits = false ∧ full = false
          let mayRun : Prop := x.wait = true → y.tokenHeld = true
          let ready : Prop := mayRun ∧ clear ∧ (x.needsTable = true → y.table ≠ none)
          (x.wait = true → y.tokenHeld = false →
            ∃ t, exec (.collectiveStep engine 1) s = .next t ∧ onlyCmp t ∧ t.cmp e = waitsFor) ∧
          (mayRun → waits = true → ∀ n, 0 < n → exec (.collectiveStep engine n) s = .next stalled) ∧
          (mayRun → waits = false → full = true → ∀ n, exec (.collectiveStep engine n) s = .next s) ∧
          (mayRun → clear → x.needsTable = true → y.table = none →
            let r := s.readRun (cmpWho e) x.table 192
            (r.2.anyPoison = false → tableOf r.2.data ≠ none → ∃ t, exec (.collectiveStep engine 1) s = .next t ∧ others t
              ∧ t.cmp e = { y with table := some r.2.data } ∧ t = { r.1 with cmps := t.cmps }) ∧
            ((r.2.anyPoison = true ∨ tableOf r.2.data = none) →
              ∀ n, 0 < n → ∃ t, exec (.collectiveStep engine n) s = .next t ∧ faulted t)) ∧
          (ready → x.blocks ≤ y.block → s.stepSent e x = false → ∀ n, exec (.collectiveStep engine n) s = .next s) ∧
          (ready → x.blocks ≤ y.block → s.stepSent e x = true → x.status = 0 →
            ∃ t, exec (.collectiveStep engine 1) s = .next t ∧ others t
              ∧ t.cmp e = { y.free with
                  step := y.step + 1, desc := none, table := none, block := 0, tokenHeld := false, stepFlags := .none }
              ∧ t = { s with cmps := t.cmps, tokMsgs := t.tokMsgs, sendq := t.sendq }
              ∧ (x.signal = false → t.sendq = s.sendq)
              ∧ t.tokMsgs = s.tokMsgs ++ if x.signal = true then [.signal agHub (BitVec.ofNat 16 x.signalToken) 1] else []) ∧
          (ready → y.block < x.blocks → x.useLocal = true → x.useIn = false →
            x.useIn2 = false → x.out = false → x.store = true → x.localFmt ≠ 15 → x.destFmt ≠ 15 →
            s.covered (pCmp e) 0 = true →
            let f := (Fmt.ofCode x.localFmt).getD .fp32
            let g := (Fmt.ofCode x.destFmt).getD .fp32
            let n := x.size y.block
            let r := s.readRun (cmpWho e) (x.localAt + f.size * 2048 * y.block) (f.size * n)
            r.2.anyPoison = false →
            let vals := (bodyElems f n r.2.data).map fun u => (widenBits f u 127 true).1
            let w := r.1.writeRun (cmpWho e) (x.dest + g.size * 2048 * y.block) (packedValues x.destFmt n (some vals)).1
            ∃ t, exec (.collectiveStep engine 1) s = .next t ∧ t.mem = w.mem ∧ t.poison = w.poison
              ∧ (t.cmp e).block = y.block + 1 ∧ (t.cmp e).step = y.step ∧ (t.cmp e).running = true ∧ others t
              ∧ t = { w with cmps := t.cmps, counters := t.counters, energy := t.energy, sheets := t.sheets, once := t.once }) ∧
          (let p1 := x.inPort
           let p2 := x.in2Port
           let n := x.size y.block
           let tbl := y.stepTable.getD noTable
           let slot := y.activeSlot x.outStream
           let paid : Prop := ∀ u, s.covered (pCmp e) (s.price [(14, aHub, u)]) = true
           let tabled : Prop := x.out = true → x.form = 2 → (y.slotOf x.outStream slot).gen = tbl.gen
           let stays (t : State) (m1 : InMsg) (second : Option InMsg) : Prop := others t
             ∧ (t.cmp e).block = y.block + 1 ∧ (t.cmp e).step = y.step ∧ (t.cmp e).running = true
             ∧ ∀ p, p < 8 → (t.ladder p).inq =
                 let l := if p = p1 then (s.ladder p).inq.erase m1 else (s.ladder p).inq
                 match second with
                 | some m2 => if p = p2 then l.erase m2 else l
                 | none => l
           let leaves (t : State) (ws : List CodeWord) : Prop :=
             (s.ladder e).carries = false → (t.ladder e).out0 = (s.ladder e).out0 ++ if x.out = true then [ws] else []
           ready → y.block < x.blocks → x.useIn = true → tabled → paid →
           ∀ m1 m2, (s.ladder p1).inHead x.inStream = .block m1 →
            (∀ v1 f1 v2 f2, decodeBlock m1.words n (s.portTable p1) = .ok v1 f1 → (x.useIn2 || x.useLocal) = true →
              (x.useIn2 = true → (s.ladder p2).inHead x.in2Stream = .block m2
                ∧ decodeBlock m2.words n (s.portTable p2) = .ok v2 f2 ∧ (p1 ≠ p2 ∨ x.inStream ≠ x.in2Stream)) →
              x.localFmt ≠ 15 → x.destFmt ≠ 15 →
              let f := (Fmt.ofCode x.localFmt).getD .fp32
              let g := (Fmt.ofCode x.destFmt).getD .fp32
              let r := s.readRun (cmpWho e) (x.localAt + f.size * 2048 * y.block) (f.size * n)
              (x.useLocal = true → r.2.anyPoison = false) →
              let own := (bodyElems f n r.2.data).map fun u => (widenBits f u 127 true).1
              let add (a b : List Nat) : List Nat := (a.zip b).map fun q => (arith32 (FVal.add (f32 q.1) (f32 q.2))).1
              let sum := ((if x.useIn2 = true then [v2] else []) ++ (if x.useLocal = true then [own] else [])).foldl add v1
              let head (bytes : Nat) : Header :=
                { kind := 1, form := x.form, raw := false, slot := 0, stream := x.outStream, values := n
                  words := 1 + ceilDiv bytes 16, gen := 0, exp := 0 }
              let block : List CodeWord := match x.form with
                | 0 => (head (4 * n)).word :: wordsOfBytes (sum.flatMap fun u => leBytes 4 u)
                | 1 => (head (2 * n)).word :: wordsOfBytes (sum.flatMap fun u => leBytes 2 (convert (f32 u) .bf16 false false).1)
                | _ => (compress sum x.outStream slot 0 tbl).1
              let kept : Values := if x.out = true then decodedSent x n tbl block (some sum) else some sum
              let before := if x.useLocal = true then r.1 else s
              ∃ t, exec (.collectiveStep engine 1) s = .next t
                ∧ stays t m1 (if x.useIn2 = true then some m2 else none) ∧ leaves t block
                ∧ t.mem = if x.store = true then (before.writeRun (cmpWho e) (x.dest + g.size * 2048 * y.block)
                    (packedValues x.destFmt n kept).1).mem else before.mem) ∧
            (∀ w ws, m1.words = w :: ws → x.useIn2 = false → x.useLocal = false → x.store = false →
              let h := headerOf w.data.toNat
              let h2 := { h with stream := x.outStream, slot := if h.form = 2 ∧ h.raw = false then slot else h.slot }
              ∃ t, exec (.collectiveStep engine 1) s = .next t ∧ stays t m1 none
                ∧ leaves t ((if h2 = h then w else h2.word) :: ws) ∧ t.mem = s.mem))) ∧
      ((s.cmpActive e = false ∨ y.running = false ∨ s.stepCount e ≤ y.step ∨ y.current = none) →
        exec (.stepTokenTake engine) s = .next s) ∧
      (∀ x, s.cmpActive e = true → y.running = true → y.step < s.stepCount e → y.current = some x →
        let tile := tokTile x.waitToken
        let n := (s.token (x.waitToken % 65536)).count.toNat
        let op : HeldOp := .stepTake e (BitVec.ofNat 16 x.waitToken)
        let queue := Map.get s.held tile []
        let holds : Prop := s.isDisabled (bTok tile) = true ∨ queue ≠ []
        ((x.wait = false ∨ y.tokenHeld = true ∨ op ∈ queue) → exec (.stepTokenTake engine) s = .next s) ∧
        (x.wait = true → y.tokenHeld = false → op ∉ queue →
          ∃ t, exec (.stepTokenTake engine) s = .next t ∧ others t
            ∧ t = { s with
                cmps := t.cmps, counters := t.counters, tokens := t.tokens, tokMsgs := t.tokMsgs, sendq := t.sendq, held := t.held }
            ∧ (holds → t.cmp e = waitsFor ∧ t.tokens = s.tokens ∧ Map.get t.held tile [] = queue ++ [op])
            ∧ (¬ holds → t.held = s.held)
            ∧ (¬ holds → n = 0 → t.cmp e = waitsFor ∧ t.tokens = s.tokens)
            ∧ (¬ holds → 0 < n → t.cmp e = { waitsFor with tokenHeld := true, waitToken := false, waitLong := false }
                ∧ t.tokens = ((s.setCount (x.waitToken % 65536) (n - 1)).release (x.waitToken % 65536)).tokens))) ∧
      (let limit := s.fld (bCmp e) 0x108 24 16
       let late : Prop := s.cmpActive e = true ∧ (y.waitToken = true ∨ y.waitIn = true) ∧ y.waitLong = false ∧ limit ≠ 0
        ∧ y.waitSince + limit ≤ s.elapsed
       (late → ∃ t, exec (.cmpWaitLong engine) s = .next t ∧ others t ∧ t.cmp e = { y with waitLong := true }
          ∧ t = { s with cmps := t.cmps, sheets := t.sheets, counters := t.counters }) ∧
       (¬ late → exec (.cmpWaitLong engine) s = .next s))) ∧
    ∀ port : PortIx,
      let p : Nat := port.val
      let x := s.ladder p
      let fs := (dropPads x.rx0).1
      let pads := ladderInformed p (({ x with rx0 := fs } : Ladder).consume (dropPads x.rx0).2)
      let y : Ladder := pads.1
      let within (t : State) : Prop := (∀ j, j ≠ p → t.ladder j = s.ladder j) ∧ t = { s with
        ladders := t.ladders, counters := t.counters, out := t.out, sheets := t.sheets, once := t.once }
      let gives (t : State) (l : Ladder × List Output) : Prop := t.ladder p = l.1 ∧ t.out = l.2 ++ pads.2 ++ s.out
      let heldBy (z : Ladder) : Ladder :=
        if x.streamMismatch = true ∨ s.stepUnread = true then z else { z with streamMismatch := true }
      let lost : Prop := ∃ m ∈ x.inq, s.consumer p m.stream = none
      (x.mismatch = true → exec (.vc0MessageDelivery port) s = .next s) ∧
      (x.mismatch = false → lost → ∃ t, exec (.vc0MessageDelivery port) s = .next t ∧ within t ∧ t.ladder p = heldBy x ∧ t.out = s.out) ∧
      (x.mismatch = false → ¬ lost → fs = [] → ∃ t, exec (.vc0MessageDelivery port) s = .next t ∧ within t ∧ gives t (y, [])) ∧
      (x.mismatch = false → ¬ lost → ∀ b w ws rest, fs = (b, w :: ws) :: rest →
        let h := headerOf (receive w.data w.check).1.toNat
        let broken : Prop := (receive w.data w.check).2.1 = true ∨ h.ok = false
        (broken → ∃ t, exec (.vc0MessageDelivery port) s = .next t ∧ within t
          ∧ gives t (ladderInformed p (({ y with
              rx0 := rest, brokenStreams := y.brokenStreams.filter (fun q => q.1 ≠ h.stream) ++ [(h.stream, none)] } : Ladder).consume
              [(b, ws.length + 1)]))
          ∧ t.counter (bLad p) 0x1E0 = s.counter (bLad p) 0x1E0 + 1) ∧
        (¬ broken → takeWords fs h.words = none → ∃ t, exec (.vc0MessageDelivery port) s = .next t ∧ within t ∧ gives t (y, [])) ∧
        (∀ msg left taken, ¬ broken → takeWords fs h.words = some (msg, left, taken) →
          let z : Ladder := { y with rx0 := left, streamMismatch := false }
          let lostStream : Prop := ∃ q ∈ y.brokenStreams, q.1 = h.stream
          (lostStream → ∃ t, exec (.vc0MessageDelivery port) s = .next t ∧ within t
            ∧ gives t (ladderInformed p (z.consume taken))) ∧
          (¬ lostStream → s.consumer p h.stream ≠ none →
            ∃ t, exec (.vc0MessageDelivery port) s = .next t ∧ within t
              ∧ gives t (if s.needed p h.stream = true then
                  { z with inq := x.inq ++ [{ stream := h.stream, words := msg, bufs := taken }] } else y, [])) ∧
          (¬ lostStream → s.consumer p h.stream = none →
            ∃ t, exec (.vc0MessageDelivery port) s = .next t ∧ within t ∧ gives t (heldBy y, [])))) ∧
      (firstTable [] x.inq = none → exec (.tableMessageApply port) s = .next s) ∧
      (∀ m w ws, firstTable [] x.inq = some m → m.words = w :: ws →
        let slot := (headerOf w.data.toNat).slot
        let key := 2 * m.stream + slot
        ((s.consumer p m.stream = none ∨ x.slotRefs m.stream slot ≠ 0) → exec (.tableMessageApply port) s = .next s) ∧
        (∀ e, s.consumer p m.stream = some e → x.slotRefs m.stream slot = 0 →
          ∃ t, exec (.tableMessageApply port) s = .next t ∧ within t ∧ (t.ladder p).inq = x.inq.erase m
            ∧ (∀ j, j ≠ key → Map.get (t.ladder p).slots j .reset = Map.get x.slots j .reset)
            ∧ Map.get (t.ladder p).slots key .reset = (match messageTable m.words with
                | some g => { gen := g.gen, lens := g.lens, valid := true }
                | none => .reset)
            ∧ (messageTable m.words ≠ none → t.counter (bCmp e) 0x178 = s.counter (bCmp e) 0x178 + 1)
            ∧ (messageTable m.words = none → t.counter (bLad p) 0x1E0 = s.counter (bLad p) 0x1E0 + 1)))

/-- R396 to R413: link epochs, the egress buffer and host snoops. -/
def Obligations.LinkEpochsAreDecided : Prop :=
  ∀ s : State,
    let x := s.ncl
    let onlyNcl (t : State) (y : Ncl) : Prop := t.ncl = y ∧ t = { s with ncl := t.ncl }
    let lost (y : Ncl) : Ncl :=
      { y with up := false, egressHeld := true, lossTurn := s.turns.now, flitAcked := 0, flitReplays := 0 }
    let still : Prop := ∀ e ∈ s.cores, e.2.moverq = []
    let calm : Prop := still ∧ ∀ i, i < 8 → (s.home (64 + i)).txns = []
    let told (t : State) : Prop := t.out = (x.vectors.map Output.nclInterrupt).reverse ++ s.out
    let keptWrites := x.egress.filter fun e => e.owner ≠ .control
    let declined (t : State) : Prop :=
      t.ncl.decide = false ∧ t.ncl.egressHeld = false ∧ t.ncl.resumePending = false ∧ t.ncl.waiting = [] ∧ t.ncl.refused = x.waiting
        ∧ t.ncl.egress = x.egress.drop (inBuffer 0 x.egress).length
        ∧ t.counter bNcl 0x150 = s.counter bNcl 0x150 + BitVec.ofNat 64 s.egressBytes ∧ t.mem = s.mem ∧ t.poison = s.poison
        ∧ (∀ r, r < 16 → (t.ring r).enabled = false ∧ (t.ring r).cmd = none ∧ t.fld bNcl (ringBase r) 0 1 = 0)
        ∧ (∀ a line, a < 512 → hostBase ≤ line * 128 → (t.held1 a line).st = .I ∧ t.dir line = .reset)
        ∧ (∀ a line, a < 512 → line * 128 < hostBase → t.held1 a line = s.held1 a line ∧ t.dir line = s.dir line)
        ∧ t.engines = s.engines
        ∧ ∀ c, c < 416 → t.core c = { s.core c with moves := (s.core c).moves.filter fun m => t.owed (.move c m.seq) }
    (∀ cause, ∃ t, exec (.nclLinkDown cause) s = .next t ∧
      onlyNcl t (let y := { x with hostReset := x.hostReset || decide (cause = .hostReset) }
        if x.up then lost y else y)) ∧
    (∀ cause,
      let run : Nat × Nat := match cause with
        | .nak a => (a, if a = x.flitAcked then x.flitReplays + 1 else 1)
        | .timeout => (x.flitAcked, x.flitReplays + 1)
      (x.up = false → exec (.nclFlitReplay cause) s = .next s) ∧
      (x.up = true → ∃ t, exec (.nclFlitReplay cause) s = .next t ∧
        onlyNcl t (if run.2 < 8 then { x with flitAcked := run.1, flitReplays := run.2 } else lost x))) ∧
    (∀ hr half : Bool,
      let hostReset := hr || x.hostReset
      let auto : Prop := hostReset = false ∧ s.fld bNcl 0x108 0 1 = 1
      (x.up = true → exec (.nclLinkUp hr half) s = .next s) ∧
      (x.up = false → x.epoch = 0 → calm → ∃ t, exec (.nclLinkUp hr half) s = .next t ∧ onlyNcl t { x with
        up := true, everUp := true, half := half, epoch := 1, flitReplays := 0, egressHeld := false, hostReset := false
        waiting := [] }) ∧
      (x.up = false → x.epoch ≠ 0 → ¬ auto → ∃ t, exec (.nclLinkUp hr half) s = .next t
        ∧ t.ncl = { x with
            up := true, everUp := true, half := half, epoch := x.epoch + 1, flitReplays := 0, egress := keptWrites
            resume := t.ncl.resume, resumePending := true, decide := true, hostReset := hostReset }
        ∧ fieldLe t.ncl.resume 6 1 = (if hostReset then 1 else 2) ∧ fieldLe t.ncl.resume 8 4 = x.epoch.toNat
        ∧ fieldLe t.ncl.resume 12 4 = (x.epoch + 1).toNat ∧ t.out = .nclInterrupt s.eventVector :: s.out
        ∧ ((x.egress.any fun e => e.owner == .control) = true → t.save.copyoutAborted = true)
        ∧ t = { s with
            ncl := t.ncl, out := t.out, save := t.save, tokMsgs := t.tokMsgs, sendq := t.sendq, energy := t.energy }) ∧
      (x.up = false → x.epoch ≠ 0 → auto → calm → x.heldSnoops = [] →
        ∃ t, exec (.nclLinkUp hr half) s = .next t ∧ t.ncl.up = true ∧ t.ncl.epoch = x.epoch + 1 ∧ t.ncl.decide = false
          ∧ t.ncl.resumePending = true ∧ t.ncl.egressHeld = false ∧ t.ncl.egress = keptWrites ∧ t.ncl.waiting = [])) ∧
    (∀ epoch,
      let valid : Prop := x.decide = true ∧ epoch = x.epoch
      (¬ valid → exec (.adopt epoch) s = .next { s with ncl := { x with ignored := true } }
        ∧ exec (.decline epoch) s = .next { s with ncl := { x with ignored := true } }) ∧
      (valid → calm → x.heldSnoops = [] → ∃ t, exec (.adopt epoch) s = .next t ∧ told t
        ∧ t.ncl = { x with
            ignored := false, resumePending := false, resume := [], decide := false, egressHeld := false, hostReset := false
            waiting := [], vectors := [] }
        ∧ t = { s with ncl := t.ncl, out := t.out }) ∧
      (valid → calm → x.heldSnoops = [] → ∃ t, exec (.decline epoch) s = .next t ∧ declined t ∧ told t
        ∧ t.ncl.ignored = false) ∧
      ((x.resumePending = true ∧ x.decide = false ∧ epoch = x.epoch) →
        ∃ t, exec (.ack epoch) s = .next t ∧ onlyNcl t { x with ignored := false, resumePending := false, resume := [] }) ∧
      (¬ (x.resumePending = true ∧ x.decide = false ∧ epoch = x.epoch) →
        exec (.ack epoch) s = .next { s with ncl := { x with ignored := true } })) ∧
    ((x.decide = false ∨ s.fld bNcl 0x108 16 32 = 0) → exec .decideTimeout s = .next s) ∧
    (x.decide = true → s.fld bNcl 0x108 16 32 ≠ 0 → calm → x.heldSnoops = [] →
      ∃ t, exec .decideTimeout s = .next t ∧ declined t ∧ told t) ∧
    ((x.egress = [] ∨ x.up = false ∨ x.decide = true ∨ x.egressHeld = true) →
      exec .hostWriteAcknowledgement s = .next s) ∧
    (∀ e rest, x.egress = e :: rest → x.up = true → x.decide = false → x.egressHeld = false → still → Memory.wf s.mem = true →
      ∃ t, exec .hostWriteAcknowledgement s = .next t
        ∧ (∀ i, i < e.bytes.length → Map.get t.mem (e.addr + i) unlistedByte = e.bytes.getD i 0)
        ∧ (∀ k, k < e.addr ∨ e.addr + e.bytes.length ≤ k → Map.get t.mem k unlistedByte = Map.get s.mem k unlistedByte)
        ∧ t.ncl = { x with egress := rest, flitReplays := 0, seqAcked := (match e.completion with
            | some c => c.2.1
            | none => x.seqAcked) }
        ∧ t.out = (match e.completion with
            | some (_, _, some v) => .nclInterrupt v :: s.out
            | _ => s.out)
        ∧ t = { s with mem := t.mem, poison := t.poison, upsets := t.upsets, ncl := t.ncl, out := t.out, cores := t.cores }
        ∧ (∀ c k, e.owner = .move c k →
            (t.core c).moves = (s.core c).moves.filter fun m => rest.any fun q => q.owner == .move c m.seq)
        ∧ ∀ c, (∀ k, e.owner ≠ .move c k) → t.core c = s.core c) ∧
    ∀ (line : Nat) (c : Instr × CohReq × SnoopKind),
      c ∈ [(.hsnps line, .hsnps, .snpS), (.hsnpu line, .hsnpu, .snpU), (.hsnpi line, .hsnpi, .snpU)] →
      let d := s.dir line
      let h := homeOf (line * 128)
      let missed (t : State) : Prop := t = { s with out := .hostSnoopAnswer line none [] :: s.out }
      let idle : Prop := s.placeOf (line * 128) = .host ∧ tableRoom (s.home h) = true ∧ (s.home h).aged = []
        ∧ (s.home h).hostSnoops = [] ∧ (∀ t ∈ (s.home h).txns, t.line ≠ line) ∧ s.dirRoom h line = s
      (x.up = false → exec c.1 s = .next s) ∧
      (x.up = true → x.decide = true → d.st = .U → ∃ t, exec c.1 s = .next t ∧ missed t) ∧
      (x.up = true → x.decide = true → d.st ≠ .U →
        ∃ t, exec c.1 s = .next t ∧ onlyNcl t { x with heldSnoops := x.heldSnoops ++ [(line, c.2.1)] }) ∧
      (x.up = true → x.decide = false → s.placeOf (line * 128) = .host → tableRoom (s.home h) = false →
        (∀ r ∈ (s.home h).aged, r.src ≠ .host) → ∃ t, exec c.1 s = .next t ∧ t = { s with homes := t.homes }
          ∧ t.home h = { s.home h with hostSnoops := (s.home h).hostSnoops ++ [(line, c.2.1)] }) ∧
      (x.up = true → x.decide = false → s.placeOf (line * 128) ≠ .host → ∃ t, exec c.1 s = .next t ∧ missed t) ∧
      (x.up = true → x.decide = false → idle → d.st = .U → ∃ t, exec c.1 s = .next t ∧ (t.dir line).st = .U
        ∧ t.out = .hostSnoopAnswer line none [] :: s.out ∧ (t.home h).txns = (s.home h).txns ∧ t.mem = s.mem
        ∧ t.lines = s.lines) ∧
      (x.up = true → x.decide = false → idle → d.st = .X → s.agentLive d.owner = true → ∃ t, exec c.1 s = .next t
        ∧ (t.home h).txns = (s.home h).txns ++ [{ newTxn line c.2.1 .host [] 0 false with
            started := true, snoops := [(d.owner, c.2.2)] }]
        ∧ t.out = s.out ∧ t.dirs = s.dirs ∧ t.mem = s.mem ∧ t.lines = s.lines)

/-- R403 to R409, R416: command rings, raw copies, the fence and the mailbox. -/
def Obligations.RingsRunTheirCommands : Prop :=
  ∀ s : State,
    let y := s.ncl
    (∀ ring : Ix16,
      let r : Nat := ring.val
      let x := s.ring r
      let n := s.ringSlots r
      let onlyRing (t : State) (z : Ring) : Prop :=
        t.ring r = z ∧ (∀ k, k ≠ r → t.ring k = s.ring k) ∧ t.ncl = { y with rings := t.ncl.rings }
      let gotSlot (t : State) (z : Ring) : Prop :=
        t.ring r = z ∧ (∀ k, k ≠ r → t.ring k = s.ring k) ∧ t.ncl = { y with rings := t.ncl.rings, flitReplays := 0 }
      let done (c : RingCmd) : Ring := { x with cmd := some { c with finished := some 0 } }
      let works (op : Nat) (c : RingCmd) : Prop := x.cmd = some c ∧ c.op = op ∧ c.finished = none
      (∀ p : BitVec 32,
        let d := (p - x.c).toNat
        (d = 0 → exec (.doorbell ring p) s = .next s) ∧
        (0 < d → d ≤ n → ∃ t, exec (.doorbell ring p) s = .next t ∧ t = { s with ncl := t.ncl }
          ∧ onlyRing t { x with p := p, ringError := false, staleWait := false }) ∧
        (n < d → ∃ t, exec (.doorbell ring p) s = .next t ∧ t = { s with ncl := t.ncl, counters := t.counters }
          ∧ onlyRing t { x with ringError := true } ∧ t.counter bNcl 0x148 = s.counter bNcl 0x148 + 1)) ∧
      (∀ head, ∃ t, exec (.cqHead ring head) s = .next t ∧ t = { s with ncl := t.ncl }
        ∧ onlyRing t { x with head := head }) ∧
      (∀ first : Bool,
        let cmd : Instr := if first then .slotRead ring else .staleReread ring
        let due : Prop := s.canFetch r = true ∧ (first = true ↔ x.staleReads = 0)
        let a := s.sqBase r + 64 * (x.c.toNat % n)
        let bs := s.readKey a 64
        let d := bs.data
        let asked := s.countRequest (homeOf a) 0 0
        let q := copyArgs ((d.drop 8).take 48)
        let image := if (fieldLe d 2 1 = 2 ∨ fieldLe d 2 1 = 3) ∧ q.hasTable = true then (asked.readRun ringWho q.table 192).2 else []
        let stamped : Prop := bs.anyPoison = false ∧ fieldLe d 0 2 = (x.c.toNat / n + 1) % 65536
        let checked : Prop := fieldLe d 60 4 = crc32 (d.take 60)
        (¬ due → exec cmd s = .next s) ∧
        (due → s.placeOf a = .host → s.wire = [] → stamped → checked → ∃ t, exec cmd s = .next t
          ∧ (image = [] → t = { s with ncl := t.ncl, counters := asked.counters })
          ∧ gotSlot t { x with
              staleReads := 0
              cmd := some
                { op := fieldLe d 2 1, irq := bitOf (fieldLe d 3 1) 0, tag := BitVec.ofNat 32 (fieldLe d 4 4)
                  args := (d.drop 8).take 48, image := image.data, progress := 0, finished := s.slotInvalid d image } }) ∧
        (due → s.placeOf a = .host → s.wire = [] → ¬ (stamped ∧ checked) → ∃ t, exec cmd s = .next t
          ∧ t = { s with ncl := t.ncl, counters := t.counters } ∧ t.counter bNcl 0x140 = s.counter bNcl 0x140 + 1
          ∧ gotSlot t { x with
              staleReads := if x.staleReads = 8 then 0 else x.staleReads + 1
              staleWait := decide (x.staleReads = 8), checkFail := (t.ring r).checkFail }
          ∧ ((t.ring r).checkFail = true ↔ stamped ∧ ¬ checked)) ∧
        (due → s.placeOf a ≠ .host → ∃ t, exec cmd s = .next t ∧ t.counter bNcl 0x140 = s.counter bNcl 0x140 + 1
          ∧ onlyRing t { x with
              staleReads := if x.staleReads = 8 then 0 else x.staleReads + 1
              staleWait := decide (x.staleReads = 8), checkFail := false })) ∧
      ((x.cmd = none ∨ ∃ c, x.cmd = some c ∧ c.finished ≠ none) → ∀ k, exec (.ringNop ring) s = .next s
        ∧ exec (.message ring) s = .next s ∧ exec (.commandSignal ring) s = .next s
        ∧ exec (.copyIn ring k) s = .next s ∧ exec (.copyOut ring k) s = .next s) ∧
      (∀ c, works 1 c → ∃ t, exec (.ringNop ring) s = .next t ∧ t = { s with ncl := t.ncl } ∧ onlyRing t (done c)) ∧
      (∀ c, works 4 c → (64 ≤ y.mailbox.length → exec (.message ring) s = .next s) ∧
        (y.mailbox.length < 64 → ∃ t, exec (.message ring) s = .next t ∧ t = { s with ncl := t.ncl } ∧ t.ring r = done c
          ∧ t.ncl = { y with rings := t.ncl.rings, mailbox := y.mailbox ++ [c.args] })) ∧
      (∀ c, works 5 c →
        let tok := fieldLe c.args 0 2
        let v := fieldLe c.args 4 4
        ∃ t, exec (.commandSignal ring) s = .next t ∧ onlyRing t (done c)
          ∧ t.tokMsgs = s.tokMsgs ++ [.signal agHub (BitVec.ofNat 16 tok) (BitVec.ofNat 32 v)]
          ∧ t = { s with ncl := t.ncl, tokMsgs := t.tokMsgs, sendq := t.sendq }) ∧
      (∀ c : RingCmd, let q := copyArgs c.args
        q.form = 0 → s.copyActive = true → s.covered (pCmp 8) (s.price [(10, aHub, 1)]) = true →
        let moved (t : State) (total : Nat) (bad : Bool) : Prop := (t.ring r).cmd = some { c with
          progress := c.progress + 1
          finished := if bad then some 3 else if total ≤ c.progress + 1 then some 0 else none }
        (works 3 c → s.hostFull q.host q.hostBytes = true → exec (.copyOut ring 1) s = .next s) ∧
        (works 3 c → s.hostFull q.host q.hostBytes = false →
          let piece := rangeLine q.host q.len c.progress
          let rd := s.readRun ringWho (q.dev + piece.1) piece.2
          let a := q.host + piece.1
          (∀ i, i < piece.2 → rd.1.placeOf (a + i) = .host) → rd.1.ncl = y → rd.1.dir (lineOf a) = .reset →
          (rd.1.home (homeOf a)).txns = [] → (rd.1.home (homeOf a)).aged = [] → s.wire = [] →
          ∃ t, exec (.copyOut ring 1) s = .next t ∧ moved t (rangeLines q.host q.len) rd.2.anyPoison
            ∧ t.mem = rd.1.mem
            ∧ t.ncl.egress = y.egress ++ (rowsOf a piece.2).map fun w =>
                { addr := w.1, bytes := (rd.2.data.drop (w.1 - a)).take w.2.1, poison := rd.2.anyPoison, owner := .ring r
                  completion := none }) ∧
        (works 2 c → s.hostWaits q.host q.hostBytes = true → exec (.copyIn ring 1) s = .next (s.hostStall ringWho)) ∧
        (works 2 c → s.hostWaits q.host q.hostBytes = false →
          let piece := rangeLine q.dev q.len c.progress
          let rd := s.readRun ringWho (q.host + piece.1) piece.2
          ∃ t, exec (.copyIn ring 1) s = .next t ∧ moved t (rangeLines q.dev q.len) rd.2.anyPoison
            ∧ t.mem = (rd.1.writeRun ringWho (q.dev + piece.1)
                (if rd.2.anyPoison then rd.2.map fun b => (b.1, true) else rd.2)).mem)) ∧
      ((x.cmd = none ∨ (∃ c, x.cmd = some c ∧ c.finished = none) ∨ (∃ e ∈ y.egress, e.owner = .ring r) ∨ s.egressFull = true) →
        exec (.completionWrite ring) s = .next s) ∧
      (∀ c st, x.cmd = some c → c.finished = some st → (∀ e ∈ y.egress, e.owner ≠ .ring r) → s.egressFull = false →
        let a := s.cqBase r + 16 * (x.tail.toNat % n)
        s.placeOf a = .host → s.dir (lineOf a) = .reset → (s.home (homeOf a)).txns = [] → (s.home (homeOf a)).aged = [] → s.wire = [] →
        ∃ t, exec (.completionWrite ring) s = .next t
          ∧ t.mem = s.mem ∧ t.regs = s.regs ∧ t.cores = s.cores ∧ t.tokens = s.tokens ∧ t.out = s.out
          ∧ t.ring r = { x with cmd := none, c := x.c + 1, tail := x.tail + 1 }
          ∧ (∀ k, k ≠ r → t.ring k = s.ring k)
          ∧ t.ncl = { y with rings := t.ncl.rings, seq := y.seq + 1, egress := y.egress ++ [
              { addr := a, poison := false, owner := .home
                bytes := leBytes 2 ((x.tail.toNat / n + 1) % 65536) ++ leBytes 1 st ++ leBytes 1 r
                  ++ leBytes 4 c.tag.toNat ++ leBytes 8 (y.seq + 1)
                completion := some (r, y.seq + 1,
                  if c.irq then some (BitVec.ofNat 8 (s.fld bNcl (ringBase r) 8 8)) else none) }] })) ∧
    (y.up = false → exec .fence s = .next s) ∧
    (y.up = true → exec .fence s = .next
      (s.emit (.nclReadData (if y.decide then BitVec.allOnes 64 else BitVec.ofNat 64 y.seqAcked)))) ∧
    (∃ t, exec .mbxPop s = .next t ∧ t = { s with ncl := { y with mailbox := y.mailbox.drop 1 } })

/-- R418 to R441: one move of an intake engine. -/
def Obligations.IntakeRunsTheirBatches : Prop :=
  ∀ (s : State) (engine : Ix16),
    let i : Nat := engine.val
    let y := s.intake i
    let run := s.fld (bItk i) 0x140 0 32
    let start := s.fld (bItk i) 0x110 0 16
    let code := (s.batchCode i).2
    let stalled := if s.ncl.waiting.contains (intakeWho i) then s else s.hostStall (intakeWho i)
    let read := s.readRun (intakeWho i) (s.batchAddr i) 128
    let others (t : State) : Prop := (∀ k, k ≠ i → t.intake k = s.intake k) ∧ t.tokens = s.tokens
      ∧ t.cores = s.cores ∧ t.engines = s.engines
    let up1 (t : State) (off n : Nat) : Prop := t.counter (bItk i) off = s.counter (bItk i) off + BitVec.ofNat 64 n
    let ended (t : State) : Prop :=
      (t.intake i).waiting = true ∧ (t.intake i).running = false ∧ (t.intake i).granted = false
        ∧ t.fld (bItk i) 0x140 0 32 = (run + 1) % 2 ^ 32
        ∧ t.tokMsgs = s.tokMsgs ++ [.signal (agIntake i) (BitVec.ofNat 16 (s.fld (bItk i) 0x110 16 16)) 1,
            .wait (agIntake i) (BitVec.ofNat 16 start) 1]
    (∀ n, (s.intakeActive i = false ∨ n = 0 ∨ y.journal ≠ [] ∨ (y.granted = false ∧ y.running = false)) →
      exec (.intakeRun engine n) s = .next s) ∧
    (s.intakeActive i = true → y.journal = [] → y.granted = true → y.running = false →
      (s.startHeld i = true → ∀ n, 0 < n → exec (.intakeRun engine n) s = .next stalled) ∧
      (s.fld (bItk i) 0x108 0 16 = 0 → ∃ t, exec (.intakeRun engine 1) s = .next t ∧ others t ∧ ended t ∧ t.mem = s.mem
        ∧ (t.intake i).batchFault = false ∧ t.sheets = s.sheets) ∧
      (s.fld (bItk i) 0x108 0 16 ≠ 0 → s.startHeld i = false → code ≠ 0 → ∃ t, exec (.intakeRun engine 1) s = .next t ∧ others t ∧ ended t
        ∧ (t.intake i).batchFault = true ∧ (t.intake i).faultCode.toNat = code ∧ up1 t 0x178 1) ∧
      (s.fld (bItk i) 0x108 0 16 ≠ 0 → s.startHeld i = false → code = 0 → ∃ t, exec (.intakeRun engine 1) s = .next t ∧ others t
        ∧ t.tokMsgs = s.tokMsgs ∧ t.intake i = { y with
            granted := false, batchFault := false, faultCode := 0, waitLong := false, running := true
            position := s.fld (bItk i) 0x108 16 4, waitSince := s.elapsed, batch := read.2.data
            prog := (read.1.readRun (intakeWho i) (batchOf read.2.data).program 256).2.data })) ∧
    (s.intakeActive i = true → y.journal = [] → y.running = true →
      let b := batchOf y.batch
      let p := intakeProgOf y.prog
      let q := y.position
      let ix := sampleIndex (b.first + q) b.orderSeed b.dirCount
      let sm := s.sampleOf i b p ix
      let rec0 := fieldLe (s.peek (b.dir + 16 * ix) 8 : PBytes).data 0 8
      let waits := s.hostWaits (b.dir + 16 * ix) 16 || s.hostWaits rec0 1
      let full := s.hostFull b.dest 1 || s.hostFull b.side 1
      (b.count ≤ q → s.owed (.unit (intakeWho i)) = true → ∀ n, exec (.intakeRun engine n) s = .next s) ∧
      (b.count ≤ q → s.owed (.unit (intakeWho i)) = false → ∃ t, exec (.intakeRun engine 1) s = .next t ∧ others t ∧ ended t
        ∧ t.mem = s.mem) ∧
      (q < b.count → waits = true → ∀ n, 0 < n → exec (.intakeRun engine n) s = .next stalled) ∧
      (q < b.count → waits = false → full = true → ∀ n, exec (.intakeRun engine n) s = .next s) ∧
      (q < b.count → waits = false → full = false →
        s.covered (pIntake i) (s.price [(12, aHub, sm.2.work)]) = true →
        let w := (sm.1.writeRun (intakeWho i) (b.dest + q * b.stride) (.clean sm.2.out)).writeRun (intakeWho i)
          (b.side + 32 * q) (.clean (sideRecord sm.2 ix))
        ∃ t, exec (.intakeRun engine 1) s = .next t ∧ t.mem = w.mem ∧ t.poison = w.poison
          ∧ t = { w with
              intakes := t.intakes, counters := t.counters, energy := t.energy, sheets := t.sheets, once := t.once }
          ∧ (∀ k, k ≠ i → t.intake k = w.intake k) ∧ (t.intake i).position = q + b.engines ∧ (t.intake i).waitSince = w.elapsed
          ∧ (sm.2.reason = 0 → (t.intake i).journal = (w.intake i).journal)
          ∧ (sm.2.reason ≠ 0 → (t.intake i).flags = (w.intake i).flags
              ∧ (t.intake i).journal = (w.intake i).journal ++ [(ix, q, sm.2.work, sm.2.reason, b.step)]))) ∧
    (let limit := s.fld (bItk i) 0x108 32 16
     let late : Prop := s.intakeActive i = true ∧ y.running = true ∧ y.waitLong = false ∧ limit ≠ 0
      ∧ y.waitSince + limit ≤ s.elapsed
     (late → ∃ t, exec (.intakeWaitLong engine) s = .next t ∧ others t ∧ t.intake i = { y with waitLong := true }
        ∧ t = { s with intakes := t.intakes, sheets := t.sheets, counters := t.counters }) ∧
     (¬ late → exec (.intakeWaitLong engine) s = .next s))
end

