-- ==== Sys2Proof/Laws/Map.lean ====
section
/-! SUPPORT. Sparse stores and sets: what a read gives after a write, and that every operation keeps the canonical form. -/

namespace Sys2Proof.Machine

variable {α : Type}

@[simp] theorem Map.find_nil (i : Nat) : Map.find ([] : Map α) i = none := rfl

theorem Map.find_cons (k : Nat) (v : α) (m : Map α) (i : Nat) :
    Map.find ((k, v) :: m : Map α) i = if i = k then some v else Map.find m i := rfl

@[simp] theorem Map.find_insert (m : Map α) (k : Nat) (v : α) (i : Nat) :
    Map.find (Map.insert m k v) i = if i = k then some v else Map.find m i := by
  induction m with
  | nil => simp [Map.insert, Map.find_cons]
  | cons e m ih =>
    obtain ⟨j, w⟩ := e
    rw [Map.insert]
    by_cases h1 : k < j
    · rw [if_pos h1, Map.find_cons]
    · rw [if_neg h1]
      by_cases h2 : k = j
      · subst h2
        rw [if_pos rfl, Map.find_cons, Map.find_cons]
        split_ifs <;> rfl
      · rw [if_neg h2, Map.find_cons, Map.find_cons, ih]
        split_ifs <;> first | rfl | omega

@[simp] theorem Map.find_erase (m : Map α) (k i : Nat) :
    Map.find (Map.erase m k) i = if i = k then none else Map.find m i := by
  unfold Map.erase
  induction m with
  | nil => simp
  | cons e m ih =>
    obtain ⟨j, w⟩ := e
    rw [List.filter_cons]
    split_ifs with h1 h2
    · subst h2
      rw [Map.find_cons, ih]
      simp only [decide_eq_true_eq] at h1
      rw [if_neg (Ne.symm h1), if_pos rfl]
    · rw [Map.find_cons, ih, Map.find_cons, if_neg h2]
    · rw [ih]; simp_all
    · rw [ih, if_neg (by assumption), Map.find_cons]
      simp only [decide_eq_true_eq, not_not] at h1
      subst h1
      rw [if_neg (by assumption)]

variable [DecidableEq α]

/-- A read after a write: the written key reads as written, every other key as before. -/
theorem Map.get_put (m : Map α) (k : Nat) (v d : α) (i : Nat) :
    Map.get (Map.put m k v d) i d = if i = k then v else Map.get m i d := by
  unfold Map.get Map.put
  split_ifs with h1 h2 h2 <;> simp [h2, h1]

@[simp] theorem Map.get_put_same (m : Map α) (k : Nat) (v d : α) : Map.get (Map.put m k v d) k d = v := by
  simp [Map.get_put]

@[simp] theorem Map.get_put_ne (m : Map α) (k : Nat) (v d : α) (i : Nat) (h : i ≠ k) :
    Map.get (Map.put m k v d) i d = Map.get m i d := by
  simp [Map.get_put, h]

/-! ### The canonical form -/

theorem Map.wf_cons (d : α) (e : Nat × α) (m : Map α) :
    Map.wf d (e :: m : Map α) = true ↔ e.2 ≠ d ∧ (∀ x ∈ m, e.1 < x.1) ∧ Map.wf d m = true := by
  obtain ⟨k, v⟩ := e
  simp [Map.wf, and_assoc]

theorem Map.wf_filter (d : α) (m : Map α) (p : Nat × α → Bool) (h : Map.wf d m = true) :
    Map.wf d (m.filter p : Map α) = true := by
  induction m with
  | nil => exact h
  | cons e m ih =>
    obtain ⟨h1, h2, h3⟩ := (Map.wf_cons d e m).1 h
    rw [List.filter_cons]
    split
    · exact (Map.wf_cons d e _).2 ⟨h1, fun x hx => h2 x ((List.mem_filter.1 hx).1), ih h3⟩
    · exact ih h3

theorem Map.wf_erase (d : α) (m : Map α) (k : Nat) (h : Map.wf d m = true) : Map.wf d (Map.erase m k) = true :=
  Map.wf_filter d m _ h

omit [DecidableEq α] in
theorem Map.mem_insert (m : Map α) (k : Nat) (v : α) (x : Nat × α) (h : x ∈ Map.insert m k v) : x = (k, v) ∨ x ∈ m := by
  induction m with
  | nil => simpa [Map.insert] using h
  | cons e m ih =>
    obtain ⟨j, w⟩ := e
    rw [Map.insert] at h
    split_ifs at h
    · simpa using h
    · rcases List.mem_cons.1 h with h | h
      · exact .inl h
      · exact .inr (List.mem_cons_of_mem _ h)
    · rcases List.mem_cons.1 h with h | h
      · exact .inr (h ▸ List.mem_cons_self ..)
      · exact (ih h).imp_right (List.mem_cons_of_mem _)

theorem Map.wf_insert (d : α) (m : Map α) (k : Nat) (v : α) (hv : v ≠ d) (h : Map.wf d m = true) :
    Map.wf d (Map.insert m k v) = true := by
  induction m with
  | nil => exact (Map.wf_cons d (k, v) []).2 ⟨hv, by simp, rfl⟩
  | cons e m ih =>
    have ⟨h1, h2, h3⟩ := (Map.wf_cons d e m).1 h
    obtain ⟨j, w⟩ := e
    rw [Map.insert]
    split_ifs with hk hk'
    · refine (Map.wf_cons d _ _).2 ⟨hv, fun x hx => ?_, h⟩
      rcases List.mem_cons.1 hx with rfl | hx
      · exact hk
      · exact Nat.lt_trans hk (h2 x hx)
    · subst hk'; exact (Map.wf_cons d _ _).2 ⟨hv, h2, h3⟩
    · refine (Map.wf_cons d _ _).2 ⟨h1, fun x hx => ?_, ih h3⟩
      rcases Map.mem_insert m k v x hx with rfl | hx
      · exact Nat.lt_of_le_of_ne (Nat.le_of_not_lt hk) (Ne.symm hk')
      · exact h2 x hx

/-- A write keeps the canonical form. -/
theorem Map.wf_put (m : Map α) (k : Nat) (v d : α) (h : Map.wf d m = true) : Map.wf d (Map.put m k v d) = true := by
  unfold Map.put
  split_ifs with hv
  · exact Map.wf_erase d m k h
  · exact Map.wf_insert d m k v hv h

theorem Map.wf_mapVals (m : Map α) (f : α → α) (d : α) (h : Map.wf d m = true) :
    Map.wf d (Map.mapVals m f d) = true := by
  unfold Map.mapVals
  induction m with
  | nil => rfl
  | cons e m ih =>
    obtain ⟨_, h2, h3⟩ := (Map.wf_cons d e m).1 h
    rw [List.filterMap_cons]
    split_ifs with hd
    · exact ih h3
    · refine (Map.wf_cons d _ _).2 ⟨hd, fun x hx => ?_, ih h3⟩
      obtain ⟨y, hy, hxy⟩ := List.mem_filterMap.1 hx
      split_ifs at hxy
      cases hxy
      exact h2 y hy

/-! ### Sets of numbers -/

@[simp] theorem mem_setAdd (l : List Nat) (k i : Nat) : i ∈ setAdd l k ↔ i = k ∨ i ∈ l := by
  induction l with
  | nil => simp [setAdd]
  | cons j l ih =>
    rw [setAdd]
    split_ifs with h1 h2
    · simp
    · subst h2; simp
    · rw [List.mem_cons, ih, List.mem_cons]; tauto

theorem mem_setDelRange (l : List Nat) (lo hi i : Nat) : i ∈ setDelRange l lo hi ↔ i ∈ l ∧ (i < lo ∨ hi ≤ i) := by
  simp [setDelRange]

end Sys2Proof.Machine
end

