-- ==== Sys2Proof/Laws/Memory.lean ====
section
/-! SUPPORT. Memory: the canonical form is kept, a read after a write gives the bytes written, and other bytes stay. -/

namespace Sys2Proof.Machine

theorem memWfFrom_weaken {lo lo' : Nat} (h : lo' ≤ lo) :
    ∀ {m : List Host.Cell}, memWfFrom lo m = true → memWfFrom lo' m = true
  | [], _ => rfl
  | (k, b) :: cs, hm => by
    simp only [memWfFrom, Bool.and_eq_true, decide_eq_true_eq] at hm ⊢
    exact ⟨⟨Nat.le_trans h hm.1.1, hm.1.2⟩, hm.2⟩

theorem memWfFrom_filter (p : Host.Cell → Bool) :
    ∀ {lo : Nat} {m : List Host.Cell}, memWfFrom lo m = true → memWfFrom lo (m.filter p) = true
  | _, [], _ => rfl
  | lo, (k, b) :: cs, hm => by
    simp only [memWfFrom, Bool.and_eq_true, decide_eq_true_eq] at hm
    rw [List.filter_cons]
    split
    · simp only [memWfFrom, Bool.and_eq_true, decide_eq_true_eq]
      exact ⟨hm.1, memWfFrom_filter p hm.2⟩
    · exact memWfFrom_weaken (Nat.le_succ_of_le hm.1.1) (memWfFrom_filter p hm.2)

/-- Taking bytes out keeps the canonical form. -/
theorem Memory.wf_filter (p : Host.Cell → Bool) {m : List Host.Cell} (h : Memory.wf m = true) :
    Memory.wf (m.filter p) = true := memWfFrom_filter p h

/-- Two canonical lists joined at an address. -/
theorem memWfFrom_append {hi : Nat} :
    ∀ {lo : Nat} {l r : List Host.Cell}, lo ≤ hi → memWfFrom lo l = true → (∀ c ∈ l, c.1 < hi) → memWfFrom hi r = true →
      memWfFrom lo (l ++ r) = true
  | _, [], _, hlo, _, _, hr => memWfFrom_weaken hlo hr
  | lo, (k, b) :: cs, r, _, hl, hb, hr => by
    simp only [memWfFrom, Bool.and_eq_true, decide_eq_true_eq, List.cons_append] at hl ⊢
    have hk : k < hi := hb (k, b) (List.mem_cons_self ..)
    exact ⟨hl.1, memWfFrom_append hk hl.2 (fun c hc => hb c (List.mem_cons_of_mem _ hc)) hr⟩

theorem memWfFrom_cells : ∀ (a : Nat) (bs : List Byte), memWfFrom a (memCells a bs) = true
  | _, [] => rfl
  | a, b :: bs => by
    rw [memCells]
    split
    · exact memWfFrom_weaken (Nat.le_succ a) (memWfFrom_cells (a + 1) bs)
    · next hb =>
      simp only [memWfFrom, Bool.and_eq_true, decide_eq_true_eq]
      exact ⟨⟨Nat.le_refl a, hb⟩, memWfFrom_cells (a + 1) bs⟩

theorem memCells_lt : ∀ (a : Nat) (bs : List Byte), ∀ c ∈ memCells a bs, c.1 < a + bs.length
  | _, [], _, hc => by simp [memCells] at hc
  | a, b :: bs, c, hc => by
    rw [memCells] at hc
    have step : c ∈ memCells (a + 1) bs → c.1 < a + (b :: bs).length := fun h => by
      have := memCells_lt (a + 1) bs c h
      simp only [List.length_cons]; omega
    split at hc
    · exact step hc
    · rcases List.mem_cons.1 hc with rfl | hc
      · simp
      · exact step hc

theorem memWfFrom_of_le {lo hi : Nat} : ∀ {m : List Host.Cell}, memWfFrom lo m = true → (∀ c ∈ m, hi ≤ c.1) →
    memWfFrom hi m = true
  | [], _, _ => rfl
  | (k, b) :: cs, h, hb => by
    simp only [memWfFrom, Bool.and_eq_true, decide_eq_true_eq] at h ⊢
    exact ⟨⟨hb (k, b) (List.mem_cons_self ..), h.1.2⟩, h.2⟩

/-- Writing bytes keeps the canonical form. -/
theorem Memory.wf_memWrite {m : List Host.Cell} (a : Nat) (bs : List Byte) (h : Memory.wf m = true) :
    Memory.wf (memWrite m a bs) = true := by
  unfold memWrite Memory.wf
  rw [List.append_assoc]
  refine memWfFrom_append (hi := a) (Nat.zero_le a) (memWfFrom_filter _ h) (fun c hc => ?_) ?_
  · simpa using (List.mem_filter.1 hc).2
  · refine memWfFrom_append (hi := a + bs.length) (Nat.le_add_right ..) (memWfFrom_cells a bs) (memCells_lt a bs) ?_
    exact memWfFrom_of_le (memWfFrom_filter _ h) (fun c hc => by simpa using (List.mem_filter.1 hc).2)

/-! ### Reads -/

theorem find_append (l r : List Host.Cell) (i : Nat) :
    Map.find (l ++ r) i = (Map.find l i).or (Map.find r i) := by
  induction l with
  | nil => simp
  | cons e l ih =>
    obtain ⟨k, b⟩ := e
    rw [List.cons_append, Map.find_cons, Map.find_cons, ih]
    split <;> simp

theorem find_filter_key (p : Nat → Bool) (m : List Host.Cell) (i : Nat) :
    Map.find (m.filter fun c => p c.1) i = if p i then Map.find m i else none := by
  induction m with
  | nil => simp
  | cons e m ih =>
    obtain ⟨k, b⟩ := e
    rw [List.filter_cons, Map.find_cons]
    by_cases hk : p k
    · rw [if_pos hk, Map.find_cons, ih]
      by_cases hi : i = k
      · subst hi; simp [hk]
      · simp [hi]
    · rw [if_neg hk, ih]
      by_cases hi : i = k
      · subst hi; simp [hk]
      · simp [hi]

theorem find_memCells : ∀ (a : Nat) (bs : List Byte) (i : Nat),
    (Map.find (memCells a bs) i).getD unlistedByte = if a ≤ i then bs.getD (i - a) unlistedByte else unlistedByte
  | a, [], i => by simp [memCells]
  | a, b :: bs, i => by
    rw [memCells]
    have ih := find_memCells (a + 1) bs i
    by_cases hb : b = unlistedByte
    · rw [if_pos hb, ih]
      by_cases h1 : i = a
      · subst h1; simp [hb]
      · by_cases h2 : a ≤ i
        · have : i - a = (i - (a + 1)) + 1 := by omega
          rw [if_pos (by omega), if_pos h2, this, List.getD_cons_succ]
        · rw [if_neg (by omega), if_neg h2]
    · rw [if_neg hb, Map.find_cons]
      by_cases h1 : i = a
      · subst h1; simp
      · rw [if_neg h1, ih]
        by_cases h2 : a ≤ i
        · have : i - a = (i - (a + 1)) + 1 := by omega
          rw [if_pos (by omega), if_pos h2, this, List.getD_cons_succ]
        · rw [if_neg (by omega), if_neg h2]

/-- One byte after a write: the byte written within the run, the old byte outside it. -/
theorem get_memWrite (m : List Host.Cell) (a : Nat) (bs : List Byte) (i : Nat) :
    Map.get (memWrite m a bs) i unlistedByte =
      if a ≤ i ∧ i < a + bs.length then bs.getD (i - a) unlistedByte else Map.get m i unlistedByte := by
  have hc := find_memCells a bs i
  have hlt : ∀ j, a + bs.length ≤ j → Map.find (memCells a bs) j = none := fun j hj => by
    have aux : ∀ (l : List Host.Cell), (∀ c ∈ l, c.1 < j) → Map.find l j = none := by
      intro l
      induction l with
      | nil => simp
      | cons e l ih =>
        intro h
        rw [show e = (e.1, e.2) from rfl, Map.find_cons, if_neg, ih (fun c hc => h c (List.mem_cons_of_mem _ hc))]
        have := h e (List.mem_cons_self ..); omega
    exact aux _ fun c hc => Nat.lt_of_lt_of_le (memCells_lt a bs c hc) hj
  unfold Map.get memWrite
  rw [find_append, find_append, find_filter_key (fun k => decide (k < a)), find_filter_key (fun k => decide (a + bs.length ≤ k))]
  by_cases h1 : i < a
  · have hn : Map.find (memCells a bs) i = none := by
      have aux : ∀ (a' : Nat) (l : List Byte), i < a' → Map.find (memCells a' l) i = none := by
        intro a' l
        induction l generalizing a' with
        | nil => intro _; rfl
        | cons b l ih =>
          intro h
          rw [memCells]
          split
          · exact ih (a' + 1) (by omega)
          · rw [Map.find_cons, if_neg (by omega)]; exact ih (a' + 1) (by omega)
      exact aux a bs h1
    have h2 : ¬ a + bs.length ≤ i := by omega
    have h3 : ¬ (a ≤ i ∧ i < a + bs.length) := by omega
    simp [h1, hn, h2, h3]
  · by_cases h2 : i < a + bs.length
    · have h3 : ¬ a + bs.length ≤ i := by omega
      have h4 : a ≤ i := by omega
      simp only [h1, decide_false, Bool.false_eq_true, if_false, Option.none_or, h3, Option.or_none, h4, h2, and_self, if_true]
      rw [hc, if_pos h4]
    · have h4 : a + bs.length ≤ i := by omega
      have h3 : ¬ (a ≤ i ∧ i < a + bs.length) := by omega
      simp [h1, hlt i h4, h4, h3]

theorem memSeg_eq : ∀ (n a : Nat) (m : List Host.Cell), memWfFrom a m = true →
    memSeg m a n = (List.range n).map fun i => Map.get m (a + i) unlistedByte
  | 0, _, _, _ => rfl
  | n + 1, a, [], _ => by simp [memSeg, Map.get, List.map_const']
  | n + 1, a, (k, b) :: cs, h => by
    simp only [memWfFrom, Bool.and_eq_true, decide_eq_true_eq] at h
    have hs : ∀ {c : Nat} {l : List Host.Cell}, memWfFrom c l = true → ∀ j, j < c → Map.find l j = none := by
      intro c l
      induction l generalizing c with
      | nil => intro _ _ _; rfl
      | cons e l ih =>
        obtain ⟨k', b'⟩ := e
        intro hl j hj
        simp only [memWfFrom, Bool.and_eq_true, decide_eq_true_eq] at hl
        rw [Map.find_cons, if_neg (by omega)]
        exact ih hl.2 j (by omega)
    rw [memSeg, List.range_succ_eq_map, List.map_cons, List.map_map]
    split
    · next hk =>
      subst hk
      rw [memSeg_eq n (k + 1) cs h.2]
      refine congrArg₂ _ (by simp [Map.get, Map.find_cons]) (List.map_congr_left fun i _ => ?_)
      simp only [Function.comp, Map.get, Map.find_cons, Nat.succ_eq_add_one]
      rw [if_neg (by omega)]; congr 2; omega
    · next hk =>
      have hlt : a < k := by omega
      have hw : memWfFrom (a + 1) ((k, b) :: cs) = true := by
        simp only [memWfFrom, Bool.and_eq_true, decide_eq_true_eq]; exact ⟨⟨hlt, h.1.2⟩, h.2⟩
      rw [memSeg_eq n (a + 1) _ hw]
      refine congrArg₂ _ ?_ (List.map_congr_left fun i _ => ?_)
      · simp [Map.get, hs hw a (Nat.lt_succ_self a)]
      · simp only [Function.comp, Nat.succ_eq_add_one]; congr 1; omega

/-- Reading a run of a canonical memory is reading each of its bytes. -/
theorem memRead_eq {m : List Host.Cell} (h : Memory.wf m = true) (a n : Nat) :
    memRead m a n = (List.range n).map fun i => Map.get m (a + i) unlistedByte := by
  unfold memRead
  have hw : memWfFrom a (m.filter fun c => decide (a ≤ c.1) && decide (c.1 < a + n)) = true :=
    memWfFrom_of_le (memWfFrom_filter _ h) fun c hc => by
      have := (List.mem_filter.1 hc).2
      simp only [Bool.and_eq_true, decide_eq_true_eq] at this
      exact this.1
  rw [memSeg_eq n a _ hw]
  refine List.map_congr_left fun i hi => ?_
  have hi' : i < n := List.mem_range.1 hi
  unfold Map.get
  rw [find_filter_key (fun k => decide (a ≤ k) && decide (k < a + n))]
  simp [hi']

theorem map_range_congr {α : Type} {n : Nat} {f g : Nat → α} (h : ∀ i, i < n → f i = g i) :
    (List.range n).map f = (List.range n).map g :=
  List.map_congr_left fun i hi => h i (List.mem_range.1 hi)

/-- A read after a write to the same place gives the bytes written. -/
theorem memRead_memWrite_same {m : List Host.Cell} (h : Memory.wf m = true) (a : Nat) (bs : List Byte) :
    memRead (memWrite m a bs) a bs.length = bs := by
  rw [memRead_eq (Memory.wf_memWrite a bs h)]
  apply List.ext_getElem
  · simp
  · intro i h1 h2
    simp only [List.getElem_map, List.getElem_range, get_memWrite]
    rw [if_pos ⟨by omega, by omega⟩, Nat.add_sub_cancel_left]
    simp [h2]

/-- A write leaves every run outside the bytes written as it was. -/
theorem memRead_memWrite_other {m : List Host.Cell} (h : Memory.wf m = true) (a : Nat) (bs : List Byte) (b n : Nat)
    (hd : b + n ≤ a ∨ a + bs.length ≤ b) : memRead (memWrite m a bs) b n = memRead m b n := by
  rw [memRead_eq (Memory.wf_memWrite a bs h), memRead_eq h]
  refine map_range_congr fun i hi => ?_
  rw [get_memWrite, if_neg (by omega)]

/-- The memory of the reset state is canonical. -/
theorem Memory.wf_reset : Memory.wf State.reset.mem = true := rfl

end Sys2Proof.Machine
end

