-- ==== Sys2Proof/Laws/State.lean ====
section
/-! SUPPORT. What each update of the state leaves unchanged, one lemma a field, and what reading a unit gives after
writing it. -/

namespace Sys2Proof.Machine

/-! ### Reading what was written -/

theorem blk_setBlk (s : State) (i j : Nat) (x : Blk) :
    (s.setBlk i x).blk j = if j = i then x else s.blk j := Map.get_put ..
@[simp] theorem blk_setBlk_same (s : State) (i : Nat) (x : Blk) : (s.setBlk i x).blk i = x := Map.get_put_same ..
@[simp] theorem blk_setBlk_ne (s : State) (i j : Nat) (x : Blk) (h : j ≠ i) : (s.setBlk i x).blk j = s.blk j :=
  Map.get_put_ne _ _ _ _ _ h
theorem site_setSite (s : State) (i j : Nat) (x : Site) :
    (s.setSite i x).site j = if j = i then x else s.site j := Map.get_put ..
@[simp] theorem site_setSite_same (s : State) (i : Nat) (x : Site) : (s.setSite i x).site i = x := Map.get_put_same ..
@[simp] theorem site_setSite_ne (s : State) (i j : Nat) (x : Site) (h : j ≠ i) : (s.setSite i x).site j = s.site j :=
  Map.get_put_ne _ _ _ _ _ h
theorem sheet_setSheet (s : State) (i j : Nat) (x : Sheet) :
    (s.setSheet i x).sheet j = if j = i then x else s.sheet j := Map.get_put ..
@[simp] theorem sheet_setSheet_same (s : State) (i : Nat) (x : Sheet) : (s.setSheet i x).sheet i = x := Map.get_put_same ..
@[simp] theorem sheet_setSheet_ne (s : State) (i j : Nat) (x : Sheet) (h : j ≠ i) : (s.setSheet i x).sheet j = s.sheet j :=
  Map.get_put_ne _ _ _ _ _ h
theorem engine_setEngine (s : State) (i j : Nat) (x : Engine) :
    (s.setEngine i x).engine j = if j = i then x else s.engine j := Map.get_put ..
@[simp] theorem engine_setEngine_same (s : State) (i : Nat) (x : Engine) : (s.setEngine i x).engine i = x := Map.get_put_same ..
@[simp] theorem engine_setEngine_ne (s : State) (i j : Nat) (x : Engine) (h : j ≠ i) : (s.setEngine i x).engine j = s.engine j :=
  Map.get_put_ne _ _ _ _ _ h
theorem core_setCore (s : State) (i j : Nat) (x : Core) :
    (s.setCore i x).core j = if j = i then x else s.core j := Map.get_put ..
@[simp] theorem core_setCore_same (s : State) (i : Nat) (x : Core) : (s.setCore i x).core i = x := Map.get_put_same ..
@[simp] theorem core_setCore_ne (s : State) (i j : Nat) (x : Core) (h : j ≠ i) : (s.setCore i x).core j = s.core j :=
  Map.get_put_ne _ _ _ _ _ h
theorem token_setToken (s : State) (i j : Nat) (x : Token) :
    (s.setToken i x).token j = if j = i then x else s.token j := Map.get_put ..
@[simp] theorem token_setToken_same (s : State) (i : Nat) (x : Token) : (s.setToken i x).token i = x := Map.get_put_same ..
@[simp] theorem token_setToken_ne (s : State) (i j : Nat) (x : Token) (h : j ≠ i) : (s.setToken i x).token j = s.token j :=
  Map.get_put_ne _ _ _ _ _ h
theorem sweep_setSweep (s : State) (i j : Nat) (x : Sweep) :
    (s.setSweep i x).sweep j = if j = i then x else s.sweep j := Map.get_put ..
@[simp] theorem sweep_setSweep_same (s : State) (i : Nat) (x : Sweep) : (s.setSweep i x).sweep i = x := Map.get_put_same ..
@[simp] theorem sweep_setSweep_ne (s : State) (i j : Nat) (x : Sweep) (h : j ≠ i) : (s.setSweep i x).sweep j = s.sweep j :=
  Map.get_put_ne _ _ _ _ _ h
theorem intake_setIntake (s : State) (i j : Nat) (x : Intake) :
    (s.setIntake i x).intake j = if j = i then x else s.intake j := Map.get_put ..
@[simp] theorem intake_setIntake_same (s : State) (i : Nat) (x : Intake) : (s.setIntake i x).intake i = x := Map.get_put_same ..
@[simp] theorem intake_setIntake_ne (s : State) (i j : Nat) (x : Intake) (h : j ≠ i) : (s.setIntake i x).intake j = s.intake j :=
  Map.get_put_ne _ _ _ _ _ h
theorem cmp_setCmp (s : State) (i j : Nat) (x : Cmp) :
    (s.setCmp i x).cmp j = if j = i then x else s.cmp j := Map.get_put ..
@[simp] theorem cmp_setCmp_same (s : State) (i : Nat) (x : Cmp) : (s.setCmp i x).cmp i = x := Map.get_put_same ..
@[simp] theorem cmp_setCmp_ne (s : State) (i j : Nat) (x : Cmp) (h : j ≠ i) : (s.setCmp i x).cmp j = s.cmp j :=
  Map.get_put_ne _ _ _ _ _ h
theorem ladder_setLadder (s : State) (i j : Nat) (x : Ladder) :
    (s.setLadder i x).ladder j = if j = i then x else s.ladder j := Map.get_put ..
@[simp] theorem ladder_setLadder_same (s : State) (i : Nat) (x : Ladder) : (s.setLadder i x).ladder i = x := Map.get_put_same ..
@[simp] theorem ladder_setLadder_ne (s : State) (i j : Nat) (x : Ladder) (h : j ≠ i) : (s.setLadder i x).ladder j = s.ladder j :=
  Map.get_put_ne _ _ _ _ _ h
theorem link_setLink (s : State) (i j : Nat) (x : LinkEnd) :
    (s.setLink i x).link j = if j = i then x else s.link j := Map.get_put ..
@[simp] theorem link_setLink_same (s : State) (i : Nat) (x : LinkEnd) : (s.setLink i x).link i = x := Map.get_put_same ..
@[simp] theorem link_setLink_ne (s : State) (i j : Nat) (x : LinkEnd) (h : j ≠ i) : (s.setLink i x).link j = s.link j :=
  Map.get_put_ne _ _ _ _ _ h
theorem home_setHome (s : State) (i j : Nat) (x : Home) :
    (s.setHome i x).home j = if j = i then x else s.home j := Map.get_put ..
@[simp] theorem home_setHome_same (s : State) (i : Nat) (x : Home) : (s.setHome i x).home i = x := Map.get_put_same ..
@[simp] theorem home_setHome_ne (s : State) (i j : Nat) (x : Home) (h : j ≠ i) : (s.setHome i x).home j = s.home j :=
  Map.get_put_ne _ _ _ _ _ h
theorem dram_setDram (s : State) (i j : Nat) (x : Dram) :
    (s.setDram i x).dram j = if j = i then x else s.dram j := Map.get_put ..
@[simp] theorem dram_setDram_same (s : State) (i : Nat) (x : Dram) : (s.setDram i x).dram i = x := Map.get_put_same ..
@[simp] theorem dram_setDram_ne (s : State) (i j : Nat) (x : Dram) (h : j ≠ i) : (s.setDram i x).dram j = s.dram j :=
  Map.get_put_ne _ _ _ _ _ h
theorem ring_setRing (s : State) (i j : Nat) (x : Ring) :
    (s.setRing i x).ring j = if j = i then x else s.ring j := Map.get_put ..
@[simp] theorem ring_setRing_same (s : State) (i : Nat) (x : Ring) : (s.setRing i x).ring i = x := Map.get_put_same ..
@[simp] theorem ring_setRing_ne (s : State) (i j : Nat) (x : Ring) (h : j ≠ i) : (s.setRing i x).ring j = s.ring j :=
  Map.get_put_ne _ _ _ _ _ h
theorem dir_setDir (s : State) (i j : Nat) (x : DirEntry) :
    (s.setDir i x).dir j = if j = i then x else s.dir j := Map.get_put ..
@[simp] theorem dir_setDir_same (s : State) (i : Nat) (x : DirEntry) : (s.setDir i x).dir i = x := Map.get_put_same ..
@[simp] theorem dir_setDir_ne (s : State) (i j : Nat) (x : DirEntry) (h : j ≠ i) : (s.setDir i x).dir j = s.dir j :=
  Map.get_put_ne _ _ _ _ _ h
@[simp] theorem reg_setReg_same (s : State) (n off : Nat) (v : Word64) : (s.setReg n off v).reg n off = v :=
  Map.get_put_same ..
theorem counter_count (s : State) (n off k : Nat) :
    (s.count n off k).counter n off = s.counter n off + BitVec.ofNat 64 k := Map.get_put_same ..

/-! ### setBlk -/

section
variable (s : State) (n : Nat) (b : Blk)
@[simp] theorem State.setBlk_pending : (s.setBlk n b).pending = s.pending := rfl
@[simp] theorem State.setBlk_regs : (s.setBlk n b).regs = s.regs := rfl
@[simp] theorem State.setBlk_counters : (s.setBlk n b).counters = s.counters := rfl
@[simp] theorem State.setBlk_holds : (s.setBlk n b).holds = s.holds := rfl
@[simp] theorem State.setBlk_snapNext : (s.setBlk n b).snapNext = s.snapNext := rfl
@[simp] theorem State.setBlk_once : (s.setBlk n b).once = s.once := rfl
@[simp] theorem State.setBlk_mem : (s.setBlk n b).mem = s.mem := rfl
@[simp] theorem State.setBlk_poison : (s.setBlk n b).poison = s.poison := rfl
@[simp] theorem State.setBlk_upsets : (s.setBlk n b).upsets = s.upsets := rfl
@[simp] theorem State.setBlk_wire : (s.setBlk n b).wire = s.wire := rfl
@[simp] theorem State.setBlk_engines : (s.setBlk n b).engines = s.engines := rfl
@[simp] theorem State.setBlk_cores : (s.setBlk n b).cores = s.cores := rfl
@[simp] theorem State.setBlk_tokens : (s.setBlk n b).tokens = s.tokens := rfl
@[simp] theorem State.setBlk_held : (s.setBlk n b).held = s.held := rfl
@[simp] theorem State.setBlk_tokMsgs : (s.setBlk n b).tokMsgs = s.tokMsgs := rfl
@[simp] theorem State.setBlk_allots : (s.setBlk n b).allots = s.allots := rfl
@[simp] theorem State.setBlk_dieMap : (s.setBlk n b).dieMap = s.dieMap := rfl
@[simp] theorem State.setBlk_routes : (s.setBlk n b).routes = s.routes := rfl
@[simp] theorem State.setBlk_loader : (s.setBlk n b).loader = s.loader := rfl
@[simp] theorem State.setBlk_turns : (s.setBlk n b).turns = s.turns := rfl
@[simp] theorem State.setBlk_energy : (s.setBlk n b).energy = s.energy := rfl
@[simp] theorem State.setBlk_sweeps : (s.setBlk n b).sweeps = s.sweeps := rfl
@[simp] theorem State.setBlk_save : (s.setBlk n b).save = s.save := rfl
@[simp] theorem State.setBlk_sites : (s.setBlk n b).sites = s.sites := rfl
@[simp] theorem State.setBlk_cluReads : (s.setBlk n b).cluReads = s.cluReads := rfl
@[simp] theorem State.setBlk_siteSel : (s.setBlk n b).siteSel = s.siteSel := rfl
@[simp] theorem State.setBlk_siteIgnored : (s.setBlk n b).siteIgnored = s.siteIgnored := rfl
@[simp] theorem State.setBlk_banks : (s.setBlk n b).banks = s.banks := rfl
@[simp] theorem State.setBlk_testers : (s.setBlk n b).testers = s.testers := rfl
@[simp] theorem State.setBlk_lines : (s.setBlk n b).lines = s.lines := rfl
@[simp] theorem State.setBlk_dirs : (s.setBlk n b).dirs = s.dirs := rfl
@[simp] theorem State.setBlk_llc : (s.setBlk n b).llc = s.llc := rfl
@[simp] theorem State.setBlk_homes : (s.setBlk n b).homes = s.homes := rfl
@[simp] theorem State.setBlk_retried : (s.setBlk n b).retried = s.retried := rfl
@[simp] theorem State.setBlk_drams : (s.setBlk n b).drams = s.drams := rfl
@[simp] theorem State.setBlk_links : (s.setBlk n b).links = s.links := rfl
@[simp] theorem State.setBlk_sendq : (s.setBlk n b).sendq = s.sendq := rfl
@[simp] theorem State.setBlk_floor : (s.setBlk n b).floor = s.floor := rfl
@[simp] theorem State.setBlk_presentDies : (s.setBlk n b).presentDies = s.presentDies := rfl
@[simp] theorem State.setBlk_ladders : (s.setBlk n b).ladders = s.ladders := rfl
@[simp] theorem State.setBlk_cmps : (s.setBlk n b).cmps = s.cmps := rfl
@[simp] theorem State.setBlk_ncl : (s.setBlk n b).ncl = s.ncl := rfl
@[simp] theorem State.setBlk_intakes : (s.setBlk n b).intakes = s.intakes := rfl
@[simp] theorem State.setBlk_sheets : (s.setBlk n b).sheets = s.sheets := rfl
@[simp] theorem State.setBlk_security : (s.setBlk n b).security = s.security := rfl
@[simp] theorem State.setBlk_power : (s.setBlk n b).power = s.power := rfl
@[simp] theorem State.setBlk_harts : (s.setBlk n b).harts = s.harts := rfl
@[simp] theorem State.setBlk_tap : (s.setBlk n b).tap = s.tap := rfl
@[simp] theorem State.setBlk_rom : (s.setBlk n b).rom = s.rom := rfl
@[simp] theorem State.setBlk_flash : (s.setBlk n b).flash = s.flash := rfl
@[simp] theorem State.setBlk_eeprom : (s.setBlk n b).eeprom = s.eeprom := rfl
@[simp] theorem State.setBlk_out : (s.setBlk n b).out = s.out := rfl
@[simp] theorem State.setBlk_fresh : (s.setBlk n b).fresh = s.fresh := rfl
@[simp] theorem State.setBlk_engine_eq (q : Nat) : (s.setBlk n b).engine q = s.engine q := rfl
@[simp] theorem State.setBlk_core_eq (q : Nat) : (s.setBlk n b).core q = s.core q := rfl
@[simp] theorem State.setBlk_token_eq (q : Nat) : (s.setBlk n b).token q = s.token q := rfl
@[simp] theorem State.setBlk_site_eq (q : Nat) : (s.setBlk n b).site q = s.site q := rfl
@[simp] theorem State.setBlk_sheet_eq (q : Nat) : (s.setBlk n b).sheet q = s.sheet q := rfl
@[simp] theorem State.setBlk_sweep_eq (q : Nat) : (s.setBlk n b).sweep q = s.sweep q := rfl
@[simp] theorem State.setBlk_ladder_eq (q : Nat) : (s.setBlk n b).ladder q = s.ladder q := rfl
@[simp] theorem State.setBlk_link_eq (q : Nat) : (s.setBlk n b).link q = s.link q := rfl
@[simp] theorem State.setBlk_home_eq (q : Nat) : (s.setBlk n b).home q = s.home q := rfl
@[simp] theorem State.setBlk_cmp_eq (q : Nat) : (s.setBlk n b).cmp q = s.cmp q := rfl
@[simp] theorem State.setBlk_intake_eq (q : Nat) : (s.setBlk n b).intake q = s.intake q := rfl
@[simp] theorem State.setBlk_dram_eq (q : Nat) : (s.setBlk n b).dram q = s.dram q := rfl
@[simp] theorem State.setBlk_dir_eq (q : Nat) : (s.setBlk n b).dir q = s.dir q := rfl
@[simp] theorem State.setBlk_ring_eq (q : Nat) : (s.setBlk n b).ring q = s.ring q := rfl
@[simp] theorem State.setBlk_reg_eq (q r : Nat) : (s.setBlk n b).reg q r = s.reg q r := rfl
end

/-! ### setReg -/

section
variable (s : State) (n o : Nat) (v : Word64)
@[simp] theorem State.setReg_pending : (s.setReg n o v).pending = s.pending := rfl
@[simp] theorem State.setReg_blocks : (s.setReg n o v).blocks = s.blocks := rfl
@[simp] theorem State.setReg_counters : (s.setReg n o v).counters = s.counters := rfl
@[simp] theorem State.setReg_holds : (s.setReg n o v).holds = s.holds := rfl
@[simp] theorem State.setReg_snapNext : (s.setReg n o v).snapNext = s.snapNext := rfl
@[simp] theorem State.setReg_once : (s.setReg n o v).once = s.once := rfl
@[simp] theorem State.setReg_mem : (s.setReg n o v).mem = s.mem := rfl
@[simp] theorem State.setReg_poison : (s.setReg n o v).poison = s.poison := rfl
@[simp] theorem State.setReg_upsets : (s.setReg n o v).upsets = s.upsets := rfl
@[simp] theorem State.setReg_wire : (s.setReg n o v).wire = s.wire := rfl
@[simp] theorem State.setReg_engines : (s.setReg n o v).engines = s.engines := rfl
@[simp] theorem State.setReg_cores : (s.setReg n o v).cores = s.cores := rfl
@[simp] theorem State.setReg_tokens : (s.setReg n o v).tokens = s.tokens := rfl
@[simp] theorem State.setReg_held : (s.setReg n o v).held = s.held := rfl
@[simp] theorem State.setReg_tokMsgs : (s.setReg n o v).tokMsgs = s.tokMsgs := rfl
@[simp] theorem State.setReg_allots : (s.setReg n o v).allots = s.allots := rfl
@[simp] theorem State.setReg_dieMap : (s.setReg n o v).dieMap = s.dieMap := rfl
@[simp] theorem State.setReg_routes : (s.setReg n o v).routes = s.routes := rfl
@[simp] theorem State.setReg_loader : (s.setReg n o v).loader = s.loader := rfl
@[simp] theorem State.setReg_turns : (s.setReg n o v).turns = s.turns := rfl
@[simp] theorem State.setReg_energy : (s.setReg n o v).energy = s.energy := rfl
@[simp] theorem State.setReg_sweeps : (s.setReg n o v).sweeps = s.sweeps := rfl
@[simp] theorem State.setReg_save : (s.setReg n o v).save = s.save := rfl
@[simp] theorem State.setReg_sites : (s.setReg n o v).sites = s.sites := rfl
@[simp] theorem State.setReg_cluReads : (s.setReg n o v).cluReads = s.cluReads := rfl
@[simp] theorem State.setReg_siteSel : (s.setReg n o v).siteSel = s.siteSel := rfl
@[simp] theorem State.setReg_siteIgnored : (s.setReg n o v).siteIgnored = s.siteIgnored := rfl
@[simp] theorem State.setReg_banks : (s.setReg n o v).banks = s.banks := rfl
@[simp] theorem State.setReg_testers : (s.setReg n o v).testers = s.testers := rfl
@[simp] theorem State.setReg_lines : (s.setReg n o v).lines = s.lines := rfl
@[simp] theorem State.setReg_dirs : (s.setReg n o v).dirs = s.dirs := rfl
@[simp] theorem State.setReg_llc : (s.setReg n o v).llc = s.llc := rfl
@[simp] theorem State.setReg_homes : (s.setReg n o v).homes = s.homes := rfl
@[simp] theorem State.setReg_retried : (s.setReg n o v).retried = s.retried := rfl
@[simp] theorem State.setReg_drams : (s.setReg n o v).drams = s.drams := rfl
@[simp] theorem State.setReg_links : (s.setReg n o v).links = s.links := rfl
@[simp] theorem State.setReg_sendq : (s.setReg n o v).sendq = s.sendq := rfl
@[simp] theorem State.setReg_floor : (s.setReg n o v).floor = s.floor := rfl
@[simp] theorem State.setReg_presentDies : (s.setReg n o v).presentDies = s.presentDies := rfl
@[simp] theorem State.setReg_ladders : (s.setReg n o v).ladders = s.ladders := rfl
@[simp] theorem State.setReg_cmps : (s.setReg n o v).cmps = s.cmps := rfl
@[simp] theorem State.setReg_ncl : (s.setReg n o v).ncl = s.ncl := rfl
@[simp] theorem State.setReg_intakes : (s.setReg n o v).intakes = s.intakes := rfl
@[simp] theorem State.setReg_sheets : (s.setReg n o v).sheets = s.sheets := rfl
@[simp] theorem State.setReg_security : (s.setReg n o v).security = s.security := rfl
@[simp] theorem State.setReg_power : (s.setReg n o v).power = s.power := rfl
@[simp] theorem State.setReg_harts : (s.setReg n o v).harts = s.harts := rfl
@[simp] theorem State.setReg_tap : (s.setReg n o v).tap = s.tap := rfl
@[simp] theorem State.setReg_rom : (s.setReg n o v).rom = s.rom := rfl
@[simp] theorem State.setReg_flash : (s.setReg n o v).flash = s.flash := rfl
@[simp] theorem State.setReg_eeprom : (s.setReg n o v).eeprom = s.eeprom := rfl
@[simp] theorem State.setReg_out : (s.setReg n o v).out = s.out := rfl
@[simp] theorem State.setReg_fresh : (s.setReg n o v).fresh = s.fresh := rfl
@[simp] theorem State.setReg_blk_eq (q : Nat) : (s.setReg n o v).blk q = s.blk q := rfl
@[simp] theorem State.setReg_engine_eq (q : Nat) : (s.setReg n o v).engine q = s.engine q := rfl
@[simp] theorem State.setReg_core_eq (q : Nat) : (s.setReg n o v).core q = s.core q := rfl
@[simp] theorem State.setReg_token_eq (q : Nat) : (s.setReg n o v).token q = s.token q := rfl
@[simp] theorem State.setReg_site_eq (q : Nat) : (s.setReg n o v).site q = s.site q := rfl
@[simp] theorem State.setReg_sheet_eq (q : Nat) : (s.setReg n o v).sheet q = s.sheet q := rfl
@[simp] theorem State.setReg_sweep_eq (q : Nat) : (s.setReg n o v).sweep q = s.sweep q := rfl
@[simp] theorem State.setReg_ladder_eq (q : Nat) : (s.setReg n o v).ladder q = s.ladder q := rfl
@[simp] theorem State.setReg_link_eq (q : Nat) : (s.setReg n o v).link q = s.link q := rfl
@[simp] theorem State.setReg_home_eq (q : Nat) : (s.setReg n o v).home q = s.home q := rfl
@[simp] theorem State.setReg_cmp_eq (q : Nat) : (s.setReg n o v).cmp q = s.cmp q := rfl
@[simp] theorem State.setReg_intake_eq (q : Nat) : (s.setReg n o v).intake q = s.intake q := rfl
@[simp] theorem State.setReg_dram_eq (q : Nat) : (s.setReg n o v).dram q = s.dram q := rfl
@[simp] theorem State.setReg_dir_eq (q : Nat) : (s.setReg n o v).dir q = s.dir q := rfl
@[simp] theorem State.setReg_ring_eq (q : Nat) : (s.setReg n o v).ring q = s.ring q := rfl
end

/-! ### setFld -/

section
variable (s : State) (n o l k v : Nat)
@[simp] theorem State.setFld_pending : (s.setFld n o l k v).pending = s.pending := rfl
@[simp] theorem State.setFld_blocks : (s.setFld n o l k v).blocks = s.blocks := rfl
@[simp] theorem State.setFld_counters : (s.setFld n o l k v).counters = s.counters := rfl
@[simp] theorem State.setFld_holds : (s.setFld n o l k v).holds = s.holds := rfl
@[simp] theorem State.setFld_snapNext : (s.setFld n o l k v).snapNext = s.snapNext := rfl
@[simp] theorem State.setFld_once : (s.setFld n o l k v).once = s.once := rfl
@[simp] theorem State.setFld_mem : (s.setFld n o l k v).mem = s.mem := rfl
@[simp] theorem State.setFld_poison : (s.setFld n o l k v).poison = s.poison := rfl
@[simp] theorem State.setFld_upsets : (s.setFld n o l k v).upsets = s.upsets := rfl
@[simp] theorem State.setFld_wire : (s.setFld n o l k v).wire = s.wire := rfl
@[simp] theorem State.setFld_engines : (s.setFld n o l k v).engines = s.engines := rfl
@[simp] theorem State.setFld_cores : (s.setFld n o l k v).cores = s.cores := rfl
@[simp] theorem State.setFld_tokens : (s.setFld n o l k v).tokens = s.tokens := rfl
@[simp] theorem State.setFld_held : (s.setFld n o l k v).held = s.held := rfl
@[simp] theorem State.setFld_tokMsgs : (s.setFld n o l k v).tokMsgs = s.tokMsgs := rfl
@[simp] theorem State.setFld_allots : (s.setFld n o l k v).allots = s.allots := rfl
@[simp] theorem State.setFld_dieMap : (s.setFld n o l k v).dieMap = s.dieMap := rfl
@[simp] theorem State.setFld_routes : (s.setFld n o l k v).routes = s.routes := rfl
@[simp] theorem State.setFld_loader : (s.setFld n o l k v).loader = s.loader := rfl
@[simp] theorem State.setFld_turns : (s.setFld n o l k v).turns = s.turns := rfl
@[simp] theorem State.setFld_energy : (s.setFld n o l k v).energy = s.energy := rfl
@[simp] theorem State.setFld_sweeps : (s.setFld n o l k v).sweeps = s.sweeps := rfl
@[simp] theorem State.setFld_save : (s.setFld n o l k v).save = s.save := rfl
@[simp] theorem State.setFld_sites : (s.setFld n o l k v).sites = s.sites := rfl
@[simp] theorem State.setFld_cluReads : (s.setFld n o l k v).cluReads = s.cluReads := rfl
@[simp] theorem State.setFld_siteSel : (s.setFld n o l k v).siteSel = s.siteSel := rfl
@[simp] theorem State.setFld_siteIgnored : (s.setFld n o l k v).siteIgnored = s.siteIgnored := rfl
@[simp] theorem State.setFld_banks : (s.setFld n o l k v).banks = s.banks := rfl
@[simp] theorem State.setFld_testers : (s.setFld n o l k v).testers = s.testers := rfl
@[simp] theorem State.setFld_lines : (s.setFld n o l k v).lines = s.lines := rfl
@[simp] theorem State.setFld_dirs : (s.setFld n o l k v).dirs = s.dirs := rfl
@[simp] theorem State.setFld_llc : (s.setFld n o l k v).llc = s.llc := rfl
@[simp] theorem State.setFld_homes : (s.setFld n o l k v).homes = s.homes := rfl
@[simp] theorem State.setFld_retried : (s.setFld n o l k v).retried = s.retried := rfl
@[simp] theorem State.setFld_drams : (s.setFld n o l k v).drams = s.drams := rfl
@[simp] theorem State.setFld_links : (s.setFld n o l k v).links = s.links := rfl
@[simp] theorem State.setFld_sendq : (s.setFld n o l k v).sendq = s.sendq := rfl
@[simp] theorem State.setFld_floor : (s.setFld n o l k v).floor = s.floor := rfl
@[simp] theorem State.setFld_presentDies : (s.setFld n o l k v).presentDies = s.presentDies := rfl
@[simp] theorem State.setFld_ladders : (s.setFld n o l k v).ladders = s.ladders := rfl
@[simp] theorem State.setFld_cmps : (s.setFld n o l k v).cmps = s.cmps := rfl
@[simp] theorem State.setFld_ncl : (s.setFld n o l k v).ncl = s.ncl := rfl
@[simp] theorem State.setFld_intakes : (s.setFld n o l k v).intakes = s.intakes := rfl
@[simp] theorem State.setFld_sheets : (s.setFld n o l k v).sheets = s.sheets := rfl
@[simp] theorem State.setFld_security : (s.setFld n o l k v).security = s.security := rfl
@[simp] theorem State.setFld_power : (s.setFld n o l k v).power = s.power := rfl
@[simp] theorem State.setFld_harts : (s.setFld n o l k v).harts = s.harts := rfl
@[simp] theorem State.setFld_tap : (s.setFld n o l k v).tap = s.tap := rfl
@[simp] theorem State.setFld_rom : (s.setFld n o l k v).rom = s.rom := rfl
@[simp] theorem State.setFld_flash : (s.setFld n o l k v).flash = s.flash := rfl
@[simp] theorem State.setFld_eeprom : (s.setFld n o l k v).eeprom = s.eeprom := rfl
@[simp] theorem State.setFld_out : (s.setFld n o l k v).out = s.out := rfl
@[simp] theorem State.setFld_fresh : (s.setFld n o l k v).fresh = s.fresh := rfl
@[simp] theorem State.setFld_blk_eq (q : Nat) : (s.setFld n o l k v).blk q = s.blk q := rfl
@[simp] theorem State.setFld_engine_eq (q : Nat) : (s.setFld n o l k v).engine q = s.engine q := rfl
@[simp] theorem State.setFld_core_eq (q : Nat) : (s.setFld n o l k v).core q = s.core q := rfl
@[simp] theorem State.setFld_token_eq (q : Nat) : (s.setFld n o l k v).token q = s.token q := rfl
@[simp] theorem State.setFld_site_eq (q : Nat) : (s.setFld n o l k v).site q = s.site q := rfl
@[simp] theorem State.setFld_sheet_eq (q : Nat) : (s.setFld n o l k v).sheet q = s.sheet q := rfl
@[simp] theorem State.setFld_sweep_eq (q : Nat) : (s.setFld n o l k v).sweep q = s.sweep q := rfl
@[simp] theorem State.setFld_ladder_eq (q : Nat) : (s.setFld n o l k v).ladder q = s.ladder q := rfl
@[simp] theorem State.setFld_link_eq (q : Nat) : (s.setFld n o l k v).link q = s.link q := rfl
@[simp] theorem State.setFld_home_eq (q : Nat) : (s.setFld n o l k v).home q = s.home q := rfl
@[simp] theorem State.setFld_cmp_eq (q : Nat) : (s.setFld n o l k v).cmp q = s.cmp q := rfl
@[simp] theorem State.setFld_intake_eq (q : Nat) : (s.setFld n o l k v).intake q = s.intake q := rfl
@[simp] theorem State.setFld_dram_eq (q : Nat) : (s.setFld n o l k v).dram q = s.dram q := rfl
@[simp] theorem State.setFld_dir_eq (q : Nat) : (s.setFld n o l k v).dir q = s.dir q := rfl
@[simp] theorem State.setFld_ring_eq (q : Nat) : (s.setFld n o l k v).ring q = s.ring q := rfl
end

/-! ### count -/

section
variable (s : State) (n o k : Nat)
@[simp] theorem State.count_pending : (s.count n o k).pending = s.pending := rfl
@[simp] theorem State.count_blocks : (s.count n o k).blocks = s.blocks := rfl
@[simp] theorem State.count_regs : (s.count n o k).regs = s.regs := rfl
@[simp] theorem State.count_holds : (s.count n o k).holds = s.holds := rfl
@[simp] theorem State.count_snapNext : (s.count n o k).snapNext = s.snapNext := rfl
@[simp] theorem State.count_once : (s.count n o k).once = s.once := rfl
@[simp] theorem State.count_mem : (s.count n o k).mem = s.mem := rfl
@[simp] theorem State.count_poison : (s.count n o k).poison = s.poison := rfl
@[simp] theorem State.count_upsets : (s.count n o k).upsets = s.upsets := rfl
@[simp] theorem State.count_wire : (s.count n o k).wire = s.wire := rfl
@[simp] theorem State.count_engines : (s.count n o k).engines = s.engines := rfl
@[simp] theorem State.count_cores : (s.count n o k).cores = s.cores := rfl
@[simp] theorem State.count_tokens : (s.count n o k).tokens = s.tokens := rfl
@[simp] theorem State.count_held : (s.count n o k).held = s.held := rfl
@[simp] theorem State.count_tokMsgs : (s.count n o k).tokMsgs = s.tokMsgs := rfl
@[simp] theorem State.count_allots : (s.count n o k).allots = s.allots := rfl
@[simp] theorem State.count_dieMap : (s.count n o k).dieMap = s.dieMap := rfl
@[simp] theorem State.count_routes : (s.count n o k).routes = s.routes := rfl
@[simp] theorem State.count_loader : (s.count n o k).loader = s.loader := rfl
@[simp] theorem State.count_turns : (s.count n o k).turns = s.turns := rfl
@[simp] theorem State.count_energy : (s.count n o k).energy = s.energy := rfl
@[simp] theorem State.count_sweeps : (s.count n o k).sweeps = s.sweeps := rfl
@[simp] theorem State.count_save : (s.count n o k).save = s.save := rfl
@[simp] theorem State.count_sites : (s.count n o k).sites = s.sites := rfl
@[simp] theorem State.count_cluReads : (s.count n o k).cluReads = s.cluReads := rfl
@[simp] theorem State.count_siteSel : (s.count n o k).siteSel = s.siteSel := rfl
@[simp] theorem State.count_siteIgnored : (s.count n o k).siteIgnored = s.siteIgnored := rfl
@[simp] theorem State.count_banks : (s.count n o k).banks = s.banks := rfl
@[simp] theorem State.count_testers : (s.count n o k).testers = s.testers := rfl
@[simp] theorem State.count_lines : (s.count n o k).lines = s.lines := rfl
@[simp] theorem State.count_dirs : (s.count n o k).dirs = s.dirs := rfl
@[simp] theorem State.count_llc : (s.count n o k).llc = s.llc := rfl
@[simp] theorem State.count_homes : (s.count n o k).homes = s.homes := rfl
@[simp] theorem State.count_retried : (s.count n o k).retried = s.retried := rfl
@[simp] theorem State.count_drams : (s.count n o k).drams = s.drams := rfl
@[simp] theorem State.count_links : (s.count n o k).links = s.links := rfl
@[simp] theorem State.count_sendq : (s.count n o k).sendq = s.sendq := rfl
@[simp] theorem State.count_floor : (s.count n o k).floor = s.floor := rfl
@[simp] theorem State.count_presentDies : (s.count n o k).presentDies = s.presentDies := rfl
@[simp] theorem State.count_ladders : (s.count n o k).ladders = s.ladders := rfl
@[simp] theorem State.count_cmps : (s.count n o k).cmps = s.cmps := rfl
@[simp] theorem State.count_ncl : (s.count n o k).ncl = s.ncl := rfl
@[simp] theorem State.count_intakes : (s.count n o k).intakes = s.intakes := rfl
@[simp] theorem State.count_sheets : (s.count n o k).sheets = s.sheets := rfl
@[simp] theorem State.count_security : (s.count n o k).security = s.security := rfl
@[simp] theorem State.count_power : (s.count n o k).power = s.power := rfl
@[simp] theorem State.count_harts : (s.count n o k).harts = s.harts := rfl
@[simp] theorem State.count_tap : (s.count n o k).tap = s.tap := rfl
@[simp] theorem State.count_rom : (s.count n o k).rom = s.rom := rfl
@[simp] theorem State.count_flash : (s.count n o k).flash = s.flash := rfl
@[simp] theorem State.count_eeprom : (s.count n o k).eeprom = s.eeprom := rfl
@[simp] theorem State.count_out : (s.count n o k).out = s.out := rfl
@[simp] theorem State.count_fresh : (s.count n o k).fresh = s.fresh := rfl
@[simp] theorem State.count_blk_eq (q : Nat) : (s.count n o k).blk q = s.blk q := rfl
@[simp] theorem State.count_engine_eq (q : Nat) : (s.count n o k).engine q = s.engine q := rfl
@[simp] theorem State.count_core_eq (q : Nat) : (s.count n o k).core q = s.core q := rfl
@[simp] theorem State.count_token_eq (q : Nat) : (s.count n o k).token q = s.token q := rfl
@[simp] theorem State.count_site_eq (q : Nat) : (s.count n o k).site q = s.site q := rfl
@[simp] theorem State.count_sheet_eq (q : Nat) : (s.count n o k).sheet q = s.sheet q := rfl
@[simp] theorem State.count_sweep_eq (q : Nat) : (s.count n o k).sweep q = s.sweep q := rfl
@[simp] theorem State.count_ladder_eq (q : Nat) : (s.count n o k).ladder q = s.ladder q := rfl
@[simp] theorem State.count_link_eq (q : Nat) : (s.count n o k).link q = s.link q := rfl
@[simp] theorem State.count_home_eq (q : Nat) : (s.count n o k).home q = s.home q := rfl
@[simp] theorem State.count_cmp_eq (q : Nat) : (s.count n o k).cmp q = s.cmp q := rfl
@[simp] theorem State.count_intake_eq (q : Nat) : (s.count n o k).intake q = s.intake q := rfl
@[simp] theorem State.count_dram_eq (q : Nat) : (s.count n o k).dram q = s.dram q := rfl
@[simp] theorem State.count_dir_eq (q : Nat) : (s.count n o k).dir q = s.dir q := rfl
@[simp] theorem State.count_ring_eq (q : Nat) : (s.count n o k).ring q = s.ring q := rfl
@[simp] theorem State.count_reg_eq (q r : Nat) : (s.count n o k).reg q r = s.reg q r := rfl
end

/-! ### emit -/

section
variable (s : State) (o : Output)
@[simp] theorem State.emit_pending : (s.emit o).pending = s.pending := rfl
@[simp] theorem State.emit_blocks : (s.emit o).blocks = s.blocks := rfl
@[simp] theorem State.emit_regs : (s.emit o).regs = s.regs := rfl
@[simp] theorem State.emit_counters : (s.emit o).counters = s.counters := rfl
@[simp] theorem State.emit_holds : (s.emit o).holds = s.holds := rfl
@[simp] theorem State.emit_snapNext : (s.emit o).snapNext = s.snapNext := rfl
@[simp] theorem State.emit_once : (s.emit o).once = s.once := rfl
@[simp] theorem State.emit_mem : (s.emit o).mem = s.mem := rfl
@[simp] theorem State.emit_poison : (s.emit o).poison = s.poison := rfl
@[simp] theorem State.emit_upsets : (s.emit o).upsets = s.upsets := rfl
@[simp] theorem State.emit_wire : (s.emit o).wire = s.wire := rfl
@[simp] theorem State.emit_engines : (s.emit o).engines = s.engines := rfl
@[simp] theorem State.emit_cores : (s.emit o).cores = s.cores := rfl
@[simp] theorem State.emit_tokens : (s.emit o).tokens = s.tokens := rfl
@[simp] theorem State.emit_held : (s.emit o).held = s.held := rfl
@[simp] theorem State.emit_tokMsgs : (s.emit o).tokMsgs = s.tokMsgs := rfl
@[simp] theorem State.emit_allots : (s.emit o).allots = s.allots := rfl
@[simp] theorem State.emit_dieMap : (s.emit o).dieMap = s.dieMap := rfl
@[simp] theorem State.emit_routes : (s.emit o).routes = s.routes := rfl
@[simp] theorem State.emit_loader : (s.emit o).loader = s.loader := rfl
@[simp] theorem State.emit_turns : (s.emit o).turns = s.turns := rfl
@[simp] theorem State.emit_energy : (s.emit o).energy = s.energy := rfl
@[simp] theorem State.emit_sweeps : (s.emit o).sweeps = s.sweeps := rfl
@[simp] theorem State.emit_save : (s.emit o).save = s.save := rfl
@[simp] theorem State.emit_sites : (s.emit o).sites = s.sites := rfl
@[simp] theorem State.emit_cluReads : (s.emit o).cluReads = s.cluReads := rfl
@[simp] theorem State.emit_siteSel : (s.emit o).siteSel = s.siteSel := rfl
@[simp] theorem State.emit_siteIgnored : (s.emit o).siteIgnored = s.siteIgnored := rfl
@[simp] theorem State.emit_banks : (s.emit o).banks = s.banks := rfl
@[simp] theorem State.emit_testers : (s.emit o).testers = s.testers := rfl
@[simp] theorem State.emit_lines : (s.emit o).lines = s.lines := rfl
@[simp] theorem State.emit_dirs : (s.emit o).dirs = s.dirs := rfl
@[simp] theorem State.emit_llc : (s.emit o).llc = s.llc := rfl
@[simp] theorem State.emit_homes : (s.emit o).homes = s.homes := rfl
@[simp] theorem State.emit_retried : (s.emit o).retried = s.retried := rfl
@[simp] theorem State.emit_drams : (s.emit o).drams = s.drams := rfl
@[simp] theorem State.emit_links : (s.emit o).links = s.links := rfl
@[simp] theorem State.emit_sendq : (s.emit o).sendq = s.sendq := rfl
@[simp] theorem State.emit_floor : (s.emit o).floor = s.floor := rfl
@[simp] theorem State.emit_presentDies : (s.emit o).presentDies = s.presentDies := rfl
@[simp] theorem State.emit_ladders : (s.emit o).ladders = s.ladders := rfl
@[simp] theorem State.emit_cmps : (s.emit o).cmps = s.cmps := rfl
@[simp] theorem State.emit_ncl : (s.emit o).ncl = s.ncl := rfl
@[simp] theorem State.emit_intakes : (s.emit o).intakes = s.intakes := rfl
@[simp] theorem State.emit_sheets : (s.emit o).sheets = s.sheets := rfl
@[simp] theorem State.emit_security : (s.emit o).security = s.security := rfl
@[simp] theorem State.emit_power : (s.emit o).power = s.power := rfl
@[simp] theorem State.emit_harts : (s.emit o).harts = s.harts := rfl
@[simp] theorem State.emit_tap : (s.emit o).tap = s.tap := rfl
@[simp] theorem State.emit_rom : (s.emit o).rom = s.rom := rfl
@[simp] theorem State.emit_flash : (s.emit o).flash = s.flash := rfl
@[simp] theorem State.emit_eeprom : (s.emit o).eeprom = s.eeprom := rfl
@[simp] theorem State.emit_fresh : (s.emit o).fresh = s.fresh := rfl
@[simp] theorem State.emit_blk_eq (q : Nat) : (s.emit o).blk q = s.blk q := rfl
@[simp] theorem State.emit_engine_eq (q : Nat) : (s.emit o).engine q = s.engine q := rfl
@[simp] theorem State.emit_core_eq (q : Nat) : (s.emit o).core q = s.core q := rfl
@[simp] theorem State.emit_token_eq (q : Nat) : (s.emit o).token q = s.token q := rfl
@[simp] theorem State.emit_site_eq (q : Nat) : (s.emit o).site q = s.site q := rfl
@[simp] theorem State.emit_sheet_eq (q : Nat) : (s.emit o).sheet q = s.sheet q := rfl
@[simp] theorem State.emit_sweep_eq (q : Nat) : (s.emit o).sweep q = s.sweep q := rfl
@[simp] theorem State.emit_ladder_eq (q : Nat) : (s.emit o).ladder q = s.ladder q := rfl
@[simp] theorem State.emit_link_eq (q : Nat) : (s.emit o).link q = s.link q := rfl
@[simp] theorem State.emit_home_eq (q : Nat) : (s.emit o).home q = s.home q := rfl
@[simp] theorem State.emit_cmp_eq (q : Nat) : (s.emit o).cmp q = s.cmp q := rfl
@[simp] theorem State.emit_intake_eq (q : Nat) : (s.emit o).intake q = s.intake q := rfl
@[simp] theorem State.emit_dram_eq (q : Nat) : (s.emit o).dram q = s.dram q := rfl
@[simp] theorem State.emit_dir_eq (q : Nat) : (s.emit o).dir q = s.dir q := rfl
@[simp] theorem State.emit_ring_eq (q : Nat) : (s.emit o).ring q = s.ring q := rfl
@[simp] theorem State.emit_reg_eq (q r : Nat) : (s.emit o).reg q r = s.reg q r := rfl
end

/-! ### setSite -/

section
variable (s : State) (i : Nat) (x : Site)
@[simp] theorem State.setSite_pending : (s.setSite i x).pending = s.pending := rfl
@[simp] theorem State.setSite_blocks : (s.setSite i x).blocks = s.blocks := rfl
@[simp] theorem State.setSite_regs : (s.setSite i x).regs = s.regs := rfl
@[simp] theorem State.setSite_counters : (s.setSite i x).counters = s.counters := rfl
@[simp] theorem State.setSite_holds : (s.setSite i x).holds = s.holds := rfl
@[simp] theorem State.setSite_snapNext : (s.setSite i x).snapNext = s.snapNext := rfl
@[simp] theorem State.setSite_once : (s.setSite i x).once = s.once := rfl
@[simp] theorem State.setSite_mem : (s.setSite i x).mem = s.mem := rfl
@[simp] theorem State.setSite_poison : (s.setSite i x).poison = s.poison := rfl
@[simp] theorem State.setSite_upsets : (s.setSite i x).upsets = s.upsets := rfl
@[simp] theorem State.setSite_wire : (s.setSite i x).wire = s.wire := rfl
@[simp] theorem State.setSite_engines : (s.setSite i x).engines = s.engines := rfl
@[simp] theorem State.setSite_cores : (s.setSite i x).cores = s.cores := rfl
@[simp] theorem State.setSite_tokens : (s.setSite i x).tokens = s.tokens := rfl
@[simp] theorem State.setSite_held : (s.setSite i x).held = s.held := rfl
@[simp] theorem State.setSite_tokMsgs : (s.setSite i x).tokMsgs = s.tokMsgs := rfl
@[simp] theorem State.setSite_allots : (s.setSite i x).allots = s.allots := rfl
@[simp] theorem State.setSite_dieMap : (s.setSite i x).dieMap = s.dieMap := rfl
@[simp] theorem State.setSite_routes : (s.setSite i x).routes = s.routes := rfl
@[simp] theorem State.setSite_loader : (s.setSite i x).loader = s.loader := rfl
@[simp] theorem State.setSite_turns : (s.setSite i x).turns = s.turns := rfl
@[simp] theorem State.setSite_energy : (s.setSite i x).energy = s.energy := rfl
@[simp] theorem State.setSite_sweeps : (s.setSite i x).sweeps = s.sweeps := rfl
@[simp] theorem State.setSite_save : (s.setSite i x).save = s.save := rfl
@[simp] theorem State.setSite_cluReads : (s.setSite i x).cluReads = s.cluReads := rfl
@[simp] theorem State.setSite_siteSel : (s.setSite i x).siteSel = s.siteSel := rfl
@[simp] theorem State.setSite_siteIgnored : (s.setSite i x).siteIgnored = s.siteIgnored := rfl
@[simp] theorem State.setSite_banks : (s.setSite i x).banks = s.banks := rfl
@[simp] theorem State.setSite_testers : (s.setSite i x).testers = s.testers := rfl
@[simp] theorem State.setSite_lines : (s.setSite i x).lines = s.lines := rfl
@[simp] theorem State.setSite_dirs : (s.setSite i x).dirs = s.dirs := rfl
@[simp] theorem State.setSite_llc : (s.setSite i x).llc = s.llc := rfl
@[simp] theorem State.setSite_homes : (s.setSite i x).homes = s.homes := rfl
@[simp] theorem State.setSite_retried : (s.setSite i x).retried = s.retried := rfl
@[simp] theorem State.setSite_drams : (s.setSite i x).drams = s.drams := rfl
@[simp] theorem State.setSite_links : (s.setSite i x).links = s.links := rfl
@[simp] theorem State.setSite_sendq : (s.setSite i x).sendq = s.sendq := rfl
@[simp] theorem State.setSite_floor : (s.setSite i x).floor = s.floor := rfl
@[simp] theorem State.setSite_presentDies : (s.setSite i x).presentDies = s.presentDies := rfl
@[simp] theorem State.setSite_ladders : (s.setSite i x).ladders = s.ladders := rfl
@[simp] theorem State.setSite_cmps : (s.setSite i x).cmps = s.cmps := rfl
@[simp] theorem State.setSite_ncl : (s.setSite i x).ncl = s.ncl := rfl
@[simp] theorem State.setSite_intakes : (s.setSite i x).intakes = s.intakes := rfl
@[simp] theorem State.setSite_sheets : (s.setSite i x).sheets = s.sheets := rfl
@[simp] theorem State.setSite_security : (s.setSite i x).security = s.security := rfl
@[simp] theorem State.setSite_power : (s.setSite i x).power = s.power := rfl
@[simp] theorem State.setSite_harts : (s.setSite i x).harts = s.harts := rfl
@[simp] theorem State.setSite_tap : (s.setSite i x).tap = s.tap := rfl
@[simp] theorem State.setSite_rom : (s.setSite i x).rom = s.rom := rfl
@[simp] theorem State.setSite_flash : (s.setSite i x).flash = s.flash := rfl
@[simp] theorem State.setSite_eeprom : (s.setSite i x).eeprom = s.eeprom := rfl
@[simp] theorem State.setSite_out : (s.setSite i x).out = s.out := rfl
@[simp] theorem State.setSite_fresh : (s.setSite i x).fresh = s.fresh := rfl
@[simp] theorem State.setSite_blk_eq (q : Nat) : (s.setSite i x).blk q = s.blk q := rfl
@[simp] theorem State.setSite_engine_eq (q : Nat) : (s.setSite i x).engine q = s.engine q := rfl
@[simp] theorem State.setSite_core_eq (q : Nat) : (s.setSite i x).core q = s.core q := rfl
@[simp] theorem State.setSite_token_eq (q : Nat) : (s.setSite i x).token q = s.token q := rfl
@[simp] theorem State.setSite_sheet_eq (q : Nat) : (s.setSite i x).sheet q = s.sheet q := rfl
@[simp] theorem State.setSite_sweep_eq (q : Nat) : (s.setSite i x).sweep q = s.sweep q := rfl
@[simp] theorem State.setSite_ladder_eq (q : Nat) : (s.setSite i x).ladder q = s.ladder q := rfl
@[simp] theorem State.setSite_link_eq (q : Nat) : (s.setSite i x).link q = s.link q := rfl
@[simp] theorem State.setSite_home_eq (q : Nat) : (s.setSite i x).home q = s.home q := rfl
@[simp] theorem State.setSite_cmp_eq (q : Nat) : (s.setSite i x).cmp q = s.cmp q := rfl
@[simp] theorem State.setSite_intake_eq (q : Nat) : (s.setSite i x).intake q = s.intake q := rfl
@[simp] theorem State.setSite_dram_eq (q : Nat) : (s.setSite i x).dram q = s.dram q := rfl
@[simp] theorem State.setSite_dir_eq (q : Nat) : (s.setSite i x).dir q = s.dir q := rfl
@[simp] theorem State.setSite_ring_eq (q : Nat) : (s.setSite i x).ring q = s.ring q := rfl
@[simp] theorem State.setSite_reg_eq (q r : Nat) : (s.setSite i x).reg q r = s.reg q r := rfl
end

/-! ### setSheet -/

section
variable (s : State) (i : Nat) (x : Sheet)
@[simp] theorem State.setSheet_pending : (s.setSheet i x).pending = s.pending := rfl
@[simp] theorem State.setSheet_blocks : (s.setSheet i x).blocks = s.blocks := rfl
@[simp] theorem State.setSheet_regs : (s.setSheet i x).regs = s.regs := rfl
@[simp] theorem State.setSheet_counters : (s.setSheet i x).counters = s.counters := rfl
@[simp] theorem State.setSheet_holds : (s.setSheet i x).holds = s.holds := rfl
@[simp] theorem State.setSheet_snapNext : (s.setSheet i x).snapNext = s.snapNext := rfl
@[simp] theorem State.setSheet_once : (s.setSheet i x).once = s.once := rfl
@[simp] theorem State.setSheet_mem : (s.setSheet i x).mem = s.mem := rfl
@[simp] theorem State.setSheet_poison : (s.setSheet i x).poison = s.poison := rfl
@[simp] theorem State.setSheet_upsets : (s.setSheet i x).upsets = s.upsets := rfl
@[simp] theorem State.setSheet_wire : (s.setSheet i x).wire = s.wire := rfl
@[simp] theorem State.setSheet_engines : (s.setSheet i x).engines = s.engines := rfl
@[simp] theorem State.setSheet_cores : (s.setSheet i x).cores = s.cores := rfl
@[simp] theorem State.setSheet_tokens : (s.setSheet i x).tokens = s.tokens := rfl
@[simp] theorem State.setSheet_held : (s.setSheet i x).held = s.held := rfl
@[simp] theorem State.setSheet_tokMsgs : (s.setSheet i x).tokMsgs = s.tokMsgs := rfl
@[simp] theorem State.setSheet_allots : (s.setSheet i x).allots = s.allots := rfl
@[simp] theorem State.setSheet_dieMap : (s.setSheet i x).dieMap = s.dieMap := rfl
@[simp] theorem State.setSheet_routes : (s.setSheet i x).routes = s.routes := rfl
@[simp] theorem State.setSheet_loader : (s.setSheet i x).loader = s.loader := rfl
@[simp] theorem State.setSheet_turns : (s.setSheet i x).turns = s.turns := rfl
@[simp] theorem State.setSheet_energy : (s.setSheet i x).energy = s.energy := rfl
@[simp] theorem State.setSheet_sweeps : (s.setSheet i x).sweeps = s.sweeps := rfl
@[simp] theorem State.setSheet_save : (s.setSheet i x).save = s.save := rfl
@[simp] theorem State.setSheet_sites : (s.setSheet i x).sites = s.sites := rfl
@[simp] theorem State.setSheet_cluReads : (s.setSheet i x).cluReads = s.cluReads := rfl
@[simp] theorem State.setSheet_siteSel : (s.setSheet i x).siteSel = s.siteSel := rfl
@[simp] theorem State.setSheet_siteIgnored : (s.setSheet i x).siteIgnored = s.siteIgnored := rfl
@[simp] theorem State.setSheet_banks : (s.setSheet i x).banks = s.banks := rfl
@[simp] theorem State.setSheet_testers : (s.setSheet i x).testers = s.testers := rfl
@[simp] theorem State.setSheet_lines : (s.setSheet i x).lines = s.lines := rfl
@[simp] theorem State.setSheet_dirs : (s.setSheet i x).dirs = s.dirs := rfl
@[simp] theorem State.setSheet_llc : (s.setSheet i x).llc = s.llc := rfl
@[simp] theorem State.setSheet_homes : (s.setSheet i x).homes = s.homes := rfl
@[simp] theorem State.setSheet_retried : (s.setSheet i x).retried = s.retried := rfl
@[simp] theorem State.setSheet_drams : (s.setSheet i x).drams = s.drams := rfl
@[simp] theorem State.setSheet_links : (s.setSheet i x).links = s.links := rfl
@[simp] theorem State.setSheet_sendq : (s.setSheet i x).sendq = s.sendq := rfl
@[simp] theorem State.setSheet_floor : (s.setSheet i x).floor = s.floor := rfl
@[simp] theorem State.setSheet_presentDies : (s.setSheet i x).presentDies = s.presentDies := rfl
@[simp] theorem State.setSheet_ladders : (s.setSheet i x).ladders = s.ladders := rfl
@[simp] theorem State.setSheet_cmps : (s.setSheet i x).cmps = s.cmps := rfl
@[simp] theorem State.setSheet_ncl : (s.setSheet i x).ncl = s.ncl := rfl
@[simp] theorem State.setSheet_intakes : (s.setSheet i x).intakes = s.intakes := rfl
@[simp] theorem State.setSheet_security : (s.setSheet i x).security = s.security := rfl
@[simp] theorem State.setSheet_power : (s.setSheet i x).power = s.power := rfl
@[simp] theorem State.setSheet_harts : (s.setSheet i x).harts = s.harts := rfl
@[simp] theorem State.setSheet_tap : (s.setSheet i x).tap = s.tap := rfl
@[simp] theorem State.setSheet_rom : (s.setSheet i x).rom = s.rom := rfl
@[simp] theorem State.setSheet_flash : (s.setSheet i x).flash = s.flash := rfl
@[simp] theorem State.setSheet_eeprom : (s.setSheet i x).eeprom = s.eeprom := rfl
@[simp] theorem State.setSheet_out : (s.setSheet i x).out = s.out := rfl
@[simp] theorem State.setSheet_fresh : (s.setSheet i x).fresh = s.fresh := rfl
@[simp] theorem State.setSheet_blk_eq (q : Nat) : (s.setSheet i x).blk q = s.blk q := rfl
@[simp] theorem State.setSheet_engine_eq (q : Nat) : (s.setSheet i x).engine q = s.engine q := rfl
@[simp] theorem State.setSheet_core_eq (q : Nat) : (s.setSheet i x).core q = s.core q := rfl
@[simp] theorem State.setSheet_token_eq (q : Nat) : (s.setSheet i x).token q = s.token q := rfl
@[simp] theorem State.setSheet_site_eq (q : Nat) : (s.setSheet i x).site q = s.site q := rfl
@[simp] theorem State.setSheet_sweep_eq (q : Nat) : (s.setSheet i x).sweep q = s.sweep q := rfl
@[simp] theorem State.setSheet_ladder_eq (q : Nat) : (s.setSheet i x).ladder q = s.ladder q := rfl
@[simp] theorem State.setSheet_link_eq (q : Nat) : (s.setSheet i x).link q = s.link q := rfl
@[simp] theorem State.setSheet_home_eq (q : Nat) : (s.setSheet i x).home q = s.home q := rfl
@[simp] theorem State.setSheet_cmp_eq (q : Nat) : (s.setSheet i x).cmp q = s.cmp q := rfl
@[simp] theorem State.setSheet_intake_eq (q : Nat) : (s.setSheet i x).intake q = s.intake q := rfl
@[simp] theorem State.setSheet_dram_eq (q : Nat) : (s.setSheet i x).dram q = s.dram q := rfl
@[simp] theorem State.setSheet_dir_eq (q : Nat) : (s.setSheet i x).dir q = s.dir q := rfl
@[simp] theorem State.setSheet_ring_eq (q : Nat) : (s.setSheet i x).ring q = s.ring q := rfl
@[simp] theorem State.setSheet_reg_eq (q r : Nat) : (s.setSheet i x).reg q r = s.reg q r := rfl
end

/-! ### setEngine -/

section
variable (s : State) (i : Nat) (x : Engine)
@[simp] theorem State.setEngine_pending : (s.setEngine i x).pending = s.pending := rfl
@[simp] theorem State.setEngine_blocks : (s.setEngine i x).blocks = s.blocks := rfl
@[simp] theorem State.setEngine_regs : (s.setEngine i x).regs = s.regs := rfl
@[simp] theorem State.setEngine_counters : (s.setEngine i x).counters = s.counters := rfl
@[simp] theorem State.setEngine_holds : (s.setEngine i x).holds = s.holds := rfl
@[simp] theorem State.setEngine_snapNext : (s.setEngine i x).snapNext = s.snapNext := rfl
@[simp] theorem State.setEngine_once : (s.setEngine i x).once = s.once := rfl
@[simp] theorem State.setEngine_mem : (s.setEngine i x).mem = s.mem := rfl
@[simp] theorem State.setEngine_poison : (s.setEngine i x).poison = s.poison := rfl
@[simp] theorem State.setEngine_upsets : (s.setEngine i x).upsets = s.upsets := rfl
@[simp] theorem State.setEngine_wire : (s.setEngine i x).wire = s.wire := rfl
@[simp] theorem State.setEngine_cores : (s.setEngine i x).cores = s.cores := rfl
@[simp] theorem State.setEngine_tokens : (s.setEngine i x).tokens = s.tokens := rfl
@[simp] theorem State.setEngine_held : (s.setEngine i x).held = s.held := rfl
@[simp] theorem State.setEngine_tokMsgs : (s.setEngine i x).tokMsgs = s.tokMsgs := rfl
@[simp] theorem State.setEngine_allots : (s.setEngine i x).allots = s.allots := rfl
@[simp] theorem State.setEngine_dieMap : (s.setEngine i x).dieMap = s.dieMap := rfl
@[simp] theorem State.setEngine_routes : (s.setEngine i x).routes = s.routes := rfl
@[simp] theorem State.setEngine_loader : (s.setEngine i x).loader = s.loader := rfl
@[simp] theorem State.setEngine_turns : (s.setEngine i x).turns = s.turns := rfl
@[simp] theorem State.setEngine_energy : (s.setEngine i x).energy = s.energy := rfl
@[simp] theorem State.setEngine_sweeps : (s.setEngine i x).sweeps = s.sweeps := rfl
@[simp] theorem State.setEngine_save : (s.setEngine i x).save = s.save := rfl
@[simp] theorem State.setEngine_sites : (s.setEngine i x).sites = s.sites := rfl
@[simp] theorem State.setEngine_cluReads : (s.setEngine i x).cluReads = s.cluReads := rfl
@[simp] theorem State.setEngine_siteSel : (s.setEngine i x).siteSel = s.siteSel := rfl
@[simp] theorem State.setEngine_siteIgnored : (s.setEngine i x).siteIgnored = s.siteIgnored := rfl
@[simp] theorem State.setEngine_banks : (s.setEngine i x).banks = s.banks := rfl
@[simp] theorem State.setEngine_testers : (s.setEngine i x).testers = s.testers := rfl
@[simp] theorem State.setEngine_lines : (s.setEngine i x).lines = s.lines := rfl
@[simp] theorem State.setEngine_dirs : (s.setEngine i x).dirs = s.dirs := rfl
@[simp] theorem State.setEngine_llc : (s.setEngine i x).llc = s.llc := rfl
@[simp] theorem State.setEngine_homes : (s.setEngine i x).homes = s.homes := rfl
@[simp] theorem State.setEngine_retried : (s.setEngine i x).retried = s.retried := rfl
@[simp] theorem State.setEngine_drams : (s.setEngine i x).drams = s.drams := rfl
@[simp] theorem State.setEngine_links : (s.setEngine i x).links = s.links := rfl
@[simp] theorem State.setEngine_sendq : (s.setEngine i x).sendq = s.sendq := rfl
@[simp] theorem State.setEngine_floor : (s.setEngine i x).floor = s.floor := rfl
@[simp] theorem State.setEngine_presentDies : (s.setEngine i x).presentDies = s.presentDies := rfl
@[simp] theorem State.setEngine_ladders : (s.setEngine i x).ladders = s.ladders := rfl
@[simp] theorem State.setEngine_cmps : (s.setEngine i x).cmps = s.cmps := rfl
@[simp] theorem State.setEngine_ncl : (s.setEngine i x).ncl = s.ncl := rfl
@[simp] theorem State.setEngine_intakes : (s.setEngine i x).intakes = s.intakes := rfl
@[simp] theorem State.setEngine_sheets : (s.setEngine i x).sheets = s.sheets := rfl
@[simp] theorem State.setEngine_security : (s.setEngine i x).security = s.security := rfl
@[simp] theorem State.setEngine_power : (s.setEngine i x).power = s.power := rfl
@[simp] theorem State.setEngine_harts : (s.setEngine i x).harts = s.harts := rfl
@[simp] theorem State.setEngine_tap : (s.setEngine i x).tap = s.tap := rfl
@[simp] theorem State.setEngine_rom : (s.setEngine i x).rom = s.rom := rfl
@[simp] theorem State.setEngine_flash : (s.setEngine i x).flash = s.flash := rfl
@[simp] theorem State.setEngine_eeprom : (s.setEngine i x).eeprom = s.eeprom := rfl
@[simp] theorem State.setEngine_out : (s.setEngine i x).out = s.out := rfl
@[simp] theorem State.setEngine_fresh : (s.setEngine i x).fresh = s.fresh := rfl
@[simp] theorem State.setEngine_blk_eq (q : Nat) : (s.setEngine i x).blk q = s.blk q := rfl
@[simp] theorem State.setEngine_core_eq (q : Nat) : (s.setEngine i x).core q = s.core q := rfl
@[simp] theorem State.setEngine_token_eq (q : Nat) : (s.setEngine i x).token q = s.token q := rfl
@[simp] theorem State.setEngine_site_eq (q : Nat) : (s.setEngine i x).site q = s.site q := rfl
@[simp] theorem State.setEngine_sheet_eq (q : Nat) : (s.setEngine i x).sheet q = s.sheet q := rfl
@[simp] theorem State.setEngine_sweep_eq (q : Nat) : (s.setEngine i x).sweep q = s.sweep q := rfl
@[simp] theorem State.setEngine_ladder_eq (q : Nat) : (s.setEngine i x).ladder q = s.ladder q := rfl
@[simp] theorem State.setEngine_link_eq (q : Nat) : (s.setEngine i x).link q = s.link q := rfl
@[simp] theorem State.setEngine_home_eq (q : Nat) : (s.setEngine i x).home q = s.home q := rfl
@[simp] theorem State.setEngine_cmp_eq (q : Nat) : (s.setEngine i x).cmp q = s.cmp q := rfl
@[simp] theorem State.setEngine_intake_eq (q : Nat) : (s.setEngine i x).intake q = s.intake q := rfl
@[simp] theorem State.setEngine_dram_eq (q : Nat) : (s.setEngine i x).dram q = s.dram q := rfl
@[simp] theorem State.setEngine_dir_eq (q : Nat) : (s.setEngine i x).dir q = s.dir q := rfl
@[simp] theorem State.setEngine_ring_eq (q : Nat) : (s.setEngine i x).ring q = s.ring q := rfl
@[simp] theorem State.setEngine_reg_eq (q r : Nat) : (s.setEngine i x).reg q r = s.reg q r := rfl
end

/-! ### setCore -/

section
variable (s : State) (i : Nat) (x : Core)
@[simp] theorem State.setCore_pending : (s.setCore i x).pending = s.pending := rfl
@[simp] theorem State.setCore_blocks : (s.setCore i x).blocks = s.blocks := rfl
@[simp] theorem State.setCore_regs : (s.setCore i x).regs = s.regs := rfl
@[simp] theorem State.setCore_counters : (s.setCore i x).counters = s.counters := rfl
@[simp] theorem State.setCore_holds : (s.setCore i x).holds = s.holds := rfl
@[simp] theorem State.setCore_snapNext : (s.setCore i x).snapNext = s.snapNext := rfl
@[simp] theorem State.setCore_once : (s.setCore i x).once = s.once := rfl
@[simp] theorem State.setCore_mem : (s.setCore i x).mem = s.mem := rfl
@[simp] theorem State.setCore_poison : (s.setCore i x).poison = s.poison := rfl
@[simp] theorem State.setCore_upsets : (s.setCore i x).upsets = s.upsets := rfl
@[simp] theorem State.setCore_wire : (s.setCore i x).wire = s.wire := rfl
@[simp] theorem State.setCore_engines : (s.setCore i x).engines = s.engines := rfl
@[simp] theorem State.setCore_tokens : (s.setCore i x).tokens = s.tokens := rfl
@[simp] theorem State.setCore_held : (s.setCore i x).held = s.held := rfl
@[simp] theorem State.setCore_tokMsgs : (s.setCore i x).tokMsgs = s.tokMsgs := rfl
@[simp] theorem State.setCore_allots : (s.setCore i x).allots = s.allots := rfl
@[simp] theorem State.setCore_dieMap : (s.setCore i x).dieMap = s.dieMap := rfl
@[simp] theorem State.setCore_routes : (s.setCore i x).routes = s.routes := rfl
@[simp] theorem State.setCore_loader : (s.setCore i x).loader = s.loader := rfl
@[simp] theorem State.setCore_turns : (s.setCore i x).turns = s.turns := rfl
@[simp] theorem State.setCore_energy : (s.setCore i x).energy = s.energy := rfl
@[simp] theorem State.setCore_sweeps : (s.setCore i x).sweeps = s.sweeps := rfl
@[simp] theorem State.setCore_save : (s.setCore i x).save = s.save := rfl
@[simp] theorem State.setCore_sites : (s.setCore i x).sites = s.sites := rfl
@[simp] theorem State.setCore_cluReads : (s.setCore i x).cluReads = s.cluReads := rfl
@[simp] theorem State.setCore_siteSel : (s.setCore i x).siteSel = s.siteSel := rfl
@[simp] theorem State.setCore_siteIgnored : (s.setCore i x).siteIgnored = s.siteIgnored := rfl
@[simp] theorem State.setCore_banks : (s.setCore i x).banks = s.banks := rfl
@[simp] theorem State.setCore_testers : (s.setCore i x).testers = s.testers := rfl
@[simp] theorem State.setCore_lines : (s.setCore i x).lines = s.lines := rfl
@[simp] theorem State.setCore_dirs : (s.setCore i x).dirs = s.dirs := rfl
@[simp] theorem State.setCore_llc : (s.setCore i x).llc = s.llc := rfl
@[simp] theorem State.setCore_homes : (s.setCore i x).homes = s.homes := rfl
@[simp] theorem State.setCore_retried : (s.setCore i x).retried = s.retried := rfl
@[simp] theorem State.setCore_drams : (s.setCore i x).drams = s.drams := rfl
@[simp] theorem State.setCore_links : (s.setCore i x).links = s.links := rfl
@[simp] theorem State.setCore_sendq : (s.setCore i x).sendq = s.sendq := rfl
@[simp] theorem State.setCore_floor : (s.setCore i x).floor = s.floor := rfl
@[simp] theorem State.setCore_presentDies : (s.setCore i x).presentDies = s.presentDies := rfl
@[simp] theorem State.setCore_ladders : (s.setCore i x).ladders = s.ladders := rfl
@[simp] theorem State.setCore_cmps : (s.setCore i x).cmps = s.cmps := rfl
@[simp] theorem State.setCore_ncl : (s.setCore i x).ncl = s.ncl := rfl
@[simp] theorem State.setCore_intakes : (s.setCore i x).intakes = s.intakes := rfl
@[simp] theorem State.setCore_sheets : (s.setCore i x).sheets = s.sheets := rfl
@[simp] theorem State.setCore_security : (s.setCore i x).security = s.security := rfl
@[simp] theorem State.setCore_power : (s.setCore i x).power = s.power := rfl
@[simp] theorem State.setCore_harts : (s.setCore i x).harts = s.harts := rfl
@[simp] theorem State.setCore_tap : (s.setCore i x).tap = s.tap := rfl
@[simp] theorem State.setCore_rom : (s.setCore i x).rom = s.rom := rfl
@[simp] theorem State.setCore_flash : (s.setCore i x).flash = s.flash := rfl
@[simp] theorem State.setCore_eeprom : (s.setCore i x).eeprom = s.eeprom := rfl
@[simp] theorem State.setCore_out : (s.setCore i x).out = s.out := rfl
@[simp] theorem State.setCore_fresh : (s.setCore i x).fresh = s.fresh := rfl
@[simp] theorem State.setCore_blk_eq (q : Nat) : (s.setCore i x).blk q = s.blk q := rfl
@[simp] theorem State.setCore_engine_eq (q : Nat) : (s.setCore i x).engine q = s.engine q := rfl
@[simp] theorem State.setCore_token_eq (q : Nat) : (s.setCore i x).token q = s.token q := rfl
@[simp] theorem State.setCore_site_eq (q : Nat) : (s.setCore i x).site q = s.site q := rfl
@[simp] theorem State.setCore_sheet_eq (q : Nat) : (s.setCore i x).sheet q = s.sheet q := rfl
@[simp] theorem State.setCore_sweep_eq (q : Nat) : (s.setCore i x).sweep q = s.sweep q := rfl
@[simp] theorem State.setCore_ladder_eq (q : Nat) : (s.setCore i x).ladder q = s.ladder q := rfl
@[simp] theorem State.setCore_link_eq (q : Nat) : (s.setCore i x).link q = s.link q := rfl
@[simp] theorem State.setCore_home_eq (q : Nat) : (s.setCore i x).home q = s.home q := rfl
@[simp] theorem State.setCore_cmp_eq (q : Nat) : (s.setCore i x).cmp q = s.cmp q := rfl
@[simp] theorem State.setCore_intake_eq (q : Nat) : (s.setCore i x).intake q = s.intake q := rfl
@[simp] theorem State.setCore_dram_eq (q : Nat) : (s.setCore i x).dram q = s.dram q := rfl
@[simp] theorem State.setCore_dir_eq (q : Nat) : (s.setCore i x).dir q = s.dir q := rfl
@[simp] theorem State.setCore_ring_eq (q : Nat) : (s.setCore i x).ring q = s.ring q := rfl
@[simp] theorem State.setCore_reg_eq (q r : Nat) : (s.setCore i x).reg q r = s.reg q r := rfl
end

/-! ### setToken -/

section
variable (s : State) (i : Nat) (x : Token)
@[simp] theorem State.setToken_pending : (s.setToken i x).pending = s.pending := rfl
@[simp] theorem State.setToken_blocks : (s.setToken i x).blocks = s.blocks := rfl
@[simp] theorem State.setToken_regs : (s.setToken i x).regs = s.regs := rfl
@[simp] theorem State.setToken_counters : (s.setToken i x).counters = s.counters := rfl
@[simp] theorem State.setToken_holds : (s.setToken i x).holds = s.holds := rfl
@[simp] theorem State.setToken_snapNext : (s.setToken i x).snapNext = s.snapNext := rfl
@[simp] theorem State.setToken_once : (s.setToken i x).once = s.once := rfl
@[simp] theorem State.setToken_mem : (s.setToken i x).mem = s.mem := rfl
@[simp] theorem State.setToken_poison : (s.setToken i x).poison = s.poison := rfl
@[simp] theorem State.setToken_upsets : (s.setToken i x).upsets = s.upsets := rfl
@[simp] theorem State.setToken_wire : (s.setToken i x).wire = s.wire := rfl
@[simp] theorem State.setToken_engines : (s.setToken i x).engines = s.engines := rfl
@[simp] theorem State.setToken_cores : (s.setToken i x).cores = s.cores := rfl
@[simp] theorem State.setToken_held : (s.setToken i x).held = s.held := rfl
@[simp] theorem State.setToken_tokMsgs : (s.setToken i x).tokMsgs = s.tokMsgs := rfl
@[simp] theorem State.setToken_allots : (s.setToken i x).allots = s.allots := rfl
@[simp] theorem State.setToken_dieMap : (s.setToken i x).dieMap = s.dieMap := rfl
@[simp] theorem State.setToken_routes : (s.setToken i x).routes = s.routes := rfl
@[simp] theorem State.setToken_loader : (s.setToken i x).loader = s.loader := rfl
@[simp] theorem State.setToken_turns : (s.setToken i x).turns = s.turns := rfl
@[simp] theorem State.setToken_energy : (s.setToken i x).energy = s.energy := rfl
@[simp] theorem State.setToken_sweeps : (s.setToken i x).sweeps = s.sweeps := rfl
@[simp] theorem State.setToken_save : (s.setToken i x).save = s.save := rfl
@[simp] theorem State.setToken_sites : (s.setToken i x).sites = s.sites := rfl
@[simp] theorem State.setToken_cluReads : (s.setToken i x).cluReads = s.cluReads := rfl
@[simp] theorem State.setToken_siteSel : (s.setToken i x).siteSel = s.siteSel := rfl
@[simp] theorem State.setToken_siteIgnored : (s.setToken i x).siteIgnored = s.siteIgnored := rfl
@[simp] theorem State.setToken_banks : (s.setToken i x).banks = s.banks := rfl
@[simp] theorem State.setToken_testers : (s.setToken i x).testers = s.testers := rfl
@[simp] theorem State.setToken_lines : (s.setToken i x).lines = s.lines := rfl
@[simp] theorem State.setToken_dirs : (s.setToken i x).dirs = s.dirs := rfl
@[simp] theorem State.setToken_llc : (s.setToken i x).llc = s.llc := rfl
@[simp] theorem State.setToken_homes : (s.setToken i x).homes = s.homes := rfl
@[simp] theorem State.setToken_retried : (s.setToken i x).retried = s.retried := rfl
@[simp] theorem State.setToken_drams : (s.setToken i x).drams = s.drams := rfl
@[simp] theorem State.setToken_links : (s.setToken i x).links = s.links := rfl
@[simp] theorem State.setToken_sendq : (s.setToken i x).sendq = s.sendq := rfl
@[simp] theorem State.setToken_floor : (s.setToken i x).floor = s.floor := rfl
@[simp] theorem State.setToken_presentDies : (s.setToken i x).presentDies = s.presentDies := rfl
@[simp] theorem State.setToken_ladders : (s.setToken i x).ladders = s.ladders := rfl
@[simp] theorem State.setToken_cmps : (s.setToken i x).cmps = s.cmps := rfl
@[simp] theorem State.setToken_ncl : (s.setToken i x).ncl = s.ncl := rfl
@[simp] theorem State.setToken_intakes : (s.setToken i x).intakes = s.intakes := rfl
@[simp] theorem State.setToken_sheets : (s.setToken i x).sheets = s.sheets := rfl
@[simp] theorem State.setToken_security : (s.setToken i x).security = s.security := rfl
@[simp] theorem State.setToken_power : (s.setToken i x).power = s.power := rfl
@[simp] theorem State.setToken_harts : (s.setToken i x).harts = s.harts := rfl
@[simp] theorem State.setToken_tap : (s.setToken i x).tap = s.tap := rfl
@[simp] theorem State.setToken_rom : (s.setToken i x).rom = s.rom := rfl
@[simp] theorem State.setToken_flash : (s.setToken i x).flash = s.flash := rfl
@[simp] theorem State.setToken_eeprom : (s.setToken i x).eeprom = s.eeprom := rfl
@[simp] theorem State.setToken_out : (s.setToken i x).out = s.out := rfl
@[simp] theorem State.setToken_fresh : (s.setToken i x).fresh = s.fresh := rfl
@[simp] theorem State.setToken_blk_eq (q : Nat) : (s.setToken i x).blk q = s.blk q := rfl
@[simp] theorem State.setToken_engine_eq (q : Nat) : (s.setToken i x).engine q = s.engine q := rfl
@[simp] theorem State.setToken_core_eq (q : Nat) : (s.setToken i x).core q = s.core q := rfl
@[simp] theorem State.setToken_site_eq (q : Nat) : (s.setToken i x).site q = s.site q := rfl
@[simp] theorem State.setToken_sheet_eq (q : Nat) : (s.setToken i x).sheet q = s.sheet q := rfl
@[simp] theorem State.setToken_sweep_eq (q : Nat) : (s.setToken i x).sweep q = s.sweep q := rfl
@[simp] theorem State.setToken_ladder_eq (q : Nat) : (s.setToken i x).ladder q = s.ladder q := rfl
@[simp] theorem State.setToken_link_eq (q : Nat) : (s.setToken i x).link q = s.link q := rfl
@[simp] theorem State.setToken_home_eq (q : Nat) : (s.setToken i x).home q = s.home q := rfl
@[simp] theorem State.setToken_cmp_eq (q : Nat) : (s.setToken i x).cmp q = s.cmp q := rfl
@[simp] theorem State.setToken_intake_eq (q : Nat) : (s.setToken i x).intake q = s.intake q := rfl
@[simp] theorem State.setToken_dram_eq (q : Nat) : (s.setToken i x).dram q = s.dram q := rfl
@[simp] theorem State.setToken_dir_eq (q : Nat) : (s.setToken i x).dir q = s.dir q := rfl
@[simp] theorem State.setToken_ring_eq (q : Nat) : (s.setToken i x).ring q = s.ring q := rfl
@[simp] theorem State.setToken_reg_eq (q r : Nat) : (s.setToken i x).reg q r = s.reg q r := rfl
end

/-! ### setSweep -/

section
variable (s : State) (i : Nat) (x : Sweep)
@[simp] theorem State.setSweep_pending : (s.setSweep i x).pending = s.pending := rfl
@[simp] theorem State.setSweep_blocks : (s.setSweep i x).blocks = s.blocks := rfl
@[simp] theorem State.setSweep_regs : (s.setSweep i x).regs = s.regs := rfl
@[simp] theorem State.setSweep_counters : (s.setSweep i x).counters = s.counters := rfl
@[simp] theorem State.setSweep_holds : (s.setSweep i x).holds = s.holds := rfl
@[simp] theorem State.setSweep_snapNext : (s.setSweep i x).snapNext = s.snapNext := rfl
@[simp] theorem State.setSweep_once : (s.setSweep i x).once = s.once := rfl
@[simp] theorem State.setSweep_mem : (s.setSweep i x).mem = s.mem := rfl
@[simp] theorem State.setSweep_poison : (s.setSweep i x).poison = s.poison := rfl
@[simp] theorem State.setSweep_upsets : (s.setSweep i x).upsets = s.upsets := rfl
@[simp] theorem State.setSweep_wire : (s.setSweep i x).wire = s.wire := rfl
@[simp] theorem State.setSweep_engines : (s.setSweep i x).engines = s.engines := rfl
@[simp] theorem State.setSweep_cores : (s.setSweep i x).cores = s.cores := rfl
@[simp] theorem State.setSweep_tokens : (s.setSweep i x).tokens = s.tokens := rfl
@[simp] theorem State.setSweep_held : (s.setSweep i x).held = s.held := rfl
@[simp] theorem State.setSweep_tokMsgs : (s.setSweep i x).tokMsgs = s.tokMsgs := rfl
@[simp] theorem State.setSweep_allots : (s.setSweep i x).allots = s.allots := rfl
@[simp] theorem State.setSweep_dieMap : (s.setSweep i x).dieMap = s.dieMap := rfl
@[simp] theorem State.setSweep_routes : (s.setSweep i x).routes = s.routes := rfl
@[simp] theorem State.setSweep_loader : (s.setSweep i x).loader = s.loader := rfl
@[simp] theorem State.setSweep_turns : (s.setSweep i x).turns = s.turns := rfl
@[simp] theorem State.setSweep_energy : (s.setSweep i x).energy = s.energy := rfl
@[simp] theorem State.setSweep_save : (s.setSweep i x).save = s.save := rfl
@[simp] theorem State.setSweep_sites : (s.setSweep i x).sites = s.sites := rfl
@[simp] theorem State.setSweep_cluReads : (s.setSweep i x).cluReads = s.cluReads := rfl
@[simp] theorem State.setSweep_siteSel : (s.setSweep i x).siteSel = s.siteSel := rfl
@[simp] theorem State.setSweep_siteIgnored : (s.setSweep i x).siteIgnored = s.siteIgnored := rfl
@[simp] theorem State.setSweep_banks : (s.setSweep i x).banks = s.banks := rfl
@[simp] theorem State.setSweep_testers : (s.setSweep i x).testers = s.testers := rfl
@[simp] theorem State.setSweep_lines : (s.setSweep i x).lines = s.lines := rfl
@[simp] theorem State.setSweep_dirs : (s.setSweep i x).dirs = s.dirs := rfl
@[simp] theorem State.setSweep_llc : (s.setSweep i x).llc = s.llc := rfl
@[simp] theorem State.setSweep_homes : (s.setSweep i x).homes = s.homes := rfl
@[simp] theorem State.setSweep_retried : (s.setSweep i x).retried = s.retried := rfl
@[simp] theorem State.setSweep_drams : (s.setSweep i x).drams = s.drams := rfl
@[simp] theorem State.setSweep_links : (s.setSweep i x).links = s.links := rfl
@[simp] theorem State.setSweep_sendq : (s.setSweep i x).sendq = s.sendq := rfl
@[simp] theorem State.setSweep_floor : (s.setSweep i x).floor = s.floor := rfl
@[simp] theorem State.setSweep_presentDies : (s.setSweep i x).presentDies = s.presentDies := rfl
@[simp] theorem State.setSweep_ladders : (s.setSweep i x).ladders = s.ladders := rfl
@[simp] theorem State.setSweep_cmps : (s.setSweep i x).cmps = s.cmps := rfl
@[simp] theorem State.setSweep_ncl : (s.setSweep i x).ncl = s.ncl := rfl
@[simp] theorem State.setSweep_intakes : (s.setSweep i x).intakes = s.intakes := rfl
@[simp] theorem State.setSweep_sheets : (s.setSweep i x).sheets = s.sheets := rfl
@[simp] theorem State.setSweep_security : (s.setSweep i x).security = s.security := rfl
@[simp] theorem State.setSweep_power : (s.setSweep i x).power = s.power := rfl
@[simp] theorem State.setSweep_harts : (s.setSweep i x).harts = s.harts := rfl
@[simp] theorem State.setSweep_tap : (s.setSweep i x).tap = s.tap := rfl
@[simp] theorem State.setSweep_rom : (s.setSweep i x).rom = s.rom := rfl
@[simp] theorem State.setSweep_flash : (s.setSweep i x).flash = s.flash := rfl
@[simp] theorem State.setSweep_eeprom : (s.setSweep i x).eeprom = s.eeprom := rfl
@[simp] theorem State.setSweep_out : (s.setSweep i x).out = s.out := rfl
@[simp] theorem State.setSweep_fresh : (s.setSweep i x).fresh = s.fresh := rfl
@[simp] theorem State.setSweep_blk_eq (q : Nat) : (s.setSweep i x).blk q = s.blk q := rfl
@[simp] theorem State.setSweep_engine_eq (q : Nat) : (s.setSweep i x).engine q = s.engine q := rfl
@[simp] theorem State.setSweep_core_eq (q : Nat) : (s.setSweep i x).core q = s.core q := rfl
@[simp] theorem State.setSweep_token_eq (q : Nat) : (s.setSweep i x).token q = s.token q := rfl
@[simp] theorem State.setSweep_site_eq (q : Nat) : (s.setSweep i x).site q = s.site q := rfl
@[simp] theorem State.setSweep_sheet_eq (q : Nat) : (s.setSweep i x).sheet q = s.sheet q := rfl
@[simp] theorem State.setSweep_ladder_eq (q : Nat) : (s.setSweep i x).ladder q = s.ladder q := rfl
@[simp] theorem State.setSweep_link_eq (q : Nat) : (s.setSweep i x).link q = s.link q := rfl
@[simp] theorem State.setSweep_home_eq (q : Nat) : (s.setSweep i x).home q = s.home q := rfl
@[simp] theorem State.setSweep_cmp_eq (q : Nat) : (s.setSweep i x).cmp q = s.cmp q := rfl
@[simp] theorem State.setSweep_intake_eq (q : Nat) : (s.setSweep i x).intake q = s.intake q := rfl
@[simp] theorem State.setSweep_dram_eq (q : Nat) : (s.setSweep i x).dram q = s.dram q := rfl
@[simp] theorem State.setSweep_dir_eq (q : Nat) : (s.setSweep i x).dir q = s.dir q := rfl
@[simp] theorem State.setSweep_ring_eq (q : Nat) : (s.setSweep i x).ring q = s.ring q := rfl
@[simp] theorem State.setSweep_reg_eq (q r : Nat) : (s.setSweep i x).reg q r = s.reg q r := rfl
end

/-! ### setIntake -/

section
variable (s : State) (i : Nat) (x : Intake)
@[simp] theorem State.setIntake_pending : (s.setIntake i x).pending = s.pending := rfl
@[simp] theorem State.setIntake_blocks : (s.setIntake i x).blocks = s.blocks := rfl
@[simp] theorem State.setIntake_regs : (s.setIntake i x).regs = s.regs := rfl
@[simp] theorem State.setIntake_counters : (s.setIntake i x).counters = s.counters := rfl
@[simp] theorem State.setIntake_holds : (s.setIntake i x).holds = s.holds := rfl
@[simp] theorem State.setIntake_snapNext : (s.setIntake i x).snapNext = s.snapNext := rfl
@[simp] theorem State.setIntake_once : (s.setIntake i x).once = s.once := rfl
@[simp] theorem State.setIntake_mem : (s.setIntake i x).mem = s.mem := rfl
@[simp] theorem State.setIntake_poison : (s.setIntake i x).poison = s.poison := rfl
@[simp] theorem State.setIntake_upsets : (s.setIntake i x).upsets = s.upsets := rfl
@[simp] theorem State.setIntake_wire : (s.setIntake i x).wire = s.wire := rfl
@[simp] theorem State.setIntake_engines : (s.setIntake i x).engines = s.engines := rfl
@[simp] theorem State.setIntake_cores : (s.setIntake i x).cores = s.cores := rfl
@[simp] theorem State.setIntake_tokens : (s.setIntake i x).tokens = s.tokens := rfl
@[simp] theorem State.setIntake_held : (s.setIntake i x).held = s.held := rfl
@[simp] theorem State.setIntake_tokMsgs : (s.setIntake i x).tokMsgs = s.tokMsgs := rfl
@[simp] theorem State.setIntake_allots : (s.setIntake i x).allots = s.allots := rfl
@[simp] theorem State.setIntake_dieMap : (s.setIntake i x).dieMap = s.dieMap := rfl
@[simp] theorem State.setIntake_routes : (s.setIntake i x).routes = s.routes := rfl
@[simp] theorem State.setIntake_loader : (s.setIntake i x).loader = s.loader := rfl
@[simp] theorem State.setIntake_turns : (s.setIntake i x).turns = s.turns := rfl
@[simp] theorem State.setIntake_energy : (s.setIntake i x).energy = s.energy := rfl
@[simp] theorem State.setIntake_sweeps : (s.setIntake i x).sweeps = s.sweeps := rfl
@[simp] theorem State.setIntake_save : (s.setIntake i x).save = s.save := rfl
@[simp] theorem State.setIntake_sites : (s.setIntake i x).sites = s.sites := rfl
@[simp] theorem State.setIntake_cluReads : (s.setIntake i x).cluReads = s.cluReads := rfl
@[simp] theorem State.setIntake_siteSel : (s.setIntake i x).siteSel = s.siteSel := rfl
@[simp] theorem State.setIntake_siteIgnored : (s.setIntake i x).siteIgnored = s.siteIgnored := rfl
@[simp] theorem State.setIntake_banks : (s.setIntake i x).banks = s.banks := rfl
@[simp] theorem State.setIntake_testers : (s.setIntake i x).testers = s.testers := rfl
@[simp] theorem State.setIntake_lines : (s.setIntake i x).lines = s.lines := rfl
@[simp] theorem State.setIntake_dirs : (s.setIntake i x).dirs = s.dirs := rfl
@[simp] theorem State.setIntake_llc : (s.setIntake i x).llc = s.llc := rfl
@[simp] theorem State.setIntake_homes : (s.setIntake i x).homes = s.homes := rfl
@[simp] theorem State.setIntake_retried : (s.setIntake i x).retried = s.retried := rfl
@[simp] theorem State.setIntake_drams : (s.setIntake i x).drams = s.drams := rfl
@[simp] theorem State.setIntake_links : (s.setIntake i x).links = s.links := rfl
@[simp] theorem State.setIntake_sendq : (s.setIntake i x).sendq = s.sendq := rfl
@[simp] theorem State.setIntake_floor : (s.setIntake i x).floor = s.floor := rfl
@[simp] theorem State.setIntake_presentDies : (s.setIntake i x).presentDies = s.presentDies := rfl
@[simp] theorem State.setIntake_ladders : (s.setIntake i x).ladders = s.ladders := rfl
@[simp] theorem State.setIntake_cmps : (s.setIntake i x).cmps = s.cmps := rfl
@[simp] theorem State.setIntake_ncl : (s.setIntake i x).ncl = s.ncl := rfl
@[simp] theorem State.setIntake_sheets : (s.setIntake i x).sheets = s.sheets := rfl
@[simp] theorem State.setIntake_security : (s.setIntake i x).security = s.security := rfl
@[simp] theorem State.setIntake_power : (s.setIntake i x).power = s.power := rfl
@[simp] theorem State.setIntake_harts : (s.setIntake i x).harts = s.harts := rfl
@[simp] theorem State.setIntake_tap : (s.setIntake i x).tap = s.tap := rfl
@[simp] theorem State.setIntake_rom : (s.setIntake i x).rom = s.rom := rfl
@[simp] theorem State.setIntake_flash : (s.setIntake i x).flash = s.flash := rfl
@[simp] theorem State.setIntake_eeprom : (s.setIntake i x).eeprom = s.eeprom := rfl
@[simp] theorem State.setIntake_out : (s.setIntake i x).out = s.out := rfl
@[simp] theorem State.setIntake_fresh : (s.setIntake i x).fresh = s.fresh := rfl
@[simp] theorem State.setIntake_blk_eq (q : Nat) : (s.setIntake i x).blk q = s.blk q := rfl
@[simp] theorem State.setIntake_engine_eq (q : Nat) : (s.setIntake i x).engine q = s.engine q := rfl
@[simp] theorem State.setIntake_core_eq (q : Nat) : (s.setIntake i x).core q = s.core q := rfl
@[simp] theorem State.setIntake_token_eq (q : Nat) : (s.setIntake i x).token q = s.token q := rfl
@[simp] theorem State.setIntake_site_eq (q : Nat) : (s.setIntake i x).site q = s.site q := rfl
@[simp] theorem State.setIntake_sheet_eq (q : Nat) : (s.setIntake i x).sheet q = s.sheet q := rfl
@[simp] theorem State.setIntake_sweep_eq (q : Nat) : (s.setIntake i x).sweep q = s.sweep q := rfl
@[simp] theorem State.setIntake_ladder_eq (q : Nat) : (s.setIntake i x).ladder q = s.ladder q := rfl
@[simp] theorem State.setIntake_link_eq (q : Nat) : (s.setIntake i x).link q = s.link q := rfl
@[simp] theorem State.setIntake_home_eq (q : Nat) : (s.setIntake i x).home q = s.home q := rfl
@[simp] theorem State.setIntake_cmp_eq (q : Nat) : (s.setIntake i x).cmp q = s.cmp q := rfl
@[simp] theorem State.setIntake_dram_eq (q : Nat) : (s.setIntake i x).dram q = s.dram q := rfl
@[simp] theorem State.setIntake_dir_eq (q : Nat) : (s.setIntake i x).dir q = s.dir q := rfl
@[simp] theorem State.setIntake_ring_eq (q : Nat) : (s.setIntake i x).ring q = s.ring q := rfl
@[simp] theorem State.setIntake_reg_eq (q r : Nat) : (s.setIntake i x).reg q r = s.reg q r := rfl
end

/-! ### setCmp -/

section
variable (s : State) (i : Nat) (x : Cmp)
@[simp] theorem State.setCmp_pending : (s.setCmp i x).pending = s.pending := rfl
@[simp] theorem State.setCmp_blocks : (s.setCmp i x).blocks = s.blocks := rfl
@[simp] theorem State.setCmp_regs : (s.setCmp i x).regs = s.regs := rfl
@[simp] theorem State.setCmp_counters : (s.setCmp i x).counters = s.counters := rfl
@[simp] theorem State.setCmp_holds : (s.setCmp i x).holds = s.holds := rfl
@[simp] theorem State.setCmp_snapNext : (s.setCmp i x).snapNext = s.snapNext := rfl
@[simp] theorem State.setCmp_once : (s.setCmp i x).once = s.once := rfl
@[simp] theorem State.setCmp_mem : (s.setCmp i x).mem = s.mem := rfl
@[simp] theorem State.setCmp_poison : (s.setCmp i x).poison = s.poison := rfl
@[simp] theorem State.setCmp_upsets : (s.setCmp i x).upsets = s.upsets := rfl
@[simp] theorem State.setCmp_wire : (s.setCmp i x).wire = s.wire := rfl
@[simp] theorem State.setCmp_engines : (s.setCmp i x).engines = s.engines := rfl
@[simp] theorem State.setCmp_cores : (s.setCmp i x).cores = s.cores := rfl
@[simp] theorem State.setCmp_tokens : (s.setCmp i x).tokens = s.tokens := rfl
@[simp] theorem State.setCmp_held : (s.setCmp i x).held = s.held := rfl
@[simp] theorem State.setCmp_tokMsgs : (s.setCmp i x).tokMsgs = s.tokMsgs := rfl
@[simp] theorem State.setCmp_allots : (s.setCmp i x).allots = s.allots := rfl
@[simp] theorem State.setCmp_dieMap : (s.setCmp i x).dieMap = s.dieMap := rfl
@[simp] theorem State.setCmp_routes : (s.setCmp i x).routes = s.routes := rfl
@[simp] theorem State.setCmp_loader : (s.setCmp i x).loader = s.loader := rfl
@[simp] theorem State.setCmp_turns : (s.setCmp i x).turns = s.turns := rfl
@[simp] theorem State.setCmp_energy : (s.setCmp i x).energy = s.energy := rfl
@[simp] theorem State.setCmp_sweeps : (s.setCmp i x).sweeps = s.sweeps := rfl
@[simp] theorem State.setCmp_save : (s.setCmp i x).save = s.save := rfl
@[simp] theorem State.setCmp_sites : (s.setCmp i x).sites = s.sites := rfl
@[simp] theorem State.setCmp_cluReads : (s.setCmp i x).cluReads = s.cluReads := rfl
@[simp] theorem State.setCmp_siteSel : (s.setCmp i x).siteSel = s.siteSel := rfl
@[simp] theorem State.setCmp_siteIgnored : (s.setCmp i x).siteIgnored = s.siteIgnored := rfl
@[simp] theorem State.setCmp_banks : (s.setCmp i x).banks = s.banks := rfl
@[simp] theorem State.setCmp_testers : (s.setCmp i x).testers = s.testers := rfl
@[simp] theorem State.setCmp_lines : (s.setCmp i x).lines = s.lines := rfl
@[simp] theorem State.setCmp_dirs : (s.setCmp i x).dirs = s.dirs := rfl
@[simp] theorem State.setCmp_llc : (s.setCmp i x).llc = s.llc := rfl
@[simp] theorem State.setCmp_homes : (s.setCmp i x).homes = s.homes := rfl
@[simp] theorem State.setCmp_retried : (s.setCmp i x).retried = s.retried := rfl
@[simp] theorem State.setCmp_drams : (s.setCmp i x).drams = s.drams := rfl
@[simp] theorem State.setCmp_links : (s.setCmp i x).links = s.links := rfl
@[simp] theorem State.setCmp_sendq : (s.setCmp i x).sendq = s.sendq := rfl
@[simp] theorem State.setCmp_floor : (s.setCmp i x).floor = s.floor := rfl
@[simp] theorem State.setCmp_presentDies : (s.setCmp i x).presentDies = s.presentDies := rfl
@[simp] theorem State.setCmp_ladders : (s.setCmp i x).ladders = s.ladders := rfl
@[simp] theorem State.setCmp_ncl : (s.setCmp i x).ncl = s.ncl := rfl
@[simp] theorem State.setCmp_intakes : (s.setCmp i x).intakes = s.intakes := rfl
@[simp] theorem State.setCmp_sheets : (s.setCmp i x).sheets = s.sheets := rfl
@[simp] theorem State.setCmp_security : (s.setCmp i x).security = s.security := rfl
@[simp] theorem State.setCmp_power : (s.setCmp i x).power = s.power := rfl
@[simp] theorem State.setCmp_harts : (s.setCmp i x).harts = s.harts := rfl
@[simp] theorem State.setCmp_tap : (s.setCmp i x).tap = s.tap := rfl
@[simp] theorem State.setCmp_rom : (s.setCmp i x).rom = s.rom := rfl
@[simp] theorem State.setCmp_flash : (s.setCmp i x).flash = s.flash := rfl
@[simp] theorem State.setCmp_eeprom : (s.setCmp i x).eeprom = s.eeprom := rfl
@[simp] theorem State.setCmp_out : (s.setCmp i x).out = s.out := rfl
@[simp] theorem State.setCmp_fresh : (s.setCmp i x).fresh = s.fresh := rfl
@[simp] theorem State.setCmp_blk_eq (q : Nat) : (s.setCmp i x).blk q = s.blk q := rfl
@[simp] theorem State.setCmp_engine_eq (q : Nat) : (s.setCmp i x).engine q = s.engine q := rfl
@[simp] theorem State.setCmp_core_eq (q : Nat) : (s.setCmp i x).core q = s.core q := rfl
@[simp] theorem State.setCmp_token_eq (q : Nat) : (s.setCmp i x).token q = s.token q := rfl
@[simp] theorem State.setCmp_site_eq (q : Nat) : (s.setCmp i x).site q = s.site q := rfl
@[simp] theorem State.setCmp_sheet_eq (q : Nat) : (s.setCmp i x).sheet q = s.sheet q := rfl
@[simp] theorem State.setCmp_sweep_eq (q : Nat) : (s.setCmp i x).sweep q = s.sweep q := rfl
@[simp] theorem State.setCmp_ladder_eq (q : Nat) : (s.setCmp i x).ladder q = s.ladder q := rfl
@[simp] theorem State.setCmp_link_eq (q : Nat) : (s.setCmp i x).link q = s.link q := rfl
@[simp] theorem State.setCmp_home_eq (q : Nat) : (s.setCmp i x).home q = s.home q := rfl
@[simp] theorem State.setCmp_intake_eq (q : Nat) : (s.setCmp i x).intake q = s.intake q := rfl
@[simp] theorem State.setCmp_dram_eq (q : Nat) : (s.setCmp i x).dram q = s.dram q := rfl
@[simp] theorem State.setCmp_dir_eq (q : Nat) : (s.setCmp i x).dir q = s.dir q := rfl
@[simp] theorem State.setCmp_ring_eq (q : Nat) : (s.setCmp i x).ring q = s.ring q := rfl
@[simp] theorem State.setCmp_reg_eq (q r : Nat) : (s.setCmp i x).reg q r = s.reg q r := rfl
end

/-! ### setLadder -/

section
variable (s : State) (i : Nat) (x : Ladder)
@[simp] theorem State.setLadder_pending : (s.setLadder i x).pending = s.pending := rfl
@[simp] theorem State.setLadder_blocks : (s.setLadder i x).blocks = s.blocks := rfl
@[simp] theorem State.setLadder_regs : (s.setLadder i x).regs = s.regs := rfl
@[simp] theorem State.setLadder_counters : (s.setLadder i x).counters = s.counters := rfl
@[simp] theorem State.setLadder_holds : (s.setLadder i x).holds = s.holds := rfl
@[simp] theorem State.setLadder_snapNext : (s.setLadder i x).snapNext = s.snapNext := rfl
@[simp] theorem State.setLadder_once : (s.setLadder i x).once = s.once := rfl
@[simp] theorem State.setLadder_mem : (s.setLadder i x).mem = s.mem := rfl
@[simp] theorem State.setLadder_poison : (s.setLadder i x).poison = s.poison := rfl
@[simp] theorem State.setLadder_upsets : (s.setLadder i x).upsets = s.upsets := rfl
@[simp] theorem State.setLadder_wire : (s.setLadder i x).wire = s.wire := rfl
@[simp] theorem State.setLadder_engines : (s.setLadder i x).engines = s.engines := rfl
@[simp] theorem State.setLadder_cores : (s.setLadder i x).cores = s.cores := rfl
@[simp] theorem State.setLadder_tokens : (s.setLadder i x).tokens = s.tokens := rfl
@[simp] theorem State.setLadder_held : (s.setLadder i x).held = s.held := rfl
@[simp] theorem State.setLadder_tokMsgs : (s.setLadder i x).tokMsgs = s.tokMsgs := rfl
@[simp] theorem State.setLadder_allots : (s.setLadder i x).allots = s.allots := rfl
@[simp] theorem State.setLadder_dieMap : (s.setLadder i x).dieMap = s.dieMap := rfl
@[simp] theorem State.setLadder_routes : (s.setLadder i x).routes = s.routes := rfl
@[simp] theorem State.setLadder_loader : (s.setLadder i x).loader = s.loader := rfl
@[simp] theorem State.setLadder_turns : (s.setLadder i x).turns = s.turns := rfl
@[simp] theorem State.setLadder_energy : (s.setLadder i x).energy = s.energy := rfl
@[simp] theorem State.setLadder_sweeps : (s.setLadder i x).sweeps = s.sweeps := rfl
@[simp] theorem State.setLadder_save : (s.setLadder i x).save = s.save := rfl
@[simp] theorem State.setLadder_sites : (s.setLadder i x).sites = s.sites := rfl
@[simp] theorem State.setLadder_cluReads : (s.setLadder i x).cluReads = s.cluReads := rfl
@[simp] theorem State.setLadder_siteSel : (s.setLadder i x).siteSel = s.siteSel := rfl
@[simp] theorem State.setLadder_siteIgnored : (s.setLadder i x).siteIgnored = s.siteIgnored := rfl
@[simp] theorem State.setLadder_banks : (s.setLadder i x).banks = s.banks := rfl
@[simp] theorem State.setLadder_testers : (s.setLadder i x).testers = s.testers := rfl
@[simp] theorem State.setLadder_lines : (s.setLadder i x).lines = s.lines := rfl
@[simp] theorem State.setLadder_dirs : (s.setLadder i x).dirs = s.dirs := rfl
@[simp] theorem State.setLadder_llc : (s.setLadder i x).llc = s.llc := rfl
@[simp] theorem State.setLadder_homes : (s.setLadder i x).homes = s.homes := rfl
@[simp] theorem State.setLadder_retried : (s.setLadder i x).retried = s.retried := rfl
@[simp] theorem State.setLadder_drams : (s.setLadder i x).drams = s.drams := rfl
@[simp] theorem State.setLadder_links : (s.setLadder i x).links = s.links := rfl
@[simp] theorem State.setLadder_sendq : (s.setLadder i x).sendq = s.sendq := rfl
@[simp] theorem State.setLadder_floor : (s.setLadder i x).floor = s.floor := rfl
@[simp] theorem State.setLadder_presentDies : (s.setLadder i x).presentDies = s.presentDies := rfl
@[simp] theorem State.setLadder_cmps : (s.setLadder i x).cmps = s.cmps := rfl
@[simp] theorem State.setLadder_ncl : (s.setLadder i x).ncl = s.ncl := rfl
@[simp] theorem State.setLadder_intakes : (s.setLadder i x).intakes = s.intakes := rfl
@[simp] theorem State.setLadder_sheets : (s.setLadder i x).sheets = s.sheets := rfl
@[simp] theorem State.setLadder_security : (s.setLadder i x).security = s.security := rfl
@[simp] theorem State.setLadder_power : (s.setLadder i x).power = s.power := rfl
@[simp] theorem State.setLadder_harts : (s.setLadder i x).harts = s.harts := rfl
@[simp] theorem State.setLadder_tap : (s.setLadder i x).tap = s.tap := rfl
@[simp] theorem State.setLadder_rom : (s.setLadder i x).rom = s.rom := rfl
@[simp] theorem State.setLadder_flash : (s.setLadder i x).flash = s.flash := rfl
@[simp] theorem State.setLadder_eeprom : (s.setLadder i x).eeprom = s.eeprom := rfl
@[simp] theorem State.setLadder_out : (s.setLadder i x).out = s.out := rfl
@[simp] theorem State.setLadder_fresh : (s.setLadder i x).fresh = s.fresh := rfl
@[simp] theorem State.setLadder_blk_eq (q : Nat) : (s.setLadder i x).blk q = s.blk q := rfl
@[simp] theorem State.setLadder_engine_eq (q : Nat) : (s.setLadder i x).engine q = s.engine q := rfl
@[simp] theorem State.setLadder_core_eq (q : Nat) : (s.setLadder i x).core q = s.core q := rfl
@[simp] theorem State.setLadder_token_eq (q : Nat) : (s.setLadder i x).token q = s.token q := rfl
@[simp] theorem State.setLadder_site_eq (q : Nat) : (s.setLadder i x).site q = s.site q := rfl
@[simp] theorem State.setLadder_sheet_eq (q : Nat) : (s.setLadder i x).sheet q = s.sheet q := rfl
@[simp] theorem State.setLadder_sweep_eq (q : Nat) : (s.setLadder i x).sweep q = s.sweep q := rfl
@[simp] theorem State.setLadder_link_eq (q : Nat) : (s.setLadder i x).link q = s.link q := rfl
@[simp] theorem State.setLadder_home_eq (q : Nat) : (s.setLadder i x).home q = s.home q := rfl
@[simp] theorem State.setLadder_cmp_eq (q : Nat) : (s.setLadder i x).cmp q = s.cmp q := rfl
@[simp] theorem State.setLadder_intake_eq (q : Nat) : (s.setLadder i x).intake q = s.intake q := rfl
@[simp] theorem State.setLadder_dram_eq (q : Nat) : (s.setLadder i x).dram q = s.dram q := rfl
@[simp] theorem State.setLadder_dir_eq (q : Nat) : (s.setLadder i x).dir q = s.dir q := rfl
@[simp] theorem State.setLadder_ring_eq (q : Nat) : (s.setLadder i x).ring q = s.ring q := rfl
@[simp] theorem State.setLadder_reg_eq (q r : Nat) : (s.setLadder i x).reg q r = s.reg q r := rfl
end

/-! ### setLink -/

section
variable (s : State) (i : Nat) (x : LinkEnd)
@[simp] theorem State.setLink_pending : (s.setLink i x).pending = s.pending := rfl
@[simp] theorem State.setLink_blocks : (s.setLink i x).blocks = s.blocks := rfl
@[simp] theorem State.setLink_regs : (s.setLink i x).regs = s.regs := rfl
@[simp] theorem State.setLink_counters : (s.setLink i x).counters = s.counters := rfl
@[simp] theorem State.setLink_holds : (s.setLink i x).holds = s.holds := rfl
@[simp] theorem State.setLink_snapNext : (s.setLink i x).snapNext = s.snapNext := rfl
@[simp] theorem State.setLink_once : (s.setLink i x).once = s.once := rfl
@[simp] theorem State.setLink_mem : (s.setLink i x).mem = s.mem := rfl
@[simp] theorem State.setLink_poison : (s.setLink i x).poison = s.poison := rfl
@[simp] theorem State.setLink_upsets : (s.setLink i x).upsets = s.upsets := rfl
@[simp] theorem State.setLink_wire : (s.setLink i x).wire = s.wire := rfl
@[simp] theorem State.setLink_engines : (s.setLink i x).engines = s.engines := rfl
@[simp] theorem State.setLink_cores : (s.setLink i x).cores = s.cores := rfl
@[simp] theorem State.setLink_tokens : (s.setLink i x).tokens = s.tokens := rfl
@[simp] theorem State.setLink_held : (s.setLink i x).held = s.held := rfl
@[simp] theorem State.setLink_tokMsgs : (s.setLink i x).tokMsgs = s.tokMsgs := rfl
@[simp] theorem State.setLink_allots : (s.setLink i x).allots = s.allots := rfl
@[simp] theorem State.setLink_dieMap : (s.setLink i x).dieMap = s.dieMap := rfl
@[simp] theorem State.setLink_routes : (s.setLink i x).routes = s.routes := rfl
@[simp] theorem State.setLink_loader : (s.setLink i x).loader = s.loader := rfl
@[simp] theorem State.setLink_turns : (s.setLink i x).turns = s.turns := rfl
@[simp] theorem State.setLink_energy : (s.setLink i x).energy = s.energy := rfl
@[simp] theorem State.setLink_sweeps : (s.setLink i x).sweeps = s.sweeps := rfl
@[simp] theorem State.setLink_save : (s.setLink i x).save = s.save := rfl
@[simp] theorem State.setLink_sites : (s.setLink i x).sites = s.sites := rfl
@[simp] theorem State.setLink_cluReads : (s.setLink i x).cluReads = s.cluReads := rfl
@[simp] theorem State.setLink_siteSel : (s.setLink i x).siteSel = s.siteSel := rfl
@[simp] theorem State.setLink_siteIgnored : (s.setLink i x).siteIgnored = s.siteIgnored := rfl
@[simp] theorem State.setLink_banks : (s.setLink i x).banks = s.banks := rfl
@[simp] theorem State.setLink_testers : (s.setLink i x).testers = s.testers := rfl
@[simp] theorem State.setLink_lines : (s.setLink i x).lines = s.lines := rfl
@[simp] theorem State.setLink_dirs : (s.setLink i x).dirs = s.dirs := rfl
@[simp] theorem State.setLink_llc : (s.setLink i x).llc = s.llc := rfl
@[simp] theorem State.setLink_homes : (s.setLink i x).homes = s.homes := rfl
@[simp] theorem State.setLink_retried : (s.setLink i x).retried = s.retried := rfl
@[simp] theorem State.setLink_drams : (s.setLink i x).drams = s.drams := rfl
@[simp] theorem State.setLink_sendq : (s.setLink i x).sendq = s.sendq := rfl
@[simp] theorem State.setLink_floor : (s.setLink i x).floor = s.floor := rfl
@[simp] theorem State.setLink_presentDies : (s.setLink i x).presentDies = s.presentDies := rfl
@[simp] theorem State.setLink_ladders : (s.setLink i x).ladders = s.ladders := rfl
@[simp] theorem State.setLink_cmps : (s.setLink i x).cmps = s.cmps := rfl
@[simp] theorem State.setLink_ncl : (s.setLink i x).ncl = s.ncl := rfl
@[simp] theorem State.setLink_intakes : (s.setLink i x).intakes = s.intakes := rfl
@[simp] theorem State.setLink_sheets : (s.setLink i x).sheets = s.sheets := rfl
@[simp] theorem State.setLink_security : (s.setLink i x).security = s.security := rfl
@[simp] theorem State.setLink_power : (s.setLink i x).power = s.power := rfl
@[simp] theorem State.setLink_harts : (s.setLink i x).harts = s.harts := rfl
@[simp] theorem State.setLink_tap : (s.setLink i x).tap = s.tap := rfl
@[simp] theorem State.setLink_rom : (s.setLink i x).rom = s.rom := rfl
@[simp] theorem State.setLink_flash : (s.setLink i x).flash = s.flash := rfl
@[simp] theorem State.setLink_eeprom : (s.setLink i x).eeprom = s.eeprom := rfl
@[simp] theorem State.setLink_out : (s.setLink i x).out = s.out := rfl
@[simp] theorem State.setLink_fresh : (s.setLink i x).fresh = s.fresh := rfl
@[simp] theorem State.setLink_blk_eq (q : Nat) : (s.setLink i x).blk q = s.blk q := rfl
@[simp] theorem State.setLink_engine_eq (q : Nat) : (s.setLink i x).engine q = s.engine q := rfl
@[simp] theorem State.setLink_core_eq (q : Nat) : (s.setLink i x).core q = s.core q := rfl
@[simp] theorem State.setLink_token_eq (q : Nat) : (s.setLink i x).token q = s.token q := rfl
@[simp] theorem State.setLink_site_eq (q : Nat) : (s.setLink i x).site q = s.site q := rfl
@[simp] theorem State.setLink_sheet_eq (q : Nat) : (s.setLink i x).sheet q = s.sheet q := rfl
@[simp] theorem State.setLink_sweep_eq (q : Nat) : (s.setLink i x).sweep q = s.sweep q := rfl
@[simp] theorem State.setLink_ladder_eq (q : Nat) : (s.setLink i x).ladder q = s.ladder q := rfl
@[simp] theorem State.setLink_home_eq (q : Nat) : (s.setLink i x).home q = s.home q := rfl
@[simp] theorem State.setLink_cmp_eq (q : Nat) : (s.setLink i x).cmp q = s.cmp q := rfl
@[simp] theorem State.setLink_intake_eq (q : Nat) : (s.setLink i x).intake q = s.intake q := rfl
@[simp] theorem State.setLink_dram_eq (q : Nat) : (s.setLink i x).dram q = s.dram q := rfl
@[simp] theorem State.setLink_dir_eq (q : Nat) : (s.setLink i x).dir q = s.dir q := rfl
@[simp] theorem State.setLink_ring_eq (q : Nat) : (s.setLink i x).ring q = s.ring q := rfl
@[simp] theorem State.setLink_reg_eq (q r : Nat) : (s.setLink i x).reg q r = s.reg q r := rfl
end

/-! ### setHome -/

section
variable (s : State) (i : Nat) (x : Home)
@[simp] theorem State.setHome_pending : (s.setHome i x).pending = s.pending := rfl
@[simp] theorem State.setHome_blocks : (s.setHome i x).blocks = s.blocks := rfl
@[simp] theorem State.setHome_regs : (s.setHome i x).regs = s.regs := rfl
@[simp] theorem State.setHome_counters : (s.setHome i x).counters = s.counters := rfl
@[simp] theorem State.setHome_holds : (s.setHome i x).holds = s.holds := rfl
@[simp] theorem State.setHome_snapNext : (s.setHome i x).snapNext = s.snapNext := rfl
@[simp] theorem State.setHome_once : (s.setHome i x).once = s.once := rfl
@[simp] theorem State.setHome_mem : (s.setHome i x).mem = s.mem := rfl
@[simp] theorem State.setHome_poison : (s.setHome i x).poison = s.poison := rfl
@[simp] theorem State.setHome_upsets : (s.setHome i x).upsets = s.upsets := rfl
@[simp] theorem State.setHome_wire : (s.setHome i x).wire = s.wire := rfl
@[simp] theorem State.setHome_engines : (s.setHome i x).engines = s.engines := rfl
@[simp] theorem State.setHome_cores : (s.setHome i x).cores = s.cores := rfl
@[simp] theorem State.setHome_tokens : (s.setHome i x).tokens = s.tokens := rfl
@[simp] theorem State.setHome_held : (s.setHome i x).held = s.held := rfl
@[simp] theorem State.setHome_tokMsgs : (s.setHome i x).tokMsgs = s.tokMsgs := rfl
@[simp] theorem State.setHome_allots : (s.setHome i x).allots = s.allots := rfl
@[simp] theorem State.setHome_dieMap : (s.setHome i x).dieMap = s.dieMap := rfl
@[simp] theorem State.setHome_routes : (s.setHome i x).routes = s.routes := rfl
@[simp] theorem State.setHome_loader : (s.setHome i x).loader = s.loader := rfl
@[simp] theorem State.setHome_turns : (s.setHome i x).turns = s.turns := rfl
@[simp] theorem State.setHome_energy : (s.setHome i x).energy = s.energy := rfl
@[simp] theorem State.setHome_sweeps : (s.setHome i x).sweeps = s.sweeps := rfl
@[simp] theorem State.setHome_save : (s.setHome i x).save = s.save := rfl
@[simp] theorem State.setHome_sites : (s.setHome i x).sites = s.sites := rfl
@[simp] theorem State.setHome_cluReads : (s.setHome i x).cluReads = s.cluReads := rfl
@[simp] theorem State.setHome_siteSel : (s.setHome i x).siteSel = s.siteSel := rfl
@[simp] theorem State.setHome_siteIgnored : (s.setHome i x).siteIgnored = s.siteIgnored := rfl
@[simp] theorem State.setHome_banks : (s.setHome i x).banks = s.banks := rfl
@[simp] theorem State.setHome_testers : (s.setHome i x).testers = s.testers := rfl
@[simp] theorem State.setHome_lines : (s.setHome i x).lines = s.lines := rfl
@[simp] theorem State.setHome_dirs : (s.setHome i x).dirs = s.dirs := rfl
@[simp] theorem State.setHome_llc : (s.setHome i x).llc = s.llc := rfl
@[simp] theorem State.setHome_retried : (s.setHome i x).retried = s.retried := rfl
@[simp] theorem State.setHome_drams : (s.setHome i x).drams = s.drams := rfl
@[simp] theorem State.setHome_links : (s.setHome i x).links = s.links := rfl
@[simp] theorem State.setHome_sendq : (s.setHome i x).sendq = s.sendq := rfl
@[simp] theorem State.setHome_floor : (s.setHome i x).floor = s.floor := rfl
@[simp] theorem State.setHome_presentDies : (s.setHome i x).presentDies = s.presentDies := rfl
@[simp] theorem State.setHome_ladders : (s.setHome i x).ladders = s.ladders := rfl
@[simp] theorem State.setHome_cmps : (s.setHome i x).cmps = s.cmps := rfl
@[simp] theorem State.setHome_ncl : (s.setHome i x).ncl = s.ncl := rfl
@[simp] theorem State.setHome_intakes : (s.setHome i x).intakes = s.intakes := rfl
@[simp] theorem State.setHome_sheets : (s.setHome i x).sheets = s.sheets := rfl
@[simp] theorem State.setHome_security : (s.setHome i x).security = s.security := rfl
@[simp] theorem State.setHome_power : (s.setHome i x).power = s.power := rfl
@[simp] theorem State.setHome_harts : (s.setHome i x).harts = s.harts := rfl
@[simp] theorem State.setHome_tap : (s.setHome i x).tap = s.tap := rfl
@[simp] theorem State.setHome_rom : (s.setHome i x).rom = s.rom := rfl
@[simp] theorem State.setHome_flash : (s.setHome i x).flash = s.flash := rfl
@[simp] theorem State.setHome_eeprom : (s.setHome i x).eeprom = s.eeprom := rfl
@[simp] theorem State.setHome_out : (s.setHome i x).out = s.out := rfl
@[simp] theorem State.setHome_fresh : (s.setHome i x).fresh = s.fresh := rfl
@[simp] theorem State.setHome_blk_eq (q : Nat) : (s.setHome i x).blk q = s.blk q := rfl
@[simp] theorem State.setHome_engine_eq (q : Nat) : (s.setHome i x).engine q = s.engine q := rfl
@[simp] theorem State.setHome_core_eq (q : Nat) : (s.setHome i x).core q = s.core q := rfl
@[simp] theorem State.setHome_token_eq (q : Nat) : (s.setHome i x).token q = s.token q := rfl
@[simp] theorem State.setHome_site_eq (q : Nat) : (s.setHome i x).site q = s.site q := rfl
@[simp] theorem State.setHome_sheet_eq (q : Nat) : (s.setHome i x).sheet q = s.sheet q := rfl
@[simp] theorem State.setHome_sweep_eq (q : Nat) : (s.setHome i x).sweep q = s.sweep q := rfl
@[simp] theorem State.setHome_ladder_eq (q : Nat) : (s.setHome i x).ladder q = s.ladder q := rfl
@[simp] theorem State.setHome_link_eq (q : Nat) : (s.setHome i x).link q = s.link q := rfl
@[simp] theorem State.setHome_cmp_eq (q : Nat) : (s.setHome i x).cmp q = s.cmp q := rfl
@[simp] theorem State.setHome_intake_eq (q : Nat) : (s.setHome i x).intake q = s.intake q := rfl
@[simp] theorem State.setHome_dram_eq (q : Nat) : (s.setHome i x).dram q = s.dram q := rfl
@[simp] theorem State.setHome_dir_eq (q : Nat) : (s.setHome i x).dir q = s.dir q := rfl
@[simp] theorem State.setHome_ring_eq (q : Nat) : (s.setHome i x).ring q = s.ring q := rfl
@[simp] theorem State.setHome_reg_eq (q r : Nat) : (s.setHome i x).reg q r = s.reg q r := rfl
end

/-! ### setDram -/

section
variable (s : State) (i : Nat) (x : Dram)
@[simp] theorem State.setDram_pending : (s.setDram i x).pending = s.pending := rfl
@[simp] theorem State.setDram_blocks : (s.setDram i x).blocks = s.blocks := rfl
@[simp] theorem State.setDram_regs : (s.setDram i x).regs = s.regs := rfl
@[simp] theorem State.setDram_counters : (s.setDram i x).counters = s.counters := rfl
@[simp] theorem State.setDram_holds : (s.setDram i x).holds = s.holds := rfl
@[simp] theorem State.setDram_snapNext : (s.setDram i x).snapNext = s.snapNext := rfl
@[simp] theorem State.setDram_once : (s.setDram i x).once = s.once := rfl
@[simp] theorem State.setDram_mem : (s.setDram i x).mem = s.mem := rfl
@[simp] theorem State.setDram_poison : (s.setDram i x).poison = s.poison := rfl
@[simp] theorem State.setDram_upsets : (s.setDram i x).upsets = s.upsets := rfl
@[simp] theorem State.setDram_wire : (s.setDram i x).wire = s.wire := rfl
@[simp] theorem State.setDram_engines : (s.setDram i x).engines = s.engines := rfl
@[simp] theorem State.setDram_cores : (s.setDram i x).cores = s.cores := rfl
@[simp] theorem State.setDram_tokens : (s.setDram i x).tokens = s.tokens := rfl
@[simp] theorem State.setDram_held : (s.setDram i x).held = s.held := rfl
@[simp] theorem State.setDram_tokMsgs : (s.setDram i x).tokMsgs = s.tokMsgs := rfl
@[simp] theorem State.setDram_allots : (s.setDram i x).allots = s.allots := rfl
@[simp] theorem State.setDram_dieMap : (s.setDram i x).dieMap = s.dieMap := rfl
@[simp] theorem State.setDram_routes : (s.setDram i x).routes = s.routes := rfl
@[simp] theorem State.setDram_loader : (s.setDram i x).loader = s.loader := rfl
@[simp] theorem State.setDram_turns : (s.setDram i x).turns = s.turns := rfl
@[simp] theorem State.setDram_energy : (s.setDram i x).energy = s.energy := rfl
@[simp] theorem State.setDram_sweeps : (s.setDram i x).sweeps = s.sweeps := rfl
@[simp] theorem State.setDram_save : (s.setDram i x).save = s.save := rfl
@[simp] theorem State.setDram_sites : (s.setDram i x).sites = s.sites := rfl
@[simp] theorem State.setDram_cluReads : (s.setDram i x).cluReads = s.cluReads := rfl
@[simp] theorem State.setDram_siteSel : (s.setDram i x).siteSel = s.siteSel := rfl
@[simp] theorem State.setDram_siteIgnored : (s.setDram i x).siteIgnored = s.siteIgnored := rfl
@[simp] theorem State.setDram_banks : (s.setDram i x).banks = s.banks := rfl
@[simp] theorem State.setDram_testers : (s.setDram i x).testers = s.testers := rfl
@[simp] theorem State.setDram_lines : (s.setDram i x).lines = s.lines := rfl
@[simp] theorem State.setDram_dirs : (s.setDram i x).dirs = s.dirs := rfl
@[simp] theorem State.setDram_llc : (s.setDram i x).llc = s.llc := rfl
@[simp] theorem State.setDram_homes : (s.setDram i x).homes = s.homes := rfl
@[simp] theorem State.setDram_retried : (s.setDram i x).retried = s.retried := rfl
@[simp] theorem State.setDram_links : (s.setDram i x).links = s.links := rfl
@[simp] theorem State.setDram_sendq : (s.setDram i x).sendq = s.sendq := rfl
@[simp] theorem State.setDram_floor : (s.setDram i x).floor = s.floor := rfl
@[simp] theorem State.setDram_presentDies : (s.setDram i x).presentDies = s.presentDies := rfl
@[simp] theorem State.setDram_ladders : (s.setDram i x).ladders = s.ladders := rfl
@[simp] theorem State.setDram_cmps : (s.setDram i x).cmps = s.cmps := rfl
@[simp] theorem State.setDram_ncl : (s.setDram i x).ncl = s.ncl := rfl
@[simp] theorem State.setDram_intakes : (s.setDram i x).intakes = s.intakes := rfl
@[simp] theorem State.setDram_sheets : (s.setDram i x).sheets = s.sheets := rfl
@[simp] theorem State.setDram_security : (s.setDram i x).security = s.security := rfl
@[simp] theorem State.setDram_power : (s.setDram i x).power = s.power := rfl
@[simp] theorem State.setDram_harts : (s.setDram i x).harts = s.harts := rfl
@[simp] theorem State.setDram_tap : (s.setDram i x).tap = s.tap := rfl
@[simp] theorem State.setDram_rom : (s.setDram i x).rom = s.rom := rfl
@[simp] theorem State.setDram_flash : (s.setDram i x).flash = s.flash := rfl
@[simp] theorem State.setDram_eeprom : (s.setDram i x).eeprom = s.eeprom := rfl
@[simp] theorem State.setDram_out : (s.setDram i x).out = s.out := rfl
@[simp] theorem State.setDram_fresh : (s.setDram i x).fresh = s.fresh := rfl
@[simp] theorem State.setDram_blk_eq (q : Nat) : (s.setDram i x).blk q = s.blk q := rfl
@[simp] theorem State.setDram_engine_eq (q : Nat) : (s.setDram i x).engine q = s.engine q := rfl
@[simp] theorem State.setDram_core_eq (q : Nat) : (s.setDram i x).core q = s.core q := rfl
@[simp] theorem State.setDram_token_eq (q : Nat) : (s.setDram i x).token q = s.token q := rfl
@[simp] theorem State.setDram_site_eq (q : Nat) : (s.setDram i x).site q = s.site q := rfl
@[simp] theorem State.setDram_sheet_eq (q : Nat) : (s.setDram i x).sheet q = s.sheet q := rfl
@[simp] theorem State.setDram_sweep_eq (q : Nat) : (s.setDram i x).sweep q = s.sweep q := rfl
@[simp] theorem State.setDram_ladder_eq (q : Nat) : (s.setDram i x).ladder q = s.ladder q := rfl
@[simp] theorem State.setDram_link_eq (q : Nat) : (s.setDram i x).link q = s.link q := rfl
@[simp] theorem State.setDram_home_eq (q : Nat) : (s.setDram i x).home q = s.home q := rfl
@[simp] theorem State.setDram_cmp_eq (q : Nat) : (s.setDram i x).cmp q = s.cmp q := rfl
@[simp] theorem State.setDram_intake_eq (q : Nat) : (s.setDram i x).intake q = s.intake q := rfl
@[simp] theorem State.setDram_dir_eq (q : Nat) : (s.setDram i x).dir q = s.dir q := rfl
@[simp] theorem State.setDram_ring_eq (q : Nat) : (s.setDram i x).ring q = s.ring q := rfl
@[simp] theorem State.setDram_reg_eq (q r : Nat) : (s.setDram i x).reg q r = s.reg q r := rfl
end

/-! ### setRing -/

section
variable (s : State) (i : Nat) (x : Ring)
@[simp] theorem State.setRing_pending : (s.setRing i x).pending = s.pending := rfl
@[simp] theorem State.setRing_blocks : (s.setRing i x).blocks = s.blocks := rfl
@[simp] theorem State.setRing_regs : (s.setRing i x).regs = s.regs := rfl
@[simp] theorem State.setRing_counters : (s.setRing i x).counters = s.counters := rfl
@[simp] theorem State.setRing_holds : (s.setRing i x).holds = s.holds := rfl
@[simp] theorem State.setRing_snapNext : (s.setRing i x).snapNext = s.snapNext := rfl
@[simp] theorem State.setRing_once : (s.setRing i x).once = s.once := rfl
@[simp] theorem State.setRing_mem : (s.setRing i x).mem = s.mem := rfl
@[simp] theorem State.setRing_poison : (s.setRing i x).poison = s.poison := rfl
@[simp] theorem State.setRing_upsets : (s.setRing i x).upsets = s.upsets := rfl
@[simp] theorem State.setRing_wire : (s.setRing i x).wire = s.wire := rfl
@[simp] theorem State.setRing_engines : (s.setRing i x).engines = s.engines := rfl
@[simp] theorem State.setRing_cores : (s.setRing i x).cores = s.cores := rfl
@[simp] theorem State.setRing_tokens : (s.setRing i x).tokens = s.tokens := rfl
@[simp] theorem State.setRing_held : (s.setRing i x).held = s.held := rfl
@[simp] theorem State.setRing_tokMsgs : (s.setRing i x).tokMsgs = s.tokMsgs := rfl
@[simp] theorem State.setRing_allots : (s.setRing i x).allots = s.allots := rfl
@[simp] theorem State.setRing_dieMap : (s.setRing i x).dieMap = s.dieMap := rfl
@[simp] theorem State.setRing_routes : (s.setRing i x).routes = s.routes := rfl
@[simp] theorem State.setRing_loader : (s.setRing i x).loader = s.loader := rfl
@[simp] theorem State.setRing_turns : (s.setRing i x).turns = s.turns := rfl
@[simp] theorem State.setRing_energy : (s.setRing i x).energy = s.energy := rfl
@[simp] theorem State.setRing_sweeps : (s.setRing i x).sweeps = s.sweeps := rfl
@[simp] theorem State.setRing_save : (s.setRing i x).save = s.save := rfl
@[simp] theorem State.setRing_sites : (s.setRing i x).sites = s.sites := rfl
@[simp] theorem State.setRing_cluReads : (s.setRing i x).cluReads = s.cluReads := rfl
@[simp] theorem State.setRing_siteSel : (s.setRing i x).siteSel = s.siteSel := rfl
@[simp] theorem State.setRing_siteIgnored : (s.setRing i x).siteIgnored = s.siteIgnored := rfl
@[simp] theorem State.setRing_banks : (s.setRing i x).banks = s.banks := rfl
@[simp] theorem State.setRing_testers : (s.setRing i x).testers = s.testers := rfl
@[simp] theorem State.setRing_lines : (s.setRing i x).lines = s.lines := rfl
@[simp] theorem State.setRing_dirs : (s.setRing i x).dirs = s.dirs := rfl
@[simp] theorem State.setRing_llc : (s.setRing i x).llc = s.llc := rfl
@[simp] theorem State.setRing_homes : (s.setRing i x).homes = s.homes := rfl
@[simp] theorem State.setRing_retried : (s.setRing i x).retried = s.retried := rfl
@[simp] theorem State.setRing_drams : (s.setRing i x).drams = s.drams := rfl
@[simp] theorem State.setRing_links : (s.setRing i x).links = s.links := rfl
@[simp] theorem State.setRing_sendq : (s.setRing i x).sendq = s.sendq := rfl
@[simp] theorem State.setRing_floor : (s.setRing i x).floor = s.floor := rfl
@[simp] theorem State.setRing_presentDies : (s.setRing i x).presentDies = s.presentDies := rfl
@[simp] theorem State.setRing_ladders : (s.setRing i x).ladders = s.ladders := rfl
@[simp] theorem State.setRing_cmps : (s.setRing i x).cmps = s.cmps := rfl
@[simp] theorem State.setRing_intakes : (s.setRing i x).intakes = s.intakes := rfl
@[simp] theorem State.setRing_sheets : (s.setRing i x).sheets = s.sheets := rfl
@[simp] theorem State.setRing_security : (s.setRing i x).security = s.security := rfl
@[simp] theorem State.setRing_power : (s.setRing i x).power = s.power := rfl
@[simp] theorem State.setRing_harts : (s.setRing i x).harts = s.harts := rfl
@[simp] theorem State.setRing_tap : (s.setRing i x).tap = s.tap := rfl
@[simp] theorem State.setRing_rom : (s.setRing i x).rom = s.rom := rfl
@[simp] theorem State.setRing_flash : (s.setRing i x).flash = s.flash := rfl
@[simp] theorem State.setRing_eeprom : (s.setRing i x).eeprom = s.eeprom := rfl
@[simp] theorem State.setRing_out : (s.setRing i x).out = s.out := rfl
@[simp] theorem State.setRing_fresh : (s.setRing i x).fresh = s.fresh := rfl
@[simp] theorem State.setRing_blk_eq (q : Nat) : (s.setRing i x).blk q = s.blk q := rfl
@[simp] theorem State.setRing_engine_eq (q : Nat) : (s.setRing i x).engine q = s.engine q := rfl
@[simp] theorem State.setRing_core_eq (q : Nat) : (s.setRing i x).core q = s.core q := rfl
@[simp] theorem State.setRing_token_eq (q : Nat) : (s.setRing i x).token q = s.token q := rfl
@[simp] theorem State.setRing_site_eq (q : Nat) : (s.setRing i x).site q = s.site q := rfl
@[simp] theorem State.setRing_sheet_eq (q : Nat) : (s.setRing i x).sheet q = s.sheet q := rfl
@[simp] theorem State.setRing_sweep_eq (q : Nat) : (s.setRing i x).sweep q = s.sweep q := rfl
@[simp] theorem State.setRing_ladder_eq (q : Nat) : (s.setRing i x).ladder q = s.ladder q := rfl
@[simp] theorem State.setRing_link_eq (q : Nat) : (s.setRing i x).link q = s.link q := rfl
@[simp] theorem State.setRing_home_eq (q : Nat) : (s.setRing i x).home q = s.home q := rfl
@[simp] theorem State.setRing_cmp_eq (q : Nat) : (s.setRing i x).cmp q = s.cmp q := rfl
@[simp] theorem State.setRing_intake_eq (q : Nat) : (s.setRing i x).intake q = s.intake q := rfl
@[simp] theorem State.setRing_dram_eq (q : Nat) : (s.setRing i x).dram q = s.dram q := rfl
@[simp] theorem State.setRing_dir_eq (q : Nat) : (s.setRing i x).dir q = s.dir q := rfl
@[simp] theorem State.setRing_reg_eq (q r : Nat) : (s.setRing i x).reg q r = s.reg q r := rfl
end

/-! ### setNcl -/

section
variable (s : State) (x : Ncl)
@[simp] theorem State.setNcl_pending : (s.setNcl x).pending = s.pending := rfl
@[simp] theorem State.setNcl_blocks : (s.setNcl x).blocks = s.blocks := rfl
@[simp] theorem State.setNcl_regs : (s.setNcl x).regs = s.regs := rfl
@[simp] theorem State.setNcl_counters : (s.setNcl x).counters = s.counters := rfl
@[simp] theorem State.setNcl_holds : (s.setNcl x).holds = s.holds := rfl
@[simp] theorem State.setNcl_snapNext : (s.setNcl x).snapNext = s.snapNext := rfl
@[simp] theorem State.setNcl_once : (s.setNcl x).once = s.once := rfl
@[simp] theorem State.setNcl_mem : (s.setNcl x).mem = s.mem := rfl
@[simp] theorem State.setNcl_poison : (s.setNcl x).poison = s.poison := rfl
@[simp] theorem State.setNcl_upsets : (s.setNcl x).upsets = s.upsets := rfl
@[simp] theorem State.setNcl_wire : (s.setNcl x).wire = s.wire := rfl
@[simp] theorem State.setNcl_engines : (s.setNcl x).engines = s.engines := rfl
@[simp] theorem State.setNcl_cores : (s.setNcl x).cores = s.cores := rfl
@[simp] theorem State.setNcl_tokens : (s.setNcl x).tokens = s.tokens := rfl
@[simp] theorem State.setNcl_held : (s.setNcl x).held = s.held := rfl
@[simp] theorem State.setNcl_tokMsgs : (s.setNcl x).tokMsgs = s.tokMsgs := rfl
@[simp] theorem State.setNcl_allots : (s.setNcl x).allots = s.allots := rfl
@[simp] theorem State.setNcl_dieMap : (s.setNcl x).dieMap = s.dieMap := rfl
@[simp] theorem State.setNcl_routes : (s.setNcl x).routes = s.routes := rfl
@[simp] theorem State.setNcl_loader : (s.setNcl x).loader = s.loader := rfl
@[simp] theorem State.setNcl_turns : (s.setNcl x).turns = s.turns := rfl
@[simp] theorem State.setNcl_energy : (s.setNcl x).energy = s.energy := rfl
@[simp] theorem State.setNcl_sweeps : (s.setNcl x).sweeps = s.sweeps := rfl
@[simp] theorem State.setNcl_save : (s.setNcl x).save = s.save := rfl
@[simp] theorem State.setNcl_sites : (s.setNcl x).sites = s.sites := rfl
@[simp] theorem State.setNcl_cluReads : (s.setNcl x).cluReads = s.cluReads := rfl
@[simp] theorem State.setNcl_siteSel : (s.setNcl x).siteSel = s.siteSel := rfl
@[simp] theorem State.setNcl_siteIgnored : (s.setNcl x).siteIgnored = s.siteIgnored := rfl
@[simp] theorem State.setNcl_banks : (s.setNcl x).banks = s.banks := rfl
@[simp] theorem State.setNcl_testers : (s.setNcl x).testers = s.testers := rfl
@[simp] theorem State.setNcl_lines : (s.setNcl x).lines = s.lines := rfl
@[simp] theorem State.setNcl_dirs : (s.setNcl x).dirs = s.dirs := rfl
@[simp] theorem State.setNcl_llc : (s.setNcl x).llc = s.llc := rfl
@[simp] theorem State.setNcl_homes : (s.setNcl x).homes = s.homes := rfl
@[simp] theorem State.setNcl_retried : (s.setNcl x).retried = s.retried := rfl
@[simp] theorem State.setNcl_drams : (s.setNcl x).drams = s.drams := rfl
@[simp] theorem State.setNcl_links : (s.setNcl x).links = s.links := rfl
@[simp] theorem State.setNcl_sendq : (s.setNcl x).sendq = s.sendq := rfl
@[simp] theorem State.setNcl_floor : (s.setNcl x).floor = s.floor := rfl
@[simp] theorem State.setNcl_presentDies : (s.setNcl x).presentDies = s.presentDies := rfl
@[simp] theorem State.setNcl_ladders : (s.setNcl x).ladders = s.ladders := rfl
@[simp] theorem State.setNcl_cmps : (s.setNcl x).cmps = s.cmps := rfl
@[simp] theorem State.setNcl_intakes : (s.setNcl x).intakes = s.intakes := rfl
@[simp] theorem State.setNcl_sheets : (s.setNcl x).sheets = s.sheets := rfl
@[simp] theorem State.setNcl_security : (s.setNcl x).security = s.security := rfl
@[simp] theorem State.setNcl_power : (s.setNcl x).power = s.power := rfl
@[simp] theorem State.setNcl_harts : (s.setNcl x).harts = s.harts := rfl
@[simp] theorem State.setNcl_tap : (s.setNcl x).tap = s.tap := rfl
@[simp] theorem State.setNcl_rom : (s.setNcl x).rom = s.rom := rfl
@[simp] theorem State.setNcl_flash : (s.setNcl x).flash = s.flash := rfl
@[simp] theorem State.setNcl_eeprom : (s.setNcl x).eeprom = s.eeprom := rfl
@[simp] theorem State.setNcl_out : (s.setNcl x).out = s.out := rfl
@[simp] theorem State.setNcl_fresh : (s.setNcl x).fresh = s.fresh := rfl
@[simp] theorem State.setNcl_blk_eq (q : Nat) : (s.setNcl x).blk q = s.blk q := rfl
@[simp] theorem State.setNcl_engine_eq (q : Nat) : (s.setNcl x).engine q = s.engine q := rfl
@[simp] theorem State.setNcl_core_eq (q : Nat) : (s.setNcl x).core q = s.core q := rfl
@[simp] theorem State.setNcl_token_eq (q : Nat) : (s.setNcl x).token q = s.token q := rfl
@[simp] theorem State.setNcl_site_eq (q : Nat) : (s.setNcl x).site q = s.site q := rfl
@[simp] theorem State.setNcl_sheet_eq (q : Nat) : (s.setNcl x).sheet q = s.sheet q := rfl
@[simp] theorem State.setNcl_sweep_eq (q : Nat) : (s.setNcl x).sweep q = s.sweep q := rfl
@[simp] theorem State.setNcl_ladder_eq (q : Nat) : (s.setNcl x).ladder q = s.ladder q := rfl
@[simp] theorem State.setNcl_link_eq (q : Nat) : (s.setNcl x).link q = s.link q := rfl
@[simp] theorem State.setNcl_home_eq (q : Nat) : (s.setNcl x).home q = s.home q := rfl
@[simp] theorem State.setNcl_cmp_eq (q : Nat) : (s.setNcl x).cmp q = s.cmp q := rfl
@[simp] theorem State.setNcl_intake_eq (q : Nat) : (s.setNcl x).intake q = s.intake q := rfl
@[simp] theorem State.setNcl_dram_eq (q : Nat) : (s.setNcl x).dram q = s.dram q := rfl
@[simp] theorem State.setNcl_dir_eq (q : Nat) : (s.setNcl x).dir q = s.dir q := rfl
@[simp] theorem State.setNcl_reg_eq (q r : Nat) : (s.setNcl x).reg q r = s.reg q r := rfl
end

/-! ### setBank -/

section
variable (s : State) (k i : Nat) (x : BankSt)
@[simp] theorem State.setBank_pending : (s.setBank k i x).pending = s.pending := rfl
@[simp] theorem State.setBank_blocks : (s.setBank k i x).blocks = s.blocks := rfl
@[simp] theorem State.setBank_regs : (s.setBank k i x).regs = s.regs := rfl
@[simp] theorem State.setBank_counters : (s.setBank k i x).counters = s.counters := rfl
@[simp] theorem State.setBank_holds : (s.setBank k i x).holds = s.holds := rfl
@[simp] theorem State.setBank_snapNext : (s.setBank k i x).snapNext = s.snapNext := rfl
@[simp] theorem State.setBank_once : (s.setBank k i x).once = s.once := rfl
@[simp] theorem State.setBank_mem : (s.setBank k i x).mem = s.mem := rfl
@[simp] theorem State.setBank_poison : (s.setBank k i x).poison = s.poison := rfl
@[simp] theorem State.setBank_upsets : (s.setBank k i x).upsets = s.upsets := rfl
@[simp] theorem State.setBank_wire : (s.setBank k i x).wire = s.wire := rfl
@[simp] theorem State.setBank_engines : (s.setBank k i x).engines = s.engines := rfl
@[simp] theorem State.setBank_cores : (s.setBank k i x).cores = s.cores := rfl
@[simp] theorem State.setBank_tokens : (s.setBank k i x).tokens = s.tokens := rfl
@[simp] theorem State.setBank_held : (s.setBank k i x).held = s.held := rfl
@[simp] theorem State.setBank_tokMsgs : (s.setBank k i x).tokMsgs = s.tokMsgs := rfl
@[simp] theorem State.setBank_allots : (s.setBank k i x).allots = s.allots := rfl
@[simp] theorem State.setBank_dieMap : (s.setBank k i x).dieMap = s.dieMap := rfl
@[simp] theorem State.setBank_routes : (s.setBank k i x).routes = s.routes := rfl
@[simp] theorem State.setBank_loader : (s.setBank k i x).loader = s.loader := rfl
@[simp] theorem State.setBank_turns : (s.setBank k i x).turns = s.turns := rfl
@[simp] theorem State.setBank_energy : (s.setBank k i x).energy = s.energy := rfl
@[simp] theorem State.setBank_sweeps : (s.setBank k i x).sweeps = s.sweeps := rfl
@[simp] theorem State.setBank_save : (s.setBank k i x).save = s.save := rfl
@[simp] theorem State.setBank_sites : (s.setBank k i x).sites = s.sites := rfl
@[simp] theorem State.setBank_cluReads : (s.setBank k i x).cluReads = s.cluReads := rfl
@[simp] theorem State.setBank_siteSel : (s.setBank k i x).siteSel = s.siteSel := rfl
@[simp] theorem State.setBank_siteIgnored : (s.setBank k i x).siteIgnored = s.siteIgnored := rfl
@[simp] theorem State.setBank_testers : (s.setBank k i x).testers = s.testers := rfl
@[simp] theorem State.setBank_lines : (s.setBank k i x).lines = s.lines := rfl
@[simp] theorem State.setBank_dirs : (s.setBank k i x).dirs = s.dirs := rfl
@[simp] theorem State.setBank_llc : (s.setBank k i x).llc = s.llc := rfl
@[simp] theorem State.setBank_homes : (s.setBank k i x).homes = s.homes := rfl
@[simp] theorem State.setBank_retried : (s.setBank k i x).retried = s.retried := rfl
@[simp] theorem State.setBank_drams : (s.setBank k i x).drams = s.drams := rfl
@[simp] theorem State.setBank_links : (s.setBank k i x).links = s.links := rfl
@[simp] theorem State.setBank_sendq : (s.setBank k i x).sendq = s.sendq := rfl
@[simp] theorem State.setBank_floor : (s.setBank k i x).floor = s.floor := rfl
@[simp] theorem State.setBank_presentDies : (s.setBank k i x).presentDies = s.presentDies := rfl
@[simp] theorem State.setBank_ladders : (s.setBank k i x).ladders = s.ladders := rfl
@[simp] theorem State.setBank_cmps : (s.setBank k i x).cmps = s.cmps := rfl
@[simp] theorem State.setBank_ncl : (s.setBank k i x).ncl = s.ncl := rfl
@[simp] theorem State.setBank_intakes : (s.setBank k i x).intakes = s.intakes := rfl
@[simp] theorem State.setBank_sheets : (s.setBank k i x).sheets = s.sheets := rfl
@[simp] theorem State.setBank_security : (s.setBank k i x).security = s.security := rfl
@[simp] theorem State.setBank_power : (s.setBank k i x).power = s.power := rfl
@[simp] theorem State.setBank_harts : (s.setBank k i x).harts = s.harts := rfl
@[simp] theorem State.setBank_tap : (s.setBank k i x).tap = s.tap := rfl
@[simp] theorem State.setBank_rom : (s.setBank k i x).rom = s.rom := rfl
@[simp] theorem State.setBank_flash : (s.setBank k i x).flash = s.flash := rfl
@[simp] theorem State.setBank_eeprom : (s.setBank k i x).eeprom = s.eeprom := rfl
@[simp] theorem State.setBank_out : (s.setBank k i x).out = s.out := rfl
@[simp] theorem State.setBank_fresh : (s.setBank k i x).fresh = s.fresh := rfl
@[simp] theorem State.setBank_blk_eq (q : Nat) : (s.setBank k i x).blk q = s.blk q := rfl
@[simp] theorem State.setBank_engine_eq (q : Nat) : (s.setBank k i x).engine q = s.engine q := rfl
@[simp] theorem State.setBank_core_eq (q : Nat) : (s.setBank k i x).core q = s.core q := rfl
@[simp] theorem State.setBank_token_eq (q : Nat) : (s.setBank k i x).token q = s.token q := rfl
@[simp] theorem State.setBank_site_eq (q : Nat) : (s.setBank k i x).site q = s.site q := rfl
@[simp] theorem State.setBank_sheet_eq (q : Nat) : (s.setBank k i x).sheet q = s.sheet q := rfl
@[simp] theorem State.setBank_sweep_eq (q : Nat) : (s.setBank k i x).sweep q = s.sweep q := rfl
@[simp] theorem State.setBank_ladder_eq (q : Nat) : (s.setBank k i x).ladder q = s.ladder q := rfl
@[simp] theorem State.setBank_link_eq (q : Nat) : (s.setBank k i x).link q = s.link q := rfl
@[simp] theorem State.setBank_home_eq (q : Nat) : (s.setBank k i x).home q = s.home q := rfl
@[simp] theorem State.setBank_cmp_eq (q : Nat) : (s.setBank k i x).cmp q = s.cmp q := rfl
@[simp] theorem State.setBank_intake_eq (q : Nat) : (s.setBank k i x).intake q = s.intake q := rfl
@[simp] theorem State.setBank_dram_eq (q : Nat) : (s.setBank k i x).dram q = s.dram q := rfl
@[simp] theorem State.setBank_dir_eq (q : Nat) : (s.setBank k i x).dir q = s.dir q := rfl
@[simp] theorem State.setBank_ring_eq (q : Nat) : (s.setBank k i x).ring q = s.ring q := rfl
@[simp] theorem State.setBank_reg_eq (q r : Nat) : (s.setBank k i x).reg q r = s.reg q r := rfl
end

/-! ### setDir -/

section
variable (s : State) (l : Nat) (x : DirEntry)
@[simp] theorem State.setDir_pending : (s.setDir l x).pending = s.pending := rfl
@[simp] theorem State.setDir_blocks : (s.setDir l x).blocks = s.blocks := rfl
@[simp] theorem State.setDir_regs : (s.setDir l x).regs = s.regs := rfl
@[simp] theorem State.setDir_counters : (s.setDir l x).counters = s.counters := rfl
@[simp] theorem State.setDir_holds : (s.setDir l x).holds = s.holds := rfl
@[simp] theorem State.setDir_snapNext : (s.setDir l x).snapNext = s.snapNext := rfl
@[simp] theorem State.setDir_once : (s.setDir l x).once = s.once := rfl
@[simp] theorem State.setDir_mem : (s.setDir l x).mem = s.mem := rfl
@[simp] theorem State.setDir_poison : (s.setDir l x).poison = s.poison := rfl
@[simp] theorem State.setDir_upsets : (s.setDir l x).upsets = s.upsets := rfl
@[simp] theorem State.setDir_wire : (s.setDir l x).wire = s.wire := rfl
@[simp] theorem State.setDir_engines : (s.setDir l x).engines = s.engines := rfl
@[simp] theorem State.setDir_cores : (s.setDir l x).cores = s.cores := rfl
@[simp] theorem State.setDir_tokens : (s.setDir l x).tokens = s.tokens := rfl
@[simp] theorem State.setDir_held : (s.setDir l x).held = s.held := rfl
@[simp] theorem State.setDir_tokMsgs : (s.setDir l x).tokMsgs = s.tokMsgs := rfl
@[simp] theorem State.setDir_allots : (s.setDir l x).allots = s.allots := rfl
@[simp] theorem State.setDir_dieMap : (s.setDir l x).dieMap = s.dieMap := rfl
@[simp] theorem State.setDir_routes : (s.setDir l x).routes = s.routes := rfl
@[simp] theorem State.setDir_loader : (s.setDir l x).loader = s.loader := rfl
@[simp] theorem State.setDir_turns : (s.setDir l x).turns = s.turns := rfl
@[simp] theorem State.setDir_energy : (s.setDir l x).energy = s.energy := rfl
@[simp] theorem State.setDir_sweeps : (s.setDir l x).sweeps = s.sweeps := rfl
@[simp] theorem State.setDir_save : (s.setDir l x).save = s.save := rfl
@[simp] theorem State.setDir_sites : (s.setDir l x).sites = s.sites := rfl
@[simp] theorem State.setDir_cluReads : (s.setDir l x).cluReads = s.cluReads := rfl
@[simp] theorem State.setDir_siteSel : (s.setDir l x).siteSel = s.siteSel := rfl
@[simp] theorem State.setDir_siteIgnored : (s.setDir l x).siteIgnored = s.siteIgnored := rfl
@[simp] theorem State.setDir_banks : (s.setDir l x).banks = s.banks := rfl
@[simp] theorem State.setDir_testers : (s.setDir l x).testers = s.testers := rfl
@[simp] theorem State.setDir_lines : (s.setDir l x).lines = s.lines := rfl
@[simp] theorem State.setDir_llc : (s.setDir l x).llc = s.llc := rfl
@[simp] theorem State.setDir_homes : (s.setDir l x).homes = s.homes := rfl
@[simp] theorem State.setDir_retried : (s.setDir l x).retried = s.retried := rfl
@[simp] theorem State.setDir_drams : (s.setDir l x).drams = s.drams := rfl
@[simp] theorem State.setDir_links : (s.setDir l x).links = s.links := rfl
@[simp] theorem State.setDir_sendq : (s.setDir l x).sendq = s.sendq := rfl
@[simp] theorem State.setDir_floor : (s.setDir l x).floor = s.floor := rfl
@[simp] theorem State.setDir_presentDies : (s.setDir l x).presentDies = s.presentDies := rfl
@[simp] theorem State.setDir_ladders : (s.setDir l x).ladders = s.ladders := rfl
@[simp] theorem State.setDir_cmps : (s.setDir l x).cmps = s.cmps := rfl
@[simp] theorem State.setDir_ncl : (s.setDir l x).ncl = s.ncl := rfl
@[simp] theorem State.setDir_intakes : (s.setDir l x).intakes = s.intakes := rfl
@[simp] theorem State.setDir_sheets : (s.setDir l x).sheets = s.sheets := rfl
@[simp] theorem State.setDir_security : (s.setDir l x).security = s.security := rfl
@[simp] theorem State.setDir_power : (s.setDir l x).power = s.power := rfl
@[simp] theorem State.setDir_harts : (s.setDir l x).harts = s.harts := rfl
@[simp] theorem State.setDir_tap : (s.setDir l x).tap = s.tap := rfl
@[simp] theorem State.setDir_rom : (s.setDir l x).rom = s.rom := rfl
@[simp] theorem State.setDir_flash : (s.setDir l x).flash = s.flash := rfl
@[simp] theorem State.setDir_eeprom : (s.setDir l x).eeprom = s.eeprom := rfl
@[simp] theorem State.setDir_out : (s.setDir l x).out = s.out := rfl
@[simp] theorem State.setDir_fresh : (s.setDir l x).fresh = s.fresh := rfl
@[simp] theorem State.setDir_blk_eq (q : Nat) : (s.setDir l x).blk q = s.blk q := rfl
@[simp] theorem State.setDir_engine_eq (q : Nat) : (s.setDir l x).engine q = s.engine q := rfl
@[simp] theorem State.setDir_core_eq (q : Nat) : (s.setDir l x).core q = s.core q := rfl
@[simp] theorem State.setDir_token_eq (q : Nat) : (s.setDir l x).token q = s.token q := rfl
@[simp] theorem State.setDir_site_eq (q : Nat) : (s.setDir l x).site q = s.site q := rfl
@[simp] theorem State.setDir_sheet_eq (q : Nat) : (s.setDir l x).sheet q = s.sheet q := rfl
@[simp] theorem State.setDir_sweep_eq (q : Nat) : (s.setDir l x).sweep q = s.sweep q := rfl
@[simp] theorem State.setDir_ladder_eq (q : Nat) : (s.setDir l x).ladder q = s.ladder q := rfl
@[simp] theorem State.setDir_link_eq (q : Nat) : (s.setDir l x).link q = s.link q := rfl
@[simp] theorem State.setDir_home_eq (q : Nat) : (s.setDir l x).home q = s.home q := rfl
@[simp] theorem State.setDir_cmp_eq (q : Nat) : (s.setDir l x).cmp q = s.cmp q := rfl
@[simp] theorem State.setDir_intake_eq (q : Nat) : (s.setDir l x).intake q = s.intake q := rfl
@[simp] theorem State.setDir_dram_eq (q : Nat) : (s.setDir l x).dram q = s.dram q := rfl
@[simp] theorem State.setDir_ring_eq (q : Nat) : (s.setDir l x).ring q = s.ring q := rfl
@[simp] theorem State.setDir_reg_eq (q r : Nat) : (s.setDir l x).reg q r = s.reg q r := rfl
end

/-! ### setHeld1 -/

section
variable (s : State) (a l : Nat) (x : HeldLine)
@[simp] theorem State.setHeld1_pending : (s.setHeld1 a l x).pending = s.pending := rfl
@[simp] theorem State.setHeld1_blocks : (s.setHeld1 a l x).blocks = s.blocks := rfl
@[simp] theorem State.setHeld1_regs : (s.setHeld1 a l x).regs = s.regs := rfl
@[simp] theorem State.setHeld1_counters : (s.setHeld1 a l x).counters = s.counters := rfl
@[simp] theorem State.setHeld1_holds : (s.setHeld1 a l x).holds = s.holds := rfl
@[simp] theorem State.setHeld1_snapNext : (s.setHeld1 a l x).snapNext = s.snapNext := rfl
@[simp] theorem State.setHeld1_once : (s.setHeld1 a l x).once = s.once := rfl
@[simp] theorem State.setHeld1_mem : (s.setHeld1 a l x).mem = s.mem := rfl
@[simp] theorem State.setHeld1_poison : (s.setHeld1 a l x).poison = s.poison := rfl
@[simp] theorem State.setHeld1_upsets : (s.setHeld1 a l x).upsets = s.upsets := rfl
@[simp] theorem State.setHeld1_wire : (s.setHeld1 a l x).wire = s.wire := rfl
@[simp] theorem State.setHeld1_engines : (s.setHeld1 a l x).engines = s.engines := rfl
@[simp] theorem State.setHeld1_cores : (s.setHeld1 a l x).cores = s.cores := rfl
@[simp] theorem State.setHeld1_tokens : (s.setHeld1 a l x).tokens = s.tokens := rfl
@[simp] theorem State.setHeld1_held : (s.setHeld1 a l x).held = s.held := rfl
@[simp] theorem State.setHeld1_tokMsgs : (s.setHeld1 a l x).tokMsgs = s.tokMsgs := rfl
@[simp] theorem State.setHeld1_allots : (s.setHeld1 a l x).allots = s.allots := rfl
@[simp] theorem State.setHeld1_dieMap : (s.setHeld1 a l x).dieMap = s.dieMap := rfl
@[simp] theorem State.setHeld1_routes : (s.setHeld1 a l x).routes = s.routes := rfl
@[simp] theorem State.setHeld1_loader : (s.setHeld1 a l x).loader = s.loader := rfl
@[simp] theorem State.setHeld1_turns : (s.setHeld1 a l x).turns = s.turns := rfl
@[simp] theorem State.setHeld1_energy : (s.setHeld1 a l x).energy = s.energy := rfl
@[simp] theorem State.setHeld1_sweeps : (s.setHeld1 a l x).sweeps = s.sweeps := rfl
@[simp] theorem State.setHeld1_save : (s.setHeld1 a l x).save = s.save := rfl
@[simp] theorem State.setHeld1_sites : (s.setHeld1 a l x).sites = s.sites := rfl
@[simp] theorem State.setHeld1_cluReads : (s.setHeld1 a l x).cluReads = s.cluReads := rfl
@[simp] theorem State.setHeld1_siteSel : (s.setHeld1 a l x).siteSel = s.siteSel := rfl
@[simp] theorem State.setHeld1_siteIgnored : (s.setHeld1 a l x).siteIgnored = s.siteIgnored := rfl
@[simp] theorem State.setHeld1_banks : (s.setHeld1 a l x).banks = s.banks := rfl
@[simp] theorem State.setHeld1_testers : (s.setHeld1 a l x).testers = s.testers := rfl
@[simp] theorem State.setHeld1_dirs : (s.setHeld1 a l x).dirs = s.dirs := rfl
@[simp] theorem State.setHeld1_llc : (s.setHeld1 a l x).llc = s.llc := rfl
@[simp] theorem State.setHeld1_homes : (s.setHeld1 a l x).homes = s.homes := rfl
@[simp] theorem State.setHeld1_retried : (s.setHeld1 a l x).retried = s.retried := rfl
@[simp] theorem State.setHeld1_drams : (s.setHeld1 a l x).drams = s.drams := rfl
@[simp] theorem State.setHeld1_links : (s.setHeld1 a l x).links = s.links := rfl
@[simp] theorem State.setHeld1_sendq : (s.setHeld1 a l x).sendq = s.sendq := rfl
@[simp] theorem State.setHeld1_floor : (s.setHeld1 a l x).floor = s.floor := rfl
@[simp] theorem State.setHeld1_presentDies : (s.setHeld1 a l x).presentDies = s.presentDies := rfl
@[simp] theorem State.setHeld1_ladders : (s.setHeld1 a l x).ladders = s.ladders := rfl
@[simp] theorem State.setHeld1_cmps : (s.setHeld1 a l x).cmps = s.cmps := rfl
@[simp] theorem State.setHeld1_ncl : (s.setHeld1 a l x).ncl = s.ncl := rfl
@[simp] theorem State.setHeld1_intakes : (s.setHeld1 a l x).intakes = s.intakes := rfl
@[simp] theorem State.setHeld1_sheets : (s.setHeld1 a l x).sheets = s.sheets := rfl
@[simp] theorem State.setHeld1_security : (s.setHeld1 a l x).security = s.security := rfl
@[simp] theorem State.setHeld1_power : (s.setHeld1 a l x).power = s.power := rfl
@[simp] theorem State.setHeld1_harts : (s.setHeld1 a l x).harts = s.harts := rfl
@[simp] theorem State.setHeld1_tap : (s.setHeld1 a l x).tap = s.tap := rfl
@[simp] theorem State.setHeld1_rom : (s.setHeld1 a l x).rom = s.rom := rfl
@[simp] theorem State.setHeld1_flash : (s.setHeld1 a l x).flash = s.flash := rfl
@[simp] theorem State.setHeld1_eeprom : (s.setHeld1 a l x).eeprom = s.eeprom := rfl
@[simp] theorem State.setHeld1_out : (s.setHeld1 a l x).out = s.out := rfl
@[simp] theorem State.setHeld1_fresh : (s.setHeld1 a l x).fresh = s.fresh := rfl
@[simp] theorem State.setHeld1_blk_eq (q : Nat) : (s.setHeld1 a l x).blk q = s.blk q := rfl
@[simp] theorem State.setHeld1_engine_eq (q : Nat) : (s.setHeld1 a l x).engine q = s.engine q := rfl
@[simp] theorem State.setHeld1_core_eq (q : Nat) : (s.setHeld1 a l x).core q = s.core q := rfl
@[simp] theorem State.setHeld1_token_eq (q : Nat) : (s.setHeld1 a l x).token q = s.token q := rfl
@[simp] theorem State.setHeld1_site_eq (q : Nat) : (s.setHeld1 a l x).site q = s.site q := rfl
@[simp] theorem State.setHeld1_sheet_eq (q : Nat) : (s.setHeld1 a l x).sheet q = s.sheet q := rfl
@[simp] theorem State.setHeld1_sweep_eq (q : Nat) : (s.setHeld1 a l x).sweep q = s.sweep q := rfl
@[simp] theorem State.setHeld1_ladder_eq (q : Nat) : (s.setHeld1 a l x).ladder q = s.ladder q := rfl
@[simp] theorem State.setHeld1_link_eq (q : Nat) : (s.setHeld1 a l x).link q = s.link q := rfl
@[simp] theorem State.setHeld1_home_eq (q : Nat) : (s.setHeld1 a l x).home q = s.home q := rfl
@[simp] theorem State.setHeld1_cmp_eq (q : Nat) : (s.setHeld1 a l x).cmp q = s.cmp q := rfl
@[simp] theorem State.setHeld1_intake_eq (q : Nat) : (s.setHeld1 a l x).intake q = s.intake q := rfl
@[simp] theorem State.setHeld1_dram_eq (q : Nat) : (s.setHeld1 a l x).dram q = s.dram q := rfl
@[simp] theorem State.setHeld1_dir_eq (q : Nat) : (s.setHeld1 a l x).dir q = s.dir q := rfl
@[simp] theorem State.setHeld1_ring_eq (q : Nat) : (s.setHeld1 a l x).ring q = s.ring q := rfl
@[simp] theorem State.setHeld1_reg_eq (q r : Nat) : (s.setHeld1 a l x).reg q r = s.reg q r := rfl
end

/-! ### setTester -/

section
variable (s : State) (i : Nat) (x : Tester)
@[simp] theorem State.setTester_pending : (s.setTester i x).pending = s.pending := rfl
@[simp] theorem State.setTester_blocks : (s.setTester i x).blocks = s.blocks := rfl
@[simp] theorem State.setTester_regs : (s.setTester i x).regs = s.regs := rfl
@[simp] theorem State.setTester_counters : (s.setTester i x).counters = s.counters := rfl
@[simp] theorem State.setTester_holds : (s.setTester i x).holds = s.holds := rfl
@[simp] theorem State.setTester_snapNext : (s.setTester i x).snapNext = s.snapNext := rfl
@[simp] theorem State.setTester_once : (s.setTester i x).once = s.once := rfl
@[simp] theorem State.setTester_mem : (s.setTester i x).mem = s.mem := rfl
@[simp] theorem State.setTester_poison : (s.setTester i x).poison = s.poison := rfl
@[simp] theorem State.setTester_upsets : (s.setTester i x).upsets = s.upsets := rfl
@[simp] theorem State.setTester_wire : (s.setTester i x).wire = s.wire := rfl
@[simp] theorem State.setTester_engines : (s.setTester i x).engines = s.engines := rfl
@[simp] theorem State.setTester_cores : (s.setTester i x).cores = s.cores := rfl
@[simp] theorem State.setTester_tokens : (s.setTester i x).tokens = s.tokens := rfl
@[simp] theorem State.setTester_held : (s.setTester i x).held = s.held := rfl
@[simp] theorem State.setTester_tokMsgs : (s.setTester i x).tokMsgs = s.tokMsgs := rfl
@[simp] theorem State.setTester_allots : (s.setTester i x).allots = s.allots := rfl
@[simp] theorem State.setTester_dieMap : (s.setTester i x).dieMap = s.dieMap := rfl
@[simp] theorem State.setTester_routes : (s.setTester i x).routes = s.routes := rfl
@[simp] theorem State.setTester_loader : (s.setTester i x).loader = s.loader := rfl
@[simp] theorem State.setTester_turns : (s.setTester i x).turns = s.turns := rfl
@[simp] theorem State.setTester_energy : (s.setTester i x).energy = s.energy := rfl
@[simp] theorem State.setTester_sweeps : (s.setTester i x).sweeps = s.sweeps := rfl
@[simp] theorem State.setTester_save : (s.setTester i x).save = s.save := rfl
@[simp] theorem State.setTester_sites : (s.setTester i x).sites = s.sites := rfl
@[simp] theorem State.setTester_cluReads : (s.setTester i x).cluReads = s.cluReads := rfl
@[simp] theorem State.setTester_siteSel : (s.setTester i x).siteSel = s.siteSel := rfl
@[simp] theorem State.setTester_siteIgnored : (s.setTester i x).siteIgnored = s.siteIgnored := rfl
@[simp] theorem State.setTester_banks : (s.setTester i x).banks = s.banks := rfl
@[simp] theorem State.setTester_lines : (s.setTester i x).lines = s.lines := rfl
@[simp] theorem State.setTester_dirs : (s.setTester i x).dirs = s.dirs := rfl
@[simp] theorem State.setTester_llc : (s.setTester i x).llc = s.llc := rfl
@[simp] theorem State.setTester_homes : (s.setTester i x).homes = s.homes := rfl
@[simp] theorem State.setTester_retried : (s.setTester i x).retried = s.retried := rfl
@[simp] theorem State.setTester_drams : (s.setTester i x).drams = s.drams := rfl
@[simp] theorem State.setTester_links : (s.setTester i x).links = s.links := rfl
@[simp] theorem State.setTester_sendq : (s.setTester i x).sendq = s.sendq := rfl
@[simp] theorem State.setTester_floor : (s.setTester i x).floor = s.floor := rfl
@[simp] theorem State.setTester_presentDies : (s.setTester i x).presentDies = s.presentDies := rfl
@[simp] theorem State.setTester_ladders : (s.setTester i x).ladders = s.ladders := rfl
@[simp] theorem State.setTester_cmps : (s.setTester i x).cmps = s.cmps := rfl
@[simp] theorem State.setTester_ncl : (s.setTester i x).ncl = s.ncl := rfl
@[simp] theorem State.setTester_intakes : (s.setTester i x).intakes = s.intakes := rfl
@[simp] theorem State.setTester_sheets : (s.setTester i x).sheets = s.sheets := rfl
@[simp] theorem State.setTester_security : (s.setTester i x).security = s.security := rfl
@[simp] theorem State.setTester_power : (s.setTester i x).power = s.power := rfl
@[simp] theorem State.setTester_harts : (s.setTester i x).harts = s.harts := rfl
@[simp] theorem State.setTester_tap : (s.setTester i x).tap = s.tap := rfl
@[simp] theorem State.setTester_rom : (s.setTester i x).rom = s.rom := rfl
@[simp] theorem State.setTester_flash : (s.setTester i x).flash = s.flash := rfl
@[simp] theorem State.setTester_eeprom : (s.setTester i x).eeprom = s.eeprom := rfl
@[simp] theorem State.setTester_out : (s.setTester i x).out = s.out := rfl
@[simp] theorem State.setTester_fresh : (s.setTester i x).fresh = s.fresh := rfl
@[simp] theorem State.setTester_blk_eq (q : Nat) : (s.setTester i x).blk q = s.blk q := rfl
@[simp] theorem State.setTester_engine_eq (q : Nat) : (s.setTester i x).engine q = s.engine q := rfl
@[simp] theorem State.setTester_core_eq (q : Nat) : (s.setTester i x).core q = s.core q := rfl
@[simp] theorem State.setTester_token_eq (q : Nat) : (s.setTester i x).token q = s.token q := rfl
@[simp] theorem State.setTester_site_eq (q : Nat) : (s.setTester i x).site q = s.site q := rfl
@[simp] theorem State.setTester_sheet_eq (q : Nat) : (s.setTester i x).sheet q = s.sheet q := rfl
@[simp] theorem State.setTester_sweep_eq (q : Nat) : (s.setTester i x).sweep q = s.sweep q := rfl
@[simp] theorem State.setTester_ladder_eq (q : Nat) : (s.setTester i x).ladder q = s.ladder q := rfl
@[simp] theorem State.setTester_link_eq (q : Nat) : (s.setTester i x).link q = s.link q := rfl
@[simp] theorem State.setTester_home_eq (q : Nat) : (s.setTester i x).home q = s.home q := rfl
@[simp] theorem State.setTester_cmp_eq (q : Nat) : (s.setTester i x).cmp q = s.cmp q := rfl
@[simp] theorem State.setTester_intake_eq (q : Nat) : (s.setTester i x).intake q = s.intake q := rfl
@[simp] theorem State.setTester_dram_eq (q : Nat) : (s.setTester i x).dram q = s.dram q := rfl
@[simp] theorem State.setTester_dir_eq (q : Nat) : (s.setTester i x).dir q = s.dir q := rfl
@[simp] theorem State.setTester_ring_eq (q : Nat) : (s.setTester i x).ring q = s.ring q := rfl
@[simp] theorem State.setTester_reg_eq (q r : Nat) : (s.setTester i x).reg q r = s.reg q r := rfl
end

/-! ### setSave -/

section
variable (s : State) (x : Save)
@[simp] theorem State.setSave_pending : (s.setSave x).pending = s.pending := rfl
@[simp] theorem State.setSave_blocks : (s.setSave x).blocks = s.blocks := rfl
@[simp] theorem State.setSave_regs : (s.setSave x).regs = s.regs := rfl
@[simp] theorem State.setSave_counters : (s.setSave x).counters = s.counters := rfl
@[simp] theorem State.setSave_holds : (s.setSave x).holds = s.holds := rfl
@[simp] theorem State.setSave_snapNext : (s.setSave x).snapNext = s.snapNext := rfl
@[simp] theorem State.setSave_once : (s.setSave x).once = s.once := rfl
@[simp] theorem State.setSave_mem : (s.setSave x).mem = s.mem := rfl
@[simp] theorem State.setSave_poison : (s.setSave x).poison = s.poison := rfl
@[simp] theorem State.setSave_upsets : (s.setSave x).upsets = s.upsets := rfl
@[simp] theorem State.setSave_wire : (s.setSave x).wire = s.wire := rfl
@[simp] theorem State.setSave_engines : (s.setSave x).engines = s.engines := rfl
@[simp] theorem State.setSave_cores : (s.setSave x).cores = s.cores := rfl
@[simp] theorem State.setSave_tokens : (s.setSave x).tokens = s.tokens := rfl
@[simp] theorem State.setSave_held : (s.setSave x).held = s.held := rfl
@[simp] theorem State.setSave_tokMsgs : (s.setSave x).tokMsgs = s.tokMsgs := rfl
@[simp] theorem State.setSave_allots : (s.setSave x).allots = s.allots := rfl
@[simp] theorem State.setSave_dieMap : (s.setSave x).dieMap = s.dieMap := rfl
@[simp] theorem State.setSave_routes : (s.setSave x).routes = s.routes := rfl
@[simp] theorem State.setSave_loader : (s.setSave x).loader = s.loader := rfl
@[simp] theorem State.setSave_turns : (s.setSave x).turns = s.turns := rfl
@[simp] theorem State.setSave_energy : (s.setSave x).energy = s.energy := rfl
@[simp] theorem State.setSave_sweeps : (s.setSave x).sweeps = s.sweeps := rfl
@[simp] theorem State.setSave_sites : (s.setSave x).sites = s.sites := rfl
@[simp] theorem State.setSave_cluReads : (s.setSave x).cluReads = s.cluReads := rfl
@[simp] theorem State.setSave_siteSel : (s.setSave x).siteSel = s.siteSel := rfl
@[simp] theorem State.setSave_siteIgnored : (s.setSave x).siteIgnored = s.siteIgnored := rfl
@[simp] theorem State.setSave_banks : (s.setSave x).banks = s.banks := rfl
@[simp] theorem State.setSave_testers : (s.setSave x).testers = s.testers := rfl
@[simp] theorem State.setSave_lines : (s.setSave x).lines = s.lines := rfl
@[simp] theorem State.setSave_dirs : (s.setSave x).dirs = s.dirs := rfl
@[simp] theorem State.setSave_llc : (s.setSave x).llc = s.llc := rfl
@[simp] theorem State.setSave_homes : (s.setSave x).homes = s.homes := rfl
@[simp] theorem State.setSave_retried : (s.setSave x).retried = s.retried := rfl
@[simp] theorem State.setSave_drams : (s.setSave x).drams = s.drams := rfl
@[simp] theorem State.setSave_links : (s.setSave x).links = s.links := rfl
@[simp] theorem State.setSave_sendq : (s.setSave x).sendq = s.sendq := rfl
@[simp] theorem State.setSave_floor : (s.setSave x).floor = s.floor := rfl
@[simp] theorem State.setSave_presentDies : (s.setSave x).presentDies = s.presentDies := rfl
@[simp] theorem State.setSave_ladders : (s.setSave x).ladders = s.ladders := rfl
@[simp] theorem State.setSave_cmps : (s.setSave x).cmps = s.cmps := rfl
@[simp] theorem State.setSave_ncl : (s.setSave x).ncl = s.ncl := rfl
@[simp] theorem State.setSave_intakes : (s.setSave x).intakes = s.intakes := rfl
@[simp] theorem State.setSave_sheets : (s.setSave x).sheets = s.sheets := rfl
@[simp] theorem State.setSave_security : (s.setSave x).security = s.security := rfl
@[simp] theorem State.setSave_power : (s.setSave x).power = s.power := rfl
@[simp] theorem State.setSave_harts : (s.setSave x).harts = s.harts := rfl
@[simp] theorem State.setSave_tap : (s.setSave x).tap = s.tap := rfl
@[simp] theorem State.setSave_rom : (s.setSave x).rom = s.rom := rfl
@[simp] theorem State.setSave_flash : (s.setSave x).flash = s.flash := rfl
@[simp] theorem State.setSave_eeprom : (s.setSave x).eeprom = s.eeprom := rfl
@[simp] theorem State.setSave_out : (s.setSave x).out = s.out := rfl
@[simp] theorem State.setSave_fresh : (s.setSave x).fresh = s.fresh := rfl
@[simp] theorem State.setSave_blk_eq (q : Nat) : (s.setSave x).blk q = s.blk q := rfl
@[simp] theorem State.setSave_engine_eq (q : Nat) : (s.setSave x).engine q = s.engine q := rfl
@[simp] theorem State.setSave_core_eq (q : Nat) : (s.setSave x).core q = s.core q := rfl
@[simp] theorem State.setSave_token_eq (q : Nat) : (s.setSave x).token q = s.token q := rfl
@[simp] theorem State.setSave_site_eq (q : Nat) : (s.setSave x).site q = s.site q := rfl
@[simp] theorem State.setSave_sheet_eq (q : Nat) : (s.setSave x).sheet q = s.sheet q := rfl
@[simp] theorem State.setSave_sweep_eq (q : Nat) : (s.setSave x).sweep q = s.sweep q := rfl
@[simp] theorem State.setSave_ladder_eq (q : Nat) : (s.setSave x).ladder q = s.ladder q := rfl
@[simp] theorem State.setSave_link_eq (q : Nat) : (s.setSave x).link q = s.link q := rfl
@[simp] theorem State.setSave_home_eq (q : Nat) : (s.setSave x).home q = s.home q := rfl
@[simp] theorem State.setSave_cmp_eq (q : Nat) : (s.setSave x).cmp q = s.cmp q := rfl
@[simp] theorem State.setSave_intake_eq (q : Nat) : (s.setSave x).intake q = s.intake q := rfl
@[simp] theorem State.setSave_dram_eq (q : Nat) : (s.setSave x).dram q = s.dram q := rfl
@[simp] theorem State.setSave_dir_eq (q : Nat) : (s.setSave x).dir q = s.dir q := rfl
@[simp] theorem State.setSave_ring_eq (q : Nat) : (s.setSave x).ring q = s.ring q := rfl
@[simp] theorem State.setSave_reg_eq (q r : Nat) : (s.setSave x).reg q r = s.reg q r := rfl
end

end Sys2Proof.Machine
end

