-- ==== Sys2Proof/Laws/Images.lean ====
section
/-! SUPPORT. Lengths of SHAKE256 outputs, parts of a byte list, and reads of HBM3E that nothing caches and no poison
touches. -/

namespace Sys2Proof.Machine

/-! ### Lengths of SHAKE256 outputs -/

theorem length_leBytes : ∀ (n v : Nat), (leBytes n v).length = n
  | 0, _ => rfl
  | n + 1, v => by simp [leBytes, length_leBytes n]

theorem length_chi (a : Keccak) : (chi a).length = 25 := by simp [chi, laneIxs]

theorem length_iota (rc : BitVec 64) (a : Keccak) : (iota rc a).length = a.length := by cases a <;> rfl

theorem length_rounds : ∀ (l : List (BitVec 64)) (a : Keccak), a.length = 25 →
    (l.foldl (fun b rc => iota rc (chi (rhoPi (theta b)))) a).length = 25
  | [], _, h => h
  | rc :: l, _, _ => length_rounds l _ (by rw [length_iota, length_chi])

theorem length_keccakF (a : Keccak) (h : a.length = 25) : (keccakF a).length = 25 := length_rounds _ a h

theorem length_absorb (a : Keccak) (bs : List Byte) (h : a.length = 25) : (absorb a bs).length = 25 :=
  length_keccakF _ (by simp [h])

theorem length_absorbAll (r : Nat) : ∀ (n : Nat) (a : Keccak) (bs : List Byte), a.length = 25 →
    (absorbAll r n a bs).length = 25
  | 0, _, _, h => h
  | n + 1, a, bs, h => by
    unfold absorbAll
    split
    · exact length_absorb _ _ h
    · exact length_absorbAll r n _ _ (length_absorb _ _ h)

/-- An output shorter than the rate has the length asked for. -/
theorem length_shake256 (bs : List Byte) {n : Nat} (h : n < 136) : (shake256 bs n).length = n := by
  have hn : n / rate256 = 0 := Nat.div_eq_of_lt h
  have ha := length_absorbAll rate256 (bs.length / rate256 + 1) (List.replicate 25 0) bs (by simp)
  unfold shake256 shake
  generalize absorbAll rate256 (bs.length / rate256 + 1) (List.replicate 25 0) bs = k at ha ⊢
  rw [hn]
  simp only [squeeze, List.append_nil, List.length_take, List.length_flatMap, length_leBytes, List.map_const', ha,
    List.sum_replicate, smul_eq_mul]
  unfold rate256
  omega

/-! ### Parts of a byte list -/

theorem slice_flatten (pre post : List (List Byte)) (b : List Byte) {off n : Nat} (ho : pre.flatten.length = off)
    (hn : b.length = n) : slice ((pre ++ b :: post).flatten) off n = b := by
  subst ho hn
  simp [slice]

theorem slice_slice (bs : List Byte) (off n i k : Nat) (h : i + k ≤ n) : slice (slice bs off n) i k = slice bs (off + i) k := by
  simp only [slice, List.drop_take, List.drop_drop, List.take_take]
  congr 1
  omega

/-! ### Reads of memory that nothing caches -/

/-- Nothing is cached, no word is poison or wrong, and no transaction is in progress. -/
def State.Plain (s : State) (m : List Host.Cell) : Prop :=
  s.dirs = [] ∧ s.poison = [] ∧ s.upsets = [] ∧ s.wire = [] ∧ s.homes = [] ∧ s.mem = m

/-- What the counts and the caches of a read leave. -/
def State.Calm (s t : State) : Prop :=
  t.dirs = s.dirs ∧ t.poison = s.poison ∧ t.upsets = s.upsets ∧ t.wire = s.wire ∧ t.homes = s.homes ∧ t.mem = s.mem

theorem State.Calm.refl (s : State) : s.Calm s := ⟨rfl, rfl, rfl, rfl, rfl, rfl⟩

theorem State.Calm.trans {s t u : State} (h : s.Calm t) (k : t.Calm u) : s.Calm u :=
  ⟨k.1.trans h.1, k.2.1.trans h.2.1, k.2.2.1.trans h.2.2.1, k.2.2.2.1.trans h.2.2.2.1, k.2.2.2.2.1.trans h.2.2.2.2.1,
    k.2.2.2.2.2.trans h.2.2.2.2.2⟩

theorem State.Calm.plain {s t : State} {m : List Host.Cell} (h : s.Calm t) (p : s.Plain m) : t.Plain m := by
  obtain ⟨h1, h2, h3, h4, h5, h6⟩ := h
  obtain ⟨p1, p2, p3, p4, p5, p6⟩ := p
  exact ⟨h1.trans p1, h2.trans p2, h3.trans p3, h4.trans p4, h5.trans p5, h6.trans p6⟩

theorem calm_foldl {β : Type} {g : State → β → State} (hg : ∀ (s : State) (x : β), s.Calm (g s x)) : ∀ (l : List β) (s : State),
    s.Calm (l.foldl g s)
  | [], s => .refl s
  | x :: l, s => (hg s x).trans (calm_foldl hg l (g s x))

theorem calm_count (s : State) (n o k : Nat) : s.Calm (s.count n o k) := ⟨rfl, rfl, rfl, rfl, rfl, rfl⟩

theorem calm_clusterCount (s : State) (c o k : Nat) : s.Calm (s.clusterCount c o k) :=
  calm_foldl (fun _ _ => calm_count ..) _ _

theorem calm_routersCount (s : State) (who a k : Nat) (w : Bool) : s.Calm (s.routersCount who a k w) := by
  have h1 : ∀ (t : State) (o : Option Nat) (off : Nat),
      t.Calm (match o with | some p => t.clusterCount p off k | none => t) := by
    intro t o off
    cases o with
    | none => exact .refl t
    | some p => exact calm_clusterCount ..
  unfold State.routersCount
  simp only
  have h3 : ∀ (c : Prop) [Decidable c] (t : State), s.Calm t → s.Calm (if c then s else t) := by
    intro c _ t ht
    split
    · exact .refl s
    · exact ht
  refine h3 _ _ ?_
  have k := h1 s (coreOfCode who) (if w then 0x1C8 else 0x1D0)
  cases s.placeOf a with
  | scratch p off => exact k.trans (calm_clusterCount ..)
  | unmapped => exact k
  | isolated => exact k
  | sram => exact k
  | dram => exact k
  | host => exact k

theorem calm_carry (s : State) (src dst : Node) (cls : Nat) (req : Option (Nat × Bool)) : s.Calm (s.carry src dst cls req) := by
  unfold State.carry
  split
  · exact .refl s
  · simp only
    split <;> exact ⟨rfl, rfl, rfl, rfl, rfl, rfl⟩

theorem calm_dataMoved (s : State) (who a k : Nat) (w : Bool) : s.Calm (s.dataMoved who a k w) := by
  have hc := calm_routersCount s who a k w
  unfold State.dataMoved
  split
  · exact .refl s
  · exact .refl s
  · simp only
    split <;> exact hc.trans (calm_carry ..)

theorem calm_countRequest (s : State) (h n f : Nat) : s.Calm (s.countRequest h n f) := by
  unfold State.countRequest
  simp only
  repeat' split
  all_goals exact ⟨rfl, rfl, rfl, rfl, rfl, rfl⟩

theorem calm_llcDrop (s : State) (line : Nat) : s.Calm (s.llcDrop line) := by
  unfold State.llcDrop
  simp only
  repeat' split
  all_goals exact ⟨rfl, rfl, rfl, rfl, rfl, rfl⟩

theorem calm_free (s : State) : s.Calm s.free.2 := ⟨rfl, rfl, rfl, rfl, rfl, rfl⟩

theorem calm_llcRoom (s : State) (line : Nat) : s.Calm (s.llcRoom line) := by
  unfold State.llcRoom
  split
  · exact .refl s
  · simp only
    split
    · exact .refl s
    · exact (calm_free s).trans (calm_llcDrop ..)

theorem calm_llcPut (s : State) (line : Nat) (d : Bool) : s.Calm (s.llcPut line d) :=
  (calm_llcRoom s line).trans ⟨rfl, rfl, rfl, rfl, rfl, rfl⟩

theorem calm_touchBank (s : State) (blk b : Nat) : s.Calm (s.touchBank blk b) := ⟨rfl, rfl, rfl, rfl, rfl, rfl⟩

theorem calm_memTraffic (s : State) (a k : Nat) (w first : Bool) : s.Calm (s.memTraffic a k w first) := by
  have h1 : ∀ (b : Bool) (u : State) (n o c : Nat), u.Calm (if b then u else u.count n o c) := by
    intro b u n o c
    cases b
    · exact calm_count ..
    · exact .refl u
  have h2 : ∀ (b : Bool) (u : State) (n o c : Nat), u.Calm (if b then u.count n o c else u) := by
    intro b u n o c
    cases b
    · exact .refl u
    · exact calm_count ..
  unfold State.memTraffic
  simp only
  split
  · split
    · exact calm_count ..
    · exact (((calm_touchBank ..).trans (h2 ..)).trans (h1 ..)).trans (calm_llcPut ..)
  · exact (h1 ..).trans (calm_llcPut ..)
  · exact calm_llcPut ..
  · exact calm_touchBank ..
  · exact .refl s

theorem clearWay_plain {s : State} {m : List Host.Cell} (h : s.Plain m) (src : TxnFrom) (line : Nat) :
    s.clearWay src line = s := by
  have hh : ∀ n, s.home n = .reset := fun n => by simp [State.home, h.2.2.2.2.1, Map.get]
  have ho : ∀ n, s.ownAgedFirst n src = s := fun n => by
    unfold State.ownAgedFirst
    rw [hh]
    rfl
  unfold State.clearWay
  simp only [ho, hh]
  rfl

theorem mendLine_plain {s : State} {m : List Host.Cell} (h : s.Plain m) (line : Nat) : s.mendLine line = s := by
  simp [State.mendLine, h.2.2.1]

theorem arrive_plain {s : State} {m : List Host.Cell} (h : s.Plain m) (bs : PBytes) : s.arrive bs = (s, bs) := by
  simp [State.arrive, h.2.2.2.1]

theorem length_memSeg : ∀ (n a : Nat) (l : List Host.Cell), (memSeg l a n).length = n
  | 0, _, _ => rfl
  | n + 1, _, [] => by simp [memSeg]
  | n + 1, a, (k, b) :: cs => by
    simp only [memSeg]
    split <;> simp [length_memSeg n]

theorem length_memRead (m : List Host.Cell) (a n : Nat) : (memRead m a n).length = n := length_memSeg n a _

theorem readKey_plain {s : State} {m : List Host.Cell} (h : s.Plain m) (a n : Nat) :
    s.readKey a n = PBytes.clean (memRead m a n) := by
  obtain ⟨-, hp, -, -, -, rfl⟩ := h
  unfold State.readKey PBytes.clean
  apply List.ext_getElem
  · simp [length_memRead]
  · intro i h1 h2
    simp [State.poisoned, hp]

theorem ownerOf_plain {s : State} {m : List Host.Cell} (h : s.Plain m) (line : Nat) : s.ownerOf line = none := by
  simp [State.ownerOf, State.dir, h.1, Map.get, DirEntry.reset]

theorem readRow_plain {s : State} {m : List Host.Cell} (h : s.Plain m) (who a n : Nat) (first : Bool)
    (ha : regionOf a = some .hbm) :
    (s.readRow who a n first).2 = PBytes.clean (memRead m a n) ∧ (s.readRow who a n first).1.Plain m := by
  have hplace : s.placeOf a = .dram := by simp [State.placeOf, ha]
  have h1 : (if first then s.countRequest (homeOf a) 0 0 else s).Plain m := by
    split
    · exact (calm_countRequest ..).plain h
    · exact h
  unfold State.readRow
  simp only [hplace]
  unfold State.readLine
  simp only [clearWay_plain h, ownerOf_plain h, mendLine_plain h1]
  refine ⟨?_, (calm_memTraffic ..).plain h1⟩
  unfold State.homeCopy
  rw [ha]
  exact readKey_plain h1 a n

/-- One row of a run. -/
def rowStep (who : Nat) (acc : State × PBytes) (r : Nat × Nat × Bool) : State × PBytes :=
  let (s1, bs) := acc.1.readRow who r.1 r.2.1 r.2.2
  let (s2, got) := s1.arrive bs
  (s2.dataMoved who r.1 r.2.1 false, acc.2 ++ got)

theorem foldRows_plain {m : List Host.Cell} (who : Nat) : ∀ (rows : List (Nat × Nat × Bool)) (s : State) (acc : PBytes),
    s.Plain m → (∀ r ∈ rows, regionOf r.1 = some .hbm) →
    (rows.foldl (rowStep who) (s, acc)).2 = acc ++ PBytes.clean (rows.flatMap fun r => memRead m r.1 r.2.1)
    ∧ (rows.foldl (rowStep who) (s, acc)).1.Plain m
  | [], s, acc, h, _ => by simpa [PBytes.clean] using h
  | r :: rows, s, acc, h, hr => by
    have h1 := readRow_plain h who r.1 r.2.1 r.2.2 (hr r (List.mem_cons_self ..))
    have hs : rowStep who (s, acc) r = ((s.readRow who r.1 r.2.1 r.2.2).1.dataMoved who r.1 r.2.1 false,
        acc ++ PBytes.clean (memRead m r.1 r.2.1)) := by
      simp only [rowStep, arrive_plain h1.2, h1.1]
    have ih := foldRows_plain who rows ((s.readRow who r.1 r.2.1 r.2.2).1.dataMoved who r.1 r.2.1 false)
      (acc ++ PBytes.clean (memRead m r.1 r.2.1)) ((calm_dataMoved ..).plain h1.2)
      fun q hq => hr q (List.mem_cons_of_mem _ hq)
    rw [List.foldl_cons, hs]
    refine ⟨?_, ih.2⟩
    rw [ih.1]
    simp [PBytes.clean, List.append_assoc]

/-- The rows of a range that starts and ends at a row. -/
theorem rowsOf_aligned (k n : Nat) (hn : 0 < n) :
    ∃ f : Nat → Bool, rowsOf (64 * k) (64 * n) = (List.range n).map fun i => (64 * k + 64 * i, 64, f i) := by
  refine ⟨fun i => i == 0 || (k + i) % 2 == 0, ?_⟩
  unfold rowsOf
  rw [if_neg (by omega)]
  have h1 : (64 * k + 64 * n - 1) / 64 - 64 * k / 64 + 1 = n := by omega
  rw [h1]
  refine List.map_congr_left fun i hi => ?_
  have hi' : i < n := List.mem_range.1 hi
  simp only [Nat.mul_div_cancel_left k (by norm_num : 0 < 64)]
  refine Prod.ext ?_ (Prod.ext ?_ rfl)
  · show max (64 * k) ((k + i) * 64) = 64 * k + 64 * i
    omega
  · show min (64 * k + 64 * n) ((k + i) * 64 + 64) - max (64 * k) ((k + i) * 64) = 64
    omega

theorem memRead_rows {m : List Host.Cell} (hm : Memory.wf m = true) (a : Nat) : ∀ n : Nat,
    ((List.range n).flatMap fun i => memRead m (a + 64 * i) 64) = memRead m a (64 * n)
  | 0 => (List.eq_nil_of_length_eq_zero (length_memRead ..)).symm
  | n + 1 => by
    rw [List.range_succ, List.flatMap_append, memRead_rows hm a n, List.flatMap_singleton]
    simp only [memRead_eq hm]
    rw [show 64 * (n + 1) = 64 * n + 64 from by ring, List.range_add, List.map_append, List.map_map]
    simp only [Function.comp_def, Nat.add_assoc]

theorem flatMap_rows {m : List Host.Cell} (hm : Memory.wf m = true) (k n : Nat) :
    ((rowsOf (64 * k) (64 * n)).flatMap fun r => memRead m r.1 r.2.1) = memRead m (64 * k) (64 * n) := by
  rcases Nat.eq_zero_or_pos n with rfl | hn
  · have : memRead m (64 * k) (64 * 0) = [] := List.eq_nil_of_length_eq_zero (length_memRead ..)
    rw [this]
    rfl
  · obtain ⟨f, hf⟩ := rowsOf_aligned k n hn
    rw [hf, List.flatMap_map]
    exact memRead_rows hm (64 * k) n

theorem rows_hbm (k n : Nat) (h : 64 * k + 64 * n ≤ hbmEnd) : ∀ r ∈ rowsOf (64 * k) (64 * n), regionOf r.1 = some .hbm := by
  intro r hr
  rcases Nat.eq_zero_or_pos n with rfl | hn
  · exact absurd hr (by rw [Nat.mul_zero, rowsOf, if_pos rfl]; exact List.not_mem_nil)
  · obtain ⟨f, hf⟩ := rowsOf_aligned k n hn
    rw [hf] at hr
    obtain ⟨i, hi, rfl⟩ := List.mem_map.1 hr
    have hi' : i < n := List.mem_range.1 hi
    unfold regionOf
    rw [if_pos (by show 64 * k + 64 * i < hbmEnd; omega)]

/-- A run of rows of HBM3E reads as its bytes. -/
theorem readRun_plain {s : State} {m : List Host.Cell} (h : s.Plain m) (hm : Memory.wf m = true) (who k n : Nat)
    (hk : 64 * k + 64 * n ≤ hbmEnd) :
    (s.readRun who (64 * k) (64 * n)).2 = PBytes.clean (memRead m (64 * k) (64 * n))
      ∧ (s.readRun who (64 * k) (64 * n)).1.Plain m := by
  have := foldRows_plain who (rowsOf (64 * k) (64 * n)) s [] h (rows_hbm k n hk)
  rw [flatMap_rows hm] at this
  unfold State.readRun
  exact this

theorem peek_plain {s : State} {m : List Host.Cell} (h : s.Plain m) (hm : Memory.wf m = true) (k n : Nat)
    (hk : 64 * k + 64 * n ≤ hbmEnd) : s.peek (64 * k) (64 * n) = PBytes.clean (memRead m (64 * k) (64 * n)) := by
  have key : ∀ (rows : List (Nat × Nat × Bool)) (acc : PBytes), (∀ r ∈ rows, regionOf r.1 = some .hbm) →
      rows.foldl (fun acc r => acc ++ (s.readRow 0 r.1 r.2.1 false).2) acc
        = acc ++ PBytes.clean (rows.flatMap fun r => memRead m r.1 r.2.1) := by
    intro rows
    induction rows with
    | nil => intro acc _; simp [PBytes.clean]
    | cons r rows ih =>
      intro acc hr
      rw [List.foldl_cons, ih _ fun q hq => hr q (List.mem_cons_of_mem _ hq),
        (readRow_plain h 0 r.1 r.2.1 false (hr r (List.mem_cons_self ..))).1]
      simp [PBytes.clean, List.append_assoc]
  unfold State.peek
  rw [key _ _ (rows_hbm k n hk), flatMap_rows hm]
  rfl

/-! ### Module flash -/

theorem get_putRun (m : Map Byte) (off : Nat) (bs : List Byte) (i : Nat) :
    Map.get ((bs.zip (List.range bs.length)).foldl (fun m e => Map.put m (off + e.2) e.1 flashErased) m) (off + i) flashErased
      = bs.getD i (Map.get m (off + i) flashErased) := by
  induction bs using List.reverseRecOn with
  | nil => simp
  | append_singleton bs b ih =>
    rw [List.length_append, List.length_singleton, List.range_succ, List.zip_append (by simp), List.foldl_append]
    simp only [List.zip_cons_cons, List.zip_nil_left, List.foldl_cons, List.foldl_nil, Map.get_put, ih]
    rw [List.getD_eq_getElem?_getD, List.getD_eq_getElem?_getD, List.getElem?_append]
    by_cases h1 : i = bs.length
    · subst h1
      simp
    · rw [if_neg (by omega)]
      split_ifs with h2
      · rfl
      · rw [List.getElem?_eq_none (by omega), List.getElem?_eq_none (by simp; omega)]

/-- Flash reads as it was written. -/
theorem flashRead_flashWrite (s : State) (off : Nat) (bs : List Byte) (n : Nat) (h : n ≤ bs.length) :
    (s.flashWrite off bs).flashRead off n = bs.take n := by
  apply List.ext_getElem
  · simp [State.flashRead, h]
  · intro i h1 h2
    have hi : i < bs.length := by simp at h2; omega
    simp only [State.flashRead, State.flashWrite, List.getElem_map, List.getElem_range, get_putRun, List.getD_eq_getElem _ _ hi,
      List.getElem_take]

@[simp] theorem data_clean (bs : List Byte) : (PBytes.clean bs).data = bs := by
  simp [PBytes.clean, PBytes.data, Function.comp_def]

@[simp] theorem anyPoison_clean (bs : List Byte) : (PBytes.clean bs).anyPoison = false := by
  simp [PBytes.clean, PBytes.anyPoison]

end Sys2Proof.Machine
end

