-- ==== Sys2Proof/Laws/Keeps.lean ====
section
/-! SUPPORT. What holds from one state to the next whatever a command does: memory keeps its canonical form, mask ROM
and the EEPROM keep their contents, the waiting commands keep their place. This file gives the relation and how it
passes through the shapes that the meanings are built of. -/

namespace Sys2Proof.Machine

/-- From `s` to `t` memory keeps its canonical form; mask ROM, the EEPROM and the queue of commands are the same. -/
structure Keeps (s t : State) : Prop where
  mem : Memory.wf s.mem = true → Memory.wf t.mem = true
  rom : t.rom = s.rom
  eeprom : t.eeprom = s.eeprom
  pending : t.pending = s.pending

theorem Keeps.refl (s : State) : Keeps s s := ⟨id, rfl, rfl, rfl⟩

theorem Keeps.trans {s t u : State} (h : Keeps s t) (k : Keeps t u) : Keeps s u :=
  ⟨fun w => k.mem (h.mem w), k.rom.trans h.rom, k.eeprom.trans h.eeprom, k.pending.trans h.pending⟩

/-- An update of fields other than memory, mask ROM, EEPROM and queue. -/
theorem Keeps.mk_iff {s₀ t : State} {blocks0 : Map Blk} {regs0 : Map Word64} {counters0 : Map Word64} {holds0 : Map Word64} {snapNext0 : Nat}
    {once0 : List Nat} {poison0 : List Nat} {upsets0 : Map (BitVec 144)} {wire0 : List (BitVec 144)} {engines0 :
    Map Engine} {cores0 : Map Core} {tokens0 : Map Token} {held0 : Map (List HeldOp)} {tokMsgs0 : List TokMsg}
    {allots0 : Map (List Allot)} {dieMap0 : Map Nat} {routes0 : Map (List Byte)} {loader0 : Loader} {turns0 :
    Turns} {energy0 : Energy} {sweeps0 : Map Sweep} {save0 : Save} {sites0 : Map Site} {cluReads0 : List (Nat ×
    Option Nat)} {siteSel0 : Nat} {siteIgnored0 : Bool} {banks0 : Map BankSt} {testers0 : Map Tester} {lines0 :
    Map HeldLine} {dirs0 : Map DirEntry} {llc0 : Map Bool} {homes0 : Map Home} {retried0 : List Retried} {drams0 :
    Map Dram} {links0 : Map LinkEnd} {sendq0 : Map (List LinkPkt)} {floor0 : Nat} {presentDies0 : List Nat}
    {ladders0 : Map Ladder} {cmps0 : Map Cmp} {ncl0 : Ncl} {intakes0 : Map Intake} {sheets0 : Map Sheet}
    {security0 : Security} {power0 : Power} {harts0 : Map Hart} {tap0 : Tap} {flash0 : Map Byte} {out0 : List
    Output} {fresh0 : Nat}
    : Keeps s₀ (State.mk (State.pending t) blocks0 regs0 counters0 holds0 snapNext0 once0 (State.mem t) poison0 upsets0 wire0
      engines0 cores0 tokens0 held0 tokMsgs0 allots0 dieMap0 routes0 loader0 turns0 energy0 sweeps0 save0 sites0
      cluReads0 siteSel0 siteIgnored0 banks0 testers0 lines0 dirs0 llc0 homes0 retried0 drams0 links0 sendq0
      floor0 presentDies0 ladders0 cmps0 ncl0 intakes0 sheets0 security0 power0 harts0 tap0 (State.rom t) flash0
      (State.eeprom t) out0 fresh0) ↔ Keeps s₀ t :=
  ⟨fun h => ⟨h.mem, h.rom, h.eeprom, h.pending⟩, fun h => ⟨h.mem, h.rom, h.eeprom, h.pending⟩⟩

/-- An update whose memory is canonical where the old one was. -/
theorem Keeps.ofMem {s₀ s t : State} (h : Keeps s₀ s) (hm : Memory.wf s.mem = true → Memory.wf t.mem = true)
    (hr : t.rom = s.rom) (he : t.eeprom = s.eeprom) (hp : t.pending = s.pending) : Keeps s₀ t := h.trans ⟨hm, hr, he, hp⟩

section
variable {α β : Type} {s₀ : State}

theorem Keeps.foldl {g : State → β → State} {l : List β} {b : State}
    (hb : Keeps s₀ b) (hg : ∀ acc x, Keeps s₀ acc → Keeps s₀ (g acc x)) : Keeps s₀ (l.foldl g b) := by
  induction l generalizing b with
  | nil => exact hb
  | cons x l ih => exact ih (hg _ x hb)

theorem Keeps.foldl1 {g : State × α → β → State × α} {l : List β} {b : State × α}
    (hb : Keeps s₀ b.1) (hg : ∀ acc x, Keeps s₀ acc.1 → Keeps s₀ (g acc x).1) : Keeps s₀ (l.foldl g b).1 := by
  induction l generalizing b with
  | nil => exact hb
  | cons x l ih => exact ih (hg _ x hb)

theorem Keeps.ofFst {p : State × α} {s : State} {a : α} (e : p = (s, a)) (h : Keeps s₀ p.1) : Keeps s₀ s := by
  subst e; exact h

theorem Keeps.ofSnd {p : α × State} {s : State} {a : α} (e : p = (a, s)) (h : Keeps s₀ p.2) : Keeps s₀ s := by
  subst e; exact h

/-- The next state, where there is one. -/
def OutKeeps (s₀ : State) : Host.Outcome State Fault Refusal → Prop
  | .next t => Keeps s₀ t
  | _ => True

theorem OutKeeps.fault {r : Fault} : OutKeeps s₀ (.fault r) := trivial
theorem OutKeeps.refused {r : Refusal} : OutKeeps s₀ (.refused r) := trivial
theorem OutKeeps.next {t : State} (h : Keeps s₀ t) : OutKeeps s₀ (.next t) := h

def OptKeeps (s₀ : State) : Option State → Prop
  | some t => Keeps s₀ t
  | none => True

theorem OptKeeps.none : OptKeeps s₀ none := trivial
theorem OptKeeps.some {t : State} (h : Keeps s₀ t) : OptKeeps s₀ (some t) := h
theorem Keeps.getD {o : Option State} {d : State} (h : OptKeeps s₀ o) (k : Keeps s₀ d) : Keeps s₀ (o.getD d) := by
  cases o with
  | none => exact k
  | some t => exact h
theorem OptKeeps.get {o : Option State} {t : State} (e : o = .some t) (h : OptKeeps s₀ o) : Keeps s₀ t := by
  subst e; exact h

def ExKeeps (s₀ : State) : Except α State → Prop
  | .ok t => Keeps s₀ t
  | .error _ => True

theorem ExKeeps.error {a : α} : ExKeeps s₀ (.error a) := trivial
theorem ExKeeps.ok {t : State} (h : Keeps s₀ t) : ExKeeps (α := α) s₀ (.ok t) := h
theorem ExKeeps.get {o : Except α State} {t : State} (e : o = .ok t) (h : ExKeeps s₀ o) : Keeps s₀ t := by
  subst e; exact h

def ExKeeps1 (s₀ : State) : Except α (State × β) → Prop
  | .ok p => Keeps s₀ p.1
  | .error _ => True

theorem ExKeeps1.error {a : α} : ExKeeps1 (β := β) s₀ (.error a) := trivial
theorem ExKeeps1.ok {p : State × β} (h : Keeps s₀ p.1) : ExKeeps1 (α := α) s₀ (.ok p) := h
theorem ExKeeps1.map {γ : Type} {o : Except α (State × β)} {f : State × β → State × γ} (h : ExKeeps1 s₀ o)
    (hf : ∀ p, Keeps s₀ p.1 → Keeps s₀ (f p).1) : ExKeeps1 s₀ (o.map f) := by
  cases o with
  | error _ => trivial
  | ok p => exact hf p h
theorem ExKeeps1.get {o : Except α (State × β)} {t : State} {b : β} (e : o = .ok (t, b)) (h : ExKeeps1 s₀ o) :
    Keeps s₀ t := by
  subst e; exact h

/-- What presenting an instruction comes to. -/
def Issue.Keeps (s₀ : State) : Issue → Prop
  | .refuse _ => True
  | .stall _ s => Machine.Keeps s₀ s
  | .go s _ => Machine.Keeps s₀ s

theorem Issue.Keeps.refuse {n : Nat} : Issue.Keeps s₀ (.refuse n) := trivial
theorem Issue.Keeps.stall {s : State} {w : BitVec 7} (h : Machine.Keeps s₀ s) : Issue.Keeps s₀ (.stall w s) := h
theorem Issue.Keeps.go {s : State} {n : Nat} (h : Machine.Keeps s₀ s) : Issue.Keeps s₀ (.go s n) := h
theorem Issue.Keeps.getStall {i : Issue} {w : BitVec 7} {s : State} (e : i = .stall w s) (h : i.Keeps s₀) :
    Machine.Keeps s₀ s := by
  subst e; exact h
theorem Issue.Keeps.getGo {i : Issue} {s : State} {n : Nat} (e : i = .go s n) (h : i.Keeps s₀) :
    Machine.Keeps s₀ s := by
  subst e; exact h

/-- Where a move of a sweep run leads. -/
def SweepMove.state : SweepMove → State
  | .stay s => s
  | .fault _ s => s
  | .go s => s

def SweepMove.Keeps (s₀ : State) (m : SweepMove) : Prop := Machine.Keeps s₀ m.state

theorem SweepMove.Keeps.stay {s : State} (h : Machine.Keeps s₀ s) : SweepMove.Keeps s₀ (.stay s) := h
theorem SweepMove.Keeps.fault {c : Nat} {s : State} (h : Machine.Keeps s₀ s) : SweepMove.Keeps s₀ (.fault c s) := h
theorem SweepMove.Keeps.go {s : State} (h : Machine.Keeps s₀ s) : SweepMove.Keeps s₀ (.go s) := h
theorem SweepMove.Keeps.getStay {m : SweepMove} {s : State} (e : m = .stay s) (h : m.Keeps s₀) : Machine.Keeps s₀ s := by
  subst e; exact h
theorem SweepMove.Keeps.getFault {m : SweepMove} {c : Nat} {s : State} (e : m = .fault c s) (h : m.Keeps s₀) :
    Machine.Keeps s₀ s := by
  subst e; exact h
theorem SweepMove.Keeps.getGo {m : SweepMove} {s : State} (e : m = .go s) (h : m.Keeps s₀) : Machine.Keeps s₀ s := by
  subst e; exact h
end

end Sys2Proof.Machine
end

