-- ==== Sys2Proof/Laws/Signature.lean ====
section
/-! SUPPORT. A signature that ML-DSA-65 verification accepts: under the public key whose vector is zero, the signature whose
vector and hints are zero verifies whatever the matrix is. The tests build signed images from it. -/

namespace Sys2Proof.Machine

open MlDsa

/-! ### Polynomials of zeros -/

/-- Every coefficient is zero. -/
def MlDsa.AllZero (p : Poly) : Prop := ∀ x ∈ p, x = 0

theorem MlDsa.AllZero.append {a b : Poly} (ha : AllZero a) (hb : AllZero b) : AllZero (a ++ b) := fun x hx =>
  (List.mem_append.1 hx).elim (ha x) (hb x)

theorem MlDsa.AllZero.take {a : Poly} (ha : AllZero a) (n : Nat) : AllZero (a.take n) := fun x hx => ha x (List.mem_of_mem_take hx)

theorem MlDsa.AllZero.drop {a : Poly} (ha : AllZero a) (n : Nat) : AllZero (a.drop n) := fun x hx => ha x (List.mem_of_mem_drop hx)

theorem MlDsa.AllZero.replicate (n : Nat) : AllZero (List.replicate n 0) := fun _ hx => List.eq_of_mem_replicate hx

theorem MlDsa.AllZero.zipWith {f : Nat → Nat → Nat} (hf : f 0 0 = 0) : ∀ {a b : Poly}, AllZero a → AllZero b →
    AllZero (List.zipWith f a b)
  | [], _, _, _ => by simp [AllZero]
  | _ :: _, [], _, _ => by simp [AllZero]
  | x :: a, y :: b, ha, hb => by
    intro z hz
    rw [List.zipWith_cons_cons] at hz
    rcases List.mem_cons.1 hz with rfl | hz
    · rw [ha x (List.mem_cons_self ..), hb y (List.mem_cons_self ..), hf]
    · exact AllZero.zipWith hf (fun x hx => ha x (List.mem_cons_of_mem _ hx)) (fun x hx => hb x (List.mem_cons_of_mem _ hx)) z hz

theorem MlDsa.AllZero.mulEach {b : Poly} (hb : AllZero b) : ∀ a : Poly, AllZero (mulEach a b)
  | [] => by simp [AllZero, MlDsa.mulEach]
  | x :: a => by
    intro z hz
    cases b with
    | nil => simp [MlDsa.mulEach] at hz
    | cons y b =>
      rw [MlDsa.mulEach, List.zipWith_cons_cons] at hz
      rcases List.mem_cons.1 hz with rfl | hz
      · rw [hb y (List.mem_cons_self ..), Nat.mul_zero, Nat.zero_mod]
      · exact AllZero.mulEach (fun x hx => hb x (List.mem_cons_of_mem _ hx)) a z hz

theorem MlDsa.AllZero.scale {a : Poly} (ha : AllZero a) (c : Nat) : AllZero (scale c a) := by
  intro z hz
  obtain ⟨x, hx, rfl⟩ := List.mem_map.1 hz
  rw [ha x hx, Nat.mul_zero, Nat.zero_mod]

theorem MlDsa.AllZero.nttFrom : ∀ (n m : Nat) {a : Poly}, AllZero a → AllZero (nttFrom n m a)
  | 0, _, _, h => h
  | n + 1, _, _, h =>
    .append (nttFrom n _ (.zipWith rfl (h.take _) ((h.drop _).scale _))) (nttFrom n _ (.zipWith rfl (h.take _) ((h.drop _).scale _)))

theorem MlDsa.AllZero.inttFrom : ∀ (n m : Nat) {a : Poly}, AllZero a → AllZero (inttFrom n m a)
  | 0, _, _, h => h
  | n + 1, _, _, h =>
    .append (.zipWith rfl (inttFrom n _ (h.take _)) (inttFrom n _ (h.drop _)))
      (.scale (.zipWith rfl (inttFrom n _ (h.take _)) (inttFrom n _ (h.drop _))) _)

theorem MlDsa.AllZero.getD {a : Poly} (h : AllZero a) (i : Nat) : a.getD i 0 = 0 := by
  rw [List.getD_eq_getElem?_getD]
  cases hx : a[i]? with
  | none => rfl
  | some x => exact h x (List.mem_of_getElem? hx)

/-! ### Matrices times vectors of zeros -/

theorem MlDsa.foldl_add_zero : ∀ (l : List Poly) {a : Poly}, AllZero a → (∀ p ∈ l, AllZero p) → AllZero (l.foldl MlDsa.add a)
  | [], _, h, _ => h
  | p :: l, _, h, hl => foldl_add_zero l (.zipWith rfl h (hl p (List.mem_cons_self ..))) fun q hq => hl q (List.mem_cons_of_mem _ hq)

theorem MlDsa.zipWith_mulEach_zero : ∀ (row v : List Poly), (∀ p ∈ v, AllZero p) → ∀ p ∈ List.zipWith MlDsa.mulEach row v, AllZero p
  | [], _, _ => by simp
  | _ :: _, [], _ => by simp
  | r :: row, x :: v, h => by
    intro p hp
    rw [List.zipWith_cons_cons] at hp
    rcases List.mem_cons.1 hp with rfl | hp
    · exact (h x (List.mem_cons_self ..)).mulEach r
    · exact zipWith_mulEach_zero row v (fun q hq => h q (List.mem_cons_of_mem _ hq)) p hp

theorem MlDsa.matVec_zero (a : List (List Poly)) (v : List Poly) (h : ∀ p ∈ v, AllZero p) : ∀ p ∈ matVec a v, AllZero p := by
  intro p hp
  obtain ⟨row, _, rfl⟩ := List.mem_map.1 hp
  exact foldl_add_zero _ (.replicate 256) (zipWith_mulEach_zero row v h)

theorem MlDsa.mem_zipWith {α β γ : Type} {f : α → β → γ} {P : γ → Prop} : ∀ {a : List α} {b : List β},
    (∀ x ∈ a, ∀ y ∈ b, P (f x y)) → ∀ z ∈ List.zipWith f a b, P z
  | [], _, _ => by simp
  | _ :: _, [], _ => by simp
  | x :: a, y :: b, h => by
    intro z hz
    rw [List.zipWith_cons_cons] at hz
    rcases List.mem_cons.1 hz with rfl | hz
    · exact h x (List.mem_cons_self ..) y (List.mem_cons_self ..)
    · exact mem_zipWith (fun x hx y hy => h x (List.mem_cons_of_mem _ hx) y (List.mem_cons_of_mem _ hy)) z hz

/-! ### The signature -/

/-- The 3,261 bytes of a signature behind its hash whose vector and hints are all zero. -/
def zeroTail : List Byte := (List.replicate 5 (packMask (List.replicate 256 0))).flatten ++ List.replicate 61 0
/-- The public key whose vector is all zero. -/
def zeroKey : List Byte := List.replicate 1952 0
/-- The signature of a message under the key of zeros. -/
def zeroSig (msg : List Byte) : List Byte :=
  shake256 (messageHash zeroKey msg ++ packHigh (List.replicate 6 (List.replicate 256 0))) 48 ++ zeroTail

theorem zeroTail_z : ((List.range cols).map fun i => unpackMask (zeroTail.drop (640 * i))) = List.replicate 5 (List.replicate 256 0) := by
  decide +kernel
theorem zeroTail_hints : unpackHints (zeroTail.drop (640 * cols)) = some (List.replicate 6 []) := by decide +kernel
theorem zeroKey_t : ((List.range rows).map fun i => unpack 10 (zeroKey.drop (32 + 320 * i))) = List.replicate 6 (List.replicate 256 0) := by
  decide +kernel
theorem length_zeroSig (msg : List Byte) : (zeroSig msg).length = 3309 := by
  rw [zeroSig, List.length_append, length_shake256 _ (by norm_num), show zeroTail.length = 3261 from by decide +kernel]

theorem useHint_zero : useHint false 0 = 0 := by decide +kernel

/-- The signature of zeros verifies. -/
theorem verify_zero (msg : List Byte) : MlDsa.verify zeroKey msg (zeroSig msg) = true := by
  have hlen : (shake256 (messageHash zeroKey msg ++ packHigh (List.replicate 6 (List.replicate 256 0))) 48).length = 48 :=
    length_shake256 _ (by norm_num)
  have hd : ∀ n, (zeroSig msg).drop (challengeBytes + n) = zeroTail.drop n := by
    intro n
    rw [zeroSig, ← List.drop_drop, show challengeBytes = 48 from rfl, List.drop_left' hlen]
  have ht : (zeroSig msg).take challengeBytes
      = shake256 (messageHash zeroKey msg ++ packHigh (List.replicate 6 (List.replicate 256 0))) 48 := by
    rw [zeroSig, show challengeBytes = 48 from rfl, List.take_left' hlen]
  unfold MlDsa.verify
  simp only [hd, ht, zeroTail_z, zeroTail_hints, zeroKey_t]
  generalize challenge _ = c
  generalize hA : expandMatrix _ = A
  have hAl : A.length = 6 := by rw [← hA]; simp [expandMatrix, rows]
  have hz : ∀ p ∈ (List.replicate 5 (List.replicate 256 0)).map ntt, AllZero p := by
    intro p hp
    obtain ⟨q, hq, rfl⟩ := List.mem_map.1 hp
    rw [List.eq_of_mem_replicate hq]
    exact .nttFrom 8 1 (.replicate 256)
  have haz := matVec_zero A _ hz
  generalize hv : matVec A ((List.replicate 5 (List.replicate 256 0)).map ntt) = az at haz
  have hl : az.length = 6 := by rw [← hv]; simp only [matVec, List.length_map, hAl]
  have hw : ∀ p ∈ List.zipWith (fun (x p : Poly) => intt (sub x (MlDsa.mulEach (ntt c) (ntt (MlDsa.scale (2 ^ dropped) p))))) az
      (List.replicate 6 (List.replicate 256 0)), AllZero p := by
    refine mem_zipWith fun x hx y hy => ?_
    rw [List.eq_of_mem_replicate hy]
    exact .scale (.inttFrom 8 1 (.zipWith (by decide) (haz x hx) (.mulEach (.nttFrom 8 1 (.scale (.replicate 256) _)) _))) _
  generalize hwe : List.zipWith _ az _ = w at hw
  have hwl : w.length = 6 := by rw [← hwe, List.length_zipWith, hl, List.length_replicate]; rfl
  have h1 : List.zipWith (fun (x p : List Nat) => (List.range 256).map fun i => useHint (p.contains i) (x.getD i 0)) w
      (List.replicate 6 []) = List.replicate 6 (List.replicate 256 0) := by
    refine List.eq_replicate_iff.2 ⟨by rw [List.length_zipWith, hwl, List.length_replicate]; rfl, mem_zipWith fun x hx y hy => ?_⟩
    rw [List.eq_of_mem_replicate hy]
    refine List.eq_replicate_iff.2 ⟨by simp, fun z hz => ?_⟩
    obtain ⟨i, _, rfl⟩ := List.mem_map.1 hz
    rw [(hw x hx).getD i]
    exact useHint_zero
  rw [h1, show challengeBytes = 48 from rfl, beq_self_eq_true, Bool.and_true]
  decide +kernel
end Sys2Proof.Machine
end

