-- ==== Sys2Proof/Laws/Steps.lean ====
section
/-! SUPPORT. What every operation and every command leaves: memory stays canonical, and mask ROM, the EEPROM and the
queue are as they were. -/

namespace Sys2Proof.Machine

theorem keeps_setBlk {s₀ : State} (s : State) (n : Nat) (b : Blk) (h : Keeps s₀ s) :
    Keeps s₀ (State.setBlk s n b) := by
  unfold State.setBlk
  try dsimp only
  repeat'
    first
    | (with_reducible assumption)
    | simp only [Keeps.mk_iff]

theorem keeps_setReg {s₀ : State} (s : State) (n : Nat) (off : Nat) (v : Word64) (h : Keeps s₀ s) :
    Keeps s₀ (State.setReg s n off v) := by
  unfold State.setReg
  try dsimp only
  repeat'
    first
    | (with_reducible assumption)
    | simp only [Keeps.mk_iff]

theorem keeps_setFld {s₀ : State} (s : State) (n : Nat) (off : Nat) (lo : Nat) (len : Nat) (v : Nat) (h : Keeps s₀ s) :
    Keeps s₀ (State.setFld s n off lo len v) := by
  unfold State.setFld
  try dsimp only
  repeat'
    first
    | (with_reducible assumption)
    | (with_reducible apply keeps_setReg)

theorem keeps_count {s₀ : State} (s : State) (n : Nat) (off : Nat) (k : Nat) (h : Keeps s₀ s) :
    Keeps s₀ (State.count s n off k) := by
  unfold State.count
  try dsimp only
  repeat'
    first
    | (with_reducible assumption)
    | simp only [Keeps.mk_iff]

theorem keeps_emit {s₀ : State} (s : State) (o : Output) (h : Keeps s₀ s) :
    Keeps s₀ (State.emit s o) := by
  unfold State.emit
  try dsimp only
  repeat'
    first
    | (with_reducible assumption)
    | simp only [Keeps.mk_iff]

theorem keeps_free {s₀ : State} (s : State) (h : Keeps s₀ s) :
    Keeps s₀ (State.free s).2 := by
  unfold State.free
  try dsimp only
  repeat'
    first
    | (with_reducible assumption)
    | simp only [Keeps.mk_iff]

theorem keeps_setSite {s₀ : State} (s : State) (i : Nat) (x3 : Site) (h : Keeps s₀ s) :
    Keeps s₀ (State.setSite s i x3) := by
  unfold State.setSite
  try dsimp only
  repeat'
    first
    | (with_reducible assumption)
    | simp only [Keeps.mk_iff]

theorem keeps_setSheet {s₀ : State} (s : State) (t : Nat) (x3 : Sheet) (h : Keeps s₀ s) :
    Keeps s₀ (State.setSheet s t x3) := by
  unfold State.setSheet
  try dsimp only
  repeat'
    first
    | (with_reducible assumption)
    | simp only [Keeps.mk_iff]

theorem keeps_recordIn {s₀ : State} (s : State) (t : Nat) (blk : Nat) (code : Nat) (unit : Nat) (arg0 : Nat) (arg1 : Nat) (h : Keeps s₀ s) :
    Keeps s₀ (State.recordIn s t blk code unit arg0 arg1) := by
  unfold State.recordIn
  try dsimp only
  repeat'
    first
    | (with_reducible assumption)
    | (with_reducible apply keeps_count)
    | (with_reducible apply keeps_setSheet)
    | split

theorem keeps_record {s₀ : State} (s : State) (blk : Nat) (code : Nat) (unit : Nat) (arg0 : Nat) (arg1 : Nat) (h : Keeps s₀ s) :
    Keeps s₀ (State.record s blk code unit arg0 arg1) := by
  unfold State.record
  try dsimp only
  repeat'
    first
    | (with_reducible assumption)
    | (with_reducible apply keeps_recordIn)

theorem keeps_clearOnce {s₀ : State} (s : State) (blk : Nat) (h : Keeps s₀ s) :
    Keeps s₀ (State.clearOnce s blk) := by
  unfold State.clearOnce
  try dsimp only
  repeat'
    first
    | (with_reducible assumption)
    | simp only [Keeps.mk_iff]

theorem keeps_recordOnce {s₀ : State} (s : State) (blk : Nat) (code : Nat) (sub : Nat) (unit : Nat) (arg0 : Nat) (arg1 : Nat) (h : Keeps s₀ s) :
    Keeps s₀ (State.recordOnce s blk code sub unit arg0 arg1) := by
  unfold State.recordOnce
  try dsimp only
  repeat'
    first
    | (with_reducible assumption)
    | simp only [Keeps.mk_iff]
    | (with_reducible apply keeps_record)
    | split

theorem keeps_writeRecord {s₀ : State} (s : State) (t : Nat) (r : Record) (h : Keeps s₀ s) :
    Keeps s₀ (State.writeRecord s t r) := by
  unfold State.writeRecord
  try dsimp only
  repeat'
    first
    | (with_reducible assumption)
    | (with_reducible apply keeps_count)
    | (with_reducible apply keeps_setSheet)
    | (with_reducible apply keeps_emit)
    | split

theorem keeps_noteDropped {s₀ : State} (s : State) (t : Nat) (h : Keeps s₀ s) :
    Keeps s₀ (State.noteDropped s t) := by
  unfold State.noteDropped
  try dsimp only
  repeat'
    first
    | (with_reducible assumption)
    | (with_reducible apply keeps_writeRecord)
    | (with_reducible apply keeps_setSheet)
    | split

theorem keeps_drainSheet {s₀ : State} (s : State) (t : Nat) (h : Keeps s₀ s) :
    Keeps s₀ (State.drainSheet s t) := by
  unfold State.drainSheet
  try dsimp only
  repeat'
    first
    | (with_reducible assumption)
    | intro _
    | (with_reducible apply keeps_writeRecord)
    | (with_reducible apply keeps_setSheet)
    | (with_reducible apply Keeps.foldl)

theorem keeps_freezeSheet {s₀ : State} (s : State) (t : Nat) (why : FreezeCause) (h : Keeps s₀ s) :
    Keeps s₀ (State.freezeSheet s t why) := by
  unfold State.freezeSheet
  try dsimp only
  repeat'
    first
    | (with_reducible assumption)
    | (with_reducible apply keeps_noteDropped)
    | (with_reducible apply keeps_drainSheet)
    | (with_reducible apply keeps_setSheet)
    | split

theorem keeps_freezeAll {s₀ : State} (s : State) (why : FreezeCause) (h : Keeps s₀ s) :
    Keeps s₀ (State.freezeAll s why) := by
  unfold State.freezeAll
  try dsimp only
  repeat'
    first
    | (with_reducible assumption)
    | intro _
    | (with_reducible apply keeps_freezeSheet)
    | (with_reducible apply Keeps.foldl)

theorem keeps_startFlush {s₀ : State} (s : State) (reason : Nat) (h : Keeps s₀ s) :
    Keeps s₀ (State.startFlush s reason) := by
  unfold State.startFlush
  try dsimp only
  repeat'
    first
    | (with_reducible assumption)
    | simp only [Keeps.mk_iff]
    | split

theorem keeps_hostInterrupt {s₀ : State} (s : State) (v : Byte) (h : Keeps s₀ s) :
    Keeps s₀ (State.hostInterrupt s v) := by
  unfold State.hostInterrupt
  try dsimp only
  repeat'
    first
    | (with_reducible assumption)
    | simp only [Keeps.mk_iff]
    | (with_reducible apply keeps_emit)
    | split

theorem keeps_fatalError {s₀ : State} (s : State) (blk : Nat) (code : Nat) (unit : Nat) (arg0 : Nat) (arg1 : Nat) (h : Keeps s₀ s) :
    Keeps s₀ (State.fatalError s blk code unit arg0 arg1) := by
  unfold State.fatalError
  try dsimp only
  repeat'
    first
    | (with_reducible assumption)
    | simp only [Keeps.mk_iff]
    | (with_reducible apply keeps_record)
    | (with_reducible apply keeps_recordIn)
    | (with_reducible apply keeps_freezeAll)
    | (with_reducible apply keeps_startFlush)
    | (with_reducible apply keeps_hostInterrupt)
    | split

theorem keeps_setEngine {s₀ : State} (s : State) (e : Nat) (x3 : Engine) (h : Keeps s₀ s) :
    Keeps s₀ (State.setEngine s e x3) := by
  unfold State.setEngine
  try dsimp only
  repeat'
    first
    | (with_reducible assumption)
    | simp only [Keeps.mk_iff]

theorem keeps_setCore {s₀ : State} (s : State) (c : Nat) (x3 : Core) (h : Keeps s₀ s) :
    Keeps s₀ (State.setCore s c x3) := by
  unfold State.setCore
  try dsimp only
  repeat'
    first
    | (with_reducible assumption)
    | simp only [Keeps.mk_iff]

theorem keeps_setToken {s₀ : State} (s : State) (i : Nat) (x3 : Token) (h : Keeps s₀ s) :
    Keeps s₀ (State.setToken s i x3) := by
  unfold State.setToken
  try dsimp only
  repeat'
    first
    | (with_reducible assumption)
    | simp only [Keeps.mk_iff]

theorem keeps_setSweep {s₀ : State} (s : State) (i : Nat) (x3 : Sweep) (h : Keeps s₀ s) :
    Keeps s₀ (State.setSweep s i x3) := by
  unfold State.setSweep
  try dsimp only
  repeat'
    first
    | (with_reducible assumption)
    | simp only [Keeps.mk_iff]

theorem keeps_setIntake {s₀ : State} (s : State) (i : Nat) (x3 : Intake) (h : Keeps s₀ s) :
    Keeps s₀ (State.setIntake s i x3) := by
  unfold State.setIntake
  try dsimp only
  repeat'
    first
    | (with_reducible assumption)
    | simp only [Keeps.mk_iff]

theorem keeps_setCmp {s₀ : State} (s : State) (i : Nat) (x3 : Cmp) (h : Keeps s₀ s) :
    Keeps s₀ (State.setCmp s i x3) := by
  unfold State.setCmp
  try dsimp only
  repeat'
    first
    | (with_reducible assumption)
    | simp only [Keeps.mk_iff]

theorem keeps_setLadder {s₀ : State} (s : State) (p : Nat) (x3 : Ladder) (h : Keeps s₀ s) :
    Keeps s₀ (State.setLadder s p x3) := by
  unfold State.setLadder
  try dsimp only
  repeat'
    first
    | (with_reducible assumption)
    | simp only [Keeps.mk_iff]

theorem keeps_setLink {s₀ : State} (s : State) (e : Nat) (x3 : LinkEnd) (h : Keeps s₀ s) :
    Keeps s₀ (State.setLink s e x3) := by
  unfold State.setLink
  try dsimp only
  repeat'
    first
    | (with_reducible assumption)
    | simp only [Keeps.mk_iff]

theorem keeps_setHome {s₀ : State} (s : State) (h2 : Nat) (x3 : Home) (h : Keeps s₀ s) :
    Keeps s₀ (State.setHome s h2 x3) := by
  unfold State.setHome
  try dsimp only
  repeat'
    first
    | (with_reducible assumption)
    | simp only [Keeps.mk_iff]

theorem keeps_setDram {s₀ : State} (s : State) (c : Nat) (x3 : Dram) (h : Keeps s₀ s) :
    Keeps s₀ (State.setDram s c x3) := by
  unfold State.setDram
  try dsimp only
  repeat'
    first
    | (with_reducible assumption)
    | simp only [Keeps.mk_iff]

theorem keeps_setRing {s₀ : State} (s : State) (r : Nat) (x3 : Ring) (h : Keeps s₀ s) :
    Keeps s₀ (State.setRing s r x3) := by
  unfold State.setRing
  try dsimp only
  repeat'
    first
    | (with_reducible assumption)
    | simp only [Keeps.mk_iff]

theorem keeps_setTester {s₀ : State} (s : State) (blk : Nat) (x3 : Tester) (h : Keeps s₀ s) :
    Keeps s₀ (State.setTester s blk x3) := by
  unfold State.setTester
  try dsimp only
  repeat'
    first
    | (with_reducible assumption)
    | simp only [Keeps.mk_iff]

theorem keeps_setBank {s₀ : State} (s : State) (blk : Nat) (b : Nat) (x4 : BankSt) (h : Keeps s₀ s) :
    Keeps s₀ (State.setBank s blk b x4) := by
  unfold State.setBank
  try dsimp only
  repeat'
    first
    | (with_reducible assumption)
    | simp only [Keeps.mk_iff]

theorem keeps_queueAt {s₀ : State} (s : State) (e : Nat) (p : LinkPkt) (h : Keeps s₀ s) :
    Keeps s₀ (State.queueAt s e p) := by
  unfold State.queueAt
  try dsimp only
  repeat'
    first
    | (with_reducible assumption)
    | simp only [Keeps.mk_iff]

theorem keeps_queueFirst {s₀ : State} (s : State) (e : Nat) (p : LinkPkt) (h : Keeps s₀ s) :
    Keeps s₀ (State.queueFirst s e p) := by
  unfold State.queueFirst
  try dsimp only
  repeat'
    first
    | (with_reducible assumption)
    | simp only [Keeps.mk_iff]

theorem keeps_carry {s₀ : State} (s : State) (src : Node) (dst : Node) (cls : Nat) (req : Option (Nat × Bool)) (h : Keeps s₀ s) :
    Keeps s₀ (State.carry s src dst cls req) := by
  unfold State.carry
  try dsimp only
  repeat'
    first
    | (with_reducible assumption)
    | (with_reducible apply keeps_queueAt)
    | split

theorem keeps_touchBank {s₀ : State} (s : State) (blk : Nat) (b : Nat) (h : Keeps s₀ s) :
    Keeps s₀ (State.touchBank s blk b) := by
  unfold State.touchBank
  try dsimp only
  repeat'
    first
    | (with_reducible assumption)
    | (with_reducible apply keeps_setBank)

theorem keeps_refuseRows {s₀ : State} (s : State) (blk : Nat) (b : Nat) (who : Nat) (a : Nat) (n : Nat) (h : Keeps s₀ s) :
    Keeps s₀ (State.refuseRows s blk b who a n) := by
  unfold State.refuseRows
  try dsimp only
  repeat'
    first
    | (with_reducible assumption)
    | (with_reducible apply keeps_recordOnce)
    | (with_reducible apply keeps_count)
    | split

theorem keeps_refuseRow {s₀ : State} (s : State) (blk : Nat) (b : Nat) (who : Nat) (a : Nat) (h : Keeps s₀ s) :
    Keeps s₀ (State.refuseRow s blk b who a) := by
  unfold State.refuseRow
  try dsimp only
  repeat'
    first
    | (with_reducible assumption)
    | (with_reducible apply keeps_refuseRows)

theorem keeps_unmappedLine {s₀ : State} (s : State) (who : Nat) (a : Nat) (h : Keeps s₀ s) :
    Keeps s₀ (State.unmappedLine s who a) := by
  unfold State.unmappedLine
  try dsimp only
  repeat'
    first
    | (with_reducible assumption)
    | (with_reducible apply keeps_recordOnce)
    | (with_reducible apply keeps_count)

theorem keeps_frameFault {s₀ : State} (s : State) (block : Nat) (off : Nat) (h : Keeps s₀ s) :
    Keeps s₀ (State.frameFault s block off) := by
  unfold State.frameFault
  try dsimp only
  repeat'
    first
    | (with_reducible assumption)
    | (with_reducible apply keeps_emit)
    | (with_reducible apply keeps_unmappedLine)

theorem keeps_isolatedAccess {s₀ : State} (s : State) (h : Keeps s₀ s) :
    Keeps s₀ (State.isolatedAccess s) := by
  unfold State.isolatedAccess
  try dsimp only
  repeat'
    first
    | (with_reducible assumption)
    | (with_reducible apply keeps_count)

theorem keeps_writeKey {s₀ : State} (s : State) (key : Nat) (bs : PBytes) (keep : Bool) (h : Keeps s₀ s) :
    Keeps s₀ (State.writeKey s key bs keep) := by
  unfold State.writeKey
  exact h.ofMem (fun w => Memory.wf_memWrite _ _ w) rfl rfl rfl

theorem keeps_mendWord {s₀ : State} (s : State) (w : Nat) (h : Keeps s₀ s) :
    Keeps s₀ (State.mendWord s w).1 := by
  unfold State.mendWord
  split
  · exact h
  · exact h.ofMem (fun w => Memory.wf_memWrite _ _ w) rfl rfl rfl

theorem keeps_mendWords {s₀ : State} (s : State) (blk : Nat) (unit : Nat) (a : Nat) (ws : List Nat) (h : Keeps s₀ s) :
    Keeps s₀ (State.mendWords s blk unit a ws) := by
  unfold State.mendWords
  try dsimp only
  repeat'
    first
    | (with_reducible assumption)
    | intro _
    | (with_reducible apply keeps_mendWord)
    | (with_reducible apply keeps_count)
    | (with_reducible apply keeps_record)
    | (with_reducible apply Keeps.foldl)
    | (refine Keeps.ofFst (by with_reducible assumption) ?_)
    | split

theorem keeps_pinCorrected {s₀ : State} (s : State) (c : Nat) (channel : Nat) (pin : Nat) (h : Keeps s₀ s) :
    Keeps s₀ (State.pinCorrected s c channel pin) := by
  unfold State.pinCorrected
  try dsimp only
  repeat'
    first
    | (with_reducible assumption)
    | (with_reducible apply keeps_setDram)
    | (with_reducible apply keeps_count)
    | (with_reducible apply keeps_setFld)
    | (with_reducible apply keeps_record)
    | split

theorem keeps_mendDramWord {s₀ : State} (s : State) (c : Nat) (channel : Nat) (w : Nat) (found : Bool × Bool) (h : Keeps s₀ s) :
    Keeps s₀ (State.mendDramWord s c channel w found).1 := by
  unfold State.mendDramWord
  try dsimp only
  repeat'
    first
    | (with_reducible assumption)
    | (with_reducible apply keeps_mendWord)
    | (with_reducible apply keeps_pinCorrected)
    | (with_reducible apply keeps_setReg)
    | (with_reducible apply keeps_count)
    | (refine Keeps.ofFst (by with_reducible assumption) ?_)
    | split

theorem keeps_mendDram {s₀ : State} (s : State) (c : Nat) (channel : Nat) (line : Nat) (h : Keeps s₀ s) :
    Keeps s₀ (State.mendDram s c channel line) := by
  unfold State.mendDram
  try dsimp only
  repeat'
    first
    | (with_reducible assumption)
    | intro _
    | (with_reducible apply keeps_mendDramWord)
    | (with_reducible apply keeps_count)
    | (with_reducible apply keeps_record)
    | (with_reducible apply Keeps.foldl1)
    | split

theorem keeps_poisonLine {s₀ : State} (s : State) (line : Nat) (h : Keeps s₀ s) :
    Keeps s₀ (State.poisonLine s line) := by
  unfold State.poisonLine
  try dsimp only
  repeat'
    first
    | (with_reducible assumption)
    | simp only [Keeps.mk_iff]

theorem keeps_mendCached {s₀ : State} (s : State) (blk : Nat) (unit : Nat) (line : Nat) (h : Keeps s₀ s) :
    Keeps s₀ (State.mendCached s blk unit line) := by
  unfold State.mendCached
  try dsimp only
  repeat'
    first
    | (with_reducible assumption)
    | (with_reducible apply keeps_mendWords)
    | (with_reducible apply keeps_poisonLine)
    | split

theorem keeps_mendLine {s₀ : State} (s : State) (line : Nat) (h : Keeps s₀ s) :
    Keeps s₀ (State.mendLine s line) := by
  unfold State.mendLine
  try dsimp only
  repeat'
    first
    | (with_reducible assumption)
    | (with_reducible apply keeps_mendCached)
    | (with_reducible apply keeps_mendDram)
    | (with_reducible apply keeps_mendWords)
    | split

theorem keeps_setDir {s₀ : State} (s : State) (line : Nat) (d : DirEntry) (h : Keeps s₀ s) :
    Keeps s₀ (State.setDir s line d) := by
  unfold State.setDir
  try dsimp only
  repeat'
    first
    | (with_reducible assumption)
    | simp only [Keeps.mk_iff]

theorem keeps_setHeld1 {s₀ : State} (s : State) (agent : Nat) (line : Nat) (h4 : HeldLine) (h : Keeps s₀ s) :
    Keeps s₀ (State.setHeld1 s agent line h4) := by
  unfold State.setHeld1
  try dsimp only
  repeat'
    first
    | (with_reducible assumption)
    | simp only [Keeps.mk_iff]

theorem keeps_clusterCount {s₀ : State} (s : State) (core : Nat) (off : Nat) (k : Nat) (h : Keeps s₀ s) :
    Keeps s₀ (State.clusterCount s core off k) := by
  unfold State.clusterCount
  try dsimp only
  repeat'
    first
    | (with_reducible assumption)
    | intro _
    | (with_reducible apply keeps_count)
    | (with_reducible apply Keeps.foldl)

theorem keeps_lineSent {s₀ : State} (s : State) (agent : Nat) (line : Nat) (h : Keeps s₀ s) :
    Keeps s₀ (State.lineSent s agent line) := by
  unfold State.lineSent
  try dsimp only
  repeat'
    first
    | (with_reducible assumption)
    | (with_reducible apply keeps_carry)
    | (with_reducible apply keeps_clusterCount)
    | split

theorem keeps_lineReceived {s₀ : State} (s : State) (agent : Nat) (line : Nat) (h : Keeps s₀ s) :
    Keeps s₀ (State.lineReceived s agent line) := by
  unfold State.lineReceived
  try dsimp only
  repeat'
    first
    | (with_reducible assumption)
    | (with_reducible apply keeps_carry)
    | (with_reducible apply keeps_clusterCount)
    | split

theorem keeps_routersCount {s₀ : State} (s : State) (who : Nat) (a : Nat) (k : Nat) (write : Bool) (h : Keeps s₀ s) :
    Keeps s₀ (State.routersCount s who a k write) := by
  unfold State.routersCount
  try dsimp only
  repeat'
    first
    | (with_reducible assumption)
    | (with_reducible apply keeps_clusterCount)
    | split

theorem keeps_dataMoved {s₀ : State} (s : State) (who : Nat) (a : Nat) (k : Nat) (write : Bool) (h : Keeps s₀ s) :
    Keeps s₀ (State.dataMoved s who a k write) := by
  unfold State.dataMoved
  try dsimp only
  repeat'
    first
    | (with_reducible assumption)
    | (with_reducible apply keeps_routersCount)
    | (with_reducible apply keeps_carry)
    | split

theorem keeps_egressWrite {s₀ : State} (s : State) (own : WriteOwner) (a : Nat) (bs : PBytes) (h : Keeps s₀ s) :
    Keeps s₀ (State.egressWrite s own a bs) := by
  unfold State.egressWrite
  try dsimp only
  repeat'
    first
    | (with_reducible assumption)
    | simp only [Keeps.mk_iff]

theorem keeps_ownWrites {s₀ : State} (s : State) (n : Nat) (who : Nat) (own : WriteOwner) (h : Keeps s₀ s) :
    Keeps s₀ (State.ownWrites s n who own) := by
  unfold State.ownWrites
  try dsimp only
  repeat'
    first
    | (with_reducible assumption)
    | simp only [Keeps.mk_iff]

theorem keeps_homePut {s₀ : State} (s : State) (own : WriteOwner) (a : Nat) (bs : PBytes) (keep : Bool) (h : Keeps s₀ s) :
    Keeps s₀ (State.homePut s own a bs keep) := by
  unfold State.homePut
  try dsimp only
  repeat'
    first
    | (with_reducible assumption)
    | (with_reducible apply keeps_egressWrite)
    | (with_reducible apply keeps_writeKey)
    | (with_reducible apply keeps_mendLine)
    | split

theorem keeps_llcDrop {s₀ : State} (s : State) (line : Nat) (h : Keeps s₀ s) :
    Keeps s₀ (State.llcDrop s line) := by
  unfold State.llcDrop
  try dsimp only
  repeat'
    first
    | (with_reducible assumption)
    | simp only [Keeps.mk_iff]
    | (with_reducible apply keeps_count)
    | split

theorem keeps_llcRoom {s₀ : State} (s : State) (line : Nat) (h : Keeps s₀ s) :
    Keeps s₀ (State.llcRoom s line) := by
  unfold State.llcRoom
  try dsimp only
  repeat'
    first
    | (with_reducible assumption)
    | (with_reducible apply keeps_free)
    | (with_reducible apply keeps_llcDrop)
    | split

theorem keeps_llcPut {s₀ : State} (s : State) (line : Nat) (dirty : Bool) (h : Keeps s₀ s) :
    Keeps s₀ (State.llcPut s line dirty) := by
  unfold State.llcPut
  try dsimp only
  repeat'
    first
    | (with_reducible assumption)
    | simp only [Keeps.mk_iff]
    | (with_reducible apply keeps_llcRoom)

theorem keeps_memTraffic {s₀ : State} (s : State) (a : Nat) (k : Nat) (write : Bool) (first : Bool) (h : Keeps s₀ s) :
    Keeps s₀ (State.memTraffic s a k write first) := by
  unfold State.memTraffic
  try dsimp only
  repeat'
    first
    | (with_reducible assumption)
    | (with_reducible apply keeps_count)
    | (with_reducible apply keeps_touchBank)
    | (with_reducible apply keeps_llcPut)
    | split

theorem keeps_arrive {s₀ : State} (s : State) (bs : PBytes) (h : Keeps s₀ s) :
    Keeps s₀ (State.arrive s bs).1 := by
  unfold State.arrive
  try dsimp only
  repeat'
    first
    | (with_reducible assumption)
    | simp only [Keeps.mk_iff]
    | split

theorem keeps_newHeld {s₀ : State} (s : State) (agent : Nat) (line : Nat) (h : Keeps s₀ s) :
    Keeps s₀ (State.newHeld s agent line) := by
  unfold State.newHeld
  try dsimp only
  repeat'
    first
    | (with_reducible assumption)
    | simp only [Keeps.mk_iff]

theorem keeps_mendHeld {s₀ : State} (s : State) (agent : Nat) (line : Nat) (h : Keeps s₀ s) :
    Keeps s₀ (State.mendHeld s agent line) := by
  unfold State.mendHeld
  try dsimp only
  repeat'
    first
    | (with_reducible assumption)
    | intro _
    | simp only [Keeps.mk_iff]
    | (with_reducible apply keeps_record)
    | (with_reducible apply keeps_setHeld1)
    | (with_reducible apply Keeps.foldl)
    | split

theorem keeps_countRequest {s₀ : State} (s : State) (home : Nat) (snoops : Nat) (forwards : Nat) (h : Keeps s₀ s) :
    Keeps s₀ (State.countRequest s home snoops forwards) := by
  unfold State.countRequest
  try dsimp only
  repeat'
    first
    | (with_reducible assumption)
    | (with_reducible apply keeps_count)
    | split

theorem keeps_storeInto {s₀ : State} (s : State) (a : Nat) (line : Nat) (stored : Option (List Byte)) (h : Keeps s₀ s) :
    Keeps s₀ (State.storeInto s a line stored) := by
  unfold State.storeInto
  try dsimp only
  repeat'
    first
    | (with_reducible assumption)
    | (with_reducible apply keeps_setHeld1)
    | split

theorem keeps_homeRead {s₀ : State} (s : State) (who : Nat) (line : Nat) (h : Keeps s₀ s) :
    Keeps s₀ (State.homeRead s who line).1 := by
  unfold State.homeRead
  try dsimp only
  repeat'
    first
    | (with_reducible assumption)
    | (with_reducible apply keeps_unmappedLine)
    | (with_reducible apply keeps_mendLine)
    | split

theorem keeps_txnData {s₀ : State} (s : State) (t : Txn) (h : Keeps s₀ s) :
    Keeps s₀ (State.txnData s t).1 := by
  unfold State.txnData
  try dsimp only
  repeat'
    first
    | (with_reducible assumption)
    | (with_reducible apply keeps_arrive)
    | (with_reducible apply keeps_homeRead)
    | split

theorem keeps_give {s₀ : State} (s : State) (a : Nat) (line : Nat) (st : Moesi) (bs : PBytes) (h : Keeps s₀ s) :
    Keeps s₀ (State.give s a line st bs) := by
  unfold State.give
  try dsimp only
  repeat'
    first
    | (with_reducible assumption)
    | (with_reducible apply keeps_setHeld1)
    | (with_reducible apply keeps_lineReceived)
    | (with_reducible apply keeps_newHeld)
    | split

theorem keeps_consumePoison {s₀ : State} (s : State) (core : Nat) (a : Nat) (bs : PBytes) (h : Keeps s₀ s) :
    Keeps s₀ (State.consumePoison s core a bs) := by
  unfold State.consumePoison
  try dsimp only
  repeat'
    first
    | (with_reducible assumption)
    | (with_reducible apply keeps_emit)
    | (with_reducible apply keeps_record)
    | split

theorem keeps_answerRead {s₀ : State} (s : State) (src : TxnFrom) (line : Nat) (bs : PBytes) (h : Keeps s₀ s) :
    Keeps s₀ (State.answerRead s src line bs) := by
  unfold State.answerRead
  try dsimp only
  repeat'
    first
    | (with_reducible assumption)
    | (with_reducible apply keeps_emit)
    | (with_reducible apply keeps_consumePoison)
    | split

theorem keeps_lineMoved {s₀ : State} (s : State) (src : TxnFrom) (line : Nat) (k : Nat) (write : Bool) (h : Keeps s₀ s) :
    Keeps s₀ (State.lineMoved s src line k write) := by
  unfold State.lineMoved
  try dsimp only
  repeat'
    first
    | (with_reducible assumption)
    | (with_reducible apply keeps_dataMoved)
    | split

theorem keeps_l2Load {s₀ : State} (s : State) (agent : Nat) (line : Nat) (bs : PBytes) (h : Keeps s₀ s) :
    Keeps s₀ (State.l2Load s agent line bs) := by
  unfold State.l2Load
  try dsimp only
  repeat'
    first
    | (with_reducible assumption)
    | (with_reducible apply keeps_free)
    | (with_reducible apply keeps_consumePoison)
    | split

theorem keeps_txnRead {s₀ : State} (s : State) (t : Txn) (h : Keeps s₀ s) :
    Keeps s₀ (State.txnRead s t) := by
  unfold State.txnRead
  try dsimp only
  repeat'
    first
    | (with_reducible assumption)
    | (with_reducible apply keeps_memTraffic)
    | split

theorem keeps_linePut {s₀ : State} (s : State) (own : WriteOwner) (who : Nat) (line : Nat) (bs : PBytes) (keep : Bool) (h : Keeps s₀ s) :
    Keeps s₀ (State.linePut s own who line bs keep) := by
  unfold State.linePut
  try dsimp only
  repeat'
    first
    | (with_reducible assumption)
    | (with_reducible apply keeps_arrive)
    | (with_reducible apply keeps_homePut)
    | (with_reducible apply keeps_touchBank)
    | (with_reducible apply keeps_refuseRows)
    | (with_reducible apply keeps_memTraffic)
    | (with_reducible apply keeps_unmappedLine)
    | split

theorem keeps_mergeWord {s₀ : State} (s : State) (key : Nat) (bits : List Bool) (word : PBytes) (h : Keeps s₀ s) :
    Keeps s₀ (State.mergeWord s key bits word) := by
  unfold State.mergeWord
  try dsimp only
  repeat'
    first
    | (with_reducible assumption)
    | (with_reducible apply keeps_writeKey)
    | split

theorem keeps_mergeMasked {s₀ : State} (s : State) (own : WriteOwner) (who : Nat) (line : Nat) (mask : BitVec 128) (data : List Byte) (h : Keeps s₀ s) :
    Keeps s₀ (State.mergeMasked s own who line mask data) := by
  unfold State.mergeMasked
  try dsimp only
  repeat'
    first
    | (with_reducible assumption)
    | intro _
    | (with_reducible apply keeps_arrive)
    | (with_reducible apply keeps_mergeWord)
    | (with_reducible apply keeps_mendLine)
    | (with_reducible apply keeps_touchBank)
    | (with_reducible apply keeps_refuseRows)
    | (with_reducible apply keeps_memTraffic)
    | (with_reducible apply keeps_egressWrite)
    | (with_reducible apply keeps_unmappedLine)
    | (with_reducible apply Keeps.foldl)
    | split

theorem keeps_hostTakes {s₀ : State} (s : State) (line : Nat) (bs : PBytes) (h : Keeps s₀ s) :
    Keeps s₀ (State.hostTakes s line bs) := by
  unfold State.hostTakes
  try dsimp only
  repeat'
    first
    | (with_reducible assumption)
    | simp only [Keeps.mk_iff]
    | (with_reducible apply keeps_writeKey)

theorem keeps_finishTxn {s₀ : State} (s0 : State) (t : Txn) (h : Keeps s₀ s0) :
    Keeps s₀ (State.finishTxn s0 t) := by
  unfold State.finishTxn
  try dsimp only
  repeat'
    first
    | (with_reducible assumption)
    | (with_reducible apply keeps_txnData)
    | (with_reducible apply keeps_l2Load)
    | (with_reducible apply keeps_txnRead)
    | (with_reducible apply keeps_setDir)
    | (with_reducible apply keeps_give)
    | (with_reducible apply keeps_setHeld1)
    | (with_reducible apply keeps_mendHeld)
    | (with_reducible apply keeps_linePut)
    | (with_reducible apply keeps_lineSent)
    | (with_reducible apply keeps_answerRead)
    | (with_reducible apply keeps_lineMoved)
    | (with_reducible apply keeps_mergeMasked)
    | (with_reducible apply keeps_emit)
    | (with_reducible apply keeps_hostTakes)
    | split

theorem keeps_reclaimEntry {s₀ : State} (s : State) (agent : Nat) (line : Nat) (h : Keeps s₀ s) :
    Keeps s₀ (State.reclaimEntry s agent line) := by
  unfold State.reclaimEntry
  try dsimp only
  repeat'
    first
    | (with_reducible assumption)
    | intro _
    | (with_reducible apply keeps_recordOnce)
    | (with_reducible apply keeps_count)
    | (with_reducible apply keeps_poisonLine)
    | (with_reducible apply keeps_setDir)
    | (with_reducible apply keeps_setHeld1)
    | (with_reducible apply Keeps.foldl)
    | split

theorem keeps_settleDead {s₀ : State} (s : State) (t : Txn) (h : Keeps s₀ s) :
    Keeps s₀ (State.settleDead s t) := by
  unfold State.settleDead
  try dsimp only
  repeat'
    first
    | (with_reducible assumption)
    | (with_reducible apply keeps_reclaimEntry)
    | split

theorem keeps_progress {s₀ : State} (a : Nat) (a2 : State) (a3 : Nat) (a4 : Nat) (h : Keeps s₀ a2) :
    Keeps s₀ (State.progress a a2 a3 a4) := by
  induction a generalizing a2 with
  | zero => unfold State.progress; exact h
  | succ n ih =>
    unfold State.progress
    repeat'
    first
      | (with_reducible assumption)
      | intro _
      | (with_reducible apply OutKeeps.fault)
      | (with_reducible apply OutKeeps.refused)
      | (with_reducible apply OptKeeps.none)
      | (with_reducible apply ExKeeps.error)
      | (with_reducible apply ExKeeps1.error)
      | (with_reducible apply Issue.Keeps.refuse)
      | simp only [Keeps.mk_iff]
      | (with_reducible apply keeps_finishTxn)
      | (with_reducible apply keeps_setHome)
      | (with_reducible apply keeps_count)
      | (with_reducible apply keeps_settleDead)
      | (with_reducible apply ih)
      | (with_reducible apply Keeps.foldl)
      | (with_reducible apply Keeps.foldl1)
      | (with_reducible apply OutKeeps.next)
      | (with_reducible apply OptKeeps.some)
      | (with_reducible apply ExKeeps.ok)
      | (with_reducible apply ExKeeps1.ok)
      | (refine Keeps.ofFst (by with_reducible assumption) ?_)
      | (refine Keeps.ofSnd (by with_reducible assumption) ?_)
      | (refine OptKeeps.get (by with_reducible assumption) ?_)
      | (refine ExKeeps.get (by with_reducible assumption) ?_)
      | (refine ExKeeps1.get (by with_reducible assumption) ?_)
      | (with_reducible apply Issue.Keeps.go)
      | (with_reducible apply Issue.Keeps.stall)
      | (refine Issue.Keeps.getGo (by with_reducible assumption) ?_)
      | (refine Issue.Keeps.getStall (by with_reducible assumption) ?_)
      | split

theorem keeps_enter {s₀ : State} (s : State) (h2 : Nat) (t : Txn) (h : Keeps s₀ s) :
    Keeps s₀ (State.enter s h2 t) := by
  unfold State.enter
  try dsimp only
  repeat'
    first
    | (with_reducible assumption)
    | (with_reducible apply keeps_progress)
    | (with_reducible apply keeps_setHome)

theorem keeps_admitSnoops {s₀ : State} (s : State) (h2 : Nat) (h : Keeps s₀ s) :
    Keeps s₀ (State.admitSnoops s h2) := by
  unfold State.admitSnoops
  try dsimp only
  repeat'
    first
    | (with_reducible assumption)
    | intro _
    | (with_reducible apply keeps_enter)
    | (with_reducible apply keeps_count)
    | (with_reducible apply keeps_setHome)
    | (with_reducible apply Keeps.foldl)
    | split

theorem keeps_advance {s₀ : State} (s : State) (h2 : Nat) (line : Nat) (h : Keeps s₀ s) :
    Keeps s₀ (State.advance s h2 line) := by
  unfold State.advance
  try dsimp only
  repeat'
    first
    | (with_reducible assumption)
    | (with_reducible apply keeps_admitSnoops)
    | (with_reducible apply keeps_progress)

theorem keeps_ownStores {s₀ : State} (s : State) (agent : Nat) (line : Nat) (h : Keeps s₀ s) :
    Keeps s₀ (State.ownStores s agent line) := by
  unfold State.ownStores
  try dsimp only
  repeat'
    first
    | (with_reducible assumption)
    | simp only [Keeps.mk_iff]
    | (with_reducible apply keeps_free)
    | (with_reducible apply keeps_setHeld1)
    | split

theorem keeps_ownerBack {s₀ : State} (s : State) (who : Nat) (line : Nat) (h : Keeps s₀ s) :
    Keeps s₀ (State.ownerBack s who line) := by
  unfold State.ownerBack
  try dsimp only
  repeat'
    first
    | (with_reducible assumption)
    | (with_reducible apply keeps_mendHeld)
    | (with_reducible apply keeps_ownStores)
    | (with_reducible apply keeps_linePut)
    | (with_reducible apply keeps_lineSent)
    | split

theorem keeps_clearHolders {s₀ : State} (s : State) (who : Nat) (line : Nat) (recalling : Bool) (h : Keeps s₀ s) :
    Keeps s₀ (State.clearHolders s who line recalling) := by
  unfold State.clearHolders
  try dsimp only
  repeat'
    first
    | (with_reducible assumption)
    | intro _
    | (with_reducible apply keeps_ownerBack)
    | (with_reducible apply keeps_setHeld1)
    | (with_reducible apply keeps_setDir)
    | (with_reducible apply keeps_count)
    | (with_reducible apply Keeps.foldl)
    | split

theorem keeps_snoopAnswer {s₀ : State} (s : State) (a : Nat) (line : Nat) (k : SnoopKind) (stored : Option (List Byte)) (h : Keeps s₀ s) :
    Keeps s₀ (State.snoopAnswer s a line k stored) := by
  unfold State.snoopAnswer
  try dsimp only
  repeat'
    first
    | (with_reducible assumption)
    | (with_reducible apply keeps_mendHeld)
    | (with_reducible apply keeps_storeInto)
    | (with_reducible apply keeps_setHeld1)
    | (with_reducible apply keeps_linePut)
    | (with_reducible apply keeps_lineSent)
    | (with_reducible apply keeps_count)
    | (with_reducible apply keeps_advance)
    | (with_reducible apply keeps_setHome)
    | split

theorem keeps_settle {s₀ : State} (a : Nat) (a2 : State) (a3 : Nat) (a4 : Nat) (h : Keeps s₀ a2) :
    Keeps s₀ (State.settle a a2 a3 a4) := by
  induction a generalizing a2 with
  | zero => unfold State.settle; exact h
  | succ n ih =>
    unfold State.settle
    repeat'
    first
      | (with_reducible assumption)
      | intro _
      | (with_reducible apply OutKeeps.fault)
      | (with_reducible apply OutKeeps.refused)
      | (with_reducible apply OptKeeps.none)
      | (with_reducible apply ExKeeps.error)
      | (with_reducible apply ExKeeps1.error)
      | (with_reducible apply Issue.Keeps.refuse)
      | simp only [Keeps.mk_iff]
      | (with_reducible apply ih)
      | (with_reducible apply keeps_ownStores)
      | (with_reducible apply keeps_snoopAnswer)
      | (with_reducible apply keeps_advance)
      | (with_reducible apply Keeps.foldl)
      | (with_reducible apply Keeps.foldl1)
      | (with_reducible apply OutKeeps.next)
      | (with_reducible apply OptKeeps.some)
      | (with_reducible apply ExKeeps.ok)
      | (with_reducible apply ExKeeps1.ok)
      | (refine Keeps.ofFst (by with_reducible assumption) ?_)
      | (refine Keeps.ofSnd (by with_reducible assumption) ?_)
      | (refine OptKeeps.get (by with_reducible assumption) ?_)
      | (refine ExKeeps.get (by with_reducible assumption) ?_)
      | (refine ExKeeps1.get (by with_reducible assumption) ?_)
      | (with_reducible apply Issue.Keeps.go)
      | (with_reducible apply Issue.Keeps.stall)
      | (refine Issue.Keeps.getGo (by with_reducible assumption) ?_)
      | (refine Issue.Keeps.getStall (by with_reducible assumption) ?_)
      | split

theorem keeps_settleLine {s₀ : State} (s : State) (h2 : Nat) (line : Nat) (h : Keeps s₀ s) :
    Keeps s₀ (State.settleLine s h2 line) := by
  unfold State.settleLine
  try dsimp only
  repeat'
    first
    | (with_reducible assumption)
    | (with_reducible apply keeps_settle)

theorem keeps_dirRoom {s₀ : State} (s : State) (h2 : Nat) (line : Nat) (h : Keeps s₀ s) :
    Keeps s₀ (State.dirRoom s h2 line) := by
  unfold State.dirRoom
  try dsimp only
  repeat'
    first
    | (with_reducible assumption)
    | (with_reducible apply keeps_count)
    | (with_reducible apply keeps_clearHolders)
    | (with_reducible apply keeps_settleLine)
    | split

theorem keeps_takeIn {s₀ : State} (s : State) (h2 : Nat) (t : Txn) (h : Keeps s₀ s) :
    Keeps s₀ (State.takeIn s h2 t) := by
  unfold State.takeIn
  try dsimp only
  repeat'
    first
    | (with_reducible assumption)
    | (with_reducible apply keeps_count)
    | (with_reducible apply keeps_dirRoom)
    | (with_reducible apply keeps_admitSnoops)
    | (with_reducible apply keeps_enter)
    | split

theorem keeps_request {s₀ : State} (s : State) (line : Nat) (req : CohReq) (src : TxnFrom) (data : List Byte) (mask : BitVec 128) (h : Keeps s₀ s) :
    Keeps s₀ (State.request s line req src data mask) := by
  unfold State.request
  try dsimp only
  repeat'
    first
    | (with_reducible assumption)
    | simp only [Keeps.mk_iff]
    | (with_reducible apply keeps_takeIn)
    | (with_reducible apply keeps_setHome)
    | (with_reducible apply keeps_emit)
    | (with_reducible apply keeps_count)
    | split

theorem keeps_poisonAnswer {s₀ : State} (s : State) (req : CohReq) (src : TxnFrom) (line : Nat) (fault : Bool) (h : Keeps s₀ s) :
    Keeps s₀ (State.poisonAnswer s req src line fault) := by
  unfold State.poisonAnswer
  try dsimp only
  repeat'
    first
    | (with_reducible assumption)
    | (with_reducible apply keeps_emit)
    | (with_reducible apply keeps_answerRead)
    | split

theorem keeps_turnedAway {s₀ : State} (s : State) (line : Nat) (req : CohReq) (src : TxnFrom) (mask : BitVec 128) (h : Keeps s₀ s) :
    OptKeeps s₀ (State.turnedAway s line req src mask) := by
  unfold State.turnedAway
  try dsimp only
  repeat'
    first
    | (with_reducible assumption)
    | (with_reducible apply OptKeeps.none)
    | (with_reducible apply keeps_poisonAnswer)
    | (with_reducible apply keeps_unmappedLine)
    | (with_reducible apply keeps_isolatedAccess)
    | (with_reducible apply keeps_refuseRows)
    | (with_reducible apply OptKeeps.some)
    | split

theorem keeps_sendHeldBack {s₀ : State} (s : State) (h2 : Nat) (src : TxnFrom) (h : Keeps s₀ s) :
    Keeps s₀ (State.sendHeldBack s h2 src) := by
  unfold State.sendHeldBack
  try dsimp only
  repeat'
    first
    | (with_reducible assumption)
    | intro _
    | simp only [Keeps.mk_iff]
    | (with_reducible apply keeps_request)
    | (with_reducible apply Keeps.foldl)
    | split

theorem keeps_admitAged {s₀ : State} (s : State) (h2 : Nat) (h : Keeps s₀ s) :
    Keeps s₀ (State.admitAged s h2) := by
  unfold State.admitAged
  try dsimp only
  repeat'
    first
    | (with_reducible assumption)
    | (with_reducible apply keeps_setHome)
    | (with_reducible apply keeps_turnedAway)
    | (with_reducible apply keeps_count)
    | (with_reducible apply keeps_dirRoom)
    | (with_reducible apply keeps_advance)
    | (with_reducible apply keeps_sendHeldBack)
    | (refine OptKeeps.get (by with_reducible assumption) ?_)
    | split

theorem keeps_ownAgedFirst {s₀ : State} (s : State) (h2 : Nat) (src : TxnFrom) (h : Keeps s₀ s) :
    Keeps s₀ (State.ownAgedFirst s h2 src) := by
  unfold State.ownAgedFirst
  try dsimp only
  repeat'
    first
    | (with_reducible assumption)
    | intro _
    | (with_reducible apply keeps_admitAged)
    | (with_reducible apply keeps_settleLine)
    | (with_reducible apply Keeps.foldl)
    | split

theorem keeps_clearWay {s₀ : State} (s0 : State) (src : TxnFrom) (line : Nat) (h : Keeps s₀ s0) :
    Keeps s₀ (State.clearWay s0 src line) := by
  unfold State.clearWay
  try dsimp only
  repeat'
    first
    | (with_reducible assumption)
    | intro _
    | (with_reducible apply keeps_ownAgedFirst)
    | (with_reducible apply keeps_settleLine)
    | (with_reducible apply keeps_count)
    | (with_reducible apply Keeps.foldl)
    | split

theorem keeps_evict {s₀ : State} (s : State) (a : Nat) (line : Nat) (req : CohReq) (h : Keeps s₀ s) :
    Keeps s₀ (State.evict s a line req) := by
  unfold State.evict
  try dsimp only
  repeat'
    first
    | (with_reducible assumption)
    | (with_reducible apply keeps_request)
    | (with_reducible apply keeps_setHeld1)
    | split

theorem keeps_releaseSnoops {s₀ : State} (s : State) (agent : Nat) (h3 : Nat) (h : Keeps s₀ s) :
    Keeps s₀ (State.releaseSnoops s agent h3) := by
  unfold State.releaseSnoops
  try dsimp only
  repeat'
    first
    | (with_reducible assumption)
    | intro _
    | (with_reducible apply keeps_setHome)
    | (with_reducible apply keeps_advance)
    | (with_reducible apply Keeps.foldl)

theorem keeps_declareDead {s₀ : State} (s : State) (agent : Nat) (h : Keeps s₀ s) :
    Keeps s₀ (State.declareDead s agent) := by
  unfold State.declareDead
  try dsimp only
  repeat'
    first
    | (with_reducible assumption)
    | intro _
    | simp only [Keeps.mk_iff]
    | (with_reducible apply keeps_reclaimEntry)
    | (with_reducible apply keeps_releaseSnoops)
    | (with_reducible apply Keeps.foldl)

theorem keeps_readLine {s₀ : State} (s0 : State) (who : Nat) (a : Nat) (n : Nat) (first : Bool) (h : Keeps s₀ s0) :
    Keeps s₀ (State.readLine s0 who a n first).1 := by
  unfold State.readLine
  try dsimp only
  repeat'
    first
    | (with_reducible assumption)
    | (with_reducible apply keeps_clearWay)
    | (with_reducible apply keeps_mendHeld)
    | (with_reducible apply keeps_ownStores)
    | (with_reducible apply keeps_countRequest)
    | (with_reducible apply keeps_lineSent)
    | (with_reducible apply keeps_mendLine)
    | (with_reducible apply keeps_memTraffic)
    | split

theorem keeps_writeBehind {s₀ : State} (s : State) (who : Nat) (a : Nat) (bs : PBytes) (h : Keeps s₀ s) :
    Keeps s₀ (State.writeBehind s who a bs) := by
  unfold State.writeBehind
  try dsimp only
  repeat'
    first
    | (with_reducible assumption)
    | (with_reducible apply keeps_enter)
    | (with_reducible apply keeps_count)

theorem keeps_writeLine {s₀ : State} (s : State) (who : Nat) (a : Nat) (bs : PBytes) (whole : Bool) (first : Bool) (h : Keeps s₀ s) :
    Keeps s₀ (State.writeLine s who a bs whole first) := by
  unfold State.writeLine
  try dsimp only
  repeat'
    first
    | (with_reducible assumption)
    | (with_reducible apply keeps_clearWay)
    | (with_reducible apply keeps_writeBehind)
    | (with_reducible apply keeps_count)
    | (with_reducible apply keeps_clearHolders)
    | (with_reducible apply keeps_memTraffic)
    | (with_reducible apply keeps_homePut)
    | split

theorem keeps_readRow {s₀ : State} (s : State) (who : Nat) (a : Nat) (n : Nat) (first : Bool) (h : Keeps s₀ s) :
    Keeps s₀ (State.readRow s who a n first).1 := by
  unfold State.readRow
  try dsimp only
  repeat'
    first
    | (with_reducible assumption)
    | simp only [Keeps.mk_iff]
    | (with_reducible apply keeps_unmappedLine)
    | (with_reducible apply keeps_isolatedAccess)
    | (with_reducible apply keeps_mendWords)
    | (with_reducible apply keeps_touchBank)
    | (with_reducible apply keeps_refuseRow)
    | (with_reducible apply keeps_readLine)
    | split

theorem keeps_writeRow {s₀ : State} (s : State) (who : Nat) (a : Nat) (bs : PBytes) (whole : Bool) (first : Bool) (h : Keeps s₀ s) :
    Keeps s₀ (State.writeRow s who a bs whole first) := by
  unfold State.writeRow
  try dsimp only
  repeat'
    first
    | (with_reducible assumption)
    | (with_reducible apply keeps_unmappedLine)
    | (with_reducible apply keeps_isolatedAccess)
    | (with_reducible apply keeps_writeKey)
    | (with_reducible apply keeps_mendWords)
    | (with_reducible apply keeps_touchBank)
    | (with_reducible apply keeps_refuseRow)
    | (with_reducible apply keeps_writeLine)
    | split

theorem keeps_readRun {s₀ : State} (s : State) (who : Nat) (a : Nat) (n : Nat) (h : Keeps s₀ s) :
    Keeps s₀ (State.readRun s who a n).1 := by
  unfold State.readRun
  try dsimp only
  repeat'
    first
    | (with_reducible assumption)
    | intro _
    | (with_reducible apply keeps_readRow)
    | (with_reducible apply keeps_arrive)
    | (with_reducible apply keeps_dataMoved)
    | (with_reducible apply Keeps.foldl1)

theorem keeps_writeRun {s₀ : State} (s : State) (who : Nat) (a : Nat) (bs : PBytes) (h : Keeps s₀ s) :
    Keeps s₀ (State.writeRun s who a bs) := by
  unfold State.writeRun
  try dsimp only
  repeat'
    first
    | (with_reducible assumption)
    | intro _
    | (with_reducible apply keeps_arrive)
    | (with_reducible apply keeps_dataMoved)
    | (with_reducible apply keeps_writeRow)
    | (with_reducible apply Keeps.foldl)

theorem keeps_ownRead {s₀ : State} (s : State) (who : Nat) (core : Nat) (off : Nat) (n : Nat) (h : Keeps s₀ s) :
    Keeps s₀ (State.ownRead s who core off n).1 := by
  unfold State.ownRead
  try dsimp only
  repeat'
    first
    | (with_reducible assumption)
    | intro _
    | (with_reducible apply keeps_mendWords)
    | (with_reducible apply keeps_touchBank)
    | (with_reducible apply keeps_refuseRow)
    | (with_reducible apply Keeps.foldl1)
    | split

theorem keeps_ownWrite {s₀ : State} (s : State) (who : Nat) (core : Nat) (off : Nat) (bs : PBytes) (h : Keeps s₀ s) :
    Keeps s₀ (State.ownWrite s who core off bs) := by
  unfold State.ownWrite
  try dsimp only
  repeat'
    first
    | (with_reducible assumption)
    | intro _
    | (with_reducible apply keeps_writeKey)
    | (with_reducible apply keeps_mendWords)
    | (with_reducible apply keeps_touchBank)
    | (with_reducible apply keeps_refuseRow)
    | (with_reducible apply Keeps.foldl)
    | split

theorem keeps_hostStall {s₀ : State} (s : State) (who : Nat) (h : Keeps s₀ s) :
    Keeps s₀ (State.hostStall s who) := by
  unfold State.hostStall
  try dsimp only
  repeat'
    first
    | (with_reducible assumption)
    | simp only [Keeps.mk_iff]

theorem keeps_stallOnce {s₀ : State} (s : State) (who : Nat) (h : Keeps s₀ s) :
    OptKeeps s₀ (State.stallOnce s who) := by
  unfold State.stallOnce
  try dsimp only
  repeat'
    first
    | (with_reducible assumption)
    | (with_reducible apply OptKeeps.none)
    | (with_reducible apply keeps_hostStall)
    | (with_reducible apply OptKeeps.some)
    | split

theorem keeps_hostForget {s₀ : State} (s : State) (mine : Nat → Bool) (h : Keeps s₀ s) :
    Keeps s₀ (State.hostForget s mine) := by
  unfold State.hostForget
  try dsimp only
  repeat'
    first
    | (with_reducible assumption)
    | simp only [Keeps.mk_iff]

theorem keeps_cacheRoom {s₀ : State} (s : State) (agent : Nat) (line : Nat) (h : Keeps s₀ s) :
    Keeps s₀ (State.cacheRoom s agent line) := by
  unfold State.cacheRoom
  try dsimp only
  repeat'
    first
    | (with_reducible assumption)
    | (with_reducible apply keeps_free)
    | (with_reducible apply keeps_ownStores)
    | (with_reducible apply keeps_setHeld1)
    | (with_reducible apply keeps_clearWay)
    | (with_reducible apply keeps_settleLine)
    | (with_reducible apply keeps_evict)
    | split

theorem keeps_acquire {s₀ : State} (s : State) (core : Nat) (line : Nat) (own : Bool) (h : Keeps s₀ s) :
    Keeps s₀ (State.acquire s core line own) := by
  unfold State.acquire
  try dsimp only
  repeat'
    first
    | (with_reducible assumption)
    | (with_reducible apply keeps_clearWay)
    | (with_reducible apply keeps_cacheRoom)
    | (with_reducible apply keeps_settleLine)
    | (with_reducible apply keeps_takeIn)
    | split

theorem keeps_cachedRead {s₀ : State} (s : State) (who : Nat) (core : Nat) (a : Nat) (n : Nat) (h : Keeps s₀ s) :
    Keeps s₀ (State.cachedRead s who core a n).1 := by
  unfold State.cachedRead
  try dsimp only
  repeat'
    first
    | (with_reducible assumption)
    | intro _
    | (with_reducible apply keeps_readRow)
    | (with_reducible apply keeps_mendHeld)
    | (with_reducible apply keeps_acquire)
    | (with_reducible apply keeps_count)
    | (with_reducible apply keeps_readRun)
    | (with_reducible apply Keeps.foldl1)
    | split

theorem keeps_cachedWrite {s₀ : State} (s : State) (who : Nat) (core : Nat) (a : Nat) (bs : PBytes) (h : Keeps s₀ s) :
    Keeps s₀ (State.cachedWrite s who core a bs) := by
  unfold State.cachedWrite
  try dsimp only
  repeat'
    first
    | (with_reducible assumption)
    | intro _
    | (with_reducible apply keeps_mendHeld)
    | (with_reducible apply keeps_acquire)
    | (with_reducible apply keeps_count)
    | (with_reducible apply keeps_setHeld1)
    | (with_reducible apply keeps_writeRun)
    | (with_reducible apply Keeps.foldl)
    | split

theorem keeps_dropPacket {s₀ : State} (s : State) (site : Nat) (cls : Nat) (h : Keeps s₀ s) :
    Keeps s₀ (State.dropPacket s site cls) := by
  unfold State.dropPacket
  try dsimp only
  repeat'
    first
    | (with_reducible assumption)
    | (with_reducible apply keeps_count)
    | (with_reducible apply keeps_record)
    | (with_reducible apply keeps_setSite)
    | split

theorem keeps_writeRowMasked {s₀ : State} (s : State) (who : Nat) (a : Nat) (mask : BitVec 128) (data : List Byte) (row : Nat) (h : Keeps s₀ s) :
    Keeps s₀ (State.writeRowMasked s who a mask data row) := by
  unfold State.writeRowMasked
  try dsimp only
  repeat'
    first
    | (with_reducible assumption)
    | intro _
    | (with_reducible apply keeps_arrive)
    | (with_reducible apply keeps_dataMoved)
    | (with_reducible apply keeps_writeKey)
    | (with_reducible apply keeps_mergeWord)
    | (with_reducible apply keeps_mendWords)
    | (with_reducible apply keeps_touchBank)
    | (with_reducible apply keeps_refuseRow)
    | (with_reducible apply Keeps.foldl)
    | split

theorem keeps_present {s₀ : State} (s : State) (line : Nat) (req : CohReq) (src : TxnFrom) (data : List Byte) (mask : BitVec 128) (h : Keeps s₀ s) :
    Keeps s₀ (State.present s line req src data mask) := by
  unfold State.present
  try dsimp only
  repeat'
    first
    | (with_reducible assumption)
    | intro _
    | (with_reducible apply keeps_dropPacket)
    | (with_reducible apply keeps_turnedAway)
    | (with_reducible apply keeps_readRun)
    | (with_reducible apply keeps_answerRead)
    | (with_reducible apply keeps_writeRun)
    | (with_reducible apply keeps_writeRowMasked)
    | (with_reducible apply keeps_request)
    | (with_reducible apply keeps_touchBank)
    | (with_reducible apply Keeps.foldl)
    | (refine OptKeeps.get (by with_reducible assumption) ?_)
    | split

theorem keeps_agentSends {s₀ : State} (s : State) (a : Nat) (line : Nat) (req : CohReq) (h : Keeps s₀ s) :
    Keeps s₀ (State.agentSends s a line req) := by
  unfold State.agentSends
  try dsimp only
  repeat'
    first
    | (with_reducible assumption)
    | (with_reducible apply keeps_cacheRoom)
    | (with_reducible apply keeps_present)
    | (with_reducible apply keeps_count)
    | split

theorem keeps_agentRequest {s₀ : State} (s : State) (a : Nat) (line : Nat) (req : CohReq) (h : Keeps s₀ s) :
    Keeps s₀ (State.agentRequest s a line req) := by
  unfold State.agentRequest
  try dsimp only
  repeat'
    first
    | (with_reducible assumption)
    | (with_reducible apply keeps_dropPacket)
    | (with_reducible apply keeps_agentSends)
    | (with_reducible apply keeps_setHeld1)
    | split

theorem keeps_execRds {s₀ : State} (agent : AgentIx) (line : Nat) (s : State) (h : Keeps s₀ s) :
    OutKeeps s₀ (execRds agent line s) := by
  unfold execRds
  try dsimp only
  repeat'
    first
    | (with_reducible assumption)
    | (with_reducible apply keeps_agentRequest)
    | (with_reducible apply OutKeeps.next)

theorem keeps_execRdu {s₀ : State} (agent : AgentIx) (line : Nat) (s : State) (h : Keeps s₀ s) :
    OutKeeps s₀ (execRdu agent line s) := by
  unfold execRdu
  try dsimp only
  repeat'
    first
    | (with_reducible assumption)
    | (with_reducible apply keeps_agentRequest)
    | (with_reducible apply OutKeeps.next)

theorem keeps_execUpg {s₀ : State} (agent : AgentIx) (line : Nat) (s : State) (h : Keeps s₀ s) :
    OutKeeps s₀ (execUpg agent line s) := by
  unfold execUpg
  try dsimp only
  repeat'
    first
    | (with_reducible assumption)
    | (with_reducible apply keeps_agentRequest)
    | (with_reducible apply OutKeeps.next)

theorem keeps_execEvc {s₀ : State} (agent : AgentIx) (line : Nat) (s : State) (h : Keeps s₀ s) :
    OutKeeps s₀ (execEvc agent line s) := by
  unfold execEvc
  try dsimp only
  repeat'
    first
    | (with_reducible assumption)
    | (with_reducible apply keeps_evict)
    | (with_reducible apply OutKeeps.next)

theorem keeps_execEvd {s₀ : State} (agent : AgentIx) (line : Nat) (stored : Option (List Byte)) (s : State) (h : Keeps s₀ s) :
    OutKeeps s₀ (execEvd agent line stored s) := by
  unfold execEvd
  try dsimp only
  repeat'
    first
    | (with_reducible assumption)
    | (with_reducible apply keeps_evict)
    | (with_reducible apply keeps_storeInto)
    | (with_reducible apply OutKeeps.next)

theorem keeps_execRdns {s₀ : State} (requester : Requester) (line : Nat) (s : State) (h : Keeps s₀ s) :
    OutKeeps s₀ (execRdns requester line s) := by
  unfold execRdns
  try dsimp only
  repeat'
    first
    | (with_reducible assumption)
    | (with_reducible apply keeps_present)
    | (with_reducible apply OutKeeps.next)

theorem keeps_execWfi {s₀ : State} (requester : Requester) (line : Nat) (data : List Byte) (s : State) (h : Keeps s₀ s) :
    OutKeeps s₀ (execWfi requester line data s) := by
  unfold execWfi
  try dsimp only
  repeat'
    first
    | (with_reducible assumption)
    | (with_reducible apply OutKeeps.fault)
    | (with_reducible apply keeps_present)
    | (with_reducible apply OutKeeps.next)
    | split

theorem keeps_execWp {s₀ : State} (requester : Requester) (line : Nat) (mask : BitVec 128) (data : List Byte) (s : State) (h : Keeps s₀ s) :
    OutKeeps s₀ (execWp requester line mask data s) := by
  unfold execWp
  try dsimp only
  repeat'
    first
    | (with_reducible assumption)
    | (with_reducible apply OutKeeps.fault)
    | (with_reducible apply keeps_present)
    | (with_reducible apply OutKeeps.next)
    | split

theorem keeps_execSnps {s₀ : State} (agent : AgentIx) (line : Nat) (stored : Option (List Byte)) (s : State) (h : Keeps s₀ s) :
    OutKeeps s₀ (execSnps agent line stored s) := by
  unfold execSnps
  try dsimp only
  repeat'
    first
    | (with_reducible assumption)
    | (with_reducible apply keeps_snoopAnswer)
    | (with_reducible apply OutKeeps.next)

theorem keeps_execSnpu {s₀ : State} (agent : AgentIx) (line : Nat) (stored : Option (List Byte)) (s : State) (h : Keeps s₀ s) :
    OutKeeps s₀ (execSnpu agent line stored s) := by
  unfold execSnpu
  try dsimp only
  repeat'
    first
    | (with_reducible assumption)
    | (with_reducible apply keeps_snoopAnswer)
    | (with_reducible apply OutKeeps.next)

theorem keeps_execSnpi {s₀ : State} (agent : AgentIx) (line : Nat) (stored : Option (List Byte)) (s : State) (h : Keeps s₀ s) :
    OutKeeps s₀ (execSnpi agent line stored s) := by
  unfold execSnpi
  try dsimp only
  repeat'
    first
    | (with_reducible assumption)
    | (with_reducible apply keeps_snoopAnswer)
    | (with_reducible apply OutKeeps.next)

theorem keeps_execSnpns {s₀ : State} (agent : AgentIx) (line : Nat) (stored : Option (List Byte)) (s : State) (h : Keeps s₀ s) :
    OutKeeps s₀ (execSnpns agent line stored s) := by
  unfold execSnpns
  try dsimp only
  repeat'
    first
    | (with_reducible assumption)
    | (with_reducible apply keeps_snoopAnswer)
    | (with_reducible apply OutKeeps.next)

theorem keeps_execSnprecall {s₀ : State} (agent : AgentIx) (line : Nat) (stored : Option (List Byte)) (s : State) (h : Keeps s₀ s) :
    OutKeeps s₀ (execSnprecall agent line stored s) := by
  unfold execSnprecall
  try dsimp only
  repeat'
    first
    | (with_reducible assumption)
    | (with_reducible apply keeps_snoopAnswer)
    | (with_reducible apply OutKeeps.next)

theorem keeps_execRetry {s₀ : State} (requester : Requester) (s : State) (h : Keeps s₀ s) :
    OutKeeps s₀ (execRetry requester s) := by
  unfold execRetry
  try dsimp only
  repeat'
    first
    | (with_reducible assumption)
    | simp only [Keeps.mk_iff]
    | (with_reducible apply keeps_turnedAway)
    | (with_reducible apply keeps_setHome)
    | (with_reducible apply keeps_takeIn)
    | (with_reducible apply keeps_emit)
    | (with_reducible apply keeps_count)
    | (with_reducible apply OutKeeps.next)
    | (refine OptKeeps.get (by with_reducible assumption) ?_)
    | split

theorem keeps_execAgedAdmission {s₀ : State} (home : HomeIx) (s : State) (h : Keeps s₀ s) :
    OutKeeps s₀ (execAgedAdmission home s) := by
  unfold execAgedAdmission
  try dsimp only
  repeat'
    first
    | (with_reducible assumption)
    | (with_reducible apply keeps_admitAged)
    | (with_reducible apply OutKeeps.next)

theorem keeps_execSnoopLate {s₀ : State} (home : HomeIx) (line : Nat) (s : State) (h : Keeps s₀ s) :
    OutKeeps s₀ (execSnoopLate home line s) := by
  unfold execSnoopLate
  try dsimp only
  repeat'
    first
    | (with_reducible assumption)
    | (with_reducible apply keeps_record)
    | (with_reducible apply keeps_setHome)
    | (with_reducible apply OutKeeps.next)
    | split

theorem keeps_execHomeDead {s₀ : State} (home : HomeIx) (agent : BitVec 9) (s : State) (h : Keeps s₀ s) :
    OutKeeps s₀ (execHomeDead home agent s) := by
  unfold execHomeDead
  try dsimp only
  repeat'
    first
    | (with_reducible assumption)
    | intro _
    | (with_reducible apply keeps_setHome)
    | (with_reducible apply keeps_declareDead)
    | (with_reducible apply Keeps.foldl)
    | (with_reducible apply OutKeeps.next)
    | split

theorem keeps_flashWrite {s₀ : State} (s : State) (off : Nat) (bs : List Byte) (h : Keeps s₀ s) :
    Keeps s₀ (State.flashWrite s off bs) := by
  unfold State.flashWrite
  try dsimp only
  repeat'
    first
    | (with_reducible assumption)
    | simp only [Keeps.mk_iff]

theorem keeps_noteSite {s₀ : State} (s : State) (i : Nat) (h : Keeps s₀ s) :
    Keeps s₀ (State.noteSite s i) := by
  unfold State.noteSite
  try dsimp only
  repeat'
    first
    | (with_reducible assumption)
    | (with_reducible apply keeps_flashWrite)

theorem keeps_appendRepair {s₀ : State} (s : State) (rec : List Byte) (h : Keeps s₀ s) :
    Keeps s₀ (State.appendRepair s rec) := by
  unfold State.appendRepair
  try dsimp only
  repeat'
    first
    | (with_reducible assumption)
    | (with_reducible apply keeps_flashWrite)

theorem keeps_fillBank {s₀ : State} (s : State) (tile : Bool) (unit : Nat) (bank : Nat) (h : Keeps s₀ s) :
    Keeps s₀ (State.fillBank s tile unit bank) := by
  unfold State.fillBank
  exact h.ofMem (fun w => Memory.wf_filter _ w) rfl rfl rfl

theorem keeps_enableBank {s₀ : State} (s : State) (blk : Nat) (tile : Bool) (unit : Nat) (b : Nat) (h : Keeps s₀ s) :
    Keeps s₀ (State.enableBank s blk tile unit b) := by
  unfold State.enableBank
  try dsimp only
  repeat'
    first
    | (with_reducible assumption)
    | (with_reducible apply keeps_fillBank)
    | (with_reducible apply keeps_setBank)
    | split

theorem keeps_enableBanks {s₀ : State} (s : State) (blk : Nat) (h : Keeps s₀ s) :
    Keeps s₀ (State.enableBanks s blk) := by
  unfold State.enableBanks
  try dsimp only
  repeat'
    first
    | (with_reducible assumption)
    | intro _
    | (with_reducible apply keeps_enableBank)
    | (with_reducible apply keeps_clearOnce)
    | (with_reducible apply Keeps.foldl)
    | split

theorem keeps_disableBanks {s₀ : State} (s : State) (blk : Nat) (h : Keeps s₀ s) :
    Keeps s₀ (State.disableBanks s blk) := by
  unfold State.disableBanks
  try dsimp only
  repeat'
    first
    | (with_reducible assumption)
    | intro _
    | (with_reducible apply keeps_setTester)
    | (with_reducible apply keeps_llcDrop)
    | (with_reducible apply Keeps.foldl)
    | split

theorem keeps_repairRow {s₀ : State} (s : State) (blk : Nat) (tile : Bool) (unit : Nat) (b : Nat) (row : Nat) (h : Keeps s₀ s) :
    Keeps s₀ (State.repairRow s blk tile unit b row) := by
  unfold State.repairRow
  try dsimp only
  repeat'
    first
    | (with_reducible assumption)
    | (with_reducible apply keeps_record)
    | (with_reducible apply keeps_appendRepair)
    | (with_reducible apply keeps_count)
    | (with_reducible apply keeps_setBank)
    | split

theorem keeps_reapplyRecord {s₀ : State} (s : State) (r : Nat) (h : Keeps s₀ s) :
    Keeps s₀ (State.reapplyRecord s r) := by
  unfold State.reapplyRecord
  try dsimp only
  repeat'
    first
    | (with_reducible assumption)
    | (with_reducible apply keeps_setBank)
    | split

theorem keeps_reapplyRepairs {s₀ : State} (s : State) (sel : Nat → Bool) (h : Keeps s₀ s) :
    Keeps s₀ (State.reapplyRepairs s sel) := by
  unfold State.reapplyRepairs
  try dsimp only
  repeat'
    first
    | (with_reducible assumption)
    | (with_reducible apply keeps_reapplyRecord)
    | (with_reducible apply Keeps.foldl)

theorem keeps_copyRegion {s₀ : State} (s : State) (blk : Nat) (tile : Bool) (unit : Nat) (b : Nat) (region : Nat) (h : Keeps s₀ s) :
    Keeps s₀ (State.copyRegion s blk tile unit b region) := by
  unfold State.copyRegion
  try dsimp only
  repeat'
    first
    | (with_reducible assumption)
    | intro _
    | (with_reducible apply keeps_mendWords)
    | (with_reducible apply Keeps.foldl)
    | split

theorem keeps_finishTest {s₀ : State} (s : State) (blk : Nat) (engine : Nat) (h : Keeps s₀ s) :
    Keeps s₀ (State.finishTest s blk engine) := by
  unfold State.finishTest
  try dsimp only
  repeat'
    first
    | (with_reducible assumption)
    | intro _
    | (with_reducible apply keeps_copyRegion)
    | (with_reducible apply keeps_setTester)
    | (with_reducible apply keeps_count)
    | (with_reducible apply keeps_repairRow)
    | (with_reducible apply Keeps.foldl)
    | split

theorem keeps_finishTests {s₀ : State} (s : State) (blk : Nat) (h : Keeps s₀ s) :
    Keeps s₀ (State.finishTests s blk) := by
  unfold State.finishTests
  try dsimp only
  repeat'
    first
    | (with_reducible assumption)
    | intro _
    | (with_reducible apply keeps_finishTest)
    | (with_reducible apply Keeps.foldl)

theorem keeps_bankBoundary {s₀ : State} (s : State) (h : Keeps s₀ s) :
    Keeps s₀ (State.bankBoundary s) := by
  unfold State.bankBoundary
  try dsimp only
  repeat'
    first
    | (with_reducible assumption)
    | intro _
    | (with_reducible apply keeps_count)
    | (with_reducible apply keeps_setBank)
    | (with_reducible apply keeps_finishTests)
    | (with_reducible apply Keeps.foldl)
    | split

theorem keeps_execBankWake {s₀ : State} (block : BitVec 16) (bank : BitVec 8) (s : State) (h : Keeps s₀ s) :
    OutKeeps s₀ (execBankWake block bank s) := by
  unfold execBankWake
  try dsimp only
  repeat'
    first
    | (with_reducible assumption)
    | (with_reducible apply keeps_count)
    | (with_reducible apply keeps_setBank)
    | (with_reducible apply OutKeeps.next)
    | split

theorem keeps_execRegionTestStart {s₀ : State} (block : BitVec 16) (tester : Fin 4) (failing : List Nat) (s : State) (h : Keeps s₀ s) :
    OutKeeps s₀ (execRegionTestStart block tester failing s) := by
  unfold execRegionTestStart
  try dsimp only
  repeat'
    first
    | (with_reducible assumption)
    | (with_reducible apply keeps_finishTest)
    | (with_reducible apply keeps_setTester)
    | (with_reducible apply keeps_copyRegion)
    | (with_reducible apply OutKeeps.next)
    | split

theorem keeps_upset {s₀ : State} (s : State) (base : Nat) (errors : List (Nat × BitVec 144)) (h : Keeps s₀ s) :
    Keeps s₀ (State.upset s base errors) := by
  unfold State.upset
  try dsimp only
  repeat'
    first
    | (with_reducible assumption)
    | simp only [Keeps.mk_iff]

theorem keeps_scrubLine {s₀ : State} (s : State) (c : Nat) (a : Nat) (errors : List (Nat × BitVec 144)) (h : Keeps s₀ s) :
    Keeps s₀ (State.scrubLine s c a errors) := by
  unfold State.scrubLine
  try dsimp only
  repeat'
    first
    | (with_reducible assumption)
    | (with_reducible apply keeps_clearWay)
    | (with_reducible apply keeps_mendDram)
    | (with_reducible apply keeps_upset)
    | (with_reducible apply keeps_count)
    | (with_reducible apply keeps_countRequest)
    | split

theorem keeps_execScrubRead {s₀ : State} (ctrl : DramIx) (errors : List (Nat × BitVec 144)) (s : State) (h : Keeps s₀ s) :
    OutKeeps s₀ (execScrubRead ctrl errors s) := by
  unfold execScrubRead
  dsimp only
  split
  · exact OutKeeps.next h
  · have k1 := keeps_scrubLine s ctrl.val (if ctrl.val < 16 then hbmLine ctrl.val (s.dram ctrl.val).scrubPos
      else lpxLine (ctrl.val - 16) (s.dram ctrl.val).scrubPos) errors h
    generalize State.scrubLine _ _ _ _ = s1 at k1 ⊢
    generalize (if ctrl.val < 16 then hbmLines else lpxLines) = n
    split
    · exact OutKeeps.next (keeps_setDram _ _ _ k1)
    · exact OutKeeps.next (keeps_count _ _ _ _ (keeps_setDram _ _ _ k1))

theorem keeps_hotBoundary {s₀ : State} (s : State) (h : Keeps s₀ s) :
    Keeps s₀ (State.hotBoundary s) := by
  unfold State.hotBoundary
  try dsimp only
  repeat'
    first
    | (with_reducible assumption)
    | intro _
    | (with_reducible apply keeps_count)
    | (with_reducible apply Keeps.foldl)
    | split

theorem keeps_execHotRefresh {s₀ : State} (stack : Ix16) (celsius : Byte) (s : State) (h : Keeps s₀ s) :
    OutKeeps s₀ (execHotRefresh stack celsius s) := by
  unfold execHotRefresh
  try dsimp only
  repeat'
    first
    | (with_reducible assumption)
    | (with_reducible apply keeps_setDram)
    | (with_reducible apply OutKeeps.next)

theorem keeps_flagBit {s₀ : State} (s : State) (core : Nat) (unit : Nat) (detail : Nat) (bit : Nat) (set : Bool) (h : Keeps s₀ s) :
    Keeps s₀ (State.flagBit s core unit detail bit set) := by
  unfold State.flagBit
  try dsimp only
  repeat'
    first
    | (with_reducible assumption)
    | (with_reducible apply keeps_recordOnce)
    | split

theorem keeps_coreFlags {s₀ : State} (s : State) (core : Nat) (unit : Nat) (detail : Nat) (f : Flags) (h : Keeps s₀ s) :
    Keeps s₀ (State.coreFlags s core unit detail f) := by
  unfold State.coreFlags
  try dsimp only
  repeat'
    first
    | (with_reducible assumption)
    | (with_reducible apply keeps_setCore)
    | (with_reducible apply keeps_flagBit)

theorem keeps_elemAt {s₀ : State} (s : State) (who : Nat) (core : Nat) (t : Tensor) (i0 : Nat) (i1 : Nat) (i2 : Nat) (i3 : Nat) (h : Keeps s₀ s) :
    Keeps s₀ (State.elemAt s who core t i0 i1 i2 i3).1 := by
  unfold State.elemAt
  try dsimp only
  repeat'
    first
    | (with_reducible assumption)
    | (with_reducible apply keeps_ownRead)
    | split

theorem keeps_rowAt {s₀ : State} (s : State) (who : Nat) (core : Nat) (t : Tensor) (lo : Nat) (n : Nat) (i1 : Nat) (h : Keeps s₀ s) :
    Keeps s₀ (State.rowAt s who core t lo n i1).1 := by
  unfold State.rowAt
  try dsimp only
  repeat'
    first
    | (with_reducible assumption)
    | (with_reducible apply keeps_ownRead)
    | split

theorem keeps_elem4At {s₀ : State} (s : State) (who : Nat) (core : Nat) (t : Tensor) (target : Fmt) (i0 : Nat) (i1 : Nat) (nonSat : Bool) (h : Keeps s₀ s) :
    Keeps s₀ (State.elem4At s who core t target i0 i1 nonSat).1 := by
  unfold State.elem4At
  try dsimp only
  repeat'
    first
    | (with_reducible assumption)
    | (with_reducible apply keeps_ownRead)
    | split

theorem keeps_setAccount {s₀ : State} (s : State) (a : Nat) (x3 : Account) (h : Keeps s₀ s) :
    Keeps s₀ (State.setAccount s a x3) := by
  unfold State.setAccount
  try dsimp only
  repeat'
    first
    | (with_reducible assumption)
    | simp only [Keeps.mk_iff]

theorem keeps_setAgentUse {s₀ : State} (s : State) (x2 : Nat) (u : AgentUse) (h : Keeps s₀ s) :
    Keeps s₀ (State.setAgentUse s x2 u) := by
  unfold State.setAgentUse
  try dsimp only
  repeat'
    first
    | (with_reducible assumption)
    | simp only [Keeps.mk_iff]

theorem keeps_charge {s₀ : State} (s : State) (agent : Nat) (w : Work) (h : Keeps s₀ s) :
    Keeps s₀ (State.charge s agent w) := by
  unfold State.charge
  try dsimp only
  repeat'
    first
    | (with_reducible assumption)
    | intro _
    | (with_reducible apply keeps_setAgentUse)
    | (with_reducible apply keeps_count)
    | (with_reducible apply keeps_setAccount)
    | (with_reducible apply Keeps.foldl)
    | split

theorem keeps_holdPrice {s₀ : State} (s : State) (agent : Nat) (w : Work) (h : Keeps s₀ s) :
    Keeps s₀ (State.holdPrice s agent w) := by
  unfold State.holdPrice
  try dsimp only
  repeat'
    first
    | (with_reducible assumption)
    | (with_reducible apply keeps_setAgentUse)

theorem keeps_dropHeld {s₀ : State} (s : State) (agent : Nat) (h : Keeps s₀ s) :
    Keeps s₀ (State.dropHeld s agent) := by
  unfold State.dropHeld
  try dsimp only
  repeat'
    first
    | (with_reducible assumption)
    | (with_reducible apply keeps_setAgentUse)
    | split

theorem keeps_tryCharge {s₀ : State} (s : State) (agent : Nat) (w : Work) (h : Keeps s₀ s) :
    OptKeeps s₀ (State.tryCharge s agent w) := by
  unfold State.tryCharge
  try dsimp only
  repeat'
    first
    | (with_reducible assumption)
    | (with_reducible apply OptKeeps.none)
    | (with_reducible apply keeps_charge)
    | (with_reducible apply OptKeeps.some)
    | split

theorem keeps_prefetchLine {s₀ : State} (s : State) (core : Nat) (a : Int) (h : Keeps s₀ s) :
    Keeps s₀ (State.prefetchLine s core a) := by
  unfold State.prefetchLine
  try dsimp only
  repeat'
    first
    | (with_reducible assumption)
    | (with_reducible apply keeps_count)
    | (with_reducible apply keeps_memTraffic)
    | split

theorem keeps_prefetchTo {s₀ : State} (s : State) (core : Nat) (p : Prefetch) (upto : Nat) (h : Keeps s₀ s) :
    Keeps s₀ (State.prefetchTo s core p upto) := by
  unfold State.prefetchTo
  try dsimp only
  repeat'
    first
    | (with_reducible assumption)
    | intro _
    | (with_reducible apply keeps_prefetchLine)
    | (with_reducible apply Keeps.foldl)

theorem keeps_setPrefetch {s₀ : State} (s : State) (core : Nat) (i : Nat) (p : Prefetch) (h : Keeps s₀ s) :
    Keeps s₀ (State.setPrefetch s core i p) := by
  unfold State.setPrefetch
  try dsimp only
  repeat'
    first
    | (with_reducible assumption)
    | (with_reducible apply keeps_setCore)

theorem keeps_prefetchAdvance {s₀ : State} (s : State) (core : Nat) (a : Nat) (n : Nat) (h : Keeps s₀ s) :
    Keeps s₀ (State.prefetchAdvance s core a n) := by
  unfold State.prefetchAdvance
  try dsimp only
  repeat'
    first
    | (with_reducible assumption)
    | intro _
    | (with_reducible apply keeps_setPrefetch)
    | (with_reducible apply keeps_prefetchTo)
    | (with_reducible apply Keeps.foldl)
    | split

theorem keeps_fetchAhead {s₀ : State} (s : State) (core : Nat) (h : Keeps s₀ s) :
    Keeps s₀ (State.fetchAhead s core) := by
  unfold State.fetchAhead
  try dsimp only
  repeat'
    first
    | (with_reducible assumption)
    | (with_reducible apply keeps_hostStall)
    | (with_reducible apply keeps_cachedRead)
    | (with_reducible apply keeps_prefetchAdvance)
    | (with_reducible apply keeps_setCore)
    | split

theorem keeps_refuse {s₀ : State} (s : State) (core : Nat) (code : Nat) (h : Keeps s₀ s) :
    Keeps s₀ (State.refuse s core code) := by
  unfold State.refuse
  try dsimp only
  repeat'
    first
    | (with_reducible assumption)
    | (with_reducible apply keeps_record)
    | (with_reducible apply keeps_setCore)

theorem keeps_issue {s₀ : State} (s : State) (core : Nat) (op : CoreOp) (run : State → Nat → Issue) (h : Keeps s₀ s) (hrun : ∀ t w, Keeps s₀ t → Issue.Keeps s₀ (run t w)) :
    Keeps s₀ (State.issue s core op run) := by
  unfold State.issue
  try dsimp only
  repeat'
    first
    | (with_reducible assumption)
    | intro _
    | (with_reducible apply OutKeeps.fault)
    | (with_reducible apply OutKeeps.refused)
    | (with_reducible apply OptKeeps.none)
    | (with_reducible apply ExKeeps.error)
    | (with_reducible apply ExKeeps1.error)
    | (with_reducible apply Issue.Keeps.refuse)
    | simp only [Keeps.mk_iff]
    | (with_reducible apply keeps_fetchAhead)
    | (with_reducible apply keeps_refuse)
    | (with_reducible apply keeps_setCore)
    | (with_reducible apply keeps_count)
    | (with_reducible apply hrun)
    | (with_reducible apply Keeps.foldl)
    | (with_reducible apply Keeps.foldl1)
    | (with_reducible apply OutKeeps.next)
    | (with_reducible apply OptKeeps.some)
    | (with_reducible apply ExKeeps.ok)
    | (with_reducible apply ExKeeps1.ok)
    | (refine Keeps.ofFst (by with_reducible assumption) ?_)
    | (refine Keeps.ofSnd (by with_reducible assumption) ?_)
    | (refine OptKeeps.get (by with_reducible assumption) ?_)
    | (refine ExKeeps.get (by with_reducible assumption) ?_)
    | (refine ExKeeps1.get (by with_reducible assumption) ?_)
    | (with_reducible apply Issue.Keeps.go)
    | (with_reducible apply Issue.Keeps.stall)
    | (refine Issue.Keeps.getGo (by with_reducible assumption) ?_)
    | (refine Issue.Keeps.getStall (by with_reducible assumption) ?_)
    | split

theorem keeps_pay {s₀ : State} (s : State) (core : Nat) (work : Work) (h : Keeps s₀ s) :
    Keeps s₀ (State.pay s core work) := by
  unfold State.pay
  try dsimp only
  repeat'
    first
    | (with_reducible assumption)
    | (with_reducible apply keeps_charge)
    | (with_reducible apply keeps_setCore)

theorem keeps_priceHeld {s₀ : State} (s : State) (core : Nat) (work : Work) (why : BitVec 7) (h : Keeps s₀ s) :
    Keeps s₀ (State.priceHeld s core work why) := by
  unfold State.priceHeld
  try dsimp only
  repeat'
    first
    | (with_reducible assumption)
    | (with_reducible apply keeps_dropHeld)
    | (with_reducible apply keeps_holdPrice)
    | split

theorem keeps_enableCore {s₀ : State} (s : State) (core : Nat) (h : Keeps s₀ s) :
    Keeps s₀ (State.enableCore s core) := by
  unfold State.enableCore
  try dsimp only
  repeat'
    first
    | (with_reducible assumption)
    | (with_reducible apply keeps_cachedRead)
    | (with_reducible apply keeps_prefetchAdvance)
    | (with_reducible apply keeps_setCore)
    | (with_reducible apply keeps_refuse)
    | split

theorem keeps_sendToken {s₀ : State} (s : State) (m : TokMsg) (h : Keeps s₀ s) :
    Keeps s₀ (State.sendToken s m) := by
  unfold State.sendToken
  try dsimp only
  repeat'
    first
    | (with_reducible assumption)
    | simp only [Keeps.mk_iff]
    | (with_reducible apply keeps_carry)
    | split

theorem keeps_sendGrant {s₀ : State} (s : State) (tile : Nat) (agent : Nat) (h : Keeps s₀ s) :
    Keeps s₀ (State.sendGrant s tile agent) := by
  unfold State.sendGrant
  try dsimp only
  repeat'
    first
    | (with_reducible assumption)
    | simp only [Keeps.mk_iff]
    | (with_reducible apply keeps_carry)

theorem keeps_discardUnstarted {s₀ : State} (s : State) (e : Nat) (h : Keeps s₀ s) :
    Keeps s₀ (State.discardUnstarted s e) := by
  unfold State.discardUnstarted
  try dsimp only
  repeat'
    first
    | (with_reducible assumption)
    | (with_reducible apply keeps_setEngine)
    | (with_reducible apply keeps_count)
    | (with_reducible apply keeps_setCore)
    | split

theorem keeps_startCoreDisable {s₀ : State} (s : State) (core : Nat) (h : Keeps s₀ s) :
    Keeps s₀ (State.startCoreDisable s core) := by
  unfold State.startCoreDisable
  try dsimp only
  repeat'
    first
    | (with_reducible assumption)
    | intro _
    | (with_reducible apply keeps_hostForget)
    | (with_reducible apply keeps_discardUnstarted)
    | (with_reducible apply keeps_count)
    | (with_reducible apply keeps_sendToken)
    | (with_reducible apply keeps_dropHeld)
    | (with_reducible apply keeps_setCore)
    | (with_reducible apply Keeps.foldl)
    | split

theorem keeps_doNop {s₀ : State} (core : Nat) (s : State) (x3 : Nat) (h : Keeps s₀ s) :
    Issue.Keeps s₀ (doNop core s x3) := by
  unfold doNop
  try dsimp only
  repeat'
    first
    | (with_reducible assumption)
    | (with_reducible apply Issue.Keeps.go)

theorem keeps_doHalt {s₀ : State} (core : Nat) (s : State) (x3 : Nat) (h : Keeps s₀ s) :
    Issue.Keeps s₀ (doHalt core s x3) := by
  unfold doHalt
  try dsimp only
  repeat'
    first
    | (with_reducible assumption)
    | (with_reducible apply keeps_setCore)
    | (with_reducible apply Issue.Keeps.go)

theorem keeps_doSets {s₀ : State} (core : Nat) (s : State) (w : Nat) (h : Keeps s₀ s) :
    Issue.Keeps s₀ (doSets core s w) := by
  unfold doSets
  try dsimp only
  repeat'
    first
    | (with_reducible assumption)
    | (with_reducible apply keeps_setCore)
    | (with_reducible apply Issue.Keeps.go)

theorem keeps_doAdds {s₀ : State} (core : Nat) (s : State) (w : Nat) (h : Keeps s₀ s) :
    Issue.Keeps s₀ (doAdds core s w) := by
  unfold doAdds
  try dsimp only
  repeat'
    first
    | (with_reducible assumption)
    | (with_reducible apply keeps_setCore)
    | (with_reducible apply Issue.Keeps.go)

theorem keeps_doLoop {s₀ : State} (core : Nat) (s : State) (w : Nat) (h : Keeps s₀ s) :
    Issue.Keeps s₀ (doLoop core s w) := by
  unfold doLoop
  try dsimp only
  repeat'
    first
    | (with_reducible assumption)
    | (with_reducible apply Issue.Keeps.refuse)
    | (with_reducible apply keeps_setCore)
    | (with_reducible apply Issue.Keeps.go)
    | split

theorem keeps_doJump {s₀ : State} (core : Nat) (s : State) (w : Nat) (h : Keeps s₀ s) :
    Issue.Keeps s₀ (doJump core s w) := by
  unfold doJump
  try dsimp only
  repeat'
    first
    | (with_reducible assumption)
    | (with_reducible apply Issue.Keeps.refuse)
    | (with_reducible apply Issue.Keeps.go)
    | split

theorem keeps_doBarrier {s₀ : State} (core : Nat) (s : State) (w : Nat) (h : Keeps s₀ s) :
    Issue.Keeps s₀ (doBarrier core s w) := by
  unfold doBarrier
  try dsimp only
  repeat'
    first
    | (with_reducible assumption)
    | (with_reducible apply Issue.Keeps.go)
    | (with_reducible apply Issue.Keeps.stall)
    | split

theorem keeps_execNop {s₀ : State} (core : CoreIx) (s : State) (h : Keeps s₀ s) :
    OutKeeps s₀ (execNop core s) := by
  unfold execNop
  try dsimp only
  repeat'
    first
    | (with_reducible assumption)
    | (with_reducible apply keeps_issue)
    | (with_reducible apply keeps_doNop)
    | (with_reducible apply OutKeeps.next)

theorem keeps_execHalt {s₀ : State} (core : CoreIx) (s : State) (h : Keeps s₀ s) :
    OutKeeps s₀ (execHalt core s) := by
  unfold execHalt
  try dsimp only
  repeat'
    first
    | (with_reducible assumption)
    | (with_reducible apply keeps_issue)
    | (with_reducible apply keeps_doHalt)
    | (with_reducible apply OutKeeps.next)

theorem keeps_execSets {s₀ : State} (core : CoreIx) (s : State) (h : Keeps s₀ s) :
    OutKeeps s₀ (execSets core s) := by
  unfold execSets
  try dsimp only
  repeat'
    first
    | (with_reducible assumption)
    | (with_reducible apply keeps_issue)
    | (with_reducible apply keeps_doSets)
    | (with_reducible apply OutKeeps.next)

theorem keeps_execAdds {s₀ : State} (core : CoreIx) (s : State) (h : Keeps s₀ s) :
    OutKeeps s₀ (execAdds core s) := by
  unfold execAdds
  try dsimp only
  repeat'
    first
    | (with_reducible assumption)
    | (with_reducible apply keeps_issue)
    | (with_reducible apply keeps_doAdds)
    | (with_reducible apply OutKeeps.next)

theorem keeps_execLoop {s₀ : State} (core : CoreIx) (s : State) (h : Keeps s₀ s) :
    OutKeeps s₀ (execLoop core s) := by
  unfold execLoop
  try dsimp only
  repeat'
    first
    | (with_reducible assumption)
    | (with_reducible apply keeps_issue)
    | (with_reducible apply keeps_doLoop)
    | (with_reducible apply OutKeeps.next)

theorem keeps_execJump {s₀ : State} (core : CoreIx) (s : State) (h : Keeps s₀ s) :
    OutKeeps s₀ (execJump core s) := by
  unfold execJump
  try dsimp only
  repeat'
    first
    | (with_reducible assumption)
    | (with_reducible apply keeps_issue)
    | (with_reducible apply keeps_doJump)
    | (with_reducible apply OutKeeps.next)

theorem keeps_execBarrier {s₀ : State} (core : CoreIx) (s : State) (h : Keeps s₀ s) :
    OutKeeps s₀ (execBarrier core s) := by
  unfold execBarrier
  try dsimp only
  repeat'
    first
    | (with_reducible assumption)
    | (with_reducible apply keeps_issue)
    | (with_reducible apply keeps_doBarrier)
    | (with_reducible apply OutKeeps.next)

theorem keeps_countRemote {s₀ : State} (s : State) (agent : Nat) (tile : Nat) (h : Keeps s₀ s) :
    Keeps s₀ (State.countRemote s agent tile) := by
  unfold State.countRemote
  try dsimp only
  repeat'
    first
    | (with_reducible assumption)
    | (with_reducible apply keeps_count)
    | split

theorem keeps_arrived {s₀ : State} (s : State) (m : TokMsg) (h : Keeps s₀ s) :
    Keeps s₀ (State.arrived s m) := by
  unfold State.arrived
  try dsimp only
  repeat'
    first
    | (with_reducible assumption)
    | simp only [Keeps.mk_iff]

theorem keeps_setCount {s₀ : State} (s : State) (i : Nat) (v : Nat) (h : Keeps s₀ s) :
    Keeps s₀ (State.setCount s i v) := by
  unfold State.setCount
  try dsimp only
  repeat'
    first
    | (with_reducible assumption)
    | (with_reducible apply keeps_setToken)
    | split

theorem keeps_release {s₀ : State} (s : State) (i : Nat) (h : Keeps s₀ s) :
    Keeps s₀ (State.release s i) := by
  unfold State.release
  try dsimp only
  repeat'
    first
    | (with_reducible assumption)
    | intro _
    | (with_reducible apply keeps_setCount)
    | (with_reducible apply keeps_setToken)
    | (with_reducible apply keeps_sendGrant)
    | (with_reducible apply Keeps.foldl)

theorem keeps_applySignal {s₀ : State} (s : State) (token : Nat) (value : Nat) (h : Keeps s₀ s) :
    Keeps s₀ (State.applySignal s token value) := by
  unfold State.applySignal
  try dsimp only
  repeat'
    first
    | (with_reducible assumption)
    | (with_reducible apply keeps_count)
    | (with_reducible apply keeps_record)
    | (with_reducible apply keeps_release)
    | (with_reducible apply keeps_setCount)
    | split

theorem keeps_applyWait {s₀ : State} (s : State) (agent : Nat) (token : Nat) (value : Nat) (h : Keeps s₀ s) :
    Keeps s₀ (State.applyWait s agent token value) := by
  unfold State.applyWait
  try dsimp only
  repeat'
    first
    | (with_reducible assumption)
    | (with_reducible apply keeps_sendGrant)
    | (with_reducible apply keeps_release)
    | (with_reducible apply keeps_setCount)
    | (with_reducible apply keeps_count)
    | (with_reducible apply keeps_setToken)
    | split

theorem keeps_reportToken {s₀ : State} (s : State) (token : Nat) (taken : Bool) (h : Keeps s₀ s) :
    Keeps s₀ (State.reportToken s token taken) := by
  unfold State.reportToken
  try dsimp only
  repeat'
    first
    | (with_reducible assumption)
    | (with_reducible apply keeps_setReg)

theorem keeps_applyTake {s₀ : State} (s : State) (token : Nat) (value : Nat) (h : Keeps s₀ s) :
    Keeps s₀ (State.applyTake s token value) := by
  unfold State.applyTake
  try dsimp only
  repeat'
    first
    | (with_reducible assumption)
    | (with_reducible apply keeps_reportToken)
    | (with_reducible apply keeps_release)
    | (with_reducible apply keeps_setCount)
    | split

theorem keeps_applyStepTake {s₀ : State} (s : State) (e : Nat) (token : Nat) (h : Keeps s₀ s) :
    Keeps s₀ (State.applyStepTake s e token) := by
  unfold State.applyStepTake
  try dsimp only
  repeat'
    first
    | (with_reducible assumption)
    | (with_reducible apply keeps_release)
    | (with_reducible apply keeps_setCount)
    | (with_reducible apply keeps_setCmp)
    | split

theorem keeps_refuseToken {s₀ : State} (s : State) (agent : Nat) (token : Nat) (h : Keeps s₀ s) :
    Keeps s₀ (State.refuseToken s agent token) := by
  unfold State.refuseToken
  try dsimp only
  repeat'
    first
    | (with_reducible assumption)
    | (with_reducible apply keeps_recordOnce)
    | (with_reducible apply keeps_count)

theorem keeps_applyHeld {s₀ : State} (s : State) (op : HeldOp) (h : Keeps s₀ s) :
    Keeps s₀ (State.applyHeld s op) := by
  unfold State.applyHeld
  try dsimp only
  repeat'
    first
    | (with_reducible assumption)
    | (with_reducible apply keeps_applySignal)
    | (with_reducible apply keeps_refuseToken)
    | (with_reducible apply keeps_applyWait)
    | (with_reducible apply keeps_applyTake)
    | (with_reducible apply keeps_reportToken)
    | (with_reducible apply keeps_applyStepTake)
    | split

theorem keeps_offer {s₀ : State} (s : State) (tile : Nat) (op : HeldOp) (h : Keeps s₀ s) :
    Keeps s₀ (State.offer s tile op) := by
  unfold State.offer
  try dsimp only
  repeat'
    first
    | (with_reducible assumption)
    | simp only [Keeps.mk_iff]
    | (with_reducible apply keeps_applyHeld)
    | (with_reducible apply keeps_count)
    | split

theorem keeps_enableTok {s₀ : State} (s : State) (tile : Nat) (h : Keeps s₀ s) :
    Keeps s₀ (State.enableTok s tile) := by
  unfold State.enableTok
  try dsimp only
  repeat'
    first
    | (with_reducible assumption)
    | simp only [Keeps.mk_iff]
    | (with_reducible apply keeps_setFld)
    | (with_reducible apply keeps_applyHeld)
    | (with_reducible apply Keeps.foldl)

theorem keeps_grantTo {s₀ : State} (s : State) (agent : Nat) (h : Keeps s₀ s) :
    Keeps s₀ (State.grantTo s agent) := by
  unfold State.grantTo
  try dsimp only
  repeat'
    first
    | (with_reducible assumption)
    | simp only [Keeps.mk_iff]
    | (with_reducible apply keeps_setCore)
    | (with_reducible apply keeps_setIntake)
    | (with_reducible apply keeps_setSweep)
    | split

theorem keeps_withdrawn {s₀ : State} (s : State) (agent : Nat) (h : Keeps s₀ s) :
    Keeps s₀ (State.withdrawn s agent) := by
  unfold State.withdrawn
  try dsimp only
  repeat'
    first
    | (with_reducible assumption)
    | simp only [Keeps.mk_iff]
    | (with_reducible apply keeps_setCore)
    | (with_reducible apply keeps_setIntake)
    | (with_reducible apply keeps_setSweep)
    | split

theorem keeps_removeWaits {s₀ : State} (s : State) (agent : Nat) (h : Keeps s₀ s) :
    Keeps s₀ (State.removeWaits s agent) := by
  unfold State.removeWaits
  try dsimp only
  repeat'
    first
    | (with_reducible assumption)
    | simp only [Keeps.mk_iff]

theorem keeps_doWait {s₀ : State} (core : Nat) (s : State) (w : Nat) (h : Keeps s₀ s) :
    Issue.Keeps s₀ (doWait core s w) := by
  unfold doWait
  try dsimp only
  repeat'
    first
    | (with_reducible assumption)
    | (with_reducible apply Issue.Keeps.refuse)
    | (with_reducible apply keeps_sendToken)
    | (with_reducible apply keeps_setCore)
    | (with_reducible apply Issue.Keeps.go)
    | split

theorem keeps_doSignal {s₀ : State} (core : Nat) (s : State) (w : Nat) (h : Keeps s₀ s) :
    Issue.Keeps s₀ (doSignal core s w) := by
  unfold doSignal
  try dsimp only
  repeat'
    first
    | (with_reducible assumption)
    | (with_reducible apply Issue.Keeps.refuse)
    | (with_reducible apply keeps_setCore)
    | (with_reducible apply Issue.Keeps.go)
    | (with_reducible apply Issue.Keeps.stall)
    | split

theorem keeps_execWait {s₀ : State} (core : CoreIx) (s : State) (h : Keeps s₀ s) :
    OutKeeps s₀ (execWait core s) := by
  unfold execWait
  try dsimp only
  repeat'
    first
    | (with_reducible assumption)
    | (with_reducible apply keeps_issue)
    | (with_reducible apply keeps_doWait)
    | (with_reducible apply OutKeeps.next)

theorem keeps_execSignal {s₀ : State} (core : CoreIx) (s : State) (h : Keeps s₀ s) :
    OutKeeps s₀ (execSignal core s) := by
  unfold execSignal
  try dsimp only
  repeat'
    first
    | (with_reducible assumption)
    | (with_reducible apply keeps_issue)
    | (with_reducible apply keeps_doSignal)
    | (with_reducible apply OutKeeps.next)

theorem keeps_execSignalApply {s₀ : State} (core : CoreIx) (s : State) (h : Keeps s₀ s) :
    OutKeeps s₀ (execSignalApply core s) := by
  unfold execSignalApply
  try dsimp only
  repeat'
    first
    | (with_reducible assumption)
    | (with_reducible apply keeps_setCore)
    | (with_reducible apply keeps_dropPacket)
    | (with_reducible apply keeps_sendToken)
    | (with_reducible apply OutKeeps.next)
    | split

theorem keeps_tokenArrival {s₀ : State} (s : State) (agent : Nat) (tile : Nat) (m : TokMsg) (op : HeldOp) (h : Keeps s₀ s) :
    Keeps s₀ (State.tokenArrival s agent tile m op) := by
  unfold State.tokenArrival
  try dsimp only
  repeat'
    first
    | (with_reducible assumption)
    | (with_reducible apply keeps_arrived)
    | (with_reducible apply keeps_dropPacket)
    | (with_reducible apply keeps_offer)
    | (with_reducible apply keeps_countRemote)
    | split

theorem keeps_execTokenSignalArrival {s₀ : State} (agent : Nat) (token : BitVec 16) (value : W32) (s : State) (h : Keeps s₀ s) :
    OutKeeps s₀ (execTokenSignalArrival agent token value s) := by
  unfold execTokenSignalArrival
  try dsimp only
  repeat'
    first
    | (with_reducible assumption)
    | (with_reducible apply keeps_tokenArrival)
    | (with_reducible apply OutKeeps.next)

theorem keeps_execTokenWaitArrival {s₀ : State} (agent : Nat) (token : BitVec 16) (value : W32) (s : State) (h : Keeps s₀ s) :
    OutKeeps s₀ (execTokenWaitArrival agent token value s) := by
  unfold execTokenWaitArrival
  try dsimp only
  repeat'
    first
    | (with_reducible assumption)
    | (with_reducible apply keeps_tokenArrival)
    | (with_reducible apply OutKeeps.next)

theorem keeps_execTokenGrantArrival {s₀ : State} (agent : Nat) (s : State) (h : Keeps s₀ s) :
    OutKeeps s₀ (execTokenGrantArrival agent s) := by
  unfold execTokenGrantArrival
  try dsimp only
  repeat'
    first
    | (with_reducible assumption)
    | (with_reducible apply keeps_grantTo)
    | (with_reducible apply keeps_arrived)
    | (with_reducible apply OutKeeps.next)
    | split

theorem keeps_execWithdrawal {s₀ : State} (agent : Nat) (s : State) (h : Keeps s₀ s) :
    OutKeeps s₀ (execWithdrawal agent s) := by
  unfold execWithdrawal
  try dsimp only
  repeat'
    first
    | (with_reducible assumption)
    | (with_reducible apply keeps_withdrawn)
    | (with_reducible apply keeps_removeWaits)
    | (with_reducible apply keeps_countRemote)
    | (with_reducible apply OutKeeps.next)
    | split

theorem keeps_tokCmd {s₀ : State} (s : State) (tile : Nat) (token : Nat) (ok : Bool) (run : State → State) (h : Keeps s₀ s) (hrun : ∀ t, Keeps s₀ t → Keeps s₀ (run t)) :
    Keeps s₀ (State.tokCmd s tile token ok run) := by
  unfold State.tokCmd
  try dsimp only
  repeat'
    first
    | (with_reducible assumption)
    | intro _
    | (with_reducible apply OutKeeps.fault)
    | (with_reducible apply OutKeeps.refused)
    | (with_reducible apply OptKeeps.none)
    | (with_reducible apply ExKeeps.error)
    | (with_reducible apply ExKeeps1.error)
    | (with_reducible apply Issue.Keeps.refuse)
    | simp only [Keeps.mk_iff]
    | (with_reducible apply keeps_count)
    | (with_reducible apply hrun)
    | (with_reducible apply Keeps.foldl)
    | (with_reducible apply Keeps.foldl1)
    | (with_reducible apply OutKeeps.next)
    | (with_reducible apply OptKeeps.some)
    | (with_reducible apply ExKeeps.ok)
    | (with_reducible apply ExKeeps1.ok)
    | (refine Keeps.ofFst (by with_reducible assumption) ?_)
    | (refine Keeps.ofSnd (by with_reducible assumption) ?_)
    | (refine OptKeeps.get (by with_reducible assumption) ?_)
    | (refine ExKeeps.get (by with_reducible assumption) ?_)
    | (refine ExKeeps1.get (by with_reducible assumption) ?_)
    | (with_reducible apply Issue.Keeps.go)
    | (with_reducible apply Issue.Keeps.stall)
    | (refine Issue.Keeps.getGo (by with_reducible assumption) ?_)
    | (refine Issue.Keeps.getStall (by with_reducible assumption) ?_)
    | split

theorem keeps_execTokCmdSignal {s₀ : State} (tile : TileIx) (token : BitVec 16) (value : W32) (s : State) (h : Keeps s₀ s) :
    OutKeeps s₀ (execTokCmdSignal tile token value s) := by
  unfold execTokCmdSignal
  try dsimp only
  repeat'
    first
    | (with_reducible assumption)
    | intro _
    | (with_reducible apply keeps_tokCmd)
    | (with_reducible apply keeps_offer)
    | (with_reducible apply OutKeeps.next)

theorem keeps_execTake {s₀ : State} (tile : TileIx) (token : BitVec 16) (value : W32) (s : State) (h : Keeps s₀ s) :
    OutKeeps s₀ (execTake tile token value s) := by
  unfold execTake
  try dsimp only
  repeat'
    first
    | (with_reducible assumption)
    | intro _
    | (with_reducible apply keeps_tokCmd)
    | (with_reducible apply keeps_offer)
    | (with_reducible apply OutKeeps.next)

theorem keeps_writeWhileEnabled {s₀ : State} (s : State) (blk : Nat) (off : Nat) (h : Keeps s₀ s) :
    Keeps s₀ (State.writeWhileEnabled s blk off) := by
  unfold State.writeWhileEnabled
  try dsimp only
  repeat'
    first
    | (with_reducible assumption)
    | (with_reducible apply keeps_setBlk)

theorem keeps_execSet {s₀ : State} (tile : TileIx) (token : BitVec 16) (value : W32) (s : State) (h : Keeps s₀ s) :
    OutKeeps s₀ (execSet tile token value s) := by
  unfold execSet
  try dsimp only
  repeat'
    first
    | (with_reducible assumption)
    | intro _
    | (with_reducible apply keeps_tokCmd)
    | (with_reducible apply keeps_release)
    | (with_reducible apply keeps_setCount)
    | (with_reducible apply keeps_writeWhileEnabled)
    | (with_reducible apply OutKeeps.next)
    | split

theorem keeps_execPeek {s₀ : State} (tile : TileIx) (token : BitVec 16) (s : State) (h : Keeps s₀ s) :
    OutKeeps s₀ (execPeek tile token s) := by
  unfold execPeek
  try dsimp only
  repeat'
    first
    | (with_reducible assumption)
    | intro _
    | (with_reducible apply keeps_tokCmd)
    | (with_reducible apply keeps_offer)
    | (with_reducible apply OutKeeps.next)

theorem keeps_abandonSite {s₀ : State} (s : State) (i : Nat) (h : Keeps s₀ s) :
    Keeps s₀ (State.abandonSite s i) := by
  unfold State.abandonSite
  try dsimp only
  repeat'
    first
    | (with_reducible assumption)
    | (with_reducible apply keeps_removeWaits)
    | (with_reducible apply keeps_declareDead)
    | (with_reducible apply Keeps.foldl)

theorem keeps_dropPackets {s₀ : State} (s : State) (i : Nat) (h : Keeps s₀ s) :
    Keeps s₀ (State.dropPackets s i) := by
  unfold State.dropPackets
  try dsimp only
  repeat'
    first
    | (with_reducible assumption)
    | simp only [Keeps.mk_iff]
    | (with_reducible apply keeps_count)
    | split

theorem keeps_answerClu {s₀ : State} (s : State) (e : Nat) (up : Bool) (h : Keeps s₀ s) :
    Keeps s₀ (State.answerClu s e up) := by
  unfold State.answerClu
  try dsimp only
  repeat'
    first
    | (with_reducible assumption)
    | intro _
    | simp only [Keeps.mk_iff]
    | (with_reducible apply keeps_emit)
    | (with_reducible apply keeps_unmappedLine)
    | (with_reducible apply Keeps.foldl)
    | split

theorem keeps_bondsDown {s₀ : State} (s : State) (i : Nat) (training : Bool) (h : Keeps s₀ s) :
    Keeps s₀ (State.bondsDown s i training) := by
  unfold State.bondsDown
  try dsimp only
  repeat'
    first
    | (with_reducible assumption)
    | intro _
    | simp only [Keeps.mk_iff]
    | (with_reducible apply keeps_setLink)
    | (with_reducible apply keeps_answerClu)
    | (with_reducible apply Keeps.foldl)
    | split

theorem keeps_quarantine {s₀ : State} (s : State) (i : Nat) (cause : Nat) (h : Keeps s₀ s) :
    Keeps s₀ (State.quarantine s i cause) := by
  unfold State.quarantine
  try dsimp only
  repeat'
    first
    | (with_reducible assumption)
    | (with_reducible apply keeps_setSite)
    | (with_reducible apply keeps_dropPackets)
    | (with_reducible apply keeps_abandonSite)
    | (with_reducible apply keeps_record)
    | (with_reducible apply keeps_noteSite)
    | (with_reducible apply keeps_bondsDown)
    | split

theorem keeps_resetEngineOfSite {s₀ : State} (s : State) (e : Nat) (h : Keeps s₀ s) :
    Keeps s₀ (State.resetEngineOfSite s e) := by
  unfold State.resetEngineOfSite
  try dsimp only
  repeat'
    first
    | (with_reducible assumption)
    | (with_reducible apply keeps_setEngine)

theorem keeps_resetBlock {s₀ : State} (s : State) (n : Nat) (h : Keeps s₀ s) :
    Keeps s₀ (State.resetBlock s n) := by
  unfold State.resetBlock
  try dsimp only
  repeat'
    first
    | (with_reducible assumption)
    | simp only [Keeps.mk_iff]
    | (with_reducible apply keeps_setBlk)

theorem keeps_resetBanks {s₀ : State} (s : State) (n : Nat) (h : Keeps s₀ s) :
    Keeps s₀ (State.resetBanks s n) := by
  unfold State.resetBanks
  try dsimp only
  repeat'
    first
    | (with_reducible assumption)
    | simp only [Keeps.mk_iff]

theorem keeps_resetSite {s₀ : State} (s : State) (i : Nat) (h : Keeps s₀ s) :
    Keeps s₀ (State.resetSite s i) := by
  unfold State.resetSite
  refine keeps_reapplyRepairs _ _ ?_
  have k : Keeps s₀ ((siteCores i).foldl (fun acc c => ((acc.setCore c .reset).dropHeld (acc.pricedCore c)).resetBanks (bBankCore c))
      ((List.range 32).foldl (fun acc e => acc.resetEngineOfSite (32 * i + e)) ((siteBlocks i).foldl State.resetBlock s))) :=
    Keeps.foldl (Keeps.foldl (Keeps.foldl h fun _ _ k => keeps_resetBlock _ _ k) fun _ _ k => keeps_resetEngineOfSite _ _ k)
      fun _ _ k => keeps_resetBanks _ _ (keeps_dropHeld _ _ (keeps_setCore _ _ _ k))
  generalize (siteCores i).foldl _ _ = t at k ⊢
  exact k.ofMem (fun w => Memory.wf_filter _ w) rfl rfl rfl

theorem keeps_rewriteRepairs {s₀ : State} (s : State) (stay : Nat → Bool) (new : List (List Byte)) (h : Keeps s₀ s) :
    Keeps s₀ (State.rewriteRepairs s stay new) := by
  unfold State.rewriteRepairs
  try dsimp only
  repeat'
    first
    | (with_reducible assumption)
    | simp only [Keeps.mk_iff]
    | (with_reducible apply keeps_flashWrite)

theorem keeps_unmapSite {s₀ : State} (s : State) (i : Nat) (h : Keeps s₀ s) :
    Keeps s₀ (State.unmapSite s i) := by
  unfold State.unmapSite
  try dsimp only
  repeat'
    first
    | (with_reducible assumption)
    | simp only [Keeps.mk_iff]

theorem keeps_execQuarantine {s₀ : State} (site : SiteIx) (s : State) (h : Keeps s₀ s) :
    OutKeeps s₀ (execQuarantine site s) := by
  unfold execQuarantine
  try dsimp only
  repeat'
    first
    | (with_reducible assumption)
    | simp only [Keeps.mk_iff]
    | (with_reducible apply keeps_quarantine)
    | (with_reducible apply OutKeeps.next)

theorem keeps_execRelease {s₀ : State} (site : SiteIx) (s : State) (h : Keeps s₀ s) :
    OutKeeps s₀ (execRelease site s) := by
  unfold execRelease
  try dsimp only
  repeat'
    first
    | (with_reducible assumption)
    | simp only [Keeps.mk_iff]
    | (with_reducible apply keeps_setSite)
    | (with_reducible apply keeps_noteSite)
    | (with_reducible apply keeps_bondsDown)
    | (with_reducible apply keeps_resetSite)
    | (with_reducible apply OutKeeps.next)
    | split

theorem keeps_retestBanks {s₀ : State} (s : State) (site : Nat) (r : SelfTest) (h : Keeps s₀ s) :
    Keeps s₀ (State.retestBanks s site r) := by
  unfold State.retestBanks
  try dsimp only
  repeat'
    first
    | (with_reducible assumption)
    | intro _
    | (with_reducible apply keeps_rewriteRepairs)
    | (with_reducible apply keeps_resetBanks)
    | (with_reducible apply keeps_reapplyRepairs)
    | (with_reducible apply Keeps.foldl)

theorem keeps_execReadmissionTestDone {s₀ : State} (site : SiteIx) (result : SelfTest) (s : State) (h : Keeps s₀ s) :
    OutKeeps s₀ (execReadmissionTestDone site result s) := by
  unfold execReadmissionTestDone
  try dsimp only
  repeat'
    first
    | (with_reducible assumption)
    | (with_reducible apply keeps_retestBanks)
    | (with_reducible apply keeps_noteSite)
    | (with_reducible apply keeps_bondsDown)
    | (with_reducible apply keeps_setSite)
    | (with_reducible apply keeps_unmapSite)
    | (with_reducible apply OutKeeps.next)
    | split

theorem keeps_execSiteReset {s₀ : State} (site : SiteIx) (s : State) (h : Keeps s₀ s) :
    OutKeeps s₀ (execSiteReset site s) := by
  unfold execSiteReset
  try dsimp only
  repeat'
    first
    | (with_reducible assumption)
    | simp only [Keeps.mk_iff]
    | (with_reducible apply keeps_abandonSite)
    | (with_reducible apply keeps_setSite)
    | (with_reducible apply keeps_bondsDown)
    | (with_reducible apply keeps_resetSite)
    | (with_reducible apply OutKeeps.next)
    | split

theorem keeps_execQuarantinedPacket {s₀ : State} (site : SiteIx) (trafficClass : BitVec 3) (s : State) (h : Keeps s₀ s) :
    OutKeeps s₀ (execQuarantinedPacket site trafficClass s) := by
  unfold execQuarantinedPacket
  try dsimp only
  repeat'
    first
    | (with_reducible assumption)
    | (with_reducible apply keeps_count)
    | (with_reducible apply keeps_record)
    | (with_reducible apply keeps_setSite)
    | (with_reducible apply OutKeeps.next)
    | split

theorem keeps_linkCount {s₀ : State} (s : State) (e : Nat) (kind : Nat) (n : Nat) (h : Keeps s₀ s) :
    Keeps s₀ (State.linkCount s e kind n) := by
  unfold State.linkCount
  try dsimp only
  repeat'
    first
    | (with_reducible assumption)
    | (with_reducible apply keeps_count)
    | split

theorem keeps_sendPanel {s₀ : State} (s : State) (e : Nat) (kind : Nat) (vc : Nat) (seq : Nat) (nak : Bool) (data : List CodeWord) (h : Keeps s₀ s) :
    Keeps s₀ (State.sendPanel s e kind vc seq nak data) := by
  unfold State.sendPanel
  try dsimp only
  repeat'
    first
    | (with_reducible assumption)
    | (with_reducible apply keeps_emit)
    | (with_reducible apply keeps_setLink)

theorem keeps_sendIdle {s₀ : State} (s : State) (e : Nat) (nak : Bool) (h : Keeps s₀ s) :
    Keeps s₀ (State.sendIdle s e nak) := by
  unfold State.sendIdle
  try dsimp only
  repeat'
    first
    | (with_reducible assumption)
    | (with_reducible apply keeps_sendPanel)

theorem keeps_sendHold {s₀ : State} (s : State) (e : Nat) (h : Keeps s₀ s) :
    Keeps s₀ (State.sendHold s e) := by
  unfold State.sendHold
  try dsimp only
  repeat'
    first
    | (with_reducible assumption)
    | (with_reducible apply keeps_sendPanel)
    | (with_reducible apply keeps_emit)
    | split

theorem keeps_linkInform {s₀ : State} (s : State) (e : Nat) (h : Keeps s₀ s) :
    Keeps s₀ (State.linkInform s e) := by
  unfold State.linkInform
  try dsimp only
  repeat'
    first
    | (with_reducible assumption)
    | (with_reducible apply keeps_sendIdle)
    | split

theorem keeps_sendData {s₀ : State} (s : State) (e : Nat) (p : LinkPkt) (h : Keeps s₀ s) :
    Keeps s₀ (State.sendData s e p) := by
  unfold State.sendData
  try dsimp only
  repeat'
    first
    | (with_reducible assumption)
    | (with_reducible apply keeps_linkCount)
    | (with_reducible apply keeps_setLink)
    | (with_reducible apply keeps_sendPanel)

theorem keeps_pumpLinks {s₀ : State} (a : Nat) (a2 : State) (a3 : Nat) (h : Keeps s₀ a2) :
    Keeps s₀ (State.pumpLinks a a2 a3) := by
  induction a generalizing a2 with
  | zero => unfold State.pumpLinks; exact h
  | succ n ih =>
    unfold State.pumpLinks
    repeat'
    first
      | (with_reducible assumption)
      | intro _
      | (with_reducible apply OutKeeps.fault)
      | (with_reducible apply OutKeeps.refused)
      | (with_reducible apply OptKeeps.none)
      | (with_reducible apply ExKeeps.error)
      | (with_reducible apply ExKeeps1.error)
      | (with_reducible apply Issue.Keeps.refuse)
      | simp only [Keeps.mk_iff]
      | (with_reducible apply ih)
      | (with_reducible apply keeps_sendData)
      | (with_reducible apply Keeps.foldl)
      | (with_reducible apply Keeps.foldl1)
      | (with_reducible apply OutKeeps.next)
      | (with_reducible apply OptKeeps.some)
      | (with_reducible apply ExKeeps.ok)
      | (with_reducible apply ExKeeps1.ok)
      | (refine Keeps.ofFst (by with_reducible assumption) ?_)
      | (refine Keeps.ofSnd (by with_reducible assumption) ?_)
      | (refine OptKeeps.get (by with_reducible assumption) ?_)
      | (refine ExKeeps.get (by with_reducible assumption) ?_)
      | (refine ExKeeps1.get (by with_reducible assumption) ?_)
      | (with_reducible apply Issue.Keeps.go)
      | (with_reducible apply Issue.Keeps.stall)
      | (refine Issue.Keeps.getGo (by with_reducible assumption) ?_)
      | (refine Issue.Keeps.getStall (by with_reducible assumption) ?_)
      | split

theorem keeps_pumpLink {s₀ : State} (s : State) (e : Nat) (h : Keeps s₀ s) :
    Keeps s₀ (State.pumpLink s e) := by
  unfold State.pumpLink
  try dsimp only
  repeat'
    first
    | (with_reducible assumption)
    | (with_reducible apply keeps_pumpLinks)

theorem keeps_reportWidth {s₀ : State} (s : State) (e : Nat) (h : Keeps s₀ s) :
    Keeps s₀ (State.reportWidth s e) := by
  unfold State.reportWidth
  try dsimp only
  repeat'
    first
    | (with_reducible assumption)
    | (with_reducible apply keeps_emit)
    | split

theorem keeps_linkBoundary {s₀ : State} (s : State) (h : Keeps s₀ s) :
    Keeps s₀ (State.linkBoundary s) := by
  unfold State.linkBoundary
  try dsimp only
  repeat'
    first
    | (with_reducible assumption)
    | intro _
    | (with_reducible apply keeps_reportWidth)
    | (with_reducible apply keeps_pumpLink)
    | (with_reducible apply Keeps.foldl)

theorem keeps_linkAck {s₀ : State} (s : State) (e : Nat) (ack : Nat) (h : Keeps s₀ s) :
    Keeps s₀ (State.linkAck s e ack) := by
  unfold State.linkAck
  try dsimp only
  repeat'
    first
    | (with_reducible assumption)
    | (with_reducible apply keeps_setLink)
    | split

theorem keeps_linkReset {s₀ : State} (s : State) (e : Nat) (h : Keeps s₀ s) :
    Keeps s₀ (State.linkReset s e) := by
  unfold State.linkReset
  try dsimp only
  repeat'
    first
    | (with_reducible assumption)
    | (with_reducible apply keeps_linkCount)
    | (with_reducible apply keeps_setLink)

theorem keeps_retryLimit {s₀ : State} (s : State) (e : Nat) (h : Keeps s₀ s) :
    Keeps s₀ (State.retryLimit s e) := by
  unfold State.retryLimit
  try dsimp only
  repeat'
    first
    | (with_reducible assumption)
    | (with_reducible apply keeps_linkReset)
    | (with_reducible apply keeps_quarantine)
    | (with_reducible apply keeps_record)
    | split

theorem keeps_linkReplay {s₀ : State} (s : State) (e : Nat) (h : Keeps s₀ s) :
    Keeps s₀ (State.linkReplay s e) := by
  unfold State.linkReplay
  try dsimp only
  repeat'
    first
    | (with_reducible assumption)
    | intro _
    | (with_reducible apply keeps_setLink)
    | (with_reducible apply keeps_linkCount)
    | (with_reducible apply keeps_sendPanel)
    | (with_reducible apply keeps_linkReset)
    | (with_reducible apply keeps_retryLimit)
    | (with_reducible apply Keeps.foldl)
    | split

theorem keeps_linkResume {s₀ : State} (s : State) (e : Nat) (h : Keeps s₀ s) :
    Keeps s₀ (State.linkResume s e) := by
  unfold State.linkResume
  try dsimp only
  repeat'
    first
    | (with_reducible assumption)
    | (with_reducible apply keeps_pumpLink)
    | (with_reducible apply keeps_linkReplay)

theorem keeps_cutFatal {s₀ : State} (s : State) (before : List Nat) (h : Keeps s₀ s) :
    Keeps s₀ (State.cutFatal s before) := by
  unfold State.cutFatal
  try dsimp only
  repeat'
    first
    | (with_reducible assumption)
    | (with_reducible apply keeps_fatalError)
    | split

theorem keeps_redirect {s₀ : State} (s : State) (e : Nat) (ahead : Bool) (p : LinkPkt) (h : Keeps s₀ s) :
    Keeps s₀ (State.redirect s e ahead p) := by
  unfold State.redirect
  try dsimp only
  repeat'
    first
    | (with_reducible assumption)
    | (with_reducible apply keeps_queueFirst)
    | (with_reducible apply keeps_queueAt)
    | split

theorem keeps_inject {s₀ : State} (s : State) (e : Nat) (pkts : List LinkPkt) (h : Keeps s₀ s) :
    Keeps s₀ (State.inject s e pkts) := by
  unfold State.inject
  dsimp only
  have k1 : ∀ l : List LinkPkt, Keeps s₀ (l.foldr (fun p acc => acc.redirect e true p) { s with sendq := Map.erase s.sendq e }) := by
    intro l
    induction l with
    | nil => exact Keeps.mk_iff.2 h
    | cons p l ih => exact keeps_redirect _ _ _ _ ih
  exact Keeps.foldl (Keeps.foldl (k1 _) fun _ _ k => keeps_redirect _ _ _ _ k) fun _ _ k => keeps_pumpLink _ _ k

theorem keeps_askReroute {s₀ : State} (s : State) (e : Nat) (h : Keeps s₀ s) :
    Keeps s₀ (State.askReroute s e) := by
  unfold State.askReroute
  try dsimp only
  repeat'
    first
    | (with_reducible assumption)
    | (with_reducible apply keeps_emit)
    | (with_reducible apply keeps_inject)
    | split

theorem keeps_degradeEnd {s₀ : State} (s : State) (e : Nat) (h : Keeps s₀ s) :
    Keeps s₀ (State.degradeEnd s e) := by
  unfold State.degradeEnd
  try dsimp only
  repeat'
    first
    | (with_reducible assumption)
    | (with_reducible apply keeps_setLink)
    | (with_reducible apply keeps_record)

theorem keeps_degrade {s₀ : State} (s : State) (e : Nat) (h : Keeps s₀ s) :
    Keeps s₀ (State.degrade s e) := by
  unfold State.degrade
  try dsimp only
  repeat'
    first
    | (with_reducible assumption)
    | (with_reducible apply keeps_cutFatal)
    | (with_reducible apply keeps_askReroute)
    | (with_reducible apply keeps_degradeEnd)

theorem keeps_linkDisagree {s₀ : State} (s : State) (e : Nat) (h : Keeps s₀ s) :
    Keeps s₀ (State.linkDisagree s e) := by
  unfold State.linkDisagree
  try dsimp only
  repeat'
    first
    | (with_reducible assumption)
    | (with_reducible apply keeps_sendHold)
    | (with_reducible apply keeps_linkCount)
    | (with_reducible apply keeps_setLink)
    | (with_reducible apply keeps_degrade)
    | (with_reducible apply keeps_linkReset)
    | split

theorem keeps_seeWidth {s₀ : State} (s : State) (e : Nat) (width : Nat) (h : Keeps s₀ s) :
    Keeps s₀ (State.seeWidth s e width) := by
  unfold State.seeWidth
  try dsimp only
  repeat'
    first
    | (with_reducible assumption)
    | (with_reducible apply keeps_setLink)
    | (with_reducible apply keeps_linkDisagree)
    | split

theorem keeps_trainEnd {s₀ : State} (s : State) (e : Nat) (failing : List Nat) (peer : Option Nat) (h : Keeps s₀ s) :
    Keeps s₀ (State.trainEnd s e failing peer) := by
  unfold State.trainEnd
  try dsimp only
  repeat'
    first
    | (with_reducible assumption)
    | (with_reducible apply keeps_linkResume)
    | (with_reducible apply keeps_reportWidth)
    | (with_reducible apply keeps_setLink)
    | (with_reducible apply keeps_degrade)
    | split

theorem keeps_bondTrained {s₀ : State} (s : State) (e : Nat) (failingOut : Nat) (failingIn : Nat) (h : Keeps s₀ s) :
    Keeps s₀ (State.bondTrained s e failingOut failingIn) := by
  unfold State.bondTrained
  try dsimp only
  repeat'
    first
    | (with_reducible assumption)
    | (with_reducible apply keeps_setLink)
    | (with_reducible apply keeps_linkResume)
    | (with_reducible apply keeps_answerClu)

theorem keeps_trainBond {s₀ : State} (s : State) (site : Nat) (cluster : Nat) (failingOut : Nat) (failingIn : Nat) (h : Keeps s₀ s) :
    Keeps s₀ (State.trainBond s site cluster failingOut failingIn) := by
  unfold State.trainBond
  try dsimp only
  repeat'
    first
    | (with_reducible assumption)
    | (with_reducible apply keeps_quarantine)
    | (with_reducible apply keeps_bondTrained)
    | split

theorem keeps_execBondTraining {s₀ : State} (site : SiteIx) (cluster : Fin 2) (failingOut : Nat) (failingIn : Nat) (s : State) (h : Keeps s₀ s) :
    OutKeeps s₀ (execBondTraining site cluster failingOut failingIn s) := by
  unfold execBondTraining
  try dsimp only
  repeat'
    first
    | (with_reducible assumption)
    | (with_reducible apply keeps_trainBond)
    | (with_reducible apply OutKeeps.next)

theorem keeps_execSiteResetDone {s₀ : State} (site : SiteIx) (bonds : List (Nat × Nat)) (s : State) (h : Keeps s₀ s) :
    OutKeeps s₀ (execSiteResetDone site bonds s) := by
  unfold execSiteResetDone
  try dsimp only
  repeat'
    first
    | (with_reducible assumption)
    | (with_reducible apply keeps_trainBond)
    | (with_reducible apply keeps_setSite)
    | (with_reducible apply OutKeeps.next)
    | split

theorem keeps_execBondRetryLimit {s₀ : State} (site : SiteIx) (cluster : Fin 2) (retrained : Option (Nat × Nat)) (s : State) (h : Keeps s₀ s) :
    OutKeeps s₀ (execBondRetryLimit site cluster retrained s) := by
  unfold execBondRetryLimit
  try dsimp only
  repeat'
    first
    | (with_reducible assumption)
    | (with_reducible apply keeps_retryLimit)
    | (with_reducible apply keeps_trainBond)
    | (with_reducible apply OutKeeps.next)
    | split

theorem keeps_linkDiscard {s₀ : State} (s : State) (e : Nat) (h : Keeps s₀ s) :
    Keeps s₀ (State.linkDiscard s e) := by
  unfold State.linkDiscard
  try dsimp only
  repeat'
    first
    | (with_reducible assumption)
    | (with_reducible apply keeps_sendIdle)

theorem keeps_linkControl {s₀ : State} (s : State) (e : Nat) (c : Nat) (h : Keeps s₀ s) :
    Keeps s₀ (State.linkControl s e c) := by
  unfold State.linkControl
  try dsimp only
  repeat'
    first
    | (with_reducible assumption)
    | (with_reducible apply keeps_linkAck)
    | (with_reducible apply keeps_setLink)
    | (with_reducible apply keeps_linkReplay)
    | (with_reducible apply keeps_linkInform)
    | (with_reducible apply keeps_pumpLink)
    | (with_reducible apply keeps_seeWidth)
    | split

theorem keeps_linkHeld {s₀ : State} (s : State) (e : Nat) (h : Keeps s₀ s) :
    Keeps s₀ (State.linkHeld s e) := by
  unfold State.linkHeld
  try dsimp only
  repeat'
    first
    | (with_reducible assumption)
    | (with_reducible apply keeps_linkReset)
    | (with_reducible apply keeps_setLink)
    | split

theorem keeps_forward {s₀ : State} (s : State) (e : Nat) (p : LinkPkt) (h : Keeps s₀ s) :
    Keeps s₀ (State.forward s e p) := by
  unfold State.forward
  try dsimp only
  repeat'
    first
    | (with_reducible assumption)
    | (with_reducible apply keeps_redirect)
    | split

theorem keeps_execPanelFrameReceive {s₀ : State} (fend : FrameEnd) (control : BitVec 128) (data : List CodeWord) (s : State) (h : Keeps s₀ s) :
    OutKeeps s₀ (execPanelFrameReceive fend control data s) := by
  unfold execPanelFrameReceive
  try dsimp only
  repeat'
    first
    | (with_reducible assumption)
    | (with_reducible apply OutKeeps.fault)
    | (with_reducible apply keeps_linkDiscard)
    | (with_reducible apply keeps_linkCount)
    | (with_reducible apply keeps_setLink)
    | (with_reducible apply keeps_forward)
    | (with_reducible apply keeps_linkControl)
    | (with_reducible apply keeps_linkHeld)
    | (with_reducible apply OutKeeps.next)
    | split

theorem keeps_execPanelNak {s₀ : State} (fend : FrameEnd) (ack : BitVec 12) (s : State) (h : Keeps s₀ s) :
    OutKeeps s₀ (execPanelNak fend ack s) := by
  unfold execPanelNak
  try dsimp only
  repeat'
    first
    | (with_reducible assumption)
    | (with_reducible apply keeps_linkReplay)
    | (with_reducible apply keeps_linkAck)
    | (with_reducible apply OutKeeps.next)

theorem keeps_execPanelAckTimeout {s₀ : State} (fend : FrameEnd) (s : State) (h : Keeps s₀ s) :
    OutKeeps s₀ (execPanelAckTimeout fend s) := by
  unfold execPanelAckTimeout
  try dsimp only
  repeat'
    first
    | (with_reducible assumption)
    | (with_reducible apply keeps_linkReplay)
    | (with_reducible apply OutKeeps.next)

theorem keeps_execPanelLinkReset {s₀ : State} (fend : FrameEnd) (s : State) (h : Keeps s₀ s) :
    OutKeeps s₀ (execPanelLinkReset fend s) := by
  unfold execPanelLinkReset
  try dsimp only
  repeat'
    first
    | (with_reducible assumption)
    | (with_reducible apply keeps_linkReset)
    | (with_reducible apply OutKeeps.next)
    | split

theorem keeps_execPanelTrainingAttempt {s₀ : State} (fend : PlinkEnd) (failing : List Nat) (peerWidth : Option (Fin 3)) (s : State) (h : Keeps s₀ s) :
    OutKeeps s₀ (execPanelTrainingAttempt fend failing peerWidth s) := by
  unfold execPanelTrainingAttempt
  try dsimp only
  repeat'
    first
    | (with_reducible assumption)
    | (with_reducible apply keeps_trainEnd)
    | (with_reducible apply OutKeeps.next)
    | split

theorem keeps_execWidthReport {s₀ : State} (fend : PlinkEnd) (width : Fin 3) (s : State) (h : Keeps s₀ s) :
    OutKeeps s₀ (execWidthReport fend width s) := by
  unfold execWidthReport
  try dsimp only
  repeat'
    first
    | (with_reducible assumption)
    | (with_reducible apply keeps_seeWidth)
    | (with_reducible apply OutKeeps.next)

theorem keeps_endReroute {s₀ : State} (s : State) (e : Nat) (injected : List TxFrame) (h : Keeps s₀ s) :
    Keeps s₀ (State.endReroute s e injected) := by
  unfold State.endReroute
  try dsimp only
  repeat'
    first
    | (with_reducible assumption)
    | (with_reducible apply keeps_inject)
    | (with_reducible apply keeps_setLink)

theorem keeps_execSidebandAnswer {s₀ : State} (fend : PlinkEnd) (lastAccepted : BitVec 12) (s : State) (h : Keeps s₀ s) :
    OutKeeps s₀ (execSidebandAnswer fend lastAccepted s) := by
  unfold execSidebandAnswer
  try dsimp only
  repeat'
    first
    | (with_reducible assumption)
    | (with_reducible apply keeps_endReroute)
    | (with_reducible apply keeps_linkCount)
    | (with_reducible apply OutKeeps.next)
    | split

theorem keeps_answerLost {s₀ : State} (s : State) (lost : List TxFrame) (h : Keeps s₀ s) :
    Keeps s₀ (State.answerLost s lost) := by
  unfold State.answerLost
  try dsimp only
  repeat'
    first
    | (with_reducible assumption)
    | intro _
    | (with_reducible apply keeps_emit)
    | (with_reducible apply Keeps.foldl)

theorem keeps_execSidebandTimeout {s₀ : State} (fend : PlinkEnd) (s : State) (h : Keeps s₀ s) :
    OutKeeps s₀ (execSidebandTimeout fend s) := by
  unfold execSidebandTimeout
  try dsimp only
  repeat'
    first
    | (with_reducible assumption)
    | (with_reducible apply keeps_record)
    | (with_reducible apply keeps_linkCount)
    | (with_reducible apply keeps_endReroute)
    | (with_reducible apply keeps_answerLost)
    | (with_reducible apply OutKeeps.next)
    | split

theorem keeps_execPlinkRetrain {s₀ : State} (fend : PlinkEnd) (s : State) (h : Keeps s₀ s) :
    OutKeeps s₀ (execPlinkRetrain fend s) := by
  unfold execPlinkRetrain
  try dsimp only
  repeat'
    first
    | (with_reducible assumption)
    | (with_reducible apply keeps_linkReset)
    | (with_reducible apply OutKeeps.next)
    | split

theorem keeps_execPlinkRestore {s₀ : State} (fend : PlinkEnd) (s : State) (h : Keeps s₀ s) :
    OutKeeps s₀ (execPlinkRestore fend s) := by
  unfold execPlinkRestore
  try dsimp only
  repeat'
    first
    | (with_reducible assumption)
    | (with_reducible apply keeps_linkReset)
    | (with_reducible apply keeps_setLink)
    | (with_reducible apply OutKeeps.next)
    | split

theorem keeps_storedBlock {s₀ : State} (s : State) (who : Nat) (a : Nat) (h : Keeps s₀ s) :
    Keeps s₀ (State.storedBlock s who a).1 := by
  unfold State.storedBlock
  try dsimp only
  repeat'
    first
    | (with_reducible assumption)
    | (with_reducible apply keeps_readRun)
    | split

theorem keeps_storeWords {s₀ : State} (s : State) (who : Nat) (a : Nat) (ws : List CodeWord) (h : Keeps s₀ s) :
    Keeps s₀ (State.storeWords s who a ws) := by
  unfold State.storeWords
  try dsimp only
  repeat'
    first
    | (with_reducible assumption)
    | (with_reducible apply keeps_writeRun)

theorem keeps_violation {s₀ : State} (s : State) (p : Nat) (row : Nat) (h : Keeps s₀ s) :
    Keeps s₀ (State.violation s p row) := by
  unfold State.violation
  try dsimp only
  repeat'
    first
    | (with_reducible assumption)
    | (with_reducible apply keeps_recordOnce)
    | (with_reducible apply keeps_count)

theorem keeps_sendLadder {s₀ : State} (s : State) (p : Nat) (kind : Nat) (vc : Nat) (seq : Nat) (nak : Bool) (ws : List CodeWord) (h : Keeps s₀ s) :
    Keeps s₀ (State.sendLadder s p kind vc seq nak ws) := by
  unfold State.sendLadder
  try dsimp only
  repeat'
    first
    | (with_reducible assumption)
    | (with_reducible apply keeps_emit)
    | (with_reducible apply keeps_setLadder)

theorem keeps_ladderIdle {s₀ : State} (s : State) (p : Nat) (nak : Bool) (h : Keeps s₀ s) :
    Keeps s₀ (State.ladderIdle s p nak) := by
  unfold State.ladderIdle
  try dsimp only
  repeat'
    first
    | (with_reducible assumption)
    | (with_reducible apply keeps_sendLadder)

theorem keeps_ladderHold {s₀ : State} (s : State) (p : Nat) (h : Keeps s₀ s) :
    Keeps s₀ (State.ladderHold s p) := by
  unfold State.ladderHold
  try dsimp only
  repeat'
    first
    | (with_reducible assumption)
    | (with_reducible apply keeps_sendLadder)

theorem keeps_ladderInform {s₀ : State} (s : State) (p : Nat) (h : Keeps s₀ s) :
    Keeps s₀ (State.ladderInform s p) := by
  unfold State.ladderInform
  try dsimp only
  repeat'
    first
    | (with_reducible assumption)
    | (with_reducible apply keeps_ladderIdle)
    | split

theorem keeps_sendFrame {s₀ : State} (s : State) (p : Nat) (vc : Nat) (ws : List CodeWord) (h : Keeps s₀ s) :
    Keeps s₀ (State.sendFrame s p vc ws) := by
  unfold State.sendFrame
  try dsimp only
  repeat'
    first
    | (with_reducible assumption)
    | (with_reducible apply keeps_setLadder)
    | (with_reducible apply keeps_sendLadder)
    | (with_reducible apply keeps_count)

theorem keeps_pump {s₀ : State} (a : Nat) (a2 : State) (a3 : Nat) (h : Keeps s₀ a2) :
    Keeps s₀ (State.pump a a2 a3) := by
  induction a generalizing a2 with
  | zero => unfold State.pump; exact h
  | succ n ih =>
    unfold State.pump
    repeat'
    first
      | (with_reducible assumption)
      | intro _
      | (with_reducible apply OutKeeps.fault)
      | (with_reducible apply OutKeeps.refused)
      | (with_reducible apply OptKeeps.none)
      | (with_reducible apply ExKeeps.error)
      | (with_reducible apply ExKeeps1.error)
      | (with_reducible apply Issue.Keeps.refuse)
      | simp only [Keeps.mk_iff]
      | (with_reducible apply keeps_setLadder)
      | (with_reducible apply keeps_sendFrame)
      | (with_reducible apply ih)
      | (with_reducible apply Keeps.foldl)
      | (with_reducible apply Keeps.foldl1)
      | (with_reducible apply OutKeeps.next)
      | (with_reducible apply OptKeeps.some)
      | (with_reducible apply ExKeeps.ok)
      | (with_reducible apply ExKeeps1.ok)
      | (refine Keeps.ofFst (by with_reducible assumption) ?_)
      | (refine Keeps.ofSnd (by with_reducible assumption) ?_)
      | (refine OptKeeps.get (by with_reducible assumption) ?_)
      | (refine ExKeeps.get (by with_reducible assumption) ?_)
      | (refine ExKeeps1.get (by with_reducible assumption) ?_)
      | (with_reducible apply Issue.Keeps.go)
      | (with_reducible apply Issue.Keeps.stall)
      | (refine Issue.Keeps.getGo (by with_reducible assumption) ?_)
      | (refine Issue.Keeps.getStall (by with_reducible assumption) ?_)
      | split

theorem keeps_pumpPort {s₀ : State} (s : State) (p : Nat) (h : Keeps s₀ s) :
    Keeps s₀ (State.pumpPort s p) := by
  unfold State.pumpPort
  try dsimp only
  repeat'
    first
    | (with_reducible assumption)
    | (with_reducible apply keeps_pump)

theorem keeps_ladderReset {s₀ : State} (s : State) (p : Nat) (h : Keeps s₀ s) :
    Keeps s₀ (State.ladderReset s p) := by
  unfold State.ladderReset
  try dsimp only
  repeat'
    first
    | (with_reducible assumption)
    | (with_reducible apply keeps_count)
    | (with_reducible apply keeps_setLadder)
    | split

theorem keeps_flushMarks {s₀ : State} (s : State) (p : Nat) (h : Keeps s₀ s) :
    Keeps s₀ (State.flushMarks s p) := by
  unfold State.flushMarks
  try dsimp only
  repeat'
    first
    | (with_reducible assumption)
    | intro _
    | (with_reducible apply keeps_sendLadder)
    | (with_reducible apply keeps_count)
    | (with_reducible apply keeps_setLadder)
    | (with_reducible apply Keeps.foldl)

theorem keeps_ladderReplay {s₀ : State} (s : State) (p : Nat) (h : Keeps s₀ s) :
    Keeps s₀ (State.ladderReplay s p) := by
  unfold State.ladderReplay
  try dsimp only
  repeat'
    first
    | (with_reducible assumption)
    | intro _
    | (with_reducible apply keeps_setLadder)
    | (with_reducible apply keeps_count)
    | (with_reducible apply keeps_sendLadder)
    | (with_reducible apply keeps_flushMarks)
    | (with_reducible apply keeps_ladderReset)
    | (with_reducible apply Keeps.foldl)
    | split

theorem keeps_ladderDown {s₀ : State} (s : State) (p : Nat) (h : Keeps s₀ s) :
    Keeps s₀ (State.ladderDown s p) := by
  unfold State.ladderDown
  try dsimp only
  repeat'
    first
    | (with_reducible assumption)
    | (with_reducible apply keeps_record)
    | (with_reducible apply keeps_setLadder)

theorem keeps_ladderDisagree {s₀ : State} (s : State) (p : Nat) (h : Keeps s₀ s) :
    Keeps s₀ (State.ladderDisagree s p) := by
  unfold State.ladderDisagree
  try dsimp only
  repeat'
    first
    | (with_reducible assumption)
    | (with_reducible apply keeps_ladderHold)
    | (with_reducible apply keeps_setLadder)
    | (with_reducible apply keeps_ladderDown)
    | (with_reducible apply keeps_ladderReset)
    | split

theorem keeps_scQueue {s₀ : State} (s : State) (p : Nat) (ws : List CodeWord) (h : Keeps s₀ s) :
    Keeps s₀ (State.scQueue s p ws) := by
  unfold State.scQueue
  try dsimp only
  repeat'
    first
    | (with_reducible assumption)
    | (with_reducible apply keeps_pumpPort)
    | (with_reducible apply keeps_setLadder)

theorem keeps_partnerMismatch {s₀ : State} (s : State) (p : Nat) (row : Nat) (h : Keeps s₀ s) :
    Keeps s₀ (State.partnerMismatch s p row) := by
  unfold State.partnerMismatch
  try dsimp only
  repeat'
    first
    | (with_reducible assumption)
    | (with_reducible apply keeps_violation)
    | (with_reducible apply keeps_record)
    | (with_reducible apply keeps_setLadder)
    | split

theorem keeps_takeIdentity {s₀ : State} (s : State) (p : Nat) (m : List Byte) (h : Keeps s₀ s) :
    Keeps s₀ (State.takeIdentity s p m) := by
  unfold State.takeIdentity
  try dsimp only
  repeat'
    first
    | (with_reducible assumption)
    | (with_reducible apply keeps_partnerMismatch)
    | (with_reducible apply keeps_setLadder)
    | split

theorem keeps_scConsumed {s₀ : State} (s : State) (p : Nat) (h : Keeps s₀ s) :
    Keeps s₀ (State.scConsumed s p) := by
  unfold State.scConsumed
  try dsimp only
  repeat'
    first
    | (with_reducible assumption)
    | (with_reducible apply keeps_setLadder)

theorem keeps_execSideChannelMessage {s₀ : State} (port : PortIx) (message : ScMessage) (s : State) (h : Keeps s₀ s) :
    OutKeeps s₀ (execSideChannelMessage port message s) := by
  unfold execSideChannelMessage
  try dsimp only
  repeat'
    first
    | (with_reducible assumption)
    | (with_reducible apply OutKeeps.fault)
    | (with_reducible apply keeps_ladderInform)
    | (with_reducible apply keeps_takeIdentity)
    | (with_reducible apply keeps_scConsumed)
    | (with_reducible apply keeps_violation)
    | (with_reducible apply keeps_setLadder)
    | (with_reducible apply OutKeeps.next)
    | split

theorem keeps_execScSend {s₀ : State} (port : PortIx) (s : State) (h : Keeps s₀ s) :
    OutKeeps s₀ (execScSend port s) := by
  unfold execScSend
  try dsimp only
  repeat'
    first
    | (with_reducible assumption)
    | (with_reducible apply keeps_scQueue)
    | (with_reducible apply OutKeeps.next)
    | split

theorem keeps_execScPop {s₀ : State} (port : PortIx) (s : State) (h : Keeps s₀ s) :
    OutKeeps s₀ (execScPop port s) := by
  unfold execScPop
  try dsimp only
  repeat'
    first
    | (with_reducible assumption)
    | (with_reducible apply keeps_setLadder)
    | (with_reducible apply OutKeeps.next)

theorem keeps_execLadderTrainingAttempt {s₀ : State} (port : PortIx) (lanes : BitVec 8) (peerHalf : Option Bool) (hopPs : W32) (s : State) (h : Keeps s₀ s) :
    OutKeeps s₀ (execLadderTrainingAttempt port lanes peerHalf hopPs s) := by
  unfold execLadderTrainingAttempt
  try dsimp only
  repeat'
    first
    | (with_reducible assumption)
    | (with_reducible apply keeps_setLadder)
    | (with_reducible apply keeps_scQueue)
    | (with_reducible apply keeps_ladderReplay)
    | (with_reducible apply keeps_ladderDown)
    | (with_reducible apply OutKeeps.next)
    | split

theorem keeps_ladderDiscard {s₀ : State} (s : State) (p : Nat) (row : Nat) (h : Keeps s₀ s) :
    Keeps s₀ (State.ladderDiscard s p row) := by
  unfold State.ladderDiscard
  try dsimp only
  repeat'
    first
    | (with_reducible assumption)
    | (with_reducible apply keeps_ladderIdle)
    | (with_reducible apply keeps_violation)

theorem keeps_ladderAck {s₀ : State} (s : State) (p : Nat) (ack : Nat) (h : Keeps s₀ s) :
    Keeps s₀ (State.ladderAck s p ack) := by
  unfold State.ladderAck
  try dsimp only
  repeat'
    first
    | (with_reducible assumption)
    | (with_reducible apply keeps_setLadder)
    | (with_reducible apply keeps_violation)
    | (with_reducible apply keeps_ladderReset)
    | split

theorem keeps_ladderCredit {s₀ : State} (s : State) (p : Nat) (c0 : Nat) (c1 : Nat) (h : Keeps s₀ s) :
    Keeps s₀ (State.ladderCredit s p c0 c1) := by
  unfold State.ladderCredit
  try dsimp only
  repeat'
    first
    | (with_reducible assumption)
    | (with_reducible apply keeps_setLadder)
    | (with_reducible apply keeps_violation)
    | split

theorem keeps_ladderNaked {s₀ : State} (s : State) (p : Nat) (h : Keeps s₀ s) :
    Keeps s₀ (State.ladderNaked s p) := by
  unfold State.ladderNaked
  try dsimp only
  repeat'
    first
    | (with_reducible assumption)
    | (with_reducible apply keeps_violation)
    | (with_reducible apply keeps_ladderReplay)
    | split

theorem keeps_ladderWidth {s₀ : State} (s : State) (p : Nat) (half : Bool) (h : Keeps s₀ s) :
    Keeps s₀ (State.ladderWidth s p half) := by
  unfold State.ladderWidth
  try dsimp only
  repeat'
    first
    | (with_reducible assumption)
    | (with_reducible apply keeps_setLadder)
    | (with_reducible apply keeps_ladderDisagree)
    | (with_reducible apply keeps_violation)
    | split

theorem keeps_ladderControl {s₀ : State} (s : State) (p : Nat) (c : Nat) (h : Keeps s₀ s) :
    Keeps s₀ (State.ladderControl s p c) := by
  unfold State.ladderControl
  try dsimp only
  repeat'
    first
    | (with_reducible assumption)
    | (with_reducible apply keeps_ladderCredit)
    | (with_reducible apply keeps_ladderAck)
    | (with_reducible apply keeps_ladderNaked)
    | (with_reducible apply keeps_ladderInform)
    | (with_reducible apply keeps_pumpPort)
    | (with_reducible apply keeps_ladderWidth)
    | split

theorem keeps_ladderAccept {s₀ : State} (s : State) (p : Nat) (vc : Nat) (ws : List CodeWord) (h : Keeps s₀ s) :
    Keeps s₀ (State.ladderAccept s p vc ws) := by
  unfold State.ladderAccept
  try dsimp only
  repeat'
    first
    | (with_reducible assumption)
    | (with_reducible apply keeps_count)
    | (with_reducible apply keeps_setLadder)

theorem keeps_consumeWords {s₀ : State} (s : State) (p : Nat) (bs : List (Nat × Nat)) (h : Keeps s₀ s) :
    Keeps s₀ (State.consumeWords s p bs) := by
  unfold State.consumeWords
  try dsimp only
  repeat'
    first
    | (with_reducible assumption)
    | (with_reducible apply keeps_ladderInform)
    | (with_reducible apply keeps_setLadder)

theorem keeps_ladderData {s₀ : State} (s : State) (p : Nat) (c : Nat) (ws : List CodeWord) (h : Keeps s₀ s) :
    Keeps s₀ (State.ladderData s p c ws) := by
  unfold State.ladderData
  try dsimp only
  repeat'
    first
    | (with_reducible assumption)
    | (with_reducible apply keeps_ladderDiscard)
    | (with_reducible apply keeps_violation)
    | (with_reducible apply keeps_ladderControl)
    | (with_reducible apply keeps_ladderAccept)
    | split

theorem keeps_takeMark {s₀ : State} (s : State) (p : Nat) (body : List CodeWord) (h : Keeps s₀ s) :
    Keeps s₀ (State.takeMark s p body) := by
  unfold State.takeMark
  try dsimp only
  repeat'
    first
    | (with_reducible assumption)
    | (with_reducible apply keeps_count)
    | (with_reducible apply keeps_setLadder)
    | (with_reducible apply keeps_violation)
    | split

theorem keeps_execLadderFrameReceive {s₀ : State} (port : PortIx) (frame : List CodeWord) (s : State) (h : Keeps s₀ s) :
    OutKeeps s₀ (execLadderFrameReceive port frame s) := by
  unfold execLadderFrameReceive
  try dsimp only
  repeat'
    first
    | (with_reducible assumption)
    | (with_reducible apply OutKeeps.fault)
    | (with_reducible apply keeps_count)
    | (with_reducible apply keeps_ladderDiscard)
    | (with_reducible apply keeps_ladderData)
    | (with_reducible apply keeps_ladderControl)
    | (with_reducible apply keeps_takeMark)
    | (with_reducible apply keeps_ladderReset)
    | (with_reducible apply keeps_setLadder)
    | (with_reducible apply OutKeeps.next)
    | split

theorem keeps_execLadderAckTimeout {s₀ : State} (port : PortIx) (s : State) (h : Keeps s₀ s) :
    OutKeeps s₀ (execLadderAckTimeout port s) := by
  unfold execLadderAckTimeout
  try dsimp only
  repeat'
    first
    | (with_reducible assumption)
    | (with_reducible apply keeps_ladderReplay)
    | (with_reducible apply OutKeeps.next)

theorem keeps_execLadderLinkReset {s₀ : State} (port : PortIx) (s : State) (h : Keeps s₀ s) :
    OutKeeps s₀ (execLadderLinkReset port s) := by
  unfold execLadderLinkReset
  try dsimp only
  repeat'
    first
    | (with_reducible assumption)
    | (with_reducible apply keeps_ladderReset)
    | (with_reducible apply OutKeeps.next)
    | split

theorem keeps_execLadderSilenceTimeout {s₀ : State} (port : PortIx) (s : State) (h : Keeps s₀ s) :
    OutKeeps s₀ (execLadderSilenceTimeout port s) := by
  unfold execLadderSilenceTimeout
  try dsimp only
  repeat'
    first
    | (with_reducible assumption)
    | (with_reducible apply keeps_ladderReset)
    | (with_reducible apply keeps_violation)
    | (with_reducible apply OutKeeps.next)
    | split

theorem keeps_execMarkFrame {s₀ : State} (port : PortIx) (s : State) (h : Keeps s₀ s) :
    OutKeeps s₀ (execMarkFrame port s) := by
  unfold execMarkFrame
  try dsimp only
  repeat'
    first
    | (with_reducible assumption)
    | (with_reducible apply keeps_pumpPort)
    | (with_reducible apply keeps_sendLadder)
    | (with_reducible apply keeps_count)
    | (with_reducible apply keeps_setLadder)
    | (with_reducible apply OutKeeps.next)
    | split

theorem keeps_ladderRetrains {s₀ : State} (s : State) (p : Nat) (h : Keeps s₀ s) :
    Keeps s₀ (State.ladderRetrains s p) := by
  unfold State.ladderRetrains
  try dsimp only
  repeat'
    first
    | (with_reducible assumption)
    | simp only [Keeps.mk_iff]
    | (with_reducible apply keeps_ladderReset)

theorem keeps_execLadderRetrain {s₀ : State} (port : PortIx) (s : State) (h : Keeps s₀ s) :
    OutKeeps s₀ (execLadderRetrain port s) := by
  unfold execLadderRetrain
  try dsimp only
  repeat'
    first
    | (with_reducible assumption)
    | (with_reducible apply keeps_ladderRetrains)
    | (with_reducible apply OutKeeps.next)

theorem keeps_execLadderRestore {s₀ : State} (port : PortIx) (s : State) (h : Keeps s₀ s) :
    OutKeeps s₀ (execLadderRestore port s) := by
  unfold execLadderRestore
  try dsimp only
  repeat'
    first
    | (with_reducible assumption)
    | (with_reducible apply keeps_ladderRetrains)
    | (with_reducible apply OutKeeps.next)
    | split

theorem keeps_stepFaults {s₀ : State} (s : State) (e : Nat) (h : Keeps s₀ s) :
    Keeps s₀ (State.stepFaults s e) := by
  unfold State.stepFaults
  try dsimp only
  repeat'
    first
    | (with_reducible assumption)
    | (with_reducible apply keeps_dropHeld)
    | (with_reducible apply keeps_record)
    | (with_reducible apply keeps_setCmp)

theorem keeps_loadStep {s₀ : State} (s : State) (e : Nat) (h : Keeps s₀ s) :
    Keeps s₀ (State.loadStep s e) := by
  unfold State.loadStep
  try dsimp only
  repeat'
    first
    | (with_reducible assumption)
    | (with_reducible apply keeps_readRun)
    | (with_reducible apply keeps_stepFaults)
    | (with_reducible apply keeps_setCmp)
    | split

theorem keeps_loadTable {s₀ : State} (s : State) (e : Nat) (x3 : CollStep) (h : Keeps s₀ s) :
    Keeps s₀ (State.loadTable s e x3) := by
  unfold State.loadTable
  try dsimp only
  repeat'
    first
    | (with_reducible assumption)
    | (with_reducible apply keeps_readRun)
    | (with_reducible apply keeps_stepFaults)
    | (with_reducible apply keeps_setCmp)
    | split

theorem keeps_collHold {s₀ : State} (s : State) (e : Nat) (tok : Bool) (inp : Bool) (h : Keeps s₀ s) :
    OptKeeps s₀ (State.collHold s e tok inp) := by
  unfold State.collHold
  try dsimp only
  repeat'
    first
    | (with_reducible assumption)
    | (with_reducible apply OptKeeps.none)
    | (with_reducible apply keeps_setCmp)
    | (with_reducible apply OptKeeps.some)
    | split

theorem keeps_collEvents {s₀ : State} (s : State) (e : Nat) (f : Flags) (h : Keeps s₀ s) :
    Keeps s₀ (State.collEvents s e f) := by
  unfold State.collEvents
  try dsimp only
  repeat'
    first
    | (with_reducible assumption)
    | (with_reducible apply keeps_setCmp)
    | (with_reducible apply keeps_recordOnce)
    | split

theorem keeps_takeMessage {s₀ : State} (s : State) (e : Nat) (p : Nat) (m : InMsg) (h : Keeps s₀ s) :
    Keeps s₀ (State.takeMessage s e p m) := by
  unfold State.takeMessage
  try dsimp only
  repeat'
    first
    | (with_reducible assumption)
    | (with_reducible apply keeps_count)
    | (with_reducible apply keeps_consumeWords)
    | (with_reducible apply keeps_setLadder)

theorem keeps_feedIn {s₀ : State} (s : State) (e : Nat) (port : Nat) (stream : Nat) (n : Nat) (h : Keeps s₀ s) :
    ExKeeps1 s₀ (State.feedIn s e port stream n) := by
  unfold State.feedIn
  try dsimp only
  repeat'
    first
    | (with_reducible assumption)
    | (with_reducible apply ExKeeps1.error)
    | (with_reducible apply keeps_count)
    | (with_reducible apply keeps_setCmp)
    | (with_reducible apply keeps_setLadder)
    | (with_reducible apply keeps_takeMessage)
    | (with_reducible apply keeps_violation)
    | (with_reducible apply ExKeeps1.ok)
    | split

theorem keeps_feedLocal {s₀ : State} (s : State) (e : Nat) (x3 : CollStep) (b : Nat) (n : Nat) (t : Option Table) (h : Keeps s₀ s) :
    Keeps s₀ (State.feedLocal s e x3 b n t).1 := by
  unfold State.feedLocal
  try dsimp only
  repeat'
    first
    | (with_reducible assumption)
    | (with_reducible apply keeps_storedBlock)
    | (with_reducible apply keeps_count)
    | (with_reducible apply keeps_readRun)
    | split

theorem keeps_feed {s₀ : State} (s : State) (e : Nat) (x3 : CollStep) (b : Nat) (n : Nat) (t : Option Table) (h : Keeps s₀ s) :
    ExKeeps1 s₀ (State.feed s e x3 b n t) := by
  unfold State.feed
  try dsimp only
  repeat'
    first
    | (with_reducible assumption)
    | intro _
    | (with_reducible apply ExKeeps1.error)
    | (with_reducible apply keeps_feedIn)
    | (with_reducible apply keeps_feedLocal)
    | (with_reducible apply ExKeeps1.ok)
    | (refine ExKeeps1.get (by with_reducible assumption) ?_)
    | split
    | (with_reducible apply ExKeeps1.map)

theorem keeps_readyTable {s₀ : State} (s : State) (e : Nat) (x3 : CollStep) (t : Table) (h : Keeps s₀ s) :
    OptKeeps s₀ (State.readyTable s e x3 t) := by
  unfold State.readyTable
  try dsimp only
  repeat'
    first
    | (with_reducible assumption)
    | (with_reducible apply OptKeeps.none)
    | (with_reducible apply keeps_setCmp)
    | (with_reducible apply keeps_count)
    | (with_reducible apply keeps_setLadder)
    | (with_reducible apply OptKeeps.some)
    | split

theorem keeps_storeBlock {s₀ : State} (s : State) (e : Nat) (x3 : CollStep) (b : Nat) (n : Nat) (t : Table) (fs : List Fed) (v : Values) (w : Option (List CodeWord)) (h : Keeps s₀ s) :
    Keeps s₀ (State.storeBlock s e x3 b n t fs v w).1 := by
  unfold State.storeBlock
  try dsimp only
  repeat'
    first
    | (with_reducible assumption)
    | (with_reducible apply keeps_storeWords)
    | (with_reducible apply keeps_writeRun)
    | split

theorem keeps_countCoded {s₀ : State} (s : State) (e : Nat) (ws : List CodeWord) (coded : Bool) (h : Keeps s₀ s) :
    Keeps s₀ (State.countCoded s e ws coded) := by
  unfold State.countCoded
  try dsimp only
  repeat'
    first
    | (with_reducible assumption)
    | (with_reducible apply keeps_count)
    | split

theorem keeps_sendBlock {s₀ : State} (s : State) (e : Nat) (ws : List CodeWord) (h : Keeps s₀ s) :
    Keeps s₀ (State.sendBlock s e ws) := by
  unfold State.sendBlock
  try dsimp only
  repeat'
    first
    | (with_reducible assumption)
    | (with_reducible apply keeps_pumpPort)
    | (with_reducible apply keeps_count)
    | (with_reducible apply keeps_setLadder)

theorem keeps_nextBlock {s₀ : State} (s : State) (e : Nat) (b : Nat) (n : Nat) (h : Keeps s₀ s) :
    Keeps s₀ (State.nextBlock s e b n) := by
  unfold State.nextBlock
  try dsimp only
  repeat'
    first
    | (with_reducible assumption)
    | (with_reducible apply keeps_count)
    | (with_reducible apply keeps_setCmp)

theorem keeps_blockEffect {s₀ : State} (s : State) (e : Nat) (x3 : CollStep) (b : Nat) (n : Nat) (t : Table) (fs : List Fed) (h : Keeps s₀ s) :
    Keeps s₀ (State.blockEffect s e x3 b n t fs).1 := by
  unfold State.blockEffect
  try dsimp only
  repeat'
    first
    | (with_reducible assumption)
    | (with_reducible apply keeps_storeBlock)
    | (with_reducible apply keeps_countCoded)
    | (with_reducible apply keeps_sendBlock)
    | (with_reducible apply keeps_nextBlock)
    | (with_reducible apply keeps_collEvents)
    | split

theorem keeps_blockMove {s₀ : State} (s : State) (e : Nat) (x3 : CollStep) (b : Nat) (h : Keeps s₀ s) :
    OptKeeps s₀ (State.blockMove s e x3 b) := by
  unfold State.blockMove
  try dsimp only
  repeat'
    first
    | (with_reducible assumption)
    | (with_reducible apply OptKeeps.none)
    | (with_reducible apply keeps_readyTable)
    | (with_reducible apply keeps_feed)
    | (with_reducible apply keeps_collHold)
    | (with_reducible apply keeps_blockEffect)
    | (with_reducible apply keeps_charge)
    | (with_reducible apply keeps_holdPrice)
    | (with_reducible apply OptKeeps.some)
    | (refine OptKeeps.get (by with_reducible assumption) ?_)
    | (refine ExKeeps1.get (by with_reducible assumption) ?_)
    | split

theorem keeps_endStep {s₀ : State} (s : State) (e : Nat) (x3 : CollStep) (h : Keeps s₀ s) :
    Keeps s₀ (State.endStep s e x3) := by
  unfold State.endStep
  try dsimp only
  repeat'
    first
    | (with_reducible assumption)
    | (with_reducible apply keeps_readRun)
    | (with_reducible apply keeps_writeRun)
    | (with_reducible apply keeps_sendToken)
    | (with_reducible apply keeps_setCmp)
    | split

theorem keeps_collMove {s₀ : State} (s : State) (e : Nat) (h : Keeps s₀ s) :
    OptKeeps s₀ (State.collMove s e) := by
  unfold State.collMove
  try dsimp only
  repeat'
    first
    | (with_reducible assumption)
    | (with_reducible apply OptKeeps.none)
    | (with_reducible apply keeps_setCmp)
    | (with_reducible apply keeps_stallOnce)
    | (with_reducible apply keeps_loadStep)
    | (with_reducible apply keeps_collHold)
    | (with_reducible apply keeps_loadTable)
    | (with_reducible apply keeps_blockMove)
    | (with_reducible apply keeps_endStep)
    | (with_reducible apply OptKeeps.some)
    | split

theorem keeps_collMoves {s₀ : State} (a : Nat) (a2 : State) (a3 : Nat) (h : Keeps s₀ a2) :
    Keeps s₀ (State.collMoves a a2 a3) := by
  induction a generalizing a2 with
  | zero => unfold State.collMoves; exact h
  | succ n ih =>
    unfold State.collMoves
    repeat'
    first
      | (with_reducible assumption)
      | intro _
      | (with_reducible apply OutKeeps.fault)
      | (with_reducible apply OutKeeps.refused)
      | (with_reducible apply OptKeeps.none)
      | (with_reducible apply ExKeeps.error)
      | (with_reducible apply ExKeeps1.error)
      | (with_reducible apply Issue.Keeps.refuse)
      | simp only [Keeps.mk_iff]
      | (with_reducible apply keeps_collMove)
      | (with_reducible apply ih)
      | (with_reducible apply Keeps.foldl)
      | (with_reducible apply Keeps.foldl1)
      | (with_reducible apply OutKeeps.next)
      | (with_reducible apply OptKeeps.some)
      | (with_reducible apply ExKeeps.ok)
      | (with_reducible apply ExKeeps1.ok)
      | (refine Keeps.ofFst (by with_reducible assumption) ?_)
      | (refine Keeps.ofSnd (by with_reducible assumption) ?_)
      | (refine OptKeeps.get (by with_reducible assumption) ?_)
      | (refine ExKeeps.get (by with_reducible assumption) ?_)
      | (refine ExKeeps1.get (by with_reducible assumption) ?_)
      | (with_reducible apply Issue.Keeps.go)
      | (with_reducible apply Issue.Keeps.stall)
      | (refine Issue.Keeps.getGo (by with_reducible assumption) ?_)
      | (refine Issue.Keeps.getStall (by with_reducible assumption) ?_)
      | split

theorem keeps_execStart {s₀ : State} (engine : CmpIx) (s : State) (h : Keeps s₀ s) :
    OutKeeps s₀ (execStart engine s) := by
  unfold execStart
  try dsimp only
  repeat'
    first
    | (with_reducible assumption)
    | (with_reducible apply keeps_setCmp)
    | (with_reducible apply OutKeeps.next)
    | split

theorem keeps_execCollectiveStep {s₀ : State} (engine : CmpIx) (blocks : Nat) (s : State) (h : Keeps s₀ s) :
    OutKeeps s₀ (execCollectiveStep engine blocks s) := by
  unfold execCollectiveStep
  try dsimp only
  repeat'
    first
    | (with_reducible assumption)
    | (with_reducible apply keeps_collMoves)
    | (with_reducible apply OutKeeps.next)
    | split

theorem keeps_execStepTokenTake {s₀ : State} (engine : CmpIx) (s : State) (h : Keeps s₀ s) :
    OutKeeps s₀ (execStepTokenTake engine s) := by
  unfold execStepTokenTake
  try dsimp only
  repeat'
    first
    | (with_reducible assumption)
    | (with_reducible apply keeps_collHold)
    | (with_reducible apply keeps_offer)
    | (with_reducible apply keeps_count)
    | (with_reducible apply keeps_carry)
    | (with_reducible apply OutKeeps.next)
    | split
    | (with_reducible apply Keeps.getD)

theorem keeps_breakStream {s₀ : State} (s : State) (p : Nat) (stream : Nat) (fs : List (Nat × List CodeWord)) (h : Keeps s₀ s) :
    Keeps s₀ (State.breakStream s p stream fs) := by
  unfold State.breakStream
  try dsimp only
  repeat'
    first
    | (with_reducible assumption)
    | (with_reducible apply keeps_consumeWords)
    | (with_reducible apply keeps_violation)
    | (with_reducible apply keeps_setLadder)

theorem keeps_holdPort {s₀ : State} (s : State) (p : Nat) (h : Keeps s₀ s) :
    Keeps s₀ (State.holdPort s p) := by
  unfold State.holdPort
  try dsimp only
  repeat'
    first
    | (with_reducible assumption)
    | (with_reducible apply keeps_violation)
    | (with_reducible apply keeps_setLadder)
    | split

theorem keeps_execVc0MessageDelivery {s₀ : State} (port : PortIx) (s : State) (h : Keeps s₀ s) :
    OutKeeps s₀ (execVc0MessageDelivery port s) := by
  unfold execVc0MessageDelivery
  dsimp only
  split
  · exact OutKeeps.next h
  · split
    · exact OutKeeps.next (keeps_holdPort _ _ h)
    · generalize dropPads _ = d
      obtain ⟨fs, pads⟩ := d
      dsimp only
      have k1 := keeps_consumeWords _ port.val pads (keeps_setLadder s port.val
        { s.ladder port.val with rx0 := fs } h)
      generalize State.consumeWords _ _ pads = s1 at k1 ⊢
      split
      · generalize receive _ _ = rc
        obtain ⟨d, bad, r⟩ := rc
        dsimp only
        split
        · exact OutKeeps.next (keeps_breakStream _ _ _ _ k1)
        · split
          · exact OutKeeps.next k1
          · split
            · exact OutKeeps.next (keeps_consumeWords _ _ _ (keeps_setLadder _ _ _ k1))
            · split
              · exact OutKeeps.next (keeps_holdPort _ _ k1)
              · split
                · exact OutKeeps.next (keeps_setLadder _ _ _ k1)
                · exact OutKeeps.next k1
      · exact OutKeeps.next k1

theorem keeps_execTableMessageApply {s₀ : State} (port : PortIx) (s : State) (h : Keeps s₀ s) :
    OutKeeps s₀ (execTableMessageApply port s) := by
  unfold execTableMessageApply
  try dsimp only
  repeat'
    first
    | (with_reducible assumption)
    | (with_reducible apply keeps_takeMessage)
    | (with_reducible apply keeps_count)
    | (with_reducible apply keeps_setLadder)
    | (with_reducible apply keeps_violation)
    | (with_reducible apply OutKeeps.next)
    | split

theorem keeps_execCmpWaitLong {s₀ : State} (engine : CmpIx) (s : State) (h : Keeps s₀ s) :
    OutKeeps s₀ (execCmpWaitLong engine s) := by
  unfold execCmpWaitLong
  try dsimp only
  repeat'
    first
    | (with_reducible assumption)
    | (with_reducible apply keeps_record)
    | (with_reducible apply keeps_setCmp)
    | (with_reducible apply OutKeeps.next)
    | split

theorem keeps_enableCmp {s₀ : State} (s : State) (e : Nat) (h : Keeps s₀ s) :
    Keeps s₀ (State.enableCmp s e) := by
  unfold State.enableCmp
  try dsimp only
  repeat'
    first
    | (with_reducible assumption)
    | intro _
    | (with_reducible apply keeps_setCmp)
    | (with_reducible apply keeps_setLadder)
    | (with_reducible apply Keeps.foldl)
    | split

theorem keeps_disableCmp {s₀ : State} (s : State) (e : Nat) (h : Keeps s₀ s) :
    Keeps s₀ (State.disableCmp s e) := by
  unfold State.disableCmp
  try dsimp only
  repeat'
    first
    | (with_reducible assumption)
    | (with_reducible apply keeps_hostForget)
    | (with_reducible apply keeps_dropHeld)
    | (with_reducible apply keeps_setCmp)

theorem keeps_toEngine {s₀ : State} (s : State) (core : Nat) (e : Nat) (op : EngOp) (work : Work) (after : Engine → Engine) (h : Keeps s₀ s) :
    Issue.Keeps s₀ (State.toEngine s core e op work after) := by
  unfold State.toEngine
  try dsimp only
  repeat'
    first
    | (with_reducible assumption)
    | (with_reducible apply keeps_priceHeld)
    | (with_reducible apply keeps_pay)
    | (with_reducible apply keeps_setEngine)
    | (with_reducible apply Issue.Keeps.go)
    | (with_reducible apply Issue.Keeps.stall)
    | split

theorem keeps_doPass {s₀ : State} (compound : Bool) (core : Nat) (s : State) (w : Nat) (h : Keeps s₀ s) :
    Issue.Keeps s₀ (doPass compound core s w) := by
  unfold doPass
  dsimp only
  split
  · exact Issue.Keeps.refuse
  · exact keeps_toEngine _ _ _ _ _ _ h

theorem keeps_doWeightLoad {s₀ : State} (core : Nat) (s : State) (w : Nat) (h : Keeps s₀ s) :
    Issue.Keeps s₀ (doWeightLoad core s w) := by
  unfold doWeightLoad
  try dsimp only
  repeat'
    first
    | (with_reducible assumption)
    | (with_reducible apply Issue.Keeps.refuse)
    | (with_reducible apply keeps_toEngine)
    | split

theorem keeps_doMatrixVector {s₀ : State} (core : Nat) (s : State) (w : Nat) (h : Keeps s₀ s) :
    Issue.Keeps s₀ (doMatrixVector core s w) := by
  unfold doMatrixVector
  try dsimp only
  repeat'
    first
    | (with_reducible assumption)
    | (with_reducible apply Issue.Keeps.refuse)
    | (with_reducible apply keeps_priceHeld)
    | (with_reducible apply keeps_pay)
    | (with_reducible apply keeps_setCore)
    | (with_reducible apply Issue.Keeps.go)
    | (with_reducible apply Issue.Keeps.stall)
    | split

theorem keeps_doDrain {s₀ : State} (core : Nat) (s : State) (w : Nat) (h : Keeps s₀ s) :
    Issue.Keeps s₀ (doDrain core s w) := by
  unfold doDrain
  try dsimp only
  repeat'
    first
    | (with_reducible assumption)
    | (with_reducible apply Issue.Keeps.refuse)
    | (with_reducible apply keeps_priceHeld)
    | (with_reducible apply keeps_pay)
    | (with_reducible apply keeps_setCore)
    | (with_reducible apply Issue.Keeps.go)
    | (with_reducible apply Issue.Keeps.stall)
    | split

theorem keeps_execPass {s₀ : State} (core : CoreIx) (s : State) (h : Keeps s₀ s) :
    OutKeeps s₀ (execPass core s) := by
  unfold execPass
  exact OutKeeps.next (keeps_issue _ _ _ _ h (fun t w k => keeps_doPass _ _ _ _ k))

theorem keeps_execCompoundPass {s₀ : State} (core : CoreIx) (s : State) (h : Keeps s₀ s) :
    OutKeeps s₀ (execCompoundPass core s) := by
  unfold execCompoundPass
  exact OutKeeps.next (keeps_issue _ _ _ _ h (fun t w k => keeps_doPass _ _ _ _ k))

theorem keeps_execWeightLoad {s₀ : State} (core : CoreIx) (s : State) (h : Keeps s₀ s) :
    OutKeeps s₀ (execWeightLoad core s) := by
  unfold execWeightLoad
  try dsimp only
  repeat'
    first
    | (with_reducible assumption)
    | (with_reducible apply keeps_issue)
    | (with_reducible apply keeps_doWeightLoad)
    | (with_reducible apply OutKeeps.next)

theorem keeps_execMatrixVector {s₀ : State} (core : CoreIx) (s : State) (h : Keeps s₀ s) :
    OutKeeps s₀ (execMatrixVector core s) := by
  unfold execMatrixVector
  try dsimp only
  repeat'
    first
    | (with_reducible assumption)
    | (with_reducible apply keeps_issue)
    | (with_reducible apply keeps_doMatrixVector)
    | (with_reducible apply OutKeeps.next)

theorem keeps_execDrain {s₀ : State} (core : CoreIx) (s : State) (h : Keeps s₀ s) :
    OutKeeps s₀ (execDrain core s) := by
  unfold execDrain
  try dsimp only
  repeat'
    first
    | (with_reducible assumption)
    | (with_reducible apply keeps_issue)
    | (with_reducible apply keeps_doDrain)
    | (with_reducible apply OutKeeps.next)

theorem keeps_markedRow {s₀ : State} (s : State) (who : Nat) (core : Nat) (t : Tensor) (lo : Nat) (n : Nat) (i1 : Nat) (h : Keeps s₀ s) :
    Keeps s₀ (State.markedRow s who core t lo n i1).1 := by
  unfold State.markedRow
  try dsimp only
  repeat'
    first
    | (with_reducible assumption)
    | (with_reducible apply keeps_rowAt)

theorem keeps_convRow {s₀ : State} (s : State) (who : Nat) (core : Nat) (t : Tensor) (r : ConvRec) (p : Nat) (kbase : Nat) (kv : Nat) (h : Keeps s₀ s) :
    Keeps s₀ (State.convRow s who core t r p kbase kv).1 := by
  unfold State.convRow
  try dsimp only
  repeat'
    first
    | (with_reducible assumption)
    | intro _
    | (with_reducible apply keeps_elemAt)
    | (with_reducible apply Keeps.foldl1)
    | split

theorem keeps_collect {s₀ : State} {α : Type} (s : State) (n : Nat) (f : State → Nat → State × α) (h : Keeps s₀ s) (hf : ∀ t i, Keeps s₀ t → Keeps s₀ (f t i).1) :
    Keeps s₀ (State.collect s n f).1 := by
  unfold State.collect
  try dsimp only
  repeat'
    first
    | (with_reducible assumption)
    | intro _
    | (with_reducible apply OutKeeps.fault)
    | (with_reducible apply OutKeeps.refused)
    | (with_reducible apply OptKeeps.none)
    | (with_reducible apply ExKeeps.error)
    | (with_reducible apply ExKeeps1.error)
    | (with_reducible apply Issue.Keeps.refuse)
    | simp only [Keeps.mk_iff]
    | (with_reducible apply hf)
    | (with_reducible apply Keeps.foldl)
    | (with_reducible apply Keeps.foldl1)

theorem keeps_passRows {s₀ : State} (s : State) (who : Nat) (core : Nat) (p : PassOp) (lo : Nat) (hi : Nat) (h : Keeps s₀ s) :
    Keeps s₀ (State.passRows s who core p lo hi).1 := by
  unfold State.passRows
  try dsimp only
  repeat'
    first
    | (with_reducible assumption)
    | intro _
    | (with_reducible apply keeps_collect)
    | (with_reducible apply keeps_convRow)
    | (with_reducible apply keeps_markedRow)
    | split

theorem keeps_weightColumns {s₀ : State} (s : State) (who : Nat) (core : Nat) (t : Tensor) (orient : Bool) (k0 : Nat) (n0 : Nat) (kw : Nat) (nw : Nat) (h : Keeps s₀ s) :
    Keeps s₀ (State.weightColumns s who core t orient k0 n0 kw nw).1 := by
  unfold State.weightColumns
  try dsimp only
  repeat'
    first
    | (with_reducible assumption)
    | intro _
    | (with_reducible apply keeps_collect)
    | (with_reducible apply keeps_markedRow)
    | split

theorem keeps_expandedColumns {s₀ : State} (s : State) (who : Nat) (core : Nat) (t : Tensor) (target : Fmt) (orient : Bool) (k0 : Nat) (n0 : Nat) (kw : Nat) (nw : Nat) (nonSat : Bool) (h : Keeps s₀ s) :
    Keeps s₀ (State.expandedColumns s who core t target orient k0 n0 kw nw nonSat).1 := by
  unfold State.expandedColumns
  try dsimp only
  repeat'
    first
    | (with_reducible assumption)
    | intro _
    | (with_reducible apply keeps_elem4At)
    | (with_reducible apply Keeps.foldl1)

theorem keeps_mendAccWord {s₀ : State} (s : State) (e : Nat) (w : Nat) (h : Keeps s₀ s) :
    Keeps s₀ (State.mendAccWord s e w) := by
  unfold State.mendAccWord
  try dsimp only
  repeat'
    first
    | (with_reducible assumption)
    | simp only [Keeps.mk_iff]
    | (with_reducible apply keeps_setEngine)
    | (with_reducible apply keeps_record)
    | split

theorem keeps_readAcc {s₀ : State} (s : State) (e : Nat) (lo : Nat) (hi : Nat) (nv : Nat) (h : Keeps s₀ s) :
    Keeps s₀ (State.readAcc s e lo hi nv) := by
  unfold State.readAcc
  try dsimp only
  repeat'
    first
    | (with_reducible assumption)
    | intro _
    | (with_reducible apply keeps_mendAccWord)
    | (with_reducible apply Keeps.foldl)
    | split

theorem keeps_coverAcc {s₀ : State} (s : State) (e : Nat) (lo : Nat) (hi : Nat) (nv : Nat) (h : Keeps s₀ s) :
    Keeps s₀ (State.coverAcc s e lo hi nv) := by
  unfold State.coverAcc
  try dsimp only
  repeat'
    first
    | (with_reducible assumption)
    | simp only [Keeps.mk_iff]
    | (with_reducible apply keeps_readAcc)
    | split

theorem keeps_preloadRow {s₀ : State} (s : State) (who : Nat) (core : Nat) (t : Tensor) (m : Nat) (nv : Nat) (nonSat : Bool) (h : Keeps s₀ s) :
    Keeps s₀ (State.preloadRow s who core t m nv nonSat).1 := by
  unfold State.preloadRow
  try dsimp only
  repeat'
    first
    | (with_reducible assumption)
    | (with_reducible apply keeps_markedRow)

theorem keeps_tileFlags {s₀ : State} (s : State) (core : Nat) (unit : Nat) (e : Nat) (fl : List (Nat × Flags)) (h : Keeps s₀ s) :
    Keeps s₀ (State.tileFlags s core unit e fl) := by
  unfold State.tileFlags
  try dsimp only
  repeat'
    first
    | (with_reducible assumption)
    | intro _
    | (with_reducible apply keeps_coreFlags)
    | (with_reducible apply Keeps.foldl)

theorem keeps_touchAcc {s₀ : State} (s : State) (e : Nat) (src : AccSource) (lo : Nat) (hi : Nat) (nv : Nat) (h : Keeps s₀ s) :
    Keeps s₀ (State.touchAcc s e src lo hi nv) := by
  unfold State.touchAcc
  try dsimp only
  repeat'
    first
    | (with_reducible assumption)
    | (with_reducible apply keeps_readAcc)
    | (with_reducible apply keeps_coverAcc)
    | split

theorem keeps_feedRows {s₀ : State} (s : State) (e : Nat) (q : QEntry) (p : PassOp) (piece : Nat) (bank : Bool) (first : Bool) (x8 : Nat) (n : Nat) (h : Keeps s₀ s) :
    Keeps s₀ (State.feedRows s e q p piece bank first x8 n) := by
  unfold State.feedRows
  try dsimp only
  repeat'
    first
    | (with_reducible assumption)
    | intro _
    | (with_reducible apply keeps_passRows)
    | (with_reducible apply keeps_collect)
    | (with_reducible apply keeps_preloadRow)
    | (with_reducible apply keeps_touchAcc)
    | (with_reducible apply keeps_count)
    | (with_reducible apply keeps_tileFlags)
    | (with_reducible apply keeps_setEngine)
    | split

theorem keeps_readBacks {s₀ : State} (s : State) (e : Nat) (seen : List Nat) (a : List ReadBack) (h : Keeps s₀ s) :
    Keeps s₀ (State.readBacks s e seen a) := by
  induction a generalizing s seen with
  | nil => exact h
  | cons r l ih =>
    have k : ∀ b : Bool, Keeps s₀ (if b = true then s else s.count (bEng e) 0x188 1) := fun b => by
      split
      · exact h
      · exact keeps_count _ _ _ _ h
    cases r
    all_goals
      unfold State.readBacks
      dsimp only
      split
      · exact keeps_record _ _ _ _ _ _ (keeps_setEngine _ _ _ (k _))
      · exact ih _ _ (k _)

theorem keeps_pieceLoad {s₀ : State} (s : State) (e : Nat) (q : QEntry) (p : PassOp) (k : Nat) (bank : Bool) (h : Keeps s₀ s) :
    Keeps s₀ (State.pieceLoad s e q p k bank) := by
  unfold State.pieceLoad
  try dsimp only
  repeat'
    first
    | (with_reducible assumption)
    | (with_reducible apply keeps_weightColumns)
    | (with_reducible apply keeps_readBacks)
    | (with_reducible apply keeps_setEngine)
    | (with_reducible apply keeps_count)
    | split

theorem keeps_runSteps {s₀ : State} (a : Nat) (a2 : State) (a3 : Nat) (a4 : QEntry) (a5 : PassOp) (h : Keeps s₀ a2) :
    Keeps s₀ (State.runSteps a a2 a3 a4 a5).1 := by
  induction a generalizing a2 a4 with
  | zero => exact h
  | succ n ih =>
    unfold State.runSteps
    dsimp only
    split
    · exact h
    · split
      · exact h
      · split
        · exact h
        · exact ih _ _ (keeps_pieceLoad _ _ _ _ _ _ h)
      · generalize (if ((a2.engine a3).before a4).all QEntry.allFed = true then a2.feedLimit a3 a4 a5 else 0) = hi
        split
        · exact keeps_feedRows _ _ _ _ _ _ _ _ _ h
        · exact ih _ _ (keeps_count _ _ _ _ (keeps_feedRows _ _ _ _ _ _ _ _ _ h))

theorem keeps_execPassStart {s₀ : State} (start : PassAt) (s : State) (h : Keeps s₀ s) :
    OutKeeps s₀ (execPassStart start s) := by
  unfold execPassStart
  try dsimp only
  repeat'
    first
    | (with_reducible assumption)
    | (with_reducible apply keeps_runSteps)
    | (with_reducible apply keeps_setEngine)
    | (with_reducible apply OutKeeps.next)
    | split

theorem keeps_loadCells {s₀ : State} (s : State) (core : Nat) (l : LoadOp) (h : Keeps s₀ s) :
    Keeps s₀ (State.loadCells s core l).1 := by
  unfold State.loadCells
  try dsimp only
  repeat'
    first
    | (with_reducible assumption)
    | (with_reducible apply keeps_expandedColumns)
    | (with_reducible apply keeps_weightColumns)
    | split

theorem keeps_execWeightLoadStart {s₀ : State} (engine : EngIx) (readBack : List ReadBack) (s : State) (h : Keeps s₀ s) :
    OutKeeps s₀ (execWeightLoadStart engine readBack s) := by
  unfold execWeightLoadStart
  try dsimp only
  repeat'
    first
    | (with_reducible assumption)
    | (with_reducible apply keeps_loadCells)
    | (with_reducible apply keeps_setEngine)
    | (with_reducible apply keeps_readBacks)
    | (with_reducible apply keeps_coreFlags)
    | (with_reducible apply OutKeeps.next)
    | split

theorem keeps_finishOp {s₀ : State} (s : State) (e : Nat) (q : QEntry) (off : Nat) (h : Keeps s₀ s) :
    Keeps s₀ (State.finishOp s e q off) := by
  unfold State.finishOp
  try dsimp only
  repeat'
    first
    | (with_reducible assumption)
    | (with_reducible apply keeps_count)
    | (with_reducible apply keeps_setEngine)

theorem keeps_runMerges {s₀ : State} (s : State) (e : Nat) (p : PassOp) (h : Keeps s₀ s) :
    Keeps s₀ (State.runMerges s e p) := by
  unfold State.runMerges
  try dsimp only
  repeat'
    first
    | (with_reducible assumption)
    | intro _
    | (with_reducible apply keeps_readAcc)
    | (with_reducible apply keeps_collect)
    | (with_reducible apply keeps_preloadRow)
    | (with_reducible apply keeps_tileFlags)
    | (with_reducible apply keeps_setEngine)
    | (with_reducible apply Keeps.foldl)
    | split

theorem keeps_execPassComplete {s₀ : State} (engine : EngIx) (s : State) (h : Keeps s₀ s) :
    OutKeeps s₀ (execPassComplete engine s) := by
  unfold execPassComplete
  try dsimp only
  repeat'
    first
    | (with_reducible assumption)
    | (with_reducible apply keeps_runSteps)
    | (with_reducible apply keeps_finishOp)
    | (with_reducible apply keeps_runMerges)
    | (with_reducible apply OutKeeps.next)
    | split

theorem keeps_execWeightLoadComplete {s₀ : State} (engine : EngIx) (s : State) (h : Keeps s₀ s) :
    OutKeeps s₀ (execWeightLoadComplete engine s) := by
  unfold execWeightLoadComplete
  try dsimp only
  repeat'
    first
    | (with_reducible assumption)
    | (with_reducible apply keeps_finishOp)
    | (with_reducible apply OutKeeps.next)
    | split

theorem keeps_runMv {s₀ : State} (s : State) (core : Nat) (o : MvOp) (h : Keeps s₀ s) :
    Keeps s₀ (State.runMv s core o) := by
  unfold State.runMv
  try dsimp only
  repeat'
    first
    | (with_reducible assumption)
    | intro _
    | (with_reducible apply keeps_collect)
    | (with_reducible apply keeps_markedRow)
    | (with_reducible apply keeps_expandedColumns)
    | (with_reducible apply keeps_weightColumns)
    | (with_reducible apply keeps_preloadRow)
    | (with_reducible apply keeps_touchAcc)
    | (with_reducible apply keeps_count)
    | (with_reducible apply keeps_tileFlags)
    | (with_reducible apply keeps_coreFlags)
    | (with_reducible apply keeps_setEngine)
    | split

theorem keeps_execMatrixVectorStart {s₀ : State} (core : CoreIx) (s : State) (h : Keeps s₀ s) :
    OutKeeps s₀ (execMatrixVectorStart core s) := by
  unfold execMatrixVectorStart
  try dsimp only
  repeat'
    first
    | (with_reducible assumption)
    | (with_reducible apply keeps_runMv)
    | (with_reducible apply keeps_setCore)
    | (with_reducible apply OutKeeps.next)
    | split

theorem keeps_drainWrite {s₀ : State} (s : State) (who : Nat) (core : Nat) (o : DrainOp) (i : Nat) (row : List Sum) (h : Keeps s₀ s) :
    Keeps s₀ (State.drainWrite s who core o i row).1 := by
  unfold State.drainWrite
  try dsimp only
  repeat'
    first
    | (with_reducible assumption)
    | (with_reducible apply keeps_ownWrite)
    | split

theorem keeps_runDrain {s₀ : State} (s0 : State) (core : Nat) (o : DrainOp) (h : Keeps s₀ s0) :
    Keeps s₀ (State.runDrain s0 core o) := by
  unfold State.runDrain
  try dsimp only
  repeat'
    first
    | (with_reducible assumption)
    | intro _
    | (with_reducible apply keeps_readAcc)
    | (with_reducible apply keeps_drainWrite)
    | (with_reducible apply keeps_ownWrite)
    | (with_reducible apply keeps_setEngine)
    | (with_reducible apply keeps_coreFlags)
    | (with_reducible apply Keeps.foldl1)

theorem keeps_execDrainStart {s₀ : State} (core : CoreIx) (s : State) (h : Keeps s₀ s) :
    OutKeeps s₀ (execDrainStart core s) := by
  unfold execDrainStart
  try dsimp only
  repeat'
    first
    | (with_reducible assumption)
    | (with_reducible apply keeps_runDrain)
    | (with_reducible apply keeps_setCore)
    | (with_reducible apply OutKeeps.next)
    | split

theorem keeps_noteWait {s₀ : State} (s : State) (e : Nat) (h : Keeps s₀ s) :
    Keeps s₀ (State.noteWait s e) := by
  unfold State.noteWait
  try dsimp only
  repeat'
    first
    | (with_reducible assumption)
    | (with_reducible apply keeps_setEngine)
    | split

theorem keeps_execEngineWaitLong {s₀ : State} (engine : EngIx) (s : State) (h : Keeps s₀ s) :
    OutKeeps s₀ (execEngineWaitLong engine s) := by
  unfold execEngineWaitLong
  try dsimp only
  repeat'
    first
    | (with_reducible assumption)
    | (with_reducible apply keeps_record)
    | (with_reducible apply keeps_setEngine)
    | (with_reducible apply OutKeeps.next)
    | split

theorem keeps_doStartPrefetch {s₀ : State} (core : Nat) (s : State) (w : Nat) (h : Keeps s₀ s) :
    Issue.Keeps s₀ (doStartPrefetch core s w) := by
  unfold doStartPrefetch
  try dsimp only
  repeat'
    first
    | (with_reducible assumption)
    | (with_reducible apply Issue.Keeps.refuse)
    | (with_reducible apply keeps_setPrefetch)
    | (with_reducible apply keeps_prefetchTo)
    | (with_reducible apply Issue.Keeps.go)
    | split

theorem keeps_doStopPrefetch {s₀ : State} (core : Nat) (s : State) (w : Nat) (h : Keeps s₀ s) :
    Issue.Keeps s₀ (doStopPrefetch core s w) := by
  unfold doStopPrefetch
  try dsimp only
  repeat'
    first
    | (with_reducible assumption)
    | (with_reducible apply keeps_setCore)
    | (with_reducible apply Issue.Keeps.go)

theorem keeps_moveRead {s₀ : State} (s : State) (core : Nat) (t : Tensor) (a : Nat) (n : Nat) (h : Keeps s₀ s) :
    Keeps s₀ (State.moveRead s core t a n).1 := by
  unfold State.moveRead
  try dsimp only
  repeat'
    first
    | (with_reducible assumption)
    | (with_reducible apply keeps_prefetchAdvance)
    | (with_reducible apply keeps_ownRead)
    | (with_reducible apply keeps_cachedRead)
    | (with_reducible apply keeps_readRun)
    | (with_reducible apply keeps_count)
    | split

theorem keeps_moveWrite {s₀ : State} (s : State) (core : Nat) (t : Tensor) (a : Nat) (bs : PBytes) (h : Keeps s₀ s) :
    Keeps s₀ (State.moveWrite s core t a bs) := by
  unfold State.moveWrite
  try dsimp only
  repeat'
    first
    | (with_reducible assumption)
    | (with_reducible apply keeps_ownWrite)
    | (with_reducible apply keeps_cachedWrite)
    | (with_reducible apply keeps_writeRun)
    | (with_reducible apply keeps_count)
    | split

theorem keeps_readRows {s₀ : State} (s : State) (core : Nat) (t : Tensor) (h : Keeps s₀ s) :
    Keeps s₀ (State.readRows s core t).1 := by
  unfold State.readRows
  try dsimp only
  repeat'
    first
    | (with_reducible assumption)
    | intro _
    | (with_reducible apply keeps_moveRead)
    | (with_reducible apply Keeps.foldl1)

theorem keeps_writeRows {s₀ : State} (s : State) (core : Nat) (t : Tensor) (trunc : Bool) (nonSat : Bool) (rows : List (List (FVal × Bool))) (h : Keeps s₀ s) :
    Keeps s₀ (State.writeRows s core t trunc nonSat rows).1 := by
  unfold State.writeRows
  try dsimp only
  repeat'
    first
    | (with_reducible assumption)
    | intro _
    | (with_reducible apply keeps_moveWrite)
    | (with_reducible apply Keeps.foldl)

theorem keeps_runCopy {s₀ : State} (s : State) (core : Nat) (o : MoveOp) (src : Tensor) (h : Keeps s₀ s) :
    Keeps s₀ (State.runCopy s core o src).1 := by
  unfold State.runCopy
  try dsimp only
  repeat'
    first
    | (with_reducible assumption)
    | intro _
    | (with_reducible apply keeps_moveRead)
    | (with_reducible apply keeps_moveWrite)
    | (with_reducible apply keeps_readRows)
    | (with_reducible apply keeps_writeRows)
    | (with_reducible apply Keeps.foldl)
    | (with_reducible apply Keeps.foldl1)
    | split

theorem keeps_runCombine {s₀ : State} (s : State) (core : Nat) (o : MoveOp) (tree : Bool) (parts : Nat) (addend : Bool) (h : Keeps s₀ s) :
    Keeps s₀ (State.runCombine s core o tree parts addend).1 := by
  unfold State.runCombine
  try dsimp only
  repeat'
    first
    | (with_reducible assumption)
    | intro _
    | (with_reducible apply keeps_readRows)
    | (with_reducible apply keeps_writeRows)
    | (with_reducible apply Keeps.foldl1)

theorem keeps_runMove {s₀ : State} (s : State) (core : Nat) (o : MoveOp) (h : Keeps s₀ s) :
    Keeps s₀ (State.runMove s core o).1 := by
  unfold State.runMove
  try dsimp only
  repeat'
    first
    | (with_reducible assumption)
    | (with_reducible apply keeps_runCombine)
    | (with_reducible apply keeps_runCopy)
    | split

theorem keeps_moveOwes {s₀ : State} (s : State) (core : Nat) (n : Nat) (o : MoveOp) (h : Keeps s₀ s) :
    Keeps s₀ (State.moveOwes s core n o) := by
  unfold State.moveOwes
  try dsimp only
  repeat'
    first
    | (with_reducible assumption)
    | (with_reducible apply keeps_ownWrites)
    | (with_reducible apply keeps_setCore)
    | split

theorem keeps_runMover {s₀ : State} (a : Nat) (a2 : State) (a3 : Nat) (h : Keeps s₀ a2) :
    Keeps s₀ (State.runMover a a2 a3) := by
  induction a generalizing a2 with
  | zero => exact h
  | succ n ih =>
    unfold State.runMover
    split
    · exact h
    · split
      · exact h
      · split
        · exact keeps_hostStall _ _ h
        · exact ih _ (keeps_coreFlags _ _ _ _ _ (keeps_moveOwes _ _ _ _ (keeps_runMove _ _ _ (keeps_setCore _ _ _ h))))

theorem keeps_runMovers {s₀ : State} (s : State) (h : Keeps s₀ s) :
    Keeps s₀ (State.runMovers s) := by
  unfold State.runMovers
  try dsimp only
  repeat'
    first
    | (with_reducible assumption)
    | intro _
    | (with_reducible apply keeps_runMover)
    | (with_reducible apply Keeps.foldl)
    | split

theorem keeps_moveIssue {s₀ : State} (s : State) (core : Nat) (o : MoveOp) (h : Keeps s₀ s) :
    Issue.Keeps s₀ (State.moveIssue s core o) := by
  unfold State.moveIssue
  try dsimp only
  repeat'
    first
    | (with_reducible assumption)
    | (with_reducible apply keeps_priceHeld)
    | (with_reducible apply keeps_pay)
    | (with_reducible apply keeps_runMover)
    | (with_reducible apply keeps_setCore)
    | (with_reducible apply Issue.Keeps.go)
    | (with_reducible apply Issue.Keeps.stall)
    | split

theorem keeps_doCopy {s₀ : State} (core : Nat) (s : State) (w : Nat) (h : Keeps s₀ s) :
    Issue.Keeps s₀ (doCopy core s w) := by
  unfold doCopy
  try dsimp only
  repeat'
    first
    | (with_reducible assumption)
    | (with_reducible apply Issue.Keeps.refuse)
    | (with_reducible apply keeps_moveIssue)
    | split

theorem keeps_doCombine {s₀ : State} (core : Nat) (s : State) (w : Nat) (h : Keeps s₀ s) :
    Issue.Keeps s₀ (doCombine core s w) := by
  unfold doCombine
  try dsimp only
  repeat'
    first
    | (with_reducible assumption)
    | (with_reducible apply Issue.Keeps.refuse)
    | (with_reducible apply keeps_moveIssue)
    | split

theorem keeps_execCopy {s₀ : State} (core : CoreIx) (s : State) (h : Keeps s₀ s) :
    OutKeeps s₀ (execCopy core s) := by
  unfold execCopy
  try dsimp only
  repeat'
    first
    | (with_reducible assumption)
    | (with_reducible apply keeps_issue)
    | (with_reducible apply keeps_doCopy)
    | (with_reducible apply OutKeeps.next)

theorem keeps_execCombine {s₀ : State} (core : CoreIx) (s : State) (h : Keeps s₀ s) :
    OutKeeps s₀ (execCombine core s) := by
  unfold execCombine
  try dsimp only
  repeat'
    first
    | (with_reducible assumption)
    | (with_reducible apply keeps_issue)
    | (with_reducible apply keeps_doCombine)
    | (with_reducible apply OutKeeps.next)

theorem keeps_execStartPrefetch {s₀ : State} (core : CoreIx) (s : State) (h : Keeps s₀ s) :
    OutKeeps s₀ (execStartPrefetch core s) := by
  unfold execStartPrefetch
  try dsimp only
  repeat'
    first
    | (with_reducible assumption)
    | (with_reducible apply keeps_issue)
    | (with_reducible apply keeps_doStartPrefetch)
    | (with_reducible apply OutKeeps.next)

theorem keeps_execStopPrefetch {s₀ : State} (core : CoreIx) (s : State) (h : Keeps s₀ s) :
    OutKeeps s₀ (execStopPrefetch core s) := by
  unfold execStopPrefetch
  try dsimp only
  repeat'
    first
    | (with_reducible assumption)
    | (with_reducible apply keeps_issue)
    | (with_reducible apply keeps_doStopPrefetch)
    | (with_reducible apply OutKeeps.next)

theorem keeps_refuseLayout {s₀ : State} (s : State) (code : Nat) (h : Keeps s₀ s) :
    Keeps s₀ (State.refuseLayout s code) := by
  unfold State.refuseLayout
  try dsimp only
  repeat'
    first
    | (with_reducible assumption)
    | simp only [Keeps.mk_iff]

theorem keeps_acceptLayout {s₀ : State} (s : State) (h : Keeps s₀ s) :
    Keeps s₀ (State.acceptLayout s) := by
  unfold State.acceptLayout
  try dsimp only
  repeat'
    first
    | (with_reducible assumption)
    | simp only [Keeps.mk_iff]

theorem keeps_dropVerified {s₀ : State} (s : State) (h : Keeps s₀ s) :
    Keeps s₀ (State.dropVerified s) := by
  unfold State.dropVerified
  try dsimp only
  repeat'
    first
    | (with_reducible assumption)
    | simp only [Keeps.mk_iff]

theorem keeps_noteImage {s₀ : State} (s : State) (digest : List Byte) (h : Keeps s₀ s) :
    Keeps s₀ (State.noteImage s digest) := by
  unfold State.noteImage
  try dsimp only
  repeat'
    first
    | (with_reducible assumption)
    | simp only [Keeps.mk_iff]
    | split

theorem keeps_verifyImage {s₀ : State} (s : State) (base : Nat) (bs : PBytes) (h : Keeps s₀ s) :
    Keeps s₀ (State.verifyImage s base bs) := by
  unfold State.verifyImage
  try dsimp only
  repeat'
    first
    | (with_reducible assumption)
    | simp only [Keeps.mk_iff]
    | (with_reducible apply keeps_refuseLayout)
    | (with_reducible apply keeps_count)
    | (with_reducible apply keeps_noteImage)
    | split

theorem keeps_startLayout {s₀ : State} (s : State) (c : LayoutCmd) (h : Keeps s₀ s) :
    Keeps s₀ (State.startLayout s c) := by
  unfold State.startLayout
  try dsimp only
  repeat'
    first
    | (with_reducible assumption)
    | simp only [Keeps.mk_iff]
    | (with_reducible apply keeps_acceptLayout)
    | split

theorem keeps_runLayout {s₀ : State} (s : State) (c : LayoutCmd) (run : State → State) (h : Keeps s₀ s) (hrun : ∀ t, Keeps s₀ t → Keeps s₀ (run t)) :
    Keeps s₀ (State.runLayout s c run) := by
  unfold State.runLayout
  split
  · exact h
  · split
    · exact hrun _ (keeps_acceptLayout _ h)
    · split
      · exact hrun _ (Keeps.mk_iff.2 h)
      · exact keeps_startLayout _ _ h

theorem keeps_verifyRun {s₀ : State} (s : State) (h : Keeps s₀ s) :
    Keeps s₀ (State.verifyRun s) := by
  unfold State.verifyRun
  try dsimp only
  repeat'
    first
    | (with_reducible assumption)
    | (with_reducible apply keeps_dropVerified)
    | (with_reducible apply keeps_refuseLayout)
    | (with_reducible apply keeps_readRun)
    | (with_reducible apply keeps_verifyImage)
    | split

theorem keeps_ignoreConfig {s₀ : State} (s : State) (blk : Nat) (off : Option Nat) (k : Nat) (h : Keeps s₀ s) :
    Keeps s₀ (State.ignoreConfig s blk off k) := by
  unfold State.ignoreConfig
  try dsimp only
  repeat'
    first
    | (with_reducible assumption)
    | (with_reducible apply keeps_count)
    | (with_reducible apply keeps_writeWhileEnabled)
    | (with_reducible apply keeps_free)
    | split

theorem keeps_turnsAway {s₀ : State} (s : State) (blk : Nat) (off : Option Nat) (k : Nat) (h : Keeps s₀ s) :
    Keeps s₀ (State.turnsAway s blk off k) := by
  unfold State.turnsAway
  try dsimp only
  repeat'
    first
    | (with_reducible assumption)
    | (with_reducible apply keeps_ignoreConfig)
    | (with_reducible apply keeps_unmappedLine)
    | split

theorem keeps_perBlock {s₀ : State} (acc : State × Bool) (blk : Nat) (off : Option Nat) (k : Nat) (w : State → State) (h : Keeps s₀ acc.1) (hw : ∀ t, Keeps s₀ t → Keeps s₀ (w t)) :
    Keeps s₀ (State.perBlock acc blk off k w).1 := by
  unfold State.perBlock
  try dsimp only
  repeat'
    first
    | (with_reducible assumption)
    | intro _
    | (with_reducible apply OutKeeps.fault)
    | (with_reducible apply OutKeeps.refused)
    | (with_reducible apply OptKeeps.none)
    | (with_reducible apply ExKeeps.error)
    | (with_reducible apply ExKeeps1.error)
    | (with_reducible apply Issue.Keeps.refuse)
    | simp only [Keeps.mk_iff]
    | (with_reducible apply keeps_turnsAway)
    | (with_reducible apply hw)
    | (with_reducible apply Keeps.foldl)
    | (with_reducible apply Keeps.foldl1)
    | (with_reducible apply OutKeeps.next)
    | (with_reducible apply OptKeeps.some)
    | (with_reducible apply ExKeeps.ok)
    | (with_reducible apply ExKeeps1.ok)
    | (refine Keeps.ofFst (by with_reducible assumption) ?_)
    | (refine Keeps.ofSnd (by with_reducible assumption) ?_)
    | (refine OptKeeps.get (by with_reducible assumption) ?_)
    | (refine ExKeeps.get (by with_reducible assumption) ?_)
    | (refine ExKeeps1.get (by with_reducible assumption) ?_)
    | (with_reducible apply Issue.Keeps.go)
    | (with_reducible apply Issue.Keeps.stall)
    | (refine Issue.Keeps.getGo (by with_reducible assumption) ?_)
    | (refine Issue.Keeps.getStall (by with_reducible assumption) ?_)
    | split

theorem keeps_allOrNone {s₀ : State} (s : State) (targets : List (Nat × Nat)) (off : Option Nat) (w : State → State) (h : Keeps s₀ s) (hw : ∀ t, Keeps s₀ t → Keeps s₀ (w t)) :
    Keeps s₀ (State.allOrNone s targets off w).1 := by
  unfold State.allOrNone
  try dsimp only
  repeat'
    first
    | (with_reducible assumption)
    | intro _
    | (with_reducible apply OutKeeps.fault)
    | (with_reducible apply OutKeeps.refused)
    | (with_reducible apply OptKeeps.none)
    | (with_reducible apply ExKeeps.error)
    | (with_reducible apply ExKeeps1.error)
    | (with_reducible apply Issue.Keeps.refuse)
    | simp only [Keeps.mk_iff]
    | (with_reducible apply keeps_turnsAway)
    | (with_reducible apply hw)
    | (with_reducible apply Keeps.foldl)
    | (with_reducible apply Keeps.foldl1)
    | (with_reducible apply OutKeeps.next)
    | (with_reducible apply OptKeeps.some)
    | (with_reducible apply ExKeeps.ok)
    | (with_reducible apply ExKeeps1.ok)
    | (refine Keeps.ofFst (by with_reducible assumption) ?_)
    | (refine Keeps.ofSnd (by with_reducible assumption) ?_)
    | (refine OptKeeps.get (by with_reducible assumption) ?_)
    | (refine ExKeeps.get (by with_reducible assumption) ?_)
    | (refine ExKeeps1.get (by with_reducible assumption) ?_)
    | (with_reducible apply Issue.Keeps.go)
    | (with_reducible apply Issue.Keeps.stall)
    | (refine Issue.Keeps.getGo (by with_reducible assumption) ?_)
    | (refine Issue.Keeps.getStall (by with_reducible assumption) ?_)
    | split

theorem keeps_siteFromMap {s₀ : State} (s : State) (h : Keeps s₀ s) :
    Keeps s₀ (State.siteFromMap s) := by
  unfold State.siteFromMap
  try dsimp only
  repeat'
    first
    | (with_reducible assumption)
    | intro _
    | (with_reducible apply keeps_noteSite)
    | (with_reducible apply keeps_setSite)
    | (with_reducible apply Keeps.foldl)
    | split

theorem keeps_loadDieMap {s₀ : State} (s : State) (d : List Byte) (tiles : List Nat) (h : Keeps s₀ s) :
    Keeps s₀ (State.loadDieMap s d tiles) := by
  unfold State.loadDieMap
  try dsimp only
  repeat'
    first
    | (with_reducible assumption)
    | simp only [Keeps.mk_iff]
    | (with_reducible apply keeps_siteFromMap)

theorem keeps_loadStages {s₀ : State} (s : State) (d : List Byte) (only : Option Nat) (h : Keeps s₀ s) :
    Keeps s₀ (State.loadStages s d only).1 := by
  unfold State.loadStages
  try dsimp only
  repeat'
    first
    | (with_reducible assumption)
    | intro _
    | (with_reducible apply keeps_perBlock)
    | (with_reducible apply keeps_setFld)
    | (with_reducible apply Keeps.foldl1)
    | split

theorem keeps_loadRoutes {s₀ : State} (s : State) (d : List Byte) (h : Keeps s₀ s) :
    Keeps s₀ (State.loadRoutes s d).1 := by
  unfold State.loadRoutes
  try dsimp only
  repeat'
    first
    | (with_reducible assumption)
    | intro _
    | simp only [Keeps.mk_iff]
    | (with_reducible apply keeps_perBlock)
    | (with_reducible apply Keeps.foldl1)

theorem keeps_loadBanks {s₀ : State} (s : State) (d : List Byte) (h : Keeps s₀ s) :
    Keeps s₀ (State.loadBanks s d).1 := by
  unfold State.loadBanks
  try dsimp only
  repeat'
    first
    | (with_reducible assumption)
    | intro _
    | (with_reducible apply keeps_setBank)
    | (with_reducible apply keeps_perBlock)
    | (with_reducible apply Keeps.foldl)
    | (with_reducible apply Keeps.foldl1)
    | split

theorem keeps_loadTokens {s₀ : State} (s : State) (d : List Byte) (only : Option Nat) (h : Keeps s₀ s) :
    Keeps s₀ (State.loadTokens s d only).1 := by
  unfold State.loadTokens
  try dsimp only
  repeat'
    first
    | (with_reducible assumption)
    | intro _
    | simp only [Keeps.mk_iff]
    | (with_reducible apply keeps_allOrNone)
    | (with_reducible apply keeps_setCount)
    | (with_reducible apply keeps_release)
    | (with_reducible apply Keeps.foldl)
    | split

theorem keeps_loadEnergy {s₀ : State} (s : State) (d : List Byte) (h : Keeps s₀ s) :
    Keeps s₀ (State.loadEnergy s d).1 := by
  unfold State.loadEnergy
  try dsimp only
  repeat'
    first
    | (with_reducible assumption)
    | intro _
    | simp only [Keeps.mk_iff]
    | (with_reducible apply keeps_perBlock)

theorem keeps_loadIntake {s₀ : State} (s : State) (d : List Byte) (h : Keeps s₀ s) :
    Keeps s₀ (State.loadIntake s d).1 := by
  unfold State.loadIntake
  try dsimp only
  repeat'
    first
    | (with_reducible assumption)
    | intro _
    | (with_reducible apply keeps_perBlock)
    | (with_reducible apply keeps_setReg)
    | (with_reducible apply Keeps.foldl1)

theorem keeps_loadNumerics {s₀ : State} (s : State) (d : List Byte) (only : Option Nat) (h : Keeps s₀ s) :
    Keeps s₀ (State.loadNumerics s d only).1 := by
  unfold State.loadNumerics
  try dsimp only
  repeat'
    first
    | (with_reducible assumption)
    | intro _
    | (with_reducible apply keeps_allOrNone)
    | (with_reducible apply keeps_setFld)
    | (with_reducible apply Keeps.foldl)

theorem keeps_writeSection {s₀ : State} (s : State) (ty : Nat) (d : List Byte) (only : Option Nat) (h : Keeps s₀ s) :
    Keeps s₀ (State.writeSection s ty d only).1 := by
  unfold State.writeSection
  try dsimp only
  repeat'
    first
    | (with_reducible assumption)
    | intro _
    | simp only [Keeps.mk_iff]
    | (with_reducible apply keeps_allOrNone)
    | (with_reducible apply keeps_loadDieMap)
    | (with_reducible apply keeps_loadStages)
    | (with_reducible apply keeps_loadRoutes)
    | (with_reducible apply keeps_loadBanks)
    | (with_reducible apply keeps_loadTokens)
    | (with_reducible apply keeps_loadEnergy)
    | (with_reducible apply keeps_loadIntake)
    | (with_reducible apply keeps_loadNumerics)
    | split

theorem keeps_noteSection {s₀ : State} (s : State) (ty : Nat) (dg : List Byte) (ok : Bool) (h : Keeps s₀ s) :
    Keeps s₀ (State.noteSection s ty dg ok) := by
  unfold State.noteSection
  try dsimp only
  repeat'
    first
    | (with_reducible assumption)
    | simp only [Keeps.mk_iff]
    | (with_reducible apply keeps_count)
    | split

theorem keeps_loadSections {s₀ : State} (only : Option Nat) (a : List Nat) (a3 : State) (h : Keeps s₀ a3) :
    Keeps s₀ (State.loadSections only a a3) := by
  induction a generalizing a3 with
  | nil => unfold State.loadSections; exact h
  | cons ty l ih =>
    unfold State.loadSections
    repeat'
    first
    | (with_reducible assumption)
    | (with_reducible apply ih)
    | (with_reducible apply keeps_refuseLayout)
    | (with_reducible apply keeps_noteSection)
    | (with_reducible apply keeps_count)
    | (with_reducible apply keeps_readRun)
    | (with_reducible apply keeps_writeSection)
    | (refine Keeps.ofFst (by with_reducible assumption) (keeps_readRun _ _ _ _ ?_))
    | split
    | dsimp only

theorem keeps_loadRun {s₀ : State} (mask : BitVec 9) (s : State) (h : Keeps s₀ s) :
    Keeps s₀ (State.loadRun mask s) := by
  unfold State.loadRun
  try dsimp only
  repeat'
    first
    | (with_reducible assumption)
    | (with_reducible apply keeps_refuseLayout)
    | (with_reducible apply keeps_loadSections)
    | split

theorem keeps_siteOnlyRun {s₀ : State} (mask : BitVec 9) (site : BitVec 6) (s : State) (h : Keeps s₀ s) :
    Keeps s₀ (State.siteOnlyRun mask site s) := by
  unfold State.siteOnlyRun
  try dsimp only
  repeat'
    first
    | (with_reducible assumption)
    | simp only [Keeps.mk_iff]
    | (with_reducible apply keeps_refuseLayout)
    | (with_reducible apply keeps_loadSections)
    | split

theorem keeps_setSave {s₀ : State} (s : State) (x2 : Save) (h : Keeps s₀ s) :
    Keeps s₀ (State.setSave s x2) := by
  unfold State.setSave
  try dsimp only
  repeat'
    first
    | (with_reducible assumption)
    | simp only [Keeps.mk_iff]

theorem keeps_savePay {s₀ : State} (s : State) (bytes : Nat) (h : Keeps s₀ s) :
    OptKeeps s₀ (State.savePay s bytes) := by
  unfold State.savePay
  try dsimp only
  repeat'
    first
    | (with_reducible assumption)
    | (with_reducible apply keeps_tryCharge)

theorem keeps_saveHold {s₀ : State} (s : State) (bytes : Nat) (h : Keeps s₀ s) :
    Keeps s₀ (State.saveHold s bytes) := by
  unfold State.saveHold
  try dsimp only
  repeat'
    first
    | (with_reducible assumption)
    | (with_reducible apply keeps_holdPrice)

theorem keeps_jrnWrite {s₀ : State} (s : State) (entry : List Byte) (h : Keeps s₀ s) :
    Keeps s₀ (State.jrnWrite s entry) := by
  unfold State.jrnWrite
  try dsimp only
  repeat'
    first
    | (with_reducible assumption)
    | (with_reducible apply keeps_writeRun)
    | (with_reducible apply keeps_setSave)

theorem keeps_jrnAppend {s₀ : State} (s : State) (entry : List Byte) (h : Keeps s₀ s) :
    OptKeeps s₀ (State.jrnAppend s entry) := by
  unfold State.jrnAppend
  have k := keeps_savePay s 128 h
  generalize s.savePay 128 = o at k ⊢
  cases o with
  | none => exact OptKeeps.none
  | some t => exact keeps_jrnWrite _ _ k

theorem keeps_drainAppends {s₀ : State} (a : List (List Byte)) (a2 : State) (h : Keeps s₀ a2) :
    Keeps s₀ (State.drainAppends a a2) := by
  induction a generalizing a2 with
  | nil => exact keeps_setSave _ _ h
  | cons e es ih =>
    unfold State.drainAppends
    split
    · next t e1 => exact ih _ (OptKeeps.get e1 (keeps_jrnAppend _ _ h))
    · exact keeps_setSave _ _ (keeps_saveHold _ _ h)

theorem keeps_runAppends {s₀ : State} (s : State) (entries : List (List Byte)) (h : Keeps s₀ s) :
    Keeps s₀ (State.runAppends s entries) := by
  unfold State.runAppends
  try dsimp only
  repeat'
    first
    | (with_reducible assumption)
    | (with_reducible apply keeps_setSave)
    | (with_reducible apply keeps_drainAppends)
    | split

theorem keeps_takeAppend {s₀ : State} (s : State) (entry : List Byte) (h : Keeps s₀ s) :
    Keeps s₀ (State.takeAppend s entry) := by
  unfold State.takeAppend
  try dsimp only
  repeat'
    first
    | (with_reducible assumption)
    | (with_reducible apply keeps_runAppends)

theorem keeps_captureBoundary {s₀ : State} (s : State) (h : Keeps s₀ s) :
    Keeps s₀ (State.captureBoundary s) := by
  unfold State.captureBoundary
  try dsimp only
  repeat'
    first
    | (with_reducible assumption)
    | (with_reducible apply keeps_setSave)
    | split

theorem keeps_saveBoundary {s₀ : State} (s : State) (h : Keeps s₀ s) :
    Keeps s₀ (State.saveBoundary s) := by
  unfold State.saveBoundary
  try dsimp only
  repeat'
    first
    | (with_reducible assumption)
    | (with_reducible apply keeps_captureBoundary)
    | (with_reducible apply keeps_runAppends)
    | split

theorem keeps_readSlot {s₀ : State} (s : State) (k : Nat) (h : Keeps s₀ s) :
    Keeps s₀ (State.readSlot s k) := by
  unfold State.readSlot
  try dsimp only
  repeat'
    first
    | (with_reducible assumption)
    | (with_reducible apply keeps_setSave)
    | (with_reducible apply keeps_readRun)
    | split

theorem keeps_readSlots {s₀ : State} (s : State) (h : Keeps s₀ s) :
    Keeps s₀ (State.readSlots s) := by
  unfold State.readSlots
  try dsimp only
  repeat'
    first
    | (with_reducible assumption)
    | (with_reducible apply keeps_readSlot)

theorem keeps_readPlan {s₀ : State} (s : State) (a : Nat) (h : Keeps s₀ s) :
    Keeps s₀ (State.readPlan s a).1 := by
  unfold State.readPlan
  try dsimp only
  repeat'
    first
    | (with_reducible assumption)
    | (with_reducible apply keeps_readRun)
    | split

theorem keeps_slotWrite {s₀ : State} (s : State) (k : Nat) (off : Nat) (bs : List Byte) (h : Keeps s₀ s) :
    Keeps s₀ (State.slotWrite s k off bs) := by
  unfold State.slotWrite
  try dsimp only
  repeat'
    first
    | (with_reducible assumption)
    | (with_reducible apply keeps_count)
    | (with_reducible apply keeps_writeRun)

theorem keeps_saveWaits {s₀ : State} (s : State) (h : Keeps s₀ s) :
    Keeps s₀ (State.saveWaits s) := by
  unfold State.saveWaits
  try dsimp only
  repeat'
    first
    | (with_reducible assumption)
    | (with_reducible apply keeps_sendToken)
    | (with_reducible apply keeps_setSave)

theorem keeps_signalRelease {s₀ : State} (s : State) (h : Keeps s₀ s) :
    Keeps s₀ (State.signalRelease s) := by
  unfold State.signalRelease
  try dsimp only
  repeat'
    first
    | (with_reducible assumption)
    | (with_reducible apply keeps_sendToken)
    | (with_reducible apply keeps_setSave)

theorem keeps_signalDone {s₀ : State} (s : State) (h : Keeps s₀ s) :
    Keeps s₀ (State.signalDone s) := by
  unfold State.signalDone
  try dsimp only
  repeat'
    first
    | (with_reducible assumption)
    | (with_reducible apply keeps_sendToken)

theorem keeps_saveFault {s₀ : State} (s : State) (code : Nat) (entry : Nat) (h : Keeps s₀ s) :
    Keeps s₀ (State.saveFault s code entry) := by
  unfold State.saveFault
  try dsimp only
  repeat'
    first
    | (with_reducible assumption)
    | (with_reducible apply keeps_record)
    | (with_reducible apply keeps_setSave)
    | (with_reducible apply keeps_dropHeld)
    | (with_reducible apply keeps_signalRelease)
    | (with_reducible apply keeps_signalDone)
    | split

theorem keeps_saveFaults {s₀ : State} (s : State) (code : Nat) (entry : Nat) (h : Keeps s₀ s) :
    Keeps s₀ (State.saveFaults s code entry) := by
  unfold State.saveFaults
  try dsimp only
  repeat'
    first
    | (with_reducible assumption)
    | (with_reducible apply keeps_saveWaits)
    | (with_reducible apply keeps_saveFault)

theorem keeps_saveBegin {s₀ : State} (s : State) (p : SavePlan) (h : Keeps s₀ s) :
    Keeps s₀ (State.saveBegin s p) := by
  unfold State.saveBegin
  try dsimp only
  repeat'
    first
    | (with_reducible assumption)
    | (with_reducible apply keeps_saveFaults)
    | (with_reducible apply keeps_savePay)
    | (with_reducible apply keeps_saveHold)
    | (with_reducible apply keeps_slotWrite)
    | (with_reducible apply keeps_setSave)
    | (refine OptKeeps.get (by with_reducible assumption) ?_)
    | split

theorem keeps_execSaveStart {s₀ : State} (s : State) (h : Keeps s₀ s) :
    OutKeeps s₀ (execSaveStart s) := by
  unfold execSaveStart
  try dsimp only
  repeat'
    first
    | (with_reducible assumption)
    | (with_reducible apply keeps_hostStall)
    | (with_reducible apply keeps_readPlan)
    | (with_reducible apply keeps_saveFaults)
    | (with_reducible apply keeps_saveBegin)
    | (with_reducible apply keeps_setSave)
    | (with_reducible apply OutKeeps.next)
    | (refine Keeps.ofFst (by with_reducible assumption) ?_)
    | split

theorem keeps_copyEntry {s₀ : State} (s : State) (k : Nat) (step : Nat) (off : Nat) (e : PlanEntry) (h : Keeps s₀ s) :
    Keeps s₀ (State.copyEntry s k step off e).1 := by
  unfold State.copyEntry
  try dsimp only
  repeat'
    first
    | (with_reducible assumption)
    | (with_reducible apply keeps_readRun)
    | (with_reducible apply keeps_slotWrite)
    | split

theorem keeps_copyEntries {s₀ : State} (k : Nat) (step : Nat) (a : List (Nat × Nat × PlanEntry)) (a4 : State) (h : Keeps s₀ a4) :
    Keeps s₀ (State.copyEntries k step a a4).1 := by
  induction a generalizing a4 with
  | nil => exact h
  | cons x l ih =>
    unfold State.copyEntries
    dsimp only
    have k := keeps_copyEntry a4 k step x.2.1 x.2.2 h
    split
    · exact k
    · exact ih _ k

theorem keeps_saveQuiet {s₀ : State} (s : State) (p : SavePlan) (h : Keeps s₀ s) :
    Keeps s₀ (State.saveQuiet s p) := by
  unfold State.saveQuiet
  try dsimp only
  repeat'
    first
    | (with_reducible assumption)
    | (with_reducible apply keeps_savePay)
    | (with_reducible apply keeps_saveHold)
    | (with_reducible apply keeps_copyEntries)
    | (with_reducible apply keeps_slotWrite)
    | (with_reducible apply keeps_saveFaults)
    | (with_reducible apply keeps_setSave)
    | (with_reducible apply keeps_signalRelease)
    | (refine Keeps.ofFst (by with_reducible assumption) ?_)
    | (refine OptKeeps.get (by with_reducible assumption) ?_)
    | split

theorem keeps_saveCounts {s₀ : State} (s : State) (p : SavePlan) (h : Keeps s₀ s) :
    Keeps s₀ (State.saveCounts s p) := by
  unfold State.saveCounts
  try dsimp only
  repeat'
    first
    | (with_reducible assumption)
    | (with_reducible apply keeps_saveFaults)
    | (with_reducible apply keeps_setSave)
    | split

theorem keeps_saveLate {s₀ : State} (s : State) (p : SavePlan) (h : Keeps s₀ s) :
    Keeps s₀ (State.saveLate s p) := by
  unfold State.saveLate
  try dsimp only
  repeat'
    first
    | (with_reducible assumption)
    | intro _
    | (with_reducible apply keeps_saveFaults)
    | (with_reducible apply keeps_savePay)
    | (with_reducible apply keeps_saveHold)
    | (with_reducible apply keeps_copyEntries)
    | (with_reducible apply keeps_readRun)
    | (with_reducible apply keeps_slotWrite)
    | (with_reducible apply keeps_setSave)
    | (with_reducible apply Keeps.foldl1)
    | (refine Keeps.ofFst (by with_reducible assumption) ?_)
    | (refine OptKeeps.get (by with_reducible assumption) ?_)
    | split

theorem keeps_saveToLate {s₀ : State} (s : State) (p : SavePlan) (h : Keeps s₀ s) :
    Keeps s₀ (State.saveToLate s p) := by
  unfold State.saveToLate
  try dsimp only
  repeat'
    first
    | (with_reducible assumption)
    | (with_reducible apply keeps_saveQuiet)
    | (with_reducible apply keeps_saveLate)
    | split

theorem keeps_execSaveCapture {s₀ : State} (s : State) (h : Keeps s₀ s) :
    OutKeeps s₀ (execSaveCapture s) := by
  unfold execSaveCapture
  try dsimp only
  repeat'
    first
    | (with_reducible assumption)
    | (with_reducible apply keeps_saveCounts)
    | (with_reducible apply keeps_saveToLate)
    | (with_reducible apply keeps_saveLate)
    | (with_reducible apply OutKeeps.next)
    | split

theorem keeps_execSaveValidate {s₀ : State} (s : State) (h : Keeps s₀ s) :
    OutKeeps s₀ (execSaveValidate s) := by
  unfold execSaveValidate
  dsimp only
  split
  · split
    · exact keeps_saveHold _ _ h
    · next s1 e =>
      have k : Keeps s₀ s1 := OptKeeps.get e (keeps_savePay _ _ h)
      generalize controlLine _ _ _ _ _ _ _ _ _ = bs
      have k2 : Keeps s₀ ((s1.slotWrite s.save.slot 0 bs).count bSav 0x208 1) := keeps_count _ _ _ _ (keeps_slotWrite _ _ _ _ k)
      generalize (s1.slotWrite s.save.slot 0 bs).count bSav 0x208 1 = s2 at k2 ⊢
      have k3 := keeps_setSave s2 (s2.save.setSlot s.save.slot
        (some (BitVec.ofNat 32 (planOf s.save.plan).step, BitVec.ofNat 64 (lastSeq s.save.jrnLast)))) k2
      split
      · exact keeps_setSave _ _ k3
      · exact keeps_saveWaits _ (keeps_signalDone _ k3)
  · exact h

theorem keeps_noteCopyout {s₀ : State} (s : State) (step : Nat) (job : Nat) (dest : Nat) (digest : List Byte) (h : Keeps s₀ s) :
    Keeps s₀ (State.noteCopyout s step job dest digest) := by
  unfold State.noteCopyout
  try dsimp only
  repeat'
    first
    | (with_reducible assumption)
    | (with_reducible apply keeps_flashWrite)

theorem keeps_abandonCopyout {s₀ : State} (s : State) (h : Keeps s₀ s) :
    Keeps s₀ (State.abandonCopyout s) := by
  unfold State.abandonCopyout
  try dsimp only
  repeat'
    first
    | (with_reducible assumption)
    | (with_reducible apply keeps_saveWaits)
    | (with_reducible apply keeps_signalDone)
    | (with_reducible apply keeps_setSave)
    | (with_reducible apply keeps_dropHeld)

theorem keeps_copyWrite {s₀ : State} (s : State) (o : WriteOwner) (a : Nat) (bs : PBytes) (h : Keeps s₀ s) :
    Keeps s₀ (State.copyWrite s o a bs) := by
  unfold State.copyWrite
  try dsimp only
  repeat'
    first
    | (with_reducible assumption)
    | (with_reducible apply keeps_ownWrites)
    | (with_reducible apply keeps_writeRun)
    | (with_reducible apply keeps_unmappedLine)
    | split

theorem keeps_copyBody {s₀ : State} (s : State) (base : Nat) (dest : Nat) (n : Nat) (h : Keeps s₀ s) :
    Keeps s₀ (State.copyBody s base dest n) := by
  unfold State.copyBody
  try dsimp only
  repeat'
    first
    | (with_reducible assumption)
    | intro _
    | (with_reducible apply keeps_readRun)
    | (with_reducible apply keeps_copyWrite)
    | (with_reducible apply Keeps.foldl)

theorem keeps_execCopyOutSlot {s₀ : State} (s : State) (h : Keeps s₀ s) :
    OutKeeps s₀ (execCopyOutSlot s) := by
  unfold execCopyOutSlot
  try dsimp only
  repeat'
    first
    | (with_reducible assumption)
    | (with_reducible apply keeps_savePay)
    | (with_reducible apply keeps_saveHold)
    | (with_reducible apply keeps_copyBody)
    | (with_reducible apply keeps_setSave)
    | (with_reducible apply keeps_abandonCopyout)
    | (with_reducible apply keeps_readRun)
    | (with_reducible apply keeps_noteCopyout)
    | (with_reducible apply keeps_copyWrite)
    | (with_reducible apply keeps_saveWaits)
    | (with_reducible apply keeps_signalDone)
    | (with_reducible apply OutKeeps.next)
    | (refine OptKeeps.get (by with_reducible assumption) ?_)
    | split

theorem keeps_restoreReads {s₀ : State} (s : State) (base : Nat) (h : Keeps s₀ s) :
    Keeps s₀ (State.restoreReads s base).1 := by
  unfold State.restoreReads
  try dsimp only
  repeat'
    first
    | (with_reducible assumption)
    | (with_reducible apply keeps_readRun)
    | split

theorem keeps_copyRun {s₀ : State} (s : State) (dst : Nat) (src : Nat) (n : Nat) (h : Keeps s₀ s) :
    Keeps s₀ (State.copyRun s dst src n) := by
  unfold State.copyRun
  try dsimp only
  repeat'
    first
    | (with_reducible assumption)
    | (with_reducible apply keeps_readRun)
    | (with_reducible apply keeps_writeRun)

theorem keeps_restoreState {s₀ : State} (s : State) (base : Nat) (p : SavePlan) (counts : List Byte) (h : Keeps s₀ s) :
    Keeps s₀ (State.restoreState s base p counts) := by
  unfold State.restoreState
  try dsimp only
  repeat'
    first
    | (with_reducible assumption)
    | intro _
    | (with_reducible apply keeps_copyRun)
    | (with_reducible apply keeps_release)
    | (with_reducible apply keeps_setCount)
    | (with_reducible apply Keeps.foldl)

theorem keeps_restoreJournal {s₀ : State} (s : State) (base : Nat) (p : SavePlan) (first : Nat) (fin : Nat) (h : Keeps s₀ s) :
    Keeps s₀ (State.restoreJournal s base p first fin) := by
  unfold State.restoreJournal
  try dsimp only
  repeat'
    first
    | (with_reducible assumption)
    | intro _
    | (with_reducible apply keeps_copyRun)
    | (with_reducible apply keeps_setSave)
    | (with_reducible apply Keeps.foldl)

theorem keeps_restoreEnds {s₀ : State} (s : State) (refused : Bool) (h : Keeps s₀ s) :
    Keeps s₀ (State.restoreEnds s refused) := by
  unfold State.restoreEnds
  try dsimp only
  repeat'
    first
    | (with_reducible assumption)
    | (with_reducible apply keeps_readSlots)
    | (with_reducible apply keeps_setSave)

theorem keeps_restoreRun {s₀ : State} (s : State) (journal : Bool) (substituted : Bool) (h : Keeps s₀ s) :
    Keeps s₀ (State.restoreRun s journal substituted) := by
  unfold State.restoreRun
  try dsimp only
  repeat'
    first
    | (with_reducible assumption)
    | (with_reducible apply keeps_restoreReads)
    | (with_reducible apply keeps_restoreEnds)
    | (with_reducible apply keeps_savePay)
    | (with_reducible apply keeps_saveHold)
    | (with_reducible apply keeps_restoreState)
    | (with_reducible apply keeps_restoreJournal)
    | (refine OptKeeps.get (by with_reducible assumption) ?_)
    | split

theorem keeps_startRestore {s₀ : State} (s : State) (journal : Bool) (substituted : Bool) (h : Keeps s₀ s) :
    Keeps s₀ (State.startRestore s journal substituted) := by
  unfold State.startRestore
  try dsimp only
  repeat'
    first
    | (with_reducible assumption)
    | (with_reducible apply keeps_setSave)
    | split

theorem keeps_execRestore {s₀ : State} (journal : Bool) (substituted : Bool) (s : State) (h : Keeps s₀ s) :
    OutKeeps s₀ (execRestore journal substituted s) := by
  unfold execRestore
  try dsimp only
  repeat'
    first
    | (with_reducible assumption)
    | (with_reducible apply keeps_startRestore)
    | (with_reducible apply keeps_hostStall)
    | (with_reducible apply keeps_restoreRun)
    | (with_reducible apply OutKeeps.next)
    | split

theorem keeps_execAppend {s₀ : State} (s : State) (h : Keeps s₀ s) :
    OutKeeps s₀ (execAppend s) := by
  unfold execAppend
  try dsimp only
  repeat'
    first
    | (with_reducible assumption)
    | (with_reducible apply keeps_setSave)
    | (with_reducible apply keeps_takeAppend)
    | (with_reducible apply keeps_count)
    | (with_reducible apply OutKeeps.next)
    | split

theorem keeps_execIntakeJournalAppend {s₀ : State} (engine : Ix16) (s : State) (h : Keeps s₀ s) :
    OutKeeps s₀ (execIntakeJournalAppend engine s) := by
  unfold execIntakeJournalAppend
  try dsimp only
  repeat'
    first
    | (with_reducible assumption)
    | (with_reducible apply keeps_jrnAppend)
    | (with_reducible apply keeps_setIntake)
    | (with_reducible apply keeps_saveHold)
    | (with_reducible apply OutKeeps.next)
    | (refine OptKeeps.get (by with_reducible assumption) ?_)
    | split

theorem keeps_enableSave {s₀ : State} (s : State) (h : Keeps s₀ s) :
    Keeps s₀ (State.enableSave s) := by
  unfold State.enableSave
  try dsimp only
  repeat'
    first
    | (with_reducible assumption)
    | (with_reducible apply keeps_saveWaits)
    | (with_reducible apply keeps_readSlots)

theorem keeps_stopSave {s₀ : State} (s : State) (h : Keeps s₀ s) :
    Keeps s₀ (State.stopSave s) := by
  unfold State.stopSave
  try dsimp only
  repeat'
    first
    | (with_reducible assumption)
    | (with_reducible apply keeps_saveFault)
    | (with_reducible apply keeps_signalDone)
    | (with_reducible apply keeps_setSave)
    | (with_reducible apply keeps_dropHeld)
    | split

theorem keeps_disableSave {s₀ : State} (s : State) (h : Keeps s₀ s) :
    Keeps s₀ (State.disableSave s) := by
  unfold State.disableSave
  try dsimp only
  repeat'
    first
    | (with_reducible assumption)
    | (with_reducible apply keeps_hostForget)
    | (with_reducible apply keeps_stopSave)
    | (with_reducible apply keeps_sendToken)
    | (with_reducible apply keeps_setSave)
    | split

theorem keeps_setNcl {s₀ : State} (s : State) (x2 : Ncl) (h : Keeps s₀ s) :
    Keeps s₀ (State.setNcl s x2) := by
  unfold State.setNcl
  try dsimp only
  repeat'
    first
    | (with_reducible assumption)
    | simp only [Keeps.mk_iff]

theorem keeps_linkLost {s₀ : State} (s : State) (h : Keeps s₀ s) :
    Keeps s₀ (State.linkLost s) := by
  unfold State.linkLost
  try dsimp only
  repeat'
    first
    | (with_reducible assumption)
    | (with_reducible apply keeps_setNcl)

theorem keeps_execNclLinkDown {s₀ : State} (cause : DownCause) (s : State) (h : Keeps s₀ s) :
    OutKeeps s₀ (execNclLinkDown cause s) := by
  unfold execNclLinkDown
  try dsimp only
  repeat'
    first
    | (with_reducible assumption)
    | (with_reducible apply keeps_setNcl)
    | (with_reducible apply keeps_linkLost)
    | (with_reducible apply OutKeeps.next)
    | split

theorem keeps_execNclFlitReplay {s₀ : State} (cause : ReplayCause) (s : State) (h : Keeps s₀ s) :
    OutKeeps s₀ (execNclFlitReplay cause s) := by
  unfold execNclFlitReplay
  try dsimp only
  repeat'
    first
    | (with_reducible assumption)
    | (with_reducible apply keeps_setNcl)
    | (with_reducible apply keeps_linkLost)
    | (with_reducible apply OutKeeps.next)
    | split

theorem keeps_wakeHost {s₀ : State} (s : State) (h : Keeps s₀ s) :
    Keeps s₀ (State.wakeHost s) := by
  unfold State.wakeHost
  try dsimp only
  repeat'
    first
    | (with_reducible assumption)
    | intro _
    | (with_reducible apply keeps_advance)
    | (with_reducible apply Keeps.foldl)

theorem keeps_refuseReads {s₀ : State} (s : State) (h : Keeps s₀ s) :
    Keeps s₀ (State.refuseReads s) := by
  unfold State.refuseReads
  try dsimp only
  repeat'
    first
    | (with_reducible assumption)
    | intro _
    | (with_reducible apply keeps_setHome)
    | (with_reducible apply Keeps.foldl)

theorem keeps_sendVectors {s₀ : State} (s : State) (h : Keeps s₀ s) :
    Keeps s₀ (State.sendVectors s) := by
  unfold State.sendVectors
  try dsimp only
  repeat'
    first
    | (with_reducible assumption)
    | intro _
    | (with_reducible apply keeps_emit)
    | (with_reducible apply keeps_setNcl)
    | (with_reducible apply Keeps.foldl)

theorem keeps_hostSnoop {s₀ : State} (s : State) (line : Nat) (req : CohReq) (h : Keeps s₀ s) :
    Keeps s₀ (State.hostSnoop s line req) := by
  unfold State.hostSnoop
  try dsimp only
  repeat'
    first
    | (with_reducible assumption)
    | (with_reducible apply keeps_request)
    | (with_reducible apply keeps_emit)
    | split

theorem keeps_answerSnoops {s₀ : State} (s : State) (h : Keeps s₀ s) :
    Keeps s₀ (State.answerSnoops s) := by
  unfold State.answerSnoops
  try dsimp only
  repeat'
    first
    | (with_reducible assumption)
    | intro _
    | (with_reducible apply keeps_hostSnoop)
    | (with_reducible apply keeps_setNcl)
    | (with_reducible apply Keeps.foldl)

theorem keeps_adopt {s₀ : State} (s : State) (h : Keeps s₀ s) :
    Keeps s₀ (State.adopt s) := by
  unfold State.adopt
  try dsimp only
  repeat'
    first
    | (with_reducible assumption)
    | (with_reducible apply keeps_sendVectors)
    | (with_reducible apply keeps_answerSnoops)
    | (with_reducible apply keeps_runMovers)
    | (with_reducible apply keeps_wakeHost)
    | (with_reducible apply keeps_setNcl)

theorem keeps_dropHostLines {s₀ : State} (s : State) (h : Keeps s₀ s) :
    Keeps s₀ (State.dropHostLines s) := by
  unfold State.dropHostLines
  try dsimp only
  repeat'
    first
    | (with_reducible assumption)
    | intro _
    | simp only [Keeps.mk_iff]
    | (with_reducible apply keeps_count)
    | (with_reducible apply Keeps.foldl)

theorem keeps_disableRing {s₀ : State} (s : State) (r : Nat) (h : Keeps s₀ s) :
    Keeps s₀ (State.disableRing s r) := by
  unfold State.disableRing
  try dsimp only
  repeat'
    first
    | (with_reducible assumption)
    | (with_reducible apply keeps_setFld)
    | (with_reducible apply keeps_setRing)
    | (with_reducible apply keeps_dropHeld)
    | split

theorem keeps_enableRing {s₀ : State} (s : State) (r : Nat) (h : Keeps s₀ s) :
    Keeps s₀ (State.enableRing s r) := by
  unfold State.enableRing
  try dsimp only
  repeat'
    first
    | (with_reducible assumption)
    | (with_reducible apply keeps_setFld)
    | (with_reducible apply keeps_setRing)

theorem keeps_settleMoves {s₀ : State} (s : State) (core : Nat) (h : Keeps s₀ s) :
    Keeps s₀ (State.settleMoves s core) := by
  unfold State.settleMoves
  try dsimp only
  repeat'
    first
    | (with_reducible assumption)
    | (with_reducible apply keeps_setCore)
    | split

theorem keeps_decline {s₀ : State} (s : State) (h : Keeps s₀ s) :
    Keeps s₀ (State.decline s) := by
  unfold State.decline
  try dsimp only
  repeat'
    first
    | (with_reducible assumption)
    | (with_reducible apply keeps_setNcl)
    | (with_reducible apply keeps_count)
    | (with_reducible apply keeps_settleMoves)
    | (with_reducible apply keeps_disableRing)
    | (with_reducible apply keeps_refuseReads)
    | (with_reducible apply keeps_dropHostLines)
    | (with_reducible apply keeps_sendVectors)
    | (with_reducible apply keeps_answerSnoops)
    | (with_reducible apply keeps_runMovers)
    | (with_reducible apply keeps_wakeHost)
    | (with_reducible apply Keeps.foldl)

theorem keeps_copyoutLost {s₀ : State} (s : State) (h : Keeps s₀ s) :
    Keeps s₀ (State.copyoutLost s) := by
  unfold State.copyoutLost
  try dsimp only
  repeat'
    first
    | (with_reducible assumption)
    | simp only [Keeps.mk_iff]
    | (with_reducible apply keeps_abandonCopyout)
    | split

theorem keeps_execNclLinkUp {s₀ : State} (hostReset : Bool) (halfWidth : Bool) (s : State) (h : Keeps s₀ s) :
    OutKeeps s₀ (execNclLinkUp hostReset halfWidth s) := by
  unfold execNclLinkUp
  try dsimp only
  repeat'
    first
    | (with_reducible assumption)
    | (with_reducible apply keeps_setNcl)
    | (with_reducible apply keeps_runMovers)
    | (with_reducible apply keeps_wakeHost)
    | (with_reducible apply keeps_copyoutLost)
    | (with_reducible apply keeps_emit)
    | (with_reducible apply keeps_adopt)
    | (with_reducible apply OutKeeps.next)
    | split

theorem keeps_epochIgnored {s₀ : State} (s : State) (h : Keeps s₀ s) :
    Keeps s₀ (State.epochIgnored s) := by
  unfold State.epochIgnored
  try dsimp only
  repeat'
    first
    | (with_reducible assumption)
    | (with_reducible apply keeps_setNcl)

theorem keeps_execAdopt {s₀ : State} (epoch : BitVec 32) (s : State) (h : Keeps s₀ s) :
    OutKeeps s₀ (execAdopt epoch s) := by
  unfold execAdopt
  try dsimp only
  repeat'
    first
    | (with_reducible assumption)
    | (with_reducible apply keeps_adopt)
    | (with_reducible apply keeps_setNcl)
    | (with_reducible apply keeps_epochIgnored)
    | (with_reducible apply OutKeeps.next)
    | split

theorem keeps_execDecline {s₀ : State} (epoch : BitVec 32) (s : State) (h : Keeps s₀ s) :
    OutKeeps s₀ (execDecline epoch s) := by
  unfold execDecline
  try dsimp only
  repeat'
    first
    | (with_reducible assumption)
    | (with_reducible apply keeps_decline)
    | (with_reducible apply keeps_setNcl)
    | (with_reducible apply keeps_epochIgnored)
    | (with_reducible apply OutKeeps.next)
    | split

theorem keeps_execAck {s₀ : State} (epoch : BitVec 32) (s : State) (h : Keeps s₀ s) :
    OutKeeps s₀ (execAck epoch s) := by
  unfold execAck
  try dsimp only
  repeat'
    first
    | (with_reducible assumption)
    | (with_reducible apply keeps_setNcl)
    | (with_reducible apply keeps_epochIgnored)
    | (with_reducible apply OutKeeps.next)
    | split

theorem keeps_execDecideTimeout {s₀ : State} (s : State) (h : Keeps s₀ s) :
    OutKeeps s₀ (execDecideTimeout s) := by
  unfold execDecideTimeout
  try dsimp only
  repeat'
    first
    | (with_reducible assumption)
    | (with_reducible apply keeps_record)
    | (with_reducible apply keeps_decline)
    | (with_reducible apply OutKeeps.next)
    | split

theorem keeps_writeDone {s₀ : State} (s : State) (own : WriteOwner) (h : Keeps s₀ s) :
    Keeps s₀ (State.writeDone s own) := by
  unfold State.writeDone
  try dsimp only
  repeat'
    first
    | (with_reducible assumption)
    | (with_reducible apply keeps_runMovers)
    | (with_reducible apply keeps_settleMoves)
    | split

theorem keeps_execHostWriteAcknowledgement {s₀ : State} (s : State) (h : Keeps s₀ s) :
    OutKeeps s₀ (execHostWriteAcknowledgement s) := by
  unfold execHostWriteAcknowledgement
  try dsimp only
  repeat'
    first
    | (with_reducible assumption)
    | (with_reducible apply keeps_writeKey)
    | (with_reducible apply keeps_setNcl)
    | (with_reducible apply keeps_writeDone)
    | (with_reducible apply keeps_emit)
    | (with_reducible apply OutKeeps.next)
    | split

theorem keeps_snoopFromHost {s₀ : State} (s : State) (line : Nat) (req : CohReq) (h : Keeps s₀ s) :
    Keeps s₀ (State.snoopFromHost s line req) := by
  unfold State.snoopFromHost
  try dsimp only
  repeat'
    first
    | (with_reducible assumption)
    | (with_reducible apply keeps_emit)
    | (with_reducible apply keeps_setNcl)
    | (with_reducible apply keeps_hostSnoop)
    | split

theorem keeps_execHsnps {s₀ : State} (line : Nat) (s : State) (h : Keeps s₀ s) :
    OutKeeps s₀ (execHsnps line s) := by
  unfold execHsnps
  try dsimp only
  repeat'
    first
    | (with_reducible assumption)
    | (with_reducible apply keeps_snoopFromHost)
    | (with_reducible apply OutKeeps.next)

theorem keeps_execHsnpu {s₀ : State} (line : Nat) (s : State) (h : Keeps s₀ s) :
    OutKeeps s₀ (execHsnpu line s) := by
  unfold execHsnpu
  try dsimp only
  repeat'
    first
    | (with_reducible assumption)
    | (with_reducible apply keeps_snoopFromHost)
    | (with_reducible apply OutKeeps.next)

theorem keeps_execHsnpi {s₀ : State} (line : Nat) (s : State) (h : Keeps s₀ s) :
    OutKeeps s₀ (execHsnpi line s) := by
  unfold execHsnpi
  try dsimp only
  repeat'
    first
    | (with_reducible assumption)
    | (with_reducible apply keeps_snoopFromHost)
    | (with_reducible apply OutKeeps.next)

theorem keeps_execDoorbell {s₀ : State} (ring : Ix16) (p : BitVec 32) (s : State) (h : Keeps s₀ s) :
    OutKeeps s₀ (execDoorbell ring p s) := by
  unfold execDoorbell
  try dsimp only
  repeat'
    first
    | (with_reducible assumption)
    | (with_reducible apply keeps_setRing)
    | (with_reducible apply keeps_count)
    | (with_reducible apply OutKeeps.next)
    | split

theorem keeps_execCqHead {s₀ : State} (ring : Ix16) (head : BitVec 32) (s : State) (h : Keeps s₀ s) :
    OutKeeps s₀ (execCqHead ring head s) := by
  unfold execCqHead
  try dsimp only
  repeat'
    first
    | (with_reducible assumption)
    | (with_reducible apply keeps_setRing)
    | (with_reducible apply OutKeeps.next)

theorem keeps_readHost {s₀ : State} (s : State) (a : Nat) (n : Nat) (h : Keeps s₀ s) :
    Keeps s₀ (State.readHost s a n).1 := by
  unfold State.readHost
  try dsimp only
  repeat'
    first
    | (with_reducible assumption)
    | (with_reducible apply keeps_arrive)
    | (with_reducible apply keeps_countRequest)
    | (with_reducible apply keeps_setNcl)
    | (with_reducible apply keeps_unmappedLine)
    | split

theorem keeps_fetchSlot {s₀ : State} (s : State) (r : Nat) (h : Keeps s₀ s) :
    Keeps s₀ (State.fetchSlot s r) := by
  unfold State.fetchSlot
  try dsimp only
  repeat'
    first
    | (with_reducible assumption)
    | (with_reducible apply keeps_readHost)
    | (with_reducible apply keeps_readRun)
    | (with_reducible apply keeps_setRing)
    | (with_reducible apply keeps_count)
    | split

theorem keeps_execSlotRead {s₀ : State} (ring : Ix16) (s : State) (h : Keeps s₀ s) :
    OutKeeps s₀ (execSlotRead ring s) := by
  unfold execSlotRead
  try dsimp only
  repeat'
    first
    | (with_reducible assumption)
    | (with_reducible apply keeps_fetchSlot)
    | (with_reducible apply OutKeeps.next)
    | split

theorem keeps_execStaleReread {s₀ : State} (ring : Ix16) (s : State) (h : Keeps s₀ s) :
    OutKeeps s₀ (execStaleReread ring s) := by
  unfold execStaleReread
  try dsimp only
  repeat'
    first
    | (with_reducible assumption)
    | (with_reducible apply keeps_fetchSlot)
    | (with_reducible apply OutKeeps.next)
    | split

theorem keeps_setCmd {s₀ : State} (s : State) (r : Nat) (c : RingCmd) (h : Keeps s₀ s) :
    Keeps s₀ (State.setCmd s r c) := by
  unfold State.setCmd
  try dsimp only
  repeat'
    first
    | (with_reducible assumption)
    | (with_reducible apply keeps_setRing)

theorem keeps_execRingNop {s₀ : State} (ring : Ix16) (s : State) (h : Keeps s₀ s) :
    OutKeeps s₀ (execRingNop ring s) := by
  unfold execRingNop
  try dsimp only
  repeat'
    first
    | (with_reducible assumption)
    | (with_reducible apply keeps_setCmd)
    | (with_reducible apply OutKeeps.next)
    | split

theorem keeps_execMessage {s₀ : State} (ring : Ix16) (s : State) (h : Keeps s₀ s) :
    OutKeeps s₀ (execMessage ring s) := by
  unfold execMessage
  try dsimp only
  repeat'
    first
    | (with_reducible assumption)
    | (with_reducible apply keeps_setCmd)
    | (with_reducible apply keeps_setNcl)
    | (with_reducible apply OutKeeps.next)
    | split

theorem keeps_execCommandSignal {s₀ : State} (ring : Ix16) (s : State) (h : Keeps s₀ s) :
    OutKeeps s₀ (execCommandSignal ring s) := by
  unfold execCommandSignal
  try dsimp only
  repeat'
    first
    | (with_reducible assumption)
    | (with_reducible apply keeps_setCmd)
    | (with_reducible apply keeps_sendToken)
    | (with_reducible apply OutKeeps.next)
    | split

theorem keeps_copyToHost {s₀ : State} (s : State) (r : Nat) (a : Nat) (bs : PBytes) (h : Keeps s₀ s) :
    Keeps s₀ (State.copyToHost s r a bs) := by
  unfold State.copyToHost
  try dsimp only
  repeat'
    first
    | (with_reducible assumption)
    | (with_reducible apply keeps_ownWrites)
    | (with_reducible apply keeps_writeRun)

theorem keeps_rawPiece {s₀ : State} (s : State) (r : Nat) (out : Bool) (x4 : CopyArgs) (k : Nat) (h : Keeps s₀ s) :
    Keeps s₀ (State.rawPiece s r out x4 k).1 := by
  unfold State.rawPiece
  try dsimp only
  repeat'
    first
    | (with_reducible assumption)
    | (with_reducible apply keeps_readRun)
    | (with_reducible apply keeps_copyToHost)
    | (with_reducible apply keeps_writeRun)
    | split

theorem keeps_outPiece {s₀ : State} (s : State) (r : Nat) (x3 : CopyArgs) (t : Table) (i : Nat) (h : Keeps s₀ s) :
    Keeps s₀ (State.outPiece s r x3 t i).1.1 := by
  unfold State.outPiece
  try dsimp only
  repeat'
    first
    | (with_reducible assumption)
    | (with_reducible apply keeps_readRun)
    | (with_reducible apply keeps_countCoded)
    | (with_reducible apply keeps_copyToHost)
    | (with_reducible apply keeps_count)
    | (with_reducible apply keeps_collEvents)
    | split

theorem keeps_inPiece {s₀ : State} (s : State) (x2 : CopyArgs) (t : Table) (i : Nat) (h : Keeps s₀ s) :
    Keeps s₀ (State.inPiece s x2 t i).1.1 := by
  unfold State.inPiece
  try dsimp only
  repeat'
    first
    | (with_reducible assumption)
    | (with_reducible apply keeps_storedBlock)
    | (with_reducible apply keeps_collEvents)
    | (with_reducible apply keeps_count)
    | (with_reducible apply keeps_writeRun)
    | split

theorem keeps_copyMove {s₀ : State} (s : State) (r : Nat) (out : Bool) (h : Keeps s₀ s) :
    OptKeeps s₀ (State.copyMove s r out) := by
  have hp : ∀ c : RingCmd, Keeps s₀ (if (copyArgs c.args).form == 0 then (s.rawPiece r out (copyArgs c.args) c.progress, 1)
      else if out then s.outPiece r (copyArgs c.args) ((tableOf c.image).getD noTable) c.progress
      else s.inPiece (copyArgs c.args) ((tableOf c.image).getD noTable) c.progress).1.1 := fun c => by
    split
    · exact keeps_rawPiece _ _ _ _ _ h
    · split
      · exact keeps_outPiece _ _ _ _ _ h
      · exact keeps_inPiece _ _ _ _ h
  unfold State.copyMove
  split
  · exact OptKeeps.none
  · next c _ =>
    dsimp only
    have k := hp c
    generalize (if (copyArgs c.args).form == 0 then (s.rawPiece r out (copyArgs c.args) c.progress, 1) else _ :
      CopyPiece × Nat) = pc at k ⊢
    repeat'
      first
      | (with_reducible assumption)
      | (with_reducible apply OptKeeps.none)
      | (with_reducible apply OptKeeps.some)
      | (with_reducible apply keeps_setCmd)
      | (with_reducible apply keeps_charge)
      | (with_reducible apply keeps_holdPrice)
      | (with_reducible apply keeps_hostStall)
      | split

theorem keeps_copyMoves {s₀ : State} (out : Bool) (r : Nat) (a : Nat) (a4 : State) (h : Keeps s₀ a4) :
    Keeps s₀ (State.copyMoves out r a a4) := by
  induction a generalizing a4 with
  | zero => unfold State.copyMoves; exact h
  | succ n ih =>
    unfold State.copyMoves
    repeat'
    first
      | (with_reducible assumption)
      | intro _
      | (with_reducible apply OutKeeps.fault)
      | (with_reducible apply OutKeeps.refused)
      | (with_reducible apply OptKeeps.none)
      | (with_reducible apply ExKeeps.error)
      | (with_reducible apply ExKeeps1.error)
      | (with_reducible apply Issue.Keeps.refuse)
      | simp only [Keeps.mk_iff]
      | (with_reducible apply keeps_copyMove)
      | (with_reducible apply ih)
      | (with_reducible apply Keeps.foldl)
      | (with_reducible apply Keeps.foldl1)
      | (with_reducible apply OutKeeps.next)
      | (with_reducible apply OptKeeps.some)
      | (with_reducible apply ExKeeps.ok)
      | (with_reducible apply ExKeeps1.ok)
      | (refine Keeps.ofFst (by with_reducible assumption) ?_)
      | (refine Keeps.ofSnd (by with_reducible assumption) ?_)
      | (refine OptKeeps.get (by with_reducible assumption) ?_)
      | (refine ExKeeps.get (by with_reducible assumption) ?_)
      | (refine ExKeeps1.get (by with_reducible assumption) ?_)
      | (with_reducible apply Issue.Keeps.go)
      | (with_reducible apply Issue.Keeps.stall)
      | (refine Issue.Keeps.getGo (by with_reducible assumption) ?_)
      | (refine Issue.Keeps.getStall (by with_reducible assumption) ?_)
      | split

theorem keeps_execCopyIn {s₀ : State} (ring : Ix16) (lines : Nat) (s : State) (h : Keeps s₀ s) :
    OutKeeps s₀ (execCopyIn ring lines s) := by
  unfold execCopyIn
  try dsimp only
  repeat'
    first
    | (with_reducible assumption)
    | (with_reducible apply keeps_copyMoves)
    | (with_reducible apply OutKeeps.next)

theorem keeps_execCopyOut {s₀ : State} (ring : Ix16) (lines : Nat) (s : State) (h : Keeps s₀ s) :
    OutKeeps s₀ (execCopyOut ring lines s) := by
  unfold execCopyOut
  try dsimp only
  repeat'
    first
    | (with_reducible assumption)
    | (with_reducible apply keeps_copyMoves)
    | (with_reducible apply OutKeeps.next)

theorem keeps_tagCompletion {s₀ : State} (s : State) (n : Nat) (c : Nat × Nat × Option Byte) (h : Keeps s₀ s) :
    Keeps s₀ (State.tagCompletion s n c) := by
  unfold State.tagCompletion
  try dsimp only
  repeat'
    first
    | (with_reducible assumption)
    | (with_reducible apply keeps_setNcl)
    | split

theorem keeps_execCompletionWrite {s₀ : State} (ring : Ix16) (s : State) (h : Keeps s₀ s) :
    OutKeeps s₀ (execCompletionWrite ring s) := by
  unfold execCompletionWrite
  try dsimp only
  repeat'
    first
    | (with_reducible assumption)
    | (with_reducible apply keeps_setRing)
    | (with_reducible apply keeps_setNcl)
    | (with_reducible apply keeps_tagCompletion)
    | (with_reducible apply keeps_writeRun)
    | (with_reducible apply OutKeeps.next)
    | split

theorem keeps_execFence {s₀ : State} (s : State) (h : Keeps s₀ s) :
    OutKeeps s₀ (execFence s) := by
  unfold execFence
  try dsimp only
  repeat'
    first
    | (with_reducible assumption)
    | (with_reducible apply keeps_emit)
    | (with_reducible apply OutKeeps.next)
    | split

theorem keeps_execMbxPop {s₀ : State} (s : State) (h : Keeps s₀ s) :
    OutKeeps s₀ (execMbxPop s) := by
  unfold execMbxPop
  try dsimp only
  repeat'
    first
    | (with_reducible assumption)
    | (with_reducible apply keeps_setNcl)
    | (with_reducible apply OutKeeps.next)

theorem keeps_batchCode {s₀ : State} (s : State) (i : Nat) (h : Keeps s₀ s) :
    Keeps s₀ (State.batchCode s i).1 := by
  unfold State.batchCode
  try dsimp only
  repeat'
    first
    | (with_reducible assumption)
    | (with_reducible apply keeps_readRun)
    | (with_reducible apply keeps_setIntake)
    | split

theorem keeps_intakeWaits {s₀ : State} (s : State) (i : Nat) (h : Keeps s₀ s) :
    Keeps s₀ (State.intakeWaits s i) := by
  unfold State.intakeWaits
  try dsimp only
  repeat'
    first
    | (with_reducible assumption)
    | (with_reducible apply keeps_sendToken)
    | (with_reducible apply keeps_setIntake)

theorem keeps_intakeDone {s₀ : State} (s : State) (i : Nat) (h : Keeps s₀ s) :
    Keeps s₀ (State.intakeDone s i) := by
  unfold State.intakeDone
  try dsimp only
  repeat'
    first
    | (with_reducible assumption)
    | (with_reducible apply keeps_intakeWaits)
    | (with_reducible apply keeps_sendToken)
    | (with_reducible apply keeps_setFld)

theorem keeps_batchFaults {s₀ : State} (s : State) (i : Nat) (code : Nat) (h : Keeps s₀ s) :
    Keeps s₀ (State.batchFaults s i code) := by
  unfold State.batchFaults
  try dsimp only
  repeat'
    first
    | (with_reducible assumption)
    | (with_reducible apply keeps_count)
    | (with_reducible apply keeps_setIntake)
    | (with_reducible apply keeps_intakeDone)
    | (with_reducible apply keeps_record)

theorem keeps_intakeStart {s₀ : State} (s : State) (i : Nat) (h : Keeps s₀ s) :
    Keeps s₀ (State.intakeStart s i) := by
  unfold State.intakeStart
  try dsimp only
  repeat'
    first
    | (with_reducible assumption)
    | (with_reducible apply keeps_setIntake)
    | (with_reducible apply keeps_intakeDone)
    | (with_reducible apply keeps_batchCode)
    | (with_reducible apply keeps_batchFaults)
    | split

theorem keeps_sampleOf {s₀ : State} (s : State) (i : Nat) (b : Batch) (p : IntakeProg) (ix : Nat) (h : Keeps s₀ s) :
    Keeps s₀ (State.sampleOf s i b p ix).1 := by
  unfold State.sampleOf
  try dsimp only
  repeat'
    first
    | (with_reducible assumption)
    | (with_reducible apply keeps_readRun)
    | split

theorem keeps_intakeEvents {s₀ : State} (s : State) (i : Nat) (pos : Nat) (f : Flags) (h : Keeps s₀ s) :
    Keeps s₀ (State.intakeEvents s i pos f) := by
  unfold State.intakeEvents
  try dsimp only
  repeat'
    first
    | (with_reducible assumption)
    | (with_reducible apply keeps_setIntake)
    | (with_reducible apply keeps_recordOnce)
    | split

theorem keeps_writePosition {s₀ : State} (s : State) (i : Nat) (q : Nat) (b : Batch) (ix : Nat) (x6 : Sample) (h : Keeps s₀ s) :
    Keeps s₀ (State.writePosition s i q b ix x6) := by
  unfold State.writePosition
  try dsimp only
  repeat'
    first
    | (with_reducible assumption)
    | (with_reducible apply keeps_writeRun)
    | (with_reducible apply keeps_count)
    | (with_reducible apply keeps_intakeEvents)
    | (with_reducible apply keeps_setIntake)
    | split

theorem keeps_positionMove {s₀ : State} (s : State) (i : Nat) (h : Keeps s₀ s) :
    OptKeeps s₀ (State.positionMove s i) := by
  unfold State.positionMove
  try dsimp only
  repeat'
    first
    | (with_reducible assumption)
    | (with_reducible apply OptKeeps.none)
    | (with_reducible apply keeps_intakeDone)
    | (with_reducible apply keeps_stallOnce)
    | (with_reducible apply keeps_sampleOf)
    | (with_reducible apply keeps_charge)
    | (with_reducible apply keeps_writePosition)
    | (with_reducible apply keeps_holdPrice)
    | (with_reducible apply OptKeeps.some)
    | split

theorem keeps_intakeMove {s₀ : State} (s : State) (i : Nat) (h : Keeps s₀ s) :
    OptKeeps s₀ (State.intakeMove s i) := by
  unfold State.intakeMove
  try dsimp only
  repeat'
    first
    | (with_reducible assumption)
    | (with_reducible apply OptKeeps.none)
    | (with_reducible apply keeps_stallOnce)
    | (with_reducible apply keeps_intakeStart)
    | (with_reducible apply keeps_positionMove)
    | (with_reducible apply OptKeeps.some)
    | split

theorem keeps_intakeMoves {s₀ : State} (a : Nat) (a2 : State) (a3 : Nat) (h : Keeps s₀ a2) :
    Keeps s₀ (State.intakeMoves a a2 a3) := by
  induction a generalizing a2 with
  | zero => unfold State.intakeMoves; exact h
  | succ n ih =>
    unfold State.intakeMoves
    repeat'
    first
      | (with_reducible assumption)
      | intro _
      | (with_reducible apply OutKeeps.fault)
      | (with_reducible apply OutKeeps.refused)
      | (with_reducible apply OptKeeps.none)
      | (with_reducible apply ExKeeps.error)
      | (with_reducible apply ExKeeps1.error)
      | (with_reducible apply Issue.Keeps.refuse)
      | simp only [Keeps.mk_iff]
      | (with_reducible apply keeps_intakeMove)
      | (with_reducible apply ih)
      | (with_reducible apply Keeps.foldl)
      | (with_reducible apply Keeps.foldl1)
      | (with_reducible apply OutKeeps.next)
      | (with_reducible apply OptKeeps.some)
      | (with_reducible apply ExKeeps.ok)
      | (with_reducible apply ExKeeps1.ok)
      | (refine Keeps.ofFst (by with_reducible assumption) ?_)
      | (refine Keeps.ofSnd (by with_reducible assumption) ?_)
      | (refine OptKeeps.get (by with_reducible assumption) ?_)
      | (refine ExKeeps.get (by with_reducible assumption) ?_)
      | (refine ExKeeps1.get (by with_reducible assumption) ?_)
      | (with_reducible apply Issue.Keeps.go)
      | (with_reducible apply Issue.Keeps.stall)
      | (refine Issue.Keeps.getGo (by with_reducible assumption) ?_)
      | (refine Issue.Keeps.getStall (by with_reducible assumption) ?_)
      | split

theorem keeps_execIntakeRun {s₀ : State} (engine : Ix16) (positions : Nat) (s : State) (h : Keeps s₀ s) :
    OutKeeps s₀ (execIntakeRun engine positions s) := by
  unfold execIntakeRun
  try dsimp only
  repeat'
    first
    | (with_reducible assumption)
    | (with_reducible apply keeps_intakeMoves)
    | (with_reducible apply OutKeeps.next)
    | split

theorem keeps_execIntakeWaitLong {s₀ : State} (engine : Ix16) (s : State) (h : Keeps s₀ s) :
    OutKeeps s₀ (execIntakeWaitLong engine s) := by
  unfold execIntakeWaitLong
  try dsimp only
  repeat'
    first
    | (with_reducible assumption)
    | (with_reducible apply keeps_record)
    | (with_reducible apply keeps_setIntake)
    | (with_reducible apply OutKeeps.next)
    | split

theorem keeps_enableIntake {s₀ : State} (s : State) (i : Nat) (h : Keeps s₀ s) :
    Keeps s₀ (State.enableIntake s i) := by
  unfold State.enableIntake
  try dsimp only
  repeat'
    first
    | (with_reducible assumption)
    | (with_reducible apply keeps_intakeWaits)
    | (with_reducible apply keeps_setIntake)

theorem keeps_disableIntake {s₀ : State} (s : State) (i : Nat) (h : Keeps s₀ s) :
    Keeps s₀ (State.disableIntake s i) := by
  unfold State.disableIntake
  try dsimp only
  repeat'
    first
    | (with_reducible assumption)
    | (with_reducible apply keeps_hostForget)
    | (with_reducible apply keeps_dropHeld)
    | (with_reducible apply keeps_setIntake)
    | (with_reducible apply keeps_sendToken)
    | split

theorem keeps_noteAccount {s₀ : State} (s : State) (a : Nat) (r : Account × Bool) (h : Keeps s₀ s) :
    Keeps s₀ (State.noteAccount s a r) := by
  unfold State.noteAccount
  try dsimp only
  repeat'
    first
    | (with_reducible assumption)
    | (with_reducible apply keeps_setAccount)
    | (with_reducible apply keeps_count)
    | (with_reducible apply keeps_record)
    | split

theorem keeps_reconcile {s₀ : State} (s : State) (m : Measures) (a : Nat) (h : Keeps s₀ s) :
    Keeps s₀ (State.reconcile s m a) := by
  unfold State.reconcile
  try dsimp only
  repeat'
    first
    | (with_reducible assumption)
    | (with_reducible apply keeps_noteAccount)
    | (with_reducible apply keeps_setAccount)
    | split

theorem keeps_settleReservoir {s₀ : State} (s : State) (m : Measures) (h : Keeps s₀ s) :
    Keeps s₀ (State.settleReservoir s m) := by
  unfold State.settleReservoir
  try dsimp only
  repeat'
    first
    | (with_reducible assumption)
    | simp only [Keeps.mk_iff]
    | (with_reducible apply keeps_count)
    | split

theorem keeps_applyPlan {s₀ : State} (s : State) (h : Keeps s₀ s) :
    Keeps s₀ (State.applyPlan s) := by
  unfold State.applyPlan
  try dsimp only
  repeat'
    first
    | (with_reducible assumption)
    | intro _
    | simp only [Keeps.mk_iff]
    | (with_reducible apply keeps_setAgentUse)
    | (with_reducible apply Keeps.foldl)

theorem keeps_shiftAgents {s₀ : State} (s : State) (h : Keeps s₀ s) :
    Keeps s₀ (State.shiftAgents s) := by
  unfold State.shiftAgents
  try dsimp only
  repeat'
    first
    | (with_reducible assumption)
    | simp only [Keeps.mk_iff]

theorem keeps_energyBoundary {s₀ : State} (s : State) (m : Measures) (h : Keeps s₀ s) :
    Keeps s₀ (State.energyBoundary s m) := by
  unfold State.energyBoundary
  try dsimp only
  repeat'
    first
    | (with_reducible assumption)
    | intro _
    | simp only [Keeps.mk_iff]
    | (with_reducible apply keeps_settleReservoir)
    | (with_reducible apply keeps_reconcile)
    | (with_reducible apply keeps_shiftAgents)
    | (with_reducible apply keeps_applyPlan)
    | (with_reducible apply Keeps.foldl)
    | split

theorem keeps_execGrantTimeout {s₀ : State} (s : State) (h : Keeps s₀ s) :
    OutKeeps s₀ (execGrantTimeout s) := by
  unfold execGrantTimeout
  try dsimp only
  repeat'
    first
    | (with_reducible assumption)
    | simp only [Keeps.mk_iff]
    | (with_reducible apply keeps_record)
    | (with_reducible apply OutKeeps.next)
    | split

theorem keeps_execBackstopCheck {s₀ : State} (measuredPips : Nat) (timeLeftNs : Nat) (s : State) (h : Keeps s₀ s) :
    OutKeeps s₀ (execBackstopCheck measuredPips timeLeftNs s) := by
  unfold execBackstopCheck
  try dsimp only
  repeat'
    first
    | (with_reducible assumption)
    | simp only [Keeps.mk_iff]
    | (with_reducible apply keeps_count)
    | (with_reducible apply OutKeeps.next)
    | split

theorem keeps_execNrgCorrSel {s₀ : State} (account : BitVec 6) (s : State) (h : Keeps s₀ s) :
    OutKeeps s₀ (execNrgCorrSel account s) := by
  unfold execNrgCorrSel
  try dsimp only
  repeat'
    first
    | (with_reducible assumption)
    | simp only [Keeps.mk_iff]
    | (with_reducible apply OutKeeps.next)
    | split

theorem keeps_execScoreRecordWrite {s₀ : State} (sheet : TrnIx) (s : State) (h : Keeps s₀ s) :
    OutKeeps s₀ (execScoreRecordWrite sheet s) := by
  unfold execScoreRecordWrite
  try dsimp only
  repeat'
    first
    | (with_reducible assumption)
    | (with_reducible apply keeps_noteDropped)
    | (with_reducible apply keeps_writeRecord)
    | (with_reducible apply keeps_setSheet)
    | (with_reducible apply OutKeeps.next)
    | split

theorem keeps_liftFreeze {s₀ : State} (s : State) (t : Nat) (code : Nat) (arg0 : Nat) (h : Keeps s₀ s) :
    Keeps s₀ (State.liftFreeze s t code arg0) := by
  unfold State.liftFreeze
  try dsimp only
  repeat'
    first
    | (with_reducible assumption)
    | (with_reducible apply keeps_writeRecord)
    | (with_reducible apply keeps_setSheet)

theorem keeps_unfreezeSheet {s₀ : State} (s : State) (t : Nat) (h : Keeps s₀ s) :
    Keeps s₀ (State.unfreezeSheet s t) := by
  unfold State.unfreezeSheet
  try dsimp only
  repeat'
    first
    | (with_reducible assumption)
    | (with_reducible apply keeps_liftFreeze)
    | split

theorem keeps_execUnfreeze {s₀ : State} (sheet : TrnIx) (s : State) (h : Keeps s₀ s) :
    OutKeeps s₀ (execUnfreeze sheet s) := by
  unfold execUnfreeze
  try dsimp only
  repeat'
    first
    | (with_reducible assumption)
    | (with_reducible apply keeps_unfreezeSheet)
    | (with_reducible apply OutKeeps.next)

theorem keeps_endFlush {s₀ : State} (s : State) (f : Flush) (h : Keeps s₀ s) :
    Keeps s₀ (State.endFlush s f) := by
  unfold State.endFlush
  try dsimp only
  repeat'
    first
    | (with_reducible assumption)
    | simp only [Keeps.mk_iff]
    | (with_reducible apply keeps_count)
    | (with_reducible apply keeps_flashWrite)

theorem keeps_execFlush {s₀ : State} (s : State) (h : Keeps s₀ s) :
    OutKeeps s₀ (execFlush s) := by
  unfold execFlush
  try dsimp only
  repeat'
    first
    | (with_reducible assumption)
    | (with_reducible apply keeps_startFlush)
    | (with_reducible apply OutKeeps.next)
    | split

theorem keeps_capture {s₀ : State} (s : State) (n : Nat) (num : Nat) (h : Keeps s₀ s) :
    Keeps s₀ (State.capture s n num) := by
  unfold State.capture
  try dsimp only
  repeat'
    first
    | (with_reducible assumption)
    | intro _
    | simp only [Keeps.mk_iff]
    | (with_reducible apply keeps_setBlk)
    | (with_reducible apply Keeps.foldl)
    | split

theorem keeps_captureAll {s₀ : State} (s : State) (ns : List Nat) (h : Keeps s₀ s) :
    Keeps s₀ (State.captureAll s ns) := by
  unfold State.captureAll
  try dsimp only
  repeat'
    first
    | (with_reducible assumption)
    | intro _
    | simp only [Keeps.mk_iff]
    | (with_reducible apply keeps_capture)
    | (with_reducible apply Keeps.foldl)

theorem keeps_snapshotBlock {s₀ : State} (s : State) (n : Nat) (h : Keeps s₀ s) :
    Keeps s₀ (State.snapshotBlock s n) := by
  unfold State.snapshotBlock
  try dsimp only
  repeat'
    first
    | (with_reducible assumption)
    | (with_reducible apply keeps_captureAll)

theorem keeps_snapshotDevice {s₀ : State} (s : State) (h : Keeps s₀ s) :
    Keeps s₀ (State.snapshotDevice s) := by
  unfold State.snapshotDevice
  try dsimp only
  repeat'
    first
    | (with_reducible assumption)
    | (with_reducible apply keeps_captureAll)

theorem keeps_execSnapshotBlock {s₀ : State} (block : BitVec 16) (s : State) (h : Keeps s₀ s) :
    OutKeeps s₀ (execSnapshotBlock block s) := by
  unfold execSnapshotBlock
  try dsimp only
  repeat'
    first
    | (with_reducible assumption)
    | (with_reducible apply keeps_snapshotBlock)
    | (with_reducible apply keeps_frameFault)
    | (with_reducible apply OutKeeps.next)
    | split

theorem keeps_execSnapshotDevice {s₀ : State} (s : State) (h : Keeps s₀ s) :
    OutKeeps s₀ (execSnapshotDevice s) := by
  unfold execSnapshotDevice
  try dsimp only
  repeat'
    first
    | (with_reducible assumption)
    | (with_reducible apply keeps_snapshotDevice)
    | (with_reducible apply OutKeeps.next)

theorem keeps_edgePlaces {s₀ : State} (s : State) (at_ : Nat) (h : Keeps s₀ s) :
    Keeps s₀ (State.edgePlaces s at_) := by
  unfold State.edgePlaces
  try dsimp only
  repeat'
    first
    | (with_reducible assumption)
    | simp only [Keeps.mk_iff]
    | (with_reducible apply keeps_count)
    | split

theorem keeps_execTurnInEdge {s₀ : State} (time : Nat) (s : State) (h : Keeps s₀ s) :
    OutKeeps s₀ (execTurnInEdge time s) := by
  unfold execTurnInEdge
  try dsimp only
  repeat'
    first
    | (with_reducible assumption)
    | simp only [Keeps.mk_iff]
    | (with_reducible apply keeps_edgePlaces)
    | (with_reducible apply OutKeeps.next)
    | split

theorem keeps_sendMarks {s₀ : State} (s : State) (turn : Word64) (lead : Nat) (acc : W32) (h : Keeps s₀ s) :
    Keeps s₀ (State.sendMarks s turn lead acc) := by
  unfold State.sendMarks
  try dsimp only
  repeat'
    first
    | (with_reducible assumption)
    | intro _
    | (with_reducible apply keeps_setLadder)
    | (with_reducible apply Keeps.foldl)
    | split

theorem keeps_placeMark {s₀ : State} (s : State) (port : Nat) (turn : Word64) (lead : Nat) (e : Int) (arrivalPs : Nat) (h : Keeps s₀ s) :
    Keeps s₀ (State.placeMark s port turn lead e arrivalPs) := by
  unfold State.placeMark
  try dsimp only
  repeat'
    first
    | (with_reducible assumption)
    | simp only [Keeps.mk_iff]
    | (with_reducible apply keeps_count)
    | (with_reducible apply keeps_record)
    | split

theorem keeps_dropMark {s₀ : State} (s : State) (p : Nat) (h : Keeps s₀ s) :
    Keeps s₀ (State.dropMark s p) := by
  unfold State.dropMark
  try dsimp only
  repeat'
    first
    | (with_reducible assumption)
    | (with_reducible apply keeps_setLadder)

theorem keeps_execTurnMark {s₀ : State} (port : PortIx) (turn : Word64) (lead : BitVec 4) (accDelayPs : W32) (arrivalPs : Nat) (sendPs : Nat) (s : State) (h : Keeps s₀ s) :
    OutKeeps s₀ (execTurnMark port turn lead accDelayPs arrivalPs sendPs s) := by
  unfold execTurnMark
  try dsimp only
  repeat'
    first
    | (with_reducible assumption)
    | (with_reducible apply keeps_dropMark)
    | (with_reducible apply keeps_sendMarks)
    | (with_reducible apply keeps_placeMark)
    | (with_reducible apply OutKeeps.next)
    | split

theorem keeps_execMissedBoundary {s₀ : State} (s : State) (h : Keeps s₀ s) :
    OutKeeps s₀ (execMissedBoundary s) := by
  unfold execMissedBoundary
  try dsimp only
  repeat'
    first
    | (with_reducible assumption)
    | simp only [Keeps.mk_iff]
    | (with_reducible apply keeps_count)
    | (with_reducible apply keeps_record)
    | (with_reducible apply OutKeeps.next)
    | split

theorem keeps_execHoldoverBoundary {s₀ : State} (s : State) (h : Keeps s₀ s) :
    OutKeeps s₀ (execHoldoverBoundary s) := by
  unfold execHoldoverBoundary
  try dsimp only
  repeat'
    first
    | (with_reducible assumption)
    | simp only [Keeps.mk_iff]
    | (with_reducible apply OutKeeps.next)
    | split

theorem keeps_setTable {s₀ : State} (s : State) (i : Nat) (l : List TtEntry) (h : Keeps s₀ s) :
    Keeps s₀ (State.setTable s i l) := by
  unfold State.setTable
  try dsimp only
  repeat'
    first
    | (with_reducible assumption)
    | simp only [Keeps.mk_iff]

theorem keeps_execTurnTableAppend {s₀ : State} (trn : TrnIx) (hi : Word64) (s : State) (h : Keeps s₀ s) :
    OutKeeps s₀ (execTurnTableAppend trn hi s) := by
  unfold execTurnTableAppend
  try dsimp only
  repeat'
    first
    | (with_reducible assumption)
    | simp only [Keeps.mk_iff]
    | (with_reducible apply keeps_setTable)
    | (with_reducible apply keeps_count)
    | (with_reducible apply keeps_record)
    | (with_reducible apply OutKeeps.next)
    | split

theorem keeps_captureAt {s₀ : State} (s : State) (base : Map Word64) (tgt : Nat) (h : Keeps s₀ s) :
    Keeps s₀ (State.captureAt s base tgt) := by
  unfold State.captureAt
  try dsimp only
  repeat'
    first
    | (with_reducible assumption)
    | simp only [Keeps.mk_iff]
    | (with_reducible apply keeps_snapshotDevice)
    | (with_reducible apply keeps_snapshotBlock)
    | split

theorem keeps_runEntry {s₀ : State} (s : State) (base : Map Word64) (i : Nat) (x4 : TtEntry) (h : Keeps s₀ s) :
    Keeps s₀ (State.runEntry s base i x4) := by
  unfold State.runEntry
  try dsimp only
  repeat'
    first
    | (with_reducible assumption)
    | simp only [Keeps.mk_iff]
    | (with_reducible apply keeps_offer)
    | (with_reducible apply keeps_sendToken)
    | (with_reducible apply keeps_captureAt)
    | split

theorem keeps_runEntries {s₀ : State} (s : State) (base : Map Word64) (sel : TtEntry → Bool) (late : Bool) (h : Keeps s₀ s) :
    Keeps s₀ (State.runEntries s base sel late) := by
  unfold State.runEntries
  try dsimp only
  repeat'
    first
    | (with_reducible assumption)
    | intro _
    | (with_reducible apply keeps_setTable)
    | (with_reducible apply keeps_runEntry)
    | (with_reducible apply keeps_count)
    | (with_reducible apply Keeps.foldl)
    | split

theorem keeps_runSnapshots {s₀ : State} (s : State) (base : Map Word64) (late : TtEntry → Bool) (due : TtEntry → Bool) (h : Keeps s₀ s) :
    Keeps s₀ (State.runSnapshots s base late due) := by
  unfold State.runSnapshots
  try dsimp only
  repeat'
    first
    | (with_reducible assumption)
    | intro _
    | (with_reducible apply keeps_captureAt)
    | (with_reducible apply keeps_count)
    | (with_reducible apply keeps_setTable)
    | (with_reducible apply keeps_runEntries)
    | (with_reducible apply Keeps.foldl)
    | split

theorem keeps_boundarySteps {s₀ : State} (s : State) (m : Measures) (h : Keeps s₀ s) :
    Keeps s₀ (State.boundarySteps s m) := by
  unfold State.boundarySteps
  try dsimp only
  repeat'
    first
    | (with_reducible assumption)
    | (with_reducible apply keeps_count)
    | (with_reducible apply keeps_runEntries)
    | (with_reducible apply keeps_runSnapshots)
    | (with_reducible apply keeps_energyBoundary)

theorem keeps_countTurns {s₀ : State} (s : State) (h : Keeps s₀ s) :
    Keeps s₀ (State.countTurns s) := by
  unfold State.countTurns
  try dsimp only
  repeat'
    first
    | (with_reducible assumption)
    | intro _
    | (with_reducible apply keeps_count)
    | (with_reducible apply Keeps.foldl)

theorem keeps_rootMarks {s₀ : State} (s : State) (h : Keeps s₀ s) :
    Keeps s₀ (State.rootMarks s) := by
  unfold State.rootMarks
  try dsimp only
  repeat'
    first
    | (with_reducible assumption)
    | (with_reducible apply keeps_sendMarks)
    | split

theorem keeps_unitsBoundary {s₀ : State} (s : State) (h : Keeps s₀ s) :
    Keeps s₀ (State.unitsBoundary s) := by
  unfold State.unitsBoundary
  try dsimp only
  repeat'
    first
    | (with_reducible assumption)
    | intro _
    | simp only [Keeps.mk_iff]
    | (with_reducible apply keeps_noteWait)
    | (with_reducible apply keeps_linkBoundary)
    | (with_reducible apply keeps_saveBoundary)
    | (with_reducible apply keeps_bankBoundary)
    | (with_reducible apply keeps_hotBoundary)
    | (with_reducible apply Keeps.foldl)

theorem keeps_disturb {s₀ : State} (s : State) (m : Measures) (h : Keeps s₀ s) :
    Keeps s₀ (State.disturb s m) := by
  unfold State.disturb
  try dsimp only
  repeat'
    first
    | (with_reducible assumption)
    | intro _
    | simp only [Keeps.mk_iff]
    | (with_reducible apply keeps_fatalError)
    | (with_reducible apply keeps_upset)
    | (with_reducible apply Keeps.foldl)

theorem keeps_execTurnBoundary {s₀ : State} (m : Measures) (s : State) (h : Keeps s₀ s) :
    OutKeeps s₀ (execTurnBoundary m s) := by
  unfold execTurnBoundary
  try dsimp only
  repeat'
    first
    | (with_reducible assumption)
    | simp only [Keeps.mk_iff]
    | (with_reducible apply keeps_disturb)
    | (with_reducible apply keeps_unitsBoundary)
    | (with_reducible apply keeps_rootMarks)
    | (with_reducible apply keeps_countTurns)
    | (with_reducible apply keeps_boundarySteps)
    | (with_reducible apply OutKeeps.next)
    | split

theorem keeps_execTrnSet {s₀ : State} (value : Word64) (s : State) (h : Keeps s₀ s) :
    OutKeeps s₀ (execTrnSet value s) := by
  unfold execTrnSet
  try dsimp only
  repeat'
    first
    | (with_reducible assumption)
    | simp only [Keeps.mk_iff]
    | (with_reducible apply keeps_count)
    | (with_reducible apply OutKeeps.next)
    | split

theorem keeps_enableTrn {s₀ : State} (s : State) (h : Keeps s₀ s) :
    Keeps s₀ (State.enableTrn s) := by
  unfold State.enableTrn
  try dsimp only
  repeat'
    first
    | (with_reducible assumption)
    | simp only [Keeps.mk_iff]

theorem keeps_readEeprom {s₀ : State} (s : State) (addr : BitVec 3) (h : Keeps s₀ s) :
    Keeps s₀ (State.readEeprom s addr) := by
  unfold State.readEeprom
  try dsimp only
  repeat'
    first
    | (with_reducible assumption)
    | simp only [Keeps.mk_iff]

theorem keeps_bootPhase1 {s₀ : State} (s : State) (kind : ResetKind) (b : BootIn) (h : Keeps s₀ s) :
    Keeps s₀ (State.bootPhase1 s kind b) := by
  unfold State.bootPhase1
  try dsimp only
  repeat'
    first
    | (with_reducible assumption)
    | simp only [Keeps.mk_iff]
    | (with_reducible apply keeps_readEeprom)
    | split

theorem keeps_bootPhase2 {s₀ : State} (s : State) (kind : ResetKind) (b : BootIn) (h : Keeps s₀ s) :
    Keeps s₀ (State.bootPhase2 s kind b) := by
  unfold State.bootPhase2
  try dsimp only
  repeat'
    first
    | (with_reducible assumption)
    | simp only [Keeps.mk_iff]
    | split

theorem keeps_measure {s₀ : State} (s : State) (d : List Byte) (recovery : Bool) (h : Keeps s₀ s) :
    Keeps s₀ (State.measure s d recovery) := by
  unfold State.measure
  try dsimp only
  repeat'
    first
    | (with_reducible assumption)
    | simp only [Keeps.mk_iff]

theorem keeps_refuseFirmware {s₀ : State} (s : State) (reason : Nat) (h : Keeps s₀ s) :
    Keeps s₀ (State.refuseFirmware s reason) := by
  unfold State.refuseFirmware
  try dsimp only
  repeat'
    first
    | (with_reducible assumption)
    | simp only [Keeps.mk_iff]
    | (with_reducible apply keeps_fatalError)

theorem keeps_testLanes {s₀ : State} (s : State) (b : BootIn) (h : Keeps s₀ s) :
    Keeps s₀ (State.testLanes s b) := by
  unfold State.testLanes
  try dsimp only
  repeat'
    first
    | (with_reducible assumption)
    | intro _
    | (with_reducible apply keeps_setLink)
    | (with_reducible apply Keeps.foldl)
    | split

theorem keeps_trainPanel {s₀ : State} (s : State) (b : BootIn) (h : Keeps s₀ s) :
    Keeps s₀ (State.trainPanel s b) := by
  unfold State.trainPanel
  try dsimp only
  repeat'
    first
    | (with_reducible assumption)
    | intro _
    | (with_reducible apply keeps_testLanes)
    | (with_reducible apply keeps_reportWidth)
    | (with_reducible apply keeps_setLink)
    | (with_reducible apply keeps_degrade)
    | (with_reducible apply Keeps.foldl)
    | split

theorem keeps_trainBonds {s₀ : State} (s : State) (b : BootIn) (h : Keeps s₀ s) :
    Keeps s₀ (State.trainBonds s b) := by
  unfold State.trainBonds
  try dsimp only
  repeat'
    first
    | (with_reducible assumption)
    | intro _
    | (with_reducible apply keeps_quarantine)
    | (with_reducible apply keeps_bondTrained)
    | (with_reducible apply Keeps.foldl)
    | split

theorem keeps_bootPhase5 {s₀ : State} (s : State) (b : BootIn) (h : Keeps s₀ s) :
    Keeps s₀ (State.bootPhase5 s b) := by
  unfold State.bootPhase5
  try dsimp only
  repeat'
    first
    | (with_reducible assumption)
    | simp only [Keeps.mk_iff]
    | (with_reducible apply keeps_trainBonds)
    | (with_reducible apply keeps_trainPanel)
    | (with_reducible apply keeps_cutFatal)

theorem keeps_zeroBelow {s₀ : State} (s : State) (hi : Nat) (h : Keeps s₀ s) :
    Keeps s₀ (State.zeroBelow s hi) := by
  unfold State.zeroBelow
  exact h.ofMem (fun w => Memory.wf_filter _ w) rfl rfl rfl

theorem keeps_trainDrams {s₀ : State} (s : State) (b : BootIn) (h : Keeps s₀ s) :
    Keeps s₀ (State.trainDrams s b) := by
  unfold State.trainDrams
  try dsimp only
  repeat'
    first
    | (with_reducible assumption)
    | intro _
    | (with_reducible apply keeps_setDram)
    | (with_reducible apply keeps_fatalError)
    | (with_reducible apply Keeps.foldl)
    | split

theorem keeps_bootPhase6 {s₀ : State} (s : State) (kind : ResetKind) (b : BootIn) (h : Keeps s₀ s) :
    Keeps s₀ (State.bootPhase6 s kind b) := by
  unfold State.bootPhase6
  try dsimp only
  repeat'
    first
    | (with_reducible assumption)
    | (with_reducible apply keeps_trainDrams)
    | (with_reducible apply keeps_zeroBelow)

theorem keeps_startRecord {s₀ : State} (s : State) (kind : ResetKind) (t : Nat) (h : Keeps s₀ s) :
    Keeps s₀ (State.startRecord s kind t) := by
  unfold State.startRecord
  try dsimp only
  repeat'
    first
    | (with_reducible assumption)
    | (with_reducible apply keeps_recordIn)
    | split

theorem keeps_bootPhase7 {s₀ : State} (s : State) (kind : ResetKind) (h : Keeps s₀ s) :
    Keeps s₀ (State.bootPhase7 s kind) := by
  unfold State.bootPhase7
  try dsimp only
  repeat'
    first
    | (with_reducible assumption)
    | intro _
    | (with_reducible apply keeps_setFld)
    | (with_reducible apply keeps_reapplyRepairs)
    | (with_reducible apply keeps_startRecord)
    | (with_reducible apply Keeps.foldl)

theorem keeps_bootPhase8 {s₀ : State} (s : State) (h : Keeps s₀ s) :
    Keeps s₀ (State.bootPhase8 s) := by
  unfold State.bootPhase8
  try dsimp only
  repeat'
    first
    | (with_reducible assumption)
    | intro _
    | (with_reducible apply keeps_setLadder)
    | (with_reducible apply Keeps.foldl)

theorem keeps_enabledByFirmware {s₀ : State} (s : State) (n : Nat) (h : Keeps s₀ s) :
    Keeps s₀ (State.enabledByFirmware s n) := by
  unfold State.enabledByFirmware
  try dsimp only
  repeat'
    first
    | (with_reducible assumption)
    | (with_reducible apply keeps_clearOnce)
    | (with_reducible apply keeps_setBlk)

theorem keeps_firmwareEnables {s₀ : State} (s : State) (h : Keeps s₀ s) :
    Keeps s₀ (State.firmwareEnables s) := by
  unfold State.firmwareEnables
  try dsimp only
  repeat'
    first
    | (with_reducible assumption)
    | (with_reducible apply keeps_enableCmp)
    | (with_reducible apply keeps_enableTrn)
    | (with_reducible apply keeps_enabledByFirmware)
    | (with_reducible apply Keeps.foldl)

theorem keeps_bootOn {s₀ : State} (s : State) (kind : ResetKind) (b : BootIn) (h : Keeps s₀ s) :
    Keeps s₀ (State.bootOn s kind b) := by
  unfold State.bootOn
  try dsimp only
  repeat'
    first
    | (with_reducible assumption)
    | simp only [Keeps.mk_iff]
    | (with_reducible apply keeps_bootPhase7)
    | (with_reducible apply keeps_bootPhase6)
    | (with_reducible apply keeps_bootPhase5)
    | (with_reducible apply keeps_firmwareEnables)
    | (with_reducible apply keeps_bootPhase8)
    | (with_reducible apply keeps_count)
    | split

theorem keeps_boot {s₀ : State} (s : State) (kind : ResetKind) (b : BootIn) (h : Keeps s₀ s) :
    Keeps s₀ (State.boot s kind b) := by
  unfold State.boot
  try dsimp only
  repeat'
    first
    | (with_reducible assumption)
    | simp only [Keeps.mk_iff]
    | (with_reducible apply keeps_bootPhase2)
    | (with_reducible apply keeps_bootPhase1)
    | (with_reducible apply keeps_refuseFirmware)
    | (with_reducible apply keeps_bootOn)
    | (with_reducible apply keeps_measure)
    | split

theorem keeps_coldState {s₀ : State} (s : State) (h : Keeps s₀ s) :
    Keeps s₀ (State.coldState s) := by
  unfold State.coldState hostOnly
  exact h.ofMem (fun w => Memory.wf_filter _ w) rfl rfl rfl

theorem keeps_after {s₀ : State} (o : Host.Outcome State Fault Refusal) (s : State) (ho : OutKeeps s₀ o) (h : Keeps s₀ s) :
    Keeps s₀ (after o s) := by
  cases o with
  | next t => exact ho
  | fault _ => exact h
  | refused _ => exact h

theorem keeps_execColdReset {s₀ : State} (s : State) (h : Keeps s₀ s) :
    OutKeeps s₀ (execColdReset s) := by
  unfold execColdReset
  try dsimp only
  repeat'
    first
    | (with_reducible assumption)
    | simp only [Keeps.mk_iff]
    | (with_reducible apply keeps_coldState)
    | (with_reducible apply OutKeeps.next)
    | split

theorem keeps_railsUp {s₀ : State} (s : State) (siteOf : State → Nat → Site) (h : Keeps s₀ s) :
    Keeps s₀ (State.railsUp s siteOf) := by
  unfold State.railsUp
  try dsimp only
  repeat'
    first
    | (with_reducible assumption)
    | intro _
    | (with_reducible apply keeps_setSite)
    | (with_reducible apply Keeps.foldl)

theorem keeps_execPowerUpSequence {s₀ : State} (boot : BootIn) (s : State) (h : Keeps s₀ s) :
    OutKeeps s₀ (execPowerUpSequence boot s) := by
  unfold execPowerUpSequence
  try dsimp only
  repeat'
    first
    | (with_reducible assumption)
    | simp only [Keeps.mk_iff]
    | (with_reducible apply keeps_boot)
    | (with_reducible apply keeps_railsUp)
    | (with_reducible apply OutKeeps.next)
    | split

theorem keeps_writeBack {s₀ : State} (s : State) (h : Keeps s₀ s) :
    Keeps s₀ (State.writeBack s) := by
  unfold State.writeBack
  try dsimp only
  repeat'
    first
    | (with_reducible assumption)
    | intro _
    | (with_reducible apply keeps_settleLine)
    | (with_reducible apply keeps_ownerBack)
    | (with_reducible apply keeps_llcDrop)
    | (with_reducible apply Keeps.foldl)

theorem keeps_warmHbm {s₀ : State} (s : State) (h : Keeps s₀ s) :
    Keeps s₀ (State.warmHbm s) := by
  unfold State.warmHbm
  try dsimp only
  repeat'
    first
    | (with_reducible assumption)
    | intro _
    | (with_reducible apply keeps_setDram)
    | (with_reducible apply keeps_zeroBelow)
    | (with_reducible apply Keeps.foldl)

theorem keeps_warmCores {s₀ : State} (s : State) (h : Keeps s₀ s) :
    Keeps s₀ (State.warmCores s) := by
  unfold State.warmCores
  try dsimp only
  repeat'
    first
    | (with_reducible assumption)
    | intro _
    | (with_reducible apply keeps_setCore)
    | (with_reducible apply Keeps.foldl)

theorem keeps_warmSites {s₀ : State} (s : State) (h : Keeps s₀ s) :
    Keeps s₀ (State.warmSites s) := by
  unfold State.warmSites
  try dsimp only
  repeat'
    first
    | (with_reducible assumption)
    | (with_reducible apply keeps_resetSite)
    | (with_reducible apply keeps_railsUp)
    | (with_reducible apply Keeps.foldl)

theorem keeps_warmState {s₀ : State} (s : State) (h : Keeps s₀ s) :
    Keeps s₀ (State.warmState s) := by
  unfold State.warmState
  try dsimp only
  repeat'
    first
    | (with_reducible assumption)
    | simp only [Keeps.mk_iff]
    | (with_reducible apply keeps_warmCores)
    | (with_reducible apply keeps_warmHbm)
    | (with_reducible apply keeps_warmSites)
    | (with_reducible apply keeps_writeBack)

theorem keeps_scrubState {s₀ : State} (s : State) (h : Keeps s₀ s) :
    Keeps s₀ (State.scrubState s) := by
  unfold State.scrubState hostOnly
  exact keeps_setFld _ _ _ _ _ _ (h.ofMem (fun w => Memory.wf_filter _ w) rfl rfl rfl)

theorem keeps_resetNow {s₀ : State} (s : State) (kind : ResetKind) (b : BootIn) (h : Keeps s₀ s) :
    Keeps s₀ (State.resetNow s kind b) := by
  unfold State.resetNow
  try dsimp only
  repeat'
    first
    | (with_reducible assumption)
    | (with_reducible apply keeps_coldState)
    | (with_reducible apply keeps_boot)
    | (with_reducible apply keeps_warmState)
    | (with_reducible apply keeps_scrubState)
    | split

theorem keeps_requestReset {s₀ : State} (s0 : State) (kind : ResetKind) (b : BootIn) (h : Keeps s₀ s0) :
    Keeps s₀ (State.requestReset s0 kind b) := by
  unfold State.requestReset
  try dsimp only
  repeat'
    first
    | (with_reducible assumption)
    | simp only [Keeps.mk_iff]
    | (with_reducible apply keeps_resetNow)
    | split

theorem keeps_execWarmReset {s₀ : State} (boot : BootIn) (s : State) (h : Keeps s₀ s) :
    OutKeeps s₀ (execWarmReset boot s) := by
  unfold execWarmReset
  try dsimp only
  repeat'
    first
    | (with_reducible assumption)
    | (with_reducible apply keeps_requestReset)
    | (with_reducible apply OutKeeps.next)

theorem keeps_nclReset {s₀ : State} (s : State) (epoch : BitVec 32) (b : BootIn) (h : Keeps s₀ s) :
    Keeps s₀ (State.nclReset s epoch b) := by
  unfold State.nclReset
  try dsimp only
  repeat'
    first
    | (with_reducible assumption)
    | simp only [Keeps.mk_iff]
    | (with_reducible apply keeps_requestReset)
    | split

theorem keeps_execNclReset {s₀ : State} (epoch : BitVec 32) (boot : BootIn) (s : State) (h : Keeps s₀ s) :
    OutKeeps s₀ (execNclReset epoch boot s) := by
  unfold execNclReset
  try dsimp only
  repeat'
    first
    | (with_reducible assumption)
    | (with_reducible apply keeps_nclReset)
    | (with_reducible apply OutKeeps.next)
    | split

theorem keeps_execScrubReset {s₀ : State} (boot : BootIn) (s : State) (h : Keeps s₀ s) :
    OutKeeps s₀ (execScrubReset boot s) := by
  unfold execScrubReset
  try dsimp only
  repeat'
    first
    | (with_reducible assumption)
    | (with_reducible apply keeps_requestReset)
    | (with_reducible apply OutKeeps.next)

theorem keeps_execFlushComplete {s₀ : State} (s : State) (h : Keeps s₀ s) :
    OutKeeps s₀ (execFlushComplete s) := by
  unfold execFlushComplete
  try dsimp only
  repeat'
    first
    | (with_reducible assumption)
    | simp only [Keeps.mk_iff]
    | (with_reducible apply keeps_endFlush)
    | (with_reducible apply keeps_resetNow)
    | (with_reducible apply OutKeeps.next)
    | split

theorem keeps_siteRailsOff {s₀ : State} (s : State) (h : Keeps s₀ s) :
    Keeps s₀ (State.siteRailsOff s) := by
  unfold State.siteRailsOff
  try dsimp only
  repeat'
    first
    | (with_reducible assumption)
    | intro _
    | (with_reducible apply keeps_setSite)
    | (with_reducible apply keeps_bondsDown)
    | (with_reducible apply Keeps.foldl)

theorem keeps_execPowerLossWarning {s₀ : State} (_src : WarnSource) (s : State) (h : Keeps s₀ s) :
    OutKeeps s₀ (execPowerLossWarning _src s) := by
  unfold execPowerLossWarning
  try dsimp only
  repeat'
    first
    | (with_reducible assumption)
    | simp only [Keeps.mk_iff]
    | (with_reducible apply keeps_siteRailsOff)
    | (with_reducible apply keeps_startFlush)
    | (with_reducible apply keeps_freezeAll)
    | (with_reducible apply keeps_record)
    | (with_reducible apply OutKeeps.next)
    | split

theorem keeps_execPowerWarningCleared {s₀ : State} (s : State) (h : Keeps s₀ s) :
    OutKeeps s₀ (execPowerWarningCleared s) := by
  unfold execPowerWarningCleared
  try dsimp only
  repeat'
    first
    | (with_reducible assumption)
    | intro _
    | simp only [Keeps.mk_iff]
    | (with_reducible apply keeps_liftFreeze)
    | (with_reducible apply Keeps.foldl)
    | (with_reducible apply OutKeeps.next)
    | split

theorem keeps_execRailFault {s₀ : State} (rail : BitVec 16) (millivolts : Word64) (s : State) (h : Keeps s₀ s) :
    OutKeeps s₀ (execRailFault rail millivolts s) := by
  unfold execRailFault
  try dsimp only
  repeat'
    first
    | (with_reducible assumption)
    | (with_reducible apply keeps_fatalError)
    | (with_reducible apply OutKeeps.next)
    | split

theorem keeps_execJunctionLimit {s₀ : State} (sensor : BitVec 16) (celsius : W32) (s : State) (h : Keeps s₀ s) :
    OutKeeps s₀ (execJunctionLimit sensor celsius s) := by
  unfold execJunctionLimit
  try dsimp only
  repeat'
    first
    | (with_reducible assumption)
    | simp only [Keeps.mk_iff]
    | (with_reducible apply keeps_fatalError)
    | (with_reducible apply OutKeeps.next)
    | split

theorem keeps_execClockLockLoss {s₀ : State} (domain : BitVec 16) (s : State) (h : Keeps s₀ s) :
    OutKeeps s₀ (execClockLockLoss domain s) := by
  unfold execClockLockLoss
  try dsimp only
  repeat'
    first
    | (with_reducible assumption)
    | (with_reducible apply keeps_fatalError)
    | (with_reducible apply OutKeeps.next)
    | split

theorem keeps_execSiteRailTrip {s₀ : State} (site : SiteIx) (s : State) (h : Keeps s₀ s) :
    OutKeeps s₀ (execSiteRailTrip site s) := by
  unfold execSiteRailTrip
  try dsimp only
  repeat'
    first
    | (with_reducible assumption)
    | (with_reducible apply keeps_quarantine)
    | (with_reducible apply OutKeeps.next)
    | split

theorem keeps_signed {s₀ : State} (s : State) (h : Keeps s₀ s) :
    Keeps s₀ (State.signed s) := by
  unfold State.signed
  try dsimp only
  repeat'
    first
    | (with_reducible assumption)
    | simp only [Keeps.mk_iff]

theorem keeps_startAttest {s₀ : State} (s : State) (h : Keeps s₀ s) :
    Keeps s₀ (State.startAttest s) := by
  unfold State.startAttest
  try dsimp only
  repeat'
    first
    | (with_reducible assumption)
    | simp only [Keeps.mk_iff]

theorem keeps_attestRun {s₀ : State} (s : State) (h : Keeps s₀ s) :
    Keeps s₀ (State.attestRun s) := by
  unfold State.attestRun
  try dsimp only
  repeat'
    first
    | (with_reducible assumption)
    | simp only [Keeps.mk_iff]
    | (with_reducible apply keeps_count)
    | (with_reducible apply keeps_writeRun)
    | (with_reducible apply keeps_signed)

theorem keeps_execAttest {s₀ : State} (s : State) (h : Keeps s₀ s) :
    OutKeeps s₀ (execAttest s) := by
  unfold execAttest
  try dsimp only
  repeat'
    first
    | (with_reducible assumption)
    | (with_reducible apply keeps_startAttest)
    | (with_reducible apply keeps_attestRun)
    | (with_reducible apply OutKeeps.next)
    | split

theorem keeps_recoveryImage {s₀ : State} (s : State) (h : Keeps s₀ s) :
    Keeps s₀ (State.recoveryImage s).1 := by
  unfold State.recoveryImage
  try dsimp only
  repeat'
    first
    | (with_reducible assumption)
    | (with_reducible apply keeps_arrive)

theorem keeps_runRecovered {s₀ : State} (s : State) (d : List Byte) (h : Keeps s₀ s) :
    Keeps s₀ (State.runRecovered s d) := by
  unfold State.runRecovered
  try dsimp only
  repeat'
    first
    | (with_reducible assumption)
    | simp only [Keeps.mk_iff]
    | (with_reducible apply keeps_bootOn)
    | (with_reducible apply keeps_measure)

theorem keeps_startRecovery {s₀ : State} (s : State) (h : Keeps s₀ s) :
    Keeps s₀ (State.startRecovery s) := by
  unfold State.startRecovery
  try dsimp only
  repeat'
    first
    | (with_reducible assumption)
    | simp only [Keeps.mk_iff]

theorem keeps_recoveryRun {s₀ : State} (s : State) (h : Keeps s₀ s) :
    Keeps s₀ (State.recoveryRun s) := by
  unfold State.recoveryRun
  try dsimp only
  repeat'
    first
    | (with_reducible assumption)
    | simp only [Keeps.mk_iff]
    | (with_reducible apply keeps_recoveryImage)
    | (with_reducible apply keeps_runRecovered)
    | split

theorem keeps_execRecovGo {s₀ : State} (s : State) (h : Keeps s₀ s) :
    OutKeeps s₀ (execRecovGo s) := by
  unfold execRecovGo
  try dsimp only
  repeat'
    first
    | (with_reducible assumption)
    | (with_reducible apply keeps_startRecovery)
    | (with_reducible apply keeps_recoveryRun)
    | (with_reducible apply OutKeeps.next)
    | split

theorem keeps_execFlashRead {s₀ : State} (offset : BitVec 32) (length : BitVec 16) (s : State) (h : Keeps s₀ s) :
    OutKeeps s₀ (execFlashRead offset length s) := by
  unfold execFlashRead
  try dsimp only
  repeat'
    first
    | (with_reducible assumption)
    | (with_reducible apply keeps_emit)
    | (with_reducible apply OutKeeps.next)
    | split

theorem keeps_execFirmwareUpdate {s₀ : State} (image : List Byte) (completed : Bool) (s : State) (h : Keeps s₀ s) :
    OutKeeps s₀ (execFirmwareUpdate image completed s) := by
  unfold execFirmwareUpdate
  try dsimp only
  repeat'
    first
    | (with_reducible assumption)
    | simp only [Keeps.mk_iff]
    | (with_reducible apply keeps_flashWrite)
    | (with_reducible apply OutKeeps.next)
    | split

theorem keeps_sendReport {s₀ : State} (s : State) (nonce : List Byte) (h : Keeps s₀ s) :
    Keeps s₀ (State.sendReport s nonce) := by
  unfold State.sendReport
  try dsimp only
  repeat'
    first
    | (with_reducible assumption)
    | intro _
    | (with_reducible apply keeps_emit)
    | (with_reducible apply keeps_signed)
    | (with_reducible apply Keeps.foldl)

theorem keeps_answerAsked {s₀ : State} (s : State) (h : Keeps s₀ s) :
    Keeps s₀ (State.answerAsked s) := by
  unfold State.answerAsked
  try dsimp only
  repeat'
    first
    | (with_reducible assumption)
    | simp only [Keeps.mk_iff]
    | (with_reducible apply keeps_sendReport)
    | (with_reducible apply Keeps.foldl)
    | split

theorem keeps_sensorRead {s₀ : State} (s : State) (n : Nat) (h : Keeps s₀ s) :
    Keeps s₀ (State.sensorRead s n).1 := by
  unfold State.sensorRead
  try dsimp only
  repeat'
    first
    | (with_reducible assumption)
    | (with_reducible apply keeps_free)
    | split

theorem keeps_execGetAttestation {s₀ : State} (request : PldmRequest) (s : State) (h : Keeps s₀ s) :
    OutKeeps s₀ (execGetAttestation request s) := by
  unfold execGetAttestation
  try dsimp only
  repeat'
    first
    | (with_reducible assumption)
    | (with_reducible apply OutKeeps.fault)
    | simp only [Keeps.mk_iff]
    | (with_reducible apply keeps_emit)
    | (with_reducible apply keeps_sendReport)
    | (with_reducible apply keeps_sensorRead)
    | (with_reducible apply OutKeeps.next)
    | split

theorem keeps_execVerify {s₀ : State} (s : State) (h : Keeps s₀ s) :
    OutKeeps s₀ (execVerify s) := by
  unfold execVerify
  try dsimp only
  repeat'
    first
    | (with_reducible assumption)
    | (with_reducible apply keeps_answerAsked)
    | (with_reducible apply keeps_runLayout)
    | (with_reducible apply keeps_verifyRun)
    | (with_reducible apply OutKeeps.next)

theorem keeps_execLayoutLoad {s₀ : State} (mask : BitVec 9) (s : State) (h : Keeps s₀ s) :
    OutKeeps s₀ (execLayoutLoad mask s) := by
  unfold execLayoutLoad
  try dsimp only
  repeat'
    first
    | (with_reducible assumption)
    | (with_reducible apply keeps_answerAsked)
    | (with_reducible apply keeps_runLayout)
    | (with_reducible apply keeps_loadRun)
    | (with_reducible apply OutKeeps.next)

theorem keeps_execSiteOnly {s₀ : State} (mask : BitVec 9) (site : BitVec 6) (s : State) (h : Keeps s₀ s) :
    OutKeeps s₀ (execSiteOnly mask site s) := by
  unfold execSiteOnly
  try dsimp only
  repeat'
    first
    | (with_reducible assumption)
    | (with_reducible apply keeps_answerAsked)
    | (with_reducible apply keeps_runLayout)
    | (with_reducible apply keeps_siteOnlyRun)
    | (with_reducible apply OutKeeps.next)

theorem keeps_execDynamicAddress {s₀ : State} (endpoint : Bool) (address : BitVec 7) (s : State) (h : Keeps s₀ s) :
    OutKeeps s₀ (execDynamicAddress endpoint address s) := by
  unfold execDynamicAddress
  try dsimp only
  repeat'
    first
    | (with_reducible assumption)
    | simp only [Keeps.mk_iff]
    | (with_reducible apply OutKeeps.next)
    | split

theorem keeps_vectorIssue {s₀ : State} (s : State) (core : Nat) (kind : Nat) (r : Option Span) (w : Option Span) (run : State → State × Flags) (h : Keeps s₀ s) (hrun : ∀ t, Keeps s₀ t → Keeps s₀ (run t).1) :
    Issue.Keeps s₀ (State.vectorIssue s core kind r w run) := by
  unfold State.vectorIssue
  try dsimp only
  repeat'
    first
    | (with_reducible assumption)
    | intro _
    | (with_reducible apply OutKeeps.fault)
    | (with_reducible apply OutKeeps.refused)
    | (with_reducible apply OptKeeps.none)
    | (with_reducible apply ExKeeps.error)
    | (with_reducible apply ExKeeps1.error)
    | (with_reducible apply Issue.Keeps.refuse)
    | simp only [Keeps.mk_iff]
    | (with_reducible apply keeps_priceHeld)
    | (with_reducible apply keeps_pay)
    | (with_reducible apply keeps_count)
    | (with_reducible apply keeps_coreFlags)
    | (with_reducible apply hrun)
    | (with_reducible apply Keeps.foldl)
    | (with_reducible apply Keeps.foldl1)
    | (with_reducible apply OutKeeps.next)
    | (with_reducible apply OptKeeps.some)
    | (with_reducible apply ExKeeps.ok)
    | (with_reducible apply ExKeeps1.ok)
    | (refine Keeps.ofFst (by with_reducible assumption) ?_)
    | (refine Keeps.ofSnd (by with_reducible assumption) ?_)
    | (refine OptKeeps.get (by with_reducible assumption) ?_)
    | (refine ExKeeps.get (by with_reducible assumption) ?_)
    | (refine ExKeeps1.get (by with_reducible assumption) ?_)
    | (with_reducible apply Issue.Keeps.go)
    | (with_reducible apply Issue.Keeps.stall)
    | (refine Issue.Keeps.getGo (by with_reducible assumption) ?_)
    | (refine Issue.Keeps.getStall (by with_reducible assumption) ?_)
    | split

theorem keeps_lanes1 {s₀ : State} (op : Fmt → FVal → Res) (kind : Nat) (core : Nat) (s : State) (w : Nat) (h : Keeps s₀ s) :
    Issue.Keeps s₀ (lanes1 op kind core s w) := by
  unfold lanes1
  try dsimp only
  repeat'
    first
    | (with_reducible assumption)
    | intro _
    | (with_reducible apply keeps_vectorIssue)
    | (with_reducible apply keeps_setCore)

theorem keeps_lanes2 {s₀ : State} (op : Fmt → FVal → FVal → Res) (core : Nat) (s : State) (w : Nat) (h : Keeps s₀ s) :
    Issue.Keeps s₀ (lanes2 op core s w) := by
  unfold lanes2
  try dsimp only
  repeat'
    first
    | (with_reducible assumption)
    | intro _
    | (with_reducible apply keeps_vectorIssue)
    | (with_reducible apply keeps_setCore)

theorem keeps_lanes3 {s₀ : State} (op : Fmt → FVal → FVal → FVal → Res) (core : Nat) (s : State) (w : Nat) (h : Keeps s₀ s) :
    Issue.Keeps s₀ (lanes3 op core s w) := by
  unfold lanes3
  try dsimp only
  repeat'
    first
    | (with_reducible assumption)
    | intro _
    | (with_reducible apply keeps_vectorIssue)
    | (with_reducible apply keeps_setCore)

theorem keeps_doSel {s₀ : State} (core : Nat) (s : State) (w : Nat) (h : Keeps s₀ s) :
    Issue.Keeps s₀ (doSel core s w) := by
  unfold doSel
  try dsimp only
  repeat'
    first
    | (with_reducible assumption)
    | intro _
    | (with_reducible apply keeps_vectorIssue)
    | (with_reducible apply keeps_setCore)

theorem keeps_lanesFn {s₀ : State} (fn : Nat → Res) (kind : Nat) (core : Nat) (s : State) (w : Nat) (h : Keeps s₀ s) :
    Issue.Keeps s₀ (lanesFn fn kind core s w) := by
  unfold lanesFn
  try dsimp only
  repeat'
    first
    | (with_reducible assumption)
    | (with_reducible apply Issue.Keeps.refuse)
    | (with_reducible apply keeps_lanes1)
    | split

theorem keeps_lanesCmp {s₀ : State} (rel : FVal → FVal → Bool) (core : Nat) (s : State) (w : Nat) (h : Keeps s₀ s) :
    Issue.Keeps s₀ (lanesCmp rel core s w) := by
  unfold lanesCmp
  try dsimp only
  repeat'
    first
    | (with_reducible assumption)
    | intro _
    | (with_reducible apply keeps_vectorIssue)
    | (with_reducible apply keeps_setCore)

theorem keeps_reduceWith {s₀ : State} (fold : List (Option FVal) → Res) (core : Nat) (s : State) (w : Nat) (h : Keeps s₀ s) :
    Issue.Keeps s₀ (reduceWith fold core s w) := by
  unfold reduceWith
  try dsimp only
  repeat'
    first
    | (with_reducible assumption)
    | intro _
    | (with_reducible apply keeps_vectorIssue)
    | (with_reducible apply keeps_setCore)

theorem keeps_doVload {s₀ : State} (core : Nat) (s : State) (w : Nat) (h : Keeps s₀ s) :
    Issue.Keeps s₀ (doVload core s w) := by
  unfold doVload
  try dsimp only
  repeat'
    first
    | (with_reducible assumption)
    | intro _
    | (with_reducible apply Issue.Keeps.refuse)
    | (with_reducible apply keeps_vectorIssue)
    | (with_reducible apply keeps_rowAt)
    | (with_reducible apply keeps_setCore)
    | split

theorem keeps_doVstore {s₀ : State} (core : Nat) (s : State) (w : Nat) (h : Keeps s₀ s) :
    Issue.Keeps s₀ (doVstore core s w) := by
  unfold doVstore
  try dsimp only
  repeat'
    first
    | (with_reducible assumption)
    | intro _
    | (with_reducible apply Issue.Keeps.refuse)
    | (with_reducible apply keeps_vectorIssue)
    | (with_reducible apply keeps_ownWrite)
    | (with_reducible apply Keeps.foldl)
    | split

theorem keeps_execAdd {s₀ : State} (core : CoreIx) (s : State) (h : Keeps s₀ s) :
    OutKeeps s₀ (execAdd core s) := by
  unfold execAdd
  try dsimp only
  repeat'
    first
    | (with_reducible assumption)
    | (with_reducible apply keeps_issue)
    | (with_reducible apply keeps_lanes2)
    | (with_reducible apply OutKeeps.next)

theorem keeps_execSub {s₀ : State} (core : CoreIx) (s : State) (h : Keeps s₀ s) :
    OutKeeps s₀ (execSub core s) := by
  unfold execSub
  try dsimp only
  repeat'
    first
    | (with_reducible assumption)
    | (with_reducible apply keeps_issue)
    | (with_reducible apply keeps_lanes2)
    | (with_reducible apply OutKeeps.next)

theorem keeps_execMul {s₀ : State} (core : CoreIx) (s : State) (h : Keeps s₀ s) :
    OutKeeps s₀ (execMul core s) := by
  unfold execMul
  try dsimp only
  repeat'
    first
    | (with_reducible assumption)
    | (with_reducible apply keeps_issue)
    | (with_reducible apply keeps_lanes2)
    | (with_reducible apply OutKeeps.next)

theorem keeps_execFma {s₀ : State} (core : CoreIx) (s : State) (h : Keeps s₀ s) :
    OutKeeps s₀ (execFma core s) := by
  unfold execFma
  try dsimp only
  repeat'
    first
    | (with_reducible assumption)
    | (with_reducible apply keeps_issue)
    | (with_reducible apply keeps_lanes3)
    | (with_reducible apply OutKeeps.next)

theorem keeps_execMin {s₀ : State} (core : CoreIx) (s : State) (h : Keeps s₀ s) :
    OutKeeps s₀ (execMin core s) := by
  unfold execMin
  try dsimp only
  repeat'
    first
    | (with_reducible assumption)
    | (with_reducible apply keeps_issue)
    | (with_reducible apply keeps_lanes2)
    | (with_reducible apply OutKeeps.next)

theorem keeps_execMax {s₀ : State} (core : CoreIx) (s : State) (h : Keeps s₀ s) :
    OutKeeps s₀ (execMax core s) := by
  unfold execMax
  try dsimp only
  repeat'
    first
    | (with_reducible assumption)
    | (with_reducible apply keeps_issue)
    | (with_reducible apply keeps_lanes2)
    | (with_reducible apply OutKeeps.next)

theorem keeps_execAbs {s₀ : State} (core : CoreIx) (s : State) (h : Keeps s₀ s) :
    OutKeeps s₀ (execAbs core s) := by
  unfold execAbs
  try dsimp only
  repeat'
    first
    | (with_reducible assumption)
    | (with_reducible apply keeps_issue)
    | (with_reducible apply keeps_lanes1)
    | (with_reducible apply OutKeeps.next)

theorem keeps_execNeg {s₀ : State} (core : CoreIx) (s : State) (h : Keeps s₀ s) :
    OutKeeps s₀ (execNeg core s) := by
  unfold execNeg
  try dsimp only
  repeat'
    first
    | (with_reducible assumption)
    | (with_reducible apply keeps_issue)
    | (with_reducible apply keeps_lanes1)
    | (with_reducible apply OutKeeps.next)

theorem keeps_execSel {s₀ : State} (core : CoreIx) (s : State) (h : Keeps s₀ s) :
    OutKeeps s₀ (execSel core s) := by
  unfold execSel
  try dsimp only
  repeat'
    first
    | (with_reducible assumption)
    | (with_reducible apply keeps_issue)
    | (with_reducible apply keeps_doSel)
    | (with_reducible apply OutKeeps.next)

theorem keeps_execExp {s₀ : State} (core : CoreIx) (s : State) (h : Keeps s₀ s) :
    OutKeeps s₀ (execExp core s) := by
  unfold execExp
  try dsimp only
  repeat'
    first
    | (with_reducible assumption)
    | (with_reducible apply keeps_issue)
    | (with_reducible apply keeps_lanesFn)
    | (with_reducible apply OutKeeps.next)

theorem keeps_execLog {s₀ : State} (core : CoreIx) (s : State) (h : Keeps s₀ s) :
    OutKeeps s₀ (execLog core s) := by
  unfold execLog
  try dsimp only
  repeat'
    first
    | (with_reducible assumption)
    | (with_reducible apply keeps_issue)
    | (with_reducible apply keeps_lanesFn)
    | (with_reducible apply OutKeeps.next)

theorem keeps_execRcp {s₀ : State} (core : CoreIx) (s : State) (h : Keeps s₀ s) :
    OutKeeps s₀ (execRcp core s) := by
  unfold execRcp
  try dsimp only
  repeat'
    first
    | (with_reducible assumption)
    | (with_reducible apply keeps_issue)
    | (with_reducible apply keeps_lanesFn)
    | (with_reducible apply OutKeeps.next)

theorem keeps_execRsqrt {s₀ : State} (core : CoreIx) (s : State) (h : Keeps s₀ s) :
    OutKeeps s₀ (execRsqrt core s) := by
  unfold execRsqrt
  try dsimp only
  repeat'
    first
    | (with_reducible assumption)
    | (with_reducible apply keeps_issue)
    | (with_reducible apply keeps_lanesFn)
    | (with_reducible apply OutKeeps.next)

theorem keeps_execTanh {s₀ : State} (core : CoreIx) (s : State) (h : Keeps s₀ s) :
    OutKeeps s₀ (execTanh core s) := by
  unfold execTanh
  try dsimp only
  repeat'
    first
    | (with_reducible assumption)
    | (with_reducible apply keeps_issue)
    | (with_reducible apply keeps_lanesFn)
    | (with_reducible apply OutKeeps.next)

theorem keeps_execCmplt {s₀ : State} (core : CoreIx) (s : State) (h : Keeps s₀ s) :
    OutKeeps s₀ (execCmplt core s) := by
  unfold execCmplt
  try dsimp only
  repeat'
    first
    | (with_reducible assumption)
    | (with_reducible apply keeps_issue)
    | (with_reducible apply keeps_lanesCmp)
    | (with_reducible apply OutKeeps.next)

theorem keeps_execCmple {s₀ : State} (core : CoreIx) (s : State) (h : Keeps s₀ s) :
    OutKeeps s₀ (execCmple core s) := by
  unfold execCmple
  try dsimp only
  repeat'
    first
    | (with_reducible assumption)
    | (with_reducible apply keeps_issue)
    | (with_reducible apply keeps_lanesCmp)
    | (with_reducible apply OutKeeps.next)

theorem keeps_execCmpeq {s₀ : State} (core : CoreIx) (s : State) (h : Keeps s₀ s) :
    OutKeeps s₀ (execCmpeq core s) := by
  unfold execCmpeq
  try dsimp only
  repeat'
    first
    | (with_reducible assumption)
    | (with_reducible apply keeps_issue)
    | (with_reducible apply keeps_lanesCmp)
    | (with_reducible apply OutKeeps.next)

theorem keeps_execCmpne {s₀ : State} (core : CoreIx) (s : State) (h : Keeps s₀ s) :
    OutKeeps s₀ (execCmpne core s) := by
  unfold execCmpne
  try dsimp only
  repeat'
    first
    | (with_reducible assumption)
    | (with_reducible apply keeps_issue)
    | (with_reducible apply keeps_lanesCmp)
    | (with_reducible apply OutKeeps.next)

theorem keeps_execRedsum {s₀ : State} (core : CoreIx) (s : State) (h : Keeps s₀ s) :
    OutKeeps s₀ (execRedsum core s) := by
  unfold execRedsum
  try dsimp only
  repeat'
    first
    | (with_reducible assumption)
    | intro _
    | (with_reducible apply keeps_issue)
    | (with_reducible apply keeps_reduceWith)
    | (with_reducible apply OutKeeps.next)

theorem keeps_execRedmax {s₀ : State} (core : CoreIx) (s : State) (h : Keeps s₀ s) :
    OutKeeps s₀ (execRedmax core s) := by
  unfold execRedmax
  try dsimp only
  repeat'
    first
    | (with_reducible assumption)
    | intro _
    | (with_reducible apply keeps_issue)
    | (with_reducible apply keeps_reduceWith)
    | (with_reducible apply OutKeeps.next)

theorem keeps_execVectorLoad {s₀ : State} (core : CoreIx) (s : State) (h : Keeps s₀ s) :
    OutKeeps s₀ (execVectorLoad core s) := by
  unfold execVectorLoad
  try dsimp only
  repeat'
    first
    | (with_reducible assumption)
    | (with_reducible apply keeps_issue)
    | (with_reducible apply keeps_doVload)
    | (with_reducible apply OutKeeps.next)

theorem keeps_execVectorStore {s₀ : State} (core : CoreIx) (s : State) (h : Keeps s₀ s) :
    OutKeeps s₀ (execVectorStore core s) := by
  unfold execVectorStore
  try dsimp only
  repeat'
    first
    | (with_reducible assumption)
    | (with_reducible apply keeps_issue)
    | (with_reducible apply keeps_doVstore)
    | (with_reducible apply OutKeeps.next)

theorem keeps_CoreOp_run {s₀ : State} (op : CoreOp) (core : Nat) (a : State) (a4 : Nat) (h : Keeps s₀ a) :
    Issue.Keeps s₀ (CoreOp.run op core a a4) := by
  unfold CoreOp.run
  try dsimp only
  repeat'
    first
    | (with_reducible assumption)
    | (with_reducible apply keeps_doNop)
    | (with_reducible apply keeps_doHalt)
    | (with_reducible apply keeps_doSets)
    | (with_reducible apply keeps_doAdds)
    | (with_reducible apply keeps_doLoop)
    | (with_reducible apply keeps_doJump)
    | (with_reducible apply keeps_doBarrier)
    | (with_reducible apply keeps_doPass)
    | (with_reducible apply keeps_doDrain)
    | (with_reducible apply keeps_doWeightLoad)
    | (with_reducible apply keeps_doMatrixVector)
    | (with_reducible apply keeps_lanes2)
    | (with_reducible apply keeps_lanes3)
    | (with_reducible apply keeps_lanes1)
    | (with_reducible apply keeps_doSel)
    | (with_reducible apply keeps_lanesFn)
    | (with_reducible apply keeps_lanesCmp)
    | (with_reducible apply keeps_reduceWith)
    | (with_reducible apply keeps_doVload)
    | (with_reducible apply keeps_doVstore)
    | (with_reducible apply keeps_doCopy)
    | (with_reducible apply keeps_doCombine)
    | (with_reducible apply keeps_doStartPrefetch)
    | (with_reducible apply keeps_doStopPrefetch)
    | (with_reducible apply keeps_doWait)
    | (with_reducible apply keeps_doSignal)
    | split

theorem keeps_shardFault {s₀ : State} (s : State) (i : Nat) (shard : Nat) (code : Nat) (h : Keeps s₀ s) :
    Keeps s₀ (State.shardFault s i shard code) := by
  unfold State.shardFault
  try dsimp only
  repeat'
    first
    | (with_reducible assumption)
    | (with_reducible apply keeps_record)
    | (with_reducible apply keeps_count)
    | (with_reducible apply keeps_setSweep)
    | split

theorem keeps_sweepEvents {s₀ : State} (s : State) (i : Nat) (shard : Nat) (f : Flags) (h : Keeps s₀ s) :
    Keeps s₀ (State.sweepEvents s i shard f) := by
  unfold State.sweepEvents
  try dsimp only
  repeat'
    first
    | (with_reducible assumption)
    | (with_reducible apply keeps_setSweep)
    | (with_reducible apply keeps_recordOnce)
    | split

theorem keeps_sweepPay {s₀ : State} (s : State) (i : Nat) (n : Nat) (h : Keeps s₀ s) :
    OptKeeps s₀ (State.sweepPay s i n) := by
  unfold State.sweepPay
  try dsimp only
  repeat'
    first
    | (with_reducible assumption)
    | (with_reducible apply keeps_tryCharge)

theorem keeps_sweepHold {s₀ : State} (s : State) (i : Nat) (n : Nat) (h : Keeps s₀ s) :
    Keeps s₀ (State.sweepHold s i n) := by
  unfold State.sweepHold
  try dsimp only
  repeat'
    first
    | (with_reducible assumption)
    | (with_reducible apply keeps_holdPrice)

theorem keeps_setStage {s₀ : State} (s : State) (i : Nat) (st : SweepStage) (h : Keeps s₀ s) :
    Keeps s₀ (State.setStage s i st) := by
  unfold State.setStage
  try dsimp only
  repeat'
    first
    | (with_reducible assumption)
    | (with_reducible apply keeps_setSweep)

theorem keeps_sweepRead {s₀ : State} (s : State) (i : Nat) (a : Nat) (n : Nat) (h : Keeps s₀ s) :
    Keeps s₀ (State.sweepRead s i a n).1 := by
  unfold State.sweepRead
  try dsimp only
  repeat'
    first
    | (with_reducible assumption)
    | (with_reducible apply keeps_readRun)
    | (with_reducible apply keeps_count)
    | split

theorem keeps_sweepWrite {s₀ : State} (s : State) (i : Nat) (a : Nat) (bs : List Byte) (h : Keeps s₀ s) :
    Keeps s₀ (State.sweepWrite s i a bs) := by
  unfold State.sweepWrite
  try dsimp only
  repeat'
    first
    | (with_reducible assumption)
    | (with_reducible apply keeps_writeRun)
    | (with_reducible apply keeps_count)
    | split

theorem keeps_commitScale {s₀ : State} (s : State) (i : Nat) (a : Nat) (step : Nat) (h : Keeps s₀ s) :
    Keeps s₀ (State.commitScale s i a step).1 := by
  unfold State.commitScale
  have k := keeps_sweepRead s i a 128 h
  generalize s.sweepRead i a 128 = p at k ⊢
  obtain ⟨s1, r⟩ := p
  dsimp only at k ⊢
  split
  · exact k
  · split
    · exact k
    · split
      · exact k
      · have k2 := keeps_sweepRead s1 i (fieldLe r.data 80 8) (4 * fieldLe r.data 9 1) k
        generalize s1.sweepRead i (fieldLe r.data 80 8) (4 * fieldLe r.data 9 1) = q at k2 ⊢
        obtain ⟨s2, p⟩ := q
        dsimp only at k2 ⊢
        split
        · exact k2
        · generalize committed _ _ _ = d1
          have k3 := keeps_count _ (bSwp i) 0x158 1 (keeps_sweepWrite _ i a d1 k2)
          split
          · exact keeps_count _ _ _ _ k3
          · exact k3

theorem keeps_sweepLines {s₀ : State} (s : State) (i : Nat) (base : Nat) (per : Nat) (lo : Nat) (hi : Nat) (h : Keeps s₀ s) :
    Keeps s₀ (State.sweepLines s i base per lo hi).1 := by
  unfold State.sweepLines
  try dsimp only
  repeat'
    first
    | (with_reducible assumption)
    | intro _
    | (with_reducible apply keeps_sweepRead)
    | (with_reducible apply Keeps.foldl1)
    | split

theorem keeps_skipLine {s₀ : State} (s : State) (i : Nat) (bs : PBytes) (next : SweepStage) (h : Keeps s₀ s) :
    Keeps s₀ (State.skipLine s i bs next) := by
  unfold State.skipLine
  try dsimp only
  repeat'
    first
    | (with_reducible assumption)
    | (with_reducible apply keeps_count)
    | (with_reducible apply keeps_setSweep)

theorem keeps_putLine {s₀ : State} (s : State) (i : Nat) (a : Nat) (line : List Byte × Flags) (n : Nat) (next : SweepStage) (h : Keeps s₀ s) :
    Keeps s₀ (State.putLine s i a line n next) := by
  unfold State.putLine
  try dsimp only
  repeat'
    first
    | (with_reducible assumption)
    | (with_reducible apply keeps_count)
    | (with_reducible apply keeps_sweepWrite)
    | (with_reducible apply keeps_sweepEvents)
    | (with_reducible apply keeps_setSweep)

theorem keeps_momentStep {s₀ : State} (s : State) (i : Nat) (x3 : Shard) (l : Nat) (h : Keeps s₀ s) :
    SweepMove.Keeps s₀ (State.momentStep s i x3 l) := by
  unfold State.momentStep
  try dsimp only
  repeat'
    first
    | (with_reducible assumption)
    | (with_reducible apply keeps_sweepRead)
    | (with_reducible apply keeps_skipLine)
    | (with_reducible apply keeps_sweepLines)
    | (with_reducible apply keeps_sweepPay)
    | (with_reducible apply keeps_sweepHold)
    | (with_reducible apply keeps_putLine)
    | (refine OptKeeps.get (by with_reducible assumption) ?_)
    | split
    | (with_reducible apply SweepMove.Keeps.stay)
    | (with_reducible apply SweepMove.Keeps.fault)
    | (with_reducible apply SweepMove.Keeps.go)

theorem keeps_enterWorking {s₀ : State} (s : State) (i : Nat) (x3 : Shard) (h : Keeps s₀ s) :
    SweepMove.Keeps s₀ (State.enterWorking s i x3) := by
  unfold State.enterWorking
  try dsimp only
  repeat'
    first
    | (with_reducible assumption)
    | (with_reducible apply keeps_setStage)
    | (with_reducible apply keeps_sweepRead)
    | (with_reducible apply keeps_setSweep)
    | split
    | (with_reducible apply SweepMove.Keeps.stay)
    | (with_reducible apply SweepMove.Keeps.fault)
    | (with_reducible apply SweepMove.Keeps.go)

theorem keeps_weightStep {s₀ : State} (s : State) (i : Nat) (x3 : Shard) (l : Nat) (h : Keeps s₀ s) :
    SweepMove.Keeps s₀ (State.weightStep s i x3 l) := by
  unfold State.weightStep
  try dsimp only
  repeat'
    first
    | (with_reducible assumption)
    | (with_reducible apply keeps_sweepRead)
    | (with_reducible apply keeps_skipLine)
    | (with_reducible apply keeps_sweepLines)
    | (with_reducible apply keeps_sweepPay)
    | (with_reducible apply keeps_sweepHold)
    | (with_reducible apply keeps_putLine)
    | (refine OptKeeps.get (by with_reducible assumption) ?_)
    | split
    | (with_reducible apply SweepMove.Keeps.stay)
    | (with_reducible apply SweepMove.Keeps.fault)
    | (with_reducible apply SweepMove.Keeps.go)

theorem keeps_workingStep {s₀ : State} (s : State) (i : Nat) (x3 : Shard) (c : Nat) (h : Keeps s₀ s) :
    SweepMove.Keeps s₀ (State.workingStep s i x3 c) := by
  unfold State.workingStep
  try dsimp only
  repeat'
    first
    | (with_reducible assumption)
    | (with_reducible apply keeps_sweepLines)
    | (with_reducible apply keeps_sweepPay)
    | (with_reducible apply keeps_sweepHold)
    | (with_reducible apply keeps_setStage)
    | (with_reducible apply keeps_sweepWrite)
    | (with_reducible apply keeps_sweepEvents)
    | (with_reducible apply keeps_setSweep)
    | (refine OptKeeps.get (by with_reducible assumption) ?_)
    | split
    | (with_reducible apply SweepMove.Keeps.stay)
    | (with_reducible apply SweepMove.Keeps.fault)
    | (with_reducible apply SweepMove.Keeps.go)

theorem keeps_pendingRecord {s₀ : State} (s : State) (i : Nat) (x3 : Shard) (h : Keeps s₀ s) :
    ExKeeps1 s₀ (State.pendingRecord s i x3) := by
  unfold State.pendingRecord
  try dsimp only
  repeat'
    first
    | (with_reducible assumption)
    | intro _
    | (with_reducible apply OutKeeps.fault)
    | (with_reducible apply OutKeeps.refused)
    | (with_reducible apply OptKeeps.none)
    | (with_reducible apply ExKeeps.error)
    | (with_reducible apply ExKeeps1.error)
    | (with_reducible apply Issue.Keeps.refuse)
    | simp only [Keeps.mk_iff]
    | (with_reducible apply keeps_sweepRead)
    | (with_reducible apply Keeps.foldl)
    | (with_reducible apply Keeps.foldl1)
    | (with_reducible apply OutKeeps.next)
    | (with_reducible apply OptKeeps.some)
    | (with_reducible apply ExKeeps.ok)
    | (with_reducible apply ExKeeps1.ok)
    | (refine Keeps.ofFst (by with_reducible assumption) ?_)
    | (refine Keeps.ofSnd (by with_reducible assumption) ?_)
    | (refine OptKeeps.get (by with_reducible assumption) ?_)
    | (refine ExKeeps.get (by with_reducible assumption) ?_)
    | (refine ExKeeps1.get (by with_reducible assumption) ?_)
    | (with_reducible apply Issue.Keeps.go)
    | (with_reducible apply Issue.Keeps.stall)
    | (refine Issue.Keeps.getGo (by with_reducible assumption) ?_)
    | (refine Issue.Keeps.getStall (by with_reducible assumption) ?_)
    | split
theorem keeps_pendingRecord_error {s₀ : State} {s : State} {i : Nat} {x : Shard} {e : Nat × State} (h : Keeps s₀ s)
    (he : s.pendingRecord i x = .error e) : Keeps s₀ e.2 := by
  have k := keeps_sweepRead s i x.scale 128 h
  unfold State.pendingRecord at he
  generalize s.sweepRead i x.scale 128 = p at k he
  dsimp only at he
  split at he
  · cases he
  · split at he
    · cases he
    · split at he
      · cases he; exact k
      · split at he
        · cases he
        · cases he; exact k

theorem keeps_finishShard {s₀ : State} (s : State) (i : Nat) (x3 : Shard) (h : Keeps s₀ s) :
    SweepMove.Keeps s₀ (State.finishShard s i x3) := by
  unfold State.finishShard
  try dsimp only
  repeat'
    first
    | (with_reducible assumption)
    | (refine keeps_pendingRecord_error ?_ (by with_reducible assumption))
    | intro _
    | (with_reducible apply OutKeeps.fault)
    | (with_reducible apply OutKeeps.refused)
    | (with_reducible apply OptKeeps.none)
    | (with_reducible apply ExKeeps.error)
    | (with_reducible apply ExKeeps1.error)
    | (with_reducible apply Issue.Keeps.refuse)
    | simp only [Keeps.mk_iff]
    | (with_reducible apply keeps_pendingRecord)
    | (with_reducible apply keeps_sweepWrite)
    | (with_reducible apply keeps_count)
    | (with_reducible apply keeps_setSweep)
    | (with_reducible apply Keeps.foldl)
    | (with_reducible apply Keeps.foldl1)
    | (with_reducible apply OutKeeps.next)
    | (with_reducible apply OptKeeps.some)
    | (with_reducible apply ExKeeps.ok)
    | (with_reducible apply ExKeeps1.ok)
    | (refine Keeps.ofFst (by with_reducible assumption) ?_)
    | (refine Keeps.ofSnd (by with_reducible assumption) ?_)
    | (refine OptKeeps.get (by with_reducible assumption) ?_)
    | (refine ExKeeps.get (by with_reducible assumption) ?_)
    | (refine ExKeeps1.get (by with_reducible assumption) ?_)
    | (with_reducible apply Issue.Keeps.go)
    | (with_reducible apply Issue.Keeps.stall)
    | (refine Issue.Keeps.getGo (by with_reducible assumption) ?_)
    | (refine Issue.Keeps.getStall (by with_reducible assumption) ?_)
    | split
    | (with_reducible apply Keeps.getD)
    | (with_reducible apply ExKeeps1.map)
    | (with_reducible apply SweepMove.Keeps.stay)
    | (with_reducible apply SweepMove.Keeps.fault)
    | (with_reducible apply SweepMove.Keeps.go)

theorem keeps_sweepWaits {s₀ : State} (s : State) (i : Nat) (h : Keeps s₀ s) :
    Keeps s₀ (State.sweepWaits s i) := by
  unfold State.sweepWaits
  try dsimp only
  repeat'
    first
    | (with_reducible assumption)
    | (with_reducible apply keeps_sendToken)
    | (with_reducible apply keeps_setSweep)

theorem keeps_endRun {s₀ : State} (s : State) (i : Nat) (h : Keeps s₀ s) :
    Keeps s₀ (State.endRun s i) := by
  unfold State.endRun
  try dsimp only
  repeat'
    first
    | (with_reducible assumption)
    | (with_reducible apply keeps_setSweep)
    | (with_reducible apply keeps_setFld)
    | (with_reducible apply keeps_sweepWaits)
    | (with_reducible apply keeps_sendToken)
    | split

theorem keeps_leaveShard {s₀ : State} (s : State) (i : Nat) (code : Nat) (stage : SweepStage) (h : Keeps s₀ s) :
    Keeps s₀ (State.leaveShard s i code stage) := by
  unfold State.leaveShard
  try dsimp only
  repeat'
    first
    | (with_reducible assumption)
    | (with_reducible apply keeps_shardFault)
    | (with_reducible apply keeps_setSweep)

theorem keeps_commitInvalid {s₀ : State} (s : State) (i : Nat) (x3 : Shard) (h : Keeps s₀ s) :
    Keeps s₀ (State.commitInvalid s i x3).1 := by
  unfold State.commitInvalid
  try dsimp only
  repeat'
    first
    | (with_reducible assumption)
    | (with_reducible apply keeps_sweepRead)
    | split

theorem keeps_commitStep {s₀ : State} (s : State) (i : Nat) (h : Keeps s₀ s) :
    Keeps s₀ (State.commitStep s i) := by
  unfold State.commitStep
  try dsimp only
  repeat'
    first
    | (with_reducible assumption)
    | (with_reducible apply keeps_setSweep)
    | (with_reducible apply keeps_sweepRead)
    | (with_reducible apply keeps_leaveShard)
    | (with_reducible apply keeps_commitInvalid)
    | (with_reducible apply keeps_commitScale)
    | (refine Keeps.ofFst (by with_reducible assumption) ?_)
    | split

theorem keeps_checkProgram {s₀ : State} (s : State) (i : Nat) (a : Nat) (h : Keeps s₀ s) :
    Keeps s₀ (State.checkProgram s i a).1 := by
  unfold State.checkProgram
  try dsimp only
  repeat'
    first
    | (with_reducible assumption)
    | (with_reducible apply keeps_sweepRead)
    | (with_reducible apply keeps_setSweep)
    | split

theorem keeps_checkStep {s₀ : State} (s : State) (i : Nat) (h : Keeps s₀ s) :
    Keeps s₀ (State.checkStep s i) := by
  unfold State.checkStep
  try dsimp only
  repeat'
    first
    | (with_reducible assumption)
    | (with_reducible apply keeps_endRun)
    | (with_reducible apply keeps_setSweep)
    | (with_reducible apply keeps_sweepRead)
    | (with_reducible apply keeps_leaveShard)
    | (with_reducible apply keeps_checkProgram)
    | (refine Keeps.ofFst (by with_reducible assumption) ?_)
    | split

theorem keeps_sweepMove {s₀ : State} (s : State) (i : Nat) (h : Keeps s₀ s) :
    OptKeeps s₀ (State.sweepMove s i) := by
  unfold State.sweepMove
  try dsimp only
  repeat'
    first
    | (with_reducible assumption)
    | (with_reducible apply OptKeeps.none)
    | (with_reducible apply keeps_leaveShard)
    | (with_reducible apply keeps_stallOnce)
    | (with_reducible apply keeps_setSweep)
    | (with_reducible apply keeps_commitStep)
    | (with_reducible apply keeps_checkStep)
    | (with_reducible apply keeps_momentStep)
    | (with_reducible apply keeps_weightStep)
    | (with_reducible apply keeps_enterWorking)
    | (with_reducible apply keeps_workingStep)
    | (with_reducible apply keeps_finishShard)
    | (with_reducible apply OptKeeps.some)
    | split
    | (refine SweepMove.Keeps.getStay (by with_reducible assumption) ?_)
    | (refine SweepMove.Keeps.getFault (by with_reducible assumption) ?_)
    | (refine SweepMove.Keeps.getGo (by with_reducible assumption) ?_)

theorem keeps_sweepMoves {s₀ : State} (a : Nat) (a2 : State) (a3 : Nat) (h : Keeps s₀ a2) :
    Keeps s₀ (State.sweepMoves a a2 a3) := by
  induction a generalizing a2 with
  | zero => unfold State.sweepMoves; exact h
  | succ n ih =>
    unfold State.sweepMoves
    repeat'
    first
      | (with_reducible assumption)
      | intro _
      | (with_reducible apply OutKeeps.fault)
      | (with_reducible apply OutKeeps.refused)
      | (with_reducible apply OptKeeps.none)
      | (with_reducible apply ExKeeps.error)
      | (with_reducible apply ExKeeps1.error)
      | (with_reducible apply Issue.Keeps.refuse)
      | simp only [Keeps.mk_iff]
      | (with_reducible apply keeps_sweepMove)
      | (with_reducible apply ih)
      | (with_reducible apply Keeps.foldl)
      | (with_reducible apply Keeps.foldl1)
      | (with_reducible apply OutKeeps.next)
      | (with_reducible apply OptKeeps.some)
      | (with_reducible apply ExKeeps.ok)
      | (with_reducible apply ExKeeps1.ok)
      | (refine Keeps.ofFst (by with_reducible assumption) ?_)
      | (refine Keeps.ofSnd (by with_reducible assumption) ?_)
      | (refine OptKeeps.get (by with_reducible assumption) ?_)
      | (refine ExKeeps.get (by with_reducible assumption) ?_)
      | (refine ExKeeps1.get (by with_reducible assumption) ?_)
      | (with_reducible apply Issue.Keeps.go)
      | (with_reducible apply Issue.Keeps.stall)
      | (refine Issue.Keeps.getGo (by with_reducible assumption) ?_)
      | (refine Issue.Keeps.getStall (by with_reducible assumption) ?_)
      | split

theorem keeps_execSweepRun {s₀ : State} (engine : Ix16) (lines : Nat) (s : State) (h : Keeps s₀ s) :
    OutKeeps s₀ (execSweepRun engine lines s) := by
  unfold execSweepRun
  try dsimp only
  repeat'
    first
    | (with_reducible assumption)
    | (with_reducible apply keeps_sweepMoves)
    | (with_reducible apply OutKeeps.next)
    | split

theorem keeps_execScaleRecheck {s₀ : State} (engine : Ix16) (s : State) (h : Keeps s₀ s) :
    OutKeeps s₀ (execScaleRecheck engine s) := by
  unfold execScaleRecheck
  try dsimp only
  repeat'
    first
    | (with_reducible assumption)
    | (with_reducible apply keeps_hostStall)
    | (with_reducible apply keeps_enterWorking)
    | (with_reducible apply keeps_leaveShard)
    | (with_reducible apply OutKeeps.next)
    | split
    | (refine SweepMove.Keeps.getStay (by with_reducible assumption) ?_)
    | (refine SweepMove.Keeps.getFault (by with_reducible assumption) ?_)
    | (refine SweepMove.Keeps.getGo (by with_reducible assumption) ?_)

theorem keeps_execSweepWaitLong {s₀ : State} (engine : Ix16) (s : State) (h : Keeps s₀ s) :
    OutKeeps s₀ (execSweepWaitLong engine s) := by
  unfold execSweepWaitLong
  try dsimp only
  repeat'
    first
    | (with_reducible assumption)
    | (with_reducible apply keeps_record)
    | (with_reducible apply keeps_setSweep)
    | (with_reducible apply OutKeeps.next)
    | split

theorem keeps_execSwpTflagSel {s₀ : State} (engine : Ix16) (tensor : BitVec 12) (s : State) (h : Keeps s₀ s) :
    OutKeeps s₀ (execSwpTflagSel engine tensor s) := by
  unfold execSwpTflagSel
  try dsimp only
  repeat'
    first
    | (with_reducible assumption)
    | (with_reducible apply keeps_setSweep)
    | (with_reducible apply OutKeeps.next)

theorem keeps_enableSweep {s₀ : State} (s : State) (i : Nat) (h : Keeps s₀ s) :
    Keeps s₀ (State.enableSweep s i) := by
  unfold State.enableSweep
  try dsimp only
  repeat'
    first
    | (with_reducible assumption)
    | (with_reducible apply keeps_sweepWaits)
    | (with_reducible apply keeps_setSweep)

theorem keeps_disableSweep {s₀ : State} (s : State) (i : Nat) (h : Keeps s₀ s) :
    Keeps s₀ (State.disableSweep s i) := by
  unfold State.disableSweep
  try dsimp only
  repeat'
    first
    | (with_reducible assumption)
    | (with_reducible apply keeps_setSweep)
    | (with_reducible apply keeps_hostForget)
    | (with_reducible apply keeps_dropHeld)
    | (with_reducible apply keeps_sendToken)
    | split

theorem keeps_enableEngine {s₀ : State} (s : State) (e : Nat) (h : Keeps s₀ s) :
    Keeps s₀ (State.enableEngine s e) := by
  unfold State.enableEngine
  try dsimp only
  repeat'
    first
    | (with_reducible assumption)
    | (with_reducible apply keeps_setEngine)

theorem keeps_disableEngine {s₀ : State} (s : State) (e : Nat) (h : Keeps s₀ s) :
    Keeps s₀ (State.disableEngine s e) := by
  unfold State.disableEngine
  try dsimp only
  repeat'
    first
    | (with_reducible assumption)
    | (with_reducible apply keeps_discardUnstarted)
    | (with_reducible apply keeps_count)
    | (with_reducible apply keeps_setEngine)
    | (with_reducible apply keeps_setCore)
    | split

theorem keeps_enableActions {s₀ : State} (s : State) (n : Nat) (h : Keeps s₀ s) :
    Keeps s₀ (State.enableActions s n) := by
  unfold State.enableActions
  try dsimp only
  repeat'
    first
    | (with_reducible assumption)
    | simp only [Keeps.mk_iff]
    | (with_reducible apply keeps_enableEngine)
    | (with_reducible apply keeps_enableCore)
    | (with_reducible apply keeps_enableTok)
    | (with_reducible apply keeps_enableTrn)
    | (with_reducible apply keeps_enableSweep)
    | (with_reducible apply keeps_enableSave)
    | (with_reducible apply keeps_enableCmp)
    | (with_reducible apply keeps_enableIntake)
    | split

theorem keeps_disableActions {s₀ : State} (s : State) (n : Nat) (h : Keeps s₀ s) :
    Keeps s₀ (State.disableActions s n) := by
  unfold State.disableActions
  try dsimp only
  repeat'
    first
    | (with_reducible assumption)
    | (with_reducible apply keeps_disableEngine)
    | (with_reducible apply keeps_startCoreDisable)
    | (with_reducible apply keeps_disableBanks)
    | (with_reducible apply keeps_disableSweep)
    | (with_reducible apply keeps_disableSave)
    | (with_reducible apply keeps_disableCmp)
    | (with_reducible apply keeps_disableIntake)
    | split

theorem keeps_setBlkState {s₀ : State} (s : State) (n : Nat) (st : BlkState) (h : Keeps s₀ s) :
    Keeps s₀ (State.setBlkState s n st) := by
  unfold State.setBlkState
  try dsimp only
  repeat'
    first
    | (with_reducible assumption)
    | (with_reducible apply keeps_setBlk)

theorem keeps_startEnable {s₀ : State} (s : State) (n : Nat) (h : Keeps s₀ s) :
    Keeps s₀ (State.startEnable s n) := by
  unfold State.startEnable
  try dsimp only
  repeat'
    first
    | (with_reducible assumption)
    | (with_reducible apply keeps_enableBanks)
    | (with_reducible apply keeps_setBlkState)
    | split

theorem keeps_actOnEnable {s₀ : State} (s : State) (n : Nat) (h : Keeps s₀ s) :
    Keeps s₀ (State.actOnEnable s n) := by
  unfold State.actOnEnable
  try dsimp only
  repeat'
    first
    | (with_reducible assumption)
    | (with_reducible apply keeps_startEnable)
    | (with_reducible apply keeps_disableActions)
    | (with_reducible apply keeps_setBlkState)
    | split

theorem keeps_reachDisabled {s₀ : State} (s : State) (n : Nat) (h : Keeps s₀ s) :
    Keeps s₀ (State.reachDisabled s n) := by
  unfold State.reachDisabled
  try dsimp only
  repeat'
    first
    | (with_reducible assumption)
    | (with_reducible apply keeps_actOnEnable)
    | (with_reducible apply keeps_setBlk)

theorem keeps_stopFaulted {s₀ : State} (s : State) (n : Nat) (h : Keeps s₀ s) :
    Keeps s₀ (State.stopFaulted s n) := by
  unfold State.stopFaulted
  try dsimp only
  repeat'
    first
    | (with_reducible assumption)
    | (with_reducible apply keeps_reachDisabled)
    | split

theorem keeps_setEnable {s₀ : State} (s : State) (n : Nat) (v : Bool) (h : Keeps s₀ s) :
    Keeps s₀ (State.setEnable s n v) := by
  unfold State.setEnable
  try dsimp only
  repeat'
    first
    | (with_reducible assumption)
    | (with_reducible apply keeps_stopFaulted)
    | (with_reducible apply keeps_actOnEnable)
    | (with_reducible apply keeps_setBlk)

theorem keeps_execEnableWrite {s₀ : State} (block : BitVec 16) (value : Bool) (s : State) (h : Keeps s₀ s) :
    OutKeeps s₀ (execEnableWrite block value s) := by
  unfold execEnableWrite
  try dsimp only
  repeat'
    first
    | (with_reducible assumption)
    | (with_reducible apply keeps_setEnable)
    | (with_reducible apply keeps_frameFault)
    | (with_reducible apply OutKeeps.next)
    | split

theorem keeps_freshOnce {s₀ : State} (s : State) (n : Nat) (h : Keeps s₀ s) :
    Keeps s₀ (State.freshOnce s n) := by
  unfold State.freshOnce
  try dsimp only
  repeat'
    first
    | (with_reducible assumption)
    | (with_reducible apply keeps_clearOnce)
    | split

theorem keeps_execEnableComplete {s₀ : State} (block : BitVec 16) (s : State) (h : Keeps s₀ s) :
    OutKeeps s₀ (execEnableComplete block s) := by
  unfold execEnableComplete
  try dsimp only
  repeat'
    first
    | (with_reducible assumption)
    | (with_reducible apply keeps_stopFaulted)
    | (with_reducible apply keeps_actOnEnable)
    | (with_reducible apply keeps_setBlkState)
    | (with_reducible apply keeps_enableActions)
    | (with_reducible apply keeps_freshOnce)
    | (with_reducible apply OutKeeps.next)
    | split

theorem keeps_execDisableComplete {s₀ : State} (block : BitVec 16) (s : State) (h : Keeps s₀ s) :
    OutKeeps s₀ (execDisableComplete block s) := by
  unfold execDisableComplete
  try dsimp only
  repeat'
    first
    | (with_reducible assumption)
    | (with_reducible apply keeps_reachDisabled)
    | (with_reducible apply OutKeeps.next)
    | split

theorem keeps_layoutCmd {s₀ : State} (s : State) (v : Nat) (h : Keeps s₀ s) :
    Keeps s₀ (State.layoutCmd s v) := by
  unfold State.layoutCmd
  try dsimp only
  repeat'
    first
    | (with_reducible assumption)
    | simp only [Keeps.mk_iff]
    | (with_reducible apply keeps_startLayout)
    | split

theorem keeps_tokOp {s₀ : State} (s : State) (t : Nat) (v : Nat) (h : Keeps s₀ s) :
    Keeps s₀ (State.tokOp s t v) := by
  unfold State.tokOp
  try dsimp only
  repeat'
    first
    | (with_reducible assumption)
    | (with_reducible apply keeps_execTokCmdSignal)
    | (with_reducible apply keeps_execTake)
    | (with_reducible apply keeps_execSet)
    | (with_reducible apply keeps_execPeek)
    | (with_reducible apply keeps_count)
    | (with_reducible apply keeps_after)
    | split

theorem keeps_siteOp {s₀ : State} (s : State) (v : Nat) (h : Keeps s₀ s) :
    Keeps s₀ (State.siteOp s v) := by
  unfold State.siteOp
  try dsimp only
  repeat'
    first
    | (with_reducible assumption)
    | (with_reducible apply keeps_execQuarantine)
    | (with_reducible apply keeps_execRelease)
    | (with_reducible apply keeps_execSiteReset)
    | (with_reducible apply keeps_after)
    | split

theorem keeps_plinkOp {s₀ : State} (s : State) (e : Nat) (v : Nat) (h : Keeps s₀ s) :
    Keeps s₀ (State.plinkOp s e v) := by
  unfold State.plinkOp
  try dsimp only
  repeat'
    first
    | (with_reducible assumption)
    | (with_reducible apply keeps_execPlinkRetrain)
    | (with_reducible apply keeps_execPlinkRestore)
    | (with_reducible apply keeps_after)
    | split

theorem keeps_ladOp {s₀ : State} (s : State) (p : Nat) (v : Nat) (h : Keeps s₀ s) :
    Keeps s₀ (State.ladOp s p v) := by
  unfold State.ladOp
  try dsimp only
  repeat'
    first
    | (with_reducible assumption)
    | (with_reducible apply keeps_execLadderRetrain)
    | (with_reducible apply keeps_execLadderRestore)
    | (with_reducible apply keeps_execScSend)
    | (with_reducible apply keeps_execScPop)
    | (with_reducible apply keeps_after)
    | split

theorem keeps_nclOp {s₀ : State} (s : State) (off : Nat) (v : Nat) (h : Keeps s₀ s) :
    Keeps s₀ (State.nclOp s off v) := by
  unfold State.nclOp
  try dsimp only
  repeat'
    first
    | (with_reducible assumption)
    | (with_reducible apply keeps_execAdopt)
    | (with_reducible apply keeps_execDecline)
    | (with_reducible apply keeps_execAck)
    | (with_reducible apply keeps_epochIgnored)
    | (with_reducible apply keeps_nclReset)
    | (with_reducible apply keeps_startRecovery)
    | (with_reducible apply keeps_execMbxPop)
    | (with_reducible apply keeps_after)
    | split

theorem keeps_ringOp {s₀ : State} (s : State) (r : Nat) (off : Nat) (v : Nat) (h : Keeps s₀ s) :
    Keeps s₀ (State.ringOp s r off v) := by
  unfold State.ringOp
  try dsimp only
  repeat'
    first
    | (with_reducible assumption)
    | (with_reducible apply keeps_execDoorbell)
    | (with_reducible apply keeps_execCqHead)
    | (with_reducible apply keeps_after)
    | split

theorem keeps_sshOp {s₀ : State} (s : State) (src : RegSource) (t : Nat) (v : Nat) (h : Keeps s₀ s) :
    Keeps s₀ (State.sshOp s src t v) := by
  unfold State.sshOp
  try dsimp only
  repeat'
    first
    | (with_reducible assumption)
    | (with_reducible apply keeps_unfreezeSheet)
    | (with_reducible apply keeps_startFlush)
    | split

theorem keeps_savOp {s₀ : State} (s : State) (off : Nat) (v : Nat) (h : Keeps s₀ s) :
    Keeps s₀ (State.savOp s off v) := by
  unfold State.savOp
  try dsimp only
  repeat'
    first
    | (with_reducible assumption)
    | (with_reducible apply keeps_startRestore)
    | (with_reducible apply keeps_execAppend)
    | (with_reducible apply keeps_after)
    | split

theorem keeps_trnOp {s₀ : State} (s : State) (i : Nat) (off : Nat) (v : Word64) (h : Keeps s₀ s) :
    Keeps s₀ (State.trnOp s i off v) := by
  unfold State.trnOp
  try dsimp only
  repeat'
    first
    | (with_reducible assumption)
    | simp only [Keeps.mk_iff]
    | (with_reducible apply keeps_execTrnSet)
    | (with_reducible apply keeps_execTurnTableAppend)
    | (with_reducible apply keeps_after)
    | split

theorem keeps_secOp {s₀ : State} (s : State) (v : Nat) (h : Keeps s₀ s) :
    Keeps s₀ (State.secOp s v) := by
  unfold State.secOp
  try dsimp only
  repeat'
    first
    | (with_reducible assumption)
    | (with_reducible apply keeps_startAttest)
    | (with_reducible apply keeps_requestReset)
    | split

theorem keeps_snapOp {s₀ : State} (s : State) (n : Nat) (v : Nat) (h : Keeps s₀ s) :
    Keeps s₀ (State.snapOp s n v) := by
  unfold State.snapOp
  try dsimp only
  repeat'
    first
    | (with_reducible assumption)
    | (with_reducible apply keeps_snapshotBlock)
    | (with_reducible apply keeps_snapshotDevice)
    | split

theorem keeps_issueCommand {s₀ : State} (s : State) (src : RegSource) (n : Nat) (k : Kind) (u : Nat) (off : Nat) (w : Word64) (h : Keeps s₀ s) :
    Keeps s₀ (State.issueCommand s src n k u off w) := by
  unfold State.issueCommand
  try dsimp only
  repeat'
    first
    | (with_reducible assumption)
    | simp only [Keeps.mk_iff]
    | (with_reducible apply keeps_snapOp)
    | (with_reducible apply keeps_layoutCmd)
    | (with_reducible apply keeps_tokOp)
    | (with_reducible apply keeps_trnOp)
    | (with_reducible apply keeps_execNrgCorrSel)
    | (with_reducible apply keeps_execSwpTflagSel)
    | (with_reducible apply keeps_savOp)
    | (with_reducible apply keeps_siteOp)
    | (with_reducible apply keeps_execHomeDead)
    | (with_reducible apply keeps_requestReset)
    | (with_reducible apply keeps_plinkOp)
    | (with_reducible apply keeps_ladOp)
    | (with_reducible apply keeps_execStart)
    | (with_reducible apply keeps_ringOp)
    | (with_reducible apply keeps_nclOp)
    | (with_reducible apply keeps_sshOp)
    | (with_reducible apply keeps_secOp)
    | (with_reducible apply keeps_after)
    | split

theorem keeps_storeField {s₀ : State} (s : State) (n : Nat) (k : Kind) (off : Nat) (r : FieldRow) (v : Nat) (h : Keeps s₀ s) :
    Keeps s₀ (State.storeField s n k off r v) := by
  unfold State.storeField
  try dsimp only
  repeat'
    first
    | (with_reducible assumption)
    | (with_reducible apply keeps_setBank)
    | (with_reducible apply keeps_setFld)
    | split

theorem keeps_storeRw {s₀ : State} (s : State) (n : Nat) (k : Kind) (off : Nat) (r : FieldRow) (v : Nat) (h : Keeps s₀ s) :
    Keeps s₀ (State.storeRw s n k off r v) := by
  unfold State.storeRw
  try dsimp only
  repeat'
    first
    | (with_reducible assumption)
    | simp only [Keeps.mk_iff]
    | (with_reducible apply keeps_setEnable)
    | (with_reducible apply keeps_enableRing)
    | (with_reducible apply keeps_disableRing)
    | (with_reducible apply keeps_setFld)
    | (with_reducible apply keeps_storeField)
    | split

theorem keeps_regWrite {s₀ : State} (s : State) (src : RegSource) (n : Nat) (off : Nat) (v : Word64) (h : Keeps s₀ s) :
    Keeps s₀ (State.regWrite s src n off v) := by
  unfold State.regWrite
  try dsimp only
  repeat'
    first
    | (with_reducible assumption)
    | intro _
    | (with_reducible apply keeps_storeField)
    | (with_reducible apply keeps_writeWhileEnabled)
    | (with_reducible apply keeps_storeRw)
    | (with_reducible apply keeps_issueCommand)
    | (with_reducible apply Keeps.foldl)
    | split

theorem keeps_serverFault {s₀ : State} (s : State) (core : Nat) (a : Nat) (h : Keeps s₀ s) :
    Keeps s₀ (State.serverFault s core a) := by
  unfold State.serverFault
  try dsimp only
  repeat'
    first
    | (with_reducible assumption)
    | (with_reducible apply keeps_emit)
    | (with_reducible apply keeps_unmappedLine)

theorem keeps_windowWrite {s₀ : State} (s : State) (off : Nat) (v : Word64) (h : Keeps s₀ s) :
    Keeps s₀ (State.windowWrite s off v) := by
  unfold State.windowWrite
  try dsimp only
  repeat'
    first
    | (with_reducible assumption)
    | (with_reducible apply keeps_count)
    | (with_reducible apply keeps_regWrite)
    | split

theorem keeps_execRegisterWrite {s₀ : State} (src : RegSource) (block : BitVec 16) (offset : BitVec 16) (value : Word64) (s : State) (h : Keeps s₀ s) :
    OutKeeps s₀ (execRegisterWrite src block offset value s) := by
  unfold execRegisterWrite
  try dsimp only
  repeat'
    first
    | (with_reducible assumption)
    | (with_reducible apply keeps_serverFault)
    | (with_reducible apply keeps_regWrite)
    | (with_reducible apply keeps_unmappedLine)
    | (with_reducible apply keeps_windowWrite)
    | (with_reducible apply OutKeeps.next)
    | split

theorem keeps_execControlWindowAccess {s₀ : State} (write : Bool) (offset : BitVec 16) (value : Word64) (s : State) (h : Keeps s₀ s) :
    OutKeeps s₀ (execControlWindowAccess write offset value s) := by
  unfold execControlWindowAccess
  try dsimp only
  repeat'
    first
    | (with_reducible assumption)
    | (with_reducible apply keeps_windowWrite)
    | (with_reducible apply keeps_emit)
    | (with_reducible apply OutKeeps.next)
    | split

theorem keeps_portNote {s₀ : State} (s : State) (a : Nat) (h : Keeps s₀ s) :
    Keeps s₀ (State.portNote s a) := by
  unfold State.portNote
  try dsimp only
  repeat'
    first
    | (with_reducible assumption)
    | (with_reducible apply keeps_unmappedLine)
    | split

theorem keeps_portRead {s₀ : State} (s : State) (a : Nat) (h : Keeps s₀ s) :
    Keeps s₀ (State.portRead s a) := by
  unfold State.portRead
  try dsimp only
  repeat'
    first
    | (with_reducible assumption)
    | simp only [Keeps.mk_iff]
    | (with_reducible apply keeps_emit)
    | (with_reducible apply keeps_portNote)
    | split

theorem keeps_portWrite {s₀ : State} (s : State) (a : Nat) (value : Word64) (h : Keeps s₀ s) :
    Keeps s₀ (State.portWrite s a value) := by
  unfold State.portWrite
  try dsimp only
  repeat'
    first
    | (with_reducible assumption)
    | (with_reducible apply keeps_regWrite)
    | (with_reducible apply keeps_portNote)
    | (with_reducible apply keeps_emit)
    | split

theorem keeps_portFrame {s₀ : State} (s : State) (bytes : List Byte) (h : Keeps s₀ s) :
    Keeps s₀ (State.portFrame s bytes) := by
  unfold State.portFrame
  try dsimp only
  repeat'
    first
    | (with_reducible assumption)
    | (with_reducible apply keeps_portRead)
    | (with_reducible apply keeps_emit)
    | (with_reducible apply keeps_portWrite)
    | (with_reducible apply keeps_execFlashRead)
    | (with_reducible apply keeps_after)
    | split

theorem keeps_coreLoad {s₀ : State} (s : State) (core : Nat) (a : Nat) (bytes : Nat) (h : Keeps s₀ s) :
    Keeps s₀ (State.coreLoad s core a bytes) := by
  unfold State.coreLoad
  try dsimp only
  repeat'
    first
    | (with_reducible assumption)
    | simp only [Keeps.mk_iff]
    | (with_reducible apply keeps_serverFault)
    | (with_reducible apply keeps_emit)
    | split

theorem keeps_execRegisterRead {s₀ : State} (load : RegLoad) (s : State) (h : Keeps s₀ s) :
    OutKeeps s₀ (execRegisterRead load s) := by
  unfold execRegisterRead
  try dsimp only
  repeat'
    first
    | (with_reducible assumption)
    | (with_reducible apply keeps_portRead)
    | (with_reducible apply keeps_portFrame)
    | (with_reducible apply keeps_coreLoad)
    | (with_reducible apply OutKeeps.next)
    | split

theorem keeps_execRegisterPortWrite {s₀ : State} (address : Word64) (value : Word64) (s : State) (h : Keeps s₀ s) :
    OutKeeps s₀ (execRegisterPortWrite address value s) := by
  unfold execRegisterPortWrite
  try dsimp only
  repeat'
    first
    | (with_reducible assumption)
    | (with_reducible apply keeps_portWrite)
    | (with_reducible apply OutKeeps.next)

theorem keeps_setHart {s₀ : State} (s : State) (c : Nat) (h3 : Hart) (h : Keeps s₀ s) :
    Keeps s₀ (State.setHart s c h3) := by
  unfold State.setHart
  try dsimp only
  repeat'
    first
    | (with_reducible assumption)
    | simp only [Keeps.mk_iff]

theorem keeps_tapIr {s₀ : State} (s : State) (i : Nat) (h : Keeps s₀ s) :
    Keeps s₀ (State.tapIr s i) := by
  unfold State.tapIr
  try dsimp only
  repeat'
    first
    | (with_reducible assumption)
    | simp only [Keeps.mk_iff]

theorem keeps_capturePins {s₀ : State} (s : State) (h : Keeps s₀ s) :
    Keeps s₀ (State.capturePins s) := by
  unfold State.capturePins
  try dsimp only
  repeat'
    first
    | (with_reducible assumption)
    | (with_reducible apply keeps_emit)
    | (with_reducible apply keeps_free)

theorem keeps_tdoFree {s₀ : State} (s : State) (h : Keeps s₀ s) :
    Keeps s₀ (State.tdoFree s) := by
  unfold State.tdoFree
  try dsimp only
  repeat'
    first
    | (with_reducible assumption)
    | (with_reducible apply keeps_emit)
    | (with_reducible apply keeps_free)

theorem keeps_busRead {s₀ : State} (s : State) (a : Nat) (h : Keeps s₀ s) :
    Keeps s₀ (State.busRead s a) := by
  unfold State.busRead
  try dsimp only
  repeat'
    first
    | (with_reducible assumption)
    | (with_reducible apply keeps_emit)
    | (with_reducible apply keeps_tdoFree)
    | (with_reducible apply keeps_unmappedLine)
    | (with_reducible apply keeps_readRun)
    | split

theorem keeps_busWrite {s₀ : State} (s : State) (a : Nat) (v : Word64) (h : Keeps s₀ s) :
    Keeps s₀ (State.busWrite s a v) := by
  unfold State.busWrite
  try dsimp only
  repeat'
    first
    | (with_reducible assumption)
    | (with_reducible apply keeps_regWrite)
    | (with_reducible apply keeps_unmappedLine)
    | (with_reducible apply keeps_writeRun)
    | split

theorem keeps_hartRead {s₀ : State} (s : State) (c : Nat) (r : Nat) (h : Keeps s₀ s) :
    Keeps s₀ (State.hartRead s c r) := by
  unfold State.hartRead
  try dsimp only
  repeat'
    first
    | (with_reducible assumption)
    | (with_reducible apply keeps_emit)
    | (with_reducible apply keeps_free)
    | (with_reducible apply keeps_setHart)
    | split

theorem keeps_execTestAccessPort {s₀ : State} (op : TapOp) (s : State) (h : Keeps s₀ s) :
    OutKeeps s₀ (execTestAccessPort op s) := by
  unfold execTestAccessPort
  try dsimp only
  repeat'
    first
    | (with_reducible assumption)
    | simp only [Keeps.mk_iff]
    | (with_reducible apply keeps_tapIr)
    | (with_reducible apply keeps_emit)
    | (with_reducible apply keeps_tdoFree)
    | (with_reducible apply keeps_capturePins)
    | (with_reducible apply keeps_setHart)
    | (with_reducible apply keeps_hartRead)
    | (with_reducible apply keeps_busRead)
    | (with_reducible apply keeps_busWrite)
    | (with_reducible apply OutKeeps.next)
    | split

end Sys2Proof.Machine
end

