-- ==== Sys2Proof/Tests/Slice0.lean ====
section
/-! SUPPORT. Tests: values of the manual's worked examples and tables, a smoke test of well-formedness, and for every
obligation concrete states that meet its hypotheses, clause by clause. -/

namespace Sys2Proof.Tests

open Sys2Proof Sys2Proof.Machine

set_option maxRecDepth 100000
set_option Elab.async false

/-! ### Values of the manual's worked examples -/

/-- The encoding of a decimal fraction m / 10^d as fp32. -/
def dec (m d : Nat) : Nat := decimal32 false m d

/-- Source: R51, output flush. -/
theorem test_flush_below_smallest : (convert (f32 (dec 78 4)) .e4m3 false false).1 = 0x00
    ∧ (convert (f32 (dec 155 4)) .e4m3 false false).1 = 0x08 := by decide +kernel
/-- Source: chapter 2, converting to e4m3. -/
theorem test_convert_e4m3 : convert (f32 (dec 300 0)) .e4m3 false false = (0x79, .none)
    ∧ convert (f32 (dec 460 0)) .e4m3 false false = (0x7E, .none)
    ∧ convert (f32 (dec 470 0)) .e4m3 false false = (0x7E, .sat)
    ∧ convert (f32 (dec 470 0)) .e4m3 false true
      = (0x7F, { invalid := true, overflow := true, saturated := false }) := by decide +kernel
/-- Source: chapter 2, the pieces of one third. -/
theorem test_pieces_of_a_third : split 0x3EAAAAAB = (0x3EAA, 0x3AAA, 0x36AB) := by decide +kernel
/-- Source: chapter 2, one overflow in both modes: 3.0e38 is 0x7F61B1E6 and 1.0e38 is 0x7E967699. -/
theorem test_overflow_in_both_modes :
    (accAdd false (k32 0x7F61B1E6) (k32 0x7E967699)) = (0x7F7FFFFF, .ovf)
    ∧ (accAdd true (k32 0x7F61B1E6) (k32 0x7E967699)) = (0x7F800000, .ovf)
    ∧ (convert (f32 (accAdd false (k32 0x7F7FFFFF) (k32 0xFE967699)).1) .bf16 false false).1 = 0x7F35
    ∧ convert (f32 (accAdd true (k32 0x7F800000) (k32 0xFE967699)).1) .bf16 false false = (0x7F7F, .sat)
    ∧ convert (f32 0x7F800000) .bf16 false true = (0x7F80, .none) := by decide +kernel
/-- Products of row 0 and of fifteen equal rows. -/
def groupOf (a0 w0 a w : Nat) : List FVal :=
  FVal.mul (decodeFp .e4m3 a0) (decodeFp .e4m3 w0)
    :: List.replicate 15 (FVal.mul (decodeFp .e4m3 a) (decodeFp .e4m3 w))
/-- Source: chapter 4, dropped bits in an e4m3 group. -/
theorem test_group_drops_low_bits : (groupSum false (groupOf 0x7E 0x7E 0x14 0x18)).1 = 0x48440000
    ∧ (groupSum false (groupOf 0x7E 0x7E 0x1C 0x18)).1 = 0x48440004 := by decide +kernel
/-- Source: chapter 4, a four-way split both ways: sequential, and the tree of R114. -/
theorem test_sequential_and_tree_sums :
    (List.replicate 7 (k32 0x3F800000)).foldl (accAdd false) (k32 0x4B800000) = k32 0x4B800000
    ∧ treeSum (accAdd false) 3 (some (k32 0x4B800000) :: List.replicate 7 (some (k32 0x3F800000)))
      = some (k32 0x4B800003) := by decide +kernel
/-- Source: chapter 4, reading a status word; rows and columns that change nothing of it are cut short here. -/
theorem test_status_word :
    let t : Tensor := { fmt := 5, rank := 2, ext := [128, 128], base := 0, stride1 := 512, stride2 := 0, stride3 := 0
                        scale := 127, physical := false, cache := false }
    let o : DrainOp := { engine := 1, tile := 2, reduce := 0, transform := false, truncate := false, rows := 128, cols := 128
                         dst := t, side := 0, satMode := false }
    let row : List Sum := List.replicate 40 ((0x41480000, .none), false)
    let bad : List Sum := (List.replicate 37 ((0x41480000, .none), false)) ++ [((0x7FC00000, .none), false)]
    tileWord o { flags := .inv, count := 3, splitInv := false } .none
      ((List.replicate 17 row) ++ [bad, row]) = 0x414800000003251100000001_7F7F0621 := by
  decide +kernel
/-- Source: R329 to R331, one word, one error, then two. -/
theorem test_nibble_code_example :
    nibbleEncode (0x3 <<< 20) = 0x6FAB
    ∧ nibbleDecode (0x1 <<< 20) 0x6FAB = .corrected (0x3 <<< 20) 5
    ∧ nibbleDecode ((0x1 <<< 20) ^^^ 1) 0x6FAB = .uncorrectable := by decide +kernel
/-- Source: R384, one group: exponent 111, symbols 0x7A, 0x0A and +0. -/
theorem test_quantised_group :
    (quantGroup [dec 75 2, dec 3 9, dec 5 10]).1 = 111
    ∧ (quantGroup [dec 75 2, dec 3 9, dec 5 10]).2.1 = [0x7A, 0x0A, 0x00] := by decide +kernel
/-- Source: chapter 18, one engine's counters across a substitution. -/
theorem test_block_numbers : bCore 216 = 0x08D8 ∧ bEng 866 = 0x0362 ∧ bCore 304 = 0x0930 ∧ bEng 1218 = 0x04C2 := by decide +kernel
/-- Source: R87, a 5 × 5 convolution: 48 × 80 output pixels. -/
theorem test_convolution_shape : convOut 96 2 2 1 5 2 = 48 ∧ convOut 160 2 2 1 5 2 = 80 := by decide +kernel
/-- Source: chapter 5, encoding a pass: the word and what it names. -/
def passWord : Nat := 0x0000030000007FFFFF00000500004601
theorem test_pass_word : opOf passWord = some .pass
    ∧ leBytes 16 passWord = [0x01, 0x46, 0, 0, 0x05, 0, 0, 0xFF, 0xFF, 0x7F, 0, 0, 0, 0x03, 0, 0]
    ∧ bitsOf passWord 8 2 = 2 ∧ (Core.reset.passOf false passWord).1.bank = true
    ∧ (Core.reset.passOf false passWord).1.acc = .keep ∧ (Core.reset.passOf false passWord).1.m = 512
    ∧ (Core.reset.passOf false passWord).1.kv = 128 ∧ (Core.reset.passOf false passWord).1.nv = 128
    ∧ (Core.reset.passOf false passWord).1.kblk = 3 := by decide +kernel
/-- Source: IEEE 802.3, the check value of CRC-32 over the digits 1 to 9 (R396, R458 name that code). -/
theorem test_crc32_check : crc32 [0x31, 0x32, 0x33, 0x34, 0x35, 0x36, 0x37, 0x38, 0x39] = 0xCBF43926 := by decide +kernel
/-- Source: FIPS 202, the first eight bytes of SHAKE256 of the empty message (R186 names that function). -/
theorem test_shake256_empty : shake256 [] 8 = [0x46, 0xB9, 0xDD, 0x2B, 0x0B, 0xA8, 0x8D, 0x13] := by decide +kernel
/-- A symbol and an error within the bounds: data symbol 5, error 1 (the word of the example above), and the last symbol. -/
theorem hyps_NibbleCodeCorrectsOneSymbol : (5 < 36 ∧ 1 ≤ 1 ∧ 1 < 16) ∧ (35 < 36 ∧ 1 ≤ 15 ∧ 15 < 16)
    ∧ nibbleDecode 0 (nibbleEncode 0 ^^^ 0xF000) = .corrected 0 35 := by decide +kernel
/-- Source: R147, bounds: RCP(1.5) is within 2 ulp of two thirds, 0x3F2AAAAB, and RCP of a power of two is exact. -/
theorem test_rcp_bounds : ((rcp32 0x3FC00000).1 - 0x3F2AAAAB) ≤ 2 ∧ (0x3F2AAAAB - (rcp32 0x3FC00000).1) ≤ 2
    ∧ (rcp32 0x40800000).1 = 0x3E800000 := by decide +kernel

/-! ### Well-formed commands: an ill-formed operand for every check, refused, beside a good one -/

def goodBoot : BootIn := { bootNone with panelLanes := List.replicate 16 [], idPattern := List.replicate 8192 0 }
def goodMeasures : Measures :=
  { energy := List.replicate 57 0, siteTemp := List.replicate 52 0, hbmTemp := List.replicate 16 0
    upsets := [], wire := [], control := [] }
def goodTest : SelfTest := { passed := true, repairs := [(7, 31, 2047, 7)], pins := [(7, 31, 1984, 0)] }

theorem test_wf_boot : Instr.wellFormed (.powerUpSequence goodBoot) = true
    ∧ Instr.wellFormed (.warmReset goodBoot) = true ∧ Instr.wellFormed (.nclReset 0 goodBoot) = true
    ∧ Instr.wellFormed (.scrubReset goodBoot) = true
    ∧ Instr.wellFormed (.powerUpSequence { goodBoot with hbmFail := [16] }) = false
    ∧ Instr.wellFormed (.warmReset { goodBoot with lpxFail := [32] }) = false
    ∧ Instr.wellFormed (.nclReset 0 { goodBoot with bondFail := [(104, 0, 0)] }) = false
    ∧ Instr.wellFormed (.scrubReset { goodBoot with panelLanes := [[]] }) = false
    ∧ Instr.wellFormed (.powerUpSequence { goodBoot with present := [57] }) = false
    ∧ Instr.wellFormed (.powerUpSequence { goodBoot with idPattern := [0] }) = false := by decide +kernel
theorem test_wf_measures : Instr.wellFormed (.turnBoundary goodMeasures) = true
    ∧ Instr.wellFormed (.turnBoundary { goodMeasures with energy := [] }) = false
    ∧ Instr.wellFormed (.turnBoundary { goodMeasures with siteTemp := [] }) = false
    ∧ Instr.wellFormed (.turnBoundary { goodMeasures with hbmTemp := [] }) = false
    ∧ Instr.wellFormed (.turnBoundary { goodMeasures with upsets := [(2 ^ 64, 0)] }) = false
    ∧ Instr.wellFormed (.turnBoundary { goodMeasures with control := [(65536, 0)] }) = false := by decide +kernel
theorem test_wf_self_test : Instr.wellFormed (.readmissionTestDone 0 goodTest) = true
    ∧ Instr.wellFormed (.readmissionTestDone 0 { goodTest with pins := [(8, 0, 0, 0)] }) = false
    ∧ Instr.wellFormed (.readmissionTestDone 0 { goodTest with pins := [(0, 0, 1, 0)] }) = false
    ∧ Instr.wellFormed (.readmissionTestDone 0 { goodTest with repairs := [(8, 0, 0, 0)] }) = false
    ∧ Instr.wellFormed (.readmissionTestDone 0 { goodTest with repairs := [(0, 32, 0, 0)] }) = false
    ∧ Instr.wellFormed (.readmissionTestDone 0 { goodTest with repairs := [(0, 0, 2048, 0)] }) = false
    ∧ Instr.wellFormed (.readmissionTestDone 0 { goodTest with repairs := [(0, 0, 0, 8)] }) = false := by decide +kernel
theorem test_wf_read_back : Instr.wellFormed (.weightLoadStart 0 [.retry 127, .fault 127]) = true
    ∧ Instr.wellFormed (.weightLoadStart 0 [.retry 128]) = false
    ∧ Instr.wellFormed (.weightLoadStart 0 [.fault 128]) = false
    ∧ Instr.wellFormed (.passStart ⟨0, [[.retry 127], [], [], [], []]⟩) = true
    ∧ Instr.wellFormed (.passStart ⟨0, [[], [], [], [], [], []]⟩) = false
    ∧ Instr.wellFormed (.passStart ⟨0, [[.fault 128]]⟩) = false := by decide +kernel
theorem test_wf_agents : Instr.wellFormed (.tokenSignalArrival 383 0 1) = true
    ∧ Instr.wellFormed (.tokenWaitArrival 131087 0 1) = true ∧ Instr.wellFormed (.tokenGrantArrival 196623) = true
    ∧ Instr.wellFormed (.withdrawal 262144) = true
    ∧ Instr.wellFormed (.tokenSignalArrival 384 0 1) = false ∧ Instr.wellFormed (.tokenWaitArrival 131088 0 1) = false
    ∧ Instr.wellFormed (.tokenGrantArrival 196624) = false ∧ Instr.wellFormed (.withdrawal 262145) = false := by
  decide +kernel
theorem test_wf_lines : Instr.wellFormed (.rds 0 (2 ^ 45 - 1)) = true ∧ Instr.wellFormed (.rds 0 (2 ^ 45)) = false
    ∧ Instr.wellFormed (.rdu 0 (2 ^ 45)) = false ∧ Instr.wellFormed (.upg 0 (2 ^ 45)) = false
    ∧ Instr.wellFormed (.evc 0 (2 ^ 45)) = false ∧ Instr.wellFormed (.evd 0 (2 ^ 45) none) = false
    ∧ Instr.wellFormed (.rdns 0x1104 (2 ^ 45)) = false
    ∧ Instr.wellFormed (.wfi 0x1104 (2 ^ 45) (List.replicate 128 0)) = false
    ∧ Instr.wellFormed (.wp 0x1104 (2 ^ 45) 0 (List.replicate 128 0)) = false
    ∧ Instr.wellFormed (.snps 0 (2 ^ 45) none) = false ∧ Instr.wellFormed (.snpu 0 (2 ^ 45) none) = false
    ∧ Instr.wellFormed (.snpi 0 (2 ^ 45) none) = false ∧ Instr.wellFormed (.snpns 0 (2 ^ 45) none) = false
    ∧ Instr.wellFormed (.snprecall 0 (2 ^ 45) none) = false ∧ Instr.wellFormed (.snoopLate 0 (2 ^ 45)) = false
    ∧ Instr.wellFormed (.hsnps (2 ^ 45)) = false ∧ Instr.wellFormed (.hsnpu (2 ^ 45)) = false
    ∧ Instr.wellFormed (.hsnpi (2 ^ 45)) = false := by decide +kernel
theorem test_wf_line_data : Instr.wellFormed (.wfi 0x1104 0 (List.replicate 128 0)) = true
    ∧ Instr.wellFormed (.wfi 0x1104 0 []) = false ∧ Instr.wellFormed (.wp 0x1104 0 0 []) = false
    ∧ Instr.wellFormed (.evd 0 0 (some [])) = false ∧ Instr.wellFormed (.snps 0 0 (some [])) = false
    ∧ Instr.wellFormed (.snpu 0 0 (some [])) = false ∧ Instr.wellFormed (.snpi 0 0 (some [])) = false
    ∧ Instr.wellFormed (.snpns 0 0 (some [])) = false ∧ Instr.wellFormed (.snprecall 0 0 (some [])) = false := by
  decide +kernel
/-- n words of zeros. -/
def zeroWords (n : Nat) : List CodeWord := List.replicate n { data := 0, check := 0 }
theorem test_wf_frames : Instr.wellFormed (.panelFrameReceive 0 0 (zeroWords 32)) = true
    ∧ Instr.wellFormed (.panelFrameReceive 16 0 (zeroWords 128)) = true
    ∧ Instr.wellFormed (.panelFrameReceive 0 0 (zeroWords 128)) = false
    ∧ Instr.wellFormed (.panelFrameReceive 16 0 (zeroWords 32)) = false
    ∧ Instr.wellFormed (.ladderFrameReceive 0 (zeroWords 129)) = true
    ∧ Instr.wellFormed (.ladderFrameReceive 0 (zeroWords 2)) = true
    ∧ Instr.wellFormed (.ladderFrameReceive 0 (zeroWords 1)) = false
    ∧ Instr.wellFormed (.sideChannelMessage 0 (List.replicate 64 0)) = true
    ∧ Instr.wellFormed (.sideChannelMessage 0 []) = false
    ∧ Instr.wellFormed (.getAttestation (.attestation (List.replicate 32 0))) = true
    ∧ Instr.wellFormed (.getAttestation (.attestation [])) = false
    ∧ Instr.wellFormed (.getAttestation .types) = true
    ∧ Instr.wellFormed (.testAccessPort (.dmiBusRead (2 ^ 52 - 8))) = true
    ∧ Instr.wellFormed (.testAccessPort (.dmiBusRead (2 ^ 52 - 7))) = false
    ∧ Instr.wellFormed (.testAccessPort (.dmiBusWrite (2 ^ 52 - 7) 0)) = false := by decide +kernel
/-- An ill-formed command stops as a fault; a well-formed one runs. -/
theorem test_ill_formed_stops : exec (.panelFrameReceive 0 0 []) State.reset = .fault .illFormed
    ∧ exec (.panelFrameReceive 0 0 (zeroWords 32)) State.reset = .next State.reset := ⟨rfl, rfl⟩

/-! ### States the tests share -/

/-- Block n in state 2. -/
def enabled (s : State) (n : Nat) : State := s.setBlk n { s.blk n with enable := true, state := .enabled }
/-- A site in service with its rail on. -/
def served (s : State) (i : Nat) : State := s.setSite i { s.site i with railOn := true, status := .service }
/-- Out of cold reset, firmware running, site 0 in service. -/
def powered : State := served { State.reset with power := { Power.reset with held := false, phase := 9 } } 0
/-- The companion link up. -/
def linked : State := powered.setNcl { Ncl.reset with up := true, everUp := true, epoch := 1 }
/-- A score-sheet flush in progress. -/
def flushes : State := { powered with power := { powered.power with flushing := some { reason := 3, turn := 0 } } }
/-- Core 0 enabled, with a stream of two instructions at address 0, the first of them w and fetched. -/
def stream (w : Nat) : State :=
  let s := enabled powered (bCore 0)
  { (s.setCore 0 { Core.reset with insnBase := 0, insnCount := 2, ahead := [(w, false)] }) with mem := memWrite [] 0 (leBytes 16 w) }
/-- A balance that covers any price for an agent. -/
def rich (s : State) (agent : Nat) : State := s.setAgentUse agent { AgentUse.reset with balance := 2 ^ 40 }
/-- `stream` with a balance for the core, which no logical core names. -/
def paid (w : Nat) : State := rich (stream w) 1024
/-- A control instruction word: operation, SD, SA, UNITS, IMM, OFFSET. -/
def ctlWord (op sd sa units imm off : Nat) : Nat :=
  16 * op + 2 ^ 8 * sd + 2 ^ 12 * sa + 2 ^ 16 * units + 2 ^ 32 * imm + 2 ^ 64 * off
/-- The host window open while the companion link is down: its reads wait. -/
def shut (s : State) : State :=
  let t := s.setFld bNcl 0x100 16 15 1
  t.setNcl { t.ncl with windowEn := true, up := false }

/-! ### States that meet the hypotheses of the statements, clause by clause -/

/-- A block in a given state. -/
def blockIn (s : State) (n : Nat) (st : BlkState) : State := s.setBlk n { s.blk n with state := st }

theorem hyps_FrontCommandRuns : ∃ s : State, s.pending = [.flush, .mbxPop] :=
  ⟨{ State.reset with pending := [.flush, .mbxPop] }, rfl⟩
theorem hyps_EmptyQueueIdles : State.reset.pending = [] := rfl
/-- A command waits, the memory is canonical and the step answers a next state: the premises of three statements. -/
theorem hyps_StepKeepsMemoryCanonical :
    ∃ s t : State, s.pending = [.flush, .mbxPop] ∧ Memory.wf s.mem = true ∧ step s = .next t :=
  ⟨{ powered with pending := [.flush, .mbxPop], mem := [(3, 7)] }, _, rfl, rfl, rfl⟩
theorem hyps_NoCommandWritesRomOrEeprom : ∃ s t : State, step s = .next t :=
  ⟨{ powered with pending := [.coldReset] }, _, rfl⟩
theorem hyps_QueueStaysInOrder : ∃ s t : State, s.pending = [.flush, .mbxPop] ∧ step s = .next t :=
  ⟨{ powered with pending := [.flush, .mbxPop] }, _, rfl, rfl⟩
theorem hyps_ColdResetKeepsFlashAndEeprom : powered.power.flushing = none := rfl
/-- A flush under way with a reset that waits for its end. -/
def resetWaits (k : ResetKind) : State := { flushes with power := { flushes.power with resetPending := some (k, goodBoot) } }
theorem hyps_ColdResetWaitsForTheFlush : flushes.power.flushing = some { reason := 3, turn := 0 }
    ∧ (resetWaits .cold).power.flushing = some { reason := 3, turn := 0 }
    ∧ (resetWaits .cold).power.resetPending = some (.cold, goodBoot)
    ∧ flushes.power.resetPending = none := ⟨rfl, rfl, rfl, rfl⟩
theorem hyps_WarmResetRequestsBoot : linked.power.held = false ∧ linked.power.flushing = none ∧ linked.ncl.up = true
    ∧ flushes.power.held = false ∧ flushes.power.flushing = some { reason := 3, turn := 0 }
    ∧ flushes.power.resetPending = none ∧ (2 : BitVec 32) ≠ linked.ncl.epoch := by decide +kernel
theorem hyps_PowerUpBootsOnce : State.reset.power.held = true ∧ powered.power.held = false := ⟨rfl, rfl⟩
/-- Images found at boot: an erased flash fails the first check, whether or not its read fails. -/
theorem hyps_PowerUpBootsOnce_boot : powered.imageReason powered.flashImage false = some 1
    ∧ powered.imageReason powered.flashImage true = some 1 := by decide +kernel
theorem hyps_PowerWarningFreezesTheSheets : powered.power.held = false ∧ powered.power.warning = false
    ∧ { powered.power with warning := true }.warning = true := ⟨rfl, rfl, rfl⟩
theorem hyps_FatalErrorsStopIssue : powered.power.held = false ∧ flushes.power.held = false := ⟨rfl, rfl⟩
theorem hyps_EnableMovesTheBlock : powered.reachable (bCore 8) = false ∧ powered.reachable 0xFFFF = false
    ∧ powered.reachable (bEng 0) = true ∧ blockOf (bEng 0) = some (.eng, 0) ∧ (powered.engine 0).arrayFault = false
    ∧ (powered.blk (bEng 0)).state = .disabled ∧ ((enabled powered (bEng 0)).blk (bEng 0)).state = .enabled
    ∧ ((blockIn powered (bEng 0) .enabling).blk (bEng 0)).state = .enabling
    ∧ ((blockIn powered (bEng 0) .disabling).blk (bEng 0)).state = .disabling
    ∧ (blockIn powered (bEng 0) .disabling).disableDone (bEng 0) = true
    ∧ (let s := enabled powered (bEng 0)
      (s.setEngine 0 { s.engine 0 with arrayFault := true }).reachable (bEng 0) = true)
    ∧ powered.reachable (bBankCore 0) = true ∧ bankBlock (bBankCore 0) = some (false, 0)
    ∧ (powered.blk (bBankCore 0)).state = .disabled ∧ bankBlock (bEng 0) = none := by decide +kernel
theorem hyps_SnapshotsCopyTheLiveCounters : powered.reachable (bCore 0) = true
    ∧ blockOf (bCore 0) = some (.core, 0) ∧ 0x140 ∈ Kind.core.holds ∧ bEng 0 ∈ allBlocks
    ∧ powered.reachable (bEng 0) = true ∧ bEng 0x7FF ∉ captureSet (bCore 0) := by decide +kernel
theorem hyps_WritesActByAccessCode :
    let s := enabled powered (bCore 0)
    let o : BitVec 16 := 0x100
    4 ≤ s.power.phase ∧ (s.hart 0).halted = false ∧ s.reachable (bCore 0) = true ∧ o.toNat % 8 = 0 ∧ blockOf (bCore 0) = some (.core, 0)
      ∧ s.namedRwd (bCore 0) .core 0 o.toNat 0x40 ≠ [] ∧ s.writable (bCore 0) .core o.toNat = false
      ∧ (∀ r ∈ s.fields .core 0 o.toNat, r.acc ≠ .RW ∧ r.acc ≠ .WC)
      ∧ powered.isDisabled (bCore 0) = true ∧ regKey (bCore 1) 0x100 ≠ regKey (bCore 0) 0x100
      ∧ powered.reachable (bBond 0) = true ∧ powered.reachable (bPlink 0) = true := by decide +kernel
/-- Writes that change nothing: a read-only register, a reserved value, and an offset that names no register. -/
theorem hyps_WritesActByAccessCode_reserved :
    let quiet (k : Kind) (u off : Nat) (v : Word64) : Bool := (powered.fields k u off).all fun r =>
      r.acc != .WC && ((r.acc != .RWD && r.acc != .RW) || reservedValue k r (bitsOf v.toNat r.lo r.width))
    blockOf (bCore 0) = some (.core, 0) ∧ blockOf (bCmp 8) = some (.cmp, 8)
      ∧ quiet .core 0 0x118 5 = true ∧ powered.fields .core 0 0x118 ≠ []
      ∧ quiet .core 0 0x3F8 5 = true ∧ powered.fields .core 0 0x3F8 = [] ∧ 0x3F8 ∉ Kind.core.holds
      ∧ quiet .cmp 8 0x100 5 = true := by decide +kernel
/-- Misaligned, narrow and unreachable accesses; a load that answers, one that waits for its bond port, and a halted core. -/
theorem hyps_UnreachableRegistersFault : 4 ≤ powered.power.phase ∧ powered.reachable (bCore 8) = false
    ∧ (0x104 : BitVec 16).toNat % 8 ≠ 0 ∧ (powered.hart 31).halted = false
    ∧ ((powered.setHart 31 { Hart.reset with halted := true }).hart 31).halted = true
    ∧ (let a : Word64 := 0x0F0000000000; regBase ≤ a.toNat ∧ a.toNat < regEnd ∧ a.toNat % 8 = 0
      ∧ powered.reachable ((a.toNat - regBase) / 65536) = true ∧ powered.cluWaits a.toNat = false)
    ∧ (let a : Word64 := BitVec.ofNat 64 (regBase + 65536 * bCore 0 + 0x128)
      powered.reachable ((a.toNat - regBase) / 65536) = true ∧ powered.cluWaits a.toNat = true)
    ∧ (let a : Word64 := 0x0F00FFFFFFF8; powered.reachable ((a.toNat - regBase) / 65536) = false) := by decide +kernel
/-- Addresses at both ends of the register region, misaligned, and one frame of a site without power. -/
theorem hyps_RegisterPortAnswers :
    (let a : Word64 := 0x0F0000000000; a.toNat % 8 = 0 ∧ regBase ≤ a.toNat ∧ a.toNat < regEnd
      ∧ State.reset.power.held = true ∧ powered.power.held = false
      ∧ powered.reachable ((a.toNat - regBase) / 65536) = true ∧ powered.cluWaits a.toNat = false)
    ∧ (let a : Word64 := BitVec.ofNat 64 (regBase + 65536 * bCore 0 + 0x128); powered.cluWaits a.toNat = true)
    ∧ (let a : Word64 := 0x0F00FFFFFFF8; a.toNat % 8 = 0 ∧ regBase ≤ a.toNat ∧ a.toNat < regEnd
      ∧ powered.reachable ((a.toNat - regBase) / 65536) = false ∧ powered.cluWaits a.toNat = false)
    ∧ ¬ ((0x0F0100000000 : Word64).toNat < regEnd) ∧ ¬ (regBase ≤ (0x0EFFFFFFFFF8 : Word64).toNat)
    ∧ (0x0F0000000001 : Word64).toNat % 8 ≠ 0 := by decide +kernel
theorem hyps_ControlWindowReservedOffsets : powered.ncl.up = false ∧ linked.ncl.up = true
    ∧ linked.windowReserved 0x3000 = true ∧ linked.windowReserved 0x3038 = true ∧ linked.windowReserved 0x100 = false
    ∧ linked.windowReserved 0xFFFF = true := by decide +kernel
/-- A record. -/
def aRecord : Record := { turn := 0, seq := 0, event := 0x0001, origin := 0, block := 0, unit := 0, arg0 := 0, arg1 := 0 }
/-- A sheet with one record waiting. -/
def sheetWaits (f : FreezeCause) : State := powered.setSheet 0 { Sheet.reset with queue := [aRecord], frozen := f }
theorem hyps_SheetsWriteInSequence : ((sheetWaits .none).sheet 0).queue = [aRecord] ∧ ((sheetWaits .none).sheet 0).frozen = .none
    ∧ ((sheetWaits .none).sheet 0).dropped = 0 ∧ (sheetWaits .powerWarning).power.fatal = false
    ∧ ((sheetWaits .powerWarning).sheet 0).frozen ≠ .none
    ∧ { powered.power with fatal := true }.fatal = true ∧ ([] : List Record).length < 64
    ∧ (let s := powered.setSheet 4 { (sheetWaits .none).sheet 0 with dropped := 1 }
      (s.sheet 4).queue = [aRecord] ∧ (s.sheet 4).frozen = .none ∧ (s.sheet 4).dropped ≠ 0)
    ∧ State.reset.power.held = true ∧ powered.power.held = false ∧ powered.power.flushing = none
    ∧ flushes.power.flushing = some { reason := 3, turn := 0 } := by decide +kernel
theorem hyps_AttestationNeedsIdentity : powered.security.busy = false ∧ powered.attestBusy = false
    ∧ (let s := powered.setNcl { powered.ncl with egress := [{ addr := hostBase, bytes := [0], poison := false, owner := .unit whoSecurity, completion := none }] }
      s.security.busy = false ∧ s.attestBusy = true)
    ∧ (let s : State := { powered with security := { powered.security with identityOk := true } }
      s.attestBusy = false ∧ s.hostFull s.reportAddr 3840 = false ∧ s.loader.busy = none
        ∧ ({ s with loader := { s.loader with busy := some .verify } } : State).attestBusy = false)
    ∧ (List.replicate 32 (0 : Byte)).length = 32
    ∧ powered.security.identityOk = false ∧ 8 ≤ powered.power.phase
    ∧ { powered.security with identityOk := true }.identityOk = true
    ∧ (72 ≤ (87 : Byte).toNat ∧ (87 : Byte).toNat < 88 ∧ (71 : Byte).toNat < 72 ∧ (98 : Byte).toNat < 99
      ∧ 99 ≤ (255 : Byte).toNat) := by decide +kernel

theorem hyps_RecoveryRunsAGoodImageOnly_refused :
    let s : State := { linked with security := { linked.security with recovWaiting := true } }
    powered.security.recovWaiting = false ∧ powered.security.recovReading = false ∧ powered.ncl.up = false
      ∧ s.security.recovWaiting = true ∧ s.ncl.up = true ∧ s.firmwareReason s.recoveryImage.2.data = some 1 := by
  decide +kernel
theorem hyps_FlashPortReadsAndUpdates : 8 ≤ powered.power.phase ∧ ([] : List Byte).length ≤ imageArea
    ∧ [(0xA5 : Byte), 0x5A].length ≤ imageArea := by decide +kernel
theorem hyps_TestPortHaltsHarts : powered.power.held = false ∧ State.reset.power.held = true
    ∧ ((powered.setHart 31 { Hart.reset with halted := true }).hart 31).halted = true
    ∧ TapOp.dmiBusWrite 8 0 ∈ [TapOp.dmiHalt 31, .dmiBusWrite 8 0] := by decide +kernel

/-! Instructions: a decidable form of `Presents`. -/

def presents (s : State) (core : Nat) (op : CoreOp) (w : Nat) : Bool :=
  s.coreIssues core && (match s.fetched core with
    | .word v => v == w
    | _ => false) && opOf w == some op
theorem presents_of {s : State} {core : Nat} {op : CoreOp} {w : Nat} (h : presents s core op w = true) :
    Presents s core op w := by
  unfold presents at h
  rw [Bool.and_eq_true, Bool.and_eq_true] at h
  refine ⟨h.1.1, ?_, by simpa using h.2⟩
  have h1 := h.1.2
  split at h1
  · rename_i v hv
    rw [hv, eq_of_beq h1]
  · cases h1

/-- `paid` with descriptor slots 0 to 3. -/
def withDesc (w : Nat) (ds : List Nat) : State :=
  let s := paid w
  s.setCore 0 { s.core 0 with desc := (List.range ds.length).zip (ds.map (BitVec.ofNat 256)) }
/-- A descriptor of a scratchpad tensor of extent 2 in dimension 0 (R131). -/
def descOf (fmt rank base : Nat) : Nat := fmt + 16 * (rank - 1) + 2 ^ 16 * 127 + 2 ^ 64 * base + 2 ^ 128
/-- Every bank of the scratchpad of core 0 serves addresses. -/
def serves (s : State) : State :=
  (List.range 32).foldl (fun a b => a.setBank (bBankCore 0) b { BankSt.reset with mode := 1, power := .on }) s

theorem hyps_InstructionsIssueRefuseOrWait :
    let empty := enabled powered (bCore 0)
    (Instr.halt 0, CoreOp.halt) ∈ coreRows 0 ∧ powered.coreIssues 0 = false ∧ powered.coreRuns 0 = false
      ∧ (let s := (stream 0x10).setCore 0 { (stream 0x10).core 0 with waiting := some 0 }
        s.coreRuns 0 = true ∧ s.coreIssues 0 = false)
      ∧ presents (stream 0x10) 0 .halt 0x10 = true ∧ CoreOp.halt ≠ CoreOp.nop
      ∧ empty.coreIssues 0 = true ∧ (empty.core 0).insnCount ≤ (empty.core 0).pc.toNat
      ∧ (let s := stream 0x10
        s.coreIssues 0 = true ∧ (s.core 0).pc.toNat < (s.core 0).insnCount
          ∧ (s.core 0).wordAt (s.core 0).pc.toNat = some (0x10, false) ∧ opOf 0x10 = some .halt)
      ∧ (let s := (stream 0x10).setCore 0 { (stream 0x10).core 0 with ahead := [(0x10, true)] }
        s.coreIssues 0 = true ∧ (s.core 0).wordAt (s.core 0).pc.toNat = some (0x10, true))
      ∧ (stream 0x07).coreIssues 0 = true ∧ ((stream 0x07).core 0).wordAt 0 = some (0x07, false) ∧ opOf 0x07 = none
      ∧ (let s := (stream 0x10).setCore 0 { (stream 0x10).core 0 with ahead := [] }
        let t := shut (s.setCore 0 { s.core 0 with insnBase := hostBase })
        s.coreIssues 0 = true ∧ (s.core 0).wordAt (s.core 0).pc.toNat = none ∧ s.hostWaits 0 32 = false
          ∧ t.coreIssues 0 = true ∧ (t.core 0).wordAt 0 = none ∧ t.hostWaits hostBase 32 = true) := by decide +kernel
/-- Source: R128. A word not yet fetched is fetched through the data cache before it issues. -/
theorem test_fetch_ahead :
    let s := (stream 0x10).setCore 0 { (stream 0x10).core 0 with ahead := [] }
    s.fetched 0 = .absent ∧ (s.fetchAhead 0).fetched 0 = .word 0x10 ∧ ((s.fetchAhead 0).core 0).ahead.length = 2 := by
  decide +kernel
theorem hyps_ControlInstructions :
    (∀ x ∈ [(0, CoreOp.nop), (1, .halt), (2, .sets), (3, .adds), (4, .loop), (5, .jump), (6, .barrier)],
      presents (stream (ctlWord x.1 2 3 0xFF 7 1)) 0 x.2 (ctlWord x.1 2 3 0xFF 7 1) = true)
    ∧ presents (stream (ctlWord 2 0 0 0 7 0)) 0 .sets (ctlWord 2 0 0 0 7 0) = true
    ∧ insnSa (ctlWord 4 2 3 0 7 1) = 3 ∧ insnSa (ctlWord 4 2 0 0 7 1) = 0 ∧ insnSd (ctlWord 2 0 0 0 7 0) = 0
    ∧ (stream (ctlWord 4 2 3 0 7 1)).branchTarget 0 (ctlWord 4 2 3 0 7 1) = some 1
    ∧ (stream (ctlWord 4 2 3 0 7 2)).branchTarget 0 (ctlWord 4 2 3 0 7 2) = none
    ∧ (stream (ctlWord 5 0 0 0 0 0)).branchTarget 0 (ctlWord 5 0 0 0 0 0) = some 0
    ∧ (stream (ctlWord 5 0 0 0 0 0xFFFFFFFF)).branchTarget 0 (ctlWord 5 0 0 0 0 0xFFFFFFFF) = none
    ∧ (stream (ctlWord 6 0 0 0xFF 0 0)).pendingOps 0 = [] ∧ ((stream 0).core 0).sigq = [] := by decide +kernel
/-- A barrier that waits: an incomplete drain, and a signal not yet applied. -/
theorem hyps_ControlInstructions_barrier :
    let w := ctlWord 6 0 0 0x80 0 0
    let s := stream w
    let d : DrainOp := { engine := 0, tile := 0, reduce := 0, transform := false, truncate := false, rows := 1, cols := 1
                         dst := (s.core 0).tensor (descOf 5 2 0), side := 64, satMode := false }
    let busy := s.setCore 0 { s.core 0 with drainq := [(0, d)] }
    let held := s.setCore 0 { s.core 0 with sigq := [{ seq := 0, units := 0, token := 0, value := 1 }] }
    presents busy 0 .barrier w = true ∧ (∃ p ∈ busy.pendingOps 0, unitIn (insnUnits w) p.unit = true)
      ∧ presents held 0 .barrier w = true ∧ (held.core 0).sigq ≠ [] := by decide +kernel
/-- A vector word in fp32 mode: VOP and VD 1, VA 2. -/
def vecWord (vop : Nat) : Nat := 4 + 2 ^ 8 * vop + 2 ^ 23 + 2 ^ 29
theorem hyps_VectorLanesAreWritten :
    (∀ x ∈ [(CoreOp.add, 0x00), (.sub, 0x01), (.mul, 0x02), (.fma, 0x03), (.min, 0x04), (.max, 0x05), (.abs, 0x06),
        (.neg, 0x07), (.sel, 0x08), (.exp, 0x10), (.log, 0x11), (.rcp, 0x12), (.rsqrt, 0x13), (.tanh, 0x14)],
      presents (paid (vecWord x.2)) 0 x.1 (vecWord x.2) = true ∧ vBf16 (vecWord x.2) = false
        ∧ (paid (vecWord x.2)).stallsFor 0 none none true [(4, 0, 1)] = 0
        ∧ (paid (vecWord x.2)).stallsFor 0 none none true [(5, 0, 1)] = 0
        ∧ presents (paid (vecWord x.2 + 2 ^ 16)) 0 x.1 (vecWord x.2 + 2 ^ 16) = true
        ∧ vBf16 (vecWord x.2 + 2 ^ 16) = true) := by decide +kernel
theorem hyps_VectorComparesAndReductions :
    ∀ x ∈ [(CoreOp.cmplt, 0x20), (.cmple, 0x21), (.cmpeq, 0x22), (.cmpne, 0x23), (.redsum, 0x30), (.redmax, 0x31)],
      presents (paid (vecWord x.2)) 0 x.1 (vecWord x.2) = true
        ∧ (paid (vecWord x.2)).stallsFor 0 none none true [(4, 0, 1)] = 0
        ∧ (paid (vecWord x.2)).stallsFor 0 none none true [(6, 0, 1)] = 0 := by decide +kernel
theorem hyps_LanesAndMasksKeepTheRest :
    (List.replicate 256 (none : OutLane)).length = vLanes (vecWord 0) ∧ 1023 < 1024 * 1 ∧ 1024 * 1 + 1024 ≤ 2048
      ∧ Memory.wf Core.reset.vregs = true ∧ 255 < vLanes (vecWord 0) ∧ 3 < (vFmt (vecWord 0)).size
      ∧ (7 : Nat) ≠ 0 ∧ (List.replicate 512 (some (true, false))).length ≤ 512 ∧ 511 < 512 := by decide +kernel
theorem hyps_VectorLoadAndStore :
    (∀ x ∈ [(CoreOp.vload, 0x40), (.vstore, 0x41)],
      let w := vecWord x.2
      let s := withDesc w [descOf 5 1 64]
      let bad := withDesc w [descOf 9 1 64]
      let t := (s.core 0).tensor (descOf 5 1 64)
      presents bad 0 x.1 w = true ∧ vTensor (bad.core 0) w = none ∧ presents s 0 x.1 w = true
        ∧ vTensor (s.core 0) w = some t ∧ t.extent 0 = 2 ∧ t.esize = 4 ∧ vRow (s.core 0) w < t.extent 1
        ∧ s.stallsFor 0 (vReach (s.core 0) w t) none true [(4, 0, 1)] = 0
        ∧ s.stallsFor 0 none (vReach (s.core 0) w t) true [(4, 0, 1)] = 0
        ∧ Memory.wf s.mem = true ∧ bitOf w 19 = false)
    ∧ (∀ b, b < 32 → (serves (withDesc 0x4104 [descOf 5 1 64])).bankServes (bBankCore 0) b = true)
    ∧ (serves (withDesc 0x4104 [descOf 5 1 64])).upsets = [] ∧ (serves (withDesc 0x4104 [descOf 5 1 64])).wire = []
    ∧ presents (serves (withDesc (vecWord 0x41) [descOf 5 1 64])) 0 .vstore (vecWord 0x41) = true := by decide +kernel
theorem hyps_MovesReadAllThenWrite_copy :
    let w := 0x05 + 2 ^ 40
    let s := serves (withDesc w [descOf 5 1 64, descOf 5 1 128])
    let gone := s.setCore 0 { s.core 0 with descPoison := [0] }
    let src := (s.core 0).tensor (descOf 5 1 64)
    let dst := (s.core 0).tensor (descOf 5 1 128)
    presents gone 0 .copy w = true ∧ (gone.core 0).slot (bitsOf w 32 8) = none
      ∧ presents s 0 .copy w = true ∧ (s.core 0).slot (bitsOf w 32 8) = some (descOf 5 1 64)
      ∧ (s.core 0).slot (bitsOf w 40 8) = some (descOf 5 1 128)
      ∧ moveCheck src = [] ∧ moveCheck dst = [] ∧ sameShape src dst = true ∧ src.is4 = false ∧ dst.is4 = false
      ∧ (let o : MoveOp := { seq := 0, srcs := [src], dst := dst, combine := none, truncate := false, satMode := false }
        s.stallBits 0 o.pending (decide ((s.core 0).moverq.length + (s.core 0).moves.length < 16)) (moveWork 0 o.srcs o.dst) = 0
          ∧ (s.core 0).moverq = []
          ∧ (let far (a : Nat) := (s.core 0).tensor (descOf 5 1 a)
            let q := s.setCore 0 { s.core 0 with moverq := [{ o with srcs := [far 1024], dst := far 2048 }] }
            (q.core 0).moverq ≠ [] ∧ presents q 0 .copy w = true
              ∧ q.stallBits 0 o.pending (decide (1 < 16)) (moveWork 0 o.srcs o.dst) = 0))
      ∧ s.tensorWaits src = false
      ∧ src.physical = false ∧ dst.physical = false ∧ dst.all = some (128, 136) ∧ src.rank = 1 ∧ dst.rank = 1
      ∧ s.destWaits dst = false ∧ s.upsets = [] ∧ s.wire = []
      ∧ Memory.wf s.mem = true ∧ 1 < dst.extent 0 ∧ (s.readKey (scratchKey 0 (src.addr 1 0 0 0).toNat) 4).anyPoison = false
      ∧ (∀ b, b < 32 → s.bankServes (bBankCore 0) b = true) := by decide +kernel
/-- A copy from the host window waits while the link is down. -/
theorem hyps_MovesReadAllThenWrite_waits :
    let w := 0x05 + 2 ^ 40
    let s := shut (withDesc w [descOf 5 1 hostBase + 2 ^ 12, descOf 5 1 128])
    let src := (s.core 0).tensor (descOf 5 1 hostBase + 2 ^ 12)
    let dst := (s.core 0).tensor (descOf 5 1 128)
    presents s 0 .copy w = true ∧ moveCheck src = [] ∧ moveCheck dst = [] ∧ sameShape src dst = true ∧ src.is4 = false
      ∧ s.stallBits 0 (MoveOp.pending { seq := 0, srcs := [src], dst := dst, combine := none, truncate := false, satMode := false })
        true (moveWork 0 [src] dst) = 0
      ∧ (s.core 0).moverq = [] ∧ s.tensorWaits src = true := by decide +kernel
theorem hyps_MovesReadAllThenWrite_combine :
    let w := 0x15 + 2 ^ 10 + 2 ^ 13 + 2 ^ 41
    let s := serves (withDesc w [descOf 5 1 64, descOf 5 1 128, descOf 5 1 192])
    let p (i : Nat) := (s.core 0).tensor (descOf 5 1 (64 + 64 * i))
    let dst := p 2
    presents s 0 .combine w = true ∧ bitOf w 9 = false ∧ bitsOf w 10 3 + 1 = 2 ∧ bitsOf w 13 3 + 1 = 2
      ∧ (∀ i, i < 2 → bitsOf w 32 8 + i ≤ 255 ∧ (s.core 0).slot (bitsOf w 32 8 + i) = some (descOf 5 1 (64 + 64 * i)))
      ∧ (s.core 0).slot (bitsOf w 40 8) = some (descOf 5 1 192) ∧ bitOf w 16 = false
      ∧ (∀ x ∈ [p 0, p 1], moveCheck x = [] ∧ x.fmt = 5 ∧ sameShape x (p 0) = true ∧ s.tensorWaits x = false
        ∧ x.physical = false ∧ x.is4 = false ∧ x.rank = 1)
      ∧ moveCheck dst = [] ∧ sameShape dst (p 0) = true ∧ dst.is4 = false ∧ dst.physical = false ∧ dst.rank = 1
      ∧ s.stallBits 0 (MoveOp.pending
          { seq := 0, srcs := [p 0, p 1], dst := dst, combine := some (false, 2, false), truncate := false, satMode := false })
        true (moveWork 0 [p 0, p 1] dst) = 0
      ∧ s.destWaits dst = false ∧ s.upsets = [] ∧ s.wire = []
      ∧ Memory.wf s.mem = true ∧ 1 < dst.extent 0
      ∧ (s.readKey (scratchKey 0 ((p 0).addr 1 0 0 0).toNat) 4).anyPoison = false
      ∧ (s.readKey (scratchKey 0 ((p 1).addr 1 0 0 0).toNat) 4).anyPoison = false
      ∧ (∀ b, b < 32 → s.bankServes (bBankCore 0) b = true) := by decide +kernel
/-- A stream record: 64 KiB steps of 512 bytes, three of them ahead (R151). -/
def streamDesc : Nat := 2 ^ 16 + 2 ^ 64 * 512 + 2 ^ 96 * 512 + 2 ^ 128 * 100 + 2 ^ 160 * 3
theorem hyps_PrefetchersStartAndStop :
    let w := 0x25 + 2 ^ 8 * 3
    let s := withDesc w [streamDesc]
    let gone := s.setCore 0 { s.core 0 with descPoison := [0] }
    presents gone 0 .startPrefetch w = true ∧ (gone.core 0).slot (bitsOf w 32 8) = none
      ∧ presents (withDesc w [streamDesc + 1]) 0 .startPrefetch w = true
      ∧ ((withDesc w [streamDesc + 1]).core 0).slot (bitsOf w 32 8) = some (streamDesc + 1)
      ∧ streamRecord (streamDesc + 1) = none
      ∧ presents s 0 .startPrefetch w = true ∧ (s.core 0).slot (bitsOf w 32 8) = some streamDesc
      ∧ streamRecord streamDesc = some
        { base := 65536, stepBytes := 512, stride := 512, count := 100, depth := 3, next := 0 }
      ∧ presents (stream (0x35 + 2 ^ 8 * 3)) 0 .stopPrefetch (0x35 + 2 ^ 8 * 3) = true := by decide +kernel

/-! Matrix units. -/

/-- Engine n enabled. -/
def withEng (s : State) (n : Nat) (x : Engine) : State := (enabled s (bEng n)).setEngine n x
def passAt (w : Nat) (comp : Bool) (fmt : Nat) : PassOp := (((withDesc w [descOf fmt 2 64]).core 0).passOf comp w).1

theorem hyps_MatrixInstructionsAreQueued_passes :
    ∀ x ∈ [(CoreOp.pass, false, 0x01, 0), (.compoundPass, true, 0x11, 9)],
      let w := x.2.2.1
      let s := withEng (withDesc w [descOf x.2.2.2 2 64]) 0 .reset
      let p := ((s.core 0).passOf x.2.1 w).1
      presents s 0 x.1 w = true ∧ ((s.core 0).passOf x.2.1 w).2 = [] ∧ 128 * p.dest + p.m ≤ 512
        ∧ pairCheck p (s.engine 0).issuedFmt0 = true ∧ p.bank = false ∧ splitOk (s.engine 0) p = true
        ∧ s.isEnabled (bEng 0) = true ∧ (s.engine 0).queue.length < 8
        ∧ s.stallsFor 0 (EngOp.reads (.pass p)) none true (p.work 0) = 0 := by decide +kernel
theorem hyps_MatrixInstructionsAreQueued_load :
    (let w := 0x02
      let s := withEng (withDesc w [descOf 0 2 64]) 0 .reset
      let t := (s.core 0).tensor (descOf 0 2 64)
      let reach := t.reach (0, 1) (0, 1) (0, 1) (0, 1)
      presents s 0 .weightLoad w = true ∧ (s.core 0).slot (bitsOf w 32 8) = some (descOf 0 2 64) ∧ bitsOf w 12 4 = 0
        ∧ scratchCheck t (loadFmt t.fmt) (decide (t.rank ≤ 2)) reach = [] ∧ targetOk t.fmt 0 = true
        ∧ s.isEnabled (bEng 0) = true ∧ (s.engine 0).queue.length < 8
        ∧ s.stallsFor 0 reach none true [(2, 0, 128)] = 0)
    ∧ (let w := 0x02 + 2 ^ 12 * 11
      presents (withDesc w [descOf 0 2 64]) 0 .weightLoad w = true ∧ 10 < bitsOf w 12 4)
    ∧ (let w := 0x02 + 2 ^ 12 * 10
      presents (withDesc w [descOf 0 2 64]) 0 .weightLoad w = true ∧ bitsOf w 12 4 ≤ 10 ∧ targetOk 0 10 = false) := by
  decide +kernel
theorem hyps_MatrixInstructionsAreQueued_vector_and_drain :
    (let w := 0x03 + 2 ^ 40
      let s := withDesc w [descOf 0 2 64, descOf 0 2 128]
      let a := (s.core 0).tensor (descOf 0 2 64)
      let b := (s.core 0).tensor (descOf 0 2 128)
      let ra := a.reach (0, 1) (0, 1) (0, 1) (0, 1)
      let rb := b.reach (0, 1) (0, 1) (0, 1) (0, 1)
      presents s 0 .matrixVector w = true ∧ (s.core 0).slot (bitsOf w 32 8) = some (descOf 0 2 64)
        ∧ (s.core 0).slot (bitsOf w 40 8) = some (descOf 0 2 128) ∧ bitsOf w 12 2 = 0
        ∧ scratchCheck a (decide (a.fmt ≤ 4)) (a.rank == 2) ra = [] ∧ scratchCheck b (loadFmt b.fmt) (b.rank == 2) rb = []
        ∧ pairOk a.fmt (mvWeightFmt a.fmt b.fmt) = true ∧ runFree (s.engine 0) [0] = true ∧ (s.core 0).mvq.length < 8
        ∧ s.stallsFor 0 (Span.hull ra rb) none true [(3, 0, ceilDiv 1 (mvColumns b.fmt))] = 0)
    ∧ (let w := 0x21 + 2 ^ 6 * 0 + 2 ^ 64 * 256
      let s := withDesc w [descOf 5 2 64]
      let d := (s.core 0).tensor (descOf 5 2 64)
      let o : DrainOp := { engine := 0, tile := 0, reduce := 0, transform := false, truncate := false, rows := 1, cols := 1
                           dst := d, side := 256, satMode := false }
      presents s 0 .drain w = true ∧ (s.core 0).slot (bitsOf w 32 8) = some (descOf 5 2 64) ∧ bitsOf w 12 2 = 0
        ∧ (s.core 0).plusReg (bitsOf w 64 22) (bitsOf w 56 4) = 256
        ∧ scratchCheck d (tileFmt d.fmt) (d.rank == 2) o.dstReach = [] ∧ o.side % 16 = 0
        ∧ o.side + o.sideLen ≤ 0x400000 ∧ runFree (s.engine 0) [0] = true ∧ (s.core 0).drainq.length < 8
        ∧ s.stallsFor 0 none o.writes true [(7, 0, 1)] = 0) := by decide +kernel

/-- A queue entry for a pass, a load and a drain of core 0. -/
def aPass : PassOp := passAt 0x01 false 0
def aLoad : LoadOp := { src := aPass.act, target := 0, orient := false, k0 := 0, n0 := 0, kw := 1, nw := 1, bank := false
                        satMode := false }
def aDrain : DrainOp := { engine := 0, tile := 0, reduce := 0, transform := false, truncate := false, rows := 1, cols := 1
                          dst := (Core.reset.tensor (descOf 5 2 64)), side := 256, satMode := false }
def anMv : MvOp := { engine := 0, tile := 0, acc := .zero, act := aPass.act, weight := aPass.act, preload := none, m := 1
                     kv := 1, nv := 1, row0 := 0, k0 := 0, n0 := 0, satMode := false }
/-- A queue entry with nothing done. -/
def entry (op : EngOp) (started : Bool) : QEntry :=
  { seq := 0, op := op, started := started, fed := 0, loads := 0, backs := [], num := 0 }
/-- Engine 0 with one operation, enabled or not. -/
def engHas (s : State) (op : EngOp) (started : Bool) : State := withEng s 0 { Engine.reset with queue := [entry op started] }
/-- A compound pass over fp32, and a pass of a run at its first slot, its last slot and one that preloads. -/
def aCompound : PassOp := { aPass with
  compound := true, act := { aPass.act with fmt := 9 }, weight := some { aPass.act with fmt := 9 } }
def aSlot (idx : Nat) (last : Bool) (acc : AccSource) : PassOp :=
  { aPass with split := true, runIdx := idx, last := last, acc := acc, preload := some { aPass.act with fmt := 5 } }
theorem hyps_MatrixUnitsStartTheirWork_engine :
    (let q := entry (.pass aPass) false
      let s := engHas (serves powered) (.pass aPass) false
      let off := s.setBlk (bEng 0) .reset
      let comp := engHas (serves powered) (.pass aCompound) false
      (s.engine 0).nextOp = some q ∧ s.engineRuns 0 = true ∧ s.passMayStart 0 q aPass = true ∧ s.feedLimit 0 q aPass = aPass.m
        ∧ off.engineRuns 0 = false ∧ (off.engine 0).nextOp = some q
        ∧ aPass.compound = false ∧ aPass.nv ≤ 128 ∧ 0 < aPass.m ∧ aCompound.compound = true
        ∧ comp.engineRuns 0 = true ∧ comp.passMayStart 0 (entry (.pass aCompound) false) aCompound = true)
    ∧ (let q := entry (.load aLoad) false
      let s := engHas (serves powered) (.load aLoad) false
      (s.engine 0).nextOp = some q ∧ s.engineRuns 0 = true ∧ loadMayStart (s.engine 0) q aLoad.bank = true
        ∧ (s.setBlk (bEng 0) .reset).engineRuns 0 = false ∧ aLoad.kw ≤ 127 ∧ aLoad.nw ≤ 127) := by decide +kernel
theorem hyps_MatrixUnitsStartTheirWork_core :
    let s := serves powered
    let mv := s.setCore 0 { Core.reset with mvq := [(0, anMv)] }
    let dr := s.setCore 0 { Core.reset with drainq := [(0, aDrain)] }
    (mv.core 0).mvq = [(0, anMv)] ∧ (mv.tilesFree 0 0 [(0, 0)] && mv.siteIssues 0) = true ∧ anMv.nv ≤ 128
      ∧ State.reset.siteIssues 0 = false
      ∧ (dr.core 0).drainq = [(0, aDrain)] ∧ (dr.tilesFree 0 0 [(0, 0)] && dr.siteIssues 0) = true
      ∧ aDrain.dst.is4 = false ∧ aDrain.writes = some (64, 272) := by decide +kernel
/-- Rows fed by a plain pass, a compound pass with no row held back, a push into a slot tile and an addition to it. -/
theorem hyps_MatrixUnitsLeaveTheirResults_passes :
    (∀ p ∈ [aPass, aCompound, aSlot 1 false .zero, aSlot 2 false .zero],
      let q := entry (.pass p) false
      let s := engHas (serves powered) (.pass p) false
      s.upsets = [] ∧ s.wire = [] ∧ Memory.wf s.mem = true ∧ (∀ b, b < 32 → s.bankServes (bBankCore 0) b = true)
        ∧ (s.engine 0).nextOp = some q ∧ s.engineRuns 0 = true ∧ s.passMayStart 0 q p = true ∧ p.kv ≤ 128 ∧ p.nv ≤ 128
        ∧ p.m ≤ s.feedLimit 0 q p ∧ (p.target true 0).2 ≠ .preload ∧ s.poison = [] ∧ (s.engine 0).accPoison = []
        ∧ (∀ r ∈ (s.engine 0).queue, q.seq ≤ r.seq) ∧ 0 < p.m ∧ 0 < p.nv)
    ∧ (aPass.compound = false ∧ aCompound.compound = true ∧ aCompound.weight = some { aPass.act with fmt := 9 }
      ∧ (engHas (serves powered) (.pass aCompound) false).feedLimit 0 (entry (.pass aCompound) false) aCompound = aCompound.m
      ∧ ({ aPass.act with fmt := 9 } : Tensor).is4 = false
      ∧ (∀ b ∈ ([[], []] : List (List ReadBack)), b = []))
    ∧ (let s := engHas (serves powered) (.pass aPass) false
      ∀ n1 : Bool, (added n1 none (dot n1 false [termOf .e4m3 aPass.act (actAt s 0 aPass 0 0)]
        (((s.engine 0).bank0.columns aPass.kv aPass.nv).getD 0 []))).2 = false) := by decide +kernel
/-- Passes of a run whose rows are fed: after slot 1, after the last slot, and one that preloads. -/
theorem hyps_MatrixUnitsLeaveTheirResults_runs :
    ∀ p ∈ [aSlot 1 false .zero, aSlot 7 true .zero, aSlot 0 true .preload, aSlot 15 true .zero],
      let q : QEntry := { entry (.pass p) true with fed := p.m }
      let s := withEng (serves powered) 0 { Engine.reset with queue := [q] }
      (∀ b, b < 32 → s.bankServes (bBankCore 0) b = true) ∧ (s.engine 0).arrayFault = false
        ∧ (s.engine 0).queue.find? (fun r => r.started && r.op.isPass) = some q ∧ q.steps = []
        ∧ s.tilesFree 0 q.seq (q.tilesLeft.map fun j => (0, j)) = true ∧ p.split = true ∧ p.m ≤ 128 ∧ p.nv ≤ 128
        ∧ p.runIdx < 16 ∧ (s.engine 0).accPoison = [] ∧ s.poison = [] ∧ p.preload.isSome = true := by decide +kernel
/-- Elements 127 of a load, of a matrix-vector result and of a drain. -/
theorem hyps_MatrixUnitsLeaveTheirResults_units :
    (let l : LoadOp := { aLoad with kw := 128, nw := 128 }
      let s := engHas (serves powered) (.load l) false
      (∀ b, b < 32 → s.bankServes (bBankCore 0) b = true) ∧ (s.engine 0).nextOp = some (entry (.load l) false)
        ∧ s.engineRuns 0 = true ∧ loadMayStart (s.engine 0) (entry (.load l) false) l.bank = true ∧ 127 < l.kw ∧ 127 < l.nw)
    ∧ (let s := serves powered
      let o : MvOp := { anMv with m := 16, nv := 128 }
      let mv := s.setCore 0 { Core.reset with mvq := [(0, o)] }
      (mv.core 0).mvq = [(0, o)] ∧ mv.tilesFree 0 0 [(0, 0)] = true ∧ mv.siteIssues 0 = true ∧ o.nv ≤ 128
        ∧ (o.acc = .preload → o.preload.isSome = true) ∧ 15 < o.m ∧ 127 < o.nv ∧ mv.upsets = [] ∧ mv.wire = []
        ∧ (added false (startOf mv 0 (mv.engine 0) o.acc o.preload 0 o.nv 0 0 false)
          (dot false false [termOf .e4m3 o.act (standing mv 0 o.act 0 0 0)]
            [termOf .e4m3 o.weight (weightAt mv 0 o.weight .e4m3 true 0 0 0 0 false)])).2 = false)
    ∧ (let s := serves powered
      let o : DrainOp := { aDrain with reduce := 2, rows := 2, cols := 2, side := 4096 }
      let dr := s.setCore 0 { Core.reset with drainq := [(0, o)] }
      let at' (i : Nat) := scratchKey 0 (o.dst.addr 0 i 0 0).toNat
      (dr.core 0).drainq = [(0, o)] ∧ dr.tilesFree 0 0 [(0, 0)] = true ∧ dr.siteIssues 0 = true ∧ 1 ≤ o.rows ∧ o.rows ≤ 128
        ∧ o.cols ≤ 128 ∧ (dr.engine 0).accPoison = [] ∧ o.dst.is4 = false ∧ o.tile < 4 ∧ o.engine < 4 ∧ o.reduce ≠ 0
        ∧ 0 < o.dst.extent 1 ∧ 0 < Nat.min o.cols (o.dst.extent 0) ∧ 3 < (o.dst.format.getD .fp32).size
        ∧ at' 0 + 8 ≤ scratchKey 0 o.side) := by decide +kernel
theorem hyps_MatrixUnitsCompleteOrWait :
    let q := entry (.pass aPass) true
    let done := withEng powered 0 { Engine.reset with queue := [{ q with fed := aPass.m }] }
    let run := withEng powered 0 { Engine.reset with queue := [{ entry (.pass (aSlot 1 false .zero)) true with fed := 1 }] }
    let l := entry (.load aLoad) true
    let wait : Nat × Nat × Nat := (8, 0, 0)
    let seen := (withEng powered 0 { Engine.reset with queue := [q], waitSeen := [(wait, 0)] }).setFld (bEng 0) 0x100 8 16 1
    let late : State := { seen with turns := { seen.turns with elapsed := 1 } }
    let noted : State := late.setEngine 0 { late.engine 0 with waitLong := [wait] }
    let drains (s : State) := s.setCore 0 { Core.reset with drainq := [(0, aDrain)] }
    let held := drains (withEng powered 0 { Engine.reset with queue := [{ q with seq := 1 }] })
    let merge := drains (withEng powered 0 { Engine.reset with queue :=
      [{ entry (.pass (aSlot 1 false .zero)) true with fed := 1, seq := 1 }] })
    let freeFor (s : State) (p : PassOp) (n : Nat) := s.tilesFree 0 n ((EngOp.tiles (.pass p)).map fun j => (0, j))
    (withEng powered 0 { Engine.reset with arrayFault := true }).engine 0 = { Engine.reset with arrayFault := true }
      ∧ (powered.engine 0).queue.find? (fun r => r.started && r.op.isPass) = none
      ∧ (powered.engine 0).queue.find? (fun r => r.started && !r.op.isPass) = none
      ∧ (done.engine 0).arrayFault = false ∧ aPass.m = 1 ∧ aPass.split = false
      ∧ (done.engine 0).queue.find? (fun r => r.started && r.op.isPass) = some { q with fed := aPass.m }
      ∧ QEntry.steps { q with fed := aPass.m } = []
      ∧ (run.engine 0).queue.find? (fun r => r.started && r.op.isPass)
        = some { entry (.pass (aSlot 1 false .zero)) true with fed := 1 }
      ∧ QEntry.steps { entry (.pass (aSlot 1 false .zero)) true with fed := 1 } = [] ∧ freeFor run (aSlot 1 false .zero) 0 = true
      ∧ freeFor merge (aSlot 1 false .zero) 1 = false
      ∧ ((engHas powered (.load aLoad) true).engine 0).queue.find? (fun r => r.started && !r.op.isPass) = some l
      ∧ (engHas powered (.pass aPass) true).feedLimit 0 q aPass = aPass.m ∧ q.fed < aPass.m ∧ freeFor held aPass 1 = false
      ∧ held.feedLimit 0 { q with seq := 1 } aPass = 0 ∧ held.engineWaits 0 = [((7, 1, 0), 0)]
      ∧ late.engineWaits 0 = [(wait, 0)] ∧ late.fld (bEng 0) 0x100 8 16 ≠ 0 ∧ (late.engine 0).arrayFault = false
      ∧ wait ∉ (late.engine 0).waitLong ∧ late.waitStart 0 wait + late.fld (bEng 0) 0x100 8 16 ≤ late.elapsed
      ∧ (∀ w ∈ noted.engineWaits 0, w.1 ∈ (noted.engine 0).waitLong)
      ∧ (∀ w ∈ seen.engineWaits 0, seen.elapsed < seen.waitStart 0 w.1 + seen.fld (bEng 0) 0x100 8 16)
      ∧ powered.fld (bEng 0) 0x100 8 16 = 0 := by decide +kernel

/-! Tokens. -/

/-- Core 0 is logical core 0, with both rights to the tokens 0 to 15; token block 0 enabled. -/
def owns (s : State) : State :=
  enabled { s with
    dieMap := [(0, 0)], allots := [(0, [{ first := 0, last := 15, wait := true, signal := true }])] } (bTok 0)
/-- Words of WAIT and SIGNAL for a token, with VALUE 1. -/
def tokWord (op token value : Nat) : Nat := 6 + 16 * op + 2 ^ 16 * token + 2 ^ 32 * value
theorem hyps_TokenInstructionsLeaveTheCore :
    let g : SigEntry := { seq := 1, units := 0x80, token := 3, value := 1 }
    let s (op token value : Nat) := owns (stream (tokWord op token value))
    let full := (s 1 3 1).setCore 0 { (s 1 3 1).core 0 with sigq := List.replicate 16 g }
    let late := powered.setCore 0 { Core.reset with drainq := [(0, aDrain)], sigq := [g] }
    presents (s 0 15 1) 0 .wait (tokWord 0 15 1) = true ∧ (s 0 15 1).tokenAllowed 0 15 1 true = true
      ∧ presents (s 0 16 1) 0 .wait (tokWord 0 16 1) = true ∧ (s 0 16 1).tokenAllowed 0 16 1 true = false
      ∧ presents (s 0 15 0) 0 .wait (tokWord 0 15 0) = true ∧ (s 0 15 0).tokenAllowed 0 15 0 true = false
      ∧ presents (s 1 3 1) 0 .signal (tokWord 1 3 1) = true ∧ (s 1 3 1).tokenAllowed 0 3 1 false = true
      ∧ ((s 1 3 1).core 0).sigq.length < 16 ∧ presents full 0 .signal (tokWord 1 3 1) = true
      ∧ full.tokenAllowed 0 3 1 false = true ∧ 16 ≤ (full.core 0).sigq.length
      ∧ presents (s 1 16 1) 0 .signal (tokWord 1 16 1) = true ∧ (s 1 16 1).tokenAllowed 0 16 1 false = false
      ∧ (powered.core 0).sigq = [] ∧ (full.core 0).sigq = g :: List.replicate 15 g
      ∧ (∀ p ∈ full.pendingOps 0, p.seq < g.seq → unitIn g.units.toNat p.unit = false)
      ∧ (full.site (0 / 8)).status ≠ .quarantined
      ∧ (let dead := full.setSite 0 { full.site 0 with status := .quarantined }
        (dead.core 0).sigq = g :: List.replicate 15 g ∧ (dead.site (0 / 8)).status = .quarantined
          ∧ ∀ p ∈ dead.pendingOps 0, p.seq < g.seq → unitIn g.units.toNat p.unit = false)
      ∧ (late.core 0).sigq = [g]
      ∧ (∃ p ∈ late.pendingOps 0, p.seq < g.seq ∧ unitIn g.units.toNat p.unit = true) := by decide +kernel
theorem hyps_TokenOperations :
    (5 : W32).toNat ≤ 5 ∧ 4 < (5 : W32).toNat
    ∧ Map.wf Token.reset (powered.setToken 65535 { Token.reset with count := BitVec.allOnes 32 }).tokens = true
    ∧ (let s := owns powered
      let deep := s.setToken 15 { Token.reset with count := 7 }
      let feeds : State := { s with allots := [(agIntake 0, [{ first := 15, last := 15, wait := true, signal := true }])] }
      s.isEnabled (bTok (tokTile 15)) = true ∧ 0 / 65536 = 0 ∧ agIntake 0 / 65536 ≠ 0 ∧ feeds.hasRight (agIntake 0) 15 true = true
        ∧ (1 : W32) ≤ (deep.token 15).count ∧ ¬ ((8 : W32) ≤ (deep.token 15).count) ∧ tokTile 15 = 0 ∧ (1 : W32) ≠ 0
        ∧ (let sent : State := { s with tokMsgs := [.signal 0 15 1, .wait (agIntake 0) 15 1] }
          sent.tokNext (.signal 0 15 1) = true ∧ sent.tokNext (.wait (agIntake 0) 15 1) = true
            ∧ sent.tokenQuarantine 0 = none ∧ sent.tokenQuarantine (agIntake 0) = none)
        ∧ powered.isDisabled (bTok (tokTile 16383)) = true ∧ tokTile 16383 = 0 ∧ tokTile 16384 = 1) := by decide +kernel
theorem hyps_TokenBlocksHoldAndRefuse :
    powered.isEnabled (bTok (tokTile 3)) = false ∧ tokTile 3 = 0 ∧ tokTile 16384 ≠ 0 ∧ (1 : W32) ≠ 0
      ∧ (owns powered).isEnabled (bTok (tokTile 3)) = true ∧ agIntake 0 / 65536 ≠ 0
      ∧ (owns powered).hasRight (agIntake 0) 3 false = false ∧ (owns powered).isDisabled (bTok 0) = false
      ∧ 5 / 65536 = 0 ∧ agIntake 3 / 65536 = 2 ∧ agSweep 3 / 65536 = 3 ∧ agSave / 65536 = 4
      ∧ powered.withdraws 0 = false ∧ powered.withdrawalOf 0 = none
      ∧ powered.tokNext (.signal 0 3 1) = false ∧ powered.tokNext (.wait 0 3 1) = false ∧ powered.tokNext (.grant 0) = false
      ∧ (let s : State := { powered with dieMap := [(0, 0)], tokMsgs := [.signal 0 3 1, .wait 1 3 1, .grant 0] }
        let gone := s.setSite 0 { s.site 0 with status := .quarantined }
        s.tokNext (.signal 0 3 1) = true ∧ s.tokNext (.wait 1 3 1) = true ∧ s.tokNext (.grant 0) = true
          ∧ s.tokenQuarantine 0 = none ∧ s.tokenQuarantine 1 = none
          ∧ gone.tokNext (.signal 0 3 1) = true ∧ gone.tokNext (.wait 1 3 1) = true ∧ gone.tokenQuarantine 0 = some 0
          ∧ gone.tokenQuarantine 1 = some 0)
      ∧ (let s : State := { powered.setCore 0 { Core.reset with withdrawing := true } with
            dieMap := [(0, 0)], tokMsgs := [.withdrawal 0 3] }
        s.withdraws 0 = true ∧ s.withdrawalOf 0 = some 3 ∧ s.tokNext (.withdrawal 0 3) = true) := by decide +kernel

/-! The layout loader. -/

/-- A verified image at address 0 with given directory lines. -/
def verifiedBy (dirs : List (Nat × Nat × List Byte)) : State :=
  { powered with loader := { Loader.reset with verified := true, dirs := dirs } }
/-- Six lines, the last of them the energy section. -/
def energyLine (x : Nat × Nat × List Byte) : List (Nat × Nat × List Byte) := List.replicate 5 (0, 0, []) ++ [x]
theorem hyps_LayoutCommands_refused :
    let away := powered.setFld bLayout 0x100 6 46 (scratchBase / 64)
    let bad : State := { verifiedBy (energyLine (0, 16, [])) with poison := [0] }
    inImageMemory (away.fld bLayout 0x100 6 46 * 64) 128 = false ∧ powered.loader.verified = false ∧ 9 ≤ powered.power.phase
      ∧ State.reset.power.phase < 9 ∧ Instr.siteOnly 511 63 ∈ [.verify, .layoutLoad 511, .siteOnly 511 63]
      ∧ powered.security.asked = [] ∧ powered.loader.busy = none
      ∧ (verifiedBy []).loader.verified = true ∧ ¬ ((51 : Nat) < 51) ∧ 51 < (52 : BitVec 6).toNat
      ∧ bad.loader.verified = true
      ∧ (State.readRun { bad with loader := { bad.loader with refused := false, code := 0, ignored := false } } whoLoader 0
          16).2.anyPoison = true := by decide +kernel
/-- A token section of one range: tokens 15 to 16, of core 0, with both rights and a count of 7. -/
def tokData : List Byte :=
  leBytes 4 1 ++ List.replicate 60 0 ++ leBytes 2 15 ++ leBytes 2 1 ++ leBytes 1 0 ++ leBytes 1 3 ++ leBytes 2 0 ++ leBytes 4 7
    ++ List.replicate 52 0
def blankMem : List Host.Cell := memWrite [] 65536 tokData
/-- Where the nine sections lie, in rows of 64 bytes from an address on: zeros, but for the tokens. -/
def blankRuns : List (Nat × Nat) := [(0, 1), (0, 97), (0, 1), (0, 208), (1024, 2), (0, 16), (0, 1), (0, 1), (0, 1)]
/-- A section whose digest stands for itself. -/
def blankLine (x : Nat × Nat) : Nat × Nat × List Byte := (64 * x.1, 64 * x.2, shake256 (memRead blankMem (64 * x.1) (64 * x.2)) 32)
/-- A verified image of such sections; logical die 0 at site 0 and core 0 in use. -/
def blankLayout : State :=
  { verifiedBy (blankRuns.map blankLine) with
    mem := blankMem, dieMap := [(0, 0)]
    loader :=
      { (verifiedBy (blankRuns.map blankLine)).loader with
        dieMapLoaded := true, stages := [(0, 0)], mapVerified := List.replicate 48 0, mapRecorded := List.replicate 48 0
        recorded := (List.range 8).map fun i => (i + 2, ((blankRuns.map blankLine).getD (i + 1) (0, 0, [])).2.2) } }
theorem blankMem_wf : Memory.wf blankMem = true := Memory.wf_memWrite _ _ rfl
theorem blank_lines (ty : Nat) (h1 : 1 ≤ ty) (h9 : ty ≤ 9) :
    ∃ a n, (blankLayout.loader.dirs.getD (ty - 1) (0, 0, [])) = blankLine (a, n) ∧ 64 * a + 64 * n ≤ hbmEnd
      ∧ blankRuns.getD (ty - 1) (0, 0) = (a, n) := by
  have hl : ty - 1 < blankRuns.length := by change ty - 1 < 9; omega
  refine ⟨(blankRuns[ty - 1]).1, (blankRuns[ty - 1]).2, ?_, ?_, ?_⟩
  · show (blankRuns.map blankLine).getD (ty - 1) (0, 0, []) = _
    rw [List.getD_eq_getElem _ _ (by simpa using hl), List.getElem_map]
  · have : ∀ x ∈ blankRuns, 64 * x.1 + 64 * x.2 ≤ hbmEnd := by decide +kernel
    exact this _ (List.getElem_mem hl)
  · rw [List.getD_eq_getElem _ _ hl]
/-- Every section is read whole and matches its digest; the die map has 64 bytes, the memory map 13,312, the tokens theirs. -/
theorem hyps_LayoutCommands_sections (ty : Nat) (h1 : 1 ≤ ty) (h9 : ty ≤ 9) :
    let s := blankLayout
    let line := s.loader.dirs.getD (ty - 1) (0, 0, [])
    let r := State.readRun { s with loader := { s.loader with refused := false, code := 0, ignored := false } } whoLoader
      (s.loader.base + line.1) line.2.1
    s.loader.verified = true ∧ r.2.anyPoison = false ∧ shake256 r.2.data 32 = line.2.2
      ∧ (ty = 1 → r.2.data.length = 64) ∧ (ty = 4 → r.2.data.length = 13312) ∧ (ty = 5 → r.2.data = tokData) := by
  intro s line r
  obtain ⟨a, n, he, hn, hb⟩ := blank_lines ty h1 h9
  have hp : State.Plain { s with loader := { s.loader with refused := false, code := 0, ignored := false } } blankMem :=
    ⟨rfl, rfl, rfl, rfl, rfl, rfl⟩
  have hr : r.2 = PBytes.clean (memRead blankMem (64 * a) (64 * n)) := by
    have h := (readRun_plain hp blankMem_wf whoLoader a n hn).1
    show (State.readRun _ whoLoader (s.loader.base + line.1) line.2.1).2 = _
    have hl : line = blankLine (a, n) := he
    rw [hl, show s.loader.base + (blankLine (a, n)).1 = 64 * a from Nat.zero_add _]
    exact h
  have hlen : r.2.data.length = 64 * n := by rw [hr, data_clean, length_memRead]
  refine ⟨rfl, by rw [hr, anyPoison_clean], ?_, ?_, ?_, ?_⟩
  · rw [hr, data_clean]
    exact (congrArg (fun x => x.2.2) he).symm
  · rintro rfl
    rw [hlen, ← show (blankRuns.getD 0 (0, 0)).2 = n from congrArg Prod.snd hb]
    rfl
  · rintro rfl
    rw [hlen, ← show (blankRuns.getD 3 (0, 0)).2 = n from congrArg Prod.snd hb]
    rfl
  · rintro rfl
    have ha : 1024 = a := congrArg Prod.fst hb
    have hn2 : 2 = n := congrArg Prod.snd hb
    subst ha hn2
    rw [hr, data_clean]
    have := memRead_memWrite_same (m := []) rfl 65536 tokData
    rwa [show tokData.length = 128 from by decide +kernel] at this
/-- What each section's load asks of its targets: every block of site 0 takes writes, and one that is enabled or lies on a
site without power does not. -/
theorem hyps_LayoutCommands_targets :
    let s := blankLayout
    (∀ k, k < 4 → s.keepsOut (bMesh k) = false ∧ s.keepsOut (bTok k) = false ∧ s.keepsOut (bBankTile k) = false)
      ∧ (enabled s (bMesh 3)).keepsOut (bMesh 3) = true ∧ (enabled s (bTok 3)).keepsOut (bTok 3) = true
      ∧ (enabled s (bBankTile 3)).keepsOut (bBankTile 3) = true
      ∧ (∀ c, c < 384 → s.physCore c = if c < 8 then some c else none)
      ∧ (∀ c, c < 8 → s.keepsOut (bCore c) = false ∧ s.keepsOut (bBankCore c) = false)
      ∧ (∀ e, e < 32 → s.keepsOut (bEng e) = false) ∧ (enabled s (bCore 7)).keepsOut (bCore 7) = true
      ∧ (enabled s (bEng 31)).keepsOut (bEng 31) = true ∧ (enabled s (bBankCore 7)).keepsOut (bBankCore 7) = true
      ∧ (∀ i, i < 16 → s.keepsOut (bItk i) = false) ∧ (enabled s (bItk 15)).keepsOut (bItk 15) = true
      ∧ s.keepsOut bNrg = false ∧ (enabled s bNrg).isDisabled bNrg = false ∧ s.upsets = []
      ∧ s.loader.dieMapLoaded = true ∧ (verifiedBy []).loader.dieMapLoaded = false
      ∧ (∀ x ∈ s.dieMap, (s.site x.2).status = .service) ∧ Map.wf Token.reset s.tokens = true
      ∧ (∀ e ∈ s.loader.stages, ∀ f ∈ s.loader.stages, f.1 = e.1) ∧ s.power.phase = 9 := by decide +kernel
theorem hyps_LayoutCommands_entries :
    (0, 0, 0) ∈ stageEntries (List.replicate 6208 0)
      ∧ (∀ i, i ≤ 20 → ((tokRanges tokData).filter fun x => decide (x.first ≤ i) && decide (i ≤ x.last))
        = if i = 15 ∨ i = 16 then [{ first := 15, last := 16, ownerType := 0, rights := 3, owner := 0, init := 7 }] else [])
      ∧ (allotOf (tokRanges tokData) [(0, 0)] (agCore 0)) = [{ first := 15, last := 16, wait := true, signal := true }] :=
  ⟨List.mem_filterMap.2 ⟨0, by simp, by decide +kernel⟩, by decide +kernel, by decide +kernel⟩
theorem hyps_LayoutCommands_site_only :
    let s := blankLayout
    s.loader.verified = true ∧ (51 : BitVec 6).toNat ≤ 51 ∧ s.loader.siteOnlyMap 51 = true
      ∧ s.keepsOut (bMesh (tileOfSite 51)) = false ∧ 47 / 12 = tileOfSite 51
      ∧ (∀ i, i < 8 → Map.find s.loader.recorded (i + 2) = some (s.loader.dirs.getD (i + 1) (0, 0, [])).2.2) := by
  refine ⟨rfl, by decide, by decide +kernel, by decide +kernel, by decide +kernel, fun i hi => ?_⟩
  show Map.find ((List.range 8).map fun i => (i + 2, ((blankRuns.map blankLine).getD (i + 1) (0, 0, [])).2.2)) (i + 2) = _
  interval_cases i <;> rfl

/-! The turn clock and the planner. -/

/-- The turn clock with a given source. -/
def turnsFrom (source : Nat) : Turns := { Turns.reset with cfg := { TrnCfg.reset with source := source } }
theorem hyps_TurnReferenceEvents_edges :
    let t := turnsFrom 0
    (turnsFrom 1).cfg.source ≠ 0 ∧ t.cfg.source = 0 ∧ t.holdover = false ∧ t.due = none ∧ t.ending = false
      ∧ inWindow (625 * 14400 - t.lastRef) t.cfg.nominalNs = true ∧ inWindow (625 * 17600 - t.lastRef) t.cfg.nominalNs = true
      ∧ inWindow (625 * 14399 - t.lastRef) t.cfg.nominalNs = false ∧ inWindow (625 * 17601 - t.lastRef) t.cfg.nominalNs = false
      ∧ ({ t with due := some (16000, true) } : Turns).due.isSome = true
      ∧ (let h : Turns := { t with holdover := true, lastEdge := some 100, goodEdges := 14 }
        h.holdover = true ∧ h.lastEdge = some 100 ∧ h.goodEdges ≠ 0 ∧ h.goodEdges < 15 ∧ h.ending = false)
      ∧ (let h : Turns := { t with ending := true }
        h.holdover = false ∧ h.ending = true ∧ h.due = none ∧ halfPast (625 * 16000 - h.lastRef) h.cfg.nominalNs = true) := by
  decide +kernel
theorem hyps_TurnReferenceEvents_marks :
    let s : State := { powered with turns := turnsFrom 1 }
    (powered.ladder 0).markIn.head? ≠ some (3, 1, 0)
      ∧ ((powered.setLadder 0 { Ladder.reset with markIn := [(3, 1, 0)] }).ladder 0).markIn.head? = some (3, (1 : BitVec 4).toNat, 0)
      ∧ (turnsFrom 0).cfg.source ≠ 1 ∧ (turnsFrom 1).cfg.markPort ≠ 7 ∧ s.turns.cfg.source = 1 ∧ s.turns.cfg.markPort = 0
      ∧ (100 : Int) - 1 - 0 + 0 * s.turns.meanPs < 100 ∧ (100 : Int) ≤ 100 - 1 - 0 + 1 * s.turns.meanPs
      ∧ (100 : Int) ≤ 100 - 0 - 0 + 0 * s.turns.meanPs ∧ s.turns.holdover = false := by decide +kernel
theorem hyps_TurnReferenceEvents_boundaries :
    let t := turnsFrom 0
    (turnsFrom 2).cfg.source = 2 ∧ ({ t with holdover := true } : Turns).holdover = true
      ∧ (let p : Turns := { turnsFrom 1 with placed := [(5, 1)] }
        ∃ x ∈ p.placed, x.1 ≤ p.lastRef + p.lateAfter)
      ∧ (let p : Turns := { turnsFrom 1 with placed := [(20000000, 1)] }
        p.due = none ∧ ∀ x ∈ p.placed, p.lastRef + p.lateAfter < x.1)
      ∧ t.cfg.source ≠ 2 ∧ t.holdover = false ∧ t.ending = false ∧ t.due = none ∧ t.missedRun < 3
      ∧ (turnsFrom 1).placed = [] ∧ ¬ (({ t with missedRun := 3 } : Turns).missedRun < 3)
      ∧ ({ t with due := some (1, true) } : Turns).due.isSome = true ∧ (turnsFrom 2).due = none
      ∧ t.cfg.source ≠ 1 ∧ (turnsFrom 1).cfg.source = 1 := by decide +kernel
theorem hyps_TurnReferenceEvents_tables :
    let x (a : Nat) : TtEntry := { turn := 0, action := a, target := 0, arg := 1 }
    powered.appendReasons 0 (x 1) = [] ∧ powered.appendReasons 0 (x 0) = [3] ∧ powered.appendReasons 0 (x 4) = [3]
      ∧ powered.turns.refusedThisTurn.contains 0 = false
      ∧ ({ powered.turns with refusedThisTurn := [0] } : Turns).refusedThisTurn.contains 0 = true
      ∧ BitVec.ofNat 32 (bitsOf (0x100000001 : Word64).toNat 32 32) = (x 1).arg := by decide +kernel
theorem hyps_BoundariesRunTheTurn :
    let s : State := { powered with turns := { Turns.reset with due := some (16000, true) } }
    powered.turns.boundaryDue = none ∧ s.turns.boundaryDue = some (16000, true)
      ∧ (enabled s bNrg).isEnabled bNrg = true ∧ s.isEnabled bNrg = false
      ∧ Map.wf AgentUse.reset s.energy.agents = true ∧ Map.wf AgentUse.reset (rich s 3).energy.agents = true
      ∧ s.turns.nextNumber = 1 ∧ s.testers = [] ∧ s.upsets = [] ∧ s.save.appends = [] := by decide +kernel
theorem hyps_PlannerLimits :
    let s := enabled powered bNrg
    let late : State := { s.setFld bNrg 0x108 16 16 5 with turns := { Turns.reset with elapsed := 5 } }
    s.isEnabled bNrg = true ∧ s.energy.backstop = false
      ∧ s.energy.budget * 65536 * 1000000 ≤ 0 * 65536 * 1000000 + 0 * 1000000 + s.idleTotal s.energy.clockMhz * 0 * 65536
      ∧ powered.isEnabled bNrg = false
      ∧ late.fld bNrg 0x108 16 16 ≠ 0 ∧ late.energy.lastGrant + late.fld bNrg 0x108 16 16 ≤ late.elapsed
      ∧ late.energy.grantExpired = false ∧ s.fld bNrg 0x108 16 16 = 0
      ∧ s.elapsed < s.energy.lastGrant + (s.setFld bNrg 0x108 16 16 5).fld bNrg 0x108 16 16
      ∧ (56 : BitVec 6).toNat < 57 ∧ ¬ ((57 : BitVec 6).toNat < 57) := by decide +kernel

/-! Sweep and save engines. -/

/-- The energy backstop holds every price (R217). -/
def broke (s : State) : State := { s with energy := { s.energy with backstop := true } }
/-- Sweep engine 0 enabled, in a given state; the shard list stands at address 0. -/
def sweeps (y : Sweep) (len : Nat) : State := ((enabled powered (bSwp 0)).setFld (bSwp 0) 0x108 0 24 len).setSweep 0 y
theorem hyps_SweepRunsMoveOn :
    let granted : Sweep := { Sweep.reset with granted := true }
    powered.sweepActive 0 = false ∧ (powered.sweep 0).stage = .idle ∧ (powered.sweep 0).granted = false
      ∧ (sweeps granted 0).sweepActive 0 = true ∧ ((sweeps granted 0).sweep 0).stage = .idle
      ∧ ((sweeps granted 0).sweep 0).granted = true
      ∧ (let s := sweeps { Sweep.reset with stage := .commits, running := true } 0
        s.sweepActive 0 = true ∧ (s.sweep 0).stage = .commits ∧ s.listLen 0 ≤ (s.sweep 0).shard)
      ∧ (let s := sweeps { Sweep.reset with stage := .check, running := true, shard := 1 } 1
        s.sweepActive 0 = true ∧ (s.sweep 0).stage = .check ∧ s.listLen 0 ≤ (s.sweep 0).shard
          ∧ (s.sweep 0).shardFault = false)
      ∧ (sweeps { Sweep.reset with shardFault := true } 0).sweep 0 = { Sweep.reset with shardFault := true }
      ∧ (powered.sweep 0).scaleWait = false := by decide +kernel
/-- A shard descriptor of fp8 working copies and a scale record at 0x1000, its program at 0x10000. -/
def shardBytes (commit : Bool) (elements : Nat) : List Byte :=
  leBytes 8 0x10000 ++ leBytes 8 0x20000 ++ leBytes 8 0x30000 ++ leBytes 8 0x40000 ++ leBytes 8 0x50000 ++ leBytes 4 elements
    ++ leBytes 2 0 ++ leBytes 2 (if commit then 32768 else 0) ++ leBytes 8 0x1000 ++ leBytes 8 0x60000
/-- A program of one moment and one weight operation, with a schedule of one entry at an offset. -/
def progBytes (offset : Nat) : List Byte :=
  leBytes 4 0x5057464E ++ leBytes 2 1 ++ leBytes 1 0 ++ leBytes 1 1 ++ leBytes 1 1 ++ leBytes 1 1 ++ leBytes 2 0 ++ leBytes 4 1
    ++ List.replicate 32 0 ++ leBytes 8 offset ++ List.replicate 8 0
def progOpBytes : List Byte := leBytes 4 (0x01 + 4 * 2 ^ 8) ++ leBytes 4 (0x01 + 6 * 2 ^ 8 + 3 * 2 ^ 14 + 3 * 2 ^ 20)
/-- A scale record of a stamp: scale 1, one pending value, at 0x2000. -/
def recordBytes (stamp : Nat) : List Byte :=
  leBytes 4 stamp ++ leBytes 4 127 ++ leBytes 2 256 ++ List.replicate 70 0 ++ leBytes 8 0x2000 ++ List.replicate 40 0
/-- The engine at a stage, in a run of a stamp, over a memory of runs of bytes. -/
def sweepsOver (y : Sweep) (step : Nat) (cells : List (Nat × List Byte)) : State :=
  { (sweeps { y with running := true } 1).setFld (bSwp 0) 0x118 0 32 step with
    mem := cells.foldl (fun m e => memWrite m e.1 e.2) [] }
theorem quiet_sweeps (y : Sweep) (step : Nat) (cells : List (Nat × List Byte)) : quiet (sweepsOver y step cells) := by
  refine ⟨⟨rfl, rfl⟩, rfl, rfl, rfl, ?_, rfl, fun _ => ⟨rfl, rfl⟩⟩
  have h : ∀ (l : List (Nat × List Byte)) (m : List Host.Cell), Memory.wf m = true →
      Memory.wf (l.foldl (fun m e => memWrite m e.1 e.2) m) = true := by
    intro l
    induction l with
    | nil => exact fun _ h => h
    | cons e l ih => exact fun m h => ih _ (Memory.wf_memWrite _ _ h)
  exact h cells [] rfl
/-- The list of commits: no commit, an invalid one, a record that is none, one that has the run's stamp and one that waits. -/
theorem hyps_SweepRunsMoveOn_commits :
    let at' (cells : List (Nat × List Byte)) := sweepsOver { Sweep.reset with stage := .commits } 7 cells
    let prog := [(0x10000, progBytes 128), (0x10040, progOpBytes)]
    let bad := at' ([(0, shardBytes true 3)] ++ prog ++ [(0x1000, List.replicate 128 0)])
    let same := at' ([(0, shardBytes true 3)] ++ prog ++ [(0x1000, recordBytes 7)])
    let due := at' ([(0, shardBytes true 0), (0x1000, recordBytes 6)])
    let shardIn (s : State) := shardOf (bytesAt s (s.shardAddr 0 (s.sweep 0).shard) 64)
    (∀ s ∈ [bad, same, due], s.sweepActive 0 = true ∧ (s.sweep 0).scaleWait = false ∧ (s.sweep 0).stage = .commits
        ∧ (s.sweep 0).shard < s.listLen 0 ∧ inRegion .hbm (s.shardAddr 0 0) 64 = true
        ∧ (shardIn s).commit = true ∧ (shardIn s).valid = true ∧ inRegion .hbm (shardIn s).scale 128 = true
        ∧ ((shardIn s).elements = 0 ∨ (inRegion .hbm (shardIn s).program 64 = true
          ∧ progRange (shardIn s).program (bytesAt s (shardIn s).program 64) = true)))
      ∧ scaleRecordOk (bytesAt bad 0x1000 128) = false ∧ scaleRecordOk (bytesAt same 0x1000 128) = true
      ∧ fieldLe (bytesAt same 0x1000 128) 0 4 = same.sweepStepNo 0
      ∧ scaleRecordOk (bytesAt due 0x1000 128) = true ∧ fieldLe (bytesAt due 0x1000 128) 0 4 ≠ due.sweepStepNo 0
      ∧ inRegion .hbm (fieldLe (bytesAt due 0x1000 128) 80 8) (4 * fieldLe (bytesAt due 0x1000 128) 9 1) = true
      ∧ (shardIn (at' [(0, shardBytes false 3)])).commit = false
      ∧ (shardIn (at' [(0, [1] ++ (shardBytes true 3).drop 1)])).commit = true
      ∧ (shardIn (at' [(0, [1] ++ (shardBytes true 3).drop 1)])).valid = false := by decide +kernel
/-- The checks: an invalid shard, one of no elements, a bad header, a program beyond its region and a good program. -/
theorem hyps_SweepRunsMoveOn_checks :
    let at' (cells : List (Nat × List Byte)) := sweepsOver { Sweep.reset with stage := .check } 7 cells
    let shardIn (s : State) := shardOf (bytesAt s (s.shardAddr 0 (s.sweep 0).shard) 64)
    let good := at' [(0, shardBytes false 3), (0x10000, progBytes 128), (0x10040, progOpBytes)]
    let far := at' [(0, shardBytes false 3), (0x10000, progBytes (lpxBase - 0x10000)), (0x10040, progOpBytes)]
    let h (s : State) := bytesAt s 0x10000 64
    (∀ s ∈ [good, far, at' [(0, shardBytes false 3)]], s.sweepActive 0 = true ∧ (s.sweep 0).stage = .check
        ∧ (s.sweep 0).faulted.contains (s.sweep 0).shard = false ∧ (shardIn s).valid = true ∧ (shardIn s).elements ≠ 0
        ∧ (shardIn s).program = 0x10000 ∧ inRegion .hbm 0x10000 64 = true)
      ∧ (shardIn (at' [(0, [1] ++ (shardBytes false 3).drop 1)])).valid = false
      ∧ (shardIn (at' [(0, shardBytes true 0)])).valid = true ∧ (shardIn (at' [(0, shardBytes true 0)])).elements = 0
      ∧ progHeaderOk (h (at' [(0, shardBytes false 3)])) = false ∧ progHeaderOk (h good) = true
      ∧ progRange 0x10000 (h good) = true ∧ (progOf (h good) (bytesAt good 0x10040 (4 * (progOps (h good)).2))).opsOk = true
      ∧ progHeaderOk (h far) = true ∧ progRange 0x10000 (h far) = false
      ∧ inRegion .hbm 0x10040 (4 * (progOps (h far)).2) = true
      ∧ (inRegion .hbm ((progOf (h far) progOpBytes).schedEntry 0x10000 7) 32 = true
        ∨ inRegion .lpx ((progOf (h far) progOpBytes).schedEntry 0x10000 7) 32 = true) := by decide +kernel
/-- Lines of the run's stamp, of the stamp before and of another; chunks of the working copy; the end of a shard. -/
theorem hyps_SweepRunsMoveOn_lines :
    let y (st : SweepStage) : Sweep :=
      { Sweep.reset with stage := st, desc := shardBytes false 3, prog := progBytes 128 ++ progOpBytes, record := recordBytes 7 }
    let x := (y .finish).shardNow
    let at' (st : SweepStage) (step : Nat) := rich (sweepsOver (y st) step [(0x30000, leBytes 4 6), (0x40000, leBytes 4 6)]) (pSweep 0)
    let stamp (s : State) (a : Nat) := fieldLe (bytesAt s a 128) 0 4
    x.valid = true ∧ inRegion .hbm x.master (128 * x.masterLines) = true ∧ inRegion .hbm x.moment (128 * x.momentLines) = true
      ∧ x.moment = 0x30000 ∧ x.master = 0x40000 ∧ 0 < x.momentLines ∧ 0 < x.masterLines
      ∧ stamp (at' (.moment 0) 6) 0x30000 = (at' (.moment 0) 6).sweepStepNo 0
      ∧ (stamp (at' (.moment 0) 7) 0x30000 + 1) % 2 ^ 32 = (at' (.moment 0) 7).sweepStepNo 0
      ∧ (stamp (at' (.moment 0) 9) 0x30000 + 1) % 2 ^ 32 ≠ (at' (.moment 0) 9).sweepStepNo 0
      ∧ stamp (at' (.moment 0) 9) 0x30000 ≠ (at' (.moment 0) 9).sweepStepNo 0
      ∧ stamp (at' (.weight 0) 6) 0x40000 = (at' (.weight 0) 6).sweepStepNo 0
      ∧ (stamp (at' (.weight 0) 7) 0x40000 + 1) % 2 ^ 32 = (at' (.weight 0) 7).sweepStepNo 0
      ∧ (at' (.weight 0) 7).covered (pSweep 0) ((at' (.weight 0) 7).price [(11, aTile 0, 3)]) = true
      ∧ (broke (at' (.weight 0) 7)).covered (pSweep 0) ((broke (at' (.weight 0) 7)).price [(11, aTile 0, 3)]) = false
      ∧ x.workSize = some 1 ∧ inRegion .hbm x.work (1 * x.elements) = true
      ∧ (x.chunkElems 0).1 + ((x.chunkElems 0).2 - (x.chunkElems 0).1) ≤ x.elements
      ∧ (shardOf ((shardBytes false 3).take 44 ++ [15] ++ (shardBytes false 3).drop 45)).workSize = none
      ∧ (shardOf ((shardBytes false 3).take 44 ++ [15] ++ (shardBytes false 3).drop 45)).needsScale = false
      ∧ inRegion .hbm x.status 32 = true ∧ x.slot ≠ 255 ∧ x.needsScale = true
      ∧ (let slot := fieldLe (y .finish).record 80 8 + 4 * x.slot
        inRegion .hbm slot 4 = true ∧ slot + 4 ≤ x.status) := by decide +kernel
/-- A scale record that carries the run's stamp, one that does not, and one that lies where the link is down. -/
theorem hyps_SweepRunsMoveOn_scale :
    let y : Sweep := { Sweep.reset with stage := .scaleWait, scaleWait := true, desc := shardBytes false 3 }
    let s := sweepsOver y 7 [(0x1000, recordBytes 7)]
    let x := (s.sweep 0).shardNow
    let away := shut (sweepsOver { y with desc := (shardBytes false 3).take 48 ++ leBytes 8 hostBase ++ leBytes 8 0x60000 } 7 [])
    s.sweepActive 0 = true ∧ (s.sweep 0).scaleWait = true ∧ s.sweepStalls 0 = false ∧ x.needsScale = true ∧ x.scale = 0x1000
      ∧ (s.sweepRead 0 x.scale 128).2.anyPoison = false ∧ scaleRecordOk (s.sweepRead 0 x.scale 128).2.data = true
      ∧ fieldLe (s.sweepRead 0 x.scale 128).2.data 0 4 = s.sweepStepNo 0
      ∧ (let u := s.setFld (bSwp 0) 0x118 0 32 8
        fieldLe (u.sweepRead 0 x.scale 128).2.data 0 4 ≠ u.sweepStepNo 0)
      ∧ away.sweepActive 0 = true ∧ (away.sweep 0).scaleWait = true ∧ away.sweepStalls 0 = true
      ∧ (let u : State := { s.setFld (bSwp 0) 0x108 32 16 2 with turns := { Turns.reset with elapsed := 3 } }
        (u.sweep 0).scaleWait = true ∧ (u.sweep 0).waitLong = false ∧ u.fld (bSwp 0) 0x108 32 16 ≠ 0
          ∧ (u.sweep 0).waitSince + u.fld (bSwp 0) 0x108 32 16 ≤ u.elapsed
          ∧ s.elapsed < (u.sweep 0).waitSince + u.fld (bSwp 0) 0x108 32 16)
      ∧ s.fld (bSwp 0) 0x108 32 16 = 0 := by decide +kernel

/-- A save plan with one quiet entry of 128 bytes at 0x20000 and token 0, or with an entry of a reserved kind. -/
def planBytes (kind : Nat) : List Byte :=
  leBytes 4 0x5053464E ++ leBytes 2 1 ++ leBytes 2 1 ++ leBytes 4 1 ++ leBytes 4 9 ++ List.replicate 48 0
    ++ leBytes 8 0x20000 ++ leBytes 8 128 ++ leBytes 1 kind ++ leBytes 1 0 ++ List.replicate 14 0 ++ leBytes 4 0
/-- The save engine enabled with slots at 0x10000 and 0x18000; a plan at `planAt`, the plan register at 0. -/
def saves (x : Save) (size planAt kind : Nat) : State :=
  let s := ((enabled powered bSav).setFld bSav 0x108 7 45 (0x10000 / 128)).setFld bSav 0x110 7 45 (0x18000 / 128)
  { (s.setFld bSav 0x118 7 45 (size / 128)) with
    save := x, mem := memWrite [] planAt (planBytes kind), turns := { Turns.reset with now := 4 } }
def savesRich (x : Save) (size planAt kind : Nat) : State := rich (saves x size planAt kind) pSave
def granted : Save := { Save.reset with granted := true }
theorem hyps_SavesAndJournal_start :
    let ok := savesRich granted 0x8000 0 0
    let plan := planOf (planBytes 0)
    powered.saveActive = false ∧ ok.saveActive = true ∧ ok.save.stage = .idle ∧ ok.save.granted = true ∧ ok.save.plan = []
      ∧ (State.readPlan { ok with poison := [0] } ok.planBase).2 = none ∧ ok.planStalls ok.planBase = false
      ∧ (let h := shut (ok.setFld bSav 0x100 6 46 (hostBase / 64)); h.save.plan = [] ∧ h.planStalls h.planBase = true)
      ∧ ((savesRich granted 0x8000 0 3).readPlan 0).2 = some (planBytes 3) ∧ (planOf (planBytes 3)).ok = false
      ∧ (ok.readPlan ok.planBase).2 = some (planBytes 0) ∧ plan.ok = true ∧ plan.jrnOff ≤ ok.slotSize
      ∧ ((savesRich granted 128 0 0).readPlan 0).2 = some (planBytes 0) ∧ (savesRich granted 128 0 0).slotSize < plan.jrnOff
      ∧ (ok.savePay plan.startBytes).isSome = true ∧ errorFree ok
      ∧ ((broke ok).savePay plan.startBytes).isSome = false := by
  unfold errorFree
  decide +kernel
theorem hyps_SavesAndJournal_capture :
    let plan := planOf (planBytes 0)
    let started : Save := { Save.reset with stage := .started, captureTurn := some 4, plan := planBytes 0 }
    let s := savesRich started 0x8000 (0x10000 + 512) 0
    let touched := s.setToken 0 { Token.reset with stamp := 4 }
    let c := savesRich { started with stage := .captured, payloadLen := plan.jrnOff - 256 } 0x8000 (0x10000 + 512) 0
    let full := savesRich { started with stage := .captured, payloadLen := 0x8000 } 0x8000 (0x10000 + 512) 0
    let poor := broke (saves { started with stage := .counted } 0x8000 (0x10000 + 512) 0)
    s.saveActive = true ∧ touched.save.stage = .started ∧ touched.save.captureTurn = some 4 ∧ planOf touched.save.plan = plan
      ∧ (∃ k ∈ plan.tokens, (4 : Word64).toNat ≤ (touched.token k).stamp.toNat)
      ∧ (savesRich .reset 0x8000 0 0).save.captureTurn = none
      ∧ c.saveActive = true ∧ c.save.stage = .captured ∧ c.save.captureTurn = some 4
      ∧ full.slotSize < full.save.payloadLen + 256 ∧ c.save.payloadLen + 256 ≤ c.slotSize
      ∧ poor.save.stage = .counted ∧ poor.savePay (phaseBytes (plan.phase 1) + 128) = none
      ∧ c.savePay (phaseBytes (plan.phase 0) + 128 * (c.save.jrnLast - c.save.jrnFirst) + 128) ≠ none
      ∧ ((c.savePay (phaseBytes (plan.phase 0) + 128 * (c.save.jrnLast - c.save.jrnFirst) + 128)).map fun s1 =>
          (State.copyEntries 0 plan.step (plan.phase 0) s1).2) = some none
      ∧ c.save.jrnLast - c.save.jrnFirst = 0 := by decide +kernel
theorem hyps_SavesAndJournal_validate :
    let done : Save := { Save.reset with stage := .done }
    let s := savesRich done 0x8000 0 0
    let out := s.setFld bSav 0x130 0 1 1
    let due (e : Option (BitVec 32)) := savesRich { done with stage := .copyOut, copyoutEpoch := e } 0x8000 0 0
    let late := (due (some 0)).setNcl
      { (due (some 0)).ncl with egress := [{ addr := hostBase, bytes := [0], poison := false, owner := .copyout, completion := none }] }
    s.saveActive = true ∧ s.save.stage = .done ∧ s.savePay 128 ≠ none ∧ (broke s).savePay 128 = none
      ∧ s.fld bSav 0x130 0 1 ≠ 1 ∧ out.fld bSav 0x130 0 1 = 1
      ∧ (due none).saveActive = true ∧ (due none).save.stage = .copyOut ∧ (due none).save.copyoutEpoch = none
      ∧ (due none).hostFull (due none).copyDest ((due none).save.payloadLen + 256) = false
      ∧ (due (some 1)).save.copyoutEpoch = some 1 ∧ (1 : BitVec 32) ≠ (due (some 1)).ncl.epoch
      ∧ (due (some 0)).save.copyoutEpoch = some (due (some 0)).ncl.epoch ∧ (due (some 0)).copyoutHeld = false
      ∧ (due (some 0)).savePay 128 ≠ none ∧ late.copyoutHeld = true := by
  decide +kernel
theorem hyps_SavesAndJournal_journal :
    let s := (savesRich .reset 0x8000 0 0).setFld bSav 0x160 0 32 4
    let full : State := { s with save := { s.save with jrnNext := 4 } }
    let itk := s.setIntake 0 { Intake.reset with journal := [(1, 2, 3, 4, 5)] }
    s.save.restoring = none
      ∧ (let u := s.startRestore true false
        u.restoreCheck 0 false (u.restoreReads 0).2.1 (u.restoreReads 0).2.2 = none)
      ∧ s.power.issueStopped = false ∧ s.hostWaits 0 128 = false
      ∧ (let h := shut (s.setFld bSav 0x140 7 45 (hostBase / 128))
        h.hostWaits (h.fld bSav 0x140 7 45 * 128) 128 = true ∧ h.save.restoring = none)
      ∧ ({ s.power with issueStopped := true } : Power).issueStopped = true ∧ (true, false) ≠ (false, false) ∧ s.jrnRoom 0 = true ∧ full.jrnRoom 4 = false
      ∧ (itk.intake 0).journal = [(1, 2, 3, 4, 5)] ∧ itk.jrnRoom 0 = true ∧ s.save.appends = []
      ∧ ({ s.save with restoring := some (true, false) } : Save).restoring = some (true, false) := by decide +kernel

/-! Resets, sites, banks and DRAM. -/

theorem hyps_ResetsClearWeightsAndAccumulators : powered.power.flushing = none ∧ (powered.site 0).status = .service := by
  decide +kernel
/-- Site 0 in a given state. -/
def siteIn (x : Site) : State := powered.setSite 0 x
theorem hyps_SitesLeaveAndReturn :
    let q : Site := { Site.reset with status := .quarantined }
    let used : SelfTest := { passed := true, repairs := [], pins := [] }
    (powered.site 0).status ≠ .quarantined ∧ powered.power.held = false ∧ ((siteIn q).site 0).status = .quarantined
      ∧ ((siteIn q).site 0).readmits < 3 ∧ ((siteIn { q with readmits := 2 }).site 0).readmits < 3
      ∧ 3 ≤ ((siteIn { q with readmits := 3 }).site 0).readmits
      ∧ ((siteIn { q with status := .testing }).site 0).status = .testing ∧ used.passed = true ∧ powered.floor ≤ powered.level 0
      ∧ ({ powered with floor := 4 } : State).level 0 < ({ powered with floor := 4 } : State).floor
      ∧ { used with passed := false }.passed = false ∧ (powered.site 0).status ≠ .testing
      ∧ (powered.site 0).status = .service ∧ ((siteIn .reset).site 0).status = .spare
      ∧ ((siteIn { Site.reset with resetting := true }).site 0).resetting = true
      ∧ ((siteIn { Site.reset with resetting := true }).site 0).status ≠ .quarantined
      ∧ (powered.site 0).resetting = false
      ∧ (let u := ((siteIn { Site.reset with resetting := true }).setLink (bondEnd 0 0)
            { LinkEnd.reset with up := true }).setLink (bondEnd 0 1) { LinkEnd.reset with up := true }
        (u.site 0).resetting = true ∧ u.bondUp 0 0 = true ∧ u.bondUp 0 1 = true)
      ∧ ((siteIn { q with packetSeen := true }).site 0).packetSeen = true ∧ (siteIn q).power.hbmRails = false
      ∧ ({ siteIn q with power := { powered.power with hbmRails := true } } : State).power.hbmRails = true := by decide +kernel
theorem hyps_BanksAndControllersKeepData_banks :
    let blk := bBankCore 0
    let waking := powered.setBank blk 31 { BankSt.reset with power := .waking }
    let s := (enabled (serves powered) blk).setFld blk 0x100 0 16 1
    (waking.bank blk 31).power = .waking ∧ (powered.bank blk 31).power ≠ .waking ∧ bankBlock 0xFFFF = none
      ∧ powered.isEnabled blk = false ∧ ((enabled powered blk).setFld blk 0x100 0 16 0).fld blk 0x100 0 16 = 0
      ∧ bankBlock blk = some (false, 0) ∧ s.isEnabled blk = true ∧ s.fld blk 0x100 0 16 ≠ 0
      ∧ nextOn s blk (bankCount false) (s.tester blk).bank = some 0
      ∧ 63 / 64 = 0 ∧ (∀ p ∈ (s.bank blk 0).pins, p.1 ≠ 63 / 64 * 64) ∧ leastFree ((s.bank blk 0).spares.map (·.2)) (spareRows false) = some 0
      ∧ (let u := s.setTester blk { Tester.reset with lastStart := [(0, 0)], running := [(0, 0, 0, [63])] }
        Map.find (u.tester blk).lastStart 0 = some 0 ∧ u.elapsed < 0 + u.fld blk 0x100 0 16
          ∧ (u.tester blk).running.find? (fun r => r.1 = 0) = some (0, 0, 0, [63])
          ∧ (let v : State := { u with turns := { u.turns with elapsed := 1 } }
            v.upsets = [] ∧ 0 + v.fld blk 0x100 0 16 ≤ v.elapsed)) := by
  decide +kernel
theorem hyps_BanksAndControllersKeepData_dram :
    let s := (powered.setDram 0 { Dram.reset with trained := true }).setFld (dramBlock 0) 0x100 0 20 1
    let stale := s.setDir (lineOf (hbmLine 0 0)) { st := .X, owner := 0, sharers := [] }
    (powered.setFld (dramBlock 0) 0x100 0 20 0).fld (dramBlock 0) 0x100 0 20 = 0 ∧ (powered.dram 0).trained = false
      ∧ s.fld (dramBlock 0) 0x100 0 20 ≠ 0 ∧ (s.dram 0).trained = true
      ∧ (s.home (homeOf (hbmLine 0 0))).txns = [] ∧ (s.home (homeOf (hbmLine 0 0))).aged = [] ∧ s.upsets = []
      ∧ (stale.dir (lineOf (hbmLine 0 (stale.dram 0).scrubPos))).st = .X ∧ (stale.dram 0).scrubPos + 1 < hbmLines
      ∧ ¬ ((s.dir (lineOf (hbmLine 0 0))).st = .X ∨ (s.dir (lineOf (hbmLine 0 0))).st = .O
        ∨ Map.find s.llc (lineOf (hbmLine 0 0)) = some true)
      ∧ Memory.wf s.mem = true ∧ s.poisoned (hbmLine 0 0 + 16 * 7) = false ∧ 35 < 36 ∧ 15 < 16 := by decide +kernel
theorem hyps_PoisonIsStoredAndReplaced :
    (List.replicate 16 (0xA5 : Byte)).length = 16 ∧ Memory.wf [(3, 7)] = true
      ∧ ({ powered with poison := [1, 5, 9] } : State).poison.Pairwise (· < ·) := by decide +kernel
theorem hyps_LayoutCommands_busy : ({ (verifiedBy []).loader with busy := some (.load 32) } : Loader).busy = some (.load 32)
    ∧ (verifiedBy []).loader.busy = none := ⟨rfl, rfl⟩

/-! Coherence. -/

/-- A command that a home's entry snoops: line 0, asked for by agent b. -/
def txnOf (req : CohReq) (b : Nat) (snoops : List (Nat × SnoopKind)) : Txn :=
  { newTxn 0 req (.agent b) [] 0 false with started := true, snoops := snoops }
/-- The home of line 0 with one transaction; agent 0 holds line 0 in a state. -/
def homeHas (t : Txn) (m : Moesi) : State :=
  (powered.setHome (homeOf 0) { Home.reset with txns := [t] }).setHeld1 0 0 { HeldLine.reset with st := m }
def dirIs (s : State) (st : DirSt) (owner : Nat) (sharers : List Nat) : State :=
  s.setDir 0 { st := st, owner := owner, sharers := sharers }
theorem hyps_CoherentRequestsAtAnIdleLine :
    let idle (s : State) : Bool := decide (s.placeOf 0 = .dram ∧ s.upsets = [] ∧ s.wire = [])
      && tableRoom (s.home (homeOf 0)) && (s.home (homeOf 0)).aged.isEmpty && (s.home (homeOf 0)).txns.isEmpty
      && (s.home (homeOf 0)).hostSnoops.isEmpty && decide (s.dirRoom (homeOf 0) 0 = s)
    let coming (k : Nat) : Retried :=
      { home := homeOf 0, line := 64 * (k + 1), req := .rds, src := .agent 0, data := [], mask := 0, age := 0, sent := true }
    let crowd : State := { powered with retried := (List.range 8).map coming }
    let held (m : Moesi) := powered.setHeld1 0 0 { HeldLine.reset with st := m }
    let gone := powered.setSite 0 { powered.site 0 with status := .quarantined }
    gone.fromQuarantine (.agent 0) = some 0 ∧ State.reset.fromQuarantine (.agent 0) = none
      ∧ powered.fromQuarantine (.requester 0x1104) = none ∧ State.reset.agentLive 0 = false ∧ powered.agentLive 0 = true ∧ powered.agentLive 447 = true
      ∧ idle powered = true ∧ (powered.dir 0).st = .U ∧ (powered.held1 0 0).st = .I
      ∧ powered.cacheRoom 0 0 = powered ∧ powered.cacheHasRoom 0 0 = true
      ∧ powered.cacheRoom 447 0 = powered ∧ powered.cacheHasRoom 447 0 = true
      ∧ idle crowd = true ∧ crowd.agentLive 0 = true ∧ (crowd.held1 0 0).st = .I
      ∧ (crowd.cacheRoom 0 0).cacheHasRoom 0 0 = false
      ∧ (let s := dirIs (held .S) .S 0 [0]
        idle s = true ∧ (s.dir 0).st = .S ∧ (s.dir 0).sharers = [0] ∧ (s.held1 0 0).st = .S ∧ s.agentLive 0 = true)
      ∧ (let s := dirIs (held .E) .X 0 []
        idle s = true ∧ (s.dir 0).st = .X ∧ (s.dir 0).owner = 0 ∧ (s.held1 0 0).st = .E)
      ∧ (let s := dirIs (held .M) .X 0 []
        idle s = true ∧ (s.dir 0).st = .X ∧ (s.dir 0).owner = 0 ∧ (s.held1 0 0).st = .M)
      ∧ (List.replicate 128 (7 : Byte)).length = 128 ∧ Memory.wf powered.mem = true := by decide +kernel
theorem hyps_SnoopsRetriesAndDeadAgents_snoops :
    let x := txnOf .rdu 2 [(0, .snpU), (1, .snpU)]
    let s := homeHas x .M
    let y := txnOf .rds 1 [(0, .snpS)]
    let u := dirIs (homeHas y .M) .X 0 []
    s.upsets = [] ∧ s.wire = [] ∧ u.upsets = [] ∧ u.wire = [] ∧ (u.home (homeOf 0)).hostSnoops = [] ∧ (powered.home (homeOf 0)).txns = [] ∧ (s.home (homeOf 0)).txns = [x] ∧ (s.home (homeOf 0)).hostSnoops = [] ∧ x.line = 0 ∧ x.started = true
      ∧ x.snoops = (0, .snpU) :: (1, .snpU) :: [] ∧ (1, SnoopKind.snpU) ≠ (0, SnoopKind.snpU)
      ∧ (u.home (homeOf 0)).txns = [y] ∧ y.snoops = [(0, .snpS)] ∧ y.req = .rds ∧ y.src = .agent 1 ∧ u.agentLive 1 = true
      ∧ u.dir 0 = { st := .X, owner := 0, sharers := [] } ∧ (u.held1 0 0).st = .M := by decide +kernel
theorem hyps_SnoopsRetriesAndDeadAgents_retries :
    let r (age : Nat) : Retried := { home := homeOf 0, line := 0, req := .rdns, src := .requester 5, data := [], mask := 0, age := age, sent := true }
    let s (age : Nat) : State :=
      { powered with retried := [r age] }.setFld (bHome (homeOf 0)) 0x100 0 8 8
    let moved (age : Nat) : State :=
      { powered with
        retried := [{ r age with line := 2 ^ 44 }], homes := [(1, { Home.reset with aged := [{ r age with line := 2 ^ 44 }] })] }
    let first : State := { powered with retried := [{ r 0 with sent := false }] }
    let crowd := (s 0).setHome (homeOf 0) { Home.reset with txns := List.replicate 63 (txnOf .rds 1 []) }
    let waits := powered.setHome 0 { Home.reset with aged := [r 8, r 9] }
    let asks : Txn := txnOf .rds 1 [(0, .snpS)]
    let late := powered.setHome 0 { Home.reset with txns := [asks], late := [(0, 0)] }
    powered.retried = [] ∧ (first.nextRetry 5).isSome = true ∧ first.mayResend { r 0 with sent := false } = true
      ∧ ((s 7).turnedAway (r 7).line (r 7).req (r 7).src (r 7).mask).isNone = true
      ∧ (let q : Retried := { r 7 with line := 2 ^ 44 }
        ((moved 7).nextRetry 5).isSome = true ∧ (({ moved 7 with retried := [] } : State).turnedAway q.line q.req q.src q.mask).isSome = true
          ∧ oldestAged ((moved 7).home 1).aged = some q)
      ∧ (s 7).nextRetry 5 = some (r 7)
      ∧ (s 7).ageThreshold (homeOf 0) ≤ min 255 (7 + 1) ∧ min 255 (0 + 1) < (s 0).ageThreshold (homeOf 0)
      ∧ (s 0).nextRetry 5 = some (r 0) ∧ crowd.nextRetry 5 = some (r 0)
      ∧ tableRoom ((s 0).home (homeOf 0)) = true ∧ tableRoom (crowd.home (homeOf 0)) = false
      ∧ (powered.home 0).aged = [] ∧ (waits.home 0).aged = [r 8, r 9] ∧ oldestAged [r 8, r 9] = some (r 9)
      ∧ (waits.home 0).txns = []
      ∧ (late.home 0).txns = [asks] ∧ (∀ y ∈ asks.snoops, (0, y.1) ∈ (late.home 0).late)
      ∧ asks.snoops.find? (fun y => !(powered.home 0).late.contains (0, y.1)) = some (0, .snpS)
      ∧ (415 : BitVec 9).toNat < 416 ∧ 447 < (448 : BitVec 9).toNat ∧ 416 ≤ (447 : BitVec 9).toNat := by decide +kernel

/-! Panel links and ladder ports. -/

/-- A control field with its CRC over an empty frame of a panel end. -/
def frameControl (lo : Nat) : BitVec 128 := BitVec.ofNat 128 (lo + 2 ^ 96 * crc32 (frameBytes (zeroWords 32) lo))
def upEnd : LinkEnd := { LinkEnd.reset with up := true, expSeq := 5, replay := [{ seq := 9, vc := 0, words := [], pkt := none }] }
theorem hyps_PanelFramesInSequence :
    let good (c : Nat) : Bool := crc32 (frameBytes (zeroWords 32) (bitsOf c 0 96)) == bitsOf c 96 32
    let data := (frameControl 5).toNat
    let ack := (frameControl (2 ^ 27)).toNat
    let hold := (frameControl (2 ^ 28)).toNat
    let s := powered.setLink 0 upEnd
    (zeroWords 32).length = panelWords 0 ∧ (zeroWords 128).length = panelWords 119 ∧ (powered.link 0).up = false
      ∧ (s.link 0).up = true ∧ (s.link 0).degraded = false ∧ (s.link 0).hold = false ∧ (s.link 0).replay ≠ []
      ∧ (s.link 0).open = true ∧ (powered.link 0).open = false ∧ Map.get s.sendq 0 [] = [] ∧ (s.link 0).freed = [0, 0, 0, 0]
      ∧ (s.link 0).replayRun < 7 ∧ ((powered.setLink 0 { upEnd with replaySeq := 9, replayRun := 7 }).link 0).replayRun + 1 = 8
      ∧ 3 ≤ s.level (bondSite 16) ∧ 3 ≤ s.level (52 + tileOfSite (bondSite 16)) ∧ (s.site (bondSite 16)).status ≠ .quarantined
      ∧ ¬ (3 ≤ ({ s with rom := { s.rom with steppings := List.replicate 57 0 } } : State).level (bondSite 16))
      ∧ (s.link 0).hold = false ∧ (s.link 0).width = 0
      ∧ (let p : LinkPkt := { vc := 1, dst := 3, req := none }
        let f : TxFrame := { seq := 5, vc := 1, words := [], pkt := some p }
        let a := s.setLink (peerEnd 0) { LinkEnd.reset with up := true, replay := [f] }
        a.link 0 = upEnd ∧ a.arriving 0 5 = some p ∧ (a.nextEnd (endDie 0) 3).isSome = true ∧ a.nextEnd (endDie 0) 3 ≠ some 0)
      ∧ (let b := (powered.setLink (bondEnd 0 0) upEnd)
        (b.link (bondEnd 0 0)).open = true ∧ (b.link (bondEnd 0 0)).replay ≠ [] ∧ peerEnd (bondEnd 0 0) = dieEnd 0 0)
      ∧ s.arriving 0 5 = none ∧ good 1 = false
      ∧ good data = true ∧ bitsOf data 27 2 = 0 ∧ bitsOf data 0 12 = (s.link 0).expSeq ∧ bitOf data 24 = false
      ∧ bitsOf data 25 2 = (s.link 0).width
      ∧ good (frameControl 6).toNat = true ∧ bitsOf (frameControl 6).toNat 0 12 ≠ (s.link 0).expSeq
      ∧ good ack = true ∧ bitsOf ack 27 2 = 1 ∧ bitOf ack 24 = false ∧ good hold = true ∧ bitsOf hold 27 2 = 2
      ∧ good (frameControl (2 ^ 27 + 2 ^ 28)).toNat = true ∧ bitsOf (frameControl (2 ^ 27 + 2 ^ 28)).toNat 27 2 = 3 := by
  decide +kernel
theorem hyps_LinksTrainAndReroute_bonds :
    let q := siteIn { Site.reset with status := .quarantined }
    let weak : State := { powered with rom := { powered.rom with steppings := List.replicate 57 0 } }
    (q.site 0).status = .quarantined ∧ (State.reset.site 0).railOn = false ∧ (powered.site 0).status ≠ .quarantined
      ∧ (powered.site 0).railOn = true ∧ 128 < 129 ∧ (powered.link (bondEnd 0 0)).up = false
      ∧ (powered.link (bondEnd 0 0)).replayRun < 7 ∧ (powered.link (dieEnd 0 0)).replayRun < 7
      ∧ (powered.link (dieEnd 0 0)).replay = [] ∧ Map.get powered.sendq (dieEnd 0 0) [] = [] ∧ powered.cluReads = [] ∧ (powered.link (bondEnd 0 0)).replay = []
      ∧ Map.get powered.sendq (bondEnd 0 0) [] = []
      ∧ ((powered.setLink (bondEnd 0 0) { LinkEnd.reset with up := true }).link (bondEnd 0 0)).up = true
      ∧ 3 ≤ powered.level 0 ∧ 3 ≤ powered.level (52 + tileOfSite 0) ∧ ¬ (3 ≤ weak.level 0) := by decide +kernel
theorem hyps_LinksTrainAndReroute_ends :
    let t : LinkEnd := { LinkEnd.reset with training := true }
    let s := powered.setLink 0 t
    let up : LinkEnd := { LinkEnd.reset with up := true }
    let down : LinkEnd := { LinkEnd.reset with degraded := true, rerouting := true }
    let u := (powered.setLink 0 up).setFld (bPlink 0) 0x100 8 8 2
    (powered.link 0).training = false ∧ (s.link 0).training = true ∧ s.advertise 0 (usableGroups 0 []) = some 0
      ∧ s.advertise 0 (usableGroups 0 (List.replicate 8 3)) = none ∧ t.replayRun < 7 ∧ t.degraded = false ∧ t.replay = [] ∧ s.sendq = [] ∧ (s.link 0).failRun < 2
      ∧ 2 ≤ ((powered.setLink 0 { t with failRun := 2 }).link 0).failRun
      ∧ (u.link 0).up = true ∧ 1 ≠ (u.link 0).width
      ∧ (noteDisagree (u.link 0).disagree u.turns.elapsed (u.fld (bPlink 0) 0x100 16 16)).length < max 1 (u.fld (bPlink 0) 0x100 8 8)
      ∧ (let v := (powered.setLink 0 up).setFld (bPlink 0) 0x100 8 8 1
        (v.link 0).up = true ∧ 1 ≠ (v.link 0).width ∧ max 1 (v.fld (bPlink 0) 0x100 8 8)
          ≤ (noteDisagree (v.link 0).disagree v.turns.elapsed (v.fld (bPlink 0) 0x100 16 16)).length)
      ∧ (let q : LinkPkt := { vc := 0, dst := 3, req := some (7, false) }
        let f : TxFrame := { seq := 0, vc := 0, words := [], pkt := some q }
        let v := powered.setLink 0 { down with replay := [f] }
        (v.link 0).rerouting = true ∧ (v.link 0).degraded = true ∧ (v.link 0).replay = [f] ∧ f.pkt = some q ∧ q.req = some (7, false)
          ∧ (v.link 1).open = false)
      ∧ ((powered.setLink 0 down).link 0).rerouting = true ∧ ((powered.setLink 0 down).link 0).degraded = true
      ∧ (powered.link 0).rerouting = false ∧ (powered.link 0).degraded = false
      ∧ powered.isDisabled (bMesh (endDie 0)) = true ∧ powered.isDisabled (bMesh (endDie (peerEnd 0))) = true
      ∧ endDie 12 = 4 ∧ (enabled powered (bMesh 0)).isDisabled (bMesh (endDie 0)) = false := by decide +kernel

/-- A ladder frame: a control word with its CRC, and n words of zeros. -/
def ladderFrame (lo n : Nat) : List CodeWord :=
  codeWord (leBytes 16 (lo + 2 ^ 96 * crc32 (ladderCrcBytes lo (zeroWords n)))) :: zeroWords n
def upPort : Ladder := { Ladder.reset with up := true, expSeq := 5 }
theorem hyps_LadderFramesAndMarks_frames :
    let c (f : List CodeWord) : Nat := ((correctFrame f).1.headD { data := 0, check := 0 }).data.toNat
    let good (f : List CodeWord) : Bool :=
      crc32 (ladderCrcBytes (bitsOf (c f) 0 96) ((correctFrame f).1.drop 1)) == bitsOf (c f) 96 32
        && (f.length == if bitsOf (c f) 33 2 = 0 then 129 else 2)
    let plain (f : List CodeWord) : Bool := good f && bitsOf (c f) 37 3 == 0 && bitsOf (c f) 64 32 == 0
    let idle := ladderFrame (5 + 2 ^ 16 * 65535 + 2 ^ 33) 1
    good (zeroWords 2) = false ∧ good (ladderFrame (2 ^ 33 + 2 ^ 37) 1) = true ∧ bitsOf (c (ladderFrame (2 ^ 33 + 2 ^ 37) 1)) 37 3 ≠ 0
      ∧ plain (ladderFrame 4 128) = true ∧ bitsOf (c (ladderFrame 4 128)) 33 2 = 0 ∧ bitsOf (c (ladderFrame 4 128)) 0 16 = 4
      ∧ upPort.expSeq = 5 ∧ ({ upPort with expSeq := 4 } : Ladder).expSeq = 4
      ∧ ¬ (512 ≤ upPort.bufs0.length) ∧ ¬ (32 ≤ upPort.rx1.length)
      ∧ 32 ≤ ({ upPort with rx1 := List.replicate 32 [] } : Ladder).rx1.length ∧ bitsOf (c (ladderFrame (4 + 2 ^ 35) 128)) 35 1 = 1
      ∧ plain (ladderFrame (4 + 2 ^ 35) 128) = true
      ∧ plain idle = true ∧ bitsOf (c idle) 33 2 = 1 ∧ bitOf (c idle) 32 = false ∧ bitOf (c idle) 36 = upPort.half
      ∧ upPort.out0 = [] ∧ upPort.out1 = [] ∧ upPort.hasSent (bitsOf (c idle) 16 16) = true
      ∧ upPort.cred0 + bitsOf (c idle) 40 10 ≤ 512 ∧ upPort.cred1 + bitsOf (c idle) 50 6 ≤ 32
      ∧ plain (ladderFrame (2 ^ 34) 1) = true ∧ bitsOf (c (ladderFrame (2 ^ 34) 1)) 33 2 = 2
      ∧ plain (ladderFrame (2 ^ 33 + 2 ^ 34) 1) = true ∧ bitsOf (c (ladderFrame (2 ^ 33 + 2 ^ 34) 1)) 33 2 = 3
      ∧ (turnsFrom 1).cfg.source = 1 ∧ (turnsFrom 1).cfg.markPort = 0 := by decide +kernel
theorem hyps_LadderFramesAndMarks_rest :
    let s := powered.setLadder 0 upPort
    let x := s.ladder 0
    let msg (ty len n : Nat) : List Byte := leBytes 1 ty ++ leBytes 1 len ++ List.replicate n 0
    (powered.ladder 0).up = false ∧ x.up = true ∧ x.down = false ∧ x.hold = false ∧ x.replay = [] ∧ x.markDue = [] ∧ x.carries = true
      ∧ ({ x with replay := [{ seq := 1, vc := 0, words := [], pkt := none }] } : Ladder).replay = [{ seq := 1, vc := 0, words := [], pkt := none }]
      ∧ ({ x with markDue := [(1, 2, 3)] } : Ladder).markDue = [(1, 2, 3)]
      ∧ x.rx1.head?.map scMessage = none
      ∧ (let words := scFrame (scWords 2 3 [7, 8, 9])
        ((({ x with rx1 := [words] } : Ladder).rx1.head?.map scMessage) = some (scMessage words)) ∧ (scMessage words).length = 64
          ∧ fieldLe (scMessage words) 0 1 = 2 ∧ fieldLe (scMessage words) 1 1 = 3)
      ∧ (msg 2 48 62).length = 64 ∧ fieldLe (msg 2 48 62) 0 1 = 2 ∧ fieldLe (msg 2 48 62) 1 1 ≤ 48 ∧ x.scRx.length < 16
      ∧ 48 < fieldLe (msg 2 49 62) 1 1 ∧ 16 ≤ ({ x with scRx := List.replicate 16 [] } : Ladder).scRx.length
      ∧ fieldLe (msg 3 0 62) 0 1 ≠ 1 ∧ fieldLe (msg 3 0 62) 0 1 ≠ 2 ∧ fieldLe (msg 1 24 62) 1 1 = 24
      ∧ fieldLe (msg 1 25 62) 0 1 = 1 ∧ fieldLe (msg 1 25 62) 1 1 ≠ 24
      ∧ s.fld (bLad 0) 0x170 0 6 ≤ 48 ∧ 48 < (s.setFld (bLad 0) 0x170 0 6 49).fld (bLad 0) 0x170 0 6
      ∧ x.out0 = [] ∧ x.out1 = [] ∧ x.cred1 ≠ 0 ∧ x.replay.length < 512 ∧ x.free0 = 0 ∧ x.free1 = 0 := by decide +kernel
/-- A step list at address 0 whose first step takes its input from port 0, stream 1, and stores fp32 at 0x3000; and one
that copies 4 local fp32 values from 0x2000 to 0x3000. -/
def stepBytes (use wait : Nat) : List Byte :=
  leBytes 1 (use + wait) ++ leBytes 1 0 ++ leBytes 1 0 ++ leBytes 1 1 ++ leBytes 2 0 ++ leBytes 1 5 ++ leBytes 1 5
    ++ leBytes 4 4 ++ leBytes 2 3 ++ leBytes 2 3 ++ leBytes 8 0x2000 ++ leBytes 8 0x3000 ++ List.replicate 32 0
def stepList (use wait : Nat) : List Host.Cell := memWrite [] 0 (stepBytes use wait)
/-- Engine 0 enabled, with a list of one step. -/
def collects (y : Cmp) (use wait : Nat) : State :=
  { (((enabled powered (bCmp 0)).setFld (bCmp 0) 0x108 0 24 1).setCmp 0 y) with mem := stepList use wait }
def runningCmp : Cmp := { Cmp.reset with running := true }
theorem hyps_LadderPortsTrain :
    let t : Ladder := { Ladder.reset with training := true }
    let s := powered.setLadder 0 t
    let n := collects { runningCmp with desc := some (stepBytes 0x11 0) } 0x11 0
    (powered.ladder 0).training = false ∧ (s.ladder 0).training = true ∧ s.ladderOffer 0 0xFF = some false
      ∧ s.ladderOffer 0 0 = none ∧ t.replayRun < 7 ∧ t.down = false ∧ t.replay = [] ∧ t.out0 = [] ∧ t.out1 = [] ∧ t.cred1 ≠ 0
      ∧ t.markDue = [] ∧ t.failRun < 2 ∧ 2 ≤ ({ t with failRun := 2 } : Ladder).failRun ∧ (powered.ladder 0).up = false
      ∧ upPort.up = true ∧ upPort.down = false
      ∧ n.isDisabled (bCmp 0) = false ∧ (n.cmp 0).running = true ∧ 0 ∈ n.stepPorts 0
      ∧ (∀ e, e < 8 → ¬ (powered.isDisabled (bCmp e) = false)) := by decide +kernel

/-! Collectives, the companion link and intake. -/

/-- Engine 0 in a run whose step descriptor has been read. -/
def stepping (use wait : Nat) : State := collects { runningCmp with desc := some (stepBytes use wait) } use wait
theorem hyps_CollectiveStepsMoveOn_engine :
    let on := collects .reset 0x14 0
    let fresh := collects runningCmp 0x14 0
    let s := stepping 0x14 0
    let x := collStepOf (stepBytes 0x14 0)
    let w := collStepOf (stepBytes 0x14 0x20)
    let away := shut (fresh.setFld (bCmp 0) 0x100 6 46 (hostBase / 64))
    powered.cmpActive 0 = false ∧ on.cmpActive 0 = true ∧ (on.cmp 0).running = false ∧ s.cmpActive 0 = true
      ∧ (s.cmp 0).running = true ∧ (s.cmp 0).step < s.stepCount 0
      ∧ (let e := collects { runningCmp with step := 1 } 0x14 0
        e.stepCount 0 ≤ (e.cmp 0).step)
      ∧ (fresh.cmp 0).current = none ∧ fresh.hostWaits (fresh.stepAt 0) 64 = false ∧ away.hostWaits (away.stepAt 0) 64 = true
      ∧ (fresh.readRun (cmpWho 0) (fresh.stepAt 0) 64).2.anyPoison = false
      ∧ (collStepOf (fresh.readRun (cmpWho 0) (fresh.stepAt 0) 64).2.data).valid = true
      ∧ (State.readRun { fresh with poison := [0] } (cmpWho 0) (fresh.stepAt 0) 64).2.anyPoison = true
      ∧ (collStepOf ((collects runningCmp 0 0).readRun (cmpWho 0) 0 64).2.data).valid = false
      ∧ (s.cmp 0).current = some x ∧ x.wait = false ∧ x.blocks = 1 ∧ x.status = 0 ∧ x.signal = false
      ∧ x.needsTable = false ∧ ((x.readsAt (s.cmp 0)).any fun a => s.hostWaits a 1) = false
      ∧ s.hostFull x.dest 1 = false ∧ s.hostFull x.status 1 = false ∧ (s.cmp 0).block < x.blocks
      ∧ (let d := (stepBytes 0x14 0).take 16 ++ leBytes 8 hostBase ++ (stepBytes 0x14 0).drop 24
        let z := collStepOf d
        let far := shut (s.setCmp 0 { s.cmp 0 with desc := some d })
        (far.cmp 0).current = some z ∧ z.wait = false ∧ ((z.readsAt (far.cmp 0)).any fun a => far.hostWaits a 1) = true)
      ∧ ((stepping 0x14 0x20).cmp 0).tokenHeld = false ∧ w.wait = true ∧ ((stepping 0x14 0x20).cmp 0).current = some w
      ∧ (let d := s.setCmp 0 { s.cmp 0 with block := 1 }
        x.blocks ≤ (d.cmp 0).block ∧ (d.cmp 0).current = some x ∧ d.stepSent 0 x = true
          ∧ (d.setNcl { d.ncl with egress := [{ addr := hostBase, bytes := [0], poison := false, owner := .unit (cmpWho 0), completion := none }] }).stepSent 0 x = false)
      ∧ (let z := collStepOf (stepBytes 0x54 0)
        ((stepping 0x54 0).cmp 0).current = some z ∧ z.signal = true ∧ z.signalToken = 3)
      ∧ x.useLocal = true ∧ x.useIn = false ∧ x.useIn2 = false ∧ x.out = false ∧ x.store = true ∧ x.localFmt = 5
      ∧ x.destFmt = 5 ∧ (rich s (pCmp 0)).covered (pCmp 0) 0 = true
      ∧ ((rich s (pCmp 0)).readRun (cmpWho 0) x.localAt 16).2.anyPoison = false := by decide +kernel
/-- The image of a table of GEN 1 that gives each of the 256 symbols a code of eight bits (R385). -/
def tableImage : List Byte :=
  leBytes 4 0x4254464E ++ leBytes 2 1 ++ leBytes 2 1 ++ List.replicate 56 0 ++ List.replicate 128 0x88
/-- A step that takes its local values as table-coded words. -/
theorem hyps_CollectiveStepsMoveOn_table :
    let d := leBytes 1 0x14 ++ leBytes 1 2 ++ (stepBytes 0x14 0).drop 2
    let x := collStepOf d
    let s := collects { runningCmp with desc := some d } 0x14 0
    let gone : State := { s with poison := [0] }
    let good : State := { s with mem := memWrite [] 0 tableImage }
    (s.cmp 0).current = some x ∧ x.needsTable = true ∧ (s.cmp 0).table = none
      ∧ (gone.readRun (cmpWho 0) x.table 192).2.anyPoison = true ∧ (good.cmp 0).current = some x
      ∧ (good.readRun (cmpWho 0) x.table 192).2.anyPoison = false
      ∧ (tableOf (good.readRun (cmpWho 0) x.table 192).2.data).isSome = true
      ∧ (s.readRun (cmpWho 0) x.table 192).2.anyPoison = false ∧ tableOf (s.readRun (cmpWho 0) x.table 192).2.data = none
      ∧ (x.wait = true → (s.cmp 0).tokenHeld = true) := by
  decide +kernel
/-- A header word of stream `stream`. -/
def headWord (kind form slot stream values words gen : Nat) : CodeWord :=
  Header.word { kind := kind, form := form, raw := false, slot := slot, stream := stream, values := values, words := words, gen := gen, exp := 0 }
/-- A block of four values 0 in fp32. -/
def blockMsg (stream : Nat) : InMsg := { stream := stream, words := headWord 1 0 0 stream 4 2 0 :: zeroWords 1, bufs := [(0, 2)] }
/-- Engine 0 in a step with a balance, blocks of the streams 0 and 1 at port 0. -/
def adding (use form : Nat) : State :=
  let d := leBytes 1 use ++ leBytes 1 form ++ (stepBytes use 0).drop 2
  let y : Cmp := { runningCmp with
    desc := some d, table := if form = 2 then some tableImage else none, slots := [(0, { gen := 1, lens := [], valid := true })] }
  (rich (collects y use 0) (pCmp 0)).setLadder 0 { Ladder.reset with inq := [blockMsg 1, blockMsg 0] }
def gives (r : BlockRead) : Bool := match r with
  | .ok _ _ => true
  | _ => false
theorem adding_pays (form : Nat) (h : form < 3) (u : Nat) :
    (adding 0x1D form).covered (pCmp 0) ((adding 0x1D form).price [(14, aHub, u)]) = true := by
  have h0 : (adding 0x1D form).unitPrice 14 aHub = 0 := by interval_cases form <;> decide +kernel
  have h1 : (adding 0x1D form).covered (pCmp 0) 0 = true := by interval_cases form <;> decide +kernel
  simpa [State.price, h0] using h1
theorem hyps_CollectiveStepsMoveOn_sums : ∀ use ∈ [0x1D, 0x1F, 0x09], ∀ form ∈ [0, 1, 2],
    let s := adding use form
    let y := s.cmp 0
    let x := collStepOf (y.desc.getD [])
    s.cmpActive 0 = true ∧ y.running = true ∧ y.step < s.stepCount 0 ∧ y.current = some x ∧ x.wait = false
      ∧ ((x.readsAt y).any fun a => s.hostWaits a 1) = false ∧ (x.needsTable = true → y.table.isSome = true) ∧ y.block < x.blocks
      ∧ x.useIn = true ∧ (x.out = true → x.form = 2 → (y.slotOf x.outStream (y.activeSlot x.outStream)).gen = (y.stepTable.getD noTable).gen)
      ∧ x.inPort = 0 ∧ x.inStream = 1 ∧ x.in2Stream = 0
      ∧ (match (s.ladder 0).inHead 1, (s.ladder 0).inHead 0 with
        | .block m1, .block m2 => decide (m1 = blockMsg 1) && decide (m2 = blockMsg 0)
            && gives (decodeBlock m1.words (x.size 0) (s.portTable 0)) && gives (decodeBlock m2.words (x.size 0) (s.portTable 0))
        | _, _ => false) = true
      ∧ x.localFmt ≠ 15 ∧ x.destFmt ≠ 15 ∧ (s.readRun (cmpWho 0) x.localAt 16).2.anyPoison = false
      ∧ x.useLocal = (use != 0x09) ∧ x.useIn2 = (use == 0x1F) ∧ x.store = (use != 0x09)
      ∧ (s.ladder 0).carries = false := by decide +kernel
theorem hyps_CollectiveStepsMoveOn_waits :
    let s := enabled (stepping 0x14 0x20) (bTok 0)
    let x := collStepOf (stepBytes 0x14 0x20)
    let op : HeldOp := .stepTake 0 (BitVec.ofNat 16 x.waitToken)
    let long : State := { (collects { runningCmp with waitToken := true } 0x14 0x20).setFld (bCmp 0) 0x108 24 16 2 with
      turns := { Turns.reset with elapsed := 3 } }
    s.cmpActive 0 = true ∧ (s.cmp 0).running = true ∧ (s.cmp 0).step < s.stepCount 0 ∧ (s.cmp 0).current = some x
      ∧ x.wait = true ∧ (s.cmp 0).tokenHeld = false ∧ op ∉ Map.get s.held (tokTile x.waitToken) []
      ∧ op ∈ Map.get ({ s with held := [(tokTile x.waitToken, [op])] } : State).held (tokTile x.waitToken) []
      ∧ s.isDisabled (bTok (tokTile x.waitToken)) = false ∧ Map.get s.held (tokTile x.waitToken) [] = []
      ∧ (s.token (x.waitToken % 65536)).count.toNat = 0
      ∧ 0 < ((s.setToken 3 { Token.reset with count := 1 }).token (x.waitToken % 65536)).count.toNat
      ∧ (stepping 0x14 0x20).isDisabled (bTok (tokTile x.waitToken)) = true
      ∧ ((stepping 0x14 0x20).cmp 0).current = some x
      ∧ long.cmpActive 0 = true ∧ (long.cmp 0).waitToken = true ∧ (long.cmp 0).waitLong = false
      ∧ long.fld (bCmp 0) 0x108 24 16 ≠ 0 ∧ (long.cmp 0).waitSince + long.fld (bCmp 0) 0x108 24 16 ≤ long.elapsed
      ∧ powered.fld (bCmp 0) 0x108 24 16 = 0 := by decide +kernel
/-- The header word of a message of one value in fp32, on stream 1. -/
def blockHead : CodeWord :=
  Header.word { kind := 1, form := 0, raw := false, slot := 0, stream := 1, values := 1, words := 2, gen := 0, exp := 0 }
def tableHead : CodeWord :=
  Header.word { kind := 2, form := 0, raw := false, slot := 1, stream := 1, values := 1, words := 13, gen := 0, exp := 0 }
theorem hyps_CollectiveStepsMoveOn_delivery :
    let fs : List (Nat × List CodeWord) := [(0, blockHead :: zeroWords 127)]
    let x : Ladder := { upPort with rx0 := fs, bufs0 := [(0, 128)], nextBuf := 1 }
    let s := powered.setLadder 0 x
    let h := headerOf (receive blockHead.data blockHead.check).1.toNat
    let broken : Ladder := { x with rx0 := [(0, { data := 1, check := nibbleEncode 1 } :: zeroWords 127)] }
    let late : Ladder := { x with rx0 := [(0, [blockHead])] }
    let takes := (stepping 0x11 0).setLadder 0 x
    ({ x with mismatch := true } : Ladder).mismatch = true ∧ (s.ladder 0).mismatch = false ∧ (dropPads x.rx0).1 = fs
      ∧ (receive blockHead.data blockHead.check).2.1 = false ∧ h.ok = true ∧ h.stream = 1 ∧ h.words = 2
      ∧ (dropPads broken.rx0).1 = broken.rx0 ∧ (headerOf (receive 1 (nibbleEncode 1)).1.toNat).ok = false
      ∧ (dropPads late.rx0).1 = [(0, [blockHead])]
      ∧ (takeWords late.rx0 h.words).isNone = true
      ∧ takes.consumer 0 1 = some 0 ∧ takes.needed 0 1 = true ∧ s.consumer 0 1 = none
      ∧ x.inq = [] ∧ x.brokenStreams = [] ∧ (∃ q ∈ [((1 : Nat), (none : Option Nat))], q.1 = h.stream)
      ∧ (dropPads upPort.rx0).1 = []
      ∧ (let held := powered.setLadder 0 { x with inq := [blockMsg 1] }
        ∃ m ∈ (held.ladder 0).inq, held.consumer 0 m.stream = none) := by
  decide +kernel
theorem hyps_CollectiveStepsMoveOn_words :
    takeWords [(0, blockHead :: zeroWords 127)] (headerOf (receive blockHead.data blockHead.check).1.toNat).words
      = some (blockHead :: zeroWords 1, [(0, zeroWords 126)], [(0, 2)]) := rfl
theorem hyps_CollectiveStepsMoveOn_tables :
    let bad : InMsg := { stream := 1, words := tableHead :: zeroWords 12, bufs := [(0, 13)] }
    let good : InMsg := { stream := 1, words := headWord 2 0 1 1 0 13 1 :: wordsOfBytes tableImage, bufs := [(0, 13)] }
    let s (m : InMsg) := (stepping 0x11 0).setLadder 0 { upPort with inq := [m] }
    firstTable [] (powered.ladder 0).inq = none ∧ firstTable [] [bad] = some bad ∧ firstTable [] [good] = some good
      ∧ (powered.consumer 0 1 = none) ∧ (s bad).consumer 0 1 = some 0 ∧ (s good).consumer 0 1 = some 0
      ∧ ((s good).ladder 0).slotRefs 1 1 = 0 ∧ (headerOf (headWord 2 0 1 1 0 13 1).data.toNat).slot = 1
      ∧ (messageTable bad.words).isNone = true ∧ (messageTable good.words).isSome = true := by
  decide +kernel
/-- The link down with epoch 3 behind it, and up again with a decision to take. -/
def downNcl : Ncl := { Ncl.reset with everUp := true, epoch := 3, egressHeld := true }
def decides : Ncl := { downNcl with up := true, decide := true, resumePending := true }
theorem hyps_LinkEpochsAreDecided :
    let auto := (powered.setNcl downNcl).setFld bNcl 0x108 0 1 1
    let timed := (powered.setNcl decides).setFld bNcl 0x108 16 32 5
    let e : Egress := { addr := hostBase, bytes := [1, 2], poison := false, owner := .home, completion := none }
    let sends := linked.setNcl { linked.ncl with egress := [e] }
    linked.ncl.up = true ∧ linked.ncl.flitReplays < 7 ∧ powered.ncl.up = false ∧ powered.ncl.epoch = 0
      ∧ powered.cores = [] ∧ powered.homes = [] ∧ downNcl.up = false ∧ downNcl.epoch ≠ 0 ∧ downNcl.hostReset = false
      ∧ auto.fld bNcl 0x108 0 1 = 1 ∧ (powered.setNcl downNcl).fld bNcl 0x108 0 1 = 0 ∧ downNcl.heldSnoops = []
      ∧ decides.decide = true ∧ (3 : BitVec 32) = decides.epoch ∧ (2 : BitVec 32) ≠ decides.epoch
      ∧ decides.heldSnoops = []
      ∧ ({ decides with decide := false } : Ncl).resumePending = true ∧ decides.resumePending = true
      ∧ timed.fld bNcl 0x108 16 32 ≠ 0 ∧ timed.ncl.decide = true ∧ powered.fld bNcl 0x108 16 32 = 0
      ∧ linked.ncl.egress = [] ∧ sends.ncl.egress = [e] ∧ sends.ncl.up = true ∧ sends.ncl.decide = false
      ∧ sends.ncl.egressHeld = false ∧ sends.cores = []
      ∧ (downNcl.egress.any fun q => q.owner == .control) = false
      ∧ (({ downNcl with egress := [{ e with owner := .control }] } : Ncl).egress.any fun q => q.owner == .control) = true
      ∧ ({ linked.ncl with flitAcked := 4, flitReplays := 7 } : Ncl).flitReplays + 1 = 8 ∧ Memory.wf sends.mem = true := by decide +kernel
/-- The host window open at 1 GiB. -/
def windowOpen (s : State) : State :=
  let t := s.setFld bNcl 0x100 16 15 1
  t.setNcl { t.ncl with windowEn := true }
theorem hyps_LinkEpochsAreDecided_snoops :
    let l := hostBase / 128
    let s := windowOpen linked
    let owned := s.setDir l { st := .X, owner := 0, sharers := [] }
    (powered.ncl.up = false) ∧ decides.up = true ∧ ((powered.setNcl decides).dir l).st = .U
      ∧ ((powered.setNcl decides).setDir l { st := .X, owner := 0, sharers := [] } |>.dir l).st ≠ .U
      ∧ linked.ncl.decide = false ∧ linked.placeOf (l * 128) ≠ .host
      ∧ s.placeOf (l * 128) = .host ∧ tableRoom (s.home (homeOf (l * 128))) = true ∧ (s.home (homeOf (l * 128))).aged = []
      ∧ (s.home (homeOf (l * 128))).txns = [] ∧ s.dirRoom (homeOf (l * 128)) l = s ∧ (s.dir l).st = .U
      ∧ s.ncl.up = true ∧ s.ncl.decide = false ∧ (s.home (homeOf (l * 128))).hostSnoops = []
      ∧ (let crowd := s.setHome (homeOf (l * 128)) { Home.reset with txns := List.replicate 64 (txnOf .rds 1 []) }
        crowd.placeOf (l * 128) = .host ∧ tableRoom (crowd.home (homeOf (l * 128))) = false
          ∧ (crowd.home (homeOf (l * 128))).aged = [])
      ∧ owned.placeOf (l * 128) = .host ∧ owned.dirRoom (homeOf (l * 128)) l = owned ∧ (owned.dir l).st = .X
      ∧ owned.agentLive (owned.dir l).owner = true := by decide +kernel
/-- A ring command, and the state that holds it at ring 0. -/
def cmdOf (op : Nat) (args : List Byte) (fin : Option Nat) : RingCmd :=
  { op := op, irq := true, tag := 9, args := args, image := [], progress := 0, finished := fin }
def ringHas (x : Ring) : State := (windowOpen linked).setRing 0 x
/-- A slot with a stamp and a check value: NOP, TAG 9. -/
def slotBytes (stamp : Nat) : List Byte :=
  let d := leBytes 2 stamp ++ leBytes 1 1 ++ leBytes 1 0 ++ leBytes 4 9 ++ List.replicate 52 0
  d ++ leBytes 4 (crc32 d)
theorem hyps_RingsRunTheirCommands_slots :
    let base := (hostBase + 0x1000) / 64
    let s0 := (ringHas { Ring.reset with enabled := true, p := 1 }).setFld bNcl (ringBase 0 + 8) 6 46 base
    let s : State := { s0 with mem := memWrite [] (base * 64) (slotBytes 1) }
    let stale : State := { s0 with mem := memWrite [] (base * 64) (slotBytes 2) }
    let d := (s.readKey (base * 64) 64).data
    let n := s.ringSlots 0
    ((0 : BitVec 32) - (powered.ring 0).c).toNat = 0 ∧ 0 < ((1 : BitVec 32) - (powered.ring 0).c).toNat
      ∧ (BitVec.ofNat 32 n - (powered.ring 0).c).toNat ≤ n ∧ n < (BitVec.ofNat 32 (n + 1) - (powered.ring 0).c).toNat
      ∧ s.canFetch 0 = true ∧ powered.canFetch 0 = false ∧ (s.ring 0).staleReads = 0 ∧ s.sqBase 0 = base * 64
      ∧ s.placeOf (base * 64) = .host ∧ s.wire = [] ∧ (s.readKey (base * 64) 64).anyPoison = false
      ∧ fieldLe d 0 2 = ((s.ring 0).c.toNat / n + 1) % 65536 ∧ fieldLe d 60 4 = crc32 (d.take 60)
      ∧ stale.canFetch 0 = true ∧ fieldLe (stale.readKey (base * 64) 64).data 0 2 ≠ 1
      ∧ (let again := s.setRing 0 { s.ring 0 with staleReads := 8 }
        again.canFetch 0 = true ∧ (again.ring 0).staleReads = 8)
      ∧ (let slot := slotBytes 1
        let torn : State := { s0 with mem := memWrite [] (base * 64) (slot.take 63 ++ [slot.getD 63 0 + 1]) }
        let e := (torn.readKey (base * 64) 64).data
        torn.canFetch 0 = true ∧ (torn.readKey (base * 64) 64).anyPoison = false
          ∧ fieldLe e 0 2 = 1 ∧ fieldLe e 60 4 ≠ crc32 (e.take 60))
      ∧ (let closed := s.setNcl { s.ncl with windowEn := false }
        closed.canFetch 0 = true ∧ closed.placeOf (base * 64) ≠ .host)
      ∧ fieldLe d 2 1 = 1 := by decide +kernel
theorem hyps_RingsRunTheirCommands_work :
    let does (c : RingCmd) : State := ringHas { Ring.reset with enabled := true, p := 1, cmd := some c }
    let sig := cmdOf 5 (leBytes 2 3 ++ leBytes 2 0 ++ leBytes 4 7 ++ List.replicate 40 0) none
    let copy (op : Nat) := cmdOf op (leBytes 8 (hostBase + 0x2000) ++ leBytes 8 0x4000 ++ leBytes 8 200 ++ List.replicate 24 0) none
    let s (op : Nat) := rich (enabled (does (copy op)) (bCmp 8)) (pCmp 8)
    let q := copyArgs (copy 3).args
    let out := (s 3).readRun ringWho (q.dev + (rangeLine q.host q.len 0).1) (rangeLine q.host q.len 0).2
    (powered.ring 0).cmd = none ∧ (does (cmdOf 1 [] (some 0))).ring 0 = (does (cmdOf 1 [] (some 0))).ring 0
      ∧ (cmdOf 1 [] (some 0)).finished ≠ none ∧ ((does (cmdOf 1 [] none)).ring 0).cmd = some (cmdOf 1 [] none)
      ∧ (cmdOf 1 [] none).op = 1 ∧ (cmdOf 1 [] none).finished = none ∧ (cmdOf 4 [] none).op = 4
      ∧ linked.ncl.mailbox.length < 64
      ∧ 64 ≤ ({ linked.ncl with mailbox := List.replicate 64 [] } : Ncl).mailbox.length
      ∧ sig.op = 5 ∧ sig.finished = none ∧ fieldLe sig.args 0 2 = 3 ∧ fieldLe sig.args 4 4 = 7
      ∧ q.form = 0 ∧ (s 3).copyActive = true ∧ (s 3).covered (pCmp 8) ((s 3).price [(10, aHub, 1)]) = true
      ∧ (∀ i, i < (rangeLine q.host q.len 0).2 → out.1.placeOf (q.host + (rangeLine q.host q.len 0).1 + i) = .host)
      ∧ out.1.ncl = (s 3).ncl ∧ out.1.dir (lineOf (q.host + (rangeLine q.host q.len 0).1)) = .reset
      ∧ (out.1.home (homeOf (q.host + (rangeLine q.host q.len 0).1))).txns = []
      ∧ (out.1.home (homeOf (q.host + (rangeLine q.host q.len 0).1))).aged = [] ∧ (s 3).wire = [] ∧ (s 3).hostFull q.host q.hostBytes = false
      ∧ (s 2).copyActive = true ∧ (s 2).covered (pCmp 8) ((s 2).price [(10, aHub, 1)]) = true
      ∧ (s 2).hostWaits q.host q.hostBytes = false ∧ (shut (s 2)).hostWaits q.host q.hostBytes = true := by decide +kernel
theorem hyps_RingsRunTheirCommands_completion :
    let s := (ringHas { Ring.reset with enabled := true, p := 1, cmd := some (cmdOf 1 [] (some 0)) }).setFld bNcl
      (ringBase 0 + 0x10) 6 46 ((hostBase + 0x3000) / 64)
    let e : Egress := { addr := hostBase, bytes := [1], poison := false, owner := .ring 0, completion := none }
    let busy := s.setNcl { s.ncl with egress := [e] }
    (s.ring 0).cmd = some (cmdOf 1 [] (some 0)) ∧ (∀ e ∈ s.ncl.egress, e.owner ≠ .ring 0) ∧ s.egressFull = false
      ∧ s.dir (lineOf (s.cqBase 0 + 16 * ((s.ring 0).tail.toNat % s.ringSlots 0))) = .reset
      ∧ (s.home (homeOf (s.cqBase 0 + 16 * ((s.ring 0).tail.toNat % s.ringSlots 0)))).txns = []
      ∧ (s.home (homeOf (s.cqBase 0 + 16 * ((s.ring 0).tail.toNat % s.ringSlots 0)))).aged = [] ∧ s.wire = []
      ∧ s.placeOf (s.cqBase 0 + 16 * ((s.ring 0).tail.toNat % s.ringSlots 0)) = .host
      ∧ (∃ e ∈ busy.ncl.egress, e.owner = .ring 0) ∧ powered.ncl.up = false ∧ linked.ncl.up = true := by decide +kernel
/-- Intake engine 0 enabled, with a batch table of a length. -/
def intakes (y : Intake) (len : Nat) : State := ((enabled powered (bItk 0)).setFld (bItk 0) 0x108 0 16 len).setIntake 0 y
/-- A batch of one token record: batch at 0, program at 0x1000, directory at 0x2000, record at 0x5000. -/
def batchMem (kind : Nat) : List Host.Cell :=
  let batch := leBytes 4 0x4249464E ++ leBytes 2 1 ++ leBytes 1 1 ++ leBytes 1 0 ++ leBytes 4 9 ++ leBytes 4 1
    ++ List.replicate 24 0 ++ leBytes 8 0x2000 ++ leBytes 8 1 ++ leBytes 8 0x1000 ++ leBytes 8 0x3000 ++ leBytes 8 16
    ++ leBytes 8 0x4000
  let program := leBytes 4 0x5049464E ++ leBytes 2 1 ++ leBytes 1 1 ++ List.replicate 9 0 ++ leBytes 4 4
  let entry := leBytes 8 0x5000 ++ leBytes 4 20 ++ leBytes 1 kind
  let record := leBytes 4 0x4B54464E ++ leBytes 4 1 ++ List.replicate 8 0 ++ leBytes 4 77
  memWrite (memWrite (memWrite (memWrite [] 0 batch) 0x1000 program) 0x2000 entry) 0x5000 record
/-- Intake engine 0 on that batch, its records limited to 64 bytes. -/
def feeds (y : Intake) (kind : Nat) : State :=
  { rich ((intakes y 1).setReg (bItk 0) 0x128 (64 * 2 ^ 32)) (pIntake 0) with mem := batchMem kind }
theorem hyps_IntakeRunsTheirBatches :
    let go : Intake := { Intake.reset with granted := true }
    let record := memRead (batchMem 2) 0 128
    let runs : Intake := { Intake.reset with running := true, batch := record, prog := memRead (batchMem 2) 0x1000 256 }
    let s := feeds runs 2
    let b := batchOf record
    let p := intakeProgOf runs.prog
    let ix := sampleIndex (b.first + 0) b.orderSeed b.dirCount
    let long : State := { s.setFld (bItk 0) 0x108 32 16 2 with turns := { Turns.reset with elapsed := 3 } }
    let owes := s.setNcl { s.ncl with egress := [{ addr := hostBase, bytes := [0], poison := false, owner := .unit (intakeWho 0), completion := none }] }
    powered.intakeActive 0 = false ∧ (feeds go 2).intakeActive 0 = true ∧ ((feeds go 2).intake 0).journal = []
      ∧ ((feeds go 2).intake 0).granted = true ∧ ((feeds go 2).intake 0).running = false
      ∧ (intakes go 0).fld (bItk 0) 0x108 0 16 = 0 ∧ (feeds go 2).fld (bItk 0) 0x108 0 16 ≠ 0
      ∧ (intakes go 0).startHeld 0 = false ∧ (feeds go 2).startHeld 0 = false
      ∧ (shut ((feeds go 2).setFld (bItk 0) 0x100 7 45 (hostBase / 128))).startHeld 0 = true
      ∧ ((feeds go 2).batchCode 0).2 = 0 ∧ ((intakes go 1).batchCode 0).2 = 1 ∧ (intakes go 1).intakeActive 0 = true
      ∧ (intakes go 1).startHeld 0 = false
      ∧ s.intakeActive 0 = true ∧ (s.intake 0).running = true ∧ (s.intake 0).journal = []
      ∧ b.count ≤ ({ runs with position := 1 } : Intake).position ∧ (s.intake 0).position < b.count
      ∧ s.owed (.unit (intakeWho 0)) = false ∧ owes.owed (.unit (intakeWho 0)) = true
      ∧ s.hostWaits (b.dir + 16 * ix) 16 = false ∧ s.hostFull b.dest 1 = false ∧ s.hostFull b.side 1 = false
      ∧ s.hostWaits (fieldLe (s.peek (b.dir + 16 * ix) 8 : PBytes).data 0 8) 1 = false
      ∧ (let far (at' : Nat) : Intake := { runs with batch := record.take at' ++ leBytes 8 hostBase ++ record.drop (at' + 8) }
        let away := shut (feeds (far 40) 2)
        away.intakeActive 0 = true ∧ (away.intake 0).running = true ∧ (batchOf (far 40).batch).dir = hostBase
          ∧ away.hostWaits (hostBase + 16 * ix) 16 = true ∧ (batchOf (far 64).batch).dest = hostBase
          ∧ (windowOpen (feeds (far 64) 2)).intakeActive 0 = true)
      ∧ s.covered (pIntake 0) (s.price [(12, aHub, (s.sampleOf 0 b p ix).2.work)]) = true
      ∧ (s.sampleOf 0 b p ix).2.reason = 0 ∧ ((feeds runs 1).sampleOf 0 b p ix).2.reason ≠ 0
      ∧ long.intakeActive 0 = true ∧ (long.intake 0).running = true ∧ (long.intake 0).waitLong = false
      ∧ long.fld (bItk 0) 0x108 32 16 ≠ 0 ∧ (long.intake 0).waitSince + long.fld (bItk 0) 0x108 32 16 ≤ long.elapsed
      ∧ s.fld (bItk 0) 0x108 32 16 = 0 := by decide +kernel
/-- A write of n bytes to the host; 2^26 + 1 are more than the egress buffer holds (R400). -/
def bigWrite (n : Nat) : Egress :=
  { addr := hostBase, bytes := List.replicate n 0, poison := false, owner := .home, completion := none }
def fills (n : Nat) (s : State) : State := s.setNcl { s.ncl with egress := [bigWrite n] }
theorem fills_full {n : Nat} (h : 2 ^ 26 < n) (s : State) : (fills n s).egressFull = true := by
  have : ¬n ≤ 67108864 := by omega
  simp [State.egressFull, State.egressBytes, fills, State.setNcl, inBuffer, bigWrite, this]
/-- A full egress buffer: a copy out, an intake sample, a collective step, a completion, a save's copy and a report. -/
theorem fills_all {n : Nat} (hn : 2 ^ 26 < n) :
    ∀ s : State, s ∈ [windowOpen linked, windowOpen (stepping 0x14 0), windowOpen powered] →
    (fills n s).hostFull hostBase 1 = true ∧ (fills n s).egressFull = true := by
  intro s h
  refine ⟨?_, fills_full hn s⟩
  have hs : (fills n s).hostSize = s.hostSize := rfl
  simp only [State.hostFull, fills_full hn, Bool.and_true, hs]
  revert h
  simp only [List.mem_cons, List.not_mem_nil, or_false]
  rintro (rfl | rfl | rfl) <;> decide +kernel
theorem hyps_full : ∀ s : State, s ∈ [windowOpen linked, windowOpen (stepping 0x14 0), windowOpen powered] →
    (fills 67108865 s).hostFull hostBase 1 = true ∧ (fills 67108865 s).egressFull = true := fills_all (by norm_num)

/-! Images whose digests stand for themselves: a restorable checkpoint, a recovery image, a layout image. -/

/-- A digest of a part, as 32 bytes. -/
def digest32 (bs : List Byte) : List Byte := (List.range 32).map fun j => (shake256 bs 32).getD j 0
theorem digest32_eq (bs : List Byte) : digest32 bs = shake256 bs 32 := by
  apply List.ext_getElem
  · simp [digest32, length_shake256]
  · intro i h1 h2
    simp [digest32, h2]
theorem length_digest32 (bs : List Byte) : (digest32 bs).length = 32 := by simp [digest32]

/-- A checkpoint of 384 payload bytes: control line, digest line, payload. -/
def ckptControl : List Byte :=
  leBytes 4 0x4B43464E ++ leBytes 2 1 ++ leBytes 2 1 ++ List.replicate 32 0 ++ leBytes 8 384 ++ List.replicate 80 0
def ckptPayload : List Byte := List.replicate 256 0 ++ planBytes 0 ++ List.replicate 28 0
def ckptTail : List Byte := List.replicate 64 0 ++ shake256 ckptPayload 32 ++ List.replicate 32 0 ++ ckptPayload
def ckptMem : List Host.Cell := memWrite (memWrite [] 0 ckptControl) 128 ckptTail
/-- A verified layout with a digest of zeros, and the checkpoint at address 0. -/
def ckptState : State :=
  { verifiedBy [] with
    mem := ckptMem, loader := { (verifiedBy []).loader with digest := List.replicate 64 0 } }
theorem ckptMem_wf : Memory.wf ckptMem = true := Memory.wf_memWrite _ _ (Memory.wf_memWrite _ _ rfl)
theorem ckptTail_length : ckptTail.length = 512 := by
  simp only [ckptTail, List.length_append, length_shake256 ckptPayload (show 32 < 136 by norm_num), List.length_replicate]
  rw [show ckptPayload.length = 384 from by decide +kernel]
theorem ckpt_reads : memRead ckptMem 0 128 = ckptControl ∧ memRead ckptMem 128 512 = ckptTail := by
  have h0 : Memory.wf (memWrite [] 0 ckptControl) = true := Memory.wf_memWrite _ _ rfl
  have hl : ckptControl.length = 128 := by decide +kernel
  refine ⟨?_, ?_⟩
  · rw [ckptMem, memRead_memWrite_other h0 _ _ _ _ (.inl (by norm_num)), ← hl]
    exact memRead_memWrite_same rfl 0 ckptControl
  · have := memRead_memWrite_same h0 128 ckptTail
    rwa [ckptTail_length] at this
theorem restoreReads_two (s : State) (base : Nat) :
    (s.restoreReads base).2 = ((s.readRun saveWho base 128).2,
      if restoreReadable base (s.readRun saveWho base 128).2 then
        ((s.readRun saveWho base 128).1.readRun saveWho (base + 128) (128 + fieldLe (s.readRun saveWho base 128).2.data 40 8)).2
      else []) := by
  unfold State.restoreReads
  rcases s.readRun saveWho base 128 with ⟨a, b⟩
  dsimp only
  split <;> rfl
theorem startRestore_plain {s : State} {m : List Host.Cell} (h : s.Plain m) (j b : Bool) : (s.startRestore j b).Plain m := by
  unfold State.startRestore
  split <;> exact h
/-- The reads of RESTORE give the control line, the digest line and the payload; the checks pass; token 0 is the one saved. -/
theorem hyps_SavesAndJournal_restore :
    let s1 := ckptState.startRestore false false
    let base := ckptState.fld bSav 0x140 7 45 * 128
    let r := s1.restoreReads base
    ckptState.save.restoring = none ∧ ckptState.power.issueStopped = false ∧ ckptState.hostWaits base 128 = false
      ∧ ∃ p, s1.restoreCheck base false r.2.1 r.2.2 = some p ∧ p.tokens = [0] := by
  intro s1 base r
  have hp : s1.Plain ckptMem := startRestore_plain ⟨rfl, rfl, rfl, rfl, rfl, rfl⟩ _ _
  have hb : base = 64 * 0 := by decide +kernel
  have e4 : fieldLe ckptControl 40 8 = 384 := by decide +kernel
  have e5 : restoreReadable (64 * 0) (PBytes.clean ckptControl) = true := by decide +kernel
  have h0 : r = s1.restoreReads base := rfl
  have hr : r.2 = (PBytes.clean ckptControl, PBytes.clean ckptTail) := by
    have h1 := readRun_plain hp ckptMem_wf saveWho 0 2 (by decide)
    have h2 := readRun_plain h1.2 ckptMem_wf saveWho 2 8 (by decide)
    rw [show memRead ckptMem (64 * 0) (64 * 2) = ckptControl from ckpt_reads.1] at h1
    rw [show memRead ckptMem (64 * 2) (64 * 8) = ckptTail from ckpt_reads.2] at h2
    rw [h0, hb, restoreReads_two, show (128 : Nat) = 64 * 2 from rfl, h1.1, if_pos e5, data_clean, e4]
    exact congrArg _ h2.1
  have hs := length_shake256 ckptPayload (show 32 < 136 by norm_num)
  have e1 : (ckptTail.drop 64).take 32 = shake256 ckptPayload 32 := by
    rw [ckptTail, List.append_assoc, List.append_assoc, List.drop_left' (by simp), List.take_left' hs]
  have e2 : ckptTail.drop 128 = ckptPayload := by
    rw [ckptTail]
    exact List.drop_left' (by simp [hs])
  have e3 : ckptTail.take 64 = List.replicate 64 0 := by
    rw [ckptTail, List.append_assoc, List.append_assoc]
    exact List.take_left' (by simp)
  refine ⟨rfl, rfl, by decide +kernel, planOf ((ckptPayload.drop 256).take (planLen ((ckptPayload.drop 256).take 64))), ?_, by decide +kernel⟩
  rw [hr, hb]
  unfold State.restoreCheck
  simp only [data_clean, anyPoison_clean, e1, e2, e3, e5]
  rw [if_neg (by decide), if_neg (by simp), if_pos (by decide +kernel)]

/-- A firmware image: header with the key of zeros, a body of 64 bytes, digest and signature. -/
def goodHead : List Byte :=
  leBytes 4 0x5746464E ++ leBytes 2 1 ++ List.replicate 10 0 ++ leBytes 8 64 ++ List.replicate 2088 0
def goodDigest : List Byte := shake256 goodHead 64
def goodImg : List Byte := goodHead ++ goodDigest ++ zeroSig goodDigest
/-- Mask ROM that names the key of zeros. -/
def goodRom (s : State) : State := { s with rom := { s.rom with vendorDigest := shake256 zeroKey 32 } }
theorem goodHead_length : goodHead.length = firmwareHead + 64 := by decide +kernel
theorem goodDigest_length : goodDigest.length = 64 := length_shake256 _ (by norm_num)
theorem goodImg_length : goodImg.length = 5485 := by
  rw [goodImg, List.length_append, List.length_append, goodHead_length, goodDigest_length, length_zeroSig]
  rfl
theorem goodImg_head (n off : Nat) (h : off + n ≤ 2112) : (goodImg.drop off).take n = (goodHead.drop off).take n := by
  have hl : goodHead.length = 2112 := goodHead_length
  rw [goodImg, List.append_assoc, List.drop_append_of_le_length (by omega), List.take_append_of_le_length (by simp; omega)]
theorem goodImg_body : firmwareBody goodImg = 64 := by
  unfold firmwareBody Machine.fieldLe
  rw [goodImg_head 8 16 (by norm_num)]
  decide +kernel
theorem goodImg_ok : firmwareHeadOk goodImg = true := by
  unfold firmwareHeadOk
  rw [goodImg_body]
  simp only [Machine.fieldLe, zeroRange, goodImg_head 4 0 (by norm_num), goodImg_head 2 4 (by norm_num),
    goodImg_head 2 6 (by norm_num), goodImg_head 4 12 (by norm_num), goodImg_head 32 32 (by norm_num),
    goodImg_head 32 2016 (by norm_num), goodImg_head 8 24 (by norm_num)]
  decide +kernel
/-- The image passes every check: its signature of zeros verifies under the key of zeros. -/
theorem goodImg_passes (s : State) : (goodRom s).firmwareReason goodImg = none := by
  have k1 : (goodImg.drop 64).take keySize = zeroKey := by
    rw [goodImg_head keySize 64 (by decide)]
    decide +kernel
  have k2 : goodImg.take (firmwareHead + 64) = goodHead := by
    rw [goodImg, List.append_assoc]
    exact List.take_left' goodHead_length
  have k3 : (goodImg.drop (firmwareHead + 64)).take 64 = goodDigest := by
    rw [goodImg, List.append_assoc, List.drop_left' goodHead_length, List.take_left' goodDigest_length]
  have k4 : (goodImg.drop (firmwareHead + 64 + 64)).take 3309 = zeroSig goodDigest := by
    rw [goodImg, List.drop_left' (by rw [List.length_append, goodHead_length, goodDigest_length]),
      List.take_of_length_le (by rw [length_zeroSig])]
  unfold State.firmwareReason
  simp only [goodImg_body, goodImg_ok, k1, k2, k3, k4, verify_zero]
  rw [goodImg_length]
  simp [firmwareSize, firmwareHead, goodRom, goodDigest]
def recovState : State :=
  goodRom { linked with
    mem := memWrite [] hostBase goodImg
    regs := [(regKey bNcl 0x908, 5485)]
    security := { linked.security with recovWaiting := true } }
/-- A recovery image that passes. -/
theorem hyps_RecoveryRunsAGoodImageOnly_accepted :
    recovState.security.recovWaiting = true ∧ recovState.ncl.up = true ∧ recovState.recoveryImage.2.anyPoison = false
      ∧ recovState.firmwareReason recovState.recoveryImage.2.data = none := by
  have hr : recovState.recoveryImage.2 = PBytes.clean goodImg := by
    have hp : recovState.Plain (memWrite [] hostBase goodImg) := ⟨rfl, rfl, rfl, rfl, rfl, rfl⟩
    unfold State.recoveryImage
    rw [arrive_plain hp, readKey_plain hp, show (recovState.reg bNcl 0x900).toNat = 0 from by decide +kernel,
      show recovState.fld bNcl 0x908 0 25 = 5485 from by decide +kernel, Nat.add_zero, ← goodImg_length]
    exact congrArg PBytes.clean (memRead_memWrite_same rfl hostBase goodImg)
  refine ⟨rfl, rfl, by rw [hr, anyPoison_clean], ?_⟩
  rw [hr, data_clean]
  exact goodImg_passes _
/-- The same image with a poisoned word passes the checks and fails as a read. -/
theorem hyps_RecoveryRunsAGoodImageOnly_poisoned :
    let s : State := { recovState with poison := [hostBase / 16] }
    s.security.recovWaiting = true ∧ s.ncl.up = true ∧ s.recoveryImage.2.anyPoison = true
      ∧ s.firmwareReason s.recoveryImage.2.data = none := by
  intro s
  have hk : ∀ k n, (s.readKey k n).data = memRead s.mem k n := fun k n => by
    unfold State.readKey PBytes.data
    rw [List.map_fst_zip (by simp [length_memRead])]
  have hb : hostBase + (s.reg bNcl 0x900).toNat = hostBase := by
    rw [show (s.reg bNcl 0x900).toNat = 0 from by decide +kernel, Nat.add_zero]
  have hn : s.fld bNcl 0x908 0 25 = 5485 := by decide +kernel
  have hr : s.recoveryImage.2 = s.readKey hostBase 5485 := by
    unfold State.recoveryImage
    rw [hb, hn]
    rfl
  refine ⟨rfl, rfl, ?_, ?_⟩
  · rw [hr]
    refine List.any_eq_true.2 ⟨(s.readKey hostBase 5485)[0]'(by simp [State.readKey, length_memRead]), List.getElem_mem _, ?_⟩
    simp only [State.readKey, List.getElem_zip, List.getElem_map, List.getElem_range]
    decide +kernel
  · have hd : (s.readKey hostBase 5485).data = goodImg := by
      rw [hk, ← goodImg_length]
      exact memRead_memWrite_same rfl hostBase goodImg
    rw [hr, hd]
    exact goodImg_passes _
/-- The image in module flash, at power-up and at a warm reset. -/
def flashed (s : State) : State := goodRom (s.flashWrite 0 goodImg)
theorem power_flashWrite (s : State) (off : Nat) (bs : List Byte) : (goodRom (s.flashWrite off bs)).power = s.power := rfl
theorem goodRom_flash (s : State) (off n : Nat) : (goodRom s).flashRead off n = s.flashRead off n := rfl
theorem flashed_image (s : State) : (flashed s).flashImage = goodImg := by
  have hr : ∀ n, n ≤ 5485 → (flashed s).flashRead 0 n = goodImg.take n := fun n hn => by
    rw [flashed, goodRom_flash, flashRead_flashWrite s 0 goodImg n (by rw [goodImg_length]; exact hn)]
  have h0 : goodImg.take firmwareHead = goodHead.take firmwareHead := by
    have := goodImg_head firmwareHead 0 (by decide)
    rwa [List.drop_zero, List.drop_zero] at this
  have hh : firmwareHeadOk (goodHead.take firmwareHead) = true := by decide +kernel
  have hb : firmwareBody (goodHead.take firmwareHead) = 64 := by decide +kernel
  unfold State.flashImage
  simp only [hr firmwareHead (by decide), h0, hh, if_true, hb]
  rw [hr _ (by decide), List.take_of_length_le (by rw [goodImg_length]; decide)]
theorem imageReason_of {s : State} {img : List Byte} (b : Bool) (h : s.firmwareReason img = none) :
    s.imageReason img b = if b then some 5 else none := by
  unfold State.imageReason
  rw [h]
/-- A device with a good image in flash, held in cold reset and running; its reads fail or do not. -/
theorem hyps_PowerUpBootsOnce_good : (flashed State.reset).power.held = true
    ∧ (flashed State.reset).imageReason (flashed State.reset).flashImage false = none
    ∧ (flashed State.reset).imageReason (flashed State.reset).flashImage true = some 5
    ∧ (flashed powered).imageReason (flashed powered).flashImage false = none := by
  have h : ∀ s b, (flashed s).imageReason (flashed s).flashImage b = if b then some 5 else none := by
    intro s b
    rw [flashed_image]
    exact imageReason_of _ (goodImg_passes _)
  have hp : (flashed State.reset).power = State.reset.power := power_flashWrite State.reset 0 goodImg
  refine ⟨?_, ?_, ?_, ?_⟩
  · rw [hp]
    decide
  · rw [h, if_neg Bool.false_ne_true]
  · rw [h, if_pos rfl]
  · rw [h, if_neg Bool.false_ne_true]

/-! A layout image of 21,312 bytes: the smallest section of each type. -/

theorem fieldLe_append (a b : List Byte) (off n : Nat) (h : off + n ≤ a.length) :
    Machine.fieldLe (a ++ b) off n = Machine.fieldLe a off n := by
  unfold Machine.fieldLe
  rw [List.drop_append_of_le_length (by omega), List.take_append_of_le_length (by simp; omega)]
/-- A block of a concatenation, by the lengths of the blocks before it. -/
theorem slice_block : ∀ (bl : List (List Byte)) (k : Nat), k < bl.length →
    slice bl.flatten ((bl.map List.length).take k).sum (bl.getD k []).length = bl.getD k []
  | [], k, hk => by simp at hk
  | b :: bl, 0, _ => by simp [slice]
  | b :: bl, k + 1, hk => by
    have := slice_block bl k (by simpa using hk)
    simp only [slice] at this
    simp only [slice, List.map_cons, List.take_succ_cons, List.sum_cons, List.getD_cons_succ, List.flatten_cons]
    rw [← List.drop_drop, List.drop_left' rfl]
    exact this

def dieMapBytes : List Byte :=
  ((List.range 48).map fun d => BitVec.ofNat 8 (13 * (d / 12) + d % 12)) ++ List.replicate 16 0
def unusedCore : List Byte := [0xFF, 0xFF] ++ List.replicate 14 0
def stageBytes : List Byte := (List.replicate 64 0 :: List.replicate 384 unusedCore).flatten
def routeBytes : List Byte := List.replicate 8 0 ++ [0, 0, 1, 2, 0, 0] ++ List.replicate 50 0
def bankBytes : List Byte := List.replicate 13312 0
def tokenBytes : List Byte := leBytes 4 1 ++ List.replicate 60 0 ++ [0, 0, 0, 0, 0, 1] ++ List.replicate 10 0
def energyBytes : List Byte :=
  leBytes 2 400 ++ leBytes 2 1400 ++ List.replicate 12 0 ++ leBytes 4 64 ++ leBytes 4 512 ++ List.replicate 40 0
    ++ leBytes 4 priceMagic ++ leBytes 2 1 ++ List.replicate 506 0
def intakeBytes : List Byte := leBytes 2 1 ++ leBytes 2 1 ++ leBytes 4 1 ++ leBytes 4 1 ++ List.replicate 52 0
def zeros64 : List Byte := List.replicate 64 0
def layoutHead : List Byte :=
  leBytes 4 layoutMagic ++ leBytes 2 1 ++ leBytes 2 9 ++ leBytes 8 21248 ++ leBytes 8 21312 ++ leBytes 8 77 ++ List.replicate 96 0
/-- A directory entry. -/
def entryHead (ty off len : Nat) : List Byte :=
  leBytes 2 ty ++ leBytes 2 1 ++ List.replicate 4 0 ++ leBytes 8 off ++ leBytes 8 len ++ List.replicate 8 0
def entryOf (ty off len : Nat) (sec : List Byte) : List Byte := entryHead ty off len ++ digest32 sec
/-- Entries, sections, and the zero bytes after the token section. -/
def layoutRest : List (List Byte) :=
  [entryOf 1 704 64 dieMapBytes,
   entryOf 2 768 6208 stageBytes,
   entryOf 3 6976 64 routeBytes,
   entryOf 4 7040 13312 bankBytes,
   entryOf 5 20352 80 tokenBytes,
   entryOf 6 20480 576 energyBytes,
   entryOf 7 21056 64 intakeBytes,
   entryOf 8 21120 64 zeros64,
   entryOf 9 21184 64 zeros64,
   dieMapBytes, stageBytes, routeBytes, bankBytes, tokenBytes, List.replicate 48 0, energyBytes, intakeBytes, zeros64, zeros64]
def layoutDigest : List Byte := shake256 (layoutHead :: layoutRest).flatten 64
def layoutBlocks : List (List Byte) := layoutHead :: (layoutRest ++ [layoutDigest])
def layoutImage : List Byte := layoutBlocks.flatten
def layoutLines : List (Nat × Nat × List Byte) :=
  [(704, 64, digest32 dieMapBytes), (768, 6208, digest32 stageBytes), (6976, 64, digest32 routeBytes), (7040, 13312, digest32 bankBytes), (20352, 80, digest32 tokenBytes), (20480, 576, digest32 energyBytes), (21056, 64, digest32 intakeBytes), (21120, 64, digest32 zeros64), (21184, 64, digest32 zeros64)]
def layoutLens : List Nat :=
  [128, 64, 64, 64, 64, 64, 64, 64, 64, 64, 64, 6208, 64, 13312, 80, 48, 576, 64, 64, 64, 64]
theorem length_stageBytes : stageBytes.length = 6208 := by
  rw [stageBytes, List.length_flatten, List.map_cons, List.map_replicate, List.sum_cons, List.sum_replicate, List.length_replicate]
  rfl
theorem length_entryOf (ty off len : Nat) (sec : List Byte) : (entryOf ty off len sec).length = 64 := by
  simp [entryOf, entryHead, length_leBytes, length_digest32]
theorem layout_lens : layoutBlocks.map List.length = layoutLens := by
  have h1 : layoutHead.length = 128 := by decide +kernel
  have h2 : dieMapBytes.length = 64 := by decide +kernel
  have h3 : routeBytes.length = 64 := by decide +kernel
  have h4 : bankBytes.length = 13312 := List.length_replicate
  have h5 : tokenBytes.length = 80 := by decide +kernel
  have h6 : energyBytes.length = 576 := by decide +kernel
  have h7 : intakeBytes.length = 64 := by decide +kernel
  have h8 : zeros64.length = 64 := List.length_replicate
  have h9 : layoutDigest.length = 64 := length_shake256 _ (by norm_num)
  simp only [layoutBlocks, layoutRest, List.cons_append, List.nil_append, List.map_cons, List.map_nil, length_entryOf,
    length_stageBytes, List.length_replicate, h1, h2, h3, h4, h5, h6, h7, h8, h9]
  rfl
theorem layout_block (k : Nat) (hk : k < 21) :
    slice layoutImage (layoutLens.take k).sum (layoutLens.getD k 0) = layoutBlocks.getD k [] := by
  have hn : layoutBlocks.length = 21 := rfl
  have := slice_block layoutBlocks k (by omega)
  rw [layout_lens] at this
  have hd : layoutLens.getD k 0 = (layoutBlocks.getD k []).length := by
    rw [← layout_lens]
    simp [List.getD_eq_getElem?_getD, hn, hk]
  rw [hd]
  exact this
theorem layout_line (i ty off len : Nat) (sec : List Byte) (h : slice layoutImage (128 + 64 * i) 64 = entryOf ty off len sec)
    (h0 : Machine.fieldLe (entryHead ty off len) 0 2 = ty) (h1 : Machine.fieldLe (entryHead ty off len) 2 2 = 1)
    (h2 : Machine.fieldLe (entryHead ty off len) 8 8 = off) (h3 : Machine.fieldLe (entryHead ty off len) 16 8 = len) :
    dirLine layoutImage i = (off, len, digest32 sec) ∧ Machine.fieldLe (slice layoutImage (128 + 64 * i) 64) 0 2 = ty
      ∧ Machine.fieldLe (slice layoutImage (128 + 64 * i) 64) 2 2 = 1 := by
  have hl : (entryHead ty off len).length = 32 := by simp [entryHead, length_leBytes]
  unfold dirLine
  simp only [h, entryOf]
  rw [fieldLe_append _ _ _ _ (by omega), fieldLe_append _ _ _ _ (by omega), fieldLe_append _ _ _ _ (by omega),
    fieldLe_append _ _ _ _ (by omega)]
  refine ⟨?_, h0, h1⟩
  rw [h2, h3]
  simp only [slice]
  rw [List.drop_left' hl, List.take_of_length_le (by simp [length_digest32])]
theorem layout_line_0 : dirLine layoutImage 0 = (704, 64, digest32 dieMapBytes)
    ∧ Machine.fieldLe (slice layoutImage (128 + 64 * 0) 64) 0 2 = 1
    ∧ Machine.fieldLe (slice layoutImage (128 + 64 * 0) 64) 2 2 = 1 :=
  layout_line 0 1 704 64 dieMapBytes (layout_block 1 (by norm_num)) (by decide +kernel) (by decide +kernel) (by decide +kernel)
    (by decide +kernel)
theorem layout_line_1 : dirLine layoutImage 1 = (768, 6208, digest32 stageBytes)
    ∧ Machine.fieldLe (slice layoutImage (128 + 64 * 1) 64) 0 2 = 2
    ∧ Machine.fieldLe (slice layoutImage (128 + 64 * 1) 64) 2 2 = 1 :=
  layout_line 1 2 768 6208 stageBytes (layout_block 2 (by norm_num)) (by decide +kernel) (by decide +kernel) (by decide +kernel)
    (by decide +kernel)
theorem layout_line_2 : dirLine layoutImage 2 = (6976, 64, digest32 routeBytes)
    ∧ Machine.fieldLe (slice layoutImage (128 + 64 * 2) 64) 0 2 = 3
    ∧ Machine.fieldLe (slice layoutImage (128 + 64 * 2) 64) 2 2 = 1 :=
  layout_line 2 3 6976 64 routeBytes (layout_block 3 (by norm_num)) (by decide +kernel) (by decide +kernel) (by decide +kernel)
    (by decide +kernel)
theorem layout_line_3 : dirLine layoutImage 3 = (7040, 13312, digest32 bankBytes)
    ∧ Machine.fieldLe (slice layoutImage (128 + 64 * 3) 64) 0 2 = 4
    ∧ Machine.fieldLe (slice layoutImage (128 + 64 * 3) 64) 2 2 = 1 :=
  layout_line 3 4 7040 13312 bankBytes (layout_block 4 (by norm_num)) (by decide +kernel) (by decide +kernel) (by decide +kernel)
    (by decide +kernel)
theorem layout_line_4 : dirLine layoutImage 4 = (20352, 80, digest32 tokenBytes)
    ∧ Machine.fieldLe (slice layoutImage (128 + 64 * 4) 64) 0 2 = 5
    ∧ Machine.fieldLe (slice layoutImage (128 + 64 * 4) 64) 2 2 = 1 :=
  layout_line 4 5 20352 80 tokenBytes (layout_block 5 (by norm_num)) (by decide +kernel) (by decide +kernel) (by decide +kernel)
    (by decide +kernel)
theorem layout_line_5 : dirLine layoutImage 5 = (20480, 576, digest32 energyBytes)
    ∧ Machine.fieldLe (slice layoutImage (128 + 64 * 5) 64) 0 2 = 6
    ∧ Machine.fieldLe (slice layoutImage (128 + 64 * 5) 64) 2 2 = 1 :=
  layout_line 5 6 20480 576 energyBytes (layout_block 6 (by norm_num)) (by decide +kernel) (by decide +kernel) (by decide +kernel)
    (by decide +kernel)
theorem layout_line_6 : dirLine layoutImage 6 = (21056, 64, digest32 intakeBytes)
    ∧ Machine.fieldLe (slice layoutImage (128 + 64 * 6) 64) 0 2 = 7
    ∧ Machine.fieldLe (slice layoutImage (128 + 64 * 6) 64) 2 2 = 1 :=
  layout_line 6 7 21056 64 intakeBytes (layout_block 7 (by norm_num)) (by decide +kernel) (by decide +kernel) (by decide +kernel)
    (by decide +kernel)
theorem layout_line_7 : dirLine layoutImage 7 = (21120, 64, digest32 zeros64)
    ∧ Machine.fieldLe (slice layoutImage (128 + 64 * 7) 64) 0 2 = 8
    ∧ Machine.fieldLe (slice layoutImage (128 + 64 * 7) 64) 2 2 = 1 :=
  layout_line 7 8 21120 64 zeros64 (layout_block 8 (by norm_num)) (by decide +kernel) (by decide +kernel) (by decide +kernel)
    (by decide +kernel)
theorem layout_line_8 : dirLine layoutImage 8 = (21184, 64, digest32 zeros64)
    ∧ Machine.fieldLe (slice layoutImage (128 + 64 * 8) 64) 0 2 = 9
    ∧ Machine.fieldLe (slice layoutImage (128 + 64 * 8) 64) 2 2 = 1 :=
  layout_line 8 9 21184 64 zeros64 (layout_block 9 (by norm_num)) (by decide +kernel) (by decide +kernel) (by decide +kernel)
    (by decide +kernel)
theorem layout_dirs : dirLines layoutImage = layoutLines := by
  rw [dirLines, show List.range 9 = [0, 1, 2, 3, 4, 5, 6, 7, 8] from rfl]
  simp only [List.map_cons, List.map_nil, layout_line_0.1, layout_line_1.1, layout_line_2.1, layout_line_3.1, layout_line_4.1,
    layout_line_5.1, layout_line_6.1, layout_line_7.1, layout_line_8.1, layoutLines]
theorem layout_front (off n : Nat) (h : off + n ≤ 128) :
    (layoutImage.drop off).take n = (layoutHead.drop off).take n := by
  have hl : layoutHead.length = 128 := by simp [layoutHead, length_leBytes]
  rw [layoutImage, layoutBlocks, List.flatten_cons, List.drop_append_of_le_length (by omega),
    List.take_append_of_le_length (by simp; omega)]
theorem layout_field (off n v : Nat) (h : off + n ≤ 128) (hv : Machine.fieldLe layoutHead off n = v) :
    Machine.fieldLe layoutImage off n = v := (congrArg leNat (layout_front off n h)).trans hv
theorem layout_header : headerOk layoutImage = true ∧ imageLength layoutImage = 21312 ∧ bodyLength layoutImage = 21248
    ∧ imageSigned layoutImage = false := by
  have hb : bodyLength layoutImage = 21248 := layout_field 8 8 _ (by norm_num) (by decide +kernel)
  have hl : imageLength layoutImage = 21312 := layout_field 16 8 _ (by norm_num) (by decide +kernel)
  have h32 : Machine.fieldLe layoutImage 32 4 = 0 := layout_field 32 4 _ (by norm_num) (by decide +kernel)
  have hs : imageSigned layoutImage = false := by rw [imageSigned, h32]; rfl
  have hz : zeroRange layoutImage 36 92 = true := by
    rw [zeroRange, layout_front 36 92 (by norm_num)]
    decide +kernel
  refine ⟨?_, hl, hb, hs⟩
  have h0 : Machine.fieldLe layoutImage 0 4 = layoutMagic := layout_field 0 4 _ (by norm_num) (by decide +kernel)
  have h4 : Machine.fieldLe layoutImage 4 2 = 1 := layout_field 4 2 _ (by norm_num) (by decide +kernel)
  have h6 : Machine.fieldLe layoutImage 6 2 = 9 := layout_field 6 2 _ (by norm_num) (by decide +kernel)
  simp only [headerOk, hb, hl, hs, h32, hz, h0, h4, h6, beq_self_eq_true, Bool.and_true, Nat.reduceMod,
    Nat.reduceAdd, if_neg, Bool.false_eq_true, Nat.add_zero, Nat.reduceLeDiff, decide_true, not_false_eq_true]
theorem zeroRange_nil (d : List Byte) (off : Nat) : zeroRange d off 0 = true := by simp [zeroRange]
theorem layout_gap : zeroRange layoutImage 20432 48 = true := by
  have : slice layoutImage 20432 48 = List.replicate 48 0 := layout_block 15 (by norm_num)
  unfold zeroRange
  unfold slice at this
  rw [this]
  decide +kernel
theorem layout_dir : dirOk layoutImage = true := by
  unfold dirOk
  rw [layout_dirs, layout_header.2.2.1]
  have hall : ((List.range 9).all fun i =>
      let e := slice layoutImage (128 + 64 * i) 64
      Machine.fieldLe e 0 2 == i + 1 && Machine.fieldLe e 2 2 == 1) = true := by
    rw [List.all_eq_true]
    intro i hi
    have hi' : i < 9 := List.mem_range.1 hi
    interval_cases i
    · simp only [layout_line_0.2.1, layout_line_0.2.2]; rfl
    · simp only [layout_line_1.2.1, layout_line_1.2.2]; rfl
    · simp only [layout_line_2.2.1, layout_line_2.2.2]; rfl
    · simp only [layout_line_3.2.1, layout_line_3.2.2]; rfl
    · simp only [layout_line_4.2.1, layout_line_4.2.2]; rfl
    · simp only [layout_line_5.2.1, layout_line_5.2.2]; rfl
    · simp only [layout_line_6.2.1, layout_line_6.2.2]; rfl
    · simp only [layout_line_7.2.1, layout_line_7.2.2]; rfl
    · simp only [layout_line_8.2.1, layout_line_8.2.2]; rfl
  rw [hall]
  simp [layoutLines, dirFrom, zeroRange_nil, layout_gap, strictRising]
theorem stage_entry (c : Nat) (hc : c < 384) : slice stageBytes (64 + 16 * c) 16 = unusedCore := by
  have h := slice_block (List.replicate 64 0 :: List.replicate 384 unusedCore) (c + 1)
    (by rw [List.length_cons, List.length_replicate]; omega)
  have hg : (List.replicate 64 0 :: List.replicate 384 unusedCore).getD (c + 1) [] = unusedCore := by
    rw [List.getD_cons_succ, List.getD_eq_getElem?_getD, List.getElem?_replicate, if_pos hc]
    rfl
  have hu : unusedCore.length = 16 := rfl
  rw [hg, List.map_cons, List.map_replicate, List.take_succ_cons, List.take_replicate, List.sum_cons, List.sum_replicate, hu,
    List.length_replicate, Nat.min_eq_left (by omega), smul_eq_mul, Nat.mul_comm c 16] at h
  exact h
theorem stage_entries : stageEntries stageBytes = [] := by
  rw [stageEntries, List.filterMap_eq_nil_iff]
  intro c hc
  rw [stage_entry c (List.mem_range.1 hc)]
  rfl
theorem stages_ok : stagesOk stageBytes = true := by
  rw [stagesOk, stage_entries, length_stageBytes]
  rfl
theorem banks_ok : banksOk bankBytes = true := by
  have hl : bankBytes.length = 13312 := List.length_replicate
  rw [banksOk, hl, Bool.and_eq_true, List.all_eq_true]
  refine ⟨rfl, fun t ht => ?_⟩
  have ht' : t < 4 := List.mem_range.1 ht
  have hs : slice bankBytes (256 * t) 256 = List.replicate 256 0 := by
    rw [slice, bankBytes, List.drop_replicate, List.take_replicate, Nat.min_eq_left (by omega)]
  simp only [hs]
  decide +kernel
theorem sections_step (s : State) (img : List Byte) (dirs rest : List (Nat × Nat × List Byte)) (ty off len : Nat)
    (sec : List Byte) (hs : slice img off len = sec) (hk : sectionOk s img dirs ty sec = true) :
    (sectionsOk s img dirs ty ((off, len, digest32 sec) :: rest)).2 = (sectionsOk s img dirs (ty + 1) rest).2 := by
  simp [sectionsOk, hs, hk, digest32_eq]
theorem layout_sections (s : State) (h1 : dieMapOk s dieMapBytes = true) (h6 : energyOk s energyBytes = true) :
    (sectionsOk s layoutImage layoutLines 1 layoutLines).2 = true := by
  have h5 : sectionOk s layoutImage layoutLines 5 tokenBytes = true := by
    have hst : slice layoutImage 768 6208 = stageBytes := layout_block 11 (by norm_num)
    show tokensOk tokenBytes (stageMap (slice layoutImage 768 6208)) = true
    rw [hst, stageMap, stage_entries]
    decide +kernel
  rw [show layoutLines = (704, 64, digest32 dieMapBytes) :: layoutLines.tail from rfl,
    sections_step s _ _ _ 1 704 64 dieMapBytes (layout_block 10 (by norm_num)) h1]
  refine (sections_step s _ _ _ 2 768 6208 stageBytes (layout_block 11 (by norm_num)) stages_ok).trans ?_
  refine (sections_step s _ _ _ 3 6976 64 routeBytes (layout_block 12 (by norm_num)) (by decide +kernel : routesOk routeBytes = true)).trans ?_
  refine (sections_step s _ _ _ 4 7040 13312 bankBytes (layout_block 13 (by norm_num)) banks_ok).trans ?_
  refine (sections_step s _ _ _ 5 20352 80 tokenBytes (layout_block 14 (by norm_num)) h5).trans ?_
  refine (sections_step s _ _ _ 6 20480 576 energyBytes (layout_block 16 (by norm_num)) h6).trans ?_
  refine (sections_step s _ _ _ 7 21056 64 intakeBytes (layout_block 17 (by norm_num)) (by decide +kernel : intakeOk intakeBytes = true)).trans ?_
  refine (sections_step s _ _ _ 8 21120 64 zeros64 (layout_block 18 (by norm_num)) rfl).trans ?_
  exact sections_step s _ _ _ 9 21184 64 zeros64 (layout_block 19 (by norm_num)) rfl

/-- The image at address 0. -/
def layoutTail : List Byte := (layoutRest ++ [layoutDigest]).flatten
def layoutMem : List Host.Cell := memWrite (memWrite [] 0 layoutHead) 128 layoutTail
def layoutState : State := { powered with mem := layoutMem }
theorem layoutMem_wf : Memory.wf layoutMem = true := Memory.wf_memWrite _ _ (Memory.wf_memWrite _ _ rfl)
theorem layoutTail_length : layoutTail.length = 21184 := by
  rw [layoutTail, List.length_flatten]
  have h := layout_lens
  rw [layoutBlocks, List.map_cons, layoutLens, List.cons.injEq] at h
  rw [h.2]
  rfl
theorem layout_reads : memRead layoutMem 0 128 = layoutHead ∧ memRead layoutMem 128 21184 = layoutTail := by
  have h0 : Memory.wf (memWrite [] 0 layoutHead) = true := Memory.wf_memWrite _ _ rfl
  have hl : layoutHead.length = 128 := by decide +kernel
  refine ⟨?_, ?_⟩
  · rw [layoutMem, memRead_memWrite_other h0 _ _ _ _ (.inl (by norm_num)), ← hl]
    exact memRead_memWrite_same rfl 0 layoutHead
  · have := memRead_memWrite_same h0 128 layoutTail
    rwa [layoutTail_length] at this
theorem flatten_snoc (a : List Byte) (l : List (List Byte)) (d : List Byte) :
    (a :: (l ++ [d])).flatten = (a :: l).flatten ++ d := by simp
theorem layout_digest : shake256 (layoutImage.take 21248) 64 = slice layoutImage 21248 64 := by
  have hs : slice layoutImage 21248 64 = layoutDigest := layout_block 20 (by norm_num)
  have hl : (layoutHead :: layoutRest).flatten.length = 21248 := by
    have h := congrArg (fun l => (l.take 20).sum) layout_lens
    rw [List.length_flatten]
    exact h
  have hf : layoutImage = (layoutHead :: layoutRest).flatten ++ layoutDigest := flatten_snoc layoutHead layoutRest layoutDigest
  rw [hs, hf, List.take_left' hl]
  rfl
/-- VERIFY: every check passes. -/
theorem hyps_LayoutCommands_verify :
    let s := layoutState
    let base := s.fld bLayout 0x100 6 46 * 64
    let s0 := s.acceptLayout.dropVerified
    let r1 := s0.readRun whoLoader base 128
    let len := imageLength r1.2.data
    let r2 := r1.1.readRun whoLoader (base + 128) (len - 128)
    let img := (r1.2 ++ r2.2).data
    inImageMemory base 128 = true ∧ (r1.2 ++ r2.2).anyPoison = false ∧ len ≤ imageMax ∧ inImageMemory base len = true
      ∧ headerOk img = true ∧ dirOk img = true ∧ shake256 (img.take (bodyLength img)) 64 = slice img (bodyLength img) 64
      ∧ (∀ block, s.signatureOk (imageSigned img) (shake256 (img.take (bodyLength img)) 64) block true = true)
      ∧ Machine.fieldLe img ((dirLines img).getD 8 (0, 0, [])).1 1 ≤ s.floor
      ∧ (sectionsOk s img (dirLines img) 1 (dirLines img)).2 = true := by
  intro s base s0 r1 len r2 img
  have hb : base = 0 := by decide +kernel
  have hp : s0.Plain layoutMem := ⟨rfl, rfl, rfl, rfl, rfl, rfl⟩
  have q1 := readRun_plain hp layoutMem_wf whoLoader 0 2 (by decide)
  rw [show 64 * 0 = 0 from rfl, show 64 * 2 = 128 from rfl, layout_reads.1] at q1
  have e1 : r1.2 = PBytes.clean layoutHead := by
    show (s0.readRun whoLoader base 128).2 = _
    rw [hb]
    exact q1.1
  have p1 : r1.1.Plain layoutMem := by
    show (s0.readRun whoLoader base 128).1.Plain layoutMem
    rw [hb]
    exact q1.2
  have hlen : len = 21312 := by
    show imageLength r1.2.data = _
    rw [e1, data_clean]
    decide +kernel
  have q2 := readRun_plain p1 layoutMem_wf whoLoader 2 331 (by decide)
  rw [show 64 * 2 = 128 from rfl, show 64 * 331 = 21184 from rfl, layout_reads.2] at q2
  have e2 : r2.2 = PBytes.clean layoutTail := by
    show (r1.1.readRun whoLoader (base + 128) (len - 128)).2 = _
    rw [hb, hlen]
    exact q2.1
  have e3 : r1.2 ++ r2.2 = PBytes.clean layoutImage := by
    rw [e1, e2]
    simp [PBytes.clean, layoutImage, layoutBlocks, layoutTail]
  have himg : img = layoutImage := by
    show (r1.2 ++ r2.2).data = _
    rw [e3, data_clean]
  have hz : Machine.fieldLe layoutImage 21184 1 = 0 := by
    have h : slice layoutImage 21184 64 = zeros64 := layout_block 19 (by norm_num)
    have h1 : (layoutImage.drop 21184).take 1 = zeros64.take 1 := by
      rw [← h, slice, List.take_take]
      rfl
    rw [Machine.fieldLe, h1]
    rfl
  rw [himg, hb, hlen, e3, anyPoison_clean, layout_header.2.2.1, layout_header.2.2.2, layout_dirs]
  refine ⟨by decide +kernel, rfl, by decide +kernel, by decide +kernel, layout_header.1, layout_dir, layout_digest,
    fun _ => rfl, ?_, layout_sections s (by decide +kernel) (by decide +kernel)⟩
  exact hz.le.trans (Nat.zero_le _)

end Sys2Proof.Tests
end

section
/-! Bit fields of registers: what `putField` leaves of a word, what `setFld` leaves of the registers, and where the blocks
whose registers the statements name lie. -/

namespace Sys2Proof.Machine

/-! ### Bits of a word -/

theorem testBit_bitsOf (v lo len i : Nat) : (bitsOf v lo len).testBit i = (decide (i < len) && v.testBit (lo + i)) := by
  simp [bitsOf, Nat.testBit_mod_two_pow, Nat.testBit_shiftRight]

theorem bitsOf_lt (v lo len : Nat) : bitsOf v lo len < 2 ^ len := Nat.mod_lt _ (Nat.two_pow_pos _)

theorem bitsOf_one_beq (v : Word64) (i : Nat) : (bitsOf v.toNat i 1 == 1) = v.getLsbD i := by
  have h : bitsOf v.toNat i 1 = (v.getLsbD i).toNat := by
    rw [BitVec.getLsbD, Nat.toNat_testBit, bitsOf, Nat.shiftRight_eq_div_pow, pow_one]
  rw [h]
  cases v.getLsbD i <;> rfl

/-- A field's bits are those of the new value, and the others stay. -/
theorem testBit_putField (w : Word64) (lo len v i : Nat) (hlen : lo + len ≤ 64) :
    (putField w lo len v).toNat.testBit i
      = if lo ≤ i ∧ i < lo + len then v.testBit (i - lo) else w.toNat.testBit i := by
  simp only [BitVec.testBit_toNat, putField, BitVec.getLsbD_or, BitVec.getLsbD_and, BitVec.getLsbD_not,
    BitVec.getLsbD_shiftLeft, BitVec.getLsbD_ofNat, Nat.testBit_two_pow_sub_one]
  by_cases hi : i < 64
  · by_cases hlo : lo ≤ i
    · by_cases hup : i < lo + len
      · have : i - lo < len := by omega
        have : i - lo < 64 := by omega
        simp [*, Nat.not_lt.2 hlo]
      · have : ¬ i - lo < len := by omega
        simp [*]
    · simp [hi, hlo, Nat.not_le.1 hlo]
  · have : ¬ i < lo + len := by omega
    simp [hi, this, BitVec.getLsbD_of_ge w i (by omega)]

theorem bitsOf_putField_same (w : Word64) (lo len v : Nat) (hlen : lo + len ≤ 64) (hv : v < 2 ^ len) :
    bitsOf (putField w lo len v).toNat lo len = v := by
  refine Nat.eq_of_testBit_eq fun i => ?_
  rw [testBit_bitsOf, testBit_putField _ _ _ _ _ hlen]
  by_cases hi : i < len
  · simp [hi]
  · simp [hi, Nat.testBit_lt_two_pow (hv.trans_le (Nat.pow_le_pow_right two_pos (Nat.le_of_not_lt hi)))]

theorem bitsOf_putField_disjoint (w : Word64) (lo len v lo' len' : Nat) (hlen : lo + len ≤ 64)
    (hd : lo' + len' ≤ lo ∨ lo + len ≤ lo') :
    bitsOf (putField w lo len v).toNat lo' len' = bitsOf w.toNat lo' len' := by
  refine Nat.eq_of_testBit_eq fun i => ?_
  rw [testBit_bitsOf, testBit_bitsOf, testBit_putField _ _ _ _ _ hlen]
  by_cases hi : i < len'
  · rw [if_neg (by omega)]
  · simp [hi]

/-- A field put above all the bits that are set adds its value at its place. -/
theorem toNat_putField_above (w : Word64) (lo len v : Nat) (hlen : lo + len ≤ 64) (hw : w.toNat < 2 ^ lo)
    (hv : v < 2 ^ len) : (putField w lo len v).toNat = 2 ^ lo * v + w.toNat := by
  refine Nat.eq_of_testBit_eq fun i => ?_
  rw [testBit_putField _ _ _ _ _ hlen, Nat.testBit_two_pow_mul_add v hw]
  by_cases hlo : i < lo
  · rw [if_neg (by omega), if_pos hlo]
  · rw [if_neg hlo]
    split_ifs with hin
    · rfl
    · rw [Nat.testBit_lt_two_pow (hw.trans_le (Nat.pow_le_pow_right two_pos (by omega))),
        Nat.testBit_lt_two_pow (hv.trans_le (Nat.pow_le_pow_right two_pos (by omega)))]

/-! ### Stored fields -/

theorem reg_setReg_ne (s : State) (n off n' off' : Nat) (v : Word64) (h : regKey n' off' ≠ regKey n off) :
    (s.setReg n off v).reg n' off' = s.reg n' off' := by
  simp only [State.reg, State.setReg, Map.get, Map.put]
  split_ifs <;> simp [h]

theorem fld_setFld_same (s : State) (n off lo len v : Nat) (hlen : lo + len ≤ 64) (hv : v < 2 ^ len) :
    (s.setFld n off lo len v).fld n off lo len = v := by
  rw [State.fld, State.setFld, reg_setReg_same, bitsOf_putField_same _ _ _ _ hlen hv]

theorem fld_setFld_disjoint (s : State) (n off lo len v lo' len' : Nat) (hlen : lo + len ≤ 64)
    (hd : lo' + len' ≤ lo ∨ lo + len ≤ lo') :
    (s.setFld n off lo len v).fld n off lo' len' = s.fld n off lo' len' := by
  rw [State.fld, State.setFld, reg_setReg_same, bitsOf_putField_disjoint _ _ _ _ _ _ hlen hd, State.fld]

/-- At most the stored word of one register changes from `s` to `t`. -/
def OnlyRegister (n off : Nat) (s t : State) : Prop :=
  t = { s with regs := t.regs } ∧ ∀ n' off', regKey n' off' ≠ regKey n off → t.reg n' off' = s.reg n' off'

theorem OnlyRegister.refl (n off : Nat) (s : State) : OnlyRegister n off s s := ⟨rfl, fun _ _ _ => rfl⟩

theorem OnlyRegister.setFld {n off : Nat} {s t : State} (h : OnlyRegister n off s t) (lo len v : Nat) :
    OnlyRegister n off s (t.setFld n off lo len v) := by
  obtain ⟨heq, hreg⟩ := h
  refine ⟨?_, fun n' off' hne => ?_⟩
  · rw [heq]
    rfl
  · rw [State.setFld, reg_setReg_ne _ _ _ _ _ _ hne, hreg n' off' hne]

/-! ### Blocks on the block map (R491) -/

theorem blockOf_bCore {c : Nat} (hc : c < 416) : blockOf (bCore c) = some (.core, c) := by
  unfold blockOf bCore
  rw [if_neg (by omega), if_pos (by simp; omega), Nat.add_sub_cancel_left]

theorem blockOf_bBond (t : TileIx) : blockOf (bBond t) = some (.bond, t.val) := by
  fin_cases t <;> rfl

theorem blockOf_bPlink (e : PlinkEnd) : blockOf (bPlink e) = some (.plink, e.val) := by
  fin_cases e <;> rfl

/-- The block numbers in use have 16 bits. -/
theorem toNat_ofNat_of_blockOf {n : Nat} (hb : (blockOf n).isSome = true) : (BitVec.ofNat 16 n).toNat = n := by
  rw [BitVec.toNat_ofNat, Nat.mod_eq_of_lt]
  by_contra hge
  have hnone : blockOf n = none := by
    unfold blockOf
    simp only [Bool.and_eq_true, decide_eq_true_eq]
    repeat rw [if_neg (by omega)]
  simp [hnone] at hb

/-- A block that lies on no compute die can always be reached. -/
theorem reachable_of_tile_or_hub (s : State) (n : Nat) (hb : (blockOf n).isSome = true) (hd : 52 ≤ blockDie n) :
    s.reachable n = true := by
  obtain ⟨ku, hku⟩ := Option.isSome_iff_exists.1 hb
  simp [State.reachable, hku, Nat.not_lt.2 hd]

theorem blockOf_isSome_of_reachable {s : State} {n : Nat} (h : s.reachable n = true) : (blockOf n).isSome = true := by
  cases hb : blockOf n with
  | none => simp [State.reachable, hb] at h
  | some ku => rfl

theorem reachable_bBond (s : State) (t : TileIx) : s.reachable (bBond t) = true :=
  reachable_of_tile_or_hub s _ (by simp [blockOf_bBond]) (by simp [blockDie, blockOf_bBond])

theorem reachable_bPlink (s : State) (e : PlinkEnd) : s.reachable (bPlink e) = true :=
  reachable_of_tile_or_hub s _ (by simp [blockOf_bPlink]) (by simp only [blockDie, blockOf_bPlink]; split <;> omega)

end Sys2Proof.Machine
end

section
/-! Register writes by access code (R9, R479, R480, R485): what `regWrite` does to a register whose fields have one code. -/

namespace Sys2Proof.Machine

/-! ### From a server core to the register -/

/-- A server core that runs writes an aligned register of a block that can be reached. -/
theorem exec_registerWrite_serverCore (s : State) (core : Fin 32) (b o : BitVec 16) (v : Word64)
    (hphase : 4 ≤ s.power.phase) (hhart : (s.hart core).halted = false) (hreach : s.reachable b.toNat = true)
    (halign : o.toNat % 8 = 0) :
    exec (.registerWrite (.serverCore core) b o v) s = .next (s.regWrite (.serverCore core) b.toNat o.toNat v) := by
  simp [exec, execRegisterWrite, State.coreActs, State.serverCoresRun, hphase, hhart, hreach, halign]

/-- The same for a block given by its number. -/
theorem exec_registerWrite_serverCore_ofNat (s : State) (core : Fin 32) (n : Nat) (o : BitVec 16) (v : Word64)
    (hphase : 4 ≤ s.power.phase) (hhart : (s.hart core).halted = false) (hreach : s.reachable n = true)
    (halign : o.toNat % 8 = 0) :
    exec (.registerWrite (.serverCore core) (BitVec.ofNat 16 n) o v) s
      = .next (s.regWrite (.serverCore core) n o.toNat v) := by
  have hn : (BitVec.ofNat 16 n).toNat = n := toNat_ofNat_of_blockOf (blockOf_isSome_of_reachable hreach)
  rw [exec_registerWrite_serverCore s core _ o v hphase hhart (by rwa [hn]) halign, hn]

/-! ### By the codes of the fields -/

section
variable (s : State) (src : RegSource) (n off : Nat) (v : Word64) {k : Kind} {u : Nat}

theorem namedRwd_eq_nil
    (h : ∀ r ∈ s.fields k u off, r.acc = .RWD → reservedValue k r (bitsOf v.toNat r.lo r.width) = true) :
    s.namedRwd n k u off v = [] := by
  simp only [State.namedRwd, List.filter_eq_nil_iff, Bool.and_eq_true, beq_iff_eq, Bool.not_eq_true']
  rintro r hr ⟨⟨hacc, hval⟩, -⟩
  simp [h r hr hacc] at hval

/-- The RW fields that a write names: those whose values are not reserved. -/
def State.namedRw (s : State) (k : Kind) (u off : Nat) (v : Word64) : List FieldRow :=
  (s.fields k u off).filter fun r => r.acc == .RW && !reservedValue k r (bitsOf v.toNat r.lo r.width)

theorem namedRw_eq_nil
    (h : ∀ r ∈ s.fields k u off, r.acc = .RW → reservedValue k r (bitsOf v.toNat r.lo r.width) = true) :
    s.namedRw k u off v = [] := by
  simp only [State.namedRw, List.filter_eq_nil_iff, Bool.and_eq_true, beq_iff_eq, Bool.not_eq_true']
  rintro r hr ⟨hacc, hval⟩
  simp [h r hr hacc] at hval

theorem any_wc_eq_false (h : ∀ r ∈ s.fields k u off, r.acc ≠ .WC) :
    ((s.fields k u off).any fun r => r.acc == .WC) = false := by
  simpa only [List.any_eq_false, beq_iff_eq] using h

/-- With neither RW nor WC fields: RWD fields are stored while they can be written, and the write is noted otherwise. -/
theorem regWrite_of_no_rw_wc (hb : blockOf n = some (k, u))
    (h : ∀ r ∈ s.fields k u off, r.acc ≠ .RW ∧ r.acc ≠ .WC) :
    s.regWrite src n off v =
      if s.namedRwd n k u off v = [] then s
      else if s.writable n k off then
        (s.namedRwd n k u off v).foldl (fun acc r => acc.storeField n k off r (bitsOf v.toNat r.lo r.width)) s
      else s.writeWhileEnabled n off := by
  have hrw := namedRw_eq_nil s off v fun r hr hacc => absurd hacc (h r hr).1
  have hwc := any_wc_eq_false s off fun r hr => (h r hr).2
  rw [State.namedRw] at hrw
  simp [State.regWrite, hb, hrw, hwc]

/-- With neither RWD nor WC fields: the RW fields that the write names take their values. -/
theorem regWrite_of_no_rwd_wc (hb : blockOf n = some (k, u))
    (h : ∀ r ∈ s.fields k u off, r.acc ≠ .RWD ∧ r.acc ≠ .WC) :
    s.regWrite src n off v =
      (s.namedRw k u off v).foldl (fun acc r => acc.storeRw n k off r (bitsOf v.toNat r.lo r.width)) s := by
  have hrwd := namedRwd_eq_nil s n off v fun r hr hacc => absurd hacc (h r hr).1
  have hwc := any_wc_eq_false s off fun r hr => (h r hr).2
  simp [State.regWrite, State.namedRw, hb, hrwd, hwc]

/-- With WC fields alone: the write is the register's command. -/
theorem regWrite_of_all_wc (hb : blockOf n = some (k, u)) (hne : s.fields k u off ≠ [])
    (h : ∀ r ∈ s.fields k u off, r.acc = .WC) :
    s.regWrite src n off v = s.issueCommand src n k u off v := by
  have hrwd : s.namedRwd n k u off v = [] := namedRwd_eq_nil s n off v fun r hr hacc => by simp [h r hr] at hacc
  have hrw : s.namedRw k u off v = [] := namedRw_eq_nil s off v fun r hr hacc => by simp [h r hr] at hacc
  have hwc : ((s.fields k u off).any fun r => r.acc == .WC) = true := by
    obtain ⟨r, hr⟩ := List.exists_mem_of_ne_nil _ hne
    exact List.any_eq_true.2 ⟨r, hr, by simp [h r hr]⟩
  rw [State.namedRw] at hrw
  simp [State.regWrite, hb, hrwd, hrw, hwc]

/-- With no command, and no field that a value could be stored in: nothing happens. -/
theorem regWrite_of_none_named (hb : blockOf n = some (k, u))
    (h : ∀ r ∈ s.fields k u off, r.acc ≠ .WC
      ∧ (r.acc = .RWD ∨ r.acc = .RW → reservedValue k r (bitsOf v.toNat r.lo r.width) = true)) :
    s.regWrite src n off v = s := by
  have hrwd := namedRwd_eq_nil s n off v fun r hr hacc => (h r hr).2 (.inl hacc)
  have hrw := namedRw_eq_nil s off v fun r hr hacc => (h r hr).2 (.inr hacc)
  have hwc := any_wc_eq_false s off fun r hr => (h r hr).1
  rw [State.namedRw] at hrw
  simp [State.regWrite, hb, hrwd, hrw, hwc]

end

/-! ### CORE_STREAM (R161) -/

theorem fields_core_stream (s : State) (u : Nat) : s.fields .core u 0x100 = [⟨0x100, 51, 6, .RWD, 0, "STREAM_BASE"⟩] := rfl

theorem regWrite_core_stream (s : State) (src : RegSource) (c : CoreIx) (v : Word64)
    (hd : s.isDisabled (bCore c) = true) :
    s.regWrite src (bCore c) 0x100 v = s.setFld (bCore c) 0x100 6 46 (bitsOf v.toNat 6 46) := by
  have hnamed : s.namedRwd (bCore c) .core c 0x100 v = [⟨0x100, 51, 6, .RWD, 0, "STREAM_BASE"⟩] := rfl
  have hw : s.writable (bCore c) .core 0x100 = true := hd
  rw [regWrite_of_no_rw_wc s src _ _ v (blockOf_bCore c.isLt) (by simp [fields_core_stream]), hnamed, if_pos hw]
  rfl

/-! ### MOD_BOND (R363) -/

theorem fields_bond_select (s : State) (u : Nat) :
    s.fields .bond u 0x100 = [⟨0x100, 3, 0, .RW, 0, "SITE"⟩, ⟨0x100, 4, 4, .RW, 0, "PORT"⟩] := rfl

/-- SITE takes its value unless that is reserved; PORT takes its own. -/
theorem regWrite_bond_select (s : State) (src : RegSource) (t : TileIx) (v : Word64) :
    s.regWrite src (bBond t) 0x100 v =
      (if bitsOf v.toNat 0 4 ≤ 12 then s.setFld (bBond t) 0x100 0 4 (bitsOf v.toNat 0 4) else s).setFld
        (bBond t) 0x100 4 1 (bitsOf v.toNat 4 1) := by
  rw [regWrite_of_no_rwd_wc s src _ _ v (blockOf_bBond t) (by simp [fields_bond_select]), State.namedRw,
    fields_bond_select]
  by_cases h : bitsOf v.toNat 0 4 ≤ 12
  · have hfalse : ¬ 12 < bitsOf v.toNat 0 4 := by omega
    simp [FieldRow.width, reservedValue, hfalse, h, State.storeRw, State.storeField]
  · have htrue : 12 < bitsOf v.toNat 0 4 := by omega
    simp [FieldRow.width, reservedValue, htrue, h, State.storeRw, State.storeField]

/-- The select register reads as its two fields; its reserved bits read 0. -/
theorem toNat_regRead_bond_select (s : State) (t : TileIx) :
    (s.regRead (bBond t) 0x100).toNat = s.fld (bBond t) 0x100 0 4 + 16 * s.fld (bBond t) 0x100 4 1 := by
  have hread : s.regRead (bBond t) 0x100
      = putField (putField 0 0 4 (s.fld (bBond t) 0x100 0 4)) 4 1 (s.fld (bBond t) 0x100 4 1) := by
    simp only [State.regRead, blockOf_bBond]
    rfl
  have hsite : s.fld (bBond t) 0x100 0 4 < 2 ^ 4 := bitsOf_lt ..
  have hport : s.fld (bBond t) 0x100 4 1 < 2 ^ 1 := bitsOf_lt ..
  have hlow : (putField 0 0 4 (s.fld (bBond t) 0x100 0 4)).toNat = s.fld (bBond t) 0x100 0 4 := by
    simpa using toNat_putField_above 0 0 4 _ (by decide) (by decide) hsite
  rw [hread, toNat_putField_above _ 4 1 _ (by decide) (by rw [hlow]; exact hsite) hport, hlow, Nat.add_comm,
    show 2 ^ 4 = 16 from rfl]

/-! ### ENABLE, SNAPSHOT and MOD_PLINK_CMD (R361, R480, R487) -/

theorem fields_enable (s : State) (k : Kind) (u : Nat) : s.fields k u 0x008 = [⟨0x008, 0, 0, .RW, 0, "ENABLE"⟩] := by
  simp [State.fields, State.recoveryGone, noSteps, fieldsAt, commonRows]

theorem fields_snapshot (s : State) (k : Kind) (u : Nat) : s.fields k u 0x018 = [⟨0x018, 1, 0, .WC, 0, "SCOPE"⟩] := by
  simp [State.fields, State.recoveryGone, noSteps, fieldsAt, commonRows]

theorem fields_plink_cmd (s : State) (u : Nat) : s.fields .plink u 0x108 = [⟨0x108, 1, 0, .WC, 0, "OP"⟩] := rfl

theorem reservedValue_enable (k : Kind) (x : Nat) : reservedValue k ⟨0x008, 0, 0, .RW, 0, "ENABLE"⟩ x = false := by
  cases k <;> rfl

theorem regWrite_enable (s : State) (src : RegSource) (n : Nat) (v : Word64) (hb : (blockOf n).isSome = true) :
    s.regWrite src n 0x008 v = s.setEnable n (v.getLsbD 0) := by
  obtain ⟨⟨k, u⟩, hku⟩ := Option.isSome_iff_exists.1 hb
  rw [regWrite_of_no_rwd_wc s src n _ v hku (by simp [fields_enable]), State.namedRw, fields_enable]
  simp [reservedValue_enable, State.storeRw, FieldRow.width, bitsOf_one_beq]

theorem regWrite_snapshot (s : State) (src : RegSource) (n : Nat) (v : Word64) (hb : (blockOf n).isSome = true) :
    s.regWrite src n 0x018 v = s.snapOp n v.toNat := by
  obtain ⟨⟨k, u⟩, hku⟩ := Option.isSome_iff_exists.1 hb
  rw [regWrite_of_all_wc s src n _ v hku (by simp [fields_snapshot]) (by simp [fields_snapshot])]
  rfl

theorem regWrite_plink_cmd (s : State) (src : RegSource) (e : PlinkEnd) (v : Word64) :
    s.regWrite src (bPlink e) 0x108 v = s.plinkOp e v.toNat :=
  regWrite_of_all_wc s src _ _ v (blockOf_bPlink e) (by simp [fields_plink_cmd]) (by simp [fields_plink_cmd])

theorem next_after_execPlinkRetrain (s : State) (e : PlinkEnd) :
    .next (after (execPlinkRetrain e s) s) = execPlinkRetrain e s := by
  unfold execPlinkRetrain
  split <;> rfl

theorem next_after_execPlinkRestore (s : State) (e : PlinkEnd) :
    .next (after (execPlinkRestore e s) s) = execPlinkRestore e s := by
  unfold execPlinkRestore
  dsimp only
  split <;> rfl

/-- OP 1 is PLINK_RETRAIN, OP 2 is PLINK_RESTORE, and a reserved OP does nothing (R361). -/
theorem next_plinkOp (s : State) (e : PlinkEnd) (v : Nat) :
    .next (s.plinkOp e v) =
      if bitsOf v 0 2 = 1 then exec (.plinkRetrain e) s else if bitsOf v 0 2 = 2 then exec (.plinkRestore e) s
        else .next s := by
  have hfin : finOf 16 e.val = e := Fin.ofNat_val_eq_self e
  unfold State.plinkOp
  rw [hfin]
  split
  next h => rw [if_pos h, next_after_execPlinkRetrain]; rfl
  next h => rw [h, if_neg (by decide), if_pos rfl, next_after_execPlinkRestore]; rfl
  next hretrain hrestore => rw [if_neg hretrain, if_neg hrestore]

end Sys2Proof.Machine
end

section
/-! Resets and register writes: the statements of the scope chapter. -/

namespace Sys2Proof.Machine

/-! ### Cold reset (R12, R498) -/

theorem get_hostOnly (m : List Host.Cell) (a : Nat) (d : Byte) :
    Map.get (hostOnly m) a d = if a < hostBase then d else Map.get m a d := by
  rw [Map.get, hostOnly, find_filter_key fun k => decide (hostBase ≤ k)]
  by_cases ha : a < hostBase
  · simp [ha, Nat.not_le.2 ha]
  · simp [ha, Nat.le_of_not_lt ha, Map.get]

theorem exec_coldReset_of_not_flushing (s : State) (h : s.power.flushing = none) :
    exec .coldReset s = .next s.coldState := by
  simp [exec, execColdReset, h]

/-- Settles O8: the state after COLD_RESET is `coldState`, whose memory is `hostOnly` of the old one. -/
theorem coldResetKeepsFlashAndEeprom : Obligations.ColdResetKeepsFlashAndEeprom := by
  unfold Obligations.ColdResetKeepsFlashAndEeprom
  intro s hidle
  refine ⟨s.coldState, exec_coldReset_of_not_flushing s hidle, rfl, fun a => get_hostOnly s.mem a _, fun w hw => ?_⟩
  simpa [State.coldState] using hw

/-! ### Writes by access code (R9, R479, R480, R485), one lemma a clause -/

section
variable (s : State) (core : Fin 32) (v : Word64) (hphase : 4 ≤ s.power.phase) (hhart : (s.hart core).halted = false)
include hphase hhart

theorem exec_write_rwd_while_enabled (b o : BitVec 16) (k : Kind) (u : Nat) (hreach : s.reachable b.toNat = true)
    (halign : o.toNat % 8 = 0) (hb : blockOf b.toNat = some (k, u)) (hnamed : s.namedRwd b.toNat k u o.toNat v ≠ [])
    (hw : s.writable b.toNat k o.toNat = false) (hacc : ∀ r ∈ s.fields k u o.toNat, r.acc ≠ .RW ∧ r.acc ≠ .WC) :
    exec (.registerWrite (.serverCore core) b o v) s
      = .next (s.setBlk b.toNat { s.blk b.toNat with wwe := true, ignoredOffset := o }) := by
  rw [exec_registerWrite_serverCore s core b o v hphase hhart hreach halign,
    regWrite_of_no_rw_wc s _ _ _ v hb hacc, if_neg hnamed, hw]
  simp [State.writeWhileEnabled]

theorem exec_write_core_stream (c : CoreIx) (hreach : s.reachable (bCore c) = true)
    (hd : s.isDisabled (bCore c) = true) :
    exec (.registerWrite (.serverCore core) (BitVec.ofNat 16 (bCore c)) 0x100 v) s
      = .next (s.setFld (bCore c) 0x100 6 46 (bitsOf v.toNat 6 46)) := by
  rw [exec_registerWrite_serverCore_ofNat s core _ _ v hphase hhart hreach rfl]
  exact congrArg _ (regWrite_core_stream s _ c v hd)

theorem exec_write_bond_select (t : TileIx) :
    exec (.registerWrite (.serverCore core) (BitVec.ofNat 16 (bBond t)) 0x100 v) s
      = .next ((if bitsOf v.toNat 0 4 ≤ 12 then s.setFld (bBond t) 0x100 0 4 (bitsOf v.toNat 0 4) else s).setFld
          (bBond t) 0x100 4 1 (bitsOf v.toNat 4 1)) := by
  rw [exec_registerWrite_serverCore_ofNat s core _ _ v hphase hhart (reachable_bBond s t) rfl]
  exact congrArg _ (regWrite_bond_select s _ t v)

theorem exec_write_enable (b : BitVec 16) (hreach : s.reachable b.toNat = true) :
    exec (.registerWrite (.serverCore core) b 0x008 v) s = exec (.enableWrite b (v.getLsbD 0)) s := by
  have henable : exec (.enableWrite b (v.getLsbD 0)) s = .next (s.setEnable b.toNat (v.getLsbD 0)) := by
    simp [exec, execEnableWrite, hreach]
  rw [exec_registerWrite_serverCore s core b _ v hphase hhart hreach rfl, henable]
  exact congrArg _ (regWrite_enable s _ _ v (blockOf_isSome_of_reachable hreach))

theorem exec_write_snapshot (b : BitVec 16) (hreach : s.reachable b.toNat = true) :
    exec (.registerWrite (.serverCore core) b 0x018 v) s = .next (s.snapOp b.toNat v.toNat) := by
  rw [exec_registerWrite_serverCore s core b _ v hphase hhart hreach rfl]
  exact congrArg _ (regWrite_snapshot s _ _ v (blockOf_isSome_of_reachable hreach))

theorem exec_write_plink_cmd (e : PlinkEnd) :
    exec (.registerWrite (.serverCore core) (BitVec.ofNat 16 (bPlink e)) 0x108 v) s = .next (s.plinkOp e v.toNat) := by
  rw [exec_registerWrite_serverCore_ofNat s core _ _ v hphase hhart (reachable_bPlink s e) rfl]
  exact congrArg _ (regWrite_plink_cmd s _ e v)

end

theorem exec_snapshotBlock_of_reachable (s : State) (b : BitVec 16) (hreach : s.reachable b.toNat = true) :
    exec (.snapshotBlock b) s = .next (s.snapshotBlock b.toNat) := by
  simp [exec, execSnapshotBlock, hreach]

theorem regRead_reserved (s : State) (n off : Nat) (k : Kind) (u : Nat) (hb : blockOf n = some (k, u))
    (hf : s.fields k u off = []) (hh : off ∉ k.holds) : s.regRead n off = 0 := by
  simp [State.regRead, hb, hf, hh]

/-- Settles O16: a register is written by the codes of its fields, and what a field takes is what it then reads. -/
theorem writesActByAccessCode : Obligations.WritesActByAccessCode := by
  unfold Obligations.WritesActByAccessCode
  refine ⟨?rwdWhileEnabled, ?coreStream, ?bondSelect, ?commands, ?ignored⟩
  case rwdWhileEnabled =>
    intro s core b o v k u hphase hhart hreach halign hb hnamed hw hacc
    exact exec_write_rwd_while_enabled s core v hphase hhart b o k u hreach halign hb hnamed hw hacc
  case coreStream =>
    intro s core c v hphase hhart hreach hd
    obtain ⟨hstate, hregs⟩ := (OnlyRegister.refl (bCore c) 0x100 s).setFld 6 46 (bitsOf v.toNat 6 46)
    exact ⟨_, exec_write_core_stream s core v hphase hhart c hreach hd, hstate,
      fld_setFld_same _ _ _ _ _ _ (by decide) (bitsOf_lt ..), hregs⟩
  case bondSelect =>
    intro s core t v hphase hhart
    have hsite : OnlyRegister (bBond t) 0x100 s
        (if bitsOf v.toNat 0 4 ≤ 12 then s.setFld (bBond t) 0x100 0 4 (bitsOf v.toNat 0 4) else s) := by
      split
      · exact (OnlyRegister.refl _ _ s).setFld ..
      · exact OnlyRegister.refl _ _ s
    obtain ⟨hstate, hregs⟩ := hsite.setFld 4 1 (bitsOf v.toNat 4 1)
    refine ⟨_, exec_write_bond_select s core v hphase hhart t, hstate,
      fld_setFld_same _ _ _ _ _ _ (by decide) (bitsOf_lt ..), ?_, toNat_regRead_bond_select _ t, hregs⟩
    rw [fld_setFld_disjoint _ _ _ _ _ _ _ _ (by decide) (by decide)]
    split
    · exact fld_setFld_same _ _ _ _ _ _ (by decide) (bitsOf_lt ..)
    · rfl
  case commands =>
    intro s core b v e hphase hhart
    refine ⟨fun hreach => ⟨exec_write_enable s core v hphase hhart b hreach, ?_, ?_⟩, ?_⟩
    · rw [exec_write_snapshot s core _ hphase hhart b hreach, exec_snapshotBlock_of_reachable s b hreach]
      rfl
    · rw [exec_write_snapshot s core _ hphase hhart b hreach]
      rfl
    · rw [exec_write_plink_cmd s core v hphase hhart e, next_plinkOp]
  case ignored =>
    intro s core b o v k u hphase hhart hreach halign hb hfields
    refine ⟨?_, fun hf hh => regRead_reserved s _ _ k u hb hf hh⟩
    rw [exec_registerWrite_serverCore s core b o v hphase hhart hreach halign,
      regWrite_of_none_named s _ _ _ v hb hfields]

end Sys2Proof.Machine
end

section
/-! Vector instructions: what the sequencer makes of one that it can issue, what its price and its numeric events change,
and the two groups of O28 (R42, R114, R144, R145). -/

namespace Sys2Proof.Machine

/-! ### The frame of a priced operation -/

/-- From `s` to `t` nothing changes but counters, the planner's balances and accounts, the numeric-event records and
the state of core `core`. -/
def PricedFrame (core : Nat) (s t : State) : Prop :=
  t = { paidFrame s t with cores := t.cores } ∧ ∀ n, n ≠ core → t.core n = s.core n

namespace PricedFrame

variable {core : Nat} {s t u : State}

theorem refl (core : Nat) (s : State) : PricedFrame core s s := ⟨rfl, fun _ _ => rfl⟩

theorem trans (h : PricedFrame core s t) (k : PricedFrame core t u) : PricedFrame core s u := by
  obtain ⟨hst, hcores⟩ := h
  obtain ⟨htu, kcores⟩ := k
  refine ⟨?_, fun n hn => (kcores n hn).trans (hcores n hn)⟩
  rw [hst] at htu
  exact htu

theorem ite (p : Prop) [Decidable p] (ht : PricedFrame core s t) (hu : PricedFrame core s u) :
    PricedFrame core s (if p then t else u) := by
  split <;> assumption

theorem count (h : PricedFrame core s t) (n off k : Nat) : PricedFrame core s (t.count n off k) :=
  h.trans ⟨rfl, fun _ _ => rfl⟩

theorem setCore (h : PricedFrame core s t) (c : Core) : PricedFrame core s (t.setCore core c) :=
  h.trans ⟨rfl, fun n hn => core_setCore_ne t core n c hn⟩

theorem record (h : PricedFrame core s t) (blk code unit arg0 arg1 : Nat) :
    PricedFrame core s (t.record blk code unit arg0 arg1) := by
  refine h.trans ?_
  unfold State.record State.recordIn
  dsimp only
  split
  · exact ⟨rfl, fun _ _ => rfl⟩
  · split <;> exact ⟨rfl, fun _ _ => rfl⟩

theorem flagBit (h : PricedFrame core s t) (unit detail bit : Nat) (b : Bool) :
    PricedFrame core s (t.flagBit core unit detail bit b) := by
  unfold State.flagBit State.recordOnce
  dsimp only
  split
  · split
    · exact h
    · refine PricedFrame.record ?_ _ _ _ _ _
      exact h.trans ⟨rfl, fun _ _ => rfl⟩
  · exact h

theorem coreFlags (h : PricedFrame core s t) (unit detail : Nat) (f : Flags) :
    PricedFrame core s (t.coreFlags core unit detail f) :=
  (((h.setCore _).flagBit ..).flagBit ..).flagBit ..

theorem charge (h : PricedFrame core s t) (agent : Nat) (w : Work) : PricedFrame core s (t.charge agent w) := by
  unfold State.charge
  dsimp only
  refine List.foldlRecOn (motive := PricedFrame core s) w _ ?_ fun acc hacc x _ => hacc.trans ⟨rfl, fun _ _ => rfl⟩
  have hpaid : PricedFrame core s (t.setAgentUse agent
      { t.agentUse agent with
        balance := (t.agentUse agent).balance - t.price w, issued := true
        baseNow := (t.agentUse agent).baseNow + t.baseUnits w, pricedNow := (t.agentUse agent).pricedNow + t.price w
        held := 0 }) := h.trans ⟨rfl, fun _ _ => rfl⟩
  have hcounted := ite (t.price w = 0) hpaid (hpaid.count bNrg 0x188 (t.price w))
  exact ite _ (hcounted.count ..) hcounted

theorem pay (h : PricedFrame core s t) (w : Work) : PricedFrame core s (t.pay core w) := (h.charge ..).setCore _

end PricedFrame

/-! ### The core's own state -/

theorem core_flagBit (s : State) (core unit detail bit : Nat) (b : Bool) (n : Nat) :
    (s.flagBit core unit detail bit b).core n = s.core n := by
  unfold State.flagBit State.recordOnce State.record State.recordIn
  dsimp only
  split_ifs <;> rfl

@[simp] theorem core_coreFlags_same (s : State) (core unit detail : Nat) (f : Flags) :
    (s.coreFlags core unit detail f).core core = { s.core core with sticky := Flags.or (s.core core).sticky f } := by
  simp [State.coreFlags, core_flagBit]

theorem cores_charge (s : State) (agent : Nat) (w : Work) : (s.charge agent w).cores = s.cores := by
  unfold State.charge
  dsimp only
  refine List.foldlRecOn (motive := fun t : State => t.cores = s.cores) w _ ?_ fun acc hacc x _ => hacc
  split_ifs <;> rfl

@[simp] theorem core_pay_same (s : State) (core : Nat) (w : Work) :
    (s.pay core w).core core = { s.core core with seq := (s.core core).seq + 1 } := by
  have h : (s.charge (s.pricedCore core) w).core core = s.core core := by rw [State.core, cores_charge]; rfl
  simp [State.pay, h]

theorem Flags.or_none (f : Flags) : Flags.or f .none = f := by
  cases f; simp [Flags.or, Flags.none]

/-! ### Issue -/

theorem fetchAhead_of_fetched {s : State} {core w : Nat} (h : s.fetched core = .word w) : s.fetchAhead core = s := by
  unfold State.fetched at h
  unfold State.fetchAhead
  split at h
  · cases h
  · dsimp only at h ⊢
    split at h
    · cases h
    · split at h
      · cases h
      all_goals simp_all

/-- What the sequencer does with a word that it presents and that is issued. -/
theorem issue_of_presents {s s1 : State} {core w next : Nat} {op : CoreOp} {run : State → Nat → Issue}
    (h : Presents s core op w) (hrun : run s w = .go s1 next) :
    s.issue core op run =
      (s1.setCore core { s1.core core with pc := BitVec.ofNat 48 next, held := false }).count (bCore core) 0x140 1 := by
  obtain ⟨hissues, hfetched, hop⟩ := h
  simp [State.issue, fetchAhead_of_fetched hfetched, hissues, hfetched, hop, hrun]

/-- A vector instruction that nothing holds back and whose work is `f` on its own core: the core that `f` leaves, with its
flags noted, and nothing else but the price, the counters and the records. -/
theorem vectorIssue_issued {s : State} {core kind w : Nat} {op : CoreOp} {run : State → Nat → Issue}
    (f : Core → Core × Flags) (h : Presents s core op w)
    (hrun : run s w = s.vectorIssue core kind none none fun s1 =>
      (s1.setCore core (f (s1.core core)).1, (f (s1.core core)).2))
    (hfree : s.stallsFor core none none true [(kind, core / 8, 1)] = 0) :
    let c := f { s.core core with seq := (s.core core).seq + 1 }
    let t := s.issue core op run
    t.core core = { c.1 with
        sticky := Flags.or c.1.sticky c.2, pc := BitVec.ofNat 48 (s.nextPc core), held := false }
      ∧ PricedFrame core s t := by
  intro c t
  rw [State.vectorIssue, if_neg (not_not.2 hfree)] at hrun
  have ht : t = _ := issue_of_presents h hrun
  rw [ht]
  refine ⟨?_, ?_⟩
  · simp [c]
  · exact ((((((PricedFrame.refl core s).pay _).setCore _).coreFlags ..).count ..).setCore _).count ..

/-! ### Compares -/

section
variable {s : State} {core : CoreIx} {w : Nat}

/-- What a compare leaves in each lane that MASKEN lets through: its mask bit and whether it is poison (R144, R449). -/
def Core.compareRows (c : Core) (w : Nat) (rel : FVal → FVal → Bool) : List (Option (Bool × Bool)) :=
  let ab := (c.lanes w (vVa w)).zip (c.lanesB w)
  (ab.zip (List.range ab.length)).map fun x =>
    if (c.laneMask w x.2).1 then some (rel x.1.1.1 x.1.2.1, x.1.1.2 || x.1.2.2 || (c.laneMask w x.2).2) else none

theorem compare_issued {op : CoreOp} (rel : FVal → FVal → Bool) (h : Presents s core op w)
    (hfree : s.stallsFor core none none true [(4, core / 8, 1)] = 0) :
    let c := s.core core
    let t := s.issue core op (lanesCmp rel core)
    Issued s t core (c.writeMask (vVd w % 8) (c.compareRows w rel)) ∧ t = { paidFrame s t with cores := t.cores } := by
  intro c t
  obtain ⟨hcore, hframe, hothers⟩ := vectorIssue_issued (run := lanesCmp rel core)
    (fun d => (d.writeMask (vVd w % 8) (d.compareRows w rel), Flags.none)) h rfl hfree
  refine ⟨⟨?_, hothers⟩, hframe⟩
  rw [Flags.or_none] at hcore
  exact hcore

/-! ### Reductions -/

/-- The lanes of VA that MASKEN lets through, and whether one of them or a mask word is poison (R144, R449). -/
def Core.reducedLanes (c : Core) (w : Nat) : List (Option FVal) × Bool :=
  let va := c.lanes w (vVa w)
  let lanes := va.zip (List.range va.length)
  (lanes.map fun x => if (c.laneMask w x.2).1 then some x.1.1 else none,
    lanes.any fun x => ((c.laneMask w x.2).1 && x.1.2) || (c.laneMask w x.2).2)

theorem reduceWith_eq (fold : List (Option FVal) → Res) (core : Nat) (s : State) (w : Nat) :
    reduceWith fold core s w = s.vectorIssue core 6 none none fun s1 =>
      let c := s1.core core
      let r := c.spread w (fold (c.reducedLanes w).1) (c.reducedLanes w).2
      (s1.setCore core r.1, r.2) := by
  simp only [reduceWith, Core.reducedLanes, List.map_map, List.any_map, Function.comp_def]

theorem reduce_issued {op : CoreOp} {run : State → Nat → Issue} (fold : List (Option FVal) → Res)
    (h : Presents s core op w) (hrun : run s w = reduceWith fold core s w)
    (hfree : s.stallsFor core none none true [(6, core / 8, 1)] = 0) :
    let c := s.core core
    let out := c.masked w (List.replicate (vLanes w) (fold (c.reducedLanes w).1, (c.reducedLanes w).2))
    let t := s.issue core op run
    Issued s t core { c.writeLanes w (vVd w) out with sticky := Flags.or c.sticky (laneFlags out) }
      ∧ t = { paidFrame s t with cores := t.cores } := by
  intro c out t
  obtain ⟨hcore, hframe, hothers⟩ := vectorIssue_issued
    (fun d => d.spread w (fold (d.reducedLanes w).1) (d.reducedLanes w).2) h
    (hrun.trans (reduceWith_eq fold core s w)) hfree
  exact ⟨⟨hcore, hothers⟩, hframe⟩

end

/-- Settles O28: a compare is `lanesCmp` of its relation, a reduction `reduceWith` of its fold. -/
theorem vectorComparesAndReductions : Obligations.VectorComparesAndReductions := by
  unfold Obligations.VectorComparesAndReductions
  intro s core w
  refine ⟨fun hfree => ⟨fun h => ?cmplt, fun h => ?cmple, fun h => ?cmpeq, fun h => ?cmpne⟩,
    fun hfree => ⟨fun h => ?redsum, fun h => ?redmax⟩⟩
  case cmplt => exact ⟨_, rfl, compare_issued FVal.lt h hfree⟩
  case cmple => exact ⟨_, rfl, compare_issued (fun a b => FVal.lt a b || FVal.eq a b) h hfree⟩
  case cmpeq => exact ⟨_, rfl, compare_issued FVal.eq h hfree⟩
  case cmpne => exact ⟨_, rfl, compare_issued (fun a b => !FVal.eq a b) h hfree⟩
  case redsum => exact ⟨_, rfl, reduce_issued (redSum w) h rfl hfree⟩
  case redmax => exact ⟨_, rfl, reduce_issued (redMax w) h rfl hfree⟩

end Sys2Proof.Machine
end

section
/-! Why O35 fails. Its run clause reads the slot tiles as runs of the accumulator store (`Engine.accRow`) and the result
element by element (`Map.get`). The two agree on a store in canonical form, keys rising; of the accumulators, unlike of
memory, the statement does not ask for that form. A pass of a run that merges nothing leaves the store as it found it. -/

namespace Sys2Proof.Machine

/-! ### PASS_COMPLETE of a run's pass that merges nothing (R91, R115) -/

theorem readAcc_of_no_upsets {s : State} (h : s.upsets = []) (e lo hi nv : Nat) : s.readAcc e lo hi nv = s := by
  simp [State.readAcc, h]

theorem runSteps_of_no_steps {q : QEntry} (h : q.steps = []) (n : Nat) (s : State) (e : Nat) (p : PassOp) :
    s.runSteps n e q p = (s, q) := by
  cases n with
  | zero => rfl
  | succ n => simp [State.runSteps, h]

theorem runStep_of_no_merges {p : PassOp} (hlast : p.last = false) (hmerges : p.merges = 0) (x : Engine) (n1 : Bool)
    (pre : List (List Sum)) : x.runStep n1 p pre = (x, []) := by
  simp [Engine.runStep, Engine.mergeMany, hlast, hmerges]

theorem runMerges_of_no_merges {s : State} {p : PassOp} (hup : s.upsets = []) (hlast : p.last = false)
    (hmerges : p.merges = 0) (e : Nat) : ((s.runMerges e p).engine e) = s.engine e := by
  have hread : ∀ tiles : List Nat, tiles.foldl (fun acc j => acc.readAcc e (128 * j) (128 * j + p.m) p.nv) s = s := by
    intro tiles
    induction tiles with
    | nil => rfl
    | cons j tiles ih => rw [List.foldl_cons, readAcc_of_no_upsets hup, ih]
  unfold State.runMerges
  split
  · rfl
  · cases hpre : p.preload <;> simp [hread, hlast, runStep_of_no_merges hlast hmerges, State.tileFlags]

/-- The accumulators stay as they are. -/
theorem passComplete_leaves_acc {s : State} {engine : EngIx} {q : QEntry} {p : PassOp} (hup : s.upsets = [])
    (hfault : (s.engine engine).arrayFault = false)
    (hfind : (s.engine engine).queue.find? (fun r => r.started && r.op.isPass) = some q) (hop : q.op = .pass p)
    (hsteps : q.steps = []) (htiles : s.tilesFree (engine / 4) q.seq (q.tilesLeft.map fun j => (engine % 4, j)) = true)
    (hlast : p.last = false) (hmerges : p.merges = 0) :
    ∃ t, exec (.passComplete engine) s = .next t ∧ (t.engine engine).acc = (s.engine engine).acc := by
  refine ⟨(s.runMerges engine p).finishOp engine q 0x140, ?_, ?_⟩
  · simp [exec, execPassComplete, hfault, hfind, hop, runSteps_of_no_steps hsteps, hsteps, htiles]
  · simp [State.finishOp, runMerges_of_no_merges hup hlast hmerges]

/-! ### A store whose keys fall -/

/-- Element 1 of row 0 is listed before element 0: element 0 is 7, but is 0 where the row is read as a run. -/
def fallingAcc : Map W32 := [(1, 5), (0, 7)]

/-- The first pass of a run, of one row and two columns: it pushes onto slot 0 and merges nothing. -/
def firstOfRun : PassOp :=
  { compound := false
    act := { fmt := 0, rank := 1, ext := [1], base := 0, stride1 := 0, stride2 := 0, stride3 := 0, scale := 127
             physical := false, cache := false }
    weight := none, preload := none, conv := none, orient := false, m := 1, kv := 1, nv := 2, bank := false, dest := 0
    acc := .zero, split := true, last := false, runIdx := 0, row0 := 0, kblk := 0, satMode := false }

/-- That pass started, its one row fed. -/
def firstOfRunFed : QEntry :=
  { seq := 0, op := .pass firstOfRun, started := true, fed := 1, loads := 0, backs := [], num := 1 }

/-- The banks of core 0 serve addresses; engine 0 has that pass before it and the falling store. -/
def fallingState : State :=
  { State.reset with
    banks := (List.range 32).map fun b => (bBankCore 0 * 256 + b, { BankSt.reset with mode := 1 })
    engines := [(0, { Engine.reset with acc := fallingAcc, queue := [firstOfRunFed] })] }

theorem fallingState_serves : scratchServes fallingState 0 := by
  unfold scratchServes
  decide

/-- Refutes O35: after the first pass of a run over `fallingAcc`, element (0, 0) of the slot tile is 7, where the
statement, reading the row as a run, wants 0. -/
theorem not_matrixUnitsLeaveTheirResults : ¬ Obligations.MatrixUnitsLeaveTheirResults := by
  unfold Obligations.MatrixUnitsLeaveTheirResults
  intro h
  obtain ⟨-, hruns, -⟩ := h fallingState ⟨rfl, rfl⟩ rfl
  obtain ⟨t, hexec, -, hvalues, -⟩ := hruns 0 firstOfRunFed firstOfRun fallingState_serves rfl rfl rfl rfl rfl rfl
    (by decide) (by decide) (by decide) rfl rfl (by decide)
  obtain ⟨u, hexec', hacc⟩ := passComplete_leaves_acc (s := fallingState) (engine := 0) (q := firstOfRunFed)
    (p := firstOfRun) rfl rfl rfl rfl rfl rfl rfl rfl
  cases hexec.symm.trans hexec'
  have hwanted : Map.get (t.engine 0).acc 0 0 = (0 : W32) := hvalues 0 0 (by decide) (by decide)
  have hleft : Map.get (t.engine 0).acc 0 0 = (7 : W32) :=
    congrArg (fun m : Map W32 => Map.get m 0 0) hacc
  rw [hleft] at hwanted
  exact absurd hwanted (by decide)

end Sys2Proof.Machine
end

section
/-! What the two resets leave of the engines (R94, R276). -/

namespace Sys2Proof.Machine

/-! ### Site reset -/

theorem engine_resetEngines (s : State) (i n e : Nat) :
    ((List.range n).foldl (fun acc k => acc.resetEngineOfSite (32 * i + k)) s).engine e =
      if 32 * i ≤ e ∧ e < 32 * i + n then .reset else s.engine e := by
  induction n with
  | zero => rw [if_neg (by omega)]; rfl
  | succ n ih =>
    rw [List.range_succ, List.foldl_append, List.foldl_cons, List.foldl_nil, State.resetEngineOfSite, engine_setEngine, ih]
    split_ifs <;> first | rfl | omega

theorem engines_reapplyRecord (s : State) (r : Nat) : (s.reapplyRecord r).engines = s.engines := by
  unfold State.reapplyRecord
  dsimp only
  split <;> rfl

theorem engines_reapplyRepairs (s : State) (sel : Nat → Bool) : (s.reapplyRepairs sel).engines = s.engines :=
  List.foldlRecOn (motive := fun t : State => t.engines = s.engines) _ _ rfl
    fun t ht r _ => (engines_reapplyRecord t r).trans ht

theorem engines_dropHeld (s : State) (agent : Nat) : (s.dropHeld agent).engines = s.engines := by
  unfold State.dropHeld
  split <;> rfl

theorem engine_bondsDown_training (s : State) (i e : Nat) : (s.bondsDown i true).engine e = s.engine e :=
  List.foldlRecOn (motive := fun t : State => t.engine e = s.engine e) _ _ rfl fun _ ht _ _ => ht

/-- A site reset leaves every engine of its site as reset. -/
theorem engine_resetSite (s : State) {i e : Nat} (he : e / 32 = i) : (s.resetSite i).engine e = .reset := by
  unfold State.resetSite
  rw [State.engine, engines_reapplyRepairs]
  generalize (siteBlocks i).foldl State.resetBlock s = s1
  have hcores : ∀ s2 : State, ((siteCores i).foldl (fun acc c =>
      ((acc.setCore c .reset).dropHeld (acc.pricedCore c)).resetBanks (bBankCore c)) s2).engines = s2.engines := fun s2 =>
    List.foldlRecOn (motive := fun t : State => t.engines = s2.engines) _ _ rfl
      fun t ht c _ => (engines_dropHeld ..).trans ht
  dsimp only
  rw [hcores]
  exact (engine_resetEngines s1 i 32 e).trans (if_pos (by omega))

/-- Settles O46: COLD_RESET leaves no engine listed, and an engine of a site that SITE_RESET resets is `Engine.reset`. -/
theorem resetsClearWeightsAndAccumulators : Obligations.ResetsClearWeightsAndAccumulators := by
  unfold Obligations.ResetsClearWeightsAndAccumulators
  intro cleared
  have hreset : cleared .reset := ⟨fun _ => ⟨rfl, rfl, rfl⟩, rfl, rfl, rfl⟩
  refine ⟨fun s hidle => ?cold, fun s site hstatus => ?site⟩
  case cold => exact ⟨s.coldState, exec_coldReset_of_not_flushing s hidle, fun _ => hreset⟩
  case site =>
    refine ⟨_, if_pos hstatus, fun e he => ?_⟩
    rw [engine_bondsDown_training, engine_resetSite _ he]
    exact hreset

end Sys2Proof.Machine
end

section
/-! Matrix instructions: the price of one leaves every unit's queue alone; one whose checks pass and that nothing holds back
joins its unit's queue (R91, R116, R134 to R142). -/

namespace Sys2Proof.Machine

/-! ### Checks (R134, R135, R137) -/

@[simp] theorem must_eq_nil {ok : Bool} {code : Nat} : must ok code = [] ↔ ok = true := by cases ok <;> simp [must]

@[simp] theorem stopFor_nil (c : Core) : c.stopFor [] = none := by simp [Core.stopFor, leastCode]

theorem operand_of_slot {c : Core} {i d : Nat} (h : c.slot i = some d) : c.operand i = (c.tensor d, []) := by
  simp [Core.operand, h]

/-- A code of 2 is the least that a descriptor's check and a later check with code 4 leave. -/
theorem leastCode_two (t : Tensor) (fmtOk rankOk ok : Bool) (reach : Option Span) :
    leastCode (2 :: (scratchCheck t fmtOk rankOk reach ++ must ok 4)) = some 2 := by
  unfold scratchCheck must
  split_ifs <;> rfl

/-! ### Issue -/

theorem engine_pay (s : State) (core : Nat) (w : Work) (n : Nat) : (s.pay core w).engine n = s.engine n := by
  have h := ((PricedFrame.refl core s).pay w).1
  rw [State.engine, h]
  rfl

section
variable {s : State} {core w : Nat} {op : CoreOp} {run : State → Nat → Issue}

theorem issue_of_refused {code : Nat} (h : Presents s core op w) (hrun : run s w = .refuse code) :
    s.issue core op run = s.refuse core code := by
  obtain ⟨hissues, hfetched, hop⟩ := h
  simp [State.issue, fetchAhead_of_fetched hfetched, hissues, hfetched, hop, hrun]

/-- An operation that is paid for and appended by `f` to a queue of its core. -/
theorem issued_of_paid {work : Work} (f : Core → Core) (h : Presents s core op w)
    (hrun : run s w = .go ((s.pay core work).setCore core (f ((s.pay core work).core core))) (s.nextPc core)) :
    let t := s.issue core op run
    t.core core = { f { s.core core with seq := (s.core core).seq + 1 } with
        pc := BitVec.ofNat 48 (s.nextPc core), held := false }
      ∧ (∀ n, n ≠ core → t.core n = s.core n) ∧ t = { paidFrame s t with cores := t.cores } := by
  intro t
  have ht : t = _ := issue_of_presents h hrun
  have hframe : PricedFrame core s t := by
    rw [ht]
    exact ((((PricedFrame.refl core s).pay _).setCore _).setCore _).count ..
  refine ⟨?_, hframe.2, hframe.1⟩
  rw [ht]
  simp

/-- The entry of an operation that has just been issued. -/
def QEntry.issued (seq : Nat) (op : EngOp) : QEntry :=
  { seq := seq, op := op, started := false, fed := 0, loads := 0, backs := [], num := 0 }

/-- From `s` to `t` an operation has issued that left engine `e` as `y`; nothing else changes but its price. -/
def JoinedEngine (s t : State) (core e : Nat) (y : Engine) : Prop :=
  Issued s t core (s.core core) ∧ t.engine e = y ∧ (∀ n, n ≠ e → t.engine n = s.engine n)
    ∧ t = { paidFrame s t with cores := t.cores, engines := t.engines }

/-- An operation that its engine's queue has room for and that nothing holds back joins the queue. -/
theorem issued_of_toEngine {e : Nat} {eop : EngOp} {work : Work} {after : Engine → Engine} (h : Presents s core op w)
    (hrun : run s w = s.toEngine core e eop work after) (hon : s.isEnabled (bEng (4 * core + e)) = true)
    (hroom : (s.engine (4 * core + e)).queue.length < 8) (hfree : s.stallsFor core eop.reads none true work = 0) :
    let x := s.engine (4 * core + e)
    JoinedEngine s (s.issue core op run) core (4 * core + e)
      (after { x with queue := x.queue ++ [QEntry.issued (s.core core).seq eop] }) := by
  intro x
  have hgo : run s w = .go ((s.pay core work).setEngine (4 * core + e)
      (after { x with queue := x.queue ++ [QEntry.issued (s.core core).seq eop] })) (s.nextPc core) := by
    rw [hrun, State.toEngine]
    simp [hon, hroom, hfree, engine_pay, QEntry.issued, x]
  obtain ⟨hpaid, hcores⟩ := (PricedFrame.refl core s).pay work
  rw [issue_of_presents h hgo]
  refine ⟨⟨?_, fun n hn => ?_⟩, ?_, fun n hn => ?_, ?_⟩
  · simp
  · simpa [hn] using hcores n hn
  · simp
  · simp [hn, engine_pay]
  · generalize s.pay core work = u at hpaid
    rw [hpaid]
    rfl

end

/-! ### Passes and weight loads (R116, R138, R140) -/

/-- The engine that a core's instruction word names (R138, R140). -/
abbrev namedEngine (core w : Nat) : Nat := 4 * core + bitsOf w 8 2

section
variable {s : State} {core : CoreIx} {w : Nat}

theorem afterPass_eq (p : PassOp) (x : Engine) :
    Engine.afterPass p x =
      { x with
        issuedRun := if p.split then (if p.last then none else some { dest := p.dest, idx := p.runIdx }) else x.issuedRun
        issuedFmt0 := if p.compound then some 3 else x.issuedFmt0
        issuedFmt1 := if p.compound then some 3 else x.issuedFmt1 } := by
  unfold Engine.afterPass Engine.noteFmt
  cases p.compound <;> cases p.split <;> rfl

theorem noteFmt_eq (x : Engine) (bank : Bool) (f : Nat) :
    x.noteFmt bank f =
      { x with
        issuedFmt0 := if bank then x.issuedFmt0 else some f
        issuedFmt1 := if bank then some f else x.issuedFmt1 } := by
  cases bank <;> rfl

/-- The load that a word spells (R140). -/
def Core.loadOf (c : Core) (d w : Nat) : LoadOp :=
  { src := c.tensor d, target := bitsOf w 12 4, orient := bitOf w 11
    k0 := c.plusReg (bitsOf w 64 16) (bitsOf w 56 4), n0 := c.plusReg (bitsOf w 80 16) (bitsOf w 60 4)
    kw := bitsOf w 40 7 + 1, nw := bitsOf w 48 7 + 1, bank := bitOf w 10, satMode := c.satMode }

/-- The stop codes of a weight load whose descriptor slot is no poison. -/
def LoadOp.codes (l : LoadOp) : List Nat :=
  must (decide (l.target ≤ 10)) 2 ++ scratchCheck l.src (loadFmt l.src.fmt) (decide (l.src.rank ≤ 2)) l.srcReach
    ++ must (targetOk l.src.fmt l.target) 4

/-- A weight load is refused with the least code of its failed checks, or handed to its engine. -/
theorem doWeightLoad_of_slot {d : Nat} (hd : (s.core core).slot (bitsOf w 32 8) = some d) :
    doWeightLoad core s w = ((s.core core).stopFor ((s.core core).loadOf d w).codes).elim
      (s.toEngine core (bitsOf w 8 2) (.load ((s.core core).loadOf d w)) [(2, core / 8, 128)]
        fun x => x.noteFmt (bitOf w 10) (bitsOf w 12 4)) .refuse := by
  simp only [doWeightLoad, operand_of_slot hd, List.append_nil]
  split
  · next code hstop =>
    rw [show (s.core core).stopFor ((s.core core).loadOf d w).codes = some code from hstop]
    rfl
  · next hstop =>
    rw [show (s.core core).stopFor ((s.core core).loadOf d w).codes = none from hstop]
    rfl

theorem exec_weightLoad_of_refused {d code : Nat} (h : Presents s core .weightLoad w)
    (hd : (s.core core).slot (bitsOf w 32 8) = some d) (hheld : (s.core core).held = false)
    (hcode : leastCode ((s.core core).loadOf d w).codes = some code) :
    exec (.weightLoad core) s = .next (s.refuse core code) := by
  have hrun := doWeightLoad_of_slot hd
  rw [Core.stopFor, hheld, if_neg Bool.false_ne_true, hcode] at hrun
  exact congrArg Host.Outcome.next (issue_of_refused h hrun)

variable (hon : s.isEnabled (bEng (namedEngine core w)) = true)
include hon

/-- A pass whose checks all succeed is handed to its engine. -/
theorem doPass_of_checked {comp : Bool} {p : PassOp} (hp : (s.core core).passOf comp w = (p, []))
    (hrows : 128 * p.dest + p.m ≤ 512)
    (hpair : pairCheck p (if p.bank then (s.engine (namedEngine core w)).issuedFmt1
        else (s.engine (namedEngine core w)).issuedFmt0) = true)
    (hsplit : splitOk (s.engine (namedEngine core w)) p = true) :
    doPass comp core s w = s.toEngine core (bitsOf w 8 2) (.pass p) (p.work core) (Engine.afterPass p) := by
  simp only [doPass, hon, if_true, hp, hpair, hsplit, hrows, decide_true, must_eq_nil.2, List.append_nil, stopFor_nil]

variable (hroom : (s.engine (namedEngine core w)).queue.length < 8)
include hroom

/-- A pass joins its engine's queue, notes the open run, and a compound pass the format of both banks. -/
theorem pass_joins {comp : Bool} {p : PassOp} (h : Presents s core (if comp then .compoundPass else .pass) w)
    (hrun : doPass comp core s w = s.toEngine core (bitsOf w 8 2) (.pass p) (p.work core) (Engine.afterPass p))
    (hfree : s.stallsFor core (EngOp.reads (.pass p)) none true (p.work core) = 0) :
    let x := s.engine (namedEngine core w)
    JoinedEngine s (s.issue core (if comp then .compoundPass else .pass) (doPass comp core)) core (namedEngine core w) { x with
      queue := x.queue ++ [QEntry.issued (s.core core).seq (.pass p)]
      issuedRun := if p.split then (if p.last then none else some { dest := p.dest, idx := p.runIdx }) else x.issuedRun
      issuedFmt0 := if p.compound then some 3 else x.issuedFmt0
      issuedFmt1 := if p.compound then some 3 else x.issuedFmt1 } := by
  have hjoin := issued_of_toEngine h hrun hon hroom hfree
  simpa only [afterPass_eq] using hjoin

/-- A weight load whose checks all succeed joins its engine's queue and notes its target format for its bank. -/
theorem weightLoad_joins {d : Nat} (h : Presents s core .weightLoad w)
    (hd : (s.core core).slot (bitsOf w 32 8) = some d) (hcodes : ((s.core core).loadOf d w).codes = [])
    (hfree : s.stallsFor core ((s.core core).loadOf d w).srcReach none true [(2, core / 8, 128)] = 0) :
    let x := s.engine (namedEngine core w)
    JoinedEngine s (s.issue core .weightLoad (doWeightLoad core)) core (namedEngine core w) { x with
      queue := x.queue ++ [QEntry.issued (s.core core).seq (.load ((s.core core).loadOf d w))]
      issuedFmt0 := if bitOf w 10 then x.issuedFmt0 else some (bitsOf w 12 4)
      issuedFmt1 := if bitOf w 10 then some (bitsOf w 12 4) else x.issuedFmt1 } := by
  have hrun := doWeightLoad_of_slot hd
  rw [hcodes, stopFor_nil, Option.elim_none] at hrun
  have hjoin := issued_of_toEngine h hrun hon hroom hfree
  simpa only [noteFmt_eq] using hjoin

end

/-! ### Matrix-vector instructions and drains (R120, R141, R142) -/

section
variable {s : State} {core : CoreIx} {w : Nat}

/-- The matrix-vector operation that a word spells with its descriptors (R142). -/
def Core.mvOf (c : Core) (ad wd pd w : Nat) : MvOp :=
  { engine := bitsOf w 8 2, tile := bitsOf w 10 2, acc := accSourceOf (bitsOf w 12 2), act := c.tensor ad
    weight := c.tensor wd, preload := if bitsOf w 12 2 = 2 then some (c.tensor pd) else none, m := bitsOf w 56 4 + 1
    kv := bitsOf w 64 7 + 1, nv := bitsOf w 72 7 + 1, row0 := c.plusReg (bitsOf w 80 12) (bitsOf w 60 4)
    k0 := 128 * c.plusReg (bitsOf w 96 12) (bitsOf w 92 4), n0 := 128 * c.plusReg (bitsOf w 112 12) (bitsOf w 108 4)
    satMode := c.satMode }

/-- The drain that a word spells with its descriptor (R141). -/
def Core.drainOf (c : Core) (d w : Nat) : DrainOp :=
  { engine := bitsOf w 8 2, tile := bitsOf w 10 2, reduce := bitsOf w 12 2, transform := bitOf w 14
    truncate := bitOf w 15, rows := bitsOf w 40 7 + 1, cols := bitsOf w 48 7 + 1, dst := c.tensor d
    side := c.plusReg (bitsOf w 64 22) (bitsOf w 56 4), satMode := c.satMode }

/-- A matrix-vector operation whose checks all succeed is paid for and queued. -/
theorem doMatrixVector_of_checked {ad wd pd : Nat} (hact : (s.core core).slot (bitsOf w 32 8) = some ad)
    (hwt : (s.core core).slot (bitsOf w 40 8) = some wd)
    (hpre : bitsOf w 12 2 = 2 → (s.core core).slot (bitsOf w 48 8) = some pd) (hacc : bitsOf w 12 2 ≠ 3) :
    let c := s.core core
    let o := c.mvOf ad wd pd w
    let work : Work := [(3, core / 8, o.m * ceilDiv o.nv (mvColumns o.weight.fmt))]
    scratchCheck o.act (decide (o.act.fmt ≤ 4)) (o.act.rank == 2)
      (o.act.reach (o.k0, o.k0 + o.kv) (o.row0, o.row0 + o.m) (0, 1) (0, 1)) = [] →
    scratchCheck o.weight (loadFmt o.weight.fmt) (o.weight.rank == 2)
      (o.weight.reach (o.k0, o.k0 + o.kv) (o.n0, o.n0 + o.nv) (0, 1) (0, 1)) = [] →
    (bitsOf w 12 2 = 2 → scratchCheck (c.tensor pd) (tileFmt (c.tensor pd).fmt) ((c.tensor pd).rank == 2)
      ((c.tensor pd).reach (0, o.nv) (0, o.m) (0, 1) (0, 1)) = []) →
    pairOk o.act.fmt (mvWeightFmt o.act.fmt o.weight.fmt) = true →
    runFree (s.engine (4 * core + o.engine)) [o.tile] = true → c.mvq.length < 8 →
    s.stallsFor core o.reads none true work = 0 →
    doMatrixVector core s w = .go ((s.pay core work).setCore core
        { (s.pay core work).core core with mvq := ((s.pay core work).core core).mvq ++ [(c.seq, o)] }) (s.nextPc core) := by
  intro c o work hreadAct hreadWt hreadPre hpair hrun hroom hfree
  obtain ⟨pd', hpd, ho, hread⟩ : ∃ pd', (if bitsOf w 12 2 = 2 then (s.core core).operand (bitsOf w 48 8)
          else ((s.core core).tensor 0, []))
        = ((s.core core).tensor pd', []) ∧ o = c.mvOf ad wd pd' w ∧ (bitsOf w 12 2 = 2 → pd' = pd) := by
    by_cases h2 : bitsOf w 12 2 = 2
    · exact ⟨pd, by rw [if_pos h2, operand_of_slot (hpre h2)], rfl, fun _ => rfl⟩
    · exact ⟨0, if_neg h2, by simp [o, Core.mvOf, h2], fun h => absurd h h2⟩
  have hcodes : must (bitsOf w 12 2 != 3) 2 ++ [] ++ [] ++ []
      ++ scratchCheck o.act (decide (o.act.fmt ≤ 4)) (o.act.rank == 2)
        (o.act.reach (o.k0, o.k0 + o.kv) (o.row0, o.row0 + o.m) (0, 1) (0, 1))
      ++ scratchCheck o.weight (loadFmt o.weight.fmt) (o.weight.rank == 2)
        (o.weight.reach (o.k0, o.k0 + o.kv) (o.n0, o.n0 + o.nv) (0, 1) (0, 1))
      ++ (if bitsOf w 12 2 = 2 then scratchCheck (c.tensor pd') (tileFmt (c.tensor pd').fmt) ((c.tensor pd').rank == 2)
            ((c.tensor pd').reach (0, o.nv) (0, o.m) (0, 1) (0, 1))
          else [])
      ++ must (pairOk o.act.fmt (mvWeightFmt o.act.fmt o.weight.fmt)) 4
      ++ must (runFree (s.engine (4 * core + o.engine)) [o.tile]) 5 = [] := by
    simp only [hreadAct, hreadWt, List.append_eq_nil_iff, must_eq_nil, hrun, hpair]
    simpa [hacc] using fun h2 => hread h2 ▸ hreadPre h2
  clear_value o
  subst ho
  simp only [doMatrixVector, operand_of_slot hact, operand_of_slot hwt, hpd]
  split
  · next code hstop =>
    have hnone : c.stopFor [] = some code := hcodes ▸ hstop
    simp at hnone
  · have hwhy : s.stallsFor core (c.mvOf ad wd pd' w).reads none (decide (c.mvq.length < 8)) work = 0 := by
      rw [decide_eq_true hroom]; exact hfree
    exact if_neg (not_not.2 hwhy)

/-- A drain whose checks all succeed is paid for and queued. -/
theorem doDrain_of_checked {d : Nat} (hd : (s.core core).slot (bitsOf w 32 8) = some d) (hred : bitsOf w 12 2 ≠ 3) :
    let c := s.core core
    let o := c.drainOf d w
    scratchCheck o.dst (tileFmt o.dst.fmt) (o.dst.rank == 2) o.dstReach = [] → o.side % 16 = 0 →
    o.side + o.sideLen ≤ 0x400000 → (o.transform = true → o.reduce = 2) →
    runFree (s.engine (4 * core + o.engine)) [o.tile] = true → c.drainq.length < 8 →
    s.stallsFor core none o.writes true [(7, core / 8, o.rows)] = 0 →
    doDrain core s w = .go ((s.pay core [(7, core / 8, o.rows)]).setCore core
        { (s.pay core [(7, core / 8, o.rows)]).core core with
          drainq := ((s.pay core [(7, core / 8, o.rows)]).core core).drainq ++ [(c.seq, o)] }) (s.nextPc core) := by
  intro c o hdst halign hside htrans hrun hroom hfree
  have hcodes : must (bitsOf w 12 2 != 3) 2 ++ [] ++ scratchCheck o.dst (tileFmt o.dst.fmt) (o.dst.rank == 2) o.dstReach
      ++ must (o.side % 16 == 0 && decide (o.side + o.sideLen ≤ 0x400000)) 3
      ++ must (!o.transform || o.reduce == 2) 4 ++ must (runFree (s.engine (4 * core + o.engine)) [o.tile]) 5 = [] := by
    simp only [hdst, List.append_eq_nil_iff, must_eq_nil, hrun]
    simp [hred, halign, hside]
    cases ht : o.transform <;> simp_all
  simp only [doDrain, operand_of_slot hd]
  split
  · next code hstop =>
    have hnone : c.stopFor [] = some code := hcodes ▸ hstop
    simp at hnone
  · have hwhy : s.stallsFor core none o.writes (decide (c.drainq.length < 8)) [(7, core / 8, o.rows)] = 0 := by
      rw [decide_eq_true hroom]; exact hfree
    exact if_neg (not_not.2 hwhy)

end

/-- Settles O33: each of the five passes its checks and joins the queue of its unit. -/
theorem matrixInstructionsAreQueued : Obligations.MatrixInstructionsAreQueued := by
  unfold Obligations.MatrixInstructionsAreQueued
  intro s core w
  refine ⟨fun comp h => ?pass, fun h d hd => ?load, fun h ad wd pd hact hwt hpre hacc => ?mv, fun h d hd hred => ?drain⟩
  case pass =>
    intro p hdesc hrows hpair hsplit hroom hfree
    have hp : (s.core core).passOf comp w = (p, []) := Prod.ext rfl hdesc
    have hcomp : p.compound = comp := rfl
    refine ⟨s.issue core (if comp then .compoundPass else .pass) (doPass comp core), by cases comp <;> rfl, ?_⟩
    have hjoin := pass_joins hroom.1 hroom.2 h (doPass_of_checked hroom.1 hp hrows hpair hsplit) hfree
    rw [hcomp] at hjoin
    exact hjoin
  case load =>
    intro l
    refine ⟨fun htarget hsrc hok hroom hfree => ?queued, fun hheld htarget => ?format, fun hheld htarget hsrc hok => ?pair⟩
    case queued =>
      have hcodes : l.codes = [] := by
        rw [LoadOp.codes, must_eq_nil.2 (decide_eq_true htarget), hsrc, must_eq_nil.2 hok]
        rfl
      exact ⟨s.issue core .weightLoad (doWeightLoad core), rfl, weightLoad_joins hroom.1 hroom.2 h hd hcodes hfree⟩
    case format =>
      have hcode : leastCode l.codes = some 2 := by
        rw [LoadOp.codes, must, decide_eq_false (Nat.not_le.2 htarget)]
        exact leastCode_two ..
      exact exec_weightLoad_of_refused h hd hheld hcode
    case pair =>
      have hcode : leastCode l.codes = some 4 := by
        rw [LoadOp.codes, must_eq_nil.2 (decide_eq_true htarget), hsrc, hok]
        rfl
      exact exec_weightLoad_of_refused h hd hheld hcode
  case mv =>
    intro o hreadAct hreadWt hreadPre hpair hfreeTile hroom hfree
    have hrun := doMatrixVector_of_checked hact hwt hpre hacc hreadAct hreadWt hreadPre hpair hfreeTile hroom hfree
    obtain ⟨hcore, hothers, hframe⟩ := issued_of_paid (fun c => { c with mvq := c.mvq ++ [((s.core core).seq, o)] }) h hrun
    exact ⟨s.issue core .matrixVector (doMatrixVector core), rfl, ⟨hcore, hothers⟩, hframe⟩
  case drain =>
    intro o hdst halign hside htrans hfreeTile hroom hfree
    have hrun := doDrain_of_checked hd hred hdst halign hside htrans hfreeTile hroom hfree
    obtain ⟨hcore, hothers, hframe⟩ :=
      issued_of_paid (fun c => { c with drainq := c.drainq ++ [((s.core core).seq, o)] }) h hrun
    exact ⟨s.issue core .drain (doDrain core), rfl, ⟨hcore, hothers⟩, hframe⟩

end Sys2Proof.Machine
end

section
/-! Why O34 fails. Its last clause bounds the bytes of a drain by `DrainOp.writes`, which is empty for a destination that has
an extent of 0 in any dimension below its rank; the drain itself goes by the first two dimensions (R141). The destinations
that descriptors spell (`Core.tensor`) have no such extent; of the drains in a core's queue the statement does not ask it. -/

namespace Sys2Proof.Machine

theorem exec_drainStart_of_ready {s : State} {core : CoreIx} {seq : Nat} {o : DrainOp} {rest : List (Nat × DrainOp)}
    (hq : (s.core core).drainq = (seq, o) :: rest)
    (hready : (s.tilesFree core seq [(o.engine, o.tile)] && s.siteIssues (core / 8)) = true) :
    exec (.drainStart core) s = .next ((s.setCore core { s.core core with drainq := rest }).runDrain core o) := by
  simp only [exec, execDrainStart, hq, hready, if_true]

/-- A destination of rank 3 with no index along dimension 2: it has no element. -/
def emptyDst : Tensor :=
  { fmt := 0, rank := 3, ext := [1, 1, 0], base := 4096, stride1 := 0, stride2 := 0, stride3 := 0, scale := 127
    physical := false, cache := false }

/-- A drain of one element into it, with its side record at 0. -/
def emptyDrain : DrainOp :=
  { engine := 0, tile := 0, reduce := 0, transform := false, truncate := false, rows := 1, cols := 1, dst := emptyDst
    side := 0, satMode := false }

/-- Core 0 on a powered site with that drain before it, its banks serving addresses, and 1 stored at the destination's base. -/
def emptyDrainState : State :=
  { State.reset with
    sites := [(0, { Site.reset with railOn := true })]
    banks := (List.range 32).map fun b => (bBankCore 0 * 256 + b, { BankSt.reset with mode := 1 })
    cores := [(0, { Core.reset with drainq := [(0, emptyDrain)] })]
    mem := [(scratchKey 0 4096, 1)] }

/-- What the drain is said to write is its side record alone. -/
theorem writes_emptyDrain : emptyDrain.writes = some (0, 16) := rfl

theorem emptyDrain_ready : (emptyDrainState.tilesFree 0 0 [(0, 0)] && emptyDrainState.siteIssues 0) = true := by decide

/-- That state once the drain has run. -/
def emptyDrained : State :=
  (emptyDrainState.setCore 0 { emptyDrainState.core 0 with drainq := [] }).runDrain 0 emptyDrain

theorem exec_emptyDrain : exec (.drainStart 0) emptyDrainState = .next emptyDrained :=
  exec_drainStart_of_ready (seq := 0) rfl emptyDrain_ready

/-- The drain writes the element it takes from the accumulator, +0, at the destination's base. -/
theorem byte_emptyDrained : Map.get emptyDrained.mem (scratchKey 0 4096) unlistedByte = 0 := by decide

/-- Refutes O34: the drain of `emptyDrainState` clears a byte outside `emptyDrain.writes`. -/
theorem not_matrixUnitsStartTheirWork : ¬ Obligations.MatrixUnitsStartTheirWork := by
  unfold Obligations.MatrixUnitsStartTheirWork
  intro h
  obtain ⟨-, -, -, -, hdrains⟩ := h emptyDrainState
  obtain ⟨t, hexec, -, -, -, -, hbytes⟩ := (hdrains 0 0 emptyDrain [] rfl).2 emptyDrain_ready
  cases hexec.symm.trans exec_emptyDrain
  have hkept : Map.get emptyDrained.mem (scratchKey 0 4096) unlistedByte = 1 :=
    hbytes rfl 0 16 writes_emptyDrain le_rfl (scratchKey 0 4096) (.inr (by decide)) rfl
  rw [byte_emptyDrained] at hkept
  exact absurd hkept (by decide)

end Sys2Proof.Machine
end

section
/-! What a unit's accesses to its core's scratchpad leave of the state: banks, counters, records, and the words in which the
access finds a bit error (R285, R286, R333). -/

namespace Sys2Proof.Machine

/-! ### Words that are mended -/

/-- From `s` to `t` a storage word without a bit error keeps its bytes and gets none (R333). -/
def Mended (s t : State) : Prop :=
  ∀ w, Map.find s.upsets w = none →
    Map.find t.upsets w = none ∧ ∀ k, k / 16 = w → Map.get t.mem k unlistedByte = Map.get s.mem k unlistedByte

namespace Mended

variable {s t u : State}

theorem refl (s : State) : Mended s s := fun _ hw => ⟨hw, fun _ _ => rfl⟩

theorem trans (h : Mended s t) (k : Mended t u) : Mended s u := fun w hw => by
  obtain ⟨ht, hst⟩ := h w hw
  obtain ⟨hu, htu⟩ := k w ht
  exact ⟨hu, fun i hi => (htu i hi).trans (hst i hi)⟩

theorem sameByte (h : Mended s t) (k : Nat) : Sys2Proof.sameByte s t k := fun hk => (h (k / 16) hk).2 k rfl

/-- Bit errors disappear and memory stays. -/
theorem of_upsets (hup : ∀ w, Map.find s.upsets w = none → Map.find t.upsets w = none) (hmem : t.mem = s.mem) : Mended s t :=
  fun w hw => ⟨hup w hw, fun _ _ => by rw [hmem]⟩

theorem mendWord (s : State) (w : Nat) : Mended s (s.mendWord w).1 := by
  unfold State.mendWord
  split
  · exact refl s
  · next e he =>
    intro v hv
    have hne : v ≠ w := fun h => by simp [h, he] at hv
    refine ⟨by simp [hv], fun k hk => ?_⟩
    dsimp only
    rw [get_memWrite, length_leBytes, if_neg (by omega)]

end Mended

theorem find_filter_none {α : Type} (p : Nat × α → Bool) {m : Map α} {i : Nat} (h : Map.find m i = none) :
    Map.find (m.filter p : Map α) i = none := by
  induction m with
  | nil => exact h
  | cons e m ih =>
    obtain ⟨k, v⟩ := e
    rw [Map.find_cons] at h
    split at h
    · cases h
    · next hik =>
      rw [List.filter_cons]
      split
      · rw [Map.find_cons, if_neg hik, ih h]
      · exact ih h

/-! ### The frame of a scratchpad access -/

theorem regKey_ne {n off n' off' : Nat} (hn : n < n') (hoff : off < 65536) : regKey n off ≠ regKey n' off' := by
  unfold regKey
  omega

theorem bSsh_ge (t : Nat) : 0x800 ≤ bSsh t := by
  unfold bSsh
  split <;> omega

/-- What a unit's access to a scratchpad may change: banks, counters of blocks other than engines, once-latches, sheets, and
the words with a bit error. -/
structure UnitAccess (s t : State) : Prop where
  frame : t = { s with
    banks := t.banks, counters := t.counters, once := t.once, sheets := t.sheets, mem := t.mem, poison := t.poison
    upsets := t.upsets }
  mended : Mended s t
  counts : ∀ n off, n < 0x800 → off < 65536 → t.counter n off = s.counter n off

namespace UnitAccess

variable {s t u : State}

theorem refl (s : State) : UnitAccess s s := ⟨rfl, Mended.refl s, fun _ _ _ _ => rfl⟩

theorem trans (h : UnitAccess s t) (k : UnitAccess t u) : UnitAccess s u := by
  refine ⟨?_, h.mended.trans k.mended, fun n off hn hoff => (k.counts n off hn hoff).trans (h.counts n off hn hoff)⟩
  have htu := k.frame
  rw [h.frame] at htu
  exact htu

theorem engines (h : UnitAccess s t) : t.engines = s.engines := by rw [h.frame]
theorem cores (h : UnitAccess s t) : t.cores = s.cores := by rw [h.frame]

theorem count (h : UnitAccess s t) {n : Nat} (hn : 0x800 ≤ n) (off k : Nat) : UnitAccess s (t.count n off k) :=
  h.trans ⟨rfl, Mended.of_upsets (fun _ hw => hw) rfl, fun _ _ hm hoff =>
    Map.get_put_ne _ _ _ _ _ (regKey_ne (Nat.lt_of_lt_of_le hm hn) hoff)⟩

theorem setSheet (h : UnitAccess s t) (i : Nat) (x : Sheet) : UnitAccess s (t.setSheet i x) :=
  h.trans ⟨rfl, Mended.of_upsets (fun _ hw => hw) rfl, fun _ _ _ _ => rfl⟩

theorem record (h : UnitAccess s t) (blk code unit arg0 arg1 : Nat) : UnitAccess s (t.record blk code unit arg0 arg1) := by
  unfold State.record State.recordIn
  dsimp only
  split
  · exact h.count (bSsh_ge _) ..
  · split
    · exact h.setSheet ..
    · exact (h.setSheet ..).count (bSsh_ge _) ..

theorem recordOnce (h : UnitAccess s t) (blk code sub unit arg0 arg1 : Nat) :
    UnitAccess s (t.recordOnce blk code sub unit arg0 arg1) := by
  unfold State.recordOnce
  dsimp only
  split
  · exact h
  · refine UnitAccess.record ?_ ..
    exact h.trans ⟨rfl, Mended.of_upsets (fun _ hw => hw) rfl, fun _ _ _ _ => rfl⟩

theorem touchBank (h : UnitAccess s t) (blk b : Nat) : UnitAccess s (t.touchBank blk b) :=
  h.trans ⟨rfl, Mended.of_upsets (fun _ hw => hw) rfl, fun _ _ _ _ => rfl⟩

theorem refuseRow (h : UnitAccess s t) {blk : Nat} (hblk : 0x800 ≤ blk) (b who a : Nat) :
    UnitAccess s (t.refuseRow blk b who a) :=
  (h.count hblk ..).recordOnce ..

theorem mendWord (h : UnitAccess s t) (w : Nat) : UnitAccess s (t.mendWord w).1 := by
  refine h.trans ⟨?_, Mended.mendWord t w, ?_⟩
  · unfold State.mendWord
    split <;> rfl
  · intro n off _ _
    unfold State.mendWord
    split <;> rfl

theorem mendWords (h : UnitAccess s t) {blk : Nat} (hblk : 0x800 ≤ blk) (unit a : Nat) (ws : List Nat) :
    UnitAccess s (t.mendWords blk unit a ws) := by
  unfold State.mendWords
  split
  · exact h
  · refine List.foldlRecOn (motive := UnitAccess s) _ _ h fun acc hacc w _ => ?_
    have hw := hacc.mendWord w
    split
    · next heq => rwa [heq] at hw
    · next heq => rw [heq] at hw; exact hw.count hblk ..
    · next heq => rw [heq] at hw; exact (hw.count hblk ..).record ..

theorem bBankCore_ge (core : Nat) : 0x800 ≤ bBankCore core := by
  unfold bBankCore
  omega

/-- A unit's read of its core's scratchpad. -/
theorem ownRead (h : UnitAccess s t) (who core off n : Nat) : UnitAccess s (t.ownRead who core off n).1 := by
  unfold State.ownRead
  refine List.foldlRecOn (motive := fun acc : State × PBytes => UnitAccess s acc.1) _ _ h fun acc hacc r _ => ?_
  dsimp only
  split
  · exact (hacc.touchBank ..).mendWords (bBankCore_ge core) ..
  · exact hacc.refuseRow (bBankCore_ge core) ..

theorem elemAt (h : UnitAccess s t) (who core : Nat) (x : Tensor) (i0 i1 i2 i3 : Nat) :
    UnitAccess s (t.elemAt who core x i0 i1 i2 i3).1 := by
  unfold State.elemAt
  split
  · exact h.ownRead ..
  · exact h

theorem markedRow (h : UnitAccess s t) (who core : Nat) (x : Tensor) (lo n i1 : Nat) :
    UnitAccess s (t.markedRow who core x lo n i1).1 := by
  unfold State.markedRow State.rowAt
  dsimp only
  split_ifs <;> first | exact h | exact h.ownRead ..

theorem convRow (h : UnitAccess s t) (who core : Nat) (x : Tensor) (r : ConvRec) (p kbase kv : Nat) :
    UnitAccess s (t.convRow who core x r p kbase kv).1 := by
  unfold State.convRow
  refine List.foldlRecOn (motive := fun acc : State × ElemRow => UnitAccess s acc.1) _ _ h fun acc hacc k _ => ?_
  split
  · exact hacc.elemAt ..
  · exact hacc

theorem preloadRow (h : UnitAccess s t) (who core : Nat) (x : Tensor) (m nv : Nat) (nonSat : Bool) :
    UnitAccess s (t.preloadRow who core x m nv nonSat).1 := h.markedRow ..

theorem collect {α : Type} (h : UnitAccess s t) (n : Nat) (f : State → Nat → State × α)
    (hf : ∀ {u : State} (i : Nat), UnitAccess s u → UnitAccess s (f u i).1) : UnitAccess s (t.collect n f).1 :=
  List.foldlRecOn (motive := fun acc : State × List α => UnitAccess s acc.1) _ _ h fun _ hacc i _ => hf i hacc

theorem passRows (h : UnitAccess s t) (who core : Nat) (p : PassOp) (lo hi : Nat) :
    UnitAccess s (t.passRows who core p lo hi).1 := by
  refine h.collect _ _ fun i hu => ?_
  split
  · exact hu.convRow ..
  · exact hu.markedRow ..

theorem weightColumns (h : UnitAccess s t) (who core : Nat) (x : Tensor) (orient : Bool) (k0 n0 kw nw : Nat) :
    UnitAccess s (t.weightColumns who core x orient k0 n0 kw nw).1 := by
  unfold State.weightColumns
  split
  · exact h.collect _ _ fun _ hu => hu.markedRow ..
  · exact h.collect _ _ fun _ hu => hu.markedRow ..

theorem flagBit (h : UnitAccess s t) (core unit detail bit : Nat) (set : Bool) :
    UnitAccess s (t.flagBit core unit detail bit set) := by
  unfold State.flagBit
  split
  · exact h.recordOnce ..
  · exact h

end UnitAccess

end Sys2Proof.Machine
end

section
/-! What the work of one operation leaves of its engine and of the rest: the operation's own queue entry moves on, the other
entries, the count of operations done, the other engines and the other units' queues stay (R76 to R82, R91). -/

namespace Sys2Proof.Machine

/-! ### What the accumulator path leaves of an engine (R99 to R115) -/

/-- Queue and OPS_DONE of an engine stay. -/
def SameOps (x y : Engine) : Prop := y.queue = x.queue ∧ y.opsDone = x.opsDone

namespace SameOps

variable {x y z : Engine}

theorem refl (x : Engine) : SameOps x x := ⟨rfl, rfl⟩

theorem trans (h : SameOps x y) (k : SameOps y z) : SameOps x z := ⟨k.1.trans h.1, k.2.trans h.2⟩

theorem setTile (h : SameOps x y) (j : Nat) (t : TileStat) : SameOps x (y.setTile j t) := h.trans ⟨rfl, rfl⟩

theorem writeRows (h : SameOps x y) (n1 : Bool) (first : Nat) (acc : AccSource) (pre rows : List (List Sum)) :
    SameOps x (y.writeRows n1 first acc pre rows).1 := by
  unfold Engine.writeRows
  dsimp only
  refine List.foldlRecOn (motive := SameOps x) _ _ ?_ fun z hz _ _ => hz.setTile ..
  exact List.foldlRecOn (motive := fun a : Engine × List (Nat × Flags) => SameOps x a.1) _ _ h
    fun _ ha _ _ => ha.trans ⟨rfl, rfl⟩

theorem mergeSlots (h : SameOps x y) (n1 : Bool) (up m nv : Nat) : SameOps x (y.mergeSlots n1 up m nv).1 := by
  unfold Engine.mergeSlots
  dsimp only
  refine setTile ?_ ..
  exact List.foldlRecOn (motive := fun a : Engine × Flags => SameOps x a.1) _ _ h fun _ ha _ _ => ha.trans ⟨rfl, rfl⟩

theorem mergeMany (n1 : Bool) (m nv : Nat) : ∀ (n top : Nat) (a : Engine × List (Nat × Flags)), SameOps x a.1 →
    SameOps x (Engine.mergeMany n1 m nv n top a).1
  | 0, _, _, h => h
  | n + 1, top, _, h => mergeMany n1 m nv n (top - 1) _ (h.mergeSlots n1 top m nv)

theorem runStep (h : SameOps x y) (n1 : Bool) (p : PassOp) (pre : List (List Sum)) : SameOps x (y.runStep n1 p pre).1 := by
  have hmerged := mergeMany n1 p.m p.nv p.merges p.slotTile (y, []) h
  unfold Engine.runStep
  dsimp only
  split
  · exact hmerged
  · have hclosed := mergeMany n1 p.m p.nv (onesOf 5 (p.runIdx + 1) - 1) (p.dest + onesOf 5 (p.runIdx + 1) - 1) _ hmerged
    refine setTile ?_ ..
    split
    · refine setTile ?_ ..
      exact List.foldlRecOn (motive := fun a : Engine × Flags => SameOps x a.1) _ _ hclosed fun _ ha _ _ => ha.trans ⟨rfl, rfl⟩
    · exact hclosed

end SameOps

/-! ### Read-backs (R95) -/

theorem readBacks_cons (s : State) (e : Nat) (seen : List Nat) (b : ReadBack) (more : List ReadBack) :
    s.readBacks e seen (b :: more) =
      let s1 := if seen.contains (backRow b) then s else s.count (bEng e) 0x188 1
      if seen.contains (backRow b) || b == .fault (backRow b) then
        (s1.setEngine e { s1.engine e with arrayFault := true }).record (bEng e) 0x020A e 0 0
      else s1.readBacks e (backRow b :: seen) more := by
  cases b <;> rfl

/-! ### Steps of a started pass (R76 to R82) -/

/-- How far the feeder gets with the rows of a pass: none of them before the passes issued earlier have fed theirs. -/
def State.feedBound (s : State) (e : Nat) (q : QEntry) (p : PassOp) : Nat :=
  if ((s.engine e).before q).all QEntry.allFed then s.feedLimit e q p else 0

section
variable {s : State} {e n : Nat} {q : QEntry} {p : PassOp} {k : Nat} {bank : Bool} {rest : List EngStep}

theorem runSteps_of_fault (h : (s.engine e).arrayFault = true) : s.runSteps n e q p = (s, q) := by
  cases n with
  | zero => rfl
  | succ n => simp [State.runSteps, h]

theorem runSteps_load (h : ¬(s.engine e).arrayFault = true) (hsteps : q.steps = .load k bank :: rest) :
    s.runSteps (n + 1) e q p =
      if bankHeld (s.engine e) q bank then (s, q)
      else (s.pieceLoad e q p k bank).runSteps n e { q with loads := q.loads + 1, backs := q.backs.drop 1 } p := by
  simp [State.runSteps, h, hsteps]

theorem runSteps_pass (h : ¬(s.engine e).arrayFault = true) (hsteps : q.steps = .pass k bank :: rest) :
    s.runSteps (n + 1) e q p =
      let fresh := s.feedBound e q p - q.fed % p.m
      let s1 := s.feedRows e q p k bank (decide (q.fed < p.m)) (q.fed % p.m) fresh
      let q1 := { q with fed := q.fed + fresh }
      if s.feedBound e q p < p.m || rest.isEmpty then (s1, q1) else (s1.count (bEng e) 0x140 1).runSteps n e q1 p := by
  simp only [State.runSteps, h, hsteps]
  rfl

end

/-! ### The work of one operation -/

/-- From `s` to `t` the operation `seq` of engine `e` has been worked on: of its engine its own entry may change, the rest of
the queue and OPS_DONE stay; other engines stay, and of the cores all but the sticky flags. -/
structure EngineWork (e seq : Nat) (s t : State) : Prop where
  others : ∀ n, n ≠ e → t.engine n = s.engine n
  opsDone : (t.engine e).opsDone = (s.engine e).opsDone
  rest : (t.engine e).queue.filter (fun r => r.seq ≠ seq) = (s.engine e).queue.filter (fun r => r.seq ≠ seq)
  present : ((t.engine e).queue.any fun r => r.seq == seq) = ((s.engine e).queue.any fun r => r.seq == seq)
  cores : ∀ n, t.core n = { s.core n with sticky := (t.core n).sticky }
  mended : Mended s t

namespace EngineWork

variable {e seq : Nat} {s t u : State}

theorem refl (e seq : Nat) (s : State) : EngineWork e seq s s := ⟨fun _ _ => rfl, rfl, rfl, rfl, fun _ => rfl, Mended.refl s⟩

theorem trans (h : EngineWork e seq s t) (k : EngineWork e seq t u) : EngineWork e seq s u where
  others n hn := (k.others n hn).trans (h.others n hn)
  opsDone := k.opsDone.trans h.opsDone
  rest := k.rest.trans h.rest
  present := k.present.trans h.present
  cores n := by rw [k.cores n, h.cores n]
  mended := h.mended.trans k.mended

theorem access (h : EngineWork e seq s t) (k : UnitAccess t u) : EngineWork e seq s u := by
  have hengine : ∀ n, u.engine n = t.engine n := fun n => by rw [State.engine, k.engines]; rfl
  have hcore : ∀ n, u.core n = t.core n := fun n => by rw [State.core, k.cores]; rfl
  exact h.trans ⟨fun n _ => hengine n, by rw [hengine], by rw [hengine], by rw [hengine], fun n => by rw [hcore], k.mended⟩

theorem count (h : EngineWork e seq s t) (n off k : Nat) : EngineWork e seq s (t.count n off k) :=
  h.trans ⟨fun _ _ => rfl, rfl, rfl, rfl, fun _ => rfl, Mended.refl t⟩

theorem record (h : EngineWork e seq s t) (blk code unit arg0 arg1 : Nat) :
    EngineWork e seq s (t.record blk code unit arg0 arg1) := h.access ((UnitAccess.refl t).record ..)

/-- The engine's entry for the operation is changed, and what is no part of the queue or OPS_DONE. -/
theorem setEngine (h : EngineWork e seq s t) {y : Engine} (hdone : y.opsDone = (t.engine e).opsDone)
    (f : QEntry → QEntry) (hf : ∀ r, (f r).seq = r.seq)
    (hqueue : y.queue = (t.engine e).queue.map fun r => if r.seq = seq then f r else r) :
    EngineWork e seq s (t.setEngine e y) := by
  have hsame : ∀ r : QEntry, (if r.seq = seq then f r else r).seq = r.seq := fun r => by split <;> simp [hf]
  refine h.trans ⟨fun n hn => engine_setEngine_ne t e n y hn, ?_, ?_, ?_, fun _ => rfl, Mended.refl t⟩
  · rw [engine_setEngine_same, hdone]
  · rw [engine_setEngine_same, hqueue, List.filter_map]
    simp only [Function.comp_def, hsame]
    refine (List.map_congr_left fun r hr => ?_).trans (List.map_id _)
    exact if_neg (by simpa using (List.mem_filter.1 hr).2)
  · rw [engine_setEngine_same, hqueue, List.any_map]
    simp only [Function.comp_def, hsame]

/-- What is no part of the queue or OPS_DONE of the engine is changed. -/
theorem setSameOps (h : EngineWork e seq s t) {y : Engine} (hy : SameOps (t.engine e) y) :
    EngineWork e seq s (t.setEngine e y) :=
  h.setEngine hy.2 id (fun _ => rfl) (hy.1.trans (by simp))

theorem coreFlags (h : EngineWork e seq s t) (core unit detail : Nat) (f : Flags) :
    EngineWork e seq s (t.coreFlags core unit detail f) := by
  have hset : EngineWork e seq s (t.setCore core { t.core core with sticky := Flags.or (t.core core).sticky f }) := by
    refine h.trans ⟨fun _ _ => rfl, rfl, rfl, rfl, fun n => ?_, Mended.refl t⟩
    rw [core_setCore]
    split
    · next hn => rw [hn]
    · rfl
  exact hset.access ((((UnitAccess.refl _).flagBit ..).flagBit ..).flagBit ..)

theorem tileFlags (h : EngineWork e seq s t) (core unit n : Nat) (fl : List (Nat × Flags)) :
    EngineWork e seq s (t.tileFlags core unit n fl) :=
  List.foldlRecOn (motive := EngineWork e seq s) _ _ h fun _ hacc _ _ => hacc.coreFlags ..

/-! ### Accumulator words with a bit error (R95, R109) -/

theorem upsets (h : EngineWork e seq s t) {m : Map (BitVec 144)}
    (hm : ∀ w, Map.find t.upsets w = none → Map.find m w = none) : EngineWork e seq s { t with upsets := m } :=
  h.trans ⟨fun _ _ => rfl, rfl, rfl, rfl, fun _ => rfl, Mended.of_upsets hm rfl⟩

theorem mendAccWord (h : EngineWork e seq s t) (w : Nat) : EngineWork e seq s (t.mendAccWord e w) := by
  unfold State.mendAccWord
  split
  · exact h
  · have herase : EngineWork e seq s { t with upsets := Map.erase t.upsets (accWordKey e w) } :=
      h.upsets fun v hv => by simp [hv]
    dsimp only
    split
    · refine EngineWork.record ?_ ..
      exact herase.setSameOps ⟨rfl, rfl⟩
    · exact herase.setSameOps ⟨rfl, rfl⟩

theorem readAcc (h : EngineWork e seq s t) (lo hi nv : Nat) : EngineWork e seq s (t.readAcc e lo hi nv) := by
  unfold State.readAcc
  split
  · exact h
  · exact List.foldlRecOn (motive := EngineWork e seq s) _ _ h fun _ hrow _ _ =>
      List.foldlRecOn (motive := EngineWork e seq s) _ _ hrow fun _ hacc _ _ => hacc.mendAccWord _

theorem touchAcc (h : EngineWork e seq s t) (src : AccSource) (lo hi nv : Nat) :
    EngineWork e seq s (t.touchAcc e src lo hi nv) := by
  unfold State.touchAcc State.coverAcc
  split_ifs
  · exact h.readAcc ..
  · exact h
  · exact (h.upsets fun w hw => find_filter_none _ hw).readAcc ..

/-! ### Steps of a pass (R77 to R82, R95) -/

theorem feedRows (h : EngineWork e seq s t) {q : QEntry} (hq : q.seq = seq) (p : PassOp) (piece : Nat) (bank first : Bool)
    (at' n : Nat) : EngineWork e seq s (t.feedRows e q p piece bank first at' n) := by
  unfold State.feedRows
  split
  · exact h
  · have hrows := (UnitAccess.refl t).passRows (8 * (e / 4) + 6) (e / 4) p at' (at' + n)
    dsimp only
    refine ((EngineWork.tileFlags ?_ ..).count ..).count ..
    refine setEngine (seq := seq) (touchAcc (h.access ?_) ..) ?_ (fun r => { r with fed := r.fed + n }) (fun _ => rfl) ?_
    · split
      · split
        · exact hrows
        · exact hrows.collect _ _ fun _ hu => hu.preloadRow ..
      · exact hrows
    · exact ((SameOps.refl _).writeRows ..).2
    · rw [hq]
      exact congrArg _ ((SameOps.refl _).writeRows ..).1

theorem readBacks (h : EngineWork e seq s t) (seen : List Nat) (backs : List ReadBack) :
    EngineWork e seq s (t.readBacks e seen backs) := by
  induction backs generalizing t seen with
  | nil => exact h
  | cons b more ih =>
    have hcount : EngineWork e seq s (if seen.contains (backRow b) then t else t.count (bEng e) 0x188 1) := by
      split
      · exact h
      · exact h.count ..
    rw [readBacks_cons]
    dsimp only
    generalize (if seen.contains (backRow b) then t else t.count (bEng e) 0x188 1) = u at hcount
    split
    · exact (hcount.setSameOps (y := { u.engine e with arrayFault := true }) ⟨rfl, rfl⟩).record ..
    · exact ih hcount _

theorem countUnless (h : EngineWork e seq s t) (c : Prop) [Decidable c] (n off k : Nat) :
    EngineWork e seq s (if c then t else t.count n off k) := by
  split
  · exact h
  · exact h.count ..

theorem pieceLoad (h : EngineWork e seq s t) {q : QEntry} (hq : q.seq = seq) (p : PassOp) (k : Nat) (bank : Bool) :
    EngineWork e seq s (t.pieceLoad e q p k bank) := by
  unfold State.pieceLoad
  split
  · exact h
  · next wt hwt =>
    have hread := h.access ((UnitAccess.refl t).weightColumns (8 * (e / 4) + 6) (e / 4) wt p.orient 0 0 p.kv p.nv)
    dsimp only
    generalize t.weightColumns (8 * (e / 4) + 6) (e / 4) wt p.orient 0 0 p.kv p.nv = r at hread ⊢
    refine countUnless (readBacks ?_ ..) ..
    refine hread.setEngine ?_ (fun r => { r with loads := r.loads + 1, backs := r.backs.drop 1 }) (fun _ => rfl) ?_
    · split <;> rfl
    · rw [hq]
      split <;> rfl

/-- The steps that an engine takes of a started pass; the entry that it then has is the same operation's. -/
theorem runSteps {p : PassOp} (n : Nat) (h : EngineWork e seq s t) {q : QEntry} (hq : q.seq = seq) :
    EngineWork e seq s (t.runSteps n e q p).1 ∧ (t.runSteps n e q p).2.seq = seq := by
  induction n generalizing t q with
  | zero => exact ⟨h, hq⟩
  | succ n ih =>
    by_cases hfault : (t.engine e).arrayFault = true
    · rw [runSteps_of_fault hfault]
      exact ⟨h, hq⟩
    · match hsteps : q.steps with
      | [] =>
        rw [runSteps_of_no_steps hsteps]
        exact ⟨h, hq⟩
      | .load k bank :: rest =>
        rw [runSteps_load hfault hsteps]
        split
        · exact ⟨h, hq⟩
        · exact ih (h.pieceLoad hq ..) hq
      | .pass k bank :: rest =>
        rw [runSteps_pass hfault hsteps]
        split
        · exact ⟨h.feedRows hq .., hq⟩
        · exact ih ((h.feedRows hq ..).count ..) hq

/-- The merges of a run's pass and the close of its run. -/
theorem runMerges (h : EngineWork e seq s t) (p : PassOp) : EngineWork e seq s (t.runMerges e p) := by
  unfold State.runMerges
  split
  · exact h
  · have hread : EngineWork e seq s ((EngOp.tiles (.pass p)).foldl
        (fun acc j => acc.readAcc e (128 * j) (128 * j + p.m) p.nv) t) :=
      List.foldlRecOn (motive := EngineWork e seq s) _ _ h fun _ hacc _ _ => hacc.readAcc ..
    dsimp only
    refine EngineWork.tileFlags ?_ ..
    refine setSameOps (hread.access ?_) ((SameOps.refl _).runStep ..)
    split
    · split
      · exact (UnitAccess.refl _).collect _ _ fun _ hu => hu.preloadRow ..
      · exact UnitAccess.refl _
    · exact UnitAccess.refl _

/-! ### What other operations see of it (R81, R111) -/

theorem all_filter_of_forall {α : Type} {f g : α → Bool} (h : ∀ a, g a = false → f a = true) (l : List α) :
    (l.filter g).all f = l.all f := by
  rw [List.all_filter]
  refine congrArg _ (funext fun a => ?_)
  cases hg : g a with
  | false => simp [h a hg]
  | true => simp

/-- What holds of every incomplete operation but the one worked on. -/
theorem all_pendingOps (h : EngineWork e seq s t) (core : Nat) {f : Pending → Bool} (hf : ∀ p, p.seq = seq → f p = true) :
    (t.pendingOps core).all f = (s.pendingOps core).all f := by
  have hqueue : ∀ i, ((t.engine (4 * core + i)).queue.all fun q => f (QEntry.pending i q))
      = (s.engine (4 * core + i)).queue.all fun q => f (QEntry.pending i q) := fun i => by
    by_cases he : 4 * core + i = e
    · have hown : ∀ q : QEntry, decide (q.seq ≠ seq) = false → f (QEntry.pending i q) = true := fun q hq =>
        hf _ (show q.seq = seq by simpa using hq)
      rw [he, ← all_filter_of_forall hown (t.engine e).queue, ← all_filter_of_forall hown (s.engine e).queue, h.rest]
    · rw [h.others _ he]
  have hfour : List.range 4 = [0, 1, 2, 3] := rfl
  unfold State.pendingOps
  rw [h.cores core, hfour]
  simp only [List.foldl_cons, List.foldl_nil, List.nil_append, List.all_append, List.all_map, Function.comp_def, hqueue]

/-- A tile is free for an operation by the operations issued before it, which its own work leaves as they are. -/
theorem tilesFree (h : EngineWork e seq s t) (core : Nat) (tiles : List (Nat × Nat)) :
    t.tilesFree core seq tiles = s.tilesFree core seq tiles :=
  h.all_pendingOps core fun p hp => by simp [hp]

end EngineWork

/-! ### Counters of engines in the merges of a run (R98) -/

/-- From `s` to `t` the counters of the engine blocks stay. -/
structure SameEngineCounts (s t : State) : Prop where
  counter : ∀ n off, n < 0x800 → off < 65536 → t.counter n off = s.counter n off

namespace SameEngineCounts

variable {s t u : State}

theorem refl (s : State) : SameEngineCounts s s := ⟨fun _ _ _ _ => rfl⟩

theorem of_counters (h : SameEngineCounts s t) (k : u.counters = t.counters) : SameEngineCounts s u :=
  ⟨fun n off hn hoff => by rw [State.counter, k]; exact h.counter n off hn hoff⟩

theorem access (h : SameEngineCounts s t) (k : UnitAccess t u) : SameEngineCounts s u :=
  ⟨fun n off hn hoff => (k.counts n off hn hoff).trans (h.counter n off hn hoff)⟩

theorem record (h : SameEngineCounts s t) (blk code unit arg0 arg1 : Nat) :
    SameEngineCounts s (t.record blk code unit arg0 arg1) := h.access ((UnitAccess.refl t).record ..)

theorem setEngine (h : SameEngineCounts s t) (e : Nat) (x : Engine) : SameEngineCounts s (t.setEngine e x) :=
  h.of_counters rfl

theorem mendAccWord (h : SameEngineCounts s t) (e w : Nat) : SameEngineCounts s (t.mendAccWord e w) := by
  unfold State.mendAccWord
  split
  · exact h
  · dsimp only
    split
    · refine SameEngineCounts.record ?_ ..
      exact h.of_counters rfl
    · exact h.of_counters rfl

theorem readAcc (h : SameEngineCounts s t) (e lo hi nv : Nat) : SameEngineCounts s (t.readAcc e lo hi nv) := by
  unfold State.readAcc
  split
  · exact h
  · exact List.foldlRecOn (motive := SameEngineCounts s) _ _ h fun _ hrow _ _ =>
      List.foldlRecOn (motive := SameEngineCounts s) _ _ hrow fun _ hacc _ _ => hacc.mendAccWord ..

theorem tileFlags (h : SameEngineCounts s t) (core unit e : Nat) (fl : List (Nat × Flags)) :
    SameEngineCounts s (t.tileFlags core unit e fl) :=
  List.foldlRecOn (motive := SameEngineCounts s) _ _ h fun acc hacc x _ =>
    (hacc.of_counters (u := acc.setCore core { acc.core core with sticky := Flags.or (acc.core core).sticky x.2 }) rfl).access
      ((((UnitAccess.refl _).flagBit ..).flagBit ..).flagBit ..)

end SameEngineCounts

theorem runMerges_counts (s : State) (e : Nat) (p : PassOp) : SameEngineCounts s (s.runMerges e p) := by
  unfold State.runMerges
  split
  · exact SameEngineCounts.refl s
  · have hread : SameEngineCounts s ((EngOp.tiles (.pass p)).foldl
        (fun acc j => acc.readAcc e (128 * j) (128 * j + p.m) p.nv) s) :=
      List.foldlRecOn (motive := SameEngineCounts s) _ _ (SameEngineCounts.refl s) fun _ hacc _ _ => hacc.readAcc ..
    dsimp only
    refine SameEngineCounts.tileFlags (SameEngineCounts.setEngine (hread.access ?_) ..) ..
    split
    · split
      · exact (UnitAccess.refl _).collect _ _ fun _ hu => hu.preloadRow ..
      · exact UnitAccess.refl _
    · exact UnitAccess.refl _

end Sys2Proof.Machine
end

section
/-! Completion and long waits of engine operations (R81, R91, R96). -/

namespace Sys2Proof.Machine

/-! ### Taking a completed operation out (R91, R97) -/

section
variable {s t : State} {e : Nat} {q r : QEntry}

/-- The operation `q` of engine `e` has left the queue as complete; other engines and the bytes of memory stay. -/
def Gone (s : State) (e : Nat) (q : QEntry) (t : State) : Prop :=
  (t.engine e).queue = ((s.engine e).queue.filter fun r => r.seq ≠ q.seq) ∧ (t.engine e).opsDone = (s.engine e).opsDone + 1
    ∧ (∀ n, n ≠ e → t.engine n = s.engine n) ∧ ∀ k, sameByte s t k

/-- It has left the queue and been counted at `off`, and nothing else changes. -/
def Counted (s : State) (e : Nat) (q : QEntry) (off : Nat) (t : State) : Prop :=
  t = { s with engines := t.engines, counters := t.counters }
    ∧ t.engine e = { s.engine e with
        queue := (s.engine e).queue.filter fun r => r.seq ≠ q.seq, opsDone := (s.engine e).opsDone + 1 }
    ∧ (∀ n, n ≠ e → t.engine n = s.engine n) ∧ t.counter (bEng e) off = s.counter (bEng e) off + 1

theorem finishOp_counted (s : State) (e : Nat) (q : QEntry) (off : Nat) : Counted s e q off (s.finishOp e q off) :=
  ⟨rfl, engine_setEngine_same .., fun n hn => engine_setEngine_ne _ _ n _ hn, counter_count ..⟩

theorem finishOp_gone (h : EngineWork e q.seq s t) (hr : r.seq = q.seq) (off : Nat) : Gone s e q (t.finishOp e r off) := by
  obtain ⟨-, hengine, hothers, -⟩ := finishOp_counted t e r off
  refine ⟨?_, ?_, fun n hn => (hothers n hn).trans (h.others n hn), h.mended.sameByte⟩
  · rw [hengine, hr]
    exact h.rest
  · rw [hengine, h.opsDone]

theorem Gone.not_any (h : Gone s e q t) : ((t.engine e).queue.any fun r => r.seq == q.seq) = false := by
  rw [h.1]
  simp

end

/-! ### PASS_COMPLETE -/

section
variable {s : State} {engine : EngIx} {q : QEntry} {p : PassOp}

theorem exec_passComplete_of_arrayFault (h : (s.engine engine).arrayFault = true) :
    exec (.passComplete engine) s = .next s := by
  simp [exec, execPassComplete, h]

theorem exec_passComplete_of_none
    (h : (s.engine engine).queue.find? (fun r => r.started && r.op.isPass) = none) :
    exec (.passComplete engine) s = .next s := by
  simp [exec, execPassComplete, h]

theorem tilesLeft_of_split (hop : q.op = .pass p) (hsplit : p.split = true) : q.tilesLeft = EngOp.tiles (.pass p) := by
  simp [QEntry.tilesLeft, hop, hsplit]

/-- A pass that is no part of a run holds no tile once its rows are written. -/
theorem tilesFree_of_written (hop : q.op = .pass p) (hsplit : p.split = false) (hsteps : q.steps = []) (t : State)
    (core seq e : Nat) : t.tilesFree core seq (q.tilesLeft.map fun j => (e, j)) = true := by
  simp [QEntry.tilesLeft, hop, hsplit, hsteps, State.tilesFree]

theorem steps_of_fed_lt (hop : q.op = .pass p) (hcomp : p.compound = false) (hfed : q.fed < p.m) :
    q.steps = [.pass 0 p.bank] := by
  simp [QEntry.steps, hop, PassOp.steps, hcomp, Nat.div_eq_of_lt hfed, stepsAfter]

theorem steps_of_fed_ge (hop : q.op = .pass p) (hcomp : p.compound = false) (hm : 0 < p.m) (hfed : p.m ≤ q.fed) :
    q.steps = [] := by
  obtain ⟨k, hk⟩ : ∃ k, q.fed / p.m = k + 1 := Nat.exists_eq_add_one.2 (Nat.div_pos hfed hm)
  simp [QEntry.steps, hop, PassOp.steps, hcomp, hk, stepsAfter]

/-- The entry of a pass of which `n` more rows have been fed. -/
def QEntry.fedMore (q : QEntry) (n : Nat) : QEntry := { q with fed := q.fed + n }

theorem fed_fedMore (q : QEntry) (n : Nat) : (q.fedMore n).fed = q.fed + n := rfl

variable (hfault : (s.engine engine).arrayFault = false)
  (hfind : (s.engine engine).queue.find? (fun r => r.started && r.op.isPass) = some q) (hop : q.op = .pass p)
include hfault hop

/-- What PASS_COMPLETE takes of a plain pass with rows to come: those that the feeder can send now. -/
theorem runSteps_of_plain (hcomp : p.compound = false) (hfed : q.fed < p.m) :
    let fresh := s.feedBound engine q p - q.fed
    s.runSteps mostSteps engine q p =
      (s.feedRows engine q p 0 p.bank true q.fed fresh, q.fedMore fresh) := by
  have hrun := runSteps_pass (s := s) (e := engine) (n := 10) (p := p) (by simp [hfault]) (steps_of_fed_lt hop hcomp hfed)
  simp only [Nat.mod_eq_of_lt hfed, hfed, decide_true, List.isEmpty_nil, Bool.or_true, if_true] at hrun
  exact hrun

include hfind

/-- A started pass is carried on, and taken out once its rows are written and its tiles are free. -/
theorem exec_passComplete :
    exec (.passComplete engine) s =
      let sr := s.runSteps mostSteps engine q p
      if sr.2.steps.isEmpty && sr.1.tilesFree (engine / 4) sr.2.seq (sr.2.tilesLeft.map fun j => (engine % 4, j)) then
        .next ((sr.1.runMerges engine p).finishOp engine sr.2 0x140)
      else .next sr.1 := by
  simp [exec, execPassComplete, hfault, hfind, hop]

/-- Either the pass has left the queue as complete, or it has been worked on and stands there still. -/
theorem exec_passComplete_done_or_stays :
    ∃ t, exec (.passComplete engine) s = .next t
      ∧ (Gone s engine q t
        ∨ EngineWork engine q.seq s t ∧ ((t.engine engine).queue.any fun r => r.seq == q.seq) = true) := by
  obtain ⟨hwork, hseq⟩ := (EngineWork.refl engine q.seq s).runSteps (p := p) mostSteps rfl
  rw [exec_passComplete hfault hfind hop]
  dsimp only
  split
  · exact ⟨_, rfl, .inl (finishOp_gone (hwork.runMerges p) hseq _)⟩
  · refine ⟨_, rfl, .inr ⟨hwork, ?_⟩⟩
    rw [hwork.present, List.any_eq_true]
    exact ⟨q, List.mem_of_find?_eq_some hfind, beq_self_eq_true _⟩

theorem exec_passComplete_of_no_steps (hsteps : q.steps = []) :
    exec (.passComplete engine) s =
      if s.tilesFree (engine / 4) q.seq (q.tilesLeft.map fun j => (engine % 4, j)) then
        .next ((s.runMerges engine p).finishOp engine q 0x140)
      else .next s := by
  rw [exec_passComplete hfault hfind hop, runSteps_of_no_steps hsteps]
  simp [hsteps]

/-- Of a plain pass with rows that the feeder cannot send yet it feeds the others. -/
theorem exec_passComplete_of_rows_left (hcomp : p.compound = false) (hfed : q.fed < p.m)
    (hbound : s.feedBound engine q p < p.m) :
    exec (.passComplete engine) s =
      .next (s.feedRows engine q p 0 p.bank true q.fed (s.feedBound engine q p - q.fed)) := by
  rw [exec_passComplete hfault hfind hop, runSteps_of_plain hfault hop hcomp hfed]
  dsimp only
  have hfedMore : (q.fedMore (s.feedBound engine q p - q.fed)).fed < p.m := by
    rw [fed_fedMore]
    omega
  rw [steps_of_fed_lt (show (q.fedMore _).op = _ from hop) hcomp hfedMore]
  rfl

/-- A plain pass whose last rows the feeder can send is complete with them, one of a run if its tiles are free. -/
theorem exec_passComplete_of_rows_done (hcomp : p.compound = false) (hfed : q.fed < p.m)
    (hbound : p.m ≤ s.feedBound engine q p)
    (hfree : p.split = false ∨ s.tilesFree (engine / 4) q.seq ((EngOp.tiles (.pass p)).map fun j => (engine % 4, j)) = true) :
    ∃ t, exec (.passComplete engine) s = .next t ∧ Gone s engine q t := by
  have hwork := (EngineWork.refl engine q.seq s).feedRows (q := q) rfl p 0 p.bank true q.fed
    (s.feedBound engine q p - q.fed)
  rw [exec_passComplete hfault hfind hop, runSteps_of_plain hfault hop hcomp hfed]
  dsimp only
  generalize s.feedRows engine q p 0 p.bank true q.fed (s.feedBound engine q p - q.fed) = t at hwork
  have hfedMore : p.m ≤ (q.fedMore (s.feedBound engine q p - q.fed)).fed := by
    rw [fed_fedMore]
    omega
  have hop' : (q.fedMore (s.feedBound engine q p - q.fed)).op = .pass p := hop
  have hseq : (q.fedMore (s.feedBound engine q p - q.fed)).seq = q.seq := rfl
  generalize q.fedMore (s.feedBound engine q p - q.fed) = r at hfedMore hop' hseq
  have hdone : r.steps = [] := steps_of_fed_ge hop' hcomp (by omega) hfedMore
  have htiles : t.tilesFree (engine / 4) r.seq (r.tilesLeft.map fun j => (engine % 4, j)) = true := by
    cases hsplit : p.split with
    | false => exact tilesFree_of_written hop' hsplit hdone ..
    | true =>
      rw [hseq, hwork.tilesFree, tilesLeft_of_split hop' hsplit]
      exact hfree.resolve_left (by simp [hsplit])
  rw [hdone, htiles]
  exact ⟨_, rfl, finishOp_gone (hwork.runMerges p) hseq _⟩

end

/-! ### WEIGHT_LOAD_COMPLETE -/

section
variable {s : State} {engine : EngIx} {q : QEntry}

theorem exec_weightLoadComplete_of_arrayFault (h : (s.engine engine).arrayFault = true) :
    exec (.weightLoadComplete engine) s = .next s := by
  simp [exec, execWeightLoadComplete, h]

theorem exec_weightLoadComplete_of_none
    (h : (s.engine engine).queue.find? (fun r => r.started && !r.op.isPass) = none) :
    exec (.weightLoadComplete engine) s = .next s := by
  simp [exec, execWeightLoadComplete, h]

theorem exec_weightLoadComplete (hfault : (s.engine engine).arrayFault = false)
    (h : (s.engine engine).queue.find? (fun r => r.started && !r.op.isPass) = some q) :
    exec (.weightLoadComplete engine) s = .next (s.finishOp engine q 0x178) := by
  simp [exec, execWeightLoadComplete, hfault, h]

/-! ### ENGINE_WAIT_LONG (R96) -/

/-- The first of the current waits that is overdue, where WAIT_LIMIT is set and no fault has stopped the engine. -/
theorem overdue_eq (hlimit : s.fld (bEng engine) 0x100 8 16 ≠ 0) (hfault : (s.engine engine).arrayFault = false) :
    s.overdue engine = (s.engineWaits engine).find? fun w => !(s.engine engine).waitLong.contains w.1
      && decide (s.waitStart engine w.1 + s.fld (bEng engine) 0x100 8 16 ≤ s.elapsed) := by
  simp [State.overdue, hlimit, hfault]

theorem overdue_of_not_counted (h : s.fld (bEng engine) 0x100 8 16 = 0 ∨ (s.engine engine).arrayFault = true) :
    s.overdue engine = none := by
  rw [State.overdue, if_pos (by simpa using h)]

theorem exec_engineWaitLong_of_overdue {w : EngWait} (h : s.overdue engine = some w) :
    exec (.engineWaitLong engine) s =
      .next ((s.setEngine engine { s.engine engine with waitLong := (s.engine engine).waitLong ++ [w.1] }).record (bEng engine)
        0x0011 engine w.1.1 w.2) := by
  simp [exec, execEngineWaitLong, h]

theorem exec_engineWaitLong_of_none (h : s.overdue engine = none) : exec (.engineWaitLong engine) s = .next s := by
  simp [exec, execEngineWaitLong, h]

end

/-- Settles O36: what PASS_COMPLETE does to a pass changes nothing but the pass's own entry, so that the tiles it waits for
stay as they were; a load only leaves; a wait is noted where one is overdue. -/
theorem matrixUnitsCompleteOrWait : Obligations.MatrixUnitsCompleteOrWait := by
  unfold Obligations.MatrixUnitsCompleteOrWait
  intro s engine e x gone counted limit
  refine ⟨fun hfault => ⟨exec_passComplete_of_arrayFault hfault, exec_weightLoadComplete_of_arrayFault hfault⟩,
    exec_passComplete_of_none, exec_weightLoadComplete_of_none, fun hfault q p hfind hop => ?pass,
    fun hfault q hfind => ⟨_, exec_weightLoadComplete hfault hfind, finishOp_counted ..⟩,
    fun w hw hlimit hfault hlong hlate => ?long, fun h => exec_engineWaitLong_of_none ?quiet⟩
  case pass =>
    intro hi free
    refine ⟨?carried, fun hsteps hsplit => ?plainDone, fun hsteps hsplit hfree => ?runDone,
      fun hsteps hsplit hheld => ?runWaits,
      exec_passComplete_of_rows_left hfault hfind hop, exec_passComplete_of_rows_done hfault hfind hop⟩
    case carried =>
      obtain ⟨t, ht, hgone | ⟨hwork, hthere⟩⟩ := exec_passComplete_done_or_stays hfault hfind hop
      · obtain ⟨-, hdone, hothers, hbytes⟩ := id hgone
        refine ⟨t, ht, hothers, hbytes, ?_⟩
        rw [hgone.not_any]
        exact hdone
      · refine ⟨t, ht, hwork.others, hwork.mended.sameByte, ?_⟩
        rw [hthere, hwork.opsDone]
        exact (BitVec.add_zero _).symm
    case plainDone =>
      rw [exec_passComplete_of_no_steps hfault hfind hop hsteps, if_pos (tilesFree_of_written hop hsplit hsteps ..)]
      refine ⟨_, rfl, ?_⟩
      rw [State.runMerges, hsplit]
      exact finishOp_counted ..
    case runDone =>
      rw [exec_passComplete_of_no_steps hfault hfind hop hsteps, tilesLeft_of_split hop hsplit, if_pos hfree]
      refine ⟨_, rfl, finishOp_gone ((EngineWork.refl ..).runMerges p) rfl _, ?_⟩
      obtain ⟨-, -, -, hcount⟩ := finishOp_counted (s.runMerges engine p) engine q 0x140
      have hengine : bEng engine < 0x800 := Nat.lt_trans engine.isLt (by decide)
      rw [hcount, (runMerges_counts s engine p).counter _ _ hengine (by decide)]
    case runWaits =>
      rw [exec_passComplete_of_no_steps hfault hfind hop hsteps, tilesLeft_of_split hop hsplit]
      exact if_neg (by simpa using hheld)
  case long =>
    have hfind := overdue_eq hlimit hfault
    obtain ⟨v, hv⟩ : ∃ v, s.overdue engine = some v := by
      rw [← Option.isSome_iff_exists, hfind, List.find?_isSome]
      exact ⟨w, hw, by simpa using ⟨hlong, hlate⟩⟩
    have hfound := hfind.symm.trans hv
    have hprop := List.find?_some hfound
    simp only [Bool.and_eq_true, Bool.not_eq_true', decide_eq_true_eq, List.contains_eq_mem, decide_eq_false_iff_not] at hprop
    exact ⟨v, List.mem_of_find?_eq_some hfound, hprop.1, hprop.2, exec_engineWaitLong_of_overdue hv⟩
  case quiet =>
    by_cases hnone : limit = 0 ∨ x.arrayFault = true
    · exact overdue_of_not_counted hnone
    · obtain ⟨hlimit, hfault⟩ := not_or.1 hnone
      have hwaits := (h.resolve_left hlimit).resolve_left hfault
      rw [overdue_eq hlimit (Bool.eq_false_iff.2 hfault), List.find?_eq_none]
      intro w hw
      simpa [imp_iff_not_or] using hwaits w hw

end Sys2Proof.Machine
end

section
/-! What the accesses of the device's units to memory leave of the state: everything but memory, what stands before it and
what counts its accesses; registers only where a bit error is found (R285 to R311, R330 to R335). -/

namespace Sys2Proof.Machine

/-- What a unit's access to memory may change: memory with its banks, homes, caches and bit errors, the packets and the
egress buffer that carry the data, counters, records and free values; and registers of a controller that finds a bit error. -/
structure FabricAccess (s t : State) : Prop where
  frame : t = { s with
    regs := t.regs, counters := t.counters, once := t.once, mem := t.mem, poison := t.poison, upsets := t.upsets
    wire := t.wire, banks := t.banks, lines := t.lines, dirs := t.dirs, llc := t.llc, homes := t.homes
    retried := t.retried, drams := t.drams, sendq := t.sendq, ncl := t.ncl, sheets := t.sheets, out := t.out
    fresh := t.fresh }
  clean : s.upsets = [] → t.upsets = [] ∧ t.regs = s.regs

namespace FabricAccess

variable {s t u : State}

theorem refl (s : State) : FabricAccess s s := ⟨rfl, fun h => ⟨h, rfl⟩⟩

theorem trans (h : FabricAccess s t) (k : FabricAccess t u) : FabricAccess s u := by
  refine ⟨?_, fun hs => ?_⟩
  · have htu := k.frame
    rw [h.frame] at htu
    exact htu
  · obtain ⟨ht, hst⟩ := h.clean hs
    obtain ⟨hu, htu⟩ := k.clean ht
    exact ⟨hu, htu.trans hst⟩

theorem ite (p : Prop) [Decidable p] (ht : FabricAccess s t) (hu : FabricAccess s u) :
    FabricAccess s (if p then t else u) := by
  split <;> assumption

theorem foldl {β : Type} {g : State → β → State} (h : FabricAccess s t) (l : List β)
    (hg : ∀ {v : State} (x : β), FabricAccess s v → FabricAccess s (g v x)) : FabricAccess s (l.foldl g t) :=
  List.foldlRecOn (motive := FabricAccess s) l _ h fun _ hacc x _ => hg x hacc

theorem foldlFst {α β : Type} {g : State × α → β → State × α} {a : α} (h : FabricAccess s t) (l : List β)
    (hg : ∀ {p : State × α} (x : β), FabricAccess s p.1 → FabricAccess s (g p x).1) :
    FabricAccess s (l.foldl g (t, a)).1 :=
  List.foldlRecOn (motive := fun p : State × α => FabricAccess s p.1) l _ h fun _ hacc x _ => hg x hacc

/-- A bit error that `t` still has was there before. -/
theorem upsets_ne (h : FabricAccess s t) (ht : t.upsets ≠ []) : s.upsets ≠ [] := fun hs => ht (h.clean hs).1

/-! ### Single updates -/

theorem count (h : FabricAccess s t) (n off k : Nat) : FabricAccess s (t.count n off k) :=
  h.trans ⟨rfl, fun hu => ⟨hu, rfl⟩⟩

theorem emit (h : FabricAccess s t) (o : Output) : FabricAccess s (t.emit o) := h.trans ⟨rfl, fun hu => ⟨hu, rfl⟩⟩

theorem free (h : FabricAccess s t) : FabricAccess s t.free.2 := h.trans ⟨rfl, fun hu => ⟨hu, rfl⟩⟩

theorem setSheet (h : FabricAccess s t) (i : Nat) (x : Sheet) : FabricAccess s (t.setSheet i x) :=
  h.trans ⟨rfl, fun hu => ⟨hu, rfl⟩⟩

theorem setHome (h : FabricAccess s t) (n : Nat) (x : Home) : FabricAccess s (t.setHome n x) :=
  h.trans ⟨rfl, fun hu => ⟨hu, rfl⟩⟩

theorem setDir (h : FabricAccess s t) (line : Nat) (d : DirEntry) : FabricAccess s (t.setDir line d) :=
  h.trans ⟨rfl, fun hu => ⟨hu, rfl⟩⟩

theorem setHeld1 (h : FabricAccess s t) (agent line : Nat) (x : HeldLine) : FabricAccess s (t.setHeld1 agent line x) :=
  h.trans ⟨rfl, fun hu => ⟨hu, rfl⟩⟩

theorem setDram (h : FabricAccess s t) (c : Nat) (d : Dram) : FabricAccess s (t.setDram c d) :=
  h.trans ⟨rfl, fun hu => ⟨hu, rfl⟩⟩

theorem setNcl (h : FabricAccess s t) (x : Ncl) : FabricAccess s { t with ncl := x } :=
  h.trans ⟨rfl, fun hu => ⟨hu, rfl⟩⟩

theorem setRetried (h : FabricAccess s t) (l : List Retried) : FabricAccess s { t with retried := l } :=
  h.trans ⟨rfl, fun hu => ⟨hu, rfl⟩⟩

theorem setLlc (h : FabricAccess s t) (m : Map Bool) : FabricAccess s { t with llc := m } :=
  h.trans ⟨rfl, fun hu => ⟨hu, rfl⟩⟩

theorem setOnce (h : FabricAccess s t) (l : List Nat) : FabricAccess s { t with once := l } :=
  h.trans ⟨rfl, fun hu => ⟨hu, rfl⟩⟩

theorem touchBank (h : FabricAccess s t) (blk b : Nat) : FabricAccess s (t.touchBank blk b) :=
  h.trans ⟨rfl, fun hu => ⟨hu, rfl⟩⟩

theorem queueAt (h : FabricAccess s t) (e : Nat) (p : LinkPkt) : FabricAccess s (t.queueAt e p) :=
  h.trans ⟨rfl, fun hu => ⟨hu, rfl⟩⟩

theorem poisonLine (h : FabricAccess s t) (line : Nat) : FabricAccess s (t.poisonLine line) :=
  h.trans ⟨rfl, fun hu => ⟨hu, rfl⟩⟩

theorem newHeld (h : FabricAccess s t) (agent line : Nat) : FabricAccess s (t.newHeld agent line) :=
  h.trans ⟨rfl, fun hu => ⟨by simp [State.newHeld, hu], rfl⟩⟩

theorem writeKey (h : FabricAccess s t) (key : Nat) (bs : PBytes) (keep : Bool) : FabricAccess s (t.writeKey key bs keep) :=
  h.trans ⟨rfl, fun hu => ⟨by simp [State.writeKey, hu], rfl⟩⟩

theorem egressWrite (h : FabricAccess s t) (own : WriteOwner) (a : Nat) (bs : PBytes) :
    FabricAccess s (t.egressWrite own a bs) := h.setNcl _

theorem ownWrites (h : FabricAccess s t) (n who : Nat) (own : WriteOwner) : FabricAccess s (t.ownWrites n who own) :=
  h.setNcl _

/-- Where a bit error waited, registers may change. -/
theorem setReg (h : FabricAccess s t) (hs : s.upsets ≠ []) (n off : Nat) (v : Word64) : FabricAccess s (t.setReg n off v) := by
  refine ⟨?_, fun hup => absurd hup hs⟩
  rw [h.frame]
  rfl

theorem setFld (h : FabricAccess s t) (hs : s.upsets ≠ []) (n off lo len v : Nat) :
    FabricAccess s (t.setFld n off lo len v) := h.setReg hs ..

/-! ### Records and counters -/

theorem record (h : FabricAccess s t) (blk code unit arg0 arg1 : Nat) : FabricAccess s (t.record blk code unit arg0 arg1) :=
  ite _ (h.count ..) (ite _ (h.setSheet ..) ((h.setSheet ..).count ..))

theorem recordOnce (h : FabricAccess s t) (blk code sub unit arg0 arg1 : Nat) :
    FabricAccess s (t.recordOnce blk code sub unit arg0 arg1) :=
  ite _ h ((h.setOnce _).record ..)

theorem refuseRows (h : FabricAccess s t) (blk b who a n : Nat) : FabricAccess s (t.refuseRows blk b who a n) :=
  ite _ h ((h.count ..).recordOnce ..)

theorem refuseRow (h : FabricAccess s t) (blk b who a : Nat) : FabricAccess s (t.refuseRow blk b who a) := h.refuseRows ..

theorem unmappedLine (h : FabricAccess s t) (who a : Nat) : FabricAccess s (t.unmappedLine who a) :=
  (h.count ..).recordOnce ..

theorem isolatedAccess (h : FabricAccess s t) : FabricAccess s t.isolatedAccess := h.count ..

theorem countRequest (h : FabricAccess s t) (home snoops forwards : Nat) :
    FabricAccess s (t.countRequest home snoops forwards) := by
  have hsnoops := ite (snoops = 0) (h.count (bHome home) 0x140 1) ((h.count (bHome home) 0x140 1).count (bHome home) 0x150 snoops)
  exact ite _ hsnoops (hsnoops.count ..)

theorem clusterCount (h : FabricAccess s t) (core off k : Nat) : FabricAccess s (t.clusterCount core off k) :=
  h.foldl _ fun _ hv => hv.count ..

/-! ### Packets on their way -/

theorem carry (h : FabricAccess s t) (src dst : Node) (cls : Nat) (req : Option (Nat × Bool)) :
    FabricAccess s (t.carry src dst cls req) := by
  unfold State.carry
  split
  · exact h
  · dsimp only
    split
    · exact h.queueAt ..
    · exact h

theorem lineSent (h : FabricAccess s t) (agent line : Nat) : FabricAccess s (t.lineSent agent line) :=
  carry (ite _ (h.clusterCount ..) h) ..

theorem lineReceived (h : FabricAccess s t) (agent line : Nat) : FabricAccess s (t.lineReceived agent line) :=
  carry (ite _ (h.clusterCount ..) h) ..

theorem routersCount (h : FabricAccess s t) (who a k : Nat) (write : Bool) :
    FabricAccess s (t.routersCount who a k write) := by
  have hend : ∀ (o : Option Nat) (off : Nat) {v : State}, FabricAccess s v →
      FabricAccess s (match o with | some c => v.clusterCount c off k | none => v) := fun o off v hv => by
    cases o
    · exact hv
    · exact hv.clusterCount ..
  exact ite _ h (hend _ _ (hend _ _ h))

theorem dataMoved (h : FabricAccess s t) (who a k : Nat) (write : Bool) : FabricAccess s (t.dataMoved who a k write) := by
  unfold State.dataMoved
  split
  · exact h
  · exact h
  · exact ite _ ((h.routersCount ..).carry ..) ((h.routersCount ..).carry ..)

theorem arrive (h : FabricAccess s t) (bs : PBytes) : FabricAccess s (t.arrive bs).1 := by
  unfold State.arrive
  split
  · exact h
  · exact h.trans ⟨rfl, fun hu => ⟨hu, rfl⟩⟩

/-! ### Words with a bit error (R285, R330, R333) -/

theorem mendWord (h : FabricAccess s t) (w : Nat) : FabricAccess s (t.mendWord w).1 := by
  refine h.trans ?_
  unfold State.mendWord
  split
  · exact refl t
  · next e he => exact ⟨rfl, fun hu => by simp [hu] at he⟩

theorem mendWords (h : FabricAccess s t) (blk unit a : Nat) (ws : List Nat) : FabricAccess s (t.mendWords blk unit a ws) := by
  refine ite _ h (h.foldl _ fun w hv => ?_)
  have hw := hv.mendWord w
  split
  · next heq => rwa [heq] at hw
  · next heq => rw [heq] at hw; exact hw.count ..
  · next heq => rw [heq] at hw; exact (hw.count ..).record ..

theorem mendCached (h : FabricAccess s t) (blk unit line : Nat) : FabricAccess s (t.mendCached blk unit line) :=
  ite _ ((h.mendWords ..).poisonLine _) (h.mendWords ..)

theorem pinCorrected (h : FabricAccess s t) (hs : s.upsets ≠ []) (c channel pin : Nat) :
    FabricAccess s (t.pinCorrected c channel pin) := by
  have hpin := ((h.count (dramBlock c) 0x150 1).setDram c
    { t.dram c with
      pins := Map.put (t.dram c).pins (64 * channel + pin) (Map.get (t.dram c).pins (64 * channel + pin) 0 + 1) 0
      suspects := if Map.get (t.dram c).pins (64 * channel + pin) 0 + 1 = 16
        then setAdd (t.dram c).suspects (64 * channel + pin) else (t.dram c).suspects }).setFld hs (dramBlock c) 0x108 16 6 pin
  have hplace := ite (c < 16) (hpin.setFld hs (dramBlock c) 0x108 22 5 channel) (hpin.setFld hs (dramBlock c) 0x108 8 5 (c - 16))
  exact ite _ (hplace.record ..) hplace

theorem mendDramWord (h : FabricAccess s t) (hs : s.upsets ≠ []) (c channel w : Nat) (found : Bool × Bool) :
    FabricAccess s (t.mendDramWord c channel w found).1 := by
  have hw := h.mendWord w
  unfold State.mendDramWord
  split
  · next heq => rwa [heq] at hw
  · next heq => rw [heq] at hw; exact hw.pinCorrected hs ..
  · next heq => rw [heq] at hw; exact (hw.count ..).setReg hs ..

theorem mendDram (h : FabricAccess s t) (c channel line : Nat) : FabricAccess s (t.mendDram c channel line) := by
  unfold State.mendDram
  split
  · exact h
  · next hne =>
    have hs : s.upsets ≠ [] := h.upsets_ne (by simpa using hne)
    have hwords := h.foldlFst (a := (false, false)) (List.range 8)
      (g := fun acc i => acc.1.mendDramWord c channel (8 * line + i) acc.2) fun i hv => hv.mendDramWord hs ..
    exact ite _ (record (ite _ (hwords.count ..) hwords) ..) (ite _ (hwords.count ..) hwords)

theorem mendLine (h : FabricAccess s t) (line : Nat) : FabricAccess s (t.mendLine line) := by
  unfold State.mendLine
  refine ite _ h ?_
  dsimp only
  split
  · exact ite _ (h.mendCached ..) (h.mendDram ..)
  · exact ite _ (h.mendCached ..) (h.mendDram ..)
  · exact h.mendWords ..
  · exact h

theorem mendHeld (h : FabricAccess s t) (agent line : Nat) : FabricAccess s (t.mendHeld agent line) := by
  refine ite _ h (h.foldl _ fun w hv => ?_)
  split
  · exact hv
  · next v _ e he =>
    have hfixed : FabricAccess s { v with upsets := Map.erase v.upsets (cacheWordKey agent line w) } :=
      hv.trans ⟨rfl, fun hu => by simp [hu] at he⟩
    exact ite _ ((hfixed.setHeld1 ..).record ..) (hfixed.setHeld1 ..)

/-! ### A home's copy and the caches beside it (R297, R298) -/

theorem homePut (h : FabricAccess s t) (own : WriteOwner) (a : Nat) (bs : PBytes) (keep : Bool) :
    FabricAccess s (t.homePut own a bs keep) := by
  unfold State.homePut
  split
  · exact h.egressWrite ..
  · exact writeKey (ite _ h (h.mendLine _)) ..

theorem llcDrop (h : FabricAccess s t) (line : Nat) : FabricAccess s (t.llcDrop line) := by
  have hout := h.setLlc (Map.erase t.llc line)
  refine ite _ ?_ hout
  split
  · exact (hout.count ..).count ..
  · exact hout.count ..
  · exact hout

theorem llcRoom (h : FabricAccess s t) (line : Nat) : FabricAccess s (t.llcRoom line) :=
  ite _ h (ite _ h (h.free.llcDrop _))

theorem llcPut (h : FabricAccess s t) (line : Nat) (dirty : Bool) : FabricAccess s (t.llcPut line dirty) :=
  (h.llcRoom line).setLlc _

theorem memTraffic (h : FabricAccess s t) (a k : Nat) (write first : Bool) : FabricAccess s (t.memTraffic a k write first) := by
  unfold State.memTraffic
  dsimp only
  split
  · have hbank := h.touchBank (bBankTile (hbmTile a)) (t.cacheBankOf (hbmTile a) (lineOf a))
    have hfound := ite (first = true)
      (hbank.count (bBankTile (hbmTile a)) (if t.inLlc (lineOf a) then 0x170 else 0x178) 1) hbank
    exact ite _ (h.count ..) (llcPut (ite _ hfound (hfound.count ..)) ..)
  · exact llcPut (ite _ h (h.count ..)) ..
  · exact h.llcPut ..
  · exact h.touchBank ..
  · exact h

theorem homeRead (h : FabricAccess s t) (who line : Nat) : FabricAccess s (t.homeRead who line).1 := by
  unfold State.homeRead
  dsimp only
  split
  · exact h.unmappedLine ..
  · exact h.mendLine _

theorem linePut (h : FabricAccess s t) (own : WriteOwner) (who line : Nat) (bs : PBytes) (keep : Bool) :
    FabricAccess s (t.linePut own who line bs keep) := by
  have hcame := h.arrive bs
  unfold State.linePut
  dsimp only
  split
  · exact ite _ ((hcame.touchBank ..).homePut ..) (hcame.refuseRows ..)
  · exact (hcame.homePut ..).memTraffic ..
  · exact (hcame.homePut ..).memTraffic ..
  · exact hcame.unmappedLine ..

theorem mergeWord (h : FabricAccess s t) (key : Nat) (bits : List Bool) (word : PBytes) :
    FabricAccess s (t.mergeWord key bits word) := ite _ (h.writeKey ..) h

theorem mergeMasked (h : FabricAccess s t) (own : WriteOwner) (who line : Nat) (mask : BitVec 128) (data : List Byte) :
    FabricAccess s (t.mergeMasked own who line mask data) := by
  have hcame := h.arrive (.clean data)
  have hread := ite (maskPartial mask = true) (hcame.mendLine line) hcame
  have hmerged := fun (key : Nat → Nat) (bits : Nat → List Bool) (word : Nat → PBytes) =>
    hread.foldl (List.range 8) (g := fun acc w => acc.mergeWord (key w) (bits w) (word w)) fun _ hv => hv.mergeWord ..
  unfold State.mergeMasked
  dsimp only
  split
  · exact ite _ ((hmerged _ _ _).touchBank ..) (hcame.refuseRows ..)
  · exact (hmerged _ _ _).memTraffic ..
  · exact memTraffic (hcame.foldl _ fun r hv => hv.egressWrite ..) ..
  · exact hcame.unmappedLine ..

theorem hostTakes (h : FabricAccess s t) (line : Nat) (bs : PBytes) : FabricAccess s (t.hostTakes line bs) :=
  (h.writeKey ..).setNcl _

/-! ### The steps of a transaction (R303 to R305, R310) -/

theorem storeInto (h : FabricAccess s t) (a line : Nat) (stored : Option (List Byte)) :
    FabricAccess s (t.storeInto a line stored) := by
  unfold State.storeInto
  dsimp only
  split
  · exact ite _ (h.setHeld1 ..) h
  · exact h

theorem ownStores (h : FabricAccess s t) (agent line : Nat) : FabricAccess s (t.ownStores agent line) :=
  ite _ h (ite _ h.free ((h.free.setHeld1 ..).trans ⟨rfl, fun hu => ⟨hu, rfl⟩⟩))

theorem txnData (h : FabricAccess s t) (x : Txn) : FabricAccess s (t.txnData x).1 := by
  unfold State.txnData
  split
  · exact h.arrive _
  · exact (h.homeRead ..).arrive _

theorem give (h : FabricAccess s t) (a line : Nat) (st : Moesi) (bs : PBytes) : FabricAccess s (t.give a line st bs) :=
  ite _ (((h.newHeld ..).lineReceived ..).setHeld1 ..) h

theorem consumePoison (h : FabricAccess s t) (core a : Nat) (bs : PBytes) : FabricAccess s (t.consumePoison core a bs) :=
  ite _ ((h.record ..).emit _) h

theorem answerRead (h : FabricAccess s t) (src : TxnFrom) (line : Nat) (bs : PBytes) :
    FabricAccess s (t.answerRead src line bs) := by
  have hout := h.emit (.readData src line bs)
  unfold State.answerRead
  dsimp only
  split
  · exact ite _ (hout.consumePoison ..) hout
  · exact hout

theorem lineMoved (h : FabricAccess s t) (src : TxnFrom) (line k : Nat) (write : Bool) :
    FabricAccess s (t.lineMoved src line k write) := by
  unfold State.lineMoved
  split
  · exact h.dataMoved ..
  · exact h

theorem l2Load (h : FabricAccess s t) (agent line : Nat) (bs : PBytes) : FabricAccess s (t.l2Load agent line bs) :=
  ite _ (ite _ (h.free.consumePoison ..) h.free) h

theorem txnRead (h : FabricAccess s t) (x : Txn) : FabricAccess s (t.txnRead x) := by
  unfold State.txnRead
  split
  · exact h
  · exact h.memTraffic ..

/-- Completing a request once its data, if it takes any, has come. -/
theorem finishTxn (h : FabricAccess s t) (x : Txn) : FabricAccess s (t.finishTxn x) := by
  have hcame : FabricAccess s (if x.readsHome || x.fwd.isSome then t.txnData x else (t, [])).1 := by
    split
    · exact h.txnData x
    · exact h
  unfold State.finishTxn
  dsimp only
  generalize (if x.readsHome || x.fwd.isSome then t.txnData x else (t, [])) = p at hcame
  obtain ⟨v, bs⟩ := p
  split
  case h_1 a _ _ =>
    have hload := (hcame.txnRead x).l2Load a x.line bs
    dsimp only
    split
    · exact (hload.give ..).setDir ..
    · exact (hload.give ..).setDir ..
    · exact ite _ ((hload.give ..).setDir ..) ((hload.give ..).setDir ..)
    · exact (hload.give ..).setDir ..
    · exact (hload.give ..).setDir ..
  case h_2 => exact ((hcame.txnRead x).give ..).setDir ..
  case h_3 => exact setDir (ite _ (hcame.setHeld1 ..) hcame) ..
  case h_4 => exact ite _ ((hcame.setHeld1 ..).setDir ..) (hcame.setHeld1 ..)
  case h_5 a _ _ =>
    have hout := (hcame.mendHeld a x.line).setHeld1 a x.line .reset
    have hput := (hout.lineSent a x.line).linePut .home
    exact ite _ (ite _ ((hput ..).setDir ..) ((hput ..).setDir ..)) hout
  case h_6 => exact ((hcame.txnRead x).lineMoved ..).answerRead ..
  case h_7 => exact ((hcame.lineMoved ..).linePut ..).setDir ..
  case h_8 => exact ((hcame.lineMoved ..).mergeMasked ..).setDir ..
  case h_9 =>
    split
    · exact ((hcame.hostTakes ..).setDir ..).emit _
    · exact (hcame.setDir ..).emit _
    · exact hcame.emit _
  case h_10 =>
    split
    · exact (setDir (ite _ (hcame.hostTakes ..) hcame) ..).emit _
    · exact (hcame.setDir ..).emit _
  case h_11 =>
    split
    · exact ((hcame.hostTakes ..).setDir ..).emit _
    · exact (hcame.setDir ..).emit _
  case h_12 => exact hcame

theorem reclaimEntry (h : FabricAccess s t) (agent line : Nat) : FabricAccess s (t.reclaimEntry agent line) := by
  have hlost : ∀ {v : State}, FabricAccess s v → FabricAccess s (((v.poisonLine line).count (bHome (homeOf (line * 128))) 0x178
      1).recordOnce (bHome (homeOf (line * 128))) 0x020D agent (homeOf (line * 128)) agent (line * 128)) :=
    fun hv => ((hv.poisonLine _).count ..).recordOnce ..
  have hsnooped := h.foldl (snoopTargets (t.dir line).sharers) (g := fun acc x => acc.setHeld1 x line .reset)
    fun x hv => hv.setHeld1 ..
  exact ite _ (hlost (h.setDir ..)) (ite _ (hlost (setDir (ite _ hsnooped (hsnooped.count ..)) ..))
    (ite _ ((h.setDir ..).count ..) h))

theorem settleDead (h : FabricAccess s t) (x : Txn) : FabricAccess s (t.settleDead x) := by
  unfold State.settleDead
  split
  · exact ite _ h (h.reclaimEntry ..)
  · exact h

theorem progress (h : FabricAccess s t) (n home line : Nat) : FabricAccess s (State.progress n t home line) := by
  induction n generalizing t with
  | zero => exact h
  | succ n ih =>
    unfold State.progress
    split
    · exact h
    · next x _ =>
      split
      · exact ih (setHome (ite _ h (h.count ..)) ..)
      · split
        · exact ih (((h.finishTxn x).settleDead x).setHome ..)
        · exact h

theorem enter (h : FabricAccess s t) (home : Nat) (x : Txn) : FabricAccess s (t.enter home x) :=
  (h.setHome ..).progress ..

theorem admitSnoops (h : FabricAccess s t) (home : Nat) : FabricAccess s (t.admitSnoops home) :=
  h.foldl _ fun _ hv => ite _ (((hv.setHome ..).count ..).enter ..) hv

theorem advance (h : FabricAccess s t) (home line : Nat) : FabricAccess s (t.advance home line) :=
  (h.progress ..).admitSnoops _

theorem ownerBack (h : FabricAccess s t) (who line : Nat) : FabricAccess s (t.ownerBack who line) := by
  unfold State.ownerBack
  split
  · next o _ =>
    have hmended := (h.ownStores o line).mendHeld o line
    exact ite _ ((hmended.lineSent ..).linePut ..) hmended
  · exact h

theorem clearHolders (h : FabricAccess s t) (who line : Nat) (recalling : Bool) :
    FabricAccess s (t.clearHolders who line recalling) := by
  have hback := ite (recalling = true) (h.ownerBack who line) h
  have hcleared := fun l : List Nat =>
    (hback.foldl l (g := fun acc x => acc.setHeld1 x line .reset) fun x hv => hv.setHeld1 ..).setDir line .reset
  exact ite _ (hcleared _) ((hcleared _).count ..)

theorem snoopAnswer (h : FabricAccess s t) (a line : Nat) (k : SnoopKind) (stored : Option (List Byte)) :
    FabricAccess s (t.snoopAnswer a line k stored) := by
  unfold State.snoopAnswer
  dsimp only
  split
  · exact h
  · refine ite _ (advance (setHome ?_ ..) ..) h
    have hheld := (((h.storeInto a line stored).mendHeld a line).setHeld1 a line)
    split
    · exact ((hheld _).lineSent ..).linePut ..
    · exact hheld _
    · exact ((hheld _).lineSent ..).count ..
    · exact hheld _

theorem settle (h : FabricAccess s t) (n home line : Nat) : FabricAccess s (State.settle n t home line) := by
  induction n generalizing t with
  | zero => exact h
  | succ n ih =>
    unfold State.settle
    split
    · exact h
    · split
      · exact ih ((h.ownStores ..).snoopAnswer ..)
      · exact ih (h.advance ..)

theorem settleLine (h : FabricAccess s t) (home line : Nat) : FabricAccess s (t.settleLine home line) := h.settle ..

/-! ### Requests on their way to a home (R301, R305, R306) -/

theorem dirRoom (h : FabricAccess s t) (home line : Nat) : FabricAccess s (t.dirRoom home line) :=
  ite _ h (ite _ h ((clearHolders (ite _ (h.settleLine ..) h) ..).count ..))

theorem takeIn (h : FabricAccess s t) (home : Nat) (x : Txn) : FabricAccess s (t.takeIn home x) :=
  ((count (ite _ (h.dirRoom ..) h) ..).enter ..).admitSnoops _

theorem request (h : FabricAccess s t) (line : Nat) (req : CohReq) (src : TxnFrom) (data : List Byte) (mask : BitVec 128) :
    FabricAccess s (t.request line req src data mask) :=
  ite _ (h.setRetried _) (ite _ (h.takeIn ..) (ite _ (h.setHome ..) (((h.count ..).emit _).setRetried _)))

theorem poisonAnswer (h : FabricAccess s t) (req : CohReq) (src : TxnFrom) (line : Nat) (fault : Bool) :
    FabricAccess s (t.poisonAnswer req src line fault) := by
  have hanswer := ite (req = .wfi ∨ req = .wp) h
    (ite (fault = true) (h.emit (.readData src line (PBytes.refused 128))) (h.answerRead src line (PBytes.refused 128)))
  unfold State.poisonAnswer
  dsimp only
  split
  · exact ite _ (hanswer.emit _) hanswer
  · exact ite _ (hanswer.emit _) hanswer
  · exact hanswer

theorem turnedAway (h : FabricAccess s t) {line : Nat} {req : CohReq} {src : TxnFrom} {mask : BitVec 128}
    (haway : t.turnedAway line req src mask = some u) : FabricAccess s u := by
  unfold State.turnedAway at haway
  dsimp only at haway
  split at haway
  · cases haway
  · split at haway
    · cases haway; exact (h.unmappedLine ..).poisonAnswer ..
    · cases haway; exact h.isolatedAccess.poisonAnswer ..
    · split at haway
      · cases haway
      · cases haway; exact (h.refuseRows ..).poisonAnswer ..
    · cases haway

theorem sendHeldBack (h : FabricAccess s t) (home : Nat) (src : TxnFrom) : FabricAccess s (t.sendHeldBack home src) :=
  ite _ h ((h.setRetried _).foldl _ fun _ hv => hv.request ..)

theorem admitAged (h : FabricAccess s t) (home : Nat) : FabricAccess s (t.admitAged home) := by
  unfold State.admitAged
  dsimp only
  split
  · exact h
  · refine ite _ h (sendHeldBack ?_ ..)
    split
    · next haway => exact (h.setHome ..).turnedAway haway
    · exact ((count (count (ite _ ((h.setHome ..).dirRoom ..) (h.setHome ..)) ..) ..).setHome ..).advance ..

theorem ownAgedFirst (h : FabricAccess s t) (home : Nat) (src : TxnFrom) : FabricAccess s (t.ownAgedFirst home src) := by
  refine h.foldl _ fun _ hv => ite _ (admitAged ?_ _) hv
  split
  · exact hv.settleLine ..
  · exact hv

theorem clearWay (h : FabricAccess s t) (src : TxnFrom) (line : Nat) : FabricAccess s (t.clearWay src line) :=
  have haged := h.ownAgedFirst (homeOf (line * 128)) src
  ite _ haged (settleLine (ite _ haged ((haged.count ..).foldl _ fun _ hv => hv.settleLine ..)) ..)

theorem evict (h : FabricAccess s t) (a line : Nat) (req : CohReq) : FabricAccess s (t.evict a line req) :=
  ite _ ((h.setHeld1 ..).request ..) h

/-! ### Accesses of the device's units (R124, R125, R150, R304) -/

theorem readLine (h : FabricAccess s t) (who a n : Nat) (first : Bool) : FabricAccess s (t.readLine who a n first).1 := by
  have hclear := h.clearWay (unitSrc who) (lineOf a)
  have hcounted := fun k => ite (first = true) (hclear.countRequest (homeOf a) k k) hclear
  unfold State.readLine
  dsimp only
  split
  · next o _ =>
    have hmended := ((hcounted 1).ownStores o (lineOf a)).mendHeld o (lineOf a)
    exact ite _ (hmended.lineSent ..) hmended
  · exact ((hcounted 0).mendLine _).memTraffic ..

theorem writeBehind (h : FabricAccess s t) (who a : Nat) (bs : PBytes) : FabricAccess s (t.writeBehind who a bs) :=
  (h.count ..).enter ..

theorem writeLine (h : FabricAccess s t) (who a : Nat) (bs : PBytes) (whole first : Bool) :
    FabricAccess s (t.writeLine who a bs whole first) := by
  have hclear := ite (first = true) (h.clearWay (unitSrc who) (lineOf a)) h
  exact ite _ (hclear.writeBehind ..)
    ((homePut (ite _ ((hclear.clearHolders ..).count ..) hclear) ..).memTraffic ..)

theorem readRow (h : FabricAccess s t) (who a n : Nat) (first : Bool) : FabricAccess s (t.readRow who a n first).1 := by
  unfold State.readRow
  dsimp only
  split
  · exact ite _ (h.unmappedLine ..) h
  · exact ite _ h.isolatedAccess h
  · split
    · exact (h.touchBank ..).mendWords ..
    · exact h.refuseRow ..
  · split
    · exact (h.touchBank ..).readLine ..
    · exact h.refuseRow ..
  · exact h.readLine ..
  · split
    · exact h.setNcl _
    · exact h.readLine ..

theorem writeRow (h : FabricAccess s t) (who a : Nat) (bs : PBytes) (whole first : Bool) :
    FabricAccess s (t.writeRow who a bs whole first) := by
  unfold State.writeRow
  dsimp only
  split
  · exact ite _ (h.unmappedLine ..) h
  · exact ite _ h.isolatedAccess h
  · exact ite _ (((h.touchBank ..).mendWords ..).writeKey ..) (h.refuseRow ..)
  · exact ite _ ((h.touchBank ..).writeLine ..) (h.refuseRow ..)
  · exact h.writeLine ..
  · exact h.writeLine ..

theorem readRun (h : FabricAccess s t) (who a n : Nat) : FabricAccess s (t.readRun who a n).1 :=
  h.foldlFst _ fun _ hv => ((hv.readRow ..).arrive _).dataMoved ..

theorem writeRun (h : FabricAccess s t) (who a : Nat) (bs : PBytes) : FabricAccess s (t.writeRun who a bs) :=
  h.foldl _ fun _ hv => ((hv.dataMoved ..).arrive _).writeRow ..

theorem ownRead (h : FabricAccess s t) (who core off n : Nat) : FabricAccess s (t.ownRead who core off n).1 := by
  refine h.foldlFst _ fun r hv => ?_
  dsimp only
  split
  · exact (hv.touchBank ..).mendWords ..
  · exact hv.refuseRow ..

theorem ownWrite (h : FabricAccess s t) (who core off : Nat) (bs : PBytes) : FabricAccess s (t.ownWrite who core off bs) :=
  h.foldl _ fun _ hv => ite _ (((hv.touchBank ..).mendWords ..).writeKey ..) (hv.refuseRow ..)

theorem cacheRoom (h : FabricAccess s t) (agent line : Nat) : FabricAccess s (t.cacheRoom agent line) := by
  have hstores := fun out => h.free.ownStores agent out
  exact ite _ h (ite _ ((hstores _).setHeld1 ..) ((((hstores _).clearWay ..).evict ..).settleLine ..))

theorem acquire (h : FabricAccess s t) (core line : Nat) (own : Bool) : FabricAccess s (t.acquire core line own) :=
  ite _ h (((clearWay (ite _ (h.cacheRoom ..) h) ..).takeIn ..).settleLine ..)

theorem cachedRead (h : FabricAccess s t) (who core a n : Nat) : FabricAccess s (t.cachedRead who core a n).1 := by
  refine h.foldlFst _ fun r hv => ?_
  dsimp only
  split
  · exact hv.readRow ..
  · split
    · exact ((hv.count ..).acquire ..).mendHeld ..
    · exact hv.readRun ..

theorem cachedWrite (h : FabricAccess s t) (who core a : Nat) (bs : PBytes) :
    FabricAccess s (t.cachedWrite who core a bs) :=
  h.foldl _ fun _ hv => ite _ ((((hv.count ..).acquire ..).mendHeld ..).setHeld1 ..) (hv.writeRun ..)

theorem prefetchLine (h : FabricAccess s t) (core : Nat) (a : Int) : FabricAccess s (t.prefetchLine core a) := by
  have hone := h.count (bCore core) 0x1A0 1
  refine ite _ (hone.count ..) ?_
  split
  · exact ite _ (hone.count ..) (hone.memTraffic ..)
  · exact hone.memTraffic ..
  · exact ite _ (hone.memTraffic ..) (hone.count ..)
  · exact hone.count ..

theorem prefetchTo (h : FabricAccess s t) (core : Nat) (p : Prefetch) (upto : Nat) :
    FabricAccess s (t.prefetchTo core p upto) :=
  h.foldl _ fun _ hv => hv.foldl _ fun _ hu => hu.prefetchLine ..

end FabricAccess

end Sys2Proof.Machine
end

section
/-! A core's scratchpad: the rows that an access is cut into follow one another; a read gives what stands there, a write
leaves the bytes outside its run and, where every bank serves, puts the run's bytes in place (R124, R285, R286). -/

namespace Sys2Proof.Machine

/-! ### The rows of an access -/

/-- What holds at the start of an access and goes on from row to row holds at its end: each row begins where the one before
has ended. -/
theorem rowsOf_induction {σ : Type} {step : σ → Nat × Nat × Bool → σ} {a n : Nat} {P : Nat → σ → Prop} {x : σ} (h0 : P 0 x)
    (hstep : ∀ m y (r : Nat × Nat × Bool), P m y → r.1 = a + m → m + r.2.1 ≤ n → P (m + r.2.1) (step y r)) :
    P n ((rowsOf a n).foldl step x) := by
  unfold rowsOf
  split
  · next hn => rwa [hn]
  next hn =>
  have hrows : ∀ i, i ≤ (a + n - 1) / 64 - a / 64 + 1 →
      P (min n ((a / 64 + i) * 64 - a)) (((List.range i).map fun i =>
        (max a ((a / 64 + i) * 64), min (a + n) ((a / 64 + i) * 64 + 64) - max a ((a / 64 + i) * 64),
          i == 0 || (a / 64 + i) % 2 == 0)).foldl step x) := by
    intro i
    induction i with
    | zero =>
      intro _
      rwa [show min n ((a / 64 + 0) * 64 - a) = 0 by omega]
    | succ i ih =>
      intro hi
      rw [List.range_succ, List.map_append, List.foldl_append]
      have hnext := hstep _ _ (max a ((a / 64 + i) * 64), min (a + n) ((a / 64 + i) * 64 + 64) - max a ((a / 64 + i) * 64),
          i == 0 || (a / 64 + i) % 2 == 0) (ih (by omega)) (by dsimp only; omega) (by dsimp only; omega)
      dsimp only at hnext
      rwa [show min n ((a / 64 + i) * 64 - a) + (min (a + n) ((a / 64 + i) * 64 + 64) - max a ((a / 64 + i) * 64))
        = min n ((a / 64 + (i + 1)) * 64 - a) by omega] at hnext
  have hall := hrows _ le_rfl
  rwa [show min n ((a / 64 + ((a + n - 1) / 64 - a / 64 + 1)) * 64 - a) = n by omega] at hall

theorem length_readKey (s : State) (key n : Nat) : (s.readKey key n).length = n := by
  simp [State.readKey, length_memRead]

theorem readKey_eq {s : State} (hwf : Memory.wf s.mem = true) (key n : Nat) :
    s.readKey key n = (List.range n).map fun i => (Map.get s.mem (key + i) unlistedByte, s.poisoned (key + i)) := by
  rw [State.readKey, memRead_eq hwf]
  refine List.ext_getElem (by simp) fun i _ _ => by simp

theorem readKey_append {s : State} (hwf : Memory.wf s.mem = true) (key m n : Nat) :
    s.readKey key m ++ s.readKey (key + m) n = s.readKey key (m + n) := by
  simp only [readKey_eq hwf, List.range_add, List.map_append, List.map_map, Function.comp_def, Nat.add_assoc]

theorem readKey_part {s : State} (hwf : Memory.wf s.mem = true) (key : Nat) {i k n : Nat} (h : i + k ≤ n) :
    ((s.readKey key n).drop i).take k = s.readKey (key + i) k := by
  rw [readKey_eq hwf, readKey_eq hwf]
  refine List.ext_getElem (by simp; omega) fun j _ _ => by simp [Nat.add_assoc]

theorem scratchKey_add (core off m : Nat) : scratchKey core (off + m) = scratchKey core off + m :=
  (Nat.add_assoc ..).symm

/-! ### Reads -/

theorem length_ownRead (s : State) (who core off n : Nat) : (s.ownRead who core off n).2.length = n := by
  unfold State.ownRead
  refine rowsOf_induction (P := fun m (acc : State × PBytes) => acc.2.length = m) rfl fun m acc r hacc _ _ => ?_
  dsimp only
  split <;> simp [hacc, length_readKey, PBytes.refused]

/-- From `s` to `t` memory, its poison and its bit errors stand still, and the banks of core `core` keep their modes. -/
structure ScratchStill (core : Nat) (s t : State) : Prop where
  mem : t.mem = s.mem
  poison : t.poison = s.poison
  upsets : t.upsets = s.upsets
  serves : ∀ b, t.bankServes (bBankCore core) b = s.bankServes (bBankCore core) b

namespace ScratchStill

variable {core : Nat} {s t u : State}

theorem refl (core : Nat) (s : State) : ScratchStill core s s := ⟨rfl, rfl, rfl, fun _ => rfl⟩

theorem trans (h : ScratchStill core s t) (k : ScratchStill core t u) : ScratchStill core s u :=
  ⟨k.mem.trans h.mem, k.poison.trans h.poison, k.upsets.trans h.upsets, fun b => (k.serves b).trans (h.serves b)⟩

theorem count (h : ScratchStill core s t) (n off k : Nat) : ScratchStill core s (t.count n off k) :=
  h.trans ⟨rfl, rfl, rfl, fun _ => rfl⟩

/-- A bank that is reached notes the access and keeps its mode. -/
theorem touchBank (h : ScratchStill core s t) (blk b : Nat) : ScratchStill core s (t.touchBank blk b) := by
  refine h.trans ⟨rfl, rfl, rfl, fun b' => ?_⟩
  unfold State.bankServes State.bank State.touchBank State.setBank
  dsimp only
  rw [Map.get_put]
  split
  · next heq => rw [heq]; rfl
  · rfl

theorem scratchServes (h : ScratchStill core s t) (hs : scratchServes s core) : Sys2Proof.scratchServes t core :=
  fun b hb => (h.serves b).trans (hs b hb)

theorem readKey (h : ScratchStill core s t) (key n : Nat) : t.readKey key n = s.readKey key n := by
  unfold State.readKey State.poisoned
  rw [h.mem, h.poison]

end ScratchStill

theorem mendWords_of_no_upsets {s : State} (h : s.upsets = []) (blk unit a : Nat) (ws : List Nat) :
    s.mendWords blk unit a ws = s := by simp [State.mendWords, h]

theorem scratchBank_lt (off : Nat) : scratchBank off < 32 := Nat.mod_lt _ (by decide)

/-- Where every bank serves and no bit error waits, a read gives what stands there and changes no byte. -/
theorem ownRead_of_serves {s : State} {core : Nat} (hserves : scratchServes s core) (hup : s.upsets = [])
    (hwf : Memory.wf s.mem = true) (who off n : Nat) :
    (s.ownRead who core off n).2 = s.readKey (scratchKey core off) n
      ∧ ScratchStill core s (s.ownRead who core off n).1 := by
  unfold State.ownRead
  refine rowsOf_induction (P := fun m (acc : State × PBytes) =>
    acc.2 = s.readKey (scratchKey core off) m ∧ ScratchStill core s acc.1) ⟨?_, .refl ..⟩ fun m acc r hacc hstart _ => ?_
  · exact (List.eq_nil_of_length_eq_zero (length_readKey ..)).symm
  · obtain ⟨hbytes, hstill⟩ := hacc
    have hbank := hstill.touchBank (bBankCore core) (scratchBank r.1)
    dsimp only
    rw [if_pos (hstill.scratchServes hserves _ (scratchBank_lt _)), mendWords_of_no_upsets (hbank.upsets.trans hup)]
    refine ⟨?_, hbank⟩
    dsimp only
    rw [hbytes, hbank.readKey, hstart, scratchKey_add, readKey_append hwf]

/-! ### Writes -/

/-- What an operation on a core's scratchpad changes beside its price and the state of its core, the bytes under the keys of
`out` staying where no bit error waits (R333). -/
structure ScratchWork (out : Nat → Prop) (s t : State) : Prop where
  frame : t = { paidFrame s t with cores := t.cores, banks := t.banks, mem := t.mem, poison := t.poison, upsets := t.upsets }
  bytes : ∀ k, out k → Map.find s.upsets (k / 16) = none →
    Map.find t.upsets (k / 16) = none ∧ Map.get t.mem k unlistedByte = Map.get s.mem k unlistedByte

namespace ScratchWork

variable {out : Nat → Prop} {core : Nat} {s t u : State}

theorem trans (h : ScratchWork out s t) (k : ScratchWork out t u) : ScratchWork out s u := by
  refine ⟨?_, fun i hi hs => ?_⟩
  · have htu := k.frame
    rw [h.frame] at htu
    exact htu
  · obtain ⟨ht, hst⟩ := h.bytes i hi hs
    obtain ⟨hu, htu⟩ := k.bytes i hi ht
    exact ⟨hu, htu.trans hst⟩

theorem sameByte (h : ScratchWork out s t) {k : Nat} (hk : out k) : Sys2Proof.sameByte s t k := fun hs => (h.bytes k hk hs).2

theorem ofPriced (h : PricedFrame core s t) : ScratchWork out s t := by
  have hframe := h.1
  refine ⟨?_, fun k _ hs => ?_⟩
  · rw [hframe]; rfl
  · rw [hframe]; exact ⟨hs, rfl⟩

theorem ofAccess (h : UnitAccess s t) : ScratchWork out s t := by
  refine ⟨?_, fun k _ hs => ⟨(h.mended _ hs).1, (h.mended _ hs).2 k rfl⟩⟩
  rw [h.frame]; rfl

theorem count (h : ScratchWork out s t) (n off k : Nat) : ScratchWork out s (t.count n off k) :=
  h.trans (ofPriced ((PricedFrame.refl 0 t).count n off k))

theorem setCore (h : ScratchWork out s t) (n : Nat) (c : Core) : ScratchWork out s (t.setCore n c) :=
  h.trans (ofPriced ((PricedFrame.refl n t).setCore c))

theorem writeKey (h : ScratchWork out s t) {key : Nat} {bs : PBytes} (keep : Bool)
    (hout : ∀ k, out k → k < key ∨ key + bs.length ≤ k) : ScratchWork out s (t.writeKey key bs keep) := by
  refine h.trans ⟨rfl, fun k hk hs => ⟨find_filter_none _ hs, ?_⟩⟩
  have hlen : bs.data.length = bs.length := by simp [PBytes.data]
  rw [State.writeKey, get_memWrite, hlen, if_neg]
  have := hout k hk
  omega

theorem foldl {β : Type} {g : State → β → State} (h : ScratchWork out s t) (l : List β)
    (hg : ∀ {v : State}, ∀ x ∈ l, ScratchWork out s v → ScratchWork out s (g v x)) : ScratchWork out s (l.foldl g t) :=
  List.foldlRecOn (motive := ScratchWork out s) l _ h fun _ hacc x hx => hg x hx hacc

theorem foldlFst {α β : Type} {g : State × α → β → State × α} {a : α} (h : ScratchWork out s t) (l : List β)
    (hg : ∀ {p : State × α} (x : β), ScratchWork out s p.1 → ScratchWork out s (g p x).1) :
    ScratchWork out s (l.foldl g (t, a)).1 :=
  List.foldlRecOn (motive := fun p : State × α => ScratchWork out s p.1) l _ h fun _ hacc x _ => hg x hacc

/-- A write leaves the bytes outside its run. -/
theorem ownWrite (h : ScratchWork out s t) (who core : Nat) {off : Nat} {bs : PBytes}
    (hout : ∀ k, out k → k < scratchKey core off ∨ scratchKey core off + bs.length ≤ k) :
    ScratchWork out s (t.ownWrite who core off bs) := by
  unfold State.ownWrite
  refine rowsOf_induction (P := fun _ v => ScratchWork out s v) h fun m v r hv hstart hend => ?_
  dsimp only
  split
  · refine writeKey (hv.trans (ofAccess (((UnitAccess.refl v).touchBank ..).mendWords (UnitAccess.bBankCore_ge core) ..))) _
      fun k hk => ?_
    have hlen : ((bs.drop (r.1 - off)).take r.2.1).length ≤ r.2.1 := List.length_take_le ..
    have := hout k hk
    rw [show scratchKey core r.1 = scratchKey core off + m by rw [hstart, scratchKey_add]]
    omega
  · exact hv.trans (ofAccess ((UnitAccess.refl v).refuseRow (UnitAccess.bBankCore_ge core) ..))

end ScratchWork

/-- Where every bank serves and no bit error waits, each byte of a run that is written stands at its place. -/
theorem get_ownWrite_of_serves {s : State} {core : Nat} (hserves : scratchServes s core) (hup : s.upsets = [])
    (who off : Nat) (bs : PBytes) {j : Nat} (hj : j < bs.length) :
    Map.get (s.ownWrite who core off bs).mem (scratchKey core off + j) unlistedByte = bs.data.getD j unlistedByte := by
  have hlen : bs.data.length = bs.length := by simp [PBytes.data]
  unfold State.ownWrite
  refine (rowsOf_induction (P := fun m (t : State) => t.upsets = [] ∧ (∀ b, b < 32 → t.bankServes (bBankCore core) b = true)
    ∧ ∀ j, j < m → Map.get t.mem (scratchKey core off + j) unlistedByte = bs.data.getD j unlistedByte)
    ⟨hup, hserves, fun j hj => absurd hj (Nat.not_lt_zero j)⟩ fun m t r ht hstart hend => ?_).2.2 j hj
  obtain ⟨hclean, hbanks, hbytes⟩ := ht
  have hbank := (ScratchStill.refl core t).touchBank (bBankCore core) (scratchBank r.1)
  dsimp only
  rw [if_pos (hbanks _ (scratchBank_lt _)), mendWords_of_no_upsets (hbank.upsets.trans hclean)]
  refine ⟨?_, fun b hb => hbank.scratchServes hbanks b hb, fun j hj => ?_⟩
  · simp [State.writeKey, hbank.upsets, hclean]
  · have hpart : PBytes.data ((bs.drop (r.1 - off)).take r.2.1) = (bs.data.drop m).take r.2.1 := by
      simp [PBytes.data, hstart, List.map_take, List.map_drop]
    have hcount : ((bs.data.drop m).take r.2.1).length = r.2.1 := by simp; omega
    have hkey : scratchKey core r.1 = scratchKey core off + m := by rw [hstart, scratchKey_add]
    rw [State.writeKey, get_memWrite, hpart, hcount, hkey, hbank.mem]
    by_cases hjm : j < m
    · rw [if_neg (by omega), hbytes j hjm]
    · rw [if_pos (by omega), show scratchKey core off + j - (scratchKey core off + m) = j - m by omega]
      simp only [List.getD_eq_getElem?_getD, List.getElem?_take, List.getElem?_drop]
      rw [if_pos (by omega), show m + (j - m) = j by omega]

end Sys2Proof.Machine
end

section
/-! What the stream mover's work leaves of the state: its core but for sticky flags, prefetchers and moves, every other core,
the engines, the tokens, the blocks and module flash; registers where no bit error waits (R117, R148 to R152). -/

namespace Sys2Proof.Machine

/-! ### What a move reads and what it writes -/

/-- The runs of a 4-bit tensor, read one after another. -/
def State.readParts (s : State) (core : Nat) (x : Tensor) (runs : List (Nat × Nat)) : State × List PBytes :=
  runs.foldl (fun a r => ((a.1.moveRead core x r.1 r.2).1, a.2 ++ [(a.1.moveRead core x r.1 r.2).2])) (s, [])

/-- A COPY of a 4-bit tensor writes each run as it was read. -/
theorem runCopy_of_is4 {src : Tensor} (h : src.is4 = true) (s : State) (core : Nat) (o : MoveOp) :
    (s.runCopy core o src).1 = ((o.dst.runs4.map (·.1)).zip (s.readParts core src src.runs4).2).foldl
      (fun a r => a.moveWrite core o.dst r.1 r.2) (s.readParts core src src.runs4).1 := by
  rw [State.runCopy, if_pos h]
  rfl

/-- The elements that a COPY reads, widened (R148). -/
def State.copiedRows (s : State) (core : Nat) (o : MoveOp) (src : Tensor) : List (List (FVal × Bool)) :=
  (s.readRows core src).2.map fun r => r.map fun e => ((widenVal (src.format.getD .fp32) e.1 src.scale o.satMode).1, e.2)

/-- A COPY between formats of whole bytes writes the elements that it has read. -/
theorem runCopy_of_not_is4 {src : Tensor} (h : src.is4 = false) (s : State) (core : Nat) (o : MoveOp) :
    (s.runCopy core o src).1 =
      ((s.readRows core src).1.writeRows core o.dst o.truncate o.satMode (s.copiedRows core o src)).1 := by
  rw [State.runCopy, if_neg (by simp [h]), State.copiedRows]
  simp only [List.map_map, Function.comp_def]

/-- The parts of a COMBINE and its addend, read whole one after another and widened. -/
def State.readColumns (s : State) (core : Nat) (srcs : List Tensor) (satMode : Bool) : State × List (List (Res × Bool)) :=
  srcs.foldl (fun a x => ((a.1.readRows core x).1,
    a.2 ++ [(elemsOf (a.1.readRows core x).2).map fun e => (widenBits .fp32 e.1 x.scale satMode, e.2)])) (s, [])

/-- Element i of what a COMBINE of n sources computes from their columns (R117). -/
def combinedAt (n1 tree : Bool) (parts n : Nat) (addend : Bool) (read : List (List (Res × Bool))) (i : Nat) : Res × Bool :=
  let zero : Res × Bool := ((0, .none), false)
  let xs := read.map fun col => col.getD i zero
  (combineElem n1 tree parts ((xs.take (n - boolBit addend)).map (·.1))
    (if addend then some (xs.getLast?.getD zero).1 else none), xs.any (·.2))

/-- The rows that a COMBINE writes. -/
def combinedRows (n1 : Bool) (o : MoveOp) (tree : Bool) (parts : Nat) (addend : Bool) (read : List (List (Res × Bool))) :
    List (List (FVal × Bool)) :=
  chunk (o.dst.extent 0) o.dst.rowIxs.length
    (((List.range (o.dst.rowIxs.length * o.dst.extent 0)).map (combinedAt n1 tree parts o.srcs.length addend read)).map
      fun e => (f32 e.1.1, e.2))

/-- A COMBINE writes what it computes from its columns. -/
theorem runCombine_eq (s : State) (core : Nat) (o : MoveOp) (tree : Bool) (parts : Nat) (addend : Bool) :
    let read := s.readColumns core o.srcs o.satMode
    (s.runCombine core o tree parts addend).1 =
      (read.1.writeRows core o.dst o.truncate o.satMode
        (combinedRows (decide (s.fld (bEng (4 * core)) 0x100 0 1 = 1)) o tree parts addend read.2)).1 := rfl

/-! ### The frame of the mover's work -/

/-- What the mover of core `core` may change from `s` to `t`. -/
structure MoverWork (core : Nat) (s t : State) : Prop where
  own : t.core core = { s.core core with
    sticky := (t.core core).sticky, prefetchers := (t.core core).prefetchers, moverq := (t.core core).moverq
    moves := (t.core core).moves }
  others : ∀ n, n ≠ core → t.core n = s.core n
  units : t.engines = s.engines ∧ t.tokens = s.tokens
  device : t.blocks = s.blocks ∧ t.flash = s.flash
  clean : s.upsets = [] → t.upsets = [] ∧ t.regs = s.regs

namespace MoverWork

variable {core : Nat} {s t u : State}

theorem refl (core : Nat) (s : State) : MoverWork core s s :=
  ⟨rfl, fun _ _ => rfl, ⟨rfl, rfl⟩, ⟨rfl, rfl⟩, fun h => ⟨h, rfl⟩⟩

theorem trans (h : MoverWork core s t) (k : MoverWork core t u) : MoverWork core s u := by
  refine ⟨?_, fun n hn => (k.others n hn).trans (h.others n hn), ⟨k.units.1.trans h.units.1, k.units.2.trans h.units.2⟩,
    ⟨k.device.1.trans h.device.1, k.device.2.trans h.device.2⟩, fun hs => ?_⟩
  · have htu := k.own
    rw [h.own] at htu
    exact htu
  · obtain ⟨ht, hst⟩ := h.clean hs
    obtain ⟨hu, htu⟩ := k.clean ht
    exact ⟨hu, htu.trans hst⟩

theorem access (h : MoverWork core s t) (k : FabricAccess t u) : MoverWork core s u := by
  refine h.trans ⟨?_, fun n _ => ?_, ⟨?_, ?_⟩, ⟨?_, ?_⟩, k.clean⟩ <;> rw [k.frame] <;> rfl

/-- The core takes new flags, prefetchers and moves. -/
theorem setCore (h : MoverWork core s t) {c : Core}
    (hc : c = { t.core core with sticky := c.sticky, prefetchers := c.prefetchers, moverq := c.moverq, moves := c.moves }) :
    MoverWork core s (t.setCore core c) := by
  refine h.trans ⟨?_, fun n hn => core_setCore_ne t core n c hn, ⟨rfl, rfl⟩, ⟨rfl, rfl⟩, fun hu => ⟨hu, rfl⟩⟩
  rw [core_setCore_same]
  exact hc

theorem ite (p : Prop) [Decidable p] (ht : MoverWork core s t) (hu : MoverWork core s u) :
    MoverWork core s (if p then t else u) := by
  split <;> assumption

end MoverWork

/-- The work of one move, which leaves the queue and the moves that the host has still to acknowledge. -/
structure MoveWork (core : Nat) (s t : State) : Prop extends MoverWork core s t where
  queue : (t.core core).moverq = (s.core core).moverq
  unacknowledged : (t.core core).moves = (s.core core).moves

namespace MoveWork

variable {core : Nat} {s t u : State}

theorem refl (core : Nat) (s : State) : MoveWork core s s := ⟨.refl core s, rfl, rfl⟩

theorem access (h : MoveWork core s t) (k : FabricAccess t u) : MoveWork core s u := by
  have hcore : u.core core = t.core core := by rw [k.frame]; rfl
  exact ⟨h.toMoverWork.access k, by rw [hcore, h.queue], by rw [hcore, h.unacknowledged]⟩

theorem ite (p : Prop) [Decidable p] (ht : MoveWork core s t) (hu : MoveWork core s u) :
    MoveWork core s (if p then t else u) := by
  split <;> assumption

theorem foldl {β : Type} {g : State → β → State} (h : MoveWork core s t) (l : List β)
    (hg : ∀ {v : State} (x : β), MoveWork core s v → MoveWork core s (g v x)) : MoveWork core s (l.foldl g t) :=
  List.foldlRecOn (motive := MoveWork core s) l _ h fun _ hacc x _ => hg x hacc

theorem foldlFst {α β : Type} {g : State × α → β → State × α} {a : α} (h : MoveWork core s t) (l : List β)
    (hg : ∀ {p : State × α} (x : β), MoveWork core s p.1 → MoveWork core s (g p x).1) :
    MoveWork core s (l.foldl g (t, a)).1 :=
  List.foldlRecOn (motive := fun p : State × α => MoveWork core s p.1) l _ h fun _ hacc x _ => hg x hacc

theorem setPrefetch (h : MoveWork core s t) (i : Nat) (p : Prefetch) : MoveWork core s (t.setPrefetch core i p) := by
  unfold State.setPrefetch
  refine ⟨h.toMoverWork.setCore rfl, ?_, ?_⟩
  · rw [core_setCore_same]
    exact h.queue
  · rw [core_setCore_same]
    exact h.unacknowledged

theorem prefetchAdvance (h : MoveWork core s t) (a n : Nat) : MoveWork core s (t.prefetchAdvance core a n) := by
  refine ite _ h (h.foldl _ fun e hv => ?_)
  split
  · exact ite _ hv ((hv.access ((FabricAccess.refl _).prefetchTo ..)).setPrefetch ..)
  · exact hv

theorem moveRead (h : MoveWork core s t) (x : Tensor) (a n : Nat) : MoveWork core s (t.moveRead core x a n).1 := by
  have hahead := ite (x.physical = true) (h.prefetchAdvance a n) h
  unfold State.moveRead
  dsimp only
  split
  · exact hahead.access (((FabricAccess.refl _).ownRead ..).count ..)
  · split
    · exact hahead.access (((FabricAccess.refl _).cachedRead ..).count ..)
    · exact hahead.access (((FabricAccess.refl _).readRun ..).count ..)

theorem moveWrite (h : MoveWork core s t) (x : Tensor) (a : Nat) (bs : PBytes) : MoveWork core s (t.moveWrite core x a bs) :=
  h.access (FabricAccess.count (FabricAccess.ite _ ((FabricAccess.refl t).ownWrite ..)
    (FabricAccess.ite _ ((FabricAccess.refl t).cachedWrite ..) ((FabricAccess.refl t).writeRun ..))) ..)

theorem readRows (h : MoveWork core s t) (x : Tensor) : MoveWork core s (t.readRows core x).1 :=
  h.foldlFst _ fun _ hv => hv.moveRead ..

theorem writeRows (h : MoveWork core s t) (x : Tensor) (trunc nonSat : Bool) (rows : List (List (FVal × Bool))) :
    MoveWork core s (t.writeRows core x trunc nonSat rows).1 := h.foldl _ fun _ hv => hv.moveWrite ..

theorem readParts (h : MoveWork core s t) (x : Tensor) (runs : List (Nat × Nat)) :
    MoveWork core s (t.readParts core x runs).1 := h.foldlFst _ fun _ hv => hv.moveRead ..

theorem readColumns (h : MoveWork core s t) (srcs : List Tensor) (satMode : Bool) :
    MoveWork core s (t.readColumns core srcs satMode).1 := h.foldlFst _ fun _ hv => hv.readRows _

theorem runCopy (h : MoveWork core s t) (o : MoveOp) (src : Tensor) : MoveWork core s (t.runCopy core o src).1 := by
  cases h4 : src.is4 with
  | true =>
    rw [runCopy_of_is4 h4]
    exact (h.readParts ..).foldl _ fun _ hv => hv.moveWrite ..
  | false =>
    rw [runCopy_of_not_is4 h4]
    exact (h.readRows src).writeRows ..

theorem runCombine (h : MoveWork core s t) (o : MoveOp) (tree : Bool) (parts : Nat) (addend : Bool) :
    MoveWork core s (t.runCombine core o tree parts addend).1 := by
  rw [runCombine_eq]
  exact (h.readColumns ..).writeRows ..

theorem runMove (h : MoveWork core s t) (o : MoveOp) : MoveWork core s (t.runMove core o).1 := by
  unfold State.runMove
  split
  · exact h.runCombine ..
  · exact h.runCopy ..
  · exact h

end MoveWork

namespace MoverWork

variable {core : Nat} {s t : State}

theorem moveOwes (h : MoverWork core s t) (n : Nat) (o : MoveOp) : MoverWork core s (t.moveOwes core n o) :=
  have howned := h.access ((FabricAccess.refl t).ownWrites n (8 * core + 2) (.move core o.seq))
  ite _ (howned.setCore rfl) howned

theorem coreFlags (h : MoverWork core s t) (unit detail : Nat) (f : Flags) :
    MoverWork core s (t.coreFlags core unit detail f) := by
  have hbit : ∀ {v : State} (bit : Nat) (b : Bool), MoverWork core s v → MoverWork core s (v.flagBit core unit detail bit b) :=
    fun bit b hv => ite _ (hv.access ((FabricAccess.refl _).recordOnce ..)) hv
  exact hbit _ _ (hbit _ _ (hbit _ _ (h.setCore rfl)))

theorem runMover (h : MoverWork core s t) (n : Nat) : MoverWork core s (State.runMover n t core) := by
  induction n generalizing t with
  | zero => exact h
  | succ n ih =>
    unfold State.runMover
    split
    · exact h
    · next o rest _ =>
      have htaken := h.setCore (c := { t.core core with moverq := rest }) rfl
      refine ite _ h (ite _ (h.access ((FabricAccess.refl t).setNcl _)) (ih (coreFlags (moveOwes ?_ ..) ..)))
      exact htaken.trans ((MoveWork.refl core _).runMove o).toMoverWork

end MoverWork

end Sys2Proof.Machine
end

section
/-! The places of a tensor's elements and what a move does to them: a move within the scratchpad touches the runs of its
destination alone, and where every bank serves, a line of elements is read as it stands and written converted (R117, R132,
R134, R148, R149). -/

namespace Sys2Proof.Machine

/-! ### Places of a tensor's rows (R132, R134) -/

theorem strideSpan_zero (n : Nat) (st : Int) :
    strideSpan 0 n st = (min 0 (((n - 1 : Nat) : Int) * st), max 0 (((n - 1 : Nat) : Int) * st)) := by
  simp only [strideSpan, Nat.cast_zero, zero_mul]
  split
  · next h => rw [min_eq_left h.le, max_eq_right h.le]
  · next h => rw [min_eq_right (not_lt.1 h), max_eq_left (not_lt.1 h)]

theorem le_mul_le_of_strideSpan {j n : Nat} (hj : j < n) (st : Int) :
    (strideSpan 0 n st).1 ≤ j * st ∧ j * st ≤ (strideSpan 0 n st).2 := by
  have hlast : (j : Int) ≤ ((n - 1 : Nat) : Int) := by omega
  have hfirst : (0 : Int) ≤ j := Int.natCast_nonneg j
  rw [strideSpan_zero]
  rcases le_total 0 st with hst | hst
  · exact ⟨min_le_of_left_le (mul_nonneg hfirst hst), le_max_of_le_right (mul_le_mul_of_nonneg_right hlast hst)⟩
  · exact ⟨min_le_of_right_le (mul_le_mul_of_nonpos_right hlast hst),
      le_max_of_le_left (mul_nonpos_of_nonneg_of_nonpos hfirst hst)⟩

namespace Tensor

variable {x : Tensor} {core : Nat} {lo hi : Int}

theorem mem_rowIxs {j k l : Nat} : (j, k, l) ∈ x.rowIxs ↔ j < x.extent 1 ∧ k < x.extent 2 ∧ l < x.extent 3 := by
  simp [rowIxs, and_comm, and_assoc]

/-- The runs of bytes that a tensor's elements and scales take: address and length. -/
def runs (x : Tensor) : List (Nat × Nat) :=
  if x.is4 then x.runs4 else x.rowIxs.map fun j => ((x.addr 0 j.1 j.2.1 j.2.2).toNat, x.extent 0 * x.esize)

/-- A row of elements of whole bytes lies in what the tensor reaches. -/
theorem addr_mem_all (h4 : x.is4 = false) (hall : x.all = some (lo, hi)) {j k l : Nat} (hrow : (j, k, l) ∈ x.rowIxs) :
    lo ≤ x.addr 0 j k l ∧ x.addr 0 j k l + (x.extent 0 * x.esize : Nat) ≤ hi := by
  obtain ⟨hj, hk, hl⟩ := mem_rowIxs.1 hrow
  have h1 := le_mul_le_of_strideSpan hj x.stride1
  have h2 := le_mul_le_of_strideSpan hk x.stride2
  have h3 := le_mul_le_of_strideSpan hl x.stride3
  unfold all reach at hall
  simp only [h4, Nat.min_self] at hall
  split at hall
  · cases hall
  · simp only [Bool.false_eq_true, if_false, Option.some.injEq, Prod.mk.injEq] at hall
    obtain ⟨rfl, rfl⟩ := hall
    unfold addr
    simp only [h4, Bool.false_eq_true, if_false]
    omega

/-- A row of nibbles and a row of scales of a 4-bit tensor lie in what it reaches. -/
theorem addr4_mem_all (h4 : x.is4 = true) (hall : x.all = some (lo, hi)) {j : Nat} (hj : j < x.extent 1) :
    (lo ≤ x.addr 0 j 0 0 ∧ x.addr 0 j 0 0 + ((x.extent 0 + 1) / 2 : Nat) ≤ hi)
      ∧ lo ≤ x.scaleAddr 0 j ∧ x.scaleAddr 0 j + ((x.extent 0 + 31) / 32 : Nat) ≤ hi := by
  have h1 := le_mul_le_of_strideSpan hj x.stride1
  have h2 := le_mul_le_of_strideSpan hj x.stride2
  unfold all reach at hall
  simp only [h4, Nat.min_self] at hall
  split at hall
  · cases hall
  · simp only [if_true, Span.hull, Option.some.injEq, Prod.mk.injEq] at hall
    obtain ⟨rfl, rfl⟩ := hall
    unfold addr scaleAddr
    simp only [h4, if_true]
    split_ifs <;> omega

/-- Every run of a tensor lies in what the tensor reaches. -/
theorem run_mem_all (hall : x.all = some (lo, hi)) (hlo : 0 ≤ lo) {r : Nat × Nat} (hr : r ∈ x.runs) :
    lo.toNat ≤ r.1 ∧ r.1 + r.2 ≤ hi.toNat := by
  cases h4 : x.is4 with
  | false =>
    rw [runs, h4, if_neg Bool.false_ne_true] at hr
    obtain ⟨⟨j, k, l⟩, hrow, rfl⟩ := List.mem_map.1 hr
    have := addr_mem_all h4 hall hrow
    dsimp only
    omega
  | true =>
    rw [runs, h4, if_pos rfl, runs4] at hr
    rcases List.mem_append.1 hr with hr | hr
    all_goals
      obtain ⟨j, hj, rfl⟩ := List.mem_map.1 hr
      have := addr4_mem_all h4 hall (List.mem_range.1 hj)
      dsimp only
      omega

/-- No run of the tensor in core `core`'s scratchpad holds a byte under a key of `out`. -/
def Misses (x : Tensor) (core : Nat) (out : Nat → Prop) : Prop :=
  ∀ r ∈ x.runs, ∀ k, out k → k < scratchKey core r.1 ∨ scratchKey core r.1 + r.2 ≤ k

/-- The keys outside what the tensor reaches. -/
theorem misses_outside (core : Nat) (hall : x.all = some (lo, hi)) (hlo : 0 ≤ lo) :
    x.Misses core fun k => k < scratchKey core lo.toNat ∨ scratchKey core hi.toNat ≤ k := by
  intro r hr k hk
  have := run_mem_all hall hlo hr
  unfold scratchKey at hk ⊢
  omega

theorem misses_false (x : Tensor) (core : Nat) : x.Misses core fun _ => False := fun _ _ _ hk => hk.elim

end Tensor

/-! ### The bytes of a row -/

/-- The bytes that a row of converted elements becomes in a destination (R51, R148). -/
def Tensor.rowBytes (x : Tensor) (trunc nonSat : Bool) (row : List (FVal × Bool)) : PBytes :=
  row.flatMap fun e => (elemBytes (x.format.getD .fp32) (convertScaled e.1 (x.format.getD .fp32) x.scale trunc nonSat).1).map
    fun b => (b, e.2)

theorem fst_foldl_append {α β γ : Type} {step : List β × γ → α → List β × γ} (f : α → List β)
    (hstep : ∀ p e, (step p e).1 = p.1 ++ f e) (l : List α) (p : List β × γ) :
    (l.foldl step p).1 = p.1 ++ l.flatMap f := by
  induction l generalizing p with
  | nil => simp
  | cons e l ih => rw [List.foldl_cons, ih, hstep, List.flatMap_cons, List.append_assoc]

/-- Rows are written one by one, each as its bytes. -/
theorem writeRows_fst (s : State) (core : Nat) (x : Tensor) (trunc nonSat : Bool) (rows : List (List (FVal × Bool))) :
    (s.writeRows core x trunc nonSat rows).1 = ((x.rowIxs.zip rows).map fun y =>
      ((x.addr 0 y.1.1 y.1.2.1 y.1.2.2).toNat, x.rowBytes trunc nonSat y.2)).foldl
        (fun acc r => acc.moveWrite core x r.1 r.2) s := by
  rw [List.map_eq_flatMap]
  refine congrArg (List.foldl _ s) ((fst_foldl_append _ (fun p y => ?_) _ _).trans (List.nil_append _))
  exact congrArg (fun bs => p.1 ++ [((x.addr 0 y.1.1 y.1.2.1 y.1.2.2).toNat, bs)])
    ((fst_foldl_append _ (fun _ _ => rfl) y.2 ([], p.2)).trans (List.nil_append _))

theorem length_rowBytes (x : Tensor) (trunc nonSat : Bool) (row : List (FVal × Bool)) :
    (x.rowBytes trunc nonSat row).length = row.length * x.esize := by
  induction row with
  | nil => simp [Tensor.rowBytes]
  | cons e row ih =>
    rw [Tensor.rowBytes, List.flatMap_cons, List.length_append, ← Tensor.rowBytes, ih]
    simp [elemBytes, length_leBytes, Tensor.esize, Nat.add_mul, Nat.add_comm]

/-! ### Moves within the scratchpad -/

theorem length_moveRead {x : Tensor} (hx : x.physical = false) (s : State) (core a n : Nat) :
    (s.moveRead core x a n).2.length = n := by
  simp [State.moveRead, hx, length_ownRead]

theorem lengths_readParts {x : Tensor} (hx : x.physical = false) (s : State) (core : Nat) (runs : List (Nat × Nat)) :
    (s.readParts core x runs).2.map List.length = runs.map (·.2) := by
  induction runs using List.reverseRecOn with
  | nil => rfl
  | append_singleton runs r ih =>
    rw [State.readParts, List.foldl_append, ← State.readParts]
    simp only [List.foldl_cons, List.foldl_nil, List.map_append, List.map_cons, List.map_nil, ih, length_moveRead hx]

theorem length_of_mem_readRows {s : State} {core : Nat} {x : Tensor} {row : List Elem} (h : row ∈ (s.readRows core x).2) :
    row.length = x.extent 0 := by
  revert row
  unfold State.readRows
  refine List.foldlRecOn (motive := fun acc : State × List (List Elem) => ∀ {row}, row ∈ acc.2 → row.length = x.extent 0)
    _ _ (fun h => absurd h List.not_mem_nil) fun acc hacc j _ row hrow => ?_
  rcases List.mem_append.1 hrow with hrow | hrow
  · exact hacc hrow
  · rw [List.mem_singleton.1 hrow]
    simp

theorem length_of_mem_chunk {α : Type} {n k : Nat} {l row : List α} (h : row ∈ chunk n k l) : row.length ≤ n := by
  induction k generalizing l with
  | zero => exact absurd h List.not_mem_nil
  | succ k ih =>
    rcases List.mem_cons.1 h with rfl | h
    · exact List.length_take_le ..
    · exact ih h

namespace ScratchWork

variable {out : Nat → Prop} {core : Nat} {s t : State} {x : Tensor}

theorem moveRead (h : ScratchWork out s t) (hx : x.physical = false) (a n : Nat) :
    ScratchWork out s (t.moveRead core x a n).1 := by
  simp only [State.moveRead, hx, Bool.false_eq_true, if_false, Bool.not_false, if_true]
  exact (h.trans (ofAccess ((UnitAccess.refl t).ownRead ..))).count ..

theorem readRows (h : ScratchWork out s t) (hx : x.physical = false) : ScratchWork out s (t.readRows core x).1 :=
  h.foldlFst _ fun _ hv => hv.moveRead hx ..

theorem readParts (h : ScratchWork out s t) (hx : x.physical = false) (runs : List (Nat × Nat)) :
    ScratchWork out s (t.readParts core x runs).1 := h.foldlFst _ fun _ hv => hv.moveRead hx ..

theorem readColumns {srcs : List Tensor} (h : ScratchWork out s t) (hsrcs : ∀ x ∈ srcs, x.physical = false) (satMode : Bool) :
    ScratchWork out s (t.readColumns core srcs satMode).1 :=
  List.foldlRecOn (motive := fun p : State × List (List (Res × Bool)) => ScratchWork out s p.1) _ _ h
    fun _ hacc x hx => hacc.readRows (hsrcs x hx)

theorem moveWrite (h : ScratchWork out s t) (hx : x.physical = false) {a : Nat} {bs : PBytes}
    (hout : ∀ k, out k → k < scratchKey core a ∨ scratchKey core a + bs.length ≤ k) :
    ScratchWork out s (t.moveWrite core x a bs) := by
  simp only [State.moveWrite, hx, Bool.not_false, if_true]
  exact (h.ownWrite _ core hout).count ..

/-- Rows no longer than the destination's are written to its runs. -/
theorem writeRows (h : ScratchWork out s t) (hx : x.physical = false) (h4 : x.is4 = false) (hmiss : x.Misses core out)
    {rows : List (List (FVal × Bool))} (hrows : ∀ row ∈ rows, row.length ≤ x.extent 0) (trunc nonSat : Bool) :
    ScratchWork out s (t.writeRows core x trunc nonSat rows).1 := by
  rw [writeRows_fst]
  refine h.foldl _ fun r hr hv => hv.moveWrite hx fun k hk => ?_
  obtain ⟨⟨j, row⟩, hjrow, rfl⟩ := List.mem_map.1 hr
  obtain ⟨hj, hrow⟩ := List.of_mem_zip hjrow
  have hrun := hmiss _ (by rw [Tensor.runs, h4, if_neg Bool.false_ne_true]; exact List.mem_map_of_mem hj) k hk
  have hlen := Nat.mul_le_mul_right x.esize (hrows row hrow)
  rw [length_rowBytes]
  dsimp only at hrun ⊢
  omega

theorem runCopy {src : Tensor} {o : MoveOp} (h : ScratchWork out s t) (hsrc : src.physical = false)
    (hdst : o.dst.physical = false) (h4 : o.dst.is4 = src.is4) (hext : ∀ i, i < 2 → o.dst.extent i = src.extent i)
    (hmiss : o.dst.Misses core out) : ScratchWork out s (t.runCopy core o src).1 := by
  cases h4' : src.is4 with
  | false =>
    rw [runCopy_of_not_is4 h4']
    refine (h.readRows hsrc).writeRows hdst (h4.trans h4') hmiss (fun row hrow => ?_) ..
    obtain ⟨es, hes, rfl⟩ := List.mem_map.1 hrow
    rw [List.length_map, length_of_mem_readRows hes, hext 0 (by decide)]
  | true =>
    rw [runCopy_of_is4 h4']
    refine (h.readParts hsrc _).foldl _ fun r hr hv => hv.moveWrite hdst fun k hk => ?_
    have hruns : ((o.dst.runs4.map (·.1)).zip (t.readParts core src src.runs4).2).map (fun r => (r.1, r.2.length))
        = o.dst.runs4 := by
      have hlens : src.runs4.map (·.2) = o.dst.runs4.map (·.2) := by
        simp [Tensor.runs4, Function.comp_def, hext]
      have hzip := List.zip_map_right (l₁ := o.dst.runs4.map (·.1)) (l₂ := (t.readParts core src src.runs4).2)
        (f := List.length)
      rw [lengths_readParts hsrc, hlens, ← List.zip_of_prod rfl rfl] at hzip
      exact hzip.symm
    refine hmiss (r.1, r.2.length) ?_ k hk
    rw [Tensor.runs, h4.trans h4', if_pos rfl, ← hruns]
    exact List.mem_map_of_mem hr

theorem runCombine {o : MoveOp} (h : ScratchWork out s t) (hsrcs : ∀ x ∈ o.srcs, x.physical = false)
    (hdst : o.dst.physical = false) (h4 : o.dst.is4 = false) (hmiss : o.dst.Misses core out) (tree : Bool) (parts : Nat)
    (addend : Bool) : ScratchWork out s (t.runCombine core o tree parts addend).1 := by
  rw [runCombine_eq]
  exact (h.readColumns hsrcs _).writeRows hdst h4 hmiss (fun row hrow => length_of_mem_chunk hrow) ..

end ScratchWork

end Sys2Proof.Machine
end

section
/-! What a move of a line of elements leaves in a scratchpad whose banks serve: every source is read as it stands before the
first write, and each element is written converted (R117, R148, R149). -/

namespace Sys2Proof.Machine

/-! ### Lines of elements -/

/-- A tensor of one dimension in the scratchpad, of elements of whole bytes, with an element and an address in the scratchpad. -/
structure Tensor.IsLine (x : Tensor) : Prop where
  near : x.physical = false
  whole : x.is4 = false
  one : x.rank = 1
  base : 0 ≤ x.base

/-- Element i of a line as it stands. -/
def State.lineElem (s : State) (core : Nat) (x : Tensor) (i : Nat) : PBytes :=
  s.readKey (scratchKey core (x.addr i 0 0 0).toNat) x.esize

namespace Tensor.IsLine

variable {x : Tensor}

theorem extent_eq_one (h : x.IsLine) {i : Nat} (hi : 0 < i) : x.extent i = 1 := by
  rw [extent, h.one, if_neg (by omega)]

theorem rowIxs_eq (h : x.IsLine) : x.rowIxs = [(0, 0, 0)] := by
  simp [rowIxs, h.extent_eq_one]

theorem key_eq (h : x.IsLine) (core i : Nat) :
    scratchKey core (x.addr i 0 0 0).toNat = scratchKey core (x.addr 0 0 0 0).toNat + i * x.esize := by
  rw [← scratchKey_add]
  have hbase := h.base
  simp only [addr, h.whole, Bool.false_eq_true, if_false]
  congr 1
  omega

end Tensor.IsLine

theorem inScratch_of_moveCheck {x : Tensor} (hcheck : moveCheck x = []) (hx : x.physical = false) : inScratch x.all = true := by
  unfold moveCheck at hcheck
  rw [hx] at hcheck
  by_contra hout
  simp [hout] at hcheck

/-- A line of at least one element that passes a move's check begins in the scratchpad. -/
theorem isLine_of_moveCheck {x : Tensor} (hcheck : moveCheck x = []) (hx : x.physical = false) (h4 : x.is4 = false)
    (hrank : x.rank = 1) (hext : 0 < x.extent 0) : x.IsLine := by
  refine ⟨hx, h4, hrank, ?_⟩
  have hone : ∀ i, 0 < i → x.extent i = 1 := fun i hi => by rw [Tensor.extent, hrank, if_neg (by omega)]
  have hall : x.all = some (x.base, x.base + (x.extent 0 * x.esize : Nat)) := by
    simp [Tensor.all, Tensor.reach, h4, hone, strideSpan, hext.ne']
  have hin := inScratch_of_moveCheck hcheck hx
  rw [hall] at hin
  simp only [inScratch, Bool.and_eq_true, decide_eq_true_eq] at hin
  exact hin.1

/-! ### Reading a line -/

section
variable {s : State} {core : Nat} {x : Tensor} (hserves : scratchServes s core) (hup : s.upsets = [])
  (hwf : Memory.wf s.mem = true)
include hserves hup hwf

theorem moveRead_of_serves (hx : x.physical = false) (a n : Nat) :
    (s.moveRead core x a n).2 = s.readKey (scratchKey core a) n ∧ ScratchStill core s (s.moveRead core x a n).1 := by
  obtain ⟨hbytes, hstill⟩ := ownRead_of_serves hserves hup hwf (8 * core + 2) a n
  simp only [State.moveRead, hx, Bool.false_eq_true, if_false, Bool.not_false, if_true]
  exact ⟨hbytes, hstill.count ..⟩

theorem readRows_of_isLine (hx : x.IsLine) :
    (s.readRows core x).2 = [(List.range (x.extent 0)).map fun i =>
        (leNat (s.lineElem core x i).data, (s.lineElem core x i).anyPoison)]
      ∧ ScratchStill core s (s.readRows core x).1 := by
  obtain ⟨hbytes, hstill⟩ := moveRead_of_serves hserves hup hwf hx.near (x.addr 0 0 0 0).toNat (x.extent 0 * x.esize)
  rw [State.readRows, hx.rowIxs_eq]
  refine ⟨?_, hstill⟩
  simp only [List.foldl_cons, List.foldl_nil, List.nil_append, hbytes, List.cons.injEq, and_true]
  refine List.map_congr_left fun i hi => ?_
  have hi' : i * x.esize + x.esize ≤ x.extent 0 * x.esize := by
    rw [← Nat.succ_mul]
    exact Nat.mul_le_mul_right _ (List.mem_range.1 hi)
  rw [State.lineElem, hx.key_eq core i, readKey_part hwf _ hi']

end

theorem ScratchStill.lineElem {core : Nat} {s t : State} (h : ScratchStill core s t) (x : Tensor) (i : Nat) :
    t.lineElem core x i = s.lineElem core x i := h.readKey ..

/-! ### Writing a line -/

theorem getD_leBytes (n v : Nat) {j : Nat} (hj : j < n) (d : Byte) : (leBytes n v).getD j d = BitVec.ofNat 8 (v / 256 ^ j) := by
  induction n generalizing v j with
  | zero => omega
  | succ n ih =>
    cases j with
    | zero => simp [leBytes]
    | succ j => rw [leBytes, List.getD_cons_succ, ih _ (by omega), Nat.div_div_eq_div_mul, Nat.pow_succ']

/-- Byte j of element i of a row of converted elements. -/
theorem getD_rowBytes (x : Tensor) (trunc nonSat : Bool) {row : List (FVal × Bool)} {i j : Nat} (hi : i < row.length)
    (hj : j < x.esize) (d : Byte) : (x.rowBytes trunc nonSat row).data.getD (i * x.esize + j) d =
      BitVec.ofNat 8 ((convertScaled row[i].1 (x.format.getD .fp32) x.scale trunc nonSat).1 / 256 ^ j) := by
  induction row generalizing i with
  | nil => exact absurd hi (Nat.not_lt_zero i)
  | cons e row ih =>
    have hcons : (x.rowBytes trunc nonSat (e :: row)).data =
        leBytes x.esize (convertScaled e.1 (x.format.getD .fp32) x.scale trunc nonSat).1 ++ (x.rowBytes trunc nonSat row).data := by
      simp [Tensor.rowBytes, PBytes.data, elemBytes, Tensor.esize, Function.comp_def]
    rw [hcons]
    cases i with
    | zero =>
      rw [Nat.zero_mul, Nat.zero_add, List.getD_append _ _ _ _ (by rwa [length_leBytes]), getD_leBytes _ _ hj]
      rfl
    | succ i =>
      rw [List.getD_append_right _ _ _ _ (by rw [length_leBytes, Nat.succ_mul]; omega), length_leBytes,
        show (i + 1) * x.esize + j - x.esize = i * x.esize + j by rw [Nat.succ_mul]; omega,
        ih (Nat.lt_of_succ_lt_succ hi)]
      rfl

/-- Each element of a line that is written stands converted at its place. -/
theorem get_writeRows_of_isLine {s : State} {core : Nat} {x : Tensor} (hserves : scratchServes s core) (hup : s.upsets = [])
    (hx : x.IsLine) (trunc nonSat : Bool) {row : List (FVal × Bool)} {i j : Nat} (hi : i < row.length) (hj : j < x.esize) :
    Map.get (s.writeRows core x trunc nonSat [row]).1.mem (scratchKey core (x.addr i 0 0 0).toNat + j) unlistedByte =
      BitVec.ofNat 8 ((convertScaled row[i].1 (x.format.getD .fp32) x.scale trunc nonSat).1 / 256 ^ j) := by
  have hplace : i * x.esize + j < (x.rowBytes trunc nonSat row).length := by
    have := Nat.mul_le_mul_right x.esize (Nat.succ_le_of_lt hi)
    rw [length_rowBytes]
    rw [Nat.succ_mul] at this
    omega
  rw [writeRows_fst, hx.rowIxs_eq, hx.key_eq, Nat.add_assoc]
  simp only [List.zip_cons_cons, List.zip_nil_left, List.map_cons, List.map_nil, List.foldl_cons, List.foldl_nil,
    State.moveWrite, hx.near, Bool.not_false, if_true]
  exact (get_ownWrite_of_serves hserves hup _ _ _ hplace).trans (getD_rowBytes x trunc nonSat hi hj _)

/-! ### COPY and COMBINE -/

section
variable {s : State} {core : Nat} {o : MoveOp} (hserves : scratchServes s core) (hup : s.upsets = [])
  (hwf : Memory.wf s.mem = true) (hdst : o.dst.IsLine)
include hserves hup hwf hdst

/-- Each element of a line that is copied stands converted at its place (R148). -/
theorem get_runCopy_of_isLine {src : Tensor} (hsrc : src.IsLine) {i j : Nat} (hi : i < src.extent 0) (hj : j < o.dst.esize) :
    Map.get (s.runCopy core o src).1.mem (scratchKey core (o.dst.addr i 0 0 0).toNat + j) unlistedByte =
      BitVec.ofNat 8 ((convertScaled
        (widenVal (src.format.getD .fp32) (leNat (s.lineElem core src i).data) src.scale o.satMode).1
        (o.dst.format.getD .fp32) o.dst.scale o.truncate o.satMode).1 / 256 ^ j) := by
  obtain ⟨hrows, hstill⟩ := readRows_of_isLine hserves hup hwf hsrc
  rw [runCopy_of_not_is4 hsrc.whole, State.copiedRows, hrows, List.map_singleton, List.map_map]
  rw [get_writeRows_of_isLine (hstill.scratchServes hserves) (hstill.upsets.trans hup) hdst _ _ (by simpa using hi) hj]
  simp

/-- Each element of the sum of two lines stands converted at its place, part 0 taken first (R117, R149). -/
theorem get_runCombine_of_two_lines {p q : Tensor} (hp : p.IsLine) (hq : q.IsLine) (hsrcs : o.srcs = [p, q]) {i j : Nat}
    (hi : i < o.dst.extent 0) (hpi : o.dst.extent 0 = p.extent 0) (hqi : o.dst.extent 0 = q.extent 0) (hj : j < o.dst.esize) :
    let part (x : Tensor) : Res := widenBits .fp32 (leNat (s.lineElem core x i).data) x.scale o.satMode
    Map.get (s.runCombine core o false 2 false).1.mem (scratchKey core (o.dst.addr i 0 0 0).toNat + j) unlistedByte =
      BitVec.ofNat 8 ((convertScaled
        (f32 (accAdd (decide (s.fld (bEng (4 * core)) 0x100 0 1 = 1)) (part p) (part q)).1)
        (o.dst.format.getD .fp32) o.dst.scale o.truncate o.satMode).1 / 256 ^ j) := by
  intro part
  obtain ⟨hprows, hpstill⟩ := readRows_of_isLine hserves hup hwf hp
  obtain ⟨hqrows, hqstill⟩ := readRows_of_isLine (hpstill.scratchServes hserves) (hpstill.upsets.trans hup)
    (by rwa [hpstill.mem]) hq
  have hboth := hpstill.trans hqstill
  have hread : s.readColumns core o.srcs o.satMode = (((s.readRows core p).1.readRows core q).1,
      [p, q].map fun x => (List.range (x.extent 0)).map fun i =>
        (widenBits .fp32 (leNat (s.lineElem core x i).data) x.scale o.satMode, (s.lineElem core x i).anyPoison)) := by
    rw [hsrcs, State.readColumns]
    simp [hprows, hqrows, elemsOf, Function.comp_def, hpstill.lineElem]
  rw [runCombine_eq, hread]
  unfold combinedRows
  rw [hdst.rowIxs_eq]
  simp only [List.length_singleton, Nat.one_mul, chunk]
  rw [get_writeRows_of_isLine (hboth.scratchServes hserves) (hboth.upsets.trans hup) hdst _ _ (by simpa using hi) hj]
  simp [combinedAt, combineElem, boolBit, hsrcs, hi, ← hpi, ← hqi, part]

end

end Sys2Proof.Machine
end

section
/-! Moves as the sequencer hands them over and the mover runs them: one that waits for the host, one that runs at once, and
the checks of COPY and COMBINE (R123, R148 to R150, R326, R400). -/

namespace Sys2Proof.Machine

/-! ### The mover's queue -/

/-- What a move waits for at the head of the queue (R326, R400). -/
def MoveOp.waitsIn (o : MoveOp) (s : State) : Bool := o.srcs.any s.tensorWaits || s.destWaits o.dst

/-- The move at the head of the queue runs; the others stay behind it. -/
def State.moved (s : State) (core : Nat) (o : MoveOp) (rest : List MoveOp) : State × Flags :=
  (s.setCore core { s.core core with moverq := rest }).runMove core o

section
variable {s : State} {core : Nat} {o : MoveOp} {rest : List MoveOp}

theorem runMover_of_empty (hq : (s.core core).moverq = []) (n : Nat) : State.runMover n s core = s := by
  cases n with
  | zero => rfl
  | succ n => rw [State.runMover, hq]

variable (hq : (s.core core).moverq = o :: rest) (hsite : s.siteIssues (core / 8) = true)
include hq hsite

theorem runMover_of_waits (hwaits : o.waitsIn s = true) (n : Nat) :
    State.runMover (n + 1) s core = s.hostStall (8 * core + 2) := by
  rw [MoveOp.waitsIn] at hwaits
  simp only [State.runMover, hq, hsite, Bool.not_true, Bool.false_eq_true, if_false, hwaits, if_true]

theorem runMover_of_ready (hwaits : o.waitsIn s = false) (n : Nat) :
    State.runMover (n + 1) s core = State.runMover n
      (((s.moved core o rest).1.moveOwes core s.ncl.egress.length o).coreFlags core 6 0 (s.moved core o rest).2) core := by
  rw [MoveOp.waitsIn] at hwaits
  simp only [State.runMover, hq, hsite, Bool.not_true, Bool.false_eq_true, if_false, hwaits]
  rfl

end

/-! ### Moves that the host has still to acknowledge (R150, R399) -/

/-- A move whose writes are not all acknowledged joins those of its core. -/
theorem core_moveOwes_same (s : State) (core n : Nat) (o : MoveOp) :
    let t := s.moveOwes core n o
    t.core core = { s.core core with
      moves := if t.owed (.move core o.seq) then (s.core core).moves ++ [o] else (s.core core).moves } := by
  intro t
  by_cases howed : (s.ownWrites n (8 * core + 2) (.move core o.seq)).owed (.move core o.seq) = true
  · have ht : t = (s.ownWrites n (8 * core + 2) (.move core o.seq)).setCore core
        { s.core core with moves := (s.core core).moves ++ [o] } := if_pos howed
    rw [ht, core_setCore_same]
    exact congrArg (fun l => { s.core core with moves := l }) (if_pos howed).symm
  · have ht : t = s.ownWrites n (8 * core + 2) (.move core o.seq) := if_neg howed
    rw [ht]
    exact congrArg (fun l => { s.core core with moves := l }) (if_neg howed).symm

theorem mem_moveOwes (s : State) (core n : Nat) (o : MoveOp) : (s.moveOwes core n o).mem = s.mem := by
  unfold State.moveOwes
  dsimp only
  split <;> rfl

/-- A move that has put nothing into the egress buffer has no write there to take over. -/
theorem ownWrites_of_length {s : State} {n : Nat} (h : s.ncl.egress.length = n) (who : Nat) (own : WriteOwner) :
    s.ownWrites n who own = s := by
  subst h
  simp [State.ownWrites]

theorem ScratchWork.moveOwes {out : Nat → Prop} {s t : State} (h : ScratchWork out s t) {n : Nat}
    (hn : t.ncl.egress.length = n) (core : Nat) (o : MoveOp) : ScratchWork out s (t.moveOwes core n o) := by
  unfold State.moveOwes
  rw [ownWrites_of_length hn]
  dsimp only
  split
  · exact h.setCore ..
  · exact h

theorem ScratchWork.coreFlags {out : Nat → Prop} {s t : State} (h : ScratchWork out s t) (core unit detail : Nat) (f : Flags) :
    ScratchWork out s (t.coreFlags core unit detail f) :=
  h.trans (ofPriced ((PricedFrame.refl core t).coreFlags unit detail f))

/-! ### Handing a move over -/

theorem ScratchStill.ofPriced {core : Nat} {s t : State} (h : PricedFrame core s t) : ScratchStill core s t := by
  have hframe := h.1
  refine ⟨?_, ?_, ?_, fun _ => ?_⟩ <;> rw [hframe] <;> rfl

/-- A move is paid for and joins the mover's queue. -/
def State.handMove (s : State) (core : Nat) (o : MoveOp) : State :=
  let t := s.pay core (moveWork core o.srcs o.dst)
  t.setCore core { t.core core with moverq := (t.core core).moverq ++ [o] }

theorem pricedFrame_handMove (s : State) (core : Nat) (o : MoveOp) : PricedFrame core s (s.handMove core o) :=
  ((PricedFrame.refl core s).pay _).setCore _

theorem core_handMove_same (s : State) (core : Nat) (o : MoveOp) :
    (s.handMove core o).core core =
      { s.core core with seq := (s.core core).seq + 1, moverq := (s.core core).moverq ++ [o] } := by
  simp [State.handMove]

theorem waitsIn_of_priced {core : Nat} {s t : State} (h : PricedFrame core s t) (o : MoveOp) : o.waitsIn t = o.waitsIn s := by
  rw [h.1]; rfl

theorem siteIssues_of_presents {s : State} {core w : Nat} {op : CoreOp} (h : Presents s core op w) :
    s.siteIssues (core / 8) = true := by
  have hissues := h.1
  simp only [State.coreIssues, State.coreRuns, Bool.and_eq_true] at hissues
  exact hissues.1.2

theorem siteIssues_of_priced {core : Nat} {s t : State} (h : PricedFrame core s t) (site : Nat) :
    t.siteIssues site = s.siteIssues site := by
  rw [h.1]; rfl

/-- What keeps a move from being handed over (R123, R157, R159, R216). -/
def State.moveStalls (s : State) (core : Nat) (o : MoveOp) : BitVec 7 :=
  s.stallBits core o.pending (decide ((s.core core).moverq.length + (s.core core).moves.length < 16)) (moveWork core o.srcs o.dst)

/-- A move that nothing holds back is handed over with its issue number, and the mover's queue runs. -/
theorem moveIssue_of_free {s : State} {core : Nat} {o : MoveOp} (hseq : o.seq = (s.core core).seq)
    (hfree : s.moveStalls core o = 0) :
    s.moveIssue core { o with seq := 0 } = .go ((s.handMove core o).runMover 16 core) (s.nextPc core) := by
  have hwhy : s.moveStalls core { o with seq := 0 } = 0 := hfree
  unfold State.moveStalls at hwhy
  simp only [State.moveIssue, hwhy, ne_eq, not_true_eq_false, if_false, ← hseq]
  rfl

/-! ### Issue -/

/-- What every COPY and COMBINE that issues leaves of the state: its core's flags, prefetchers and moves may change. -/
def MoveIssued (s t : State) (core : Nat) : Prop :=
  Issued s t core { s.core core with
      sticky := (t.core core).sticky, prefetchers := (t.core core).prefetchers, moverq := (t.core core).moverq
      moves := (t.core core).moves }
    ∧ t.engines = s.engines ∧ t.tokens = s.tokens ∧ (s.upsets = [] → t.regs = s.regs) ∧ t.blocks = s.blocks ∧ t.flash = s.flash

section
variable {s u : State} {core w next : Nat} {op : CoreOp} {run : State → Nat → Issue} (h : Presents s core op w)
  (hrun : run s w = .go u next)
include h hrun

theorem core_issue_of_go :
    (s.issue core op run).core core = { u.core core with pc := BitVec.ofNat 48 next, held := false } := by
  rw [issue_of_presents h hrun]
  exact core_setCore_same ..

theorem core_issue_of_go_ne {n : Nat} (hn : n ≠ core) : (s.issue core op run).core n = u.core n := by
  rw [issue_of_presents h hrun]
  exact core_setCore_ne _ core n _ hn

theorem issue_frame_of_go :
    s.issue core op run =
      { u with cores := (s.issue core op run).cores, counters := (s.issue core op run).counters } := by
  rw [issue_of_presents h hrun]
  rfl

end

section
variable {s u : State} {core w : Nat} {op : CoreOp} {o : MoveOp} (h : Presents s core op w)
  (hu : (s.handMove core o).runMover 16 core = u) (hq : (s.core core).moverq = [])
include h hu hq

/-- A move that waits for the host stays in the queue. -/
theorem ran_of_waits (hwaits : o.waitsIn s = true) : u = (s.handMove core o).hostStall (8 * core + 2) := by
  have hpriced := pricedFrame_handMove s core o
  have hhand := core_handMove_same s core o
  rw [hq] at hhand
  exact hu.symm.trans (runMover_of_waits (rest := []) (by rw [hhand]; rfl)
    ((siteIssues_of_priced hpriced _).trans (siteIssues_of_presents h)) ((waitsIn_of_priced hpriced o).trans hwaits) 15)
/-- A move that waits for nothing runs at once, and the queue is empty again. -/
theorem ran_of_ready (hready : o.waitsIn s = false) :
    u = ((((s.handMove core o).moved core o []).1.moveOwes core (s.handMove core o).ncl.egress.length o).coreFlags core 6 0
      ((s.handMove core o).moved core o []).2) := by
  have hpriced := pricedFrame_handMove s core o
  have hhand := core_handMove_same s core o
  rw [hq] at hhand
  have hstep := runMover_of_ready (rest := []) (by rw [hhand]; rfl)
    ((siteIssues_of_priced hpriced _).trans (siteIssues_of_presents h)) ((waitsIn_of_priced hpriced o).trans hready) 15
  have hwork : MoveWork core ((s.handMove core o).setCore core { (s.handMove core o).core core with moverq := [] })
      ((s.handMove core o).moved core o []).1 :=
    (MoveWork.refl core _).runMove o
  refine hu.symm.trans (hstep.trans (runMover_of_empty ?_ 15))
  rw [core_coreFlags_same, core_moveOwes_same]
  exact hwork.queue.trans (by rw [core_setCore_same])

end

section
variable {s u : State} {core w : Nat} {op : CoreOp} {run : State → Nat → Issue} {o : MoveOp} (h : Presents s core op w)
  (hrun : run s w = .go u (s.nextPc core)) (hu : (s.handMove core o).runMover 16 core = u)
include h hrun hu

/-- Whatever moves the mover then makes. -/
theorem moveIssued_of_handed : MoveIssued s (s.issue core op run) core := by
  have hwork : MoverWork core (s.handMove core o) u := hu ▸ (MoverWork.refl core _).runMover 16
  obtain ⟨hframe, hothers⟩ := pricedFrame_handMove s core o
  have hhand := core_handMove_same s core o
  generalize s.handMove core o = v at hwork hframe hothers hhand
  refine ⟨⟨?_, fun n hn => ?_⟩, ?_⟩
  · rw [core_issue_of_go h hrun, hwork.own, hhand]
  · exact (core_issue_of_go_ne h hrun hn).trans ((hwork.others n hn).trans (hothers n hn))
  · obtain ⟨⟨hengines, htokens⟩, ⟨hblocks, hflash⟩, hclean⟩ := And.intro hwork.units (And.intro hwork.device hwork.clean)
    rw [hframe] at hengines htokens hblocks hflash hclean
    rw [issue_frame_of_go h hrun]
    exact ⟨hengines, htokens, fun hup => (hclean hup).2, hblocks, hflash⟩

variable (hq : (s.core core).moverq = [])
include hq

/-- A move that waits for the host stands alone in the mover's queue; nothing else but its price changes. -/
theorem issue_of_move_waits (hwaits : o.waitsIn s = true) :
    let t := s.issue core op run
    Issued s t core { s.core core with moverq := [o] }
      ∧ t = { paidFrame s t with
          cores := t.cores, ncl := { s.ncl with waiting := setAdd s.ncl.waiting (8 * core + 2) } } := by
  intro t
  obtain ⟨hframe, hothers⟩ := pricedFrame_handMove s core o
  have hhand := core_handMove_same s core o
  have hstalled := ran_of_waits h hu hq hwaits
  rw [hq] at hhand
  generalize s.handMove core o = v at hhand hstalled hframe hothers
  subst hstalled
  refine ⟨⟨?_, fun n hn => ?_⟩, ?_⟩
  · rw [core_issue_of_go h hrun, show (v.hostStall (8 * core + 2)).core core = _ from hhand]
    rfl
  · exact (core_issue_of_go_ne h hrun hn).trans (hothers n hn)
  · have ht : t = _ := issue_frame_of_go h hrun
    rw [ht, hframe]
    rfl

variable (hready : o.waitsIn s = false)
include hready

/-- Then it is complete unless the host has still to acknowledge writes of it (R150, R399). -/
theorem moves_of_move_runs :
    let t := s.issue core op run
    (t.core core).moverq = [] ∧ (t.core core).moves =
      if t.owed (.move core o.seq) then (s.core core).moves ++ [o] else (s.core core).moves := by
  intro t
  have hran := ran_of_ready h hu hq hready
  have hhand := core_handMove_same s core o
  generalize s.handMove core o = v at hran hhand
  have hwork : MoveWork core (v.setCore core { v.core core with moverq := [] }) (v.moved core o []).1 :=
    (MoveWork.refl core _).runMove o
  generalize v.moved core o [] = p at hran hwork
  have hmoves : (p.1.core core).moves = (s.core core).moves := by
    rw [hwork.unacknowledged, core_setCore_same, hhand]
  have hflags := ((PricedFrame.refl core (p.1.moveOwes core v.ncl.egress.length o)).coreFlags 6 0 p.2).1
  have hcore : u.core core = _ := hran ▸ core_coreFlags_same (p.1.moveOwes core v.ncl.egress.length o) core 6 0 p.2
  have howed : t.owed (.move core o.seq) = (p.1.moveOwes core v.ncl.egress.length o).owed (.move core o.seq) := by
    rw [← hran] at hflags
    have ht : t = _ := issue_frame_of_go h hrun
    rw [ht, hflags]
    rfl
  rw [howed, show t.core core = _ from core_issue_of_go h hrun, hcore, core_moveOwes_same, hmoves]
  exact ⟨hwork.queue.trans (by rw [core_setCore_same]), rfl⟩

/-- If its own work touches the scratchpad alone, so does the whole instruction, beside its price. -/
theorem scratchWork_of_move_runs {out : Nat → Prop}
    (hwork : ∀ {v : State}, ScratchWork out s v → ScratchWork out s (v.runMove core o).1) :
    ScratchWork out s (s.issue core op run) := by
  have hran := ran_of_ready h hu hq hready
  have hhanded : ScratchWork out s (s.handMove core o) := .ofPriced (pricedFrame_handMove s core o)
  generalize s.handMove core o = v at hran hhanded
  have hmoved : ScratchWork out s (v.moved core o []).1 := hwork (hhanded.setCore ..)
  generalize v.moved core o [] = p at hran hmoved
  have hncl : p.1.ncl = v.ncl := by
    rw [hmoved.frame, hhanded.frame]
    rfl
  have howes := hmoved.moveOwes (congrArg (·.egress.length) hncl) core o
  rw [issue_of_presents h hrun, hran]
  exact ((howes.coreFlags core 6 0 p.2).setCore ..).count ..

/-- Memory is as the move's own work leaves it, from a state in which the scratchpad stands as before. -/
theorem mem_of_move_runs :
    ∃ v, ScratchStill core s v ∧ v.regs = s.regs ∧ (s.issue core op run).mem = (v.runMove core o).1.mem := by
  have hran := ran_of_ready h hu hq hready
  have hpriced := pricedFrame_handMove s core o
  generalize s.handMove core o = v at hran hpriced
  have hready := hpriced.setCore { v.core core with moverq := [] }
  refine ⟨_, .ofPriced hready, ?_, ?_⟩
  · rw [hready.1]
    rfl
  · have hflags := (ScratchStill.ofPriced ((PricedFrame.refl core
      ((v.moved core o []).1.moveOwes core v.ncl.egress.length o)).coreFlags 6 0 (v.moved core o []).2)).mem
    rw [← hran, mem_moveOwes] at hflags
    rw [issue_frame_of_go h hrun]
    exact hflags

end

end Sys2Proof.Machine
end

section
/-! COPY and COMBINE: what their checks let through, and O31 (R117, R134, R148, R149). -/

namespace Sys2Proof.Machine

/-! ### What a move that runs at once leaves -/

/-- A move within the scratchpad: beside its price and its core it changes banks and stored words alone, and no byte outside
what its destination reaches. -/
def StaysInside (s t : State) (core : Nat) (dst : Tensor) : Prop :=
  t = { paidFrame s t with cores := t.cores, banks := t.banks, mem := t.mem, poison := t.poison, upsets := t.upsets }
    ∧ ∀ lo hi, dst.all = some (lo, hi) → ∀ k, (k < scratchKey core lo.toNat ∨ scratchKey core hi.toNat ≤ k) → sameByte s t k

theorem staysInside_of_scratchWork {s t : State} {core : Nat} {dst : Tensor} (hcheck : moveCheck dst = [])
    (hdst : dst.physical = false) (hwork : ∀ out, dst.Misses core out → ScratchWork out s t) : StaysInside s t core dst := by
  refine ⟨(hwork _ (dst.misses_false core)).frame, fun lo hi hall k hk => ?_⟩
  have hin := inScratch_of_moveCheck hcheck hdst
  rw [hall] at hin
  simp only [inScratch, Bool.and_eq_true, decide_eq_true_eq] at hin
  exact (hwork _ (dst.misses_outside core hall hin.1)).sameByte hk

/-- Element i of a destination line holds a value, converted. -/
def LineShows (t : State) (core : Nat) (o : MoveOp) (i : Nat) (v : FVal) : Prop :=
  ∀ j, j < o.dst.esize → Map.get t.mem (scratchKey core (o.dst.addr i 0 0 0).toNat + j) unlistedByte = BitVec.ofNat 8
    ((convertScaled v (o.dst.format.getD .fp32) o.dst.scale o.truncate o.satMode).1 / 256 ^ j)

theorem extent_of_sameShape {x y : Tensor} (h : sameShape x y = true) {i : Nat} (hi : i < 4) : x.extent i = y.extent i := by
  simp only [sameShape, Bool.and_eq_true, List.all_eq_true, beq_iff_eq] at h
  exact h.2 i (List.mem_range.2 hi)

/-! ### COPY (R148) -/

section
variable {s : State} {core : CoreIx} {w : Nat}

theorem exec_copy_of_no_slot (h : Presents s core .copy w)
    (hslot : (s.core core).slot (bitsOf w 32 8) = none ∨ (s.core core).slot (bitsOf w 40 8) = none) :
    exec (.copy core) s = .next (s.refuse core 3) := by
  refine congrArg Host.Outcome.next (issue_of_refused h ?_)
  unfold doCopy
  dsimp only
  rcases hslot with hslot | hslot
  · rw [hslot]
  · rw [hslot]
    split
    · next heq => cases heq
    · rfl

variable {sd dd : Nat} (hsd : (s.core core).slot (bitsOf w 32 8) = some sd) (hdd : (s.core core).slot (bitsOf w 40 8) = some dd)
include hsd hdd

/-- A COPY whose descriptors pass their checks is handed to the mover. -/
theorem doCopy_of_checked (hsrc : moveCheck ((s.core core).tensor sd) = []) (hdst : moveCheck ((s.core core).tensor dd) = [])
    (hshape : sameShape ((s.core core).tensor sd) ((s.core core).tensor dd) = true)
    (hfmt : (((s.core core).tensor sd).is4 = false ∧ ((s.core core).tensor dd).is4 = false)
      ∨ ((s.core core).tensor sd).fmt = ((s.core core).tensor dd).fmt) :
    doCopy core s w = s.moveIssue core
      { seq := 0, srcs := [(s.core core).tensor sd], dst := (s.core core).tensor dd, combine := none, truncate := bitOf w 8
        satMode := (s.core core).satMode } := by
  have hform : ((!((s.core core).tensor sd).is4 && !((s.core core).tensor dd).is4)
      || ((s.core core).tensor sd).fmt == ((s.core core).tensor dd).fmt) = true := by
    rcases hfmt with ⟨h1, h2⟩ | heq
    · simp [h1, h2]
    · simp [heq]
  simp only [doCopy, hsd, hdd, hsrc, hdst, hshape, hform, Bool.and_self, if_true, List.append_nil, leastCode]

end

/-- What the work of a COPY of lines leaves, from a state whose scratchpad stands as in `s`. -/
theorem lineShows_of_runCopy {s v t : State} {core : Nat} {o : MoveOp} {src : Tensor} (hstill : ScratchStill core s v)
    (hmem : t.mem = (v.runCopy core o src).1.mem) (hserves : scratchServes s core) (hup : s.upsets = [])
    (hwf : Memory.wf s.mem = true) (hdst : o.dst.IsLine) (hsrc : src.IsLine) {i : Nat} (hi : i < src.extent 0) :
    LineShows t core o i
      (widenVal (src.format.getD .fp32) (leNat (s.lineElem core src i).data) src.scale o.satMode).1 := by
  intro j hj
  rw [hmem, get_runCopy_of_isLine (hstill.scratchServes hserves) (hstill.upsets.trans hup) (by rwa [hstill.mem]) hdst hsrc hi hj,
    hstill.lineElem]

/-! ### COMBINE (R117, R149) -/

/-- What the work of a sequential COMBINE of two lines leaves, from a state whose scratchpad stands as in `s`. -/
theorem lineShows_of_runCombine {s v t : State} {core : Nat} {o : MoveOp} {p q : Tensor} (hstill : ScratchStill core s v)
    (hregs : v.regs = s.regs) (hmem : t.mem = (v.runCombine core o false 2 false).1.mem) (hserves : scratchServes s core)
    (hup : s.upsets = []) (hwf : Memory.wf s.mem = true) (hdst : o.dst.IsLine) (hp : p.IsLine) (hq : q.IsLine)
    (hsrcs : o.srcs = [p, q]) {i : Nat} (hi : i < o.dst.extent 0) (hpi : o.dst.extent 0 = p.extent 0)
    (hqi : o.dst.extent 0 = q.extent 0) :
    let part (x : Tensor) : Res := widenBits .fp32 (leNat (s.lineElem core x i).data) x.scale o.satMode
    LineShows t core o i (f32 (accAdd (decide (s.fld (bEng (4 * core)) 0x100 0 1 = 1)) (part p) (part q)).1) := by
  intro part j hj
  have hfld : v.fld (bEng (4 * core)) 0x100 0 1 = s.fld (bEng (4 * core)) 0x100 0 1 := by
    rw [State.fld, State.reg, hregs]
    rfl
  have hsum := get_runCombine_of_two_lines (hstill.scratchServes hserves) (hstill.upsets.trans hup) (by rwa [hstill.mem]) hdst
    hp hq hsrcs hi hpi hqi hj
  rw [hfld] at hsum
  simp only [hstill.lineElem] at hsum
  rw [hmem, hsum]

/-- The number of parts that a COMBINE reads (R149). -/
abbrev combinePresent (w : Nat) : Nat := Nat.min (bitsOf w 13 3 + 1) (bitsOf w 10 3 + 1)

/-- The parts, from the descriptors `pd`. -/
def combineParts (c : Core) (w : Nat) (pd : Nat → Nat) : List Tensor :=
  (List.range (combinePresent w)).map fun i => c.tensor (pd i)

/-- The sources: the parts, and the addend where there is one. -/
def combineSrcs (c : Core) (w : Nat) (pd : Nat → Nat) (ad : Nat) : List Tensor :=
  combineParts c w pd ++ (if bitOf w 16 then [c.tensor ad] else [])

/-- What the checks ask of the numbers of parts, of a tree and of a sequential sum (R149). -/
def CombineCounts (w : Nat) : Prop :=
  if bitOf w 9 then (bitsOf w 10 3 + 1 = 2 ∨ bitsOf w 10 3 + 1 = 4 ∨ bitsOf w 10 3 + 1 = 8)
      ∧ bitsOf w 13 3 + 1 ≤ bitsOf w 10 3 + 1
    else bitsOf w 13 3 + 1 = bitsOf w 10 3 + 1

theorem CombineCounts.passes {w : Nat} (h : CombineCounts w) :
    (if bitOf w 9 then (bitsOf w 10 3 + 1 == 2 || bitsOf w 10 3 + 1 == 4 || bitsOf w 10 3 + 1 == 8)
      && decide (bitsOf w 13 3 + 1 ≤ bitsOf w 10 3 + 1) else bitsOf w 13 3 + 1 == bitsOf w 10 3 + 1) = true := by
  unfold CombineCounts at h
  split
  · next htree => rw [if_pos htree] at h; simpa [or_assoc] using h
  · next htree => rw [if_neg htree] at h; simpa using h

theorem combineSrcs_of_two (c : Core) {w ad : Nat} {pd : Nat → Nat} (hadd : bitOf w 16 = false) (htree : bitOf w 9 = false)
    (htwo : bitsOf w 10 3 + 1 = 2) (hcount : CombineCounts w) :
    combineSrcs c w pd ad = [c.tensor (pd 0), c.tensor (pd 1)] := by
  rw [CombineCounts, htree, if_neg Bool.false_ne_true] at hcount
  rw [combineSrcs, combineParts, combinePresent, hcount, htwo, hadd]
  rfl

section
variable {s : State} {core : CoreIx} {w : Nat} {pd : Nat → Nat} {dd ad : Nat}

/-- The slots of the parts as the checks look them up. -/
theorem combineSlots_eq (hparts : ∀ i, i < combinePresent w →
      bitsOf w 32 8 + i ≤ 255 ∧ (s.core core).slot (bitsOf w 32 8 + i) = some (pd i)) :
    ((List.range (combinePresent w)).map fun i =>
      if bitsOf w 32 8 + i ≤ 255 then (s.core core).slot (bitsOf w 32 8 + i) else none)
        = (List.range (combinePresent w)).map fun i => some (pd i) :=
  List.map_congr_left fun i hi => by
    obtain ⟨hle, hslot⟩ := hparts i (List.mem_range.1 hi)
    rw [if_pos hle, hslot]

/-- A COMBINE whose descriptors pass their checks is handed to the mover. -/
theorem doCombine_of_checked
    (hparts : ∀ i, i < combinePresent w →
      bitsOf w 32 8 + i ≤ 255 ∧ (s.core core).slot (bitsOf w 32 8 + i) = some (pd i))
    (hdd : (s.core core).slot (bitsOf w 40 8) = some dd)
    (had : bitOf w 16 = true → (s.core core).slot (bitsOf w 48 8) = some ad)
    (hsrcs : ∀ x ∈ combineSrcs (s.core core) w pd ad,
      moveCheck x = [] ∧ x.fmt = 5 ∧ sameShape x ((s.core core).tensor (pd 0)) = true)
    (hdst : moveCheck ((s.core core).tensor dd) = [])
    (hshape : sameShape ((s.core core).tensor dd) ((s.core core).tensor (pd 0)) = true)
    (h4 : ((s.core core).tensor dd).is4 = false) (htwo : 2 ≤ bitsOf w 10 3 + 1) (hcount : CombineCounts w) :
    doCombine core s w = s.moveIssue core
      { seq := 0, srcs := combineSrcs (s.core core) w pd ad, dst := (s.core core).tensor dd
        combine := some (bitOf w 9, bitsOf w 10 3 + 1, bitOf w 16), truncate := bitOf w 8
        satMode := (s.core core).satMode } := by
  have hps : ((List.range (combinePresent w)).map fun i => some (pd i)).map
      (fun o => (s.core core).tensor (o.getD 0)) = combineParts (s.core core) w pd := by
    rw [List.map_map]
    rfl
  have hfirst : (combineParts (s.core core) w pd).getD 0 ((s.core core).tensor dd) = (s.core core).tensor (pd 0) := by
    simp [combineParts, List.getD_eq_getElem?_getD]
  have hall : combineParts (s.core core) w pd ++ (if bitOf w 16 then
      [(s.core core).tensor ((if bitOf w 16 then (s.core core).slot (bitsOf w 48 8) else some 0).getD 0)] else [])
        = combineSrcs (s.core core) w pd ad := by
    unfold combineSrcs
    split
    · next hadd => rw [had hadd]; rfl
    · rfl
  have hslots : (((List.range (combinePresent w)).map fun i => some (pd i)).all (·.isSome)
      && (some dd).isSome && (if bitOf w 16 then (s.core core).slot (bitsOf w 48 8) else some 0).isSome) = true := by
    split
    · next hadd => simp [had hadd]
    · simp
  have hchecks : (combineSrcs (s.core core) w pd ad).flatMap moveCheck = [] := by
    rw [List.flatMap_eq_nil_iff]
    exact fun x hx => (hsrcs x hx).1
  have hforms : (combineSrcs (s.core core) w pd ad).all
      (fun x => x.fmt == 5 && sameShape x ((s.core core).tensor (pd 0))) = true := by
    rw [List.all_eq_true]
    intro x hx
    obtain ⟨-, hfmt, hsame⟩ := hsrcs x hx
    simp [hfmt, hsame]
  unfold doCombine
  dsimp only
  rw [combineSlots_eq hparts, hdd, hps, Option.getD_some, hfirst, hall, hslots, hchecks, hdst, hforms, hshape, h4,
    hcount.passes]
  simp only [htwo, decide_true, Bool.not_false, Bool.and_self, if_true, List.append_nil, leastCode]

end

/-! ### O31 -/

/-- Settles O31: a move whose descriptors pass their checks is handed to the mover (`moveIssue_of_free`), whose work is
`MoverWork`; within the scratchpad it is `ScratchWork`, and lines read as they stand and show the converted values. -/
theorem movesReadAllThenWrite : Obligations.MovesReadAllThenWrite := by
  unfold Obligations.MovesReadAllThenWrite
  intro s core w c moved stalls waits queued done inside plain elem shows
  refine ⟨fun h => ⟨exec_copy_of_no_slot h, ?copy⟩, fun h => ?combine⟩
  case copy =>
    intro sd dd hsd hdd src dst hsrc hdst hshape hfmt o hfree
    have hgo : doCopy core s w = .go ((s.handMove core o).runMover 16 core) (s.nextPc core) :=
      (doCopy_of_checked hsd hdd hsrc hdst hshape hfmt).trans (moveIssue_of_free (o := o) rfl hfree)
    have hext : ∀ i, i < 4 → dst.extent i = src.extent i := fun i hi => (extent_of_sameShape hshape hi).symm
    have h4 : dst.is4 = src.is4 := by
      rcases hfmt with ⟨hs4, hd4⟩ | heq
      · rw [hs4, hd4]
      · rw [Tensor.is4, Tensor.is4, heq]
    refine ⟨fun _ => ⟨_, rfl, moveIssued_of_handed h hgo rfl⟩,
      fun hq hwaits => ⟨_, rfl, issue_of_move_waits h hgo rfl hq hwaits⟩,
      fun hq hready => ⟨_, rfl, moveIssued_of_handed h hgo rfl, moves_of_move_runs h hgo rfl hq hready, fun hnear hdnear => ?_,
        fun ⟨hs, hs4, hs1⟩ ⟨hd, hd4, hd1⟩ hserves ⟨hup, _⟩ hwf i hi _ => ?_⟩⟩
    · exact staysInside_of_scratchWork hdst hdnear fun out hmiss => scratchWork_of_move_runs h hgo rfl hq hready
        fun hv => hv.runCopy (hnear src (List.mem_singleton_self _)) hdnear h4 (fun i hi => hext i (by omega)) hmiss
    · have hpos : 0 < dst.extent 0 := Nat.zero_lt_of_lt hi
      rw [hext 0 (by decide)] at hi
      obtain ⟨v, hstill, -, hmem⟩ := mem_of_move_runs h hgo rfl hq hready
      exact lineShows_of_runCopy (o := o) hstill hmem hserves hup hwf (isLine_of_moveCheck hdst hd hd4 hd1 hpos)
        (isLine_of_moveCheck hsrc hs hs4 hs1 (Nat.zero_lt_of_lt hi)) hi
  case combine =>
    intro tree parts present pdesc pd dd ad hparts hdd had ps dst srcs hsrcs hdst hshape h4 htwo hcount o hfree
    have hgo : doCombine core s w = .go ((s.handMove core o).runMover 16 core) (s.nextPc core) :=
      (doCombine_of_checked hparts hdd had hsrcs hdst hshape h4 htwo hcount).trans (moveIssue_of_free (o := o) rfl hfree)
    refine ⟨fun _ => ⟨_, rfl, moveIssued_of_handed h hgo rfl⟩,
      fun hq hwaits => ⟨_, rfl, issue_of_move_waits h hgo rfl hq hwaits⟩,
      fun hq hready => ⟨_, rfl, moveIssued_of_handed h hgo rfl, moves_of_move_runs h hgo rfl hq hready, fun hnear hdnear => ?_,
        fun hadd htree hcount2 ⟨hp, hp4, hp1⟩ ⟨hq', hq4, hq1⟩ ⟨hd, hd4, hd1⟩ hserves ⟨hup, _⟩ hwf i hi _ _ => ?_⟩⟩
    · exact staysInside_of_scratchWork hdst hdnear fun out hmiss => scratchWork_of_move_runs h hgo rfl hq hready
        fun hv => hv.runCombine hnear hdnear h4 hmiss ..
    · have hsrcs2 : srcs = [c.tensor (pd 0), c.tensor (pd 1)] := combineSrcs_of_two c hadd htree hcount2 hcount
      have hext := fun {x : Tensor} (hx : x ∈ srcs) =>
        (extent_of_sameShape hshape (i := 0) (by decide)).trans (extent_of_sameShape (hsrcs x hx).2.2 (i := 0) (by decide)).symm
      have hmem0 : c.tensor (pd 0) ∈ srcs := by simp [hsrcs2]
      have hmem1 : c.tensor (pd 1) ∈ srcs := by simp [hsrcs2]
      have hpos : 0 < dst.extent 0 := Nat.zero_lt_of_lt hi
      obtain ⟨v, hstill, hregs, hmem⟩ := mem_of_move_runs h hgo rfl hq hready
      have hsum : (s.issue core .combine (doCombine core)).mem =
          (v.runCombine core o (bitOf w 9) (bitsOf w 10 3 + 1) (bitOf w 16)).1.mem := hmem
      rw [show bitOf w 9 = false from htree, show bitsOf w 10 3 + 1 = 2 from hcount2, hadd] at hsum
      exact lineShows_of_runCombine (o := o) hstill hregs hsum hserves hup hwf (isLine_of_moveCheck hdst hd hd4 hd1 hpos)
        (isLine_of_moveCheck (hsrcs _ hmem0).1 hp hp4 hp1 (hext hmem0 ▸ hpos))
        (isLine_of_moveCheck (hsrcs _ hmem1).1 hq' hq4 hq1 (hext hmem1 ▸ hpos)) hsrcs2 hi (hext hmem0) (hext hmem1)

end Sys2Proof.Machine
end

section
/-! The sequencer of a core: every instruction row is `State.issue` of its operation; what fetching ahead leaves of what the
sequencer tests; the instruction that it then has before it, refused, waited for or presented (R125 to R129, R135, R137). -/

namespace Sys2Proof.Machine

/-- An instruction row presents its operation to the sequencer. -/
theorem exec_of_mem_coreRows {core : CoreIx} {row : Instr × CoreOp} (h : row ∈ Sys2Proof.coreRows core) (s : State) :
    exec row.1 s = .next (s.issue core row.2 (row.2.run core)) := by
  unfold Sys2Proof.coreRows at h
  fin_cases h <;> rfl

/-! ### What fetching ahead leaves (R125, R128) -/

/-- From `s` to `t` nothing changes of what decides whether core `core` runs and issues, and of its state nothing but
prefetchers and words fetched ahead. -/
structure FetchWork (core : Nat) (s t : State) : Prop where
  own : t.core core = { s.core core with
    prefetchers := (t.core core).prefetchers, aheadBase := (t.core core).aheadBase, ahead := (t.core core).ahead }
  gates : t.blocks = s.blocks ∧ t.sites = s.sites ∧ t.power = s.power

namespace FetchWork

variable {core : Nat} {s t u : State}

theorem refl (core : Nat) (s : State) : FetchWork core s s := ⟨rfl, rfl, rfl, rfl⟩

theorem access (h : FetchWork core s t) (k : FabricAccess t u) : FetchWork core s u := by
  have hcore : u.core core = t.core core := by rw [k.frame]; rfl
  refine ⟨by rw [hcore]; exact h.own, ?_⟩
  rw [k.frame]
  exact h.gates

/-- The core takes new prefetchers and words. -/
theorem setCore (h : FetchWork core s t) {c : Core}
    (hc : c = { t.core core with prefetchers := c.prefetchers, aheadBase := c.aheadBase, ahead := c.ahead }) :
    FetchWork core s (t.setCore core c) := by
  refine ⟨?_, h.gates⟩
  rw [core_setCore_same]
  rw [h.own] at hc
  exact hc

theorem prefetchAdvance (h : FetchWork core s t) (a n : Nat) : FetchWork core s (t.prefetchAdvance core a n) := by
  unfold State.prefetchAdvance
  split
  · exact h
  · refine List.foldlRecOn (motive := FetchWork core s) _ _ h fun v hv e _ => ?_
    split
    · dsimp only
      split
      · exact hv
      · exact (hv.access ((FabricAccess.refl v).prefetchTo ..)).setCore rfl
    · exact hv

theorem fetchAhead (core : Nat) (s : State) : FetchWork core s (s.fetchAhead core) := by
  unfold State.fetchAhead
  dsimp only
  split
  · exact refl core s
  · split
    · exact (refl core s).access ((FabricAccess.refl s).setNcl _)
    · exact (((refl core s).prefetchAdvance ..).access ((FabricAccess.refl _).cachedRead ..)).setCore rfl

theorem coreRuns (h : FetchWork core s t) : t.coreRuns core = s.coreRuns core := by
  obtain ⟨hblocks, hsites, hpower⟩ := h.gates
  unfold State.coreRuns State.isEnabled State.blk State.siteIssues State.siteReachable State.site
  rw [h.own, hblocks, hsites, hpower]

theorem coreIssues (h : FetchWork core s t) : t.coreIssues core = s.coreIssues core := by
  rw [State.coreIssues, h.coreRuns, h.own]
  rfl

end FetchWork

/-! ### When the sequencer fetches -/

section
variable {s : State} {core : Nat}

theorem coreIssues_iff : s.coreIssues core = true ↔ s.coreRuns core = true ∧ (s.core core).waiting = none := by
  simp [State.coreIssues]

theorem fetchAhead_of_idle (h : s.coreRuns core = false) : s.fetchAhead core = s := by simp [State.fetchAhead, h]

theorem fetchAhead_of_past_end (h : (s.core core).insnCount ≤ (s.core core).pc.toNat) : s.fetchAhead core = s := by
  simp [State.fetchAhead, h]

theorem fetchAhead_of_wordAt (h : (s.core core).wordAt (s.core core).pc.toNat ≠ none) : s.fetchAhead core = s := by
  simp [State.fetchAhead, Option.isSome_iff_ne_none.2 h]

section
variable (hruns : s.coreRuns core = true) (hin : (s.core core).pc.toNat < (s.core core).insnCount)
  (habsent : (s.core core).wordAt (s.core core).pc.toNat = none)
include hruns hin habsent

/-- The words that the next fetch brings lie at CORE_PC: address and length. -/
theorem fetchAhead_of_absent :
    let c := s.core core
    let n := min 64 (c.insnCount - c.pc.toNat)
    let a := c.insnBase + 16 * c.pc.toNat
    let r := (s.prefetchAdvance core a (16 * n)).cachedRead (8 * core) core a (16 * n)
    s.fetchAhead core = if s.hostWaits a (16 * n) then s.hostStall (8 * core)
      else r.1.setCore core { r.1.core core with aheadBase := c.pc.toNat, ahead := wordsIn n r.2 } := by
  exact if_neg (by simp [hruns, habsent, hin])

theorem wordAt_fetchAhead (hcame : s.hostWaits ((s.core core).insnBase + 16 * (s.core core).pc.toNat)
      (16 * min 64 ((s.core core).insnCount - (s.core core).pc.toNat)) = false) :
    ((s.fetchAhead core).core core).wordAt (s.core core).pc.toNat ≠ none := by
  have hsome : 0 < min 64 ((s.core core).insnCount - (s.core core).pc.toNat) := by omega
  rw [fetchAhead_of_absent hruns hin habsent, hcame, if_neg Bool.false_ne_true, core_setCore_same]
  simp [Core.wordAt, wordsIn, hsome]

end

/-! ### What the sequencer has before it (R128, R129, R137) -/

theorem fetched_of_past_end (hruns : s.coreRuns core = true) (h : (s.core core).insnCount ≤ (s.core core).pc.toNat) :
    s.fetched core = .refused 8 := by simp [State.fetched, hruns, h]

section
variable (hruns : s.coreRuns core = true) (hin : (s.core core).pc.toNat < (s.core core).insnCount)
include hruns hin

theorem fetched_of_absent (h : (s.core core).wordAt (s.core core).pc.toNat = none) : s.fetched core = .absent := by
  simp [State.fetched, hruns, hin, h]

theorem fetched_of_poison {w : Nat} (h : (s.core core).wordAt (s.core core).pc.toNat = some (w, true)) :
    s.fetched core = .refused 2 := by
  simp [State.fetched, hruns, hin, h]

theorem fetched_of_listed {w : Nat} {op : CoreOp} (h : (s.core core).wordAt (s.core core).pc.toNat = some (w, false))
    (hop : opOf w = some op) : s.fetched core = .word w := by
  simp [State.fetched, hruns, hin, h, hop]

theorem fetched_of_unlisted {w : Nat} (h : (s.core core).wordAt (s.core core).pc.toNat = some (w, false))
    (hop : opOf w = none) : s.fetched core = .refused 2 := by
  simp [State.fetched, hruns, hin, h, hop]

end

/-! ### What becomes of it (R135) -/

variable {op : CoreOp} {run : State → Nat → Issue}

theorem issue_of_not_issues (h : s.coreIssues core = false) : s.issue core op run = s.fetchAhead core := by
  simp [State.issue, (FetchWork.fetchAhead core s).coreIssues, h]

theorem issue_fetchAhead (h : (s.fetchAhead core).fetchAhead core = s.fetchAhead core) :
    s.issue core op run = (s.fetchAhead core).issue core op run := by
  rw [State.issue, State.issue, h]

theorem issue_of_other_word {w : Nat} {op' : CoreOp} (hw : s.fetched core = .word w) (hop : opOf w = some op')
    (hne : op' ≠ op) : s.issue core op run = s := by
  have hother : opOf w ≠ some op := by simpa [hop] using hne
  unfold State.issue
  dsimp only
  rw [fetchAhead_of_fetched hw, hw]
  split
  · rfl
  · exact if_pos hother

theorem issue_of_fetched_refused {code : Nat} (hissues : s.coreIssues core = true) (hahead : s.fetchAhead core = s)
    (hcode : s.fetched core = .refused code) : s.issue core op run = s.refuse core code := by
  simp [State.issue, hahead, hissues, hcode]

theorem issue_of_host_waits (hissues : s.coreIssues core = true)
    (hin : (s.core core).pc.toNat < (s.core core).insnCount)
    (habsent : (s.core core).wordAt (s.core core).pc.toNat = none)
    (hwaits : s.hostWaits ((s.core core).insnBase + 16 * (s.core core).pc.toNat)
      (16 * min 64 ((s.core core).insnCount - (s.core core).pc.toNat)) = true) :
    s.issue core op run = s.hostStall (8 * core) := by
  have hruns := (coreIssues_iff.1 hissues).1
  have hahead : s.fetchAhead core = s.hostStall (8 * core) := by
    rw [fetchAhead_of_absent hruns hin habsent, hwaits, if_pos rfl]
  have hfetched : (s.hostStall (8 * core)).fetched core = .absent := fetched_of_absent (s := s) hruns hin habsent
  have hstalled : (s.hostStall (8 * core)).coreIssues core = true := hissues
  simp [State.issue, hahead, hstalled, hfetched]

/-- A refusal stops the core with the code and the index, and leaves memory, engines and the other cores. -/
theorem refuse_stops (s : State) (core code : Nat) :
    (s.refuse core code).core core = { s.core core with
        stopped := true, stopCode := BitVec.ofNat 8 code, stopIndex := (s.core core).pc, held := false }
      ∧ (∀ n, n ≠ core → (s.refuse core code).core n = s.core n) ∧ (s.refuse core code).mem = s.mem
      ∧ (s.refuse core code).engines = s.engines := by
  have hset := (PricedFrame.refl core s).setCore { s.core core with
    stopped := true, stopCode := BitVec.ofNat 8 code, stopIndex := (s.core core).pc, held := false }
  obtain ⟨hframe, hothers⟩ := hset.record (bCore core) 0x020B ((s.logicalCore core).getD 0xFFFF) code (s.core core).pc.toNat
  have hown : ∀ (t : State) (blk k unit arg0 arg1 : Nat), (t.record blk k unit arg0 arg1).core core = t.core core := by
    intro t blk k unit arg0 arg1
    unfold State.record State.recordIn
    dsimp only
    split_ifs <;> rfl
  refine ⟨(hown ..).trans (core_setCore_same ..), hothers, ?_, ?_⟩ <;> rw [State.refuse, hframe] <;> rfl

end

/-- Settles O25: every row is `State.issue`; the sequencer fetches where the word at CORE_PC has not been fetched, and then
goes by what it has before it. -/
theorem instructionsIssueRefuseOrWait : Obligations.InstructionsIssueRefuseOrWait := by
  unfold Obligations.InstructionsIssueRefuseOrWait
  intro s core row hrow c a n stopped
  rw [exec_of_mem_coreRows hrow]
  have hstops : ∀ code, s.coreIssues core = true → s.fetchAhead core = s → s.fetched core = .refused code →
      ∃ t, Host.Outcome.next (s.issue core row.2 (row.2.run core)) = Host.Outcome.next (φ := Fault) (ρ := Refusal) t
        ∧ stopped code t := fun code hissues hahead hcode =>
    ⟨_, congrArg _ (issue_of_fetched_refused hissues hahead hcode), refuse_stops s core code⟩
  refine ⟨fun hidle => ?idle, fun hno => ?waiting, coreIssues_iff, fun w op hw hop hne => ?other,
    fun hissues hend => ?past, fun hissues hin => ⟨fun w hw => ?poison, fun w hw hop => ?presents, fun w hw hop => ?unlisted,
      fun habsent hwaits => ?host, fun habsent hcame => ?fetch⟩⟩
  case idle =>
    have hno : s.coreIssues core = false := by simp [State.coreIssues, hidle]
    rw [issue_of_not_issues hno, fetchAhead_of_idle hidle]
  case waiting => rw [issue_of_not_issues hno]
  case other => rw [issue_of_other_word hw hop hne]
  case past =>
    exact hstops 8 hissues (fetchAhead_of_past_end hend) (fetched_of_past_end (coreIssues_iff.1 hissues).1 hend)
  case poison =>
    exact hstops 2 hissues (fetchAhead_of_wordAt (Option.ne_none_iff_exists'.2 ⟨_, hw⟩))
      (fetched_of_poison (coreIssues_iff.1 hissues).1 hin hw)
  case presents => exact ⟨hissues, fetched_of_listed (coreIssues_iff.1 hissues).1 hin hw hop, hop⟩
  case unlisted =>
    exact hstops 2 hissues (fetchAhead_of_wordAt (Option.ne_none_iff_exists'.2 ⟨_, hw⟩))
      (fetched_of_unlisted (coreIssues_iff.1 hissues).1 hin hw hop)
  case host => exact congrArg _ (issue_of_host_waits hissues hin habsent hwaits)
  case fetch =>
    have hruns := (coreIssues_iff.1 hissues).1
    have hword := wordAt_fetchAhead hruns hin habsent hcame
    have hpc : ((s.fetchAhead core).core core).pc = (s.core core).pc := by rw [(FetchWork.fetchAhead core s).own]
    refine ⟨hword, ?_⟩
    rw [exec_of_mem_coreRows hrow, issue_fetchAhead (fetchAhead_of_wordAt (by rwa [hpc]))]

end Sys2Proof.Machine
end

section
/-! Control instructions: what one that goes on or is held back leaves of the state (R123, R130, R155, R159). -/

namespace Sys2Proof.Machine

/-! ### What a counter reads after another has counted (R98) -/

theorem counter_count_of_lt (s : State) (n k b : Nat) {off o : Nat} (hoff : off < 65536) (ho : o < 65536) :
    (s.count n off k).counter b o = s.counter b o + if b = n ∧ o = off then BitVec.ofNat 64 k else 0 := by
  have hkey : regKey b o = regKey n off ↔ b = n ∧ o = off := by unfold regKey; omega
  unfold State.count State.counter
  dsimp only
  rw [Map.get_put]
  by_cases h : b = n ∧ o = off
  · obtain ⟨rfl, rfl⟩ := h
    simp
  · rw [if_neg (mt hkey.1 h), if_neg h, add_zero]

/-! ### Issue -/

section
variable {s : State} {core w next : Nat} {op : CoreOp} {run : State → Nat → Issue} (h : Presents s core op w)
include h

/-- An instruction that changes its own core alone. -/
theorem onlyCore_of_go {u : State} (hrun : run s w = .go u next) (hframe : u = { s with cores := u.cores })
    (hothers : ∀ n, n ≠ core → u.core n = s.core n) :
    OnlyCore s (s.issue core op run) core { u.core core with pc := BitVec.ofNat 48 next, held := false } := by
  refine ⟨core_issue_of_go h hrun, fun n hn => (core_issue_of_go_ne h hrun hn).trans (hothers n hn), fun b o ho => ?_, ?_⟩
  · rw [issue_of_presents h hrun, counter_count_of_lt _ _ _ _ (by decide) ho, hframe]
    rfl
  · have ht := issue_frame_of_go h hrun
    rw [hframe] at ht
    exact ht

theorem onlyCore_of_setCore {c : Core} (hrun : run s w = .go (s.setCore core c) next) :
    OnlyCore s (s.issue core op run) core { c with pc := BitVec.ofNat 48 next, held := false } := by
  have hset := onlyCore_of_go h hrun rfl fun n hn => core_setCore_ne s core n c hn
  rwa [core_setCore_same] at hset

theorem onlyCore_of_go_self (hrun : run s w = .go s next) :
    OnlyCore s (s.issue core op run) core { s.core core with pc := BitVec.ofNat 48 next, held := false } :=
  onlyCore_of_go h hrun rfl fun _ _ => rfl

/-- An instruction that is held back is noted as held, and stays before the core. -/
theorem issue_of_stalled {why : BitVec 7} {u : State} (hrun : run s w = .stall why u) :
    s.issue core op run = u.setCore core { u.core core with held := true } := by
  obtain ⟨hissues, hfetched, hop⟩ := h
  simp [State.issue, fetchAhead_of_fetched hfetched, hissues, hfetched, hop, hrun]

theorem stallNow_of_stalled {why : BitVec 7} {u : State} (hrun : op.run core s w = .stall why u) : s.stallNow core = why := by
  obtain ⟨hissues, hfetched, hop⟩ := h
  simp [State.stallNow, hfetched, hop, hrun, (coreIssues_iff.1 hissues).2]

end

/-! ### Scalars (R130) -/

theorem setScalar_eq (c : Core) (i : Nat) (v : W32) :
    c.setScalar i v = if i = 0 then c else { c with scalars := Map.put c.scalars i v 0 } := rfl

/-! ### Branches and BARRIER (R155) -/

section
variable {s : State} {core w : Nat}

theorem doLoop_of_target (hsa : insnSa w ≠ 0) {target : Nat} (ht : s.branchTarget core w = some target) :
    let left : W32 := (s.core core).scalar (insnSa w) - 1
    doLoop core s w = .go
      (s.setCore core { s.core core with scalars := Map.put (s.core core).scalars (insnSa w) left 0 })
      (if left = 0 then s.nextPc core else target) := by
  simp [doLoop, hsa, ht, setScalar_eq]

theorem doLoop_of_no_target (hsa : insnSa w ≠ 0) (ht : s.branchTarget core w = none) : doLoop core s w = .refuse 8 := by
  simp [doLoop, hsa, ht]

theorem doJump_of_target {target : Nat} (ht : s.branchTarget core w = some target) : doJump core s w = .go s target := by
  simp [doJump, ht]

theorem doJump_of_no_target (ht : s.branchTarget core w = none) : doJump core s w = .refuse 8 := by
  simp [doJump, ht]

theorem doBarrier_of_done (hunits : ∀ p ∈ s.pendingOps core, unitIn (insnUnits w) p.unit = false)
    (hsig : (s.core core).sigq = []) : doBarrier core s w = .go s (s.nextPc core) := by
  have hidle : ((s.pendingOps core).any fun p => unitIn (insnUnits w) p.unit) = false := by
    simpa [List.any_eq_false] using hunits
  simp [doBarrier, hidle, hsig]

theorem doBarrier_of_busy
    (hbusy : (∃ p ∈ s.pendingOps core, unitIn (insnUnits w) p.unit = true) ∨ (s.core core).sigq ≠ []) :
    doBarrier core s w = .stall (s.barrierBits core) s := by
  refine if_pos ?_
  rcases hbusy with hunit | hsig
  · rw [List.any_eq_true.2 hunit, Bool.true_or]
  · rw [List.isEmpty_eq_false_iff.2 hsig, Bool.not_false, Bool.or_true]

theorem barrierBits_and_stBarrier (s : State) (core : Nat) : s.barrierBits core &&& stBarrier = stBarrier := by
  unfold State.barrierBits
  split <;> rfl

end

/-- Settles O26: each of the seven goes on with its core alone changed (`onlyCore_of_go`), is refused or is held. -/
theorem controlInstructions : Obligations.ControlInstructions := by
  unfold Obligations.ControlInstructions
  intro s core w c after one sum left
  refine ⟨fun h => ?nop, fun h => ?halt, fun h => ?sets, fun h => ?adds, fun h hsa target ht => ?loop,
    fun h hsa => ?loopOfZero, fun h hsa ht => ?loopOutside, fun h target ht => ?jump, fun h ht => ?jumpOutside,
    fun h hunits hsig => ?barrier, fun h hbusy => ?held⟩
  case nop => exact ⟨_, rfl, onlyCore_of_go_self h rfl⟩
  case halt => exact ⟨_, rfl, onlyCore_of_setCore h rfl⟩
  case sets => exact ⟨_, rfl, onlyCore_of_setCore h rfl⟩
  case adds => exact ⟨_, rfl, onlyCore_of_setCore h rfl⟩
  case loop => exact ⟨_, rfl, onlyCore_of_setCore h (doLoop_of_target hsa ht)⟩
  case loopOfZero => exact congrArg _ (issue_of_refused h (if_pos hsa))
  case loopOutside => exact congrArg _ (issue_of_refused h (doLoop_of_no_target hsa ht))
  case jump => exact ⟨_, rfl, onlyCore_of_go_self h (doJump_of_target ht)⟩
  case jumpOutside => exact congrArg _ (issue_of_refused h (doJump_of_no_target ht))
  case barrier => exact ⟨_, rfl, onlyCore_of_go_self h (doBarrier_of_done hunits hsig)⟩
  case held =>
    have hrun := doBarrier_of_busy hbusy
    refine ⟨congrArg _ (issue_of_stalled h hrun), ?_⟩
    rw [stallNow_of_stalled h hrun, barrierBits_and_stBarrier]

end Sys2Proof.Machine
end

section
/-! Lane-by-lane operations of the vector unit: what each leaves in VD and in the sticky flags (R42, R144, R145, R147). -/

namespace Sys2Proof.Machine

/-- The results `rs` in the lanes of VD that MASKEN lets through, and the flags of those written clean (R144, R449). -/
def Core.putLanes (c : Core) (w : Nat) (rs : List (Res × Bool)) : Core × Flags :=
  (c.writeLanes w (vVd w) (c.masked w rs), laneFlags (c.masked w rs))

/-- The results that core `core` works out of its own registers are put in its lanes. -/
def State.putResults (core w : Nat) (rs : Core → List (Res × Bool)) (s : State) : State × Flags :=
  (s.setCore core ((s.core core).putLanes w (rs (s.core core))).1, ((s.core core).putLanes w (rs (s.core core))).2)

section
variable {s : State} {core w kind : Nat} {op : CoreOp}

/-- From `s` to `t` a vector operation has issued that left the results `rs` in the lanes of VD. -/
def LanesPut (s t : State) (core w : Nat) (rs : List (Res × Bool)) : Prop :=
  Issued s t core { (s.core core).writeLanes w (vVd w) ((s.core core).masked w rs) with
      sticky := Flags.or (s.core core).sticky (laneFlags ((s.core core).masked w rs)) }
    ∧ t = { paidFrame s t with cores := t.cores }

/-- An operation on the lanes of its core, free of its issue number, that nothing holds back. -/
theorem lanesPut_of_vectorIssue {run : State → Nat → Issue} {rs : Core → List (Res × Bool)}
    (hseq : ∀ (c : Core) (k : Nat), rs { c with seq := k } = rs c) (h : Presents s core op w)
    (hrun : run s w = s.vectorIssue core kind none none (State.putResults core w rs))
    (hfree : s.stallsFor core none none true [(kind, core / 8, 1)] = 0) :
    LanesPut s (s.issue core op run) core w (rs (s.core core)) := by
  obtain ⟨hcore, hframe, hothers⟩ := vectorIssue_issued (fun c => c.putLanes w (rs c)) h hrun hfree
  rw [hseq] at hcore
  exact ⟨⟨hcore, hothers⟩, hframe⟩

/-- The results of an operation of one operand, of two and of three (R144, R145); poison of an operand enters its lane. -/
def Core.results1 (g : Fmt → FVal → Res) (w : Nat) (c : Core) : List (Res × Bool) :=
  (c.lanes w (vVa w)).map fun x => (g (vFmt w) x.1, x.2)

def Core.results2 (g : Fmt → FVal → FVal → Res) (w : Nat) (c : Core) : List (Res × Bool) :=
  ((c.lanes w (vVa w)).zip (c.lanesB w)).map fun x => (g (vFmt w) x.1.1 x.2.1, x.1.2 || x.2.2)

def Core.results3 (g : Fmt → FVal → FVal → FVal → Res) (w : Nat) (c : Core) : List (Res × Bool) :=
  ((c.lanes w (vVa w)).zip ((c.lanesB w).zip (c.lanes w (vVc w)))).map fun x =>
    (g (vFmt w) x.1.1 x.2.1.1 x.2.2.1, x.1.2 || x.2.1.2 || x.2.2.2)

/-- The results of SEL: a where the mask bit is 1, else b; poison of the mask word enters the lane. -/
def Core.selected (w : Nat) (c : Core) : List (Res × Bool) :=
  let ab := (c.lanes w (vVa w)).zip (c.lanesB w)
  (ab.zip (List.range ab.length)).map fun x =>
    (arith (vFmt w) (if (c.maskBit (vMreg w) x.2).1 then x.1.1.1 else x.1.2.1),
      (if (c.maskBit (vMreg w) x.2).1 then x.1.1.2 else x.1.2.2) || (c.maskBit (vMreg w) x.2).2)

theorem doSel_eq (s : State) (core w : Nat) :
    doSel core s w = s.vectorIssue core 4 none none (State.putResults core w (Core.selected w)) := by
  unfold doSel State.putResults
  simp only [Core.putLanes, Core.selected, apply_ite Prod.fst, apply_ite Prod.snd]

section
variable (h : Presents s core op w)
include h

theorem lanes1_put (g : Fmt → FVal → Res) (hfree : s.stallsFor core none none true [(kind, core / 8, 1)] = 0) :
    LanesPut s (s.issue core op (lanes1 g kind core)) core w ((s.core core).results1 g w) :=
  lanesPut_of_vectorIssue (rs := Core.results1 g w) (fun _ _ => rfl) h rfl hfree

theorem lanes2_put (g : Fmt → FVal → FVal → Res) (hfree : s.stallsFor core none none true [(4, core / 8, 1)] = 0) :
    LanesPut s (s.issue core op (lanes2 g core)) core w ((s.core core).results2 g w) :=
  lanesPut_of_vectorIssue (rs := Core.results2 g w) (fun _ _ => rfl) h rfl hfree

theorem lanes3_put (g : Fmt → FVal → FVal → FVal → Res)
    (hfree : s.stallsFor core none none true [(4, core / 8, 1)] = 0) :
    LanesPut s (s.issue core op (lanes3 g core)) core w ((s.core core).results3 g w) :=
  lanesPut_of_vectorIssue (rs := Core.results3 g w) (fun _ _ => rfl) h rfl hfree

theorem sel_put (hfree : s.stallsFor core none none true [(4, core / 8, 1)] = 0) :
    LanesPut s (s.issue core op (doSel core)) core w ((s.core core).selected w) :=
  lanesPut_of_vectorIssue (rs := Core.selected w) (fun _ _ => rfl) h (doSel_eq s core w) hfree

/-! ### Transcendentals (R145, R147) -/

theorem lanesFn_put (fn : Nat → Res) (hmode : vBf16 w = false)
    (hfree : s.stallsFor core none none true [(5, core / 8, 1)] = 0) :
    LanesPut s (s.issue core op (lanesFn fn 5 core)) core w ((s.core core).results1 (fun _ x => fn (arith32 x).1) w) :=
  lanesPut_of_vectorIssue (rs := Core.results1 (fun _ x => fn (arith32 x).1) w) (fun _ _ => rfl) h
    (if_neg (by simp [hmode])) hfree

theorem lanesFn_refused (fn : Nat → Res) (hmode : vBf16 w = true) :
    s.issue core op (lanesFn fn 5 core) = s.refuse core 2 := issue_of_refused h (if_pos hmode)

end

end

/-- Settles O27: each operation puts its results in the lanes of VD (`LanesPut`); a transcendental is refused in bf16 mode. -/
theorem vectorLanesAreWritten : Obligations.VectorLanesAreWritten := by
  unfold Obligations.VectorLanesAreWritten
  intro s core w c f va vb vc one two three pick done
  refine ⟨fun hfree => ⟨fun h => ?add, fun h => ?sub, fun h => ?mul, fun h => ?min, fun h => ?max, fun h => ?fma,
      fun h => ?abs, fun h => ?neg, fun h => ?sel⟩,
    fun hmode hfree => ⟨fun h => ?exp, fun h => ?log, fun h => ?rcp, fun h => ?rsqrt, fun h => ?tanh⟩,
    fun hmode => ⟨fun h => congrArg _ (lanesFn_refused h exp32 hmode), fun h => congrArg _ (lanesFn_refused h log32 hmode),
      fun h => congrArg _ (lanesFn_refused h rcp32 hmode), fun h => congrArg _ (lanesFn_refused h rsqrt32 hmode),
      fun h => congrArg _ (lanesFn_refused h tanh32 hmode)⟩⟩
  case add => exact ⟨_, rfl, lanes2_put h (fun f a b => arith f (FVal.add a b)) hfree⟩
  case sub => exact ⟨_, rfl, lanes2_put h (fun f a b => arith f (FVal.sub a b)) hfree⟩
  case mul => exact ⟨_, rfl, lanes2_put h (fun f a b => arith f (FVal.mul a b)) hfree⟩
  case min => exact ⟨_, rfl, lanes2_put h (fun f a b => arith f (FVal.min a b)) hfree⟩
  case max => exact ⟨_, rfl, lanes2_put h (fun f a b => arith f (FVal.max a b)) hfree⟩
  case fma => exact ⟨_, rfl, lanes3_put h (fun f a b d => arith f (FVal.add (FVal.mul a b) d)) hfree⟩
  case abs => exact ⟨_, rfl, lanes1_put h (fun f a => arith f a.abs) hfree⟩
  case neg => exact ⟨_, rfl, lanes1_put h (fun f a => arith f a.neg) hfree⟩
  case sel => exact ⟨_, rfl, sel_put h hfree⟩
  case exp => exact ⟨_, rfl, lanesFn_put h exp32 hmode hfree⟩
  case log => exact ⟨_, rfl, lanesFn_put h log32 hmode hfree⟩
  case rcp => exact ⟨_, rfl, lanesFn_put h rcp32 hmode hfree⟩
  case rsqrt => exact ⟨_, rfl, lanesFn_put h rsqrt32 hmode hfree⟩
  case tanh => exact ⟨_, rfl, lanesFn_put h tanh32 hmode hfree⟩

end Sys2Proof.Machine
end

section
/-! Writing lanes and mask bits: the bytes of one vector register and the bits of one mask take the results that are written
clean, and all the others stay (R144, R449, R450). -/

namespace Sys2Proof.Machine

/-! ### Lists of equal parts -/

section
variable {α β : Type} {f : α → List β} {n : Nat} {l : List α}

theorem length_flatMap_of_forall_length (h : ∀ x ∈ l, (f x).length = n) : (l.flatMap f).length = l.length * n := by
  rw [List.length_flatMap, List.map_congr_left h, List.map_const', List.sum_replicate, smul_eq_mul]

/-- Element j of part i. -/
theorem getD_flatMap_of_forall_length (h : ∀ x ∈ l, (f x).length = n) {i j : Nat} (hi : i < l.length) (hj : j < n) (d : β) :
    (l.flatMap f).getD (i * n + j) d = (f l[i]).getD j d := by
  induction l generalizing i with
  | nil => exact absurd hi (Nat.not_lt_zero i)
  | cons x l ih =>
    obtain ⟨hx, hl⟩ := List.forall_mem_cons.1 h
    rw [List.flatMap_cons]
    cases i with
    | zero => rw [Nat.zero_mul, Nat.zero_add, List.getD_append _ _ _ _ (by rwa [hx])]; rfl
    | succ i =>
      rw [List.getD_append_right _ _ _ _ (by rw [hx, Nat.succ_mul]; omega), hx,
        show (i + 1) * n + j - n = i * n + j by rw [Nat.succ_mul]; omega, ih hl (Nat.lt_of_succ_lt_succ hi)]
      rfl

end

/-! ### Lanes (R144, R449) -/

theorem vLanes_mul_size (w : Nat) : vLanes w * (vFmt w).size = 1024 := by
  unfold vLanes vFmt
  split <;> rfl

/-- The bytes of lane `x.2` after a write of `x.1` over the bytes `old` of its register. -/
def writtenLane (f : Fmt) (old : List Byte) (x : OutLane × Nat) : List Byte :=
  match x.1 with
  | some (r, false) => elemBytes f r.1
  | _ => (old.drop (x.2 * f.size)).take f.size

/-- The bytes of a register after a write of its lanes. -/
def Core.writtenLanes (c : Core) (w reg : Nat) (rs : List OutLane) : List Byte :=
  (rs.zip (List.range rs.length)).flatMap (writtenLane (vFmt w) (memRead c.vregs (1024 * reg) 1024))

theorem get_writeLanes (c : Core) (w reg : Nat) (rs : List OutLane) (k : Nat) :
    Map.get (c.writeLanes w reg rs).vregs k 0 =
      if 1024 * reg ≤ k ∧ k < 1024 * reg + (c.writtenLanes w reg rs).length then
        (c.writtenLanes w reg rs).getD (k - 1024 * reg) 0
      else Map.get c.vregs k 0 :=
  get_memWrite ..

section
variable {c : Core} {w reg : Nat} {rs : List OutLane} (hlen : rs.length = vLanes w)
include hlen

theorem length_writtenLane (c : Core) (reg : Nat) : ∀ x ∈ rs.zip (List.range rs.length),
    (writtenLane (vFmt w) (memRead c.vregs (1024 * reg) 1024) x).length = (vFmt w).size := by
  intro x hx
  have hlane : x.2 < vLanes w := hlen ▸ List.mem_range.1 (List.of_mem_zip hx).2
  have hroom := Nat.mul_le_mul_right (vFmt w).size (Nat.succ_le_of_lt hlane)
  rw [vLanes_mul_size, Nat.succ_mul] at hroom
  unfold writtenLane
  split
  · exact length_leBytes ..
  · simp only [List.length_take, List.length_drop, length_memRead]
    omega

theorem length_writtenLanes (c : Core) (reg : Nat) : (c.writtenLanes w reg rs).length = 1024 := by
  rw [Core.writtenLanes, length_flatMap_of_forall_length (length_writtenLane hlen c reg), List.length_zip, List.length_range,
    Nat.min_self, hlen, vLanes_mul_size]

theorem get_writeLanes_of_other {k : Nat} (hk : k < 1024 * reg ∨ 1024 * reg + 1024 ≤ k) :
    Map.get (c.writeLanes w reg rs).vregs k 0 = Map.get c.vregs k 0 := by
  rw [get_writeLanes, length_writtenLanes hlen, if_neg (by omega)]

/-- Byte j of lane i is that of the lane as it is written. -/
theorem get_writeLanes_of_lane {i j : Nat} (hi : i < vLanes w) (hj : j < (vFmt w).size) :
    Map.get (c.writeLanes w reg rs).vregs (1024 * reg + i * (vFmt w).size + j) 0 =
      (writtenLane (vFmt w) (memRead c.vregs (1024 * reg) 1024) (rs.getD i none, i)).getD j 0 := by
  have hroom := Nat.mul_le_mul_right (vFmt w).size (Nat.succ_le_of_lt hi)
  rw [vLanes_mul_size, Nat.succ_mul] at hroom
  have hzip : i < (rs.zip (List.range rs.length)).length := by simpa [hlen] using hi
  rw [get_writeLanes, length_writtenLanes hlen, if_pos (by omega),
    show 1024 * reg + i * (vFmt w).size + j - 1024 * reg = i * (vFmt w).size + j by omega]
  refine (getD_flatMap_of_forall_length (length_writtenLane hlen c reg) hzip hj 0).trans ?_
  simp [List.getElem_zip, hlen, hi]

end

/-- Byte j of lane i of a register as it stands. -/
theorem getD_lane_memRead {m : List Host.Cell} (hwf : Memory.wf m = true) (a : Nat) {i j n size : Nat} (hj : j < size)
    (hroom : i * size + size ≤ n) :
    (((memRead m a n).drop (i * size)).take size).getD j 0 = Map.get m (a + i * size + j) 0 := by
  have hin : i * size + j < n := by omega
  simp only [List.getD_eq_getElem?_getD, List.getElem?_take, List.getElem?_drop, memRead_eq hwf, List.getElem?_map,
    List.getElem?_range hin, if_pos hj, Option.map_some, Option.getD_some, Nat.add_assoc]
  rfl

/-! ### Mask bits (R144, R449) -/

/-- The bits of a mask after the results of a compare have been put over the bits `old`. -/
def maskAfter (old : BitVec 512) (rs : List (Option (Bool × Bool))) : Nat :=
  (rs.zip (List.range rs.length)).foldl
    (fun (v : Nat) x => match x.1 with
      | some (b, false) => if old.getLsbD x.2 = b then v else v ^^^ 2 ^ x.2
      | _ => v) old.toNat

theorem masks_writeMask (c : Core) (m : Nat) (rs : List (Option (Bool × Bool))) :
    (c.writeMask m rs).masks = Map.put c.masks m (BitVec.ofNat 512 (maskAfter (Map.get c.masks m 0) rs)) 0 := rfl

theorem zip_range_append_singleton {α : Type} (l : List α) (x : α) :
    (l ++ [x]).zip (List.range (l ++ [x]).length) = l.zip (List.range l.length) ++ [(x, l.length)] := by
  rw [List.length_append, List.length_singleton, List.range_succ, List.zip_append (by simp)]
  rfl

/-- The bit that a compare leaves at a place: its result where that is written clean. -/
def maskBitAfter (old : BitVec 512) (i : Nat) : Option (Bool × Bool) → Bool
  | some (b, false) => b
  | _ => old.getLsbD i

theorem maskAfter_append_singleton (old : BitVec 512) (rs : List (Option (Bool × Bool))) (x : Option (Bool × Bool)) :
    maskAfter old (rs ++ [x]) =
      if old.getLsbD rs.length = maskBitAfter old rs.length x then maskAfter old rs else maskAfter old rs ^^^ 2 ^ rs.length := by
  rw [maskAfter, zip_range_append_singleton, List.foldl_append, ← maskAfter]
  rcases x with _ | ⟨b, _ | _⟩
  · exact (if_pos rfl).symm
  · rfl
  · exact (if_pos rfl).symm

theorem testBit_maskAfter (old : BitVec 512) (rs : List (Option (Bool × Bool))) (i : Nat) :
    (maskAfter old rs).testBit i = maskBitAfter old i (rs.getD i none) := by
  induction rs using List.reverseRecOn with
  | nil => simp [maskAfter, maskBitAfter, BitVec.getLsbD]
  | append_singleton rs x ih =>
    have hbit : (maskAfter old (rs ++ [x])).testBit i =
        if i = rs.length then maskBitAfter old i x else (maskAfter old rs).testBit i := by
      rw [maskAfter_append_singleton]
      by_cases hi : i = rs.length
      · subst hi
        have hold : (maskAfter old rs).testBit rs.length = old.getLsbD rs.length := by simpa [maskBitAfter] using ih
        rw [if_pos rfl]
        split
        · next heq => rw [hold, heq]
        · next hne =>
          rw [Nat.testBit_xor, Nat.testBit_two_pow_self, hold]
          revert hne
          cases old.getLsbD rs.length <;> cases maskBitAfter old rs.length x <;> simp
      · rw [if_neg hi]
        split
        · rfl
        · rw [Nat.testBit_xor, Nat.testBit_two_pow_of_ne (Ne.symm hi), Bool.xor_false]
    rw [hbit, ih]
    by_cases hi : i = rs.length
    · subst hi
      simp
    · rw [if_neg hi]
      congr 1
      rcases lt_or_gt_of_ne hi with hlt | hgt
      · rw [List.getD_append _ _ _ _ hlt]
      · rw [List.getD_eq_default _ _ (by omega), List.getD_eq_default _ _ (by simp; omega)]

/-- Settles O29: a register's lanes are a run of 1,024 bytes in equal parts, a mask's bits change one by one. -/
theorem lanesAndMasksKeepTheRest : Obligations.LanesAndMasksKeepTheRest := by
  unfold Obligations.LanesAndMasksKeepTheRest
  refine ⟨fun c w reg k rs hlen hk => get_writeLanes_of_other hlen hk, fun c w reg i j rs hwf hlen hi hj => ?lane,
    fun c m n rs hne => ?mask, fun c m i rs _ hi => ?bit⟩
  case lane =>
    have hroom := Nat.mul_le_mul_right (vFmt w).size (Nat.succ_le_of_lt hi)
    rw [vLanes_mul_size, Nat.succ_mul] at hroom
    rw [get_writeLanes_of_lane hlen hi hj]
    rcases rs.getD i none with _ | ⟨r, _ | _⟩
    · exact getD_lane_memRead hwf _ hj hroom
    · exact getD_leBytes _ _ hj 0
    · exact getD_lane_memRead hwf _ hj hroom
  case mask => rw [masks_writeMask, Map.get_put_ne _ _ _ _ _ hne]
  case bit =>
    rw [masks_writeMask, Map.get_put_same, BitVec.getLsbD_ofNat, decide_eq_true hi, Bool.true_and, testBit_maskAfter]
    rcases rs.getD i none with _ | ⟨b, _ | _⟩ <;> rfl

end Sys2Proof.Machine
end

section
/-! Prefetch instructions: the lines that a start requests are counted, and memory stays (R151, R152, R297). -/

namespace Sys2Proof.Machine

/-! ### Counters of cores in the traffic of a home (R98, R297, R313) -/

theorem counter_count_of_ne (s : State) (n k b : Nat) {off o : Nat} (hoff : off < 65536) (ho : o < 65536) (hne : o ≠ off) :
    (s.count n off k).counter b o = s.counter b o := by
  rw [counter_count_of_lt s n k b hoff ho, if_neg (fun h => hne h.2), add_zero]

/-- From `s` to `t` the counters of cores stay: those of blocks below the base tiles'. -/
structure SameCoreCounts (s t : State) : Prop where
  counter : ∀ n off, n < 0xC00 → off < 65536 → t.counter n off = s.counter n off

namespace SameCoreCounts

variable {s t u : State}

theorem refl (s : State) : SameCoreCounts s s := ⟨fun _ _ _ _ => rfl⟩

theorem of_counters (h : SameCoreCounts s t) (k : u.counters = t.counters) : SameCoreCounts s u :=
  ⟨fun n off hn hoff => by rw [State.counter, k]; exact h.counter n off hn hoff⟩

theorem count (h : SameCoreCounts s t) {n : Nat} (hn : 0xC00 ≤ n) (off k : Nat) : SameCoreCounts s (t.count n off k) :=
  ⟨fun m o hm ho => (Map.get_put_ne _ _ _ _ _ (regKey_ne (Nat.lt_of_lt_of_le hm hn) ho)).trans (h.counter m o hm ho)⟩

theorem ite (p : Prop) [Decidable p] (ht : SameCoreCounts s t) (hu : SameCoreCounts s u) :
    SameCoreCounts s (if p then t else u) := by
  split <;> assumption

theorem bBankTile_ge (t : Nat) : 0xC00 ≤ bBankTile t := Nat.le_add_right ..

theorem bHbm_ge (c : Nat) : 0xC00 ≤ bHbm c := Nat.le_add_right_of_le (by decide)

theorem llcDrop (h : SameCoreCounts s t) (line : Nat) : SameCoreCounts s (t.llcDrop line) := by
  have hout : SameCoreCounts s { t with llc := Map.erase t.llc line } := h.of_counters rfl
  unfold State.llcDrop
  refine ite _ ?_ hout
  split
  · exact (hout.count (bBankTile_ge _) ..).count (bHbm_ge _) ..
  · exact hout.count (by decide) ..
  · exact hout

theorem llcPut (h : SameCoreCounts s t) (line : Nat) (dirty : Bool) : SameCoreCounts s (t.llcPut line dirty) := by
  have hroom : SameCoreCounts s (t.llcRoom line) := by
    have hfree : SameCoreCounts s t.free.2 := h.of_counters rfl
    exact ite _ h (ite _ h (hfree.llcDrop _))
  exact hroom.of_counters rfl

theorem memTraffic (h : SameCoreCounts s t) (a k : Nat) (write first : Bool) :
    SameCoreCounts s (t.memTraffic a k write first) := by
  unfold State.memTraffic
  dsimp only
  split
  · have hbank : SameCoreCounts s (t.touchBank (bBankTile (hbmTile a)) (t.cacheBankOf (hbmTile a) (lineOf a))) :=
      h.of_counters rfl
    have hfound := ite (first = true)
      (hbank.count (bBankTile_ge (hbmTile a)) (if t.inLlc (lineOf a) then 0x170 else 0x178) 1) hbank
    exact ite _ (h.count (bHbm_ge _) ..) (llcPut (ite _ hfound (hfound.count (bHbm_ge _) ..)) ..)
  · exact llcPut (ite _ h (h.count (by decide) ..)) ..
  · exact h.llcPut ..
  · exact h.of_counters rfl
  · exact h

end SameCoreCounts

/-! ### Lines requested (R152) -/

/-- From `s` to `t` core `core` has requested `k` lines, and memory stays. -/
structure Requested (core k : Nat) (s t : State) : Prop where
  counted : t.counter (bCore core) 0x1A0 = s.counter (bCore core) 0x1A0 + BitVec.ofNat 64 k
  mem : t.mem = s.mem

namespace Requested

variable {core k l : Nat} {s t u : State}

theorem trans (h : Requested core k s t) (h' : Requested core l t u) : Requested core (k + l) s u :=
  ⟨by rw [h'.counted, h.counted, BitVec.ofNat_add, add_assoc], h'.mem.trans h.mem⟩

theorem foldl {β : Type} {g : State → β → State} (hg : ∀ v x, Requested core k v (g v x)) (xs : List β) (s : State) :
    Requested core (xs.length * k) s (xs.foldl g s) := by
  induction xs generalizing s with
  | nil => exact ⟨by simp, rfl⟩
  | cons x xs ih =>
    rw [List.length_cons, Nat.succ_mul, Nat.add_comm]
    exact (hg s x).trans (ih _)

theorem bCore_lt (core : CoreIx) : bCore core < 0xC00 := by
  have := core.isLt
  unfold bCore
  omega

/-- A line is counted whether it is brought or dropped. -/
theorem prefetchLine (core : CoreIx) (s : State) (a : Int) : Requested core 1 s (s.prefetchLine core a) := by
  have hone : Requested core 1 s (s.count (bCore core) 0x1A0 1) := ⟨counter_count .., rfl⟩
  have hdrop : Requested core 1 s ((s.count (bCore core) 0x1A0 1).count (bCore core) 0x1A8 1) := by
    exact ⟨(counter_count_of_ne _ _ _ _ (by decide) (by decide) (by decide)).trans hone.counted, rfl⟩
  have hbring : Requested core 1 s ((s.count (bCore core) 0x1A0 1).memTraffic (a.toNat / 128 * 128) 128 false true) := by
    obtain ⟨-, -, -, -, -, hmem⟩ := calm_memTraffic (s.count (bCore core) 0x1A0 1) (a.toNat / 128 * 128) 128 false true
    have hcount := (SameCoreCounts.refl _).memTraffic (t := s.count (bCore core) 0x1A0 1) (a.toNat / 128 * 128) 128 false true
    exact ⟨(hcount.counter _ _ (bCore_lt core) (by decide)).trans hone.counted, hmem⟩
  unfold State.prefetchLine
  dsimp only
  split
  · exact hdrop
  · split
    · split <;> assumption
    · exact hbring
    · split <;> assumption
    · exact hdrop

/-- Every line of every step up to `upto` is counted. -/
theorem prefetchTo (core : CoreIx) (s : State) (p : Prefetch) (upto : Nat) :
    Requested core ((upto - p.next) * (p.stepBytes / 128)) s (s.prefetchTo core p upto) := by
  have hsteps : ∀ (v : State) (j : Nat), Requested core (p.stepBytes / 128) v
      ((List.range (p.stepBytes / 128)).foldl
        (fun a (i : Nat) => a.prefetchLine core (p.addr (p.next + j) + (128 * i : Nat))) v) := fun v j => by
    have hlines := foldl (fun v (i : Nat) => prefetchLine core v (p.addr (p.next + j) + (128 * i : Nat)))
      (List.range (p.stepBytes / 128)) v
    rwa [List.length_range, Nat.mul_one] at hlines
  have hall := foldl hsteps (List.range (upto - p.next)) s
  rwa [List.length_range] at hall

end Requested

/-! ### START_PREFETCH and STOP_PREFETCH (R151) -/

/-- A stream begins with no step requested, and looks at least one step ahead. -/
theorem next_depth_of_streamRecord {d : Nat} {p : Prefetch} (h : streamRecord d = some p) : p.next = 0 ∧ 1 ≤ p.depth := by
  unfold streamRecord at h
  dsimp only at h
  split at h
  · next hlimits =>
    obtain ⟨-, -, -, -, -, hdepth, -⟩ := hlimits
    cases h
    exact ⟨rfl, hdepth⟩
  · cases h

/-- The steps that a start requests: DEPTH, within COUNT. -/
def Prefetch.opening (p : Prefetch) : Nat := if p.count = 0 then p.depth else Nat.min p.depth p.count

theorem within_depth_succ {p : Prefetch} (h : 1 ≤ p.depth) : p.within (p.depth - 1) + 1 = p.opening := by
  unfold Prefetch.within Prefetch.opening
  simp only [Nat.min_def]
  split_ifs <;> omega

section
variable {s : State} {core : CoreIx} {w : Nat}

theorem doStartPrefetch_of_no_slot (h : (s.core core).slot (bitsOf w 32 8) = none) :
    doStartPrefetch core s w = .refuse 3 := by
  simp [doStartPrefetch, h]

variable {d : Nat} (hd : (s.core core).slot (bitsOf w 32 8) = some d)
include hd

theorem doStartPrefetch_of_no_record (h : streamRecord d = none) : doStartPrefetch core s w = .refuse 9 := by
  simp [doStartPrefetch, hd, h]

theorem doStartPrefetch_of_record {p : Prefetch} (hp : streamRecord d = some p) :
    doStartPrefetch core s w =
      .go ((s.prefetchTo core p p.opening).setPrefetch core (bitsOf w 8 4) { p with next := p.opening }) (s.nextPc core) := by
  simp only [doStartPrefetch, hd, hp, within_depth_succ (next_depth_of_streamRecord hp).2]

end

/-- Settles O32: a start requests its first steps line by line (`Requested`) and fills the prefetcher; a stop empties it. -/
theorem prefetchersStartAndStop : Obligations.PrefetchersStartAndStop := by
  unfold Obligations.PrefetchersStartAndStop
  intro s core w c
  refine ⟨fun h => ⟨fun hslot => ?slot, fun d hd hp => ?limits, fun d p hd hp => ?start⟩, fun h => ?stop⟩
  case slot => exact congrArg _ (issue_of_refused h (doStartPrefetch_of_no_slot hslot))
  case limits => exact congrArg _ (issue_of_refused h (doStartPrefetch_of_no_record hd hp))
  case start =>
    intro steps
    have hgo := doStartPrefetch_of_record hd hp
    have hframe := ((FabricAccess.refl s).prefetchTo core p p.opening).frame
    have hlines := Requested.prefetchTo core s p p.opening
    rw [(next_depth_of_streamRecord hp).1, Nat.sub_zero] at hlines
    have hcore : ∀ n, (s.prefetchTo core p p.opening).core n = s.core n := fun n => by rw [hframe]; rfl
    have hengines : (s.prefetchTo core p p.opening).engines = s.engines := by rw [hframe]
    have hissued := issue_of_presents h hgo
    refine ⟨s.issue core .startPrefetch (doStartPrefetch core), rfl, ?_, fun n hn => ?_, ?_, ?_, ?_⟩
    · rw [core_issue_of_go h hgo, State.setPrefetch, core_setCore_same, hcore]
      rfl
    · rw [core_issue_of_go_ne h hgo hn, State.setPrefetch, core_setCore_ne _ _ _ _ hn, hcore]
    · exact (congrArg State.mem hissued).trans hlines.mem
    · exact (congrArg State.engines hissued).trans hengines
    · rw [hissued]
      exact (counter_count_of_ne _ _ _ _ (by decide) (by decide) (by decide)).trans hlines.counted
  case stop =>
    exact ⟨_, rfl, onlyCore_of_setCore (run := doStopPrefetch core)
      (c := { c with prefetchers := Map.erase c.prefetchers (bitsOf w 8 4) }) h rfl⟩

end Sys2Proof.Machine
end

section
/-! Token instructions and the signal queue: what a message on its way, a queued signal and a dropped packet leave of the
state (R153, R154, R191, R273). -/

namespace Sys2Proof.Machine

/-! ### Messages on their way (R171, R188) -/

theorem carry_eq (s : State) (src dst : Node) (cls : Nat) (req : Option (Nat × Bool)) :
    s.carry src dst cls req = { s with sendq := (s.carry src dst cls req).sendq } := by
  unfold State.carry
  split
  · rfl
  · dsimp only
    split <;> rfl

theorem sendToken_eq (s : State) (m : TokMsg) :
    s.sendToken m = { s with tokMsgs := s.tokMsgs ++ [m], sendq := (s.sendToken m).sendq } := by
  unfold State.sendToken
  split
  · rw [carry_eq]
  · rfl

/-- From `s` to `t` core `core` becomes `c` and sends the messages `ms`; counters and packets on their way may change. -/
def Sends (s t : State) (core : Nat) (c : Core) (ms : List TokMsg) : Prop :=
  t = { s with cores := t.cores, counters := t.counters, tokMsgs := s.tokMsgs ++ ms, sendq := t.sendq } ∧ t.core core = c
    ∧ ∀ n : Nat, n ≠ core → t.core n = s.core n

/-- The core changes and a message of it sets out. -/
theorem sends_sendToken (s : State) (core : Nat) (c : Core) (m : TokMsg) :
    Sends s ((s.setCore core c).sendToken m) core c [m] := by
  have hframe := sendToken_eq (s.setCore core c) m
  have hcore : ∀ n, ((s.setCore core c).sendToken m).core n = (s.setCore core c).core n := fun n => by rw [hframe]; rfl
  refine ⟨?_, (hcore core).trans (core_setCore_same ..), fun n hn => (hcore n).trans (core_setCore_ne s core n c hn)⟩
  rw [hframe]
  rfl

theorem sends_setCore (s : State) (core : Nat) (c : Core) : Sends s (s.setCore core c) core c [] := by
  refine ⟨?_, core_setCore_same .., fun n hn => core_setCore_ne s core n c hn⟩
  rw [List.append_nil]
  rfl

/-- What the core sends as it issues an instruction. -/
theorem sends_of_go {s u : State} {core w next : Nat} {op : CoreOp} {run : State → Nat → Issue} {c : Core} {ms : List TokMsg}
    (h : Presents s core op w) (hrun : run s w = .go u next) (hu : Sends s u core c ms) :
    Sends s (s.issue core op run) core { c with pc := BitVec.ofNat 48 next, held := false } ms := by
  obtain ⟨hframe, hcore, hothers⟩ := hu
  refine ⟨?_, ?_, fun n hn => (core_issue_of_go_ne h hrun hn).trans (hothers n hn)⟩
  · rw [issue_frame_of_go h hrun, hframe]
  · rw [core_issue_of_go h hrun, hcore]

/-! ### WAIT and SIGNAL (R153, R191) -/

section
variable {s : State} {core : CoreIx} {w : Nat}

/-- The agent that a core is, and the token and VALUE that a word names. -/
abbrev State.tokenAgent (s : State) (core : Nat) : Nat := agCore ((s.logicalCore core).getD core)
abbrev namedToken (c : Core) (w : Nat) : BitVec 16 := BitVec.ofNat 16 (tokOf c w)
abbrev namedValue (w : Nat) : W32 := BitVec.ofNat 32 (bitsOf w 32 32)

theorem doWait_of_allowed (h : s.tokenAllowed core (tokOf (s.core core) w) (bitsOf w 32 32) true = true) :
    doWait core s w = .go
      ((s.setCore core { s.core core with waiting := some (namedToken (s.core core) w, namedValue w) }).sendToken
        (.wait (s.tokenAgent core) (namedToken (s.core core) w) (namedValue w))) (s.nextPc core) := by
  simp [doWait, h]

theorem doWait_of_not_allowed (h : s.tokenAllowed core (tokOf (s.core core) w) (bitsOf w 32 32) true = false) :
    doWait core s w = .refuse 7 := by
  simp [doWait, h]

theorem doSignal_of_not_allowed (h : s.tokenAllowed core (tokOf (s.core core) w) (bitsOf w 32 32) false = false) :
    doSignal core s w = .refuse 7 := by
  simp [doSignal, h]

variable (h : s.tokenAllowed core (tokOf (s.core core) w) (bitsOf w 32 32) false = true)
include h

theorem doSignal_of_room (hroom : (s.core core).sigq.length < 16) :
    doSignal core s w = .go (s.setCore core { s.core core with
        sigq := (s.core core).sigq ++ [{ seq := (s.core core).seq, units := BitVec.ofNat 8 (bitsOf w 8 8)
                                         token := namedToken (s.core core) w, value := namedValue w }] }) (s.nextPc core) := by
  simp [doSignal, h, hroom]

theorem doSignal_of_full (hfull : 16 ≤ (s.core core).sigq.length) :
    doSignal core s w = .stall (s.barrierBits core) s := by
  simp [doSignal, h, hfull]

end

/-! ### SIGNAL_APPLY (R153, R154, R273) -/

theorem signalReady_iff {s : State} {core : Nat} {g : SigEntry} :
    s.signalReady core g = true ↔ ∀ p ∈ s.pendingOps core, p.seq < g.seq → unitIn g.units.toNat p.unit = false := by
  simp only [State.signalReady, List.all_eq_true, Bool.or_eq_true, decide_eq_true_eq, Bool.not_eq_true', ← not_lt,
    imp_iff_not_or]

theorem fromQuarantine_core (s : State) (core : CoreIx) :
    s.fromQuarantine (.agent core) = if (s.site (core / 8)).status = .quarantined then some ((core : Nat) / 8) else none := by
  simp [State.fromQuarantine, TxnFrom.site, core.isLt]

theorem counter_record_of_ne (s : State) (blk code unit arg0 arg1 b : Nat) {o : Nat} (ho : o < 65536) (hne : o ≠ 0x188) :
    (s.record blk code unit arg0 arg1).counter b o = s.counter b o := by
  unfold State.record State.recordIn
  dsimp only
  split
  · exact counter_count_of_ne _ _ _ _ (by decide) ho hne
  split
  · rfl
  · exact counter_count_of_ne _ _ _ _ (by decide) ho hne

/-- A dropped packet is counted once; the first of its site is recorded. -/
theorem dropPacket_eq (s : State) (site cls : Nat) :
    s.dropPacket site cls = { s with
        counters := (s.dropPacket site cls).counters, sites := (s.dropPacket site cls).sites
        sheets := (s.dropPacket site cls).sheets }
      ∧ (s.dropPacket site cls).counter bSite 0x140 = s.counter bSite 0x140 + 1 := by
  have hone : (s.count bSite 0x140 1).counter bSite 0x140 = s.counter bSite 0x140 + 1 := counter_count ..
  unfold State.dropPacket
  dsimp only
  split
  · exact ⟨rfl, hone⟩
  · refine ⟨?_, (counter_record_of_ne _ _ _ _ _ _ _ (by decide) (by decide)).trans hone⟩
    unfold State.record State.recordIn
    dsimp only
    split_ifs <;> rfl

section
variable {s : State} {core : CoreIx} {g : SigEntry} {rest : List SigEntry} (hq : (s.core core).sigq = g :: rest)
include hq

theorem exec_signalApply_of_not_ready
    (hbusy : ∃ p ∈ s.pendingOps core, p.seq < g.seq ∧ unitIn g.units.toNat p.unit = true) :
    exec (.signalApply core) s = .next s := by
  have hready : ¬ s.signalReady core g = true := fun hready => by
    obtain ⟨p, hp, hseq, hunit⟩ := hbusy
    simp [signalReady_iff.1 hready p hp hseq] at hunit
  simp [exec, execSignalApply, hq, hready]

variable (hready : ∀ p ∈ s.pendingOps core, p.seq < g.seq → unitIn g.units.toNat p.unit = false)
include hready

theorem exec_signalApply_of_quarantined (hsite : (s.site (core / 8)).status = .quarantined) :
    exec (.signalApply core) s =
      .next ((s.setCore core { s.core core with sigq := rest }).dropPacket ((core : Nat) / 8) 3) := by
  simp [exec, execSignalApply, hq, signalReady_iff.2 hready, fromQuarantine_core, hsite]

theorem exec_signalApply_of_reached (hsite : (s.site (core / 8)).status ≠ .quarantined) :
    exec (.signalApply core) s = .next ((s.setCore core { s.core core with sigq := rest }).sendToken
      (.signal (s.tokenAgent core) g.token g.value)) := by
  simp [exec, execSignalApply, hq, signalReady_iff.2 hready, fromQuarantine_core, hsite]

end

/-- Settles O37: a WAIT and an applied signal send one message of the core (`Sends`), a SIGNAL joins its queue. -/
theorem tokenInstructionsLeaveTheCore : Obligations.TokenInstructionsLeaveTheCore := by
  unfold Obligations.TokenInstructionsLeaveTheCore
  intro s core w c agent tok value sent
  refine ⟨fun h hright => ?wait, fun h hright => ?waitRefused, fun h hright => ⟨fun hroom => ?signal, fun hfull => ?full⟩,
    fun h hright => ?signalRefused, fun hempty => ?none, fun g rest hq => ⟨fun hready hsite => ?dropped,
      fun hready hsite => ?applied, fun hbusy => exec_signalApply_of_not_ready hq hbusy⟩⟩
  case wait =>
    have hsends := sends_of_go h (doWait_of_allowed hright) (sends_sendToken s core _ _)
    refine ⟨s.issue core .wait (doWait core), rfl, ?_, hsends⟩
    simp [State.coreIssues, hsends.2.1]
  case waitRefused => exact congrArg _ (issue_of_refused h (doWait_of_not_allowed hright))
  case signal =>
    exact ⟨s.issue core .signal (doSignal core), rfl, sends_of_go h (doSignal_of_room hright hroom) (sends_setCore s core _)⟩
  case full => exact congrArg _ (issue_of_stalled h (doSignal_of_full hright hfull))
  case signalRefused => exact congrArg _ (issue_of_refused h (doSignal_of_not_allowed hright))
  case none => simp [exec, execSignalApply, show (s.core core).sigq = [] from hempty]
  case dropped =>
    obtain ⟨hframe, hcount⟩ := dropPacket_eq (s.setCore core { c with sigq := rest }) ((core : Nat) / 8) 3
    refine ⟨_, exec_signalApply_of_quarantined hq hready hsite, ?_⟩
    generalize (s.setCore core { c with sigq := rest }).dropPacket ((core : Nat) / 8) 3 = t at hframe hcount
    have hcore : ∀ n, t.core n = (s.setCore core { c with sigq := rest }).core n := fun n => by rw [hframe]; rfl
    refine ⟨?_, (hcore core).trans (core_setCore_same ..), fun n hn => (hcore n).trans (core_setCore_ne _ _ _ _ hn), hcount⟩
    rw [hframe]
    rfl
  case applied =>
    exact ⟨_, exec_signalApply_of_reached hq hready hsite, sends_sendToken s core { c with sigq := rest } _⟩

end Sys2Proof.Machine
end

section
/-! LOAD and STORE of the vector unit: the row they reach, what a load puts in VD, and what a store leaves of the scratchpad
(R132, R134, R145, R333). -/

namespace Sys2Proof.Machine

/-! ### Vector operations that reach the scratchpad -/

/-- What a vector operation that nothing holds back leaves: the state `x` of its own work, with its flags noted. -/
theorem scratchIssue_issued {s : State} {core w kind : Nat} {op : CoreOp} {run : State → Nat → Issue} {r wr : Option Span}
    {act : State → State × Flags} (h : Presents s core op w) (hrun : run s w = s.vectorIssue core kind r wr act)
    (hfree : s.stallsFor core r wr true [(kind, core / 8, 1)] = 0) :
    let x := act (s.pay core [(kind, core / 8, 1)])
    let t := s.issue core op run
    t.core core = { x.1.core core with
        sticky := Flags.or (x.1.core core).sticky x.2, pc := BitVec.ofNat 48 (s.nextPc core), held := false }
      ∧ (∀ n, n ≠ core → t.core n = x.1.core n) ∧ t.mem = x.1.mem
      ∧ ∀ out, ScratchWork out s x.1 → ScratchWork out s t := by
  intro x t
  rw [State.vectorIssue, if_neg (not_not.2 hfree)] at hrun
  have ht : t = _ := issue_of_presents h hrun
  have hpriced : PricedFrame core x.1 t := by
    rw [ht]
    exact ((((PricedFrame.refl core x.1).coreFlags 5 0 x.2).count ..).setCore _).count ..
  refine ⟨?_, hpriced.2, (ScratchStill.ofPriced hpriced).mem, fun out hwork => hwork.trans (.ofPriced hpriced)⟩
  rw [ht]
  simp [x]

/-! ### The row of a LOAD or STORE (R134, R145) -/

/-- The number of lanes of a LOAD or STORE that lie within the extents of its row. -/
def rowLanes (w : Nat) (x : Tensor) (row : Nat) : Nat := if row < x.extent 1 then Nat.min (vLanes w) (x.extent 0) else 0

/-- A lane within the extents of the row, as the vector unit tests it. -/
theorem lt_rowLanes_iff {w i row : Nat} {x : Tensor} (hi : i < vLanes w) :
    i < rowLanes w x row ↔ i < (if row < x.extent 1 then x.extent 0 else 0) := by
  unfold rowLanes
  split
  · exact ⟨fun h => lt_of_lt_of_le h (Nat.min_le_right ..), fun h => lt_min hi h⟩
  · rfl

theorem rowLanes_le (w : Nat) (x : Tensor) (row : Nat) : rowLanes w x row ≤ vLanes w := by
  unfold rowLanes
  split
  · exact Nat.min_le_left ..
  · exact Nat.zero_le _

/-- Offset in the scratchpad of a row of a tensor. -/
abbrev Tensor.rowOffset (x : Tensor) (row : Nat) : Nat := (x.addr 0 row 0 0).toNat

/-- A tensor of one or two dimensions: a row of it is one run of whole elements, and begins in the scratchpad. -/
theorem addr_of_vTensor {c : Core} {w : Nat} {x : Tensor} (hx : vTensor c w = some x) (hrow : 0 < rowLanes w x (vRow c w)) (i : Nat) :
    (x.addr i (vRow c w) 0 0).toNat = x.rowOffset (vRow c w) + i * x.esize := by
  unfold vTensor at hx
  split at hx
  · cases hx
  next d _ =>
  dsimp only at hx
  split at hx
  case isFalse => cases hx
  next hcheck =>
  obtain rfl := Option.some.inj hx
  generalize c.tensor d = x at *
  simp only [Bool.and_eq_true, decide_eq_true_eq, vectorFmt] at hcheck
  obtain ⟨⟨⟨hfmt, hrank⟩, -⟩, hin⟩ := hcheck
  have h4 : x.is4 = false := by
    simp only [Tensor.is4, Bool.or_eq_false_iff, beq_eq_false_iff_ne]
    omega
  unfold rowLanes at hrow
  split at hrow
  case isFalse => exact absurd hrow (lt_irrefl 0)
  next hlast =>
  have hfirst : 0 < Nat.min (vLanes w) (x.extent 0) := hrow
  have hone : ∀ j, 2 ≤ j → x.extent j = 1 := fun j hj => by rw [Tensor.extent, if_neg (by omega)]
  have hspan : Nat.min (vRow c w + 1) (x.extent 1) = vRow c w + 1 := Nat.min_eq_left hlast
  have hstart : 0 ≤ x.base + vRow c w * x.stride1 := by
    simp only [Tensor.reach, h4, hone 2 (le_refl 2), hone 3 (by decide), hspan, Nat.min_self] at hin
    rw [if_neg (by omega)] at hin
    simp only [Bool.false_eq_true, if_false, inScratch, strideSpan, Bool.and_eq_true, decide_eq_true_eq] at hin
    simpa using hin.1
  unfold Tensor.rowOffset Tensor.addr
  simp only [h4, Bool.false_eq_true, if_false]
  omega

/-! ### LOAD (R145) -/

/-- Element `i` of the row that a LOAD names, as it stands: converted to the mode's format; +0 beyond the extents. -/
def State.loadedLane (s : State) (core : Nat) (c : Core) (w : Nat) (x : Tensor) (i : Nat) : Res × Bool :=
  if i < rowLanes w x (vRow c w) then
    let bs := s.readKey (scratchKey core (x.rowOffset (vRow c w)) + i * x.esize) x.esize
    (convertElem (x.format.getD .fp32) (leNat bs.data) x.scale (vFmt w) 127 (vTrunc w) c.satMode, bs.anyPoison)
  else ((0, .none), false)

/-- The lanes of VD from the elements that a LOAD has read. -/
def Core.loadResults (c : Core) (w : Nat) (x : Tensor) (es : List Elem) : List (Res × Bool) :=
  (es.zip (List.range es.length)).map fun e =>
    if e.2 < (if vRow c w < x.extent 1 then x.extent 0 else 0) then
      (convertElem (x.format.getD .fp32) e.1.1 x.scale (vFmt w) 127 (vTrunc w) c.satMode, e.1.2)
    else ((0, .none), false)

/-- The work of a LOAD, after its price: the row is read, and the lanes take its elements. -/
def State.loadRow (core : Nat) (c : Core) (w : Nat) (x : Tensor) (s : State) : State × Flags :=
  let r := s.rowAt (8 * core + 3) core x 0 (vLanes w) (vRow c w)
  let p := (r.1.core core).putLanes w (c.loadResults w x r.2)
  (r.1.setCore core p.1, p.2)

theorem doVload_of_tensor {s : State} {core w : Nat} {x : Tensor} (hx : vTensor (s.core core) w = some x) :
    doVload core s w = s.vectorIssue core 4 (vReach (s.core core) w x) none (State.loadRow core (s.core core) w x) := by
  simp only [doVload, hx]
  rfl

theorem doVload_of_no_tensor {s : State} {core w : Nat} (hx : vTensor (s.core core) w = none) :
    doVload core s w = .refuse 3 := by
  simp only [doVload, hx]

theorem UnitAccess.rowAt {s t : State} (h : UnitAccess s t) (who core : Nat) (x : Tensor) (lo n i1 : Nat) :
    UnitAccess s (t.rowAt who core x lo n i1).1 := by
  unfold State.rowAt
  dsimp only
  generalize (if i1 < x.extent 1 then Nat.min n (x.extent 0 - lo) else 0) = m
  split
  · exact h
  · exact h.ownRead ..

section
variable {s : State} {core : Nat} (hserves : scratchServes s core) (hup : s.upsets = []) (hwf : Memory.wf s.mem = true)
include hserves hup hwf

/-- Where every bank serves and no bit error waits, the elements of a row are read as they stand. -/
theorem rowAt_of_serves (who : Nat) (x : Tensor) (n i1 : Nat) :
    (s.rowAt who core x 0 n i1).2 = (List.range n).map fun i =>
      if i < (if i1 < x.extent 1 then Nat.min n (x.extent 0) else 0) then
        let bs := s.readKey (scratchKey core (x.addr 0 i1 0 0).toNat + i * x.esize) x.esize
        (leNat bs.data, bs.anyPoison)
      else (0, false) := by
  unfold State.rowAt
  simp only [Nat.sub_zero]
  generalize hm : (if i1 < x.extent 1 then Nat.min n (x.extent 0) else 0) = m
  refine List.map_congr_left fun i _ => ?_
  by_cases hi : i < m
  · have hroom : i * x.esize + x.esize ≤ m * x.esize := by
      rw [← Nat.succ_mul]
      exact Nat.mul_le_mul_right _ hi
    rw [if_pos hi, if_pos hi, if_neg (by omega), (ownRead_of_serves hserves hup hwf who _ _).1, readKey_part hwf _ hroom]
  · rw [if_neg hi, if_neg hi]

/-- Then each lane takes its element as it stands. -/
theorem loadResults_of_serves (who : Nat) (c : Core) (w : Nat) (x : Tensor) :
    c.loadResults w x (s.rowAt who core x 0 (vLanes w) (vRow c w)).2
      = (List.range (vLanes w)).map (s.loadedLane core c w x) := by
  have hzip : ∀ f : Nat → Elem, ((List.range (vLanes w)).map f).zip (List.range (vLanes w))
      = (List.range (vLanes w)).map fun i => (f i, i) := fun f => by
    simpa using List.zip_map' (f := f) (g := id) (l := List.range (vLanes w))
  rw [Core.loadResults, rowAt_of_serves hserves hup hwf, List.length_map, List.length_range, hzip, List.map_map]
  refine List.map_congr_left fun i hi => ?_
  simp only [Function.comp_apply, State.loadedLane, ← lt_rowLanes_iff (List.mem_range.1 hi)]
  split
  · next h => rw [if_pos (show i < (if vRow c w < x.extent 1 then Nat.min (vLanes w) (x.extent 0) else 0) from h)]
  · rfl

end

/-! ### STORE (R145) -/

/-- The bytes of a lane that is stored. -/
def storedBytes (x : Tensor) (r : Res × Bool) : PBytes := (elemBytes (x.format.getD .fp32) r.1.1).map fun b => (b, r.2)

theorem length_storedBytes (x : Tensor) (r : Res × Bool) : (storedBytes x r).length = x.esize := by
  simp [storedBytes, elemBytes, length_leBytes, Tensor.esize]

/-- The lanes of VA converted to the destination's format. -/
def Core.convertedLanes (c : Core) (w : Nat) (x : Tensor) : List (Res × Bool) :=
  (c.lanes w (vVa w)).map fun l => (convertScaled l.1 (x.format.getD .fp32) x.scale (vTrunc w) c.satMode, l.2)

/-- The lanes that a STORE writes: none where MASKEN or the extents leave it out. -/
def Core.storedLanes (c : Core) (w : Nat) (x : Tensor) (row : Nat) : List OutLane :=
  let rs := c.masked w (c.convertedLanes w x)
  (rs.zip (List.range rs.length)).map fun e =>
    if e.2 < (if row < x.extent 1 then x.extent 0 else 0) then e.1 else none

/-- The runs of bytes that a STORE writes, each with its first lane. -/
def Core.storedRuns (c : Core) (w : Nat) (x : Tensor) (row : Nat) : List (Nat × PBytes) :=
  storeRuns 0 ((c.storedLanes w x row).map fun o => o.map (storedBytes x))

/-- The work of a STORE, after its price: each run is written at its place. -/
def State.storeRow (core : Nat) (c : Core) (w : Nat) (x : Tensor) (s : State) : State × Flags :=
  (((s.core core).storedRuns w x (vRow c w)).foldl
      (fun acc r => acc.ownWrite (8 * core + 3) core (x.addr r.1 (vRow c w) 0 0).toNat r.2) s,
    laneFlags ((s.core core).storedLanes w x (vRow c w)))

theorem doVstore_of_no_tensor {s : State} {core w : Nat} (hx : vTensor (s.core core) w = none) :
    doVstore core s w = .refuse 3 := by
  simp only [doVstore, hx]

/-- A run of lanes lies between its first lane and the end `b` of the lanes that are written. -/
theorem storeRuns_bounds {size b : Nat} {lanes : List (Option PBytes)} {lane : Nat}
    (hlanes : ∀ i bs, lanes[i]? = some (some bs) → bs.length = size ∧ lane + i < b) :
    ∀ r ∈ storeRuns lane lanes, lane ≤ r.1 ∧ r.1 * size + r.2.length ≤ b * size := by
  induction lanes generalizing lane with
  | nil => exact fun r hr => absurd hr List.not_mem_nil
  | cons o rest ih =>
    have hrest := ih (lane := lane + 1) fun i bs hi => by
      have := hlanes (i + 1) bs hi
      omega
    cases o with
    | none => exact fun r hr => ⟨Nat.le_of_succ_le (hrest r hr).1, (hrest r hr).2⟩
    | some bs =>
      obtain ⟨hsize, hlane⟩ := hlanes 0 bs rfl
      have hroom := Nat.mul_le_mul_right size (Nat.succ_le_of_lt hlane)
      rw [Nat.succ_mul] at hroom
      intro r hr
      rw [storeRuns] at hr
      split at hr
      · next k more tail heq =>
        rw [heq] at hrest
        obtain ⟨⟨hk, hmore⟩, htail⟩ := List.forall_mem_cons.1 hrest
        split at hr
        · next hnext =>
          rcases List.mem_cons.1 hr with rfl | hr
          · refine ⟨le_rfl, ?_⟩
            dsimp only at hmore ⊢
            rw [hnext, Nat.succ_mul] at hmore
            rw [List.length_append]
            omega
          · exact ⟨Nat.le_of_succ_le (htail r hr).1, (htail r hr).2⟩
        · rcases List.mem_cons.1 hr with rfl | hr
          · exact ⟨le_rfl, by dsimp only; omega⟩
          · exact ⟨Nat.le_of_succ_le (hrest r hr).1, (hrest r hr).2⟩
      · rw [List.mem_singleton.1 hr]
        exact ⟨le_rfl, by dsimp only; omega⟩

theorem storeRuns_replicate_none (n lane : Nat) : storeRuns lane (List.replicate n none) = [] := by
  induction n generalizing lane with
  | zero => rfl
  | succ n ih => exact ih (lane + 1)

/-- Lanes that are all written are one run. -/
theorem storeRuns_of_all_written {parts : List PBytes} (hne : parts ≠ []) (n lane : Nat) :
    storeRuns lane (parts.map some ++ List.replicate n none) = [(lane, parts.flatten)] := by
  induction parts generalizing lane with
  | nil => exact absurd rfl hne
  | cons bs parts ih =>
    rw [List.map_cons, List.cons_append, storeRuns]
    cases parts with
    | nil => simp [storeRuns_replicate_none]
    | cons more parts => rw [ih (List.cons_ne_nil more parts)]; simp

theorem length_lanes (c : Core) (w reg : Nat) : (c.lanes w reg).length = vLanes w := by simp [Core.lanes]

theorem length_convertedLanes (c : Core) (w : Nat) (x : Tensor) : (c.convertedLanes w x).length = vLanes w := by
  simp [Core.convertedLanes, length_lanes]

theorem length_masked (c : Core) (w : Nat) (rs : List (Res × Bool)) : (c.masked w rs).length = rs.length := by
  simp [Core.masked]

/-- No run of a STORE reaches beyond the lanes within the extents. -/
theorem storedRuns_bounds (c : Core) (w : Nat) (x : Tensor) (row : Nat) :
    ∀ r ∈ c.storedRuns w x row, r.1 * x.esize + r.2.length ≤ rowLanes w x row * x.esize := by
  refine fun r hr => (storeRuns_bounds (b := rowLanes w x row) (fun i bs hi => ?_) r hr).2
  rw [List.getElem?_map, Option.map_eq_some_iff] at hi
  obtain ⟨o, ho, hbs⟩ := hi
  obtain ⟨r, rfl, rfl⟩ := Option.map_eq_some_iff.1 hbs
  refine ⟨length_storedBytes x r, ?_⟩
  obtain ⟨hlen, hlane⟩ := List.getElem?_eq_some_iff.1 ho
  simp only [Core.storedLanes, List.getElem_map, List.getElem_zip, List.getElem_range] at hlane
  have hi : i < vLanes w := by simpa [Core.storedLanes, length_masked, length_convertedLanes] using hlen
  rw [Nat.zero_add, lt_rowLanes_iff hi]
  by_contra hout
  rw [if_neg hout] at hlane
  cases hlane

theorem masked_of_unmasked {c : Core} {w : Nat} (hmask : bitOf w 19 = false) (rs : List (Res × Bool)) :
    c.masked w rs = rs.map some := by
  have hfst : (rs.zip (List.range rs.length)).map Prod.fst = rs := List.map_fst_zip (by simp)
  conv_rhs => rw [← hfst, List.map_map]
  simp [Core.masked, Core.laneMask, hmask, Function.comp_def]

/-- The bytes of the lanes within the extents of a row. -/
def Core.storedRow (c : Core) (w : Nat) (x : Tensor) (row : Nat) : PBytes :=
  ((c.convertedLanes w x).take (rowLanes w x row)).flatMap (storedBytes x)

theorem length_take_convertedLanes (c : Core) (w : Nat) (x : Tensor) (row : Nat) :
    ((c.convertedLanes w x).take (rowLanes w x row)).length = rowLanes w x row := by
  rw [List.length_take, length_convertedLanes, Nat.min_eq_left (rowLanes_le w x row)]

theorem length_storedRow (c : Core) (w : Nat) (x : Tensor) (row : Nat) :
    (c.storedRow w x row).length = rowLanes w x row * x.esize := by
  rw [Core.storedRow, length_flatMap_of_forall_length fun r _ => length_storedBytes x r, length_take_convertedLanes]

/-- Byte j of lane i of a row that is stored. -/
theorem getD_storedRow (c : Core) {w i j row : Nat} {x : Tensor} (hi : i < rowLanes w x row) (hj : j < x.esize) (d : Byte) :
    (c.storedRow w x row).data.getD (i * x.esize + j) d =
      BitVec.ofNat 8 ((convertScaled ((c.lanes w (vVa w)).getD i (.zero false, false)).1 (x.format.getD .fp32) x.scale
        (vTrunc w) c.satMode).1 / 256 ^ j) := by
  have hdata : (c.storedRow w x row).data = ((c.convertedLanes w x).take (rowLanes w x row)).flatMap
      fun r => elemBytes (x.format.getD .fp32) r.1.1 := by
    simp [Core.storedRow, PBytes.data, storedBytes, List.map_flatMap, Function.comp_def]
  have hlen : ∀ r ∈ (c.convertedLanes w x).take (rowLanes w x row),
      (elemBytes (x.format.getD .fp32) r.1.1).length = x.esize := fun r _ => length_leBytes ..
  have hlane : i < (c.lanes w (vVa w)).length := by
    rw [length_lanes]
    exact hi.trans_le (rowLanes_le ..)
  rw [hdata, getD_flatMap_of_forall_length hlen (by rwa [length_take_convertedLanes]) hj]
  refine (getD_leBytes _ _ hj d).trans ?_
  simp [Core.convertedLanes, hlane]

/-- Without MASKEN a STORE is one run: the lanes within the extents. -/
theorem storedRuns_of_unmasked {c : Core} {w row : Nat} {x : Tensor} (hmask : bitOf w 19 = false) (hrow : 0 < rowLanes w x row) :
    c.storedRuns w x row = [(0, c.storedRow w x row)] := by
  have hle := rowLanes_le w x row
  have hparts : (c.storedLanes w x row).map (fun o => o.map (storedBytes x)) =
      (((c.convertedLanes w x).take (rowLanes w x row)).map (storedBytes x)).map some
        ++ List.replicate (vLanes w - rowLanes w x row) none := by
    refine List.ext_getElem ?_ fun i hi _ => ?_
    · simp [Core.storedLanes, length_masked, length_convertedLanes, hle]
    · have hlane : i < vLanes w := by simpa [Core.storedLanes, length_masked, length_convertedLanes] using hi
      simp only [Core.storedLanes, masked_of_unmasked hmask, List.getElem_map, List.getElem_zip, List.getElem_range,
        ← lt_rowLanes_iff hlane, List.getElem_append, List.length_map, List.length_take, length_convertedLanes,
        Nat.min_eq_left hle, List.getElem_take, List.getElem_replicate]
      split_ifs <;> rfl
  rw [Core.storedRuns, hparts, storeRuns_of_all_written, Core.storedRow, List.flatMap_def]
  exact List.ne_nil_of_length_pos (by simpa [length_convertedLanes, hle] using hrow)

section
variable {s : State} {core : CoreIx} {w : Nat} {x : Tensor} (hx : vTensor (s.core core) w = some x)
include hx

theorem doVstore_of_tensor :
    doVstore core s w = s.vectorIssue core 4 none (vReach (s.core core) w x) (State.storeRow core (s.core core) w x) := by
  simp only [doVstore, hx]
  rfl

/-! ### What LOAD and STORE leave -/

/-- A LOAD changes no stored byte but where it finds a bit error. -/
theorem load_frame (h : Presents s core .vload w)
    (hfree : s.stallsFor core (vReach (s.core core) w x) none true [(4, core / 8, 1)] = 0) :
    let t := s.issue core .vload (doVload core)
    ScratchWork (fun _ => True) s t ∧ ∀ n : Nat, n ≠ core → t.core n = s.core n := by
  obtain ⟨-, hothers, -, hframe⟩ := scratchIssue_issued h (doVload_of_tensor hx) hfree
  have hpaid := (PricedFrame.refl core s).pay [(4, core / 8, 1)]
  have hread := (UnitAccess.refl (s.pay core [(4, core / 8, 1)])).rowAt (8 * core + 3) core x 0 (vLanes w) (vRow (s.core core) w)
  refine ⟨hframe _ (((ScratchWork.ofPriced hpaid).trans (.ofAccess hread)).setCore ..), fun n hn => (hothers n hn).trans ?_⟩
  rw [State.loadRow, core_setCore_ne _ _ _ _ hn, State.core, hread.cores]
  exact hpaid.2 n hn

/-- Where every bank serves and no bit error waits, the lanes of VD take the row as it stands. -/
theorem load_puts (h : Presents s core .vload w)
    (hfree : s.stallsFor core (vReach (s.core core) w x) none true [(4, core / 8, 1)] = 0)
    (hserves : scratchServes s core) (hup : s.upsets = []) (hwf : Memory.wf s.mem = true) :
    let c := s.core core
    let out := c.masked w ((List.range (vLanes w)).map (s.loadedLane core c w x))
    Issued s (s.issue core .vload (doVload core)) core
      { c.writeLanes w (vVd w) out with sticky := Flags.or c.sticky (laneFlags out) } := by
  obtain ⟨hcore, -, -, -⟩ := scratchIssue_issued h (doVload_of_tensor hx) hfree
  refine ⟨?_, (load_frame hx h hfree).2⟩
  have hstill := ScratchStill.ofPriced ((PricedFrame.refl core s).pay [(4, core / 8, 1)])
  have hown := core_pay_same s core [(4, core / 8, 1)]
  generalize s.pay core [(4, core / 8, 1)] = p at hcore hstill hown
  have hread := (UnitAccess.refl p).rowAt (8 * core + 3) core x 0 (vLanes w) (vRow (s.core core) w)
  have hresults := loadResults_of_serves (hstill.scratchServes hserves) (hstill.upsets.trans hup) (by rwa [hstill.mem])
    (8 * core + 3) (s.core core) w x
  have hlane : p.loadedLane core (s.core core) w x = s.loadedLane core (s.core core) w x :=
    funext fun i => by simp only [State.loadedLane, hstill.readKey]
  have hreader : (p.rowAt (8 * core + 3) core x 0 (vLanes w) (vRow (s.core core) w)).1.core core
      = { s.core core with seq := (s.core core).seq + 1 } := by
    rw [State.core, hread.cores]
    exact hown
  rw [hlane] at hresults
  rw [hcore, State.loadRow, core_setCore_same, hresults, hreader]
  rfl

variable (h : Presents s core .vstore w)
  (hfree : s.stallsFor core none (vReach (s.core core) w x) true [(4, core / 8, 1)] = 0)
include h hfree

/-- A STORE changes its core's flags alone, and no stored byte outside its row but where it finds a bit error. -/
theorem store_frame :
    let t := s.issue core .vstore (doVstore core)
    ScratchWork (fun k => k < scratchKey core (x.rowOffset (vRow (s.core core) w))
        ∨ scratchKey core (x.rowOffset (vRow (s.core core) w)) + rowLanes w x (vRow (s.core core) w) * x.esize ≤ k) s t
      ∧ Issued s t core { s.core core with sticky := (t.core core).sticky } := by
  obtain ⟨hcore, hothers, -, hframe⟩ := scratchIssue_issued h (doVstore_of_tensor hx) hfree
  have hpaid := (PricedFrame.refl core s).pay [(4, core / 8, 1)]
  have hown := core_pay_same s core [(4, core / 8, 1)]
  generalize s.pay core [(4, core / 8, 1)] = p at hcore hothers hframe hpaid hown
  have hcores : ∀ n, (State.storeRow core (s.core core) w x p).1.core n = p.core n := fun n => by
    have hwrites : FabricAccess p (State.storeRow core (s.core core) w x p).1 :=
      (FabricAccess.refl p).foldl _ fun _ hv => hv.ownWrite ..
    rw [hwrites.frame]
    rfl
  intro t
  refine ⟨hframe _ ((ScratchWork.ofPriced hpaid).foldl _ fun r hr hv => hv.ownWrite _ _ fun k hk => ?_), ?_, fun n hn => ?_⟩
  · have hbounds := storedRuns_bounds (p.core core) w x (vRow (s.core core) w) r hr
    rcases Nat.eq_zero_or_pos (rowLanes w x (vRow (s.core core) w)) with hnone | hsome
    · rw [hnone, Nat.zero_mul] at hbounds
      omega
    · rw [addr_of_vTensor hx hsome, scratchKey_add]
      omega
  · rw [hcore, hcores, hown]
  · rw [hothers n hn, hcores, hpaid.2 n hn]

/-- Where every bank serves and no bit error waits, each lane within the extents stands converted at its place. -/
theorem store_shows (hserves : scratchServes s core) (hup : s.upsets = []) (hmask : bitOf w 19 = false) {i j : Nat}
    (hi : i < rowLanes w x (vRow (s.core core) w)) (hj : j < x.esize) :
    Map.get (s.issue core .vstore (doVstore core)).mem (scratchKey core (x.rowOffset (vRow (s.core core) w)) + i * x.esize + j) unlistedByte
      = BitVec.ofNat 8 ((convertScaled (((s.core core).lanes w (vVa w)).getD i (.zero false, false)).1 (x.format.getD .fp32) x.scale
          (vTrunc w) (s.core core).satMode).1 / 256 ^ j) := by
  obtain ⟨-, -, hmem, -⟩ := scratchIssue_issued h (doVstore_of_tensor hx) hfree
  have hstill := ScratchStill.ofPriced ((PricedFrame.refl core s).pay [(4, core / 8, 1)])
  have hown := core_pay_same s core [(4, core / 8, 1)]
  generalize s.pay core [(4, core / 8, 1)] = p at hmem hstill hown
  have hrun : (p.core core).storedRuns w x (vRow (s.core core) w) = [(0, (s.core core).storedRow w x (vRow (s.core core) w))] := by
    rw [hown]
    exact storedRuns_of_unmasked hmask (Nat.zero_lt_of_lt hi)
  have hplace : i * x.esize + j < ((s.core core).storedRow w x (vRow (s.core core) w)).length := by
    have hroom := Nat.mul_le_mul_right x.esize (Nat.succ_le_of_lt hi)
    rw [Nat.succ_mul] at hroom
    rw [length_storedRow]
    omega
  rw [hmem, State.storeRow, hrun, Nat.add_assoc]
  exact (get_ownWrite_of_serves (hstill.scratchServes hserves) (hstill.upsets.trans hup) (8 * core + 3) _ _ hplace).trans
    (getD_storedRow (s.core core) hi hj _)

end

/-- Settles O30: a LOAD reads the row as it stands (`load_puts`), a STORE is the runs of its written lanes (`store_frame`,
`store_shows`). -/
theorem vectorLoadAndStore : Obligations.VectorLoadAndStore := by
  unfold Obligations.VectorLoadAndStore
  intro s core w c
  refine ⟨fun hnone => ⟨fun h => ?noLoad, fun h => ?noStore⟩, fun tn htn => ⟨fun h hfree => ?load, fun h hfree => ?store⟩⟩
  case noLoad => exact congrArg _ (issue_of_refused h (doVload_of_no_tensor hnone))
  case noStore => exact congrArg _ (issue_of_refused h (doVstore_of_no_tensor hnone))
  case load =>
    obtain ⟨hwork, hothers⟩ := load_frame htn h hfree
    exact ⟨s.issue core .vload (doVload core), rfl, hwork.frame, fun k => hwork.sameByte trivial, hothers,
      fun hserves hclean hwf => load_puts htn h hfree hserves hclean.1 hwf⟩
  case store =>
    obtain ⟨hwork, hissued⟩ := store_frame htn h hfree
    exact ⟨s.issue core .vstore (doVstore core), rfl, hwork.frame, hissued, fun k hk => hwork.sameByte hk,
      fun hserves hclean hmask i j hi hj => store_shows htn h hfree hserves hclean.1 hmask hi hj⟩

end Sys2Proof.Machine
end

section
/-! Tokens: the scan of a waiter queue, what a change of a count leaves of the state, and the operations of a TOK_ block
(R171, R188, R189, R199). -/

namespace Sys2Proof.Machine

/-! ### The scan of the queue (R189) -/

theorem releaseScan_cons_of_le {count : Nat} {v : W32} (h : v.toNat ≤ count) (a : Nat) (ws : List (Nat × W32)) :
    releaseScan count ((a, v) :: ws) = ((releaseScan (count - v.toNat) ws).1, (releaseScan (count - v.toNat) ws).2.1,
      a :: (releaseScan (count - v.toNat) ws).2.2) := by
  rw [releaseScan, if_pos h]

theorem releaseScan_cons_of_lt {count : Nat} {v : W32} (h : count < v.toNat) (a : Nat) (ws : List (Nat × W32)) :
    releaseScan count ((a, v) :: ws)
      = ((releaseScan count ws).1, (a, v) :: (releaseScan count ws).2.1, (releaseScan count ws).2.2) := by
  rw [releaseScan, if_neg (Nat.not_le.2 h)]

/-- The scan takes what it releases off the count, leaves the others in order, and covers none of those with what is left. -/
theorem releaseScan_spec (ws : List (Nat × W32)) (count : Nat) :
    (releaseScan count ws).2.1.Sublist ws ∧ (∀ w ∈ (releaseScan count ws).2.1, (releaseScan count ws).1 < w.2.toNat)
      ∧ (releaseScan count ws).1 ≤ count
      ∧ (releaseScan count ws).2.2.length + (releaseScan count ws).2.1.length = ws.length := by
  induction ws generalizing count with
  | nil => simp [releaseScan]
  | cons w ws ih =>
    obtain ⟨a, v⟩ := w
    by_cases h : v.toNat ≤ count
    · obtain ⟨hsub, hleft, hle, hlen⟩ := ih (count - v.toNat)
      rw [releaseScan_cons_of_le h]
      exact ⟨hsub.cons _, hleft, by omega, by simp only [List.length_cons]; omega⟩
    · obtain ⟨hsub, hleft, hle, hlen⟩ := ih count
      rw [releaseScan_cons_of_lt (Nat.not_le.1 h)]
      refine ⟨hsub.cons_cons _, fun w hw => ?_, hle, by simp only [List.length_cons]; omega⟩
      rcases List.mem_cons.1 hw with rfl | hw
      · exact hle.trans_lt (Nat.not_le.1 h)
      · exact hleft w hw

/-! ### Steps that change one token -/

/-- From `s` to `t` token `i` becomes `tk` and the messages `ms` set out; packets on their way may change. -/
structure TokenMove (i : Nat) (s t : State) (tk : Token) (ms : List TokMsg) : Prop where
  frame : t = { s with tokens := t.tokens, tokMsgs := s.tokMsgs ++ ms, sendq := t.sendq }
  token : t.token i = tk
  others : ∀ j, j ≠ i → t.token j = s.token j

namespace TokenMove

variable {i : Nat} {s t u : State} {tk tk' : Token} {ms ms' : List TokMsg}

theorem trans (h : TokenMove i s t tk ms) (k : TokenMove i t u tk' ms') : TokenMove i s u tk' (ms ++ ms') := by
  refine ⟨?_, k.token, fun j hj => (k.others j hj).trans (h.others j hj)⟩
  have htu := k.frame
  rw [h.frame] at htu
  rw [← List.append_assoc]
  exact htu

theorem turns (h : TokenMove i s t tk ms) : t.turns = s.turns := by rw [h.frame]
theorem regs (h : TokenMove i s t tk ms) : t.regs = s.regs := by rw [h.frame]
theorem sheets (h : TokenMove i s t tk ms) : t.sheets = s.sheets := by rw [h.frame]

theorem setToken (s : State) (i : Nat) (tk : Token) : TokenMove i s (s.setToken i tk) tk [] := by
  refine ⟨?_, token_setToken_same .., fun j hj => token_setToken_ne _ _ _ _ hj⟩
  rw [List.append_nil]
  rfl

theorem sendGrant (s : State) (i tile agent : Nat) :
    TokenMove i s (s.sendGrant tile agent) (s.token i) [.grant agent] := by
  have hframe : s.sendGrant tile agent
      = { s with tokMsgs := s.tokMsgs ++ [.grant agent], sendq := (s.sendGrant tile agent).sendq } := by
    unfold State.sendGrant
    rw [carry_eq]
  have htokens : ∀ j, (s.sendGrant tile agent).token j = s.token j := fun j => by rw [hframe]; rfl
  refine ⟨?_, htokens i, fun j _ => htokens j⟩
  rw [hframe]

theorem sendGrants (i tile : Nat) (agents : List Nat) (s : State) :
    TokenMove i s (agents.foldl (fun acc a => acc.sendGrant tile a) s) (s.token i) (agents.map .grant) := by
  induction agents generalizing s with
  | nil => exact ⟨by rw [List.map_nil, List.append_nil]; rfl, rfl, fun _ _ => rfl⟩
  | cons a agents ih =>
    have hfirst := sendGrant s i tile a
    have hrest := hfirst.trans (ih (s.sendGrant tile a))
    rwa [hfirst.token] at hrest

end TokenMove

/-- A token with a new count, stamped where that is a change (R189). -/
def Token.withCount (x : Token) (now : Word64) (v : Nat) : Token :=
  if x.count.toNat = v then x else { x with count := BitVec.ofNat 32 v, stamp := now }

theorem Token.toNat_count_withCount (x : Token) (now : Word64) {v : Nat} (hv : v < 2 ^ 32) :
    (x.withCount now v).count.toNat = v := by
  unfold Token.withCount
  split
  · assumption
  · exact BitVec.toNat_ofNat .. |>.trans (Nat.mod_eq_of_lt hv)

theorem Token.waiters_withCount (x : Token) (now : Word64) (v : Nat) : (x.withCount now v).waiters = x.waiters := by
  unfold Token.withCount
  split <;> rfl

theorem setCount_move (s : State) (i v : Nat) :
    TokenMove i s (s.setCount i v) ((s.token i).withCount s.turns.now v) [] := by
  unfold State.setCount Token.withCount
  dsimp only
  split
  · exact ⟨by rw [List.append_nil], rfl, fun _ _ => rfl⟩
  · exact .setToken ..

/-- A token whose count becomes `v`, after the scan of its queue. -/
def Token.scanned (old : Token) (now : Word64) (v : Nat) : Token :=
  { count := BitVec.ofNat 32 (releaseScan v old.waiters).1
    stamp := if v = old.count.toNat ∧ (releaseScan v old.waiters).1 = v then old.stamp else now
    waiters := (releaseScan v old.waiters).2.1 }

/-- The grants that the scan sends. -/
def Token.grants (old : Token) (v : Nat) : List TokMsg := (releaseScan v old.waiters).2.2.map .grant

/-- The two writes of the count, before the scan and after it, come to one. -/
theorem Token.withCount_scan (old : Token) (now : Word64) {v : Nat} (hv : v < 2 ^ 32) :
    Token.withCount { old.withCount now v with waiters := (releaseScan v old.waiters).2.1 } now (releaseScan v old.waiters).1
      = old.scanned now v := by
  have hcount := old.toNat_count_withCount now hv
  by_cases hleft : (releaseScan v old.waiters).1 = v
  · rw [Token.withCount, if_pos (hcount.trans hleft.symm), Token.scanned, hleft]
    by_cases hold : old.count.toNat = v
    · rw [Token.withCount, if_pos hold, if_pos ⟨hold.symm, rfl⟩, ← hold, BitVec.ofNat_toNat, BitVec.setWidth_eq]
    · rw [Token.withCount, if_neg hold, if_neg fun h => hold h.1.symm]
  · rw [Token.withCount, if_neg (fun h => hleft (h.symm.trans hcount)), Token.scanned, if_neg (fun h => hleft h.2)]

theorem release_move (s : State) (i : Nat) :
    let r := releaseScan (s.token i).count.toNat (s.token i).waiters
    TokenMove i s (s.release i) (Token.withCount { s.token i with waiters := r.2.1 } s.turns.now r.1) (r.2.2.map .grant) := by
  intro r
  have hkeep := TokenMove.setToken s i { s.token i with waiters := r.2.1 }
  have hleft := hkeep.trans (setCount_move _ i r.1)
  rw [hkeep.token, hkeep.turns] at hleft
  have hsent := hleft.trans (.sendGrants i (tokTile i) r.2.2 _)
  rw [hleft.token] at hsent
  exact hsent

/-- The count of a token is written, and its queue is scanned. -/
theorem release_setCount_move (s : State) (i : Nat) {v : Nat} (hv : v < 2 ^ 32) :
    TokenMove i s ((s.setCount i v).release i) ((s.token i).scanned s.turns.now v) ((s.token i).grants v) := by
  have hset := setCount_move s i v
  have hscan := hset.trans (release_move (s.setCount i v) i)
  rw [hset.token, hset.turns, Token.toNat_count_withCount _ _ hv, Token.waiters_withCount, Token.withCount_scan _ _ hv]
    at hscan
  exact hscan

/-! ### Operations on a token (R189, R199) -/

/-- What comes before an operation: a message has arrived, counters have counted. -/
def Arrived (s t : State) : Prop := t = { s with counters := t.counters, tokMsgs := t.tokMsgs }

theorem Arrived.refl (s : State) : Arrived s s := rfl

theorem Arrived.count {s t : State} (h : Arrived s t) (n off k : Nat) : Arrived s (t.count n off k) := by
  unfold Arrived at h ⊢
  rw [h]
  rfl

theorem record_eq (s : State) (blk code unit arg0 arg1 : Nat) :
    s.record blk code unit arg0 arg1 = { s with
      counters := (s.record blk code unit arg0 arg1).counters, sheets := (s.record blk code unit arg0 arg1).sheets } := by
  unfold State.record State.recordIn
  dsimp only
  split_ifs <;> rfl

theorem Arrived.held {s t : State} (h : Arrived s t) : t.held = s.held := by rw [h]

theorem Arrived.tokens {s t : State} (h : Arrived s t) : t.tokens = s.tokens := by rw [h]

theorem Arrived.isDisabled {s t : State} (h : Arrived s t) (n : Nat) : t.isDisabled n = s.isDisabled n := by
  rw [h]
  rfl

theorem Arrived.hasRight {s t : State} (h : Arrived s t) (agent token : Nat) (wait : Bool) :
    t.hasRight agent token wait = s.hasRight agent token wait := by
  rw [h]
  rfl

/-- From `s` to `t` token `i` becomes `tk` and `base` is on its way; counters, sheets, registers and packets may change. -/
def TokenDone (i : Nat) (s t : State) (tk : Token) (base : List TokMsg) : Prop :=
  t = { s with tokens := t.tokens, counters := t.counters, sheets := t.sheets, regs := t.regs, tokMsgs := base
               sendq := t.sendq }
    ∧ t.token i = tk ∧ ∀ j, j ≠ i → t.token j = s.token j

namespace TokenDone

variable {i : Nat} {s t u : State} {tk tk' : Token} {base base' ms : List TokMsg}

theorem token (h : TokenDone i s t tk base) : t.token i = tk := h.2.1

theorem turns (h : TokenDone i s t tk base) : t.turns = s.turns := by rw [h.1]

theorem trans (h : TokenDone i s t tk base) (k : TokenDone i t u tk' base') : TokenDone i s u tk' base' := by
  obtain ⟨hframe, -, hothers⟩ := h
  obtain ⟨kframe, ktoken, kothers⟩ := k
  refine ⟨?_, ktoken, fun j hj => (kothers j hj).trans (hothers j hj)⟩
  rw [hframe] at kframe
  exact kframe

theorem of_move (h : TokenMove i s t tk ms) : TokenDone i s t tk (s.tokMsgs ++ ms) := by
  refine ⟨?_, h.token, h.others⟩
  rw [h.frame]

theorem of_arrived (h : Arrived s t) (i : Nat) : TokenDone i s t (s.token i) t.tokMsgs := by
  have htoken : ∀ j, t.token j = s.token j := fun j => by rw [h]; rfl
  refine ⟨?_, htoken i, fun j _ => htoken j⟩
  rw [h]

theorem tokMsgs (h : TokenDone i s t tk base) : t.tokMsgs = base := by rw [h.1]

theorem move (h : TokenDone i s t tk base) (k : TokenMove i t u tk' ms) : TokenDone i s u tk' (base ++ ms) :=
  h.tokMsgs ▸ h.trans (of_move k)

theorem noted (h : TokenDone i s t tk base)
    (hu : u = { t with counters := u.counters, sheets := u.sheets, regs := u.regs }) : TokenDone i s u tk base := by
  have hsame : ∀ j, u.token j = t.token j := fun j => by rw [hu]; rfl
  have hafter : TokenDone i t u tk base := by
    refine ⟨?_, (hsame i).trans h.token, fun j _ => hsame j⟩
    rw [hu, h.tokMsgs]
  exact h.trans hafter

theorem count (h : TokenDone i s t tk base) (n off k : Nat) : TokenDone i s (t.count n off k) tk base := h.noted rfl

theorem setReg (h : TokenDone i s t tk base) (n off : Nat) (v : Word64) : TokenDone i s (t.setReg n off v) tk base :=
  h.noted rfl

theorem record (h : TokenDone i s t tk base) (blk code unit arg0 arg1 : Nat) :
    TokenDone i s (t.record blk code unit arg0 arg1) tk base :=
  h.noted (by rw [record_eq])

/-- The count becomes `v` and the queue is scanned. -/
theorem release (h : TokenDone i s t tk base) {v : Nat} (hv : v < 2 ^ 32) :
    TokenDone i s ((t.setCount i v).release i) (tk.scanned s.turns.now v) (base ++ tk.grants v) := by
  have hmove := h.move (release_setCount_move t i hv)
  rwa [h.token, h.turns] at hmove

end TokenDone

/-- What a record leaves of the sheets depends on the sheets and the turn alone. -/
theorem sheets_record_of_arrived {s t : State} (h : Arrived s t) (blk code unit arg0 arg1 : Nat) :
    (t.record blk code unit arg0 arg1).sheets = (s.record blk code unit arg0 arg1).sheets := by
  have hsheets : t.sheets = s.sheets := by rw [h]
  have hturns : t.turns = s.turns := by rw [h]
  unfold State.record State.recordIn State.setSheet State.sheet
  simp only [hsheets, hturns]
  split_ifs <;> simp [hsheets]

section
variable {s u : State} (hu : Arrived s u) (i : Nat)
include hu

theorem applySignal_done (v : Nat) :
    let old := s.token i
    let sum := Nat.min (old.count.toNat + v) (2 ^ 32 - 1)
    let t := u.applySignal i v
    TokenDone i s t (old.scanned s.turns.now sum) (u.tokMsgs ++ old.grants sum)
      ∧ t.sheets = (if 2 ^ 32 ≤ old.count.toNat + v then (s.record (bTok (tokTile i)) 0x020E (tokTile i) i 0).sheets
          else s.sheets)
      ∧ t.regs = s.regs := by
  intro old sum t
  have hnow := TokenDone.of_arrived hu i
  have hcount := hu.count (bTok (tokTile i)) 0x140 1
  have hsum : sum < 2 ^ 32 := (Nat.min_le_right ..).trans_lt (by decide)
  have hregs : u.regs = s.regs := by rw [hu]
  have hsheets : u.sheets = s.sheets := by rw [hu]
  have hdone := hnow.count (bTok (tokTile i)) 0x140 1
  by_cases hlimit : 2 ^ 32 ≤ old.count.toNat + v
  · have ht : t = ((((u.count (bTok (tokTile i)) 0x140 1).record (bTok (tokTile i)) 0x020E (tokTile i) i 0).setCount i
        sum).release i) := by
      simp only [t, State.applySignal, hnow.token, old, if_pos hlimit, sum]
    have hscan := release_setCount_move ((u.count (bTok (tokTile i)) 0x140 1).record (bTok (tokTile i)) 0x020E (tokTile i) i 0)
      i hsum
    rw [ht, if_pos hlimit]
    refine ⟨(hdone.record ..).release hsum, hscan.sheets.trans (sheets_record_of_arrived hcount ..), hscan.regs.trans ?_⟩
    rw [record_eq]
    exact hregs
  · have ht : t = ((u.count (bTok (tokTile i)) 0x140 1).setCount i sum).release i := by
      simp only [t, State.applySignal, hnow.token, old, if_neg hlimit, sum]
    have hscan := release_setCount_move (u.count (bTok (tokTile i)) 0x140 1) i hsum
    rw [ht, if_neg hlimit]
    exact ⟨hdone.release hsum, hscan.sheets.trans hsheets, hscan.regs.trans hregs⟩

theorem applyWait_granted_done {value : W32} (hle : value ≤ (s.token i).count) (agent : Nat) :
    let old := s.token i
    let left := old.count.toNat - value.toNat
    let t := u.applyWait agent i value.toNat
    TokenDone i s t (old.scanned s.turns.now left) (u.tokMsgs ++ old.grants left ++ [.grant agent])
      ∧ t.sheets = s.sheets ∧ t.regs = s.regs := by
  intro old left t
  have hnow := TokenDone.of_arrived hu i
  have hleft : left < 2 ^ 32 := (Nat.sub_le ..).trans_lt old.count.isLt
  have hscan := release_setCount_move (u.count (bTok (tokTile i)) 0x148 1) i hleft
  have hgrant := TokenMove.sendGrant (((u.count (bTok (tokTile i)) 0x148 1).setCount i left).release i) i (tokTile i) agent
  have hdone := (hnow.count (bTok (tokTile i)) 0x148 1).release hleft
  have ht : t = (((u.count (bTok (tokTile i)) 0x148 1).setCount i left).release i).sendGrant (tokTile i) agent := by
    simp only [t, left, old, State.applyWait, hnow.token, if_pos (BitVec.le_def.1 hle)]
  rw [hdone.token] at hgrant
  rw [ht]
  refine ⟨hdone.move hgrant, hgrant.sheets.trans (hscan.sheets.trans ?_), hgrant.regs.trans (hscan.regs.trans ?_)⟩
  · rw [hu]
    rfl
  · rw [hu]
    rfl

theorem applyWait_queued_done {value : W32} (hlt : ¬ value ≤ (s.token i).count) (agent : Nat) :
    let old := s.token i
    let t := u.applyWait agent i value.toNat
    TokenDone i s t { old with waiters := old.waiters ++ [(agent, value)] } u.tokMsgs
      ∧ t.sheets = s.sheets ∧ t.regs = s.regs := by
  intro old t
  have hnow := TokenDone.of_arrived hu i
  have hput := TokenMove.setToken (u.count (bTok (tokTile i)) 0x150 1) i { old with waiters := old.waiters ++ [(agent, value)] }
  have ht : t = (u.count (bTok (tokTile i)) 0x150 1).setToken i { old with waiters := old.waiters ++ [(agent, value)] } := by
    simp only [t, old, State.applyWait, hnow.token, if_neg (fun h => hlt (BitVec.le_def.2 h)), BitVec.ofNat_toNat,
      BitVec.setWidth_eq]
  have hdone := (hnow.count (bTok (tokTile i)) 0x150 1).move hput
  rw [List.append_nil] at hdone
  rw [ht]
  refine ⟨hdone, hput.sheets.trans ?_, hput.regs.trans ?_⟩
  · rw [hu]
    rfl
  · rw [hu]
    rfl

end

/-- What TOK_RESULT and TOK_STAMP show of a token (R199). -/
def TokenReported (i : Nat) (t : State) (tk : Token) (taken : Bool) : Prop :=
  t.reg (bTok (tokTile i)) 0x108 = BitVec.ofNat 64 (tk.count.toNat + tk.waiters.length % 1024 * 2 ^ 32
      + (if taken then 2 ^ 42 else 0) + 2 ^ 43)
    ∧ t.reg (bTok (tokTile i)) 0x110 = tk.stamp

theorem reportToken_reported (s : State) (i : Nat) (taken : Bool) :
    TokenReported i (s.reportToken i taken) (s.token i) taken := by
  refine ⟨?_, reg_setReg_same ..⟩
  have hkey : regKey (bTok (tokTile i)) 0x108 ≠ regKey (bTok (tokTile i)) 0x110 := by simp [regKey]
  exact (reg_setReg_ne _ _ _ _ _ _ hkey).trans (reg_setReg_same ..)

theorem sheets_reportToken (s : State) (i : Nat) (taken : Bool) : (s.reportToken i taken).sheets = s.sheets := by
  have hwrites : ∃ v w, s.reportToken i taken
      = (s.setReg (bTok (tokTile i)) 0x108 v).setReg (bTok (tokTile i)) 0x110 w := ⟨_, _, rfl⟩
  obtain ⟨v, w, hwrites⟩ := hwrites
  rw [hwrites, State.setReg_sheets, State.setReg_sheets]

theorem reportToken_done {i : Nat} {s t : State} {tk : Token} {base : List TokMsg} (h : TokenDone i s t tk base)
    (taken : Bool) : TokenDone i s (t.reportToken i taken) tk base ∧ TokenReported i (t.reportToken i taken) tk taken :=
  ⟨(h.setReg ..).setReg .., h.token ▸ reportToken_reported t i taken⟩

theorem TokenDone.refl (i : Nat) (s : State) : TokenDone i s s (s.token i) s.tokMsgs :=
  .of_arrived (Arrived.refl s) i

theorem applyTake_taken_done (s : State) (i : Nat) {value : W32} (hle : value ≤ (s.token i).count) :
    let old := s.token i
    let left := old.count.toNat - value.toNat
    let t := s.applyTake i value.toNat
    t.sheets = s.sheets ∧ TokenDone i s t (old.scanned s.turns.now left) (s.tokMsgs ++ old.grants left)
      ∧ TokenReported i t (old.scanned s.turns.now left) true := by
  intro old left t
  have hleft : left < 2 ^ 32 := (Nat.sub_le ..).trans_lt old.count.isLt
  have ht : t = ((s.setCount i left).release i).reportToken i true := by
    simp only [t, left, old, State.applyTake, if_pos (BitVec.le_def.1 hle)]
  rw [ht]
  exact ⟨(sheets_reportToken ..).trans (release_setCount_move s i hleft).sheets,
    reportToken_done ((TokenDone.refl i s).release hleft) true⟩

theorem applyTake_refused_done (s : State) (i : Nat) {value : W32} (hlt : ¬ value ≤ (s.token i).count) :
    let t := s.applyTake i value.toNat
    t.sheets = s.sheets ∧ TokenDone i s t (s.token i) s.tokMsgs ∧ TokenReported i t (s.token i) false := by
  intro t
  have ht : t = s.reportToken i false := if_neg fun h => hlt (BitVec.le_def.2 h)
  rw [ht]
  exact ⟨sheets_reportToken .., reportToken_done (.refl i s) false⟩

/-! ### Arrivals and commands (R171, R191, R193, R199) -/

/-- A message that is next reaches its block in a state in which nothing but its arrival has happened. -/
theorem tokenArrival_of_next {s : State} {m : TokMsg} (hnext : s.tokNext m = true) {agent : Nat}
    (hq : s.tokenQuarantine agent = none) (tile : Nat) (op : HeldOp) :
    ∃ u, Arrived s u ∧ u.tokMsgs = s.tokMsgs.erase m
      ∧ (∀ n o, o < 65536 → o ≠ 0x158 → u.counter n o = s.counter n o) ∧ s.tokenArrival agent tile m op = u.offer tile op := by
  by_cases hlocal : agentTile agent = some tile
  · exact ⟨s.arrived m, rfl, rfl, fun _ _ _ _ => rfl, by simp [State.tokenArrival, State.countRemote, hnext, hq, hlocal]⟩
  · exact ⟨(s.arrived m).count (bTok tile) 0x158 1, rfl, rfl,
      fun n o ho hne => counter_count_of_ne _ _ _ _ (by decide) ho hne,
      by simp [State.tokenArrival, State.countRemote, hnext, hq, hlocal]⟩

theorem offer_of_open {s : State} {tile : Nat} (hopen : s.isDisabled (bTok tile) = false)
    (hnone : Map.get s.held tile [] = []) (op : HeldOp) : s.offer tile op = s.applyHeld op := by
  simp [State.offer, hopen, hnone]

section
variable {s : State} {token : BitVec 16} {tile : TileIx} (htile : tokTile token.toNat = tile)
include htile

/-- A command that names a token of its own tile is carried out. -/
theorem tokCmd_of_own (run : State → State) : s.tokCmd tile token.toNat true run = run s := by
  simp [State.tokCmd, htile]

theorem exec_tokCmdSignal_of_own {value : W32} (hvalue : value ≠ 0) :
    exec (.tokCmdSignal tile token value) s = .next (s.offer (tokTile token.toNat) (.cmdSignal token value)) := by
  have hok : (value != 0) = true := bne_iff_ne.2 hvalue
  simp only [exec, execTokCmdSignal, hok, tokCmd_of_own htile, htile]

theorem exec_take_of_own {value : W32} (hvalue : value ≠ 0) :
    exec (.take tile token value) s = .next (s.offer (tokTile token.toNat) (.take token value)) := by
  have hok : (value != 0) = true := bne_iff_ne.2 hvalue
  simp only [exec, execTake, hok, tokCmd_of_own htile, htile]

theorem exec_peek_of_own : exec (.peek tile token) s = .next (s.offer (tokTile token.toNat) (.peek token)) := by
  simp only [exec, execPeek, tokCmd_of_own htile, htile]

theorem exec_set_of_disabled (hdis : s.isDisabled (bTok (tokTile token.toNat)) = true) (value : W32) :
    exec (.set tile token value) s = .next ((s.setCount token.toNat value.toNat).release token.toNat) := by
  rw [htile] at hdis
  simp only [exec, execSet, tokCmd_of_own htile, if_pos hdis]

end

/-- Signals of cores and of the hub act without rights of a table (R191, R209). -/
theorem applyHeld_signal_of_right {s : State} {agent : Nat} {token : BitVec 16}
    (h : agent / 65536 = 0 ∨ agent = agHub ∨ s.hasRight agent token.toNat false = true) (value : W32) :
    s.applyHeld (.signal agent token value) = s.applySignal token.toNat value.toNat :=
  if_pos (by simpa only [Bool.or_eq_true, decide_eq_true_eq, or_assoc] using h)

theorem applyHeld_wait_of_right {s : State} {agent : Nat} {token : BitVec 16}
    (h : agent / 65536 = 0 ∨ s.hasRight agent token.toNat true = true) (value : W32) :
    s.applyHeld (.wait agent token value) = s.applyWait agent token.toNat value.toNat :=
  if_pos (by simpa only [Bool.or_eq_true, decide_eq_true_eq] using h)

section
variable {s : State} {agent : Nat} {token : BitVec 16} {value : W32} (hq : s.tokenQuarantine agent = none)
  (hopen : s.isDisabled (bTok (tokTile token.toNat)) = false) (hnone : Map.get s.held (tokTile token.toNat) [] = [])
include hq hopen hnone

theorem exec_tokenSignalArrival_of_open (hnext : s.tokNext (.signal agent token value) = true)
    (hright : agent / 65536 = 0 ∨ agent = agHub ∨ s.hasRight agent token.toNat false = true) :
    ∃ u, Arrived s u ∧ u.tokMsgs = s.tokMsgs.erase (.signal agent token value)
      ∧ exec (.tokenSignalArrival agent token value) s = .next (u.applySignal token.toNat value.toNat) := by
  obtain ⟨u, hu, hmsgs, -, hrun⟩ := tokenArrival_of_next hnext hq (tokTile token.toNat) (.signal agent token value)
  rw [offer_of_open (by rwa [hu.isDisabled]) (by rwa [hu.held]), applyHeld_signal_of_right (by rwa [hu.hasRight])] at hrun
  exact ⟨u, hu, hmsgs, congrArg Host.Outcome.next hrun⟩

theorem exec_tokenWaitArrival_of_open (hnext : s.tokNext (.wait agent token value) = true)
    (hright : agent / 65536 = 0 ∨ s.hasRight agent token.toNat true = true) :
    ∃ u, Arrived s u ∧ u.tokMsgs = s.tokMsgs.erase (.wait agent token value)
      ∧ exec (.tokenWaitArrival agent token value) s = .next (u.applyWait agent token.toNat value.toNat) := by
  obtain ⟨u, hu, hmsgs, -, hrun⟩ := tokenArrival_of_next hnext hq (tokTile token.toNat) (.wait agent token value)
  rw [offer_of_open (by rwa [hu.isDisabled]) (by rwa [hu.held]), applyHeld_wait_of_right (by rwa [hu.hasRight])] at hrun
  exact ⟨u, hu, hmsgs, congrArg Host.Outcome.next hrun⟩

end

/-! ### AT_LIMIT (R199) -/

theorem find_eq_some_iff {α : Type} [DecidableEq α] {d : α} {m : Map α} (hwf : Map.wf d m = true) (k : Nat) (v : α) :
    Map.find m k = some v ↔ (k, v) ∈ m := by
  induction m with
  | nil => simp
  | cons e m ih =>
    obtain ⟨j, w⟩ := e
    obtain ⟨-, hrise, hwf⟩ := (Map.wf_cons d _ _).1 hwf
    rw [Map.find_cons, List.mem_cons, Prod.mk.injEq]
    by_cases hkj : k = j
    · have hnot : (k, v) ∉ m := fun h => Nat.lt_irrefl j (by simpa [hkj] using hrise _ h)
      simp [hkj, hkj ▸ hnot, eq_comm]
    · simp [hkj, ih hwf]

theorem tokLive_atLimit_iff {s : State} (hwf : Map.wf Token.reset s.tokens = true) (tile : Nat) :
    s.tokLive tile 0x118 0 = some 1 ↔ ∃ i, tokTile i = tile ∧ (s.token i).count = BitVec.allOnes 32 := by
  have hbit : ∀ b : Bool, some (boolBit b) = some 1 ↔ b = true := by decide
  have hlive : s.tokLive tile 0x118 0 = some (boolBit
      ((s.tokens.filter fun e => tokTile e.1 = tile).any fun e => e.2.count == BitVec.allOnes 32)) := rfl
  simp only [hlive, hbit, List.any_eq_true, List.mem_filter, decide_eq_true_eq, beq_iff_eq]
  constructor
  · rintro ⟨e, ⟨he, htile⟩, hcount⟩
    refine ⟨e.1, htile, ?_⟩
    rw [State.token, Map.get, (find_eq_some_iff hwf e.1 e.2).2 he]
    exact hcount
  · rintro ⟨i, htile, hcount⟩
    rw [State.token, Map.get] at hcount
    cases hfind : Map.find s.tokens i with
    | none => rw [hfind] at hcount; exact absurd hcount (by decide)
    | some x =>
      rw [hfind] at hcount
      exact ⟨(i, x), ⟨(find_eq_some_iff hwf i x).1 hfind, htile⟩, hcount⟩

/-- Settles O38: an operation writes the count once and scans the queue (`release_setCount_move`), in a state in which
nothing but the message's arrival has happened (`tokenArrival_of_open`). -/
theorem tokenOperations : Obligations.TokenOperations := by
  unfold Obligations.TokenOperations
  refine ⟨?scan, fun s tile hwf => tokLive_atLimit_iff hwf tile, ?operations⟩
  case scan =>
    intro count ws r
    obtain ⟨hsub, hleft, hle, hlen⟩ := releaseScan_spec ws count
    refine ⟨hsub, hleft, hle, hlen, ?_⟩
    rintro a v more rfl
    exact ⟨fun h => by rw [show r = _ from releaseScan_cons_of_le h a more],
      fun h => by rw [show r = _ from releaseScan_cons_of_lt h a more]⟩
  case operations =>
    intro s token value agent tile i blk old scanned grants done reported signalled limitRecord
    refine ⟨fun hopen hnone => ⟨fun hright hnext hq => ?signal, fun hright hnext hq => ?wait,
      fun htile hvalue => ⟨?cmdSignal, ?take⟩, fun htile => ?peek⟩, fun hdis htile => ?set⟩
    case signal =>
      obtain ⟨u, hu, hmsgs, hexec⟩ := exec_tokenSignalArrival_of_open hq hopen hnone hnext hright
      have happly := applySignal_done hu i value.toNat
      rw [hmsgs] at happly
      exact ⟨_, hexec, happly⟩
    case wait =>
      obtain ⟨u, hu, hmsgs, hexec⟩ := exec_tokenWaitArrival_of_open hq hopen hnone hnext hright
      refine ⟨_, hexec, ?_⟩
      by_cases hle : value ≤ old.count
      · obtain ⟨hdone, hsheets, hregs⟩ := applyWait_granted_done hu i hle agent
        rw [hmsgs] at hdone
        rw [if_pos hle]
        exact ⟨hsheets, hregs, hdone⟩
      · obtain ⟨hdone, hsheets, hregs⟩ := applyWait_queued_done hu i hle agent
        rw [hmsgs] at hdone
        rw [if_neg hle]
        exact ⟨hsheets, hregs, hdone⟩
    case cmdSignal =>
      have hexec := exec_tokCmdSignal_of_own (s := s) htile hvalue
      rw [offer_of_open hopen hnone] at hexec
      exact ⟨_, hexec, applySignal_done (Arrived.refl s) i value.toNat⟩
    case take =>
      have hexec := exec_take_of_own (s := s) htile hvalue
      rw [offer_of_open hopen hnone] at hexec
      refine ⟨_, hexec, ?_⟩
      by_cases hle : value ≤ old.count
      · rw [if_pos hle]
        exact applyTake_taken_done s i hle
      · rw [if_neg hle]
        exact applyTake_refused_done s i hle
    case peek =>
      have hexec := exec_peek_of_own (s := s) htile
      rw [offer_of_open hopen hnone] at hexec
      exact ⟨_, hexec, sheets_reportToken .., reportToken_done (.refl i s) false⟩
    case set =>
      have hscan := release_setCount_move s i value.isLt
      exact ⟨_, exec_set_of_disabled htile hdis value, hscan.sheets, hscan.regs, (TokenDone.refl i s).release value.isLt⟩

end Sys2Proof.Machine
end

section
/-! Token operations that are not carried out: messages that wait their turn or come from a quarantined die, operations that
a block holds or refuses, and the ends of waits by grant and by withdrawal (R160, R171, R190, R191, R193, R199, R273). -/

namespace Sys2Proof.Machine

/-! ### Messages out of turn and from quarantined dies (R171, R273) -/

theorem tokenArrival_of_not_next {s : State} {m : TokMsg} (hnext : s.tokNext m = false) (agent tile : Nat) (op : HeldOp) :
    s.tokenArrival agent tile m op = s := by
  simp [State.tokenArrival, hnext]

theorem tokenArrival_of_quarantined {s : State} {m : TokMsg} (hnext : s.tokNext m = true) {agent site : Nat}
    (hq : s.tokenQuarantine agent = some site) (tile : Nat) (op : HeldOp) :
    s.tokenArrival agent tile m op = (s.arrived m).dropPacket site 3 := by
  simp [State.tokenArrival, hnext, hq]

/-- A message of a quarantined die is discarded and counted. -/
theorem tokenArrival_dropped {s : State} {m : TokMsg} (hnext : s.tokNext m = true) {agent site : Nat}
    (hq : s.tokenQuarantine agent = some site) (tile : Nat) (op : HeldOp) :
    let t := s.tokenArrival agent tile m op
    t = { s with counters := t.counters, sites := t.sites, sheets := t.sheets, tokMsgs := s.tokMsgs.erase m }
      ∧ t.counter bSite 0x140 = s.counter bSite 0x140 + 1 := by
  intro t
  have ht : t = (s.arrived m).dropPacket site 3 := tokenArrival_of_quarantined hnext hq tile op
  rw [ht]
  exact dropPacket_eq (s.arrived m) site 3

theorem tokenQuarantine_of_not_core {s : State} {agent : Nat} (h : agent / 65536 ≠ 0) : s.tokenQuarantine agent = none :=
  if_neg h

/-! ### Held operations (R193) -/

/-- From `s` to `t` an operation joins those that the block of tile `home` holds, and is counted. -/
def KeptBack (home : Nat) (s t : State) (op : HeldOp) : Prop :=
  Map.get t.held home [] = Map.get s.held home [] ++ [op]
    ∧ (∀ n, n ≠ home → Map.get t.held n [] = Map.get s.held n [])
    ∧ t.tokens = s.tokens ∧ t.counter (bTok home) 0x170 = s.counter (bTok home) 0x170 + 1

section
variable {s : State} {tile : Nat} (hclosed : s.isDisabled (bTok tile) = true ∨ Map.get s.held tile [] ≠ [])
include hclosed

theorem offer_of_closed (op : HeldOp) : s.offer tile op =
    ({ s with held := Map.put s.held tile (Map.get s.held tile [] ++ [op]) [] }).count (bTok tile) 0x170 1 := by
  refine if_neg fun hopen => ?_
  simp only [Bool.and_eq_true, Bool.not_eq_true', decide_eq_true_eq] at hopen
  obtain ⟨hen, hnone⟩ := hopen
  rcases hclosed with hdis | hheld
  · simp [hdis] at hen
  · exact hheld hnone

theorem offer_kept (op : HeldOp) :
    KeptBack tile s (s.offer tile op) op
      ∧ s.offer tile op = { s with held := (s.offer tile op).held, counters := (s.offer tile op).counters } := by
  rw [offer_of_closed hclosed]
  exact ⟨⟨Map.get_put_same .., fun n hn => Map.get_put_ne _ _ _ _ _ hn, rfl, counter_count ..⟩, rfl⟩

/-- A message that reaches a closed block is held there. -/
theorem tokenArrival_kept {m : TokMsg} (hnext : s.tokNext m = true) {agent : Nat} (hq : s.tokenQuarantine agent = none)
    (op : HeldOp) :
    let t := s.tokenArrival agent tile m op
    KeptBack tile s t op ∧ t = { s with held := t.held, counters := t.counters, tokMsgs := s.tokMsgs.erase m } := by
  intro t
  obtain ⟨u, hu, hmsgs, hcounters, ht⟩ := tokenArrival_of_next hnext hq tile op
  obtain ⟨hkept, hframe⟩ := offer_kept (s := u) (by rwa [hu.held, hu.isDisabled]) op
  unfold KeptBack at hkept ⊢
  rw [hu.held, hu.tokens, hcounters _ _ (by decide) (by decide), ← ht] at hkept
  refine ⟨hkept, ?_⟩
  rw [← ht, hu, hmsgs] at hframe
  exact hframe

end

/-! ### Operations outside an agent's rights, and commands that a block ignores (R191, R199, R485) -/

theorem recordOnce_eq (s : State) (blk code sub unit arg0 arg1 : Nat) :
    s.recordOnce blk code sub unit arg0 arg1 = { s with
        counters := (s.recordOnce blk code sub unit arg0 arg1).counters
        sheets := (s.recordOnce blk code sub unit arg0 arg1).sheets
        once := (s.recordOnce blk code sub unit arg0 arg1).once } := by
  unfold State.recordOnce
  dsimp only
  split
  · rfl
  · rw [record_eq]

theorem counter_recordOnce_of_ne (s : State) (blk code sub unit arg0 arg1 n : Nat) {o : Nat} (ho : o < 65536)
    (hne : o ≠ 0x188) : (s.recordOnce blk code sub unit arg0 arg1).counter n o = s.counter n o := by
  unfold State.recordOnce
  dsimp only
  split
  · rfl
  · exact counter_record_of_ne _ _ _ _ _ _ _ ho hne

theorem refuseToken_eq (s : State) (agent token : Nat) :
    s.refuseToken agent token = { s with
        counters := (s.refuseToken agent token).counters, sheets := (s.refuseToken agent token).sheets
        once := (s.refuseToken agent token).once }
      ∧ (s.refuseToken agent token).counter (bTok (tokTile token)) 0x168
        = s.counter (bTok (tokTile token)) 0x168 + 1 := by
  unfold State.refuseToken
  refine ⟨?_, (counter_recordOnce_of_ne _ _ _ _ _ _ _ _ (by decide) (by decide)).trans (counter_count ..)⟩
  dsimp only
  rw [recordOnce_eq]
  rfl

theorem applyHeld_signal_of_no_right {s : State} {agent : Nat} {token : BitVec 16} (hcore : agent / 65536 ≠ 0)
    (hhub : agent ≠ agHub) (hright : s.hasRight agent token.toNat false = false) (value : W32) :
    s.applyHeld (.signal agent token value) = s.refuseToken agent token.toNat :=
  if_neg (by simp [hcore, hhub, hright])

/-- A signal outside its agent's rights is counted as refused. -/
theorem tokenSignal_refused {s : State} {agent : Nat} {token : BitVec 16} {value : W32}
    (hopen : s.isDisabled (bTok (tokTile token.toNat)) = false) (hnone : Map.get s.held (tokTile token.toNat) [] = [])
    (hcore : agent / 65536 ≠ 0) (hhub : agent ≠ agHub) (hright : s.hasRight agent token.toNat false = false)
    (hnext : s.tokNext (.signal agent token value) = true) :
    let t := s.tokenArrival agent (tokTile token.toNat) (.signal agent token value) (.signal agent token value)
    t = { s with counters := t.counters, sheets := t.sheets, once := t.once
                 tokMsgs := s.tokMsgs.erase (.signal agent token value) }
      ∧ t.counter (bTok (tokTile token.toNat)) 0x168 = s.counter (bTok (tokTile token.toNat)) 0x168 + 1 := by
  intro t
  obtain ⟨u, hu, hmsgs, hcounters, ht⟩ := tokenArrival_of_next hnext (tokenQuarantine_of_not_core hcore)
    (tokTile token.toNat) (.signal agent token value)
  rw [offer_of_open (by rwa [hu.isDisabled]) (by rwa [hu.held]),
    applyHeld_signal_of_no_right hcore hhub (by rwa [hu.hasRight])] at ht
  obtain ⟨hframe, hcount⟩ := refuseToken_eq u agent token.toNat
  rw [← ht, hcounters _ _ (by decide) (by decide)] at hcount
  refine ⟨?_, hcount⟩
  rw [← ht, hu, hmsgs] at hframe
  exact hframe

/-- A command that names a token of another tile, or lacks its VALUE, only counts. -/
theorem tokCmd_ignored {s : State} {tile token : Nat} {ok : Bool} (h : tokTile token ≠ tile ∨ ok = false)
    (run : State → State) :
    let t := s.tokCmd tile token ok run
    t = { s with counters := t.counters } ∧ t.counter (bTok tile) 0x168 = s.counter (bTok tile) 0x168 + 1 := by
  intro t
  have ht : t = s.count (bTok tile) 0x168 1 := by
    refine if_neg fun hrun => ?_
    simp only [Bool.and_eq_true, decide_eq_true_eq] at hrun
    obtain ⟨htile, hok⟩ := hrun
    rcases h with h | h
    · exact h htile
    · simp [h] at hok
  rw [ht]
  exact ⟨rfl, counter_count ..⟩

theorem exec_set_of_not_disabled {s : State} {token : BitVec 16} {tile : TileIx} (htile : tokTile token.toNat = tile)
    (hopen : s.isDisabled (bTok tile) = false) (value : W32) :
    exec (.set tile token value) s
      = .next (s.setBlk (bTok tile) { s.blk (bTok tile) with wwe := true, ignoredOffset := 0x100 }) := by
  simp only [exec, execSet, tokCmd_of_own htile, hopen]
  rfl

/-! ### Grants (R153, R160) -/

theorem grantTo_eq (s : State) (agent : Nat) : s.grantTo agent = { s with
    cores := (s.grantTo agent).cores, intakes := (s.grantTo agent).intakes, sweeps := (s.grantTo agent).sweeps
    save := (s.grantTo agent).save } := by
  unfold State.grantTo
  dsimp only
  split
  case h_5 => rfl
  all_goals split <;> rfl

/-- A key of a store is rewritten where its value meets a condition. -/
theorem Map.get_ite_put {α : Type} [DecidableEq α] (m : Map α) (k : Nat) (d : α) (p : α → Prop) [DecidablePred p]
    (f : α → α) (n : Nat) :
    Map.get (if p (Map.get m k d) then Map.put m k (f (Map.get m k d)) d else m) n d
      = if n = k ∧ p (Map.get m n d) then f (Map.get m n d) else Map.get m n d := by
  by_cases hn : n = k
  · subst hn
    by_cases hp : p (Map.get m n d)
    · rw [if_pos hp, if_pos ⟨rfl, hp⟩, Map.get_put_same]
    · rw [if_neg hp, if_neg fun h => hp h.2]
  · rw [if_neg (show ¬ (n = k ∧ p (Map.get m n d)) from fun h => hn h.1)]
    by_cases hp : p (Map.get m k d)
    · rw [if_pos hp, Map.get_put_ne _ _ _ _ _ hn]
    · rw [if_neg hp]

section
variable (s : State) {agent : Nat}

theorem core_grantTo (h : agent / 65536 = 0) (n : Nat) : (s.grantTo agent).core n =
    if n = s.coreOfAgent agent ∧ (s.core n).withdrawing = false then { s.core n with waiting := none } else s.core n := by
  have hcores : (s.grantTo agent).cores = if (s.core (s.coreOfAgent agent)).withdrawing = false then
      Map.put s.cores (s.coreOfAgent agent) { s.core (s.coreOfAgent agent) with waiting := none } .reset else s.cores := by
    simp only [State.grantTo, h]
    cases (s.core (s.coreOfAgent agent)).withdrawing <;> rfl
  rw [State.core, hcores]
  exact Map.get_ite_put s.cores _ _ (fun c => c.withdrawing = false) (fun c => { c with waiting := none }) n

/-- An engine's wait is granted where the engine waits and is not withdrawing. -/
theorem intake_grantTo (h : agent / 65536 = 2) (n : Nat) : (s.grantTo agent).intake n =
    if n = agent % 65536 ∧ (s.intake n).waiting = true ∧ (s.intake n).withdrawing = false then
      { s.intake n with waiting := false, granted := true } else s.intake n := by
  have hintakes : (s.grantTo agent).intakes =
      if (s.intake (agent % 65536)).waiting = true ∧ (s.intake (agent % 65536)).withdrawing = false then
        Map.put s.intakes (agent % 65536) { s.intake (agent % 65536) with waiting := false, granted := true } .reset
      else s.intakes := by
    simp only [State.grantTo, h]
    cases (s.intake (agent % 65536)).waiting <;> cases (s.intake (agent % 65536)).withdrawing <;> rfl
  rw [State.intake, hintakes]
  exact Map.get_ite_put s.intakes _ _ (fun x => x.waiting = true ∧ x.withdrawing = false)
    (fun x => { x with waiting := false, granted := true }) n

theorem sweep_grantTo (h : agent / 65536 = 3) (n : Nat) : (s.grantTo agent).sweep n =
    if n = agent % 65536 ∧ (s.sweep n).waiting = true ∧ (s.sweep n).withdrawing = false then
      { s.sweep n with waiting := false, granted := true } else s.sweep n := by
  have hsweeps : (s.grantTo agent).sweeps =
      if (s.sweep (agent % 65536)).waiting = true ∧ (s.sweep (agent % 65536)).withdrawing = false then
        Map.put s.sweeps (agent % 65536) { s.sweep (agent % 65536) with waiting := false, granted := true } .reset
      else s.sweeps := by
    simp only [State.grantTo, h]
    cases (s.sweep (agent % 65536)).waiting <;> cases (s.sweep (agent % 65536)).withdrawing <;> rfl
  rw [State.sweep, hsweeps]
  exact Map.get_ite_put s.sweeps _ _ (fun x => x.waiting = true ∧ x.withdrawing = false)
    (fun x => { x with waiting := false, granted := true }) n

theorem save_grantTo (h : agent / 65536 = 4) : (s.grantTo agent).save =
    if s.save.waiting = true ∧ s.save.withdrawing = false then s.save.start else s.save := by
  simp only [State.grantTo, h]
  cases s.save.waiting <;> cases s.save.withdrawing <;> rfl

end

theorem exec_tokenGrantArrival_of_next {s : State} {agent : Nat} (hnext : s.tokNext (.grant agent) = true) :
    exec (.tokenGrantArrival agent) s = .next ((s.arrived (.grant agent)).grantTo agent) := if_pos hnext

/-! ### Withdrawals (R160, R193) -/

theorem countRemote_eq (s : State) (agent tile : Nat) :
    s.countRemote agent tile = { s with counters := (s.countRemote agent tile).counters } := by
  unfold State.countRemote
  split <;> rfl

theorem withdrawn_eq (s : State) (agent : Nat) : s.withdrawn agent = { s with
    cores := (s.withdrawn agent).cores, intakes := (s.withdrawn agent).intakes, sweeps := (s.withdrawn agent).sweeps
    save := (s.withdrawn agent).save } := by
  unfold State.withdrawn
  dsimp only
  split <;> rfl

/-- After the acknowledgement the agent is withdrawing no more. -/
theorem withdraws_withdrawn (s : State) (agent : Nat) : (s.withdrawn agent).withdraws agent = false := by
  unfold State.withdrawn State.withdraws
  generalize agent / 65536 = owner
  match owner with
  | 0 =>
    have hcore := core_setCore_same s (s.coreOfAgent agent)
      { s.core (s.coreOfAgent agent) with withdrawing := false, waiting := none }
    exact congrArg Core.withdrawing hcore
  | 1 => rfl
  | 2 => exact congrArg Intake.withdrawing (intake_setIntake_same ..)
  | 3 => exact congrArg Sweep.withdrawing (sweep_setSweep_same ..)
  | 4 => rfl
  | _ + 5 => rfl

section
variable (s : State) (agent : Nat)

theorem removeWaits_waiters : ∀ e ∈ (s.removeWaits agent).tokens, ∀ w ∈ e.2.waiters, w.1 ≠ agent := by
  intro e he w hw
  obtain ⟨e', -, rfl⟩ := List.mem_map.1 (List.mem_filter.1 he).1
  simpa using (List.mem_filter.1 hw).2

theorem removeWaits_held : ∀ e ∈ (s.removeWaits agent).held, ∀ o ∈ e.2, o.waitOf agent = false := by
  intro e he o ho
  obtain ⟨e', -, rfl⟩ := List.mem_map.1 (List.mem_filter.1 he).1
  simpa using (List.mem_filter.1 ho).2

theorem removeWaits_tokMsgs : ∀ m ∈ (s.removeWaits agent).tokMsgs, m.agentOf ≠ some agent := by
  intro m hm
  simpa using (List.mem_filter.1 hm).2

end

theorem withdrawal_frame (s : State) (agent tile : Nat) :
    let t := ((s.countRemote agent tile).removeWaits agent).withdrawn agent
    t = { s with
        cores := t.cores, intakes := t.intakes, sweeps := t.sweeps, save := t.save, tokens := t.tokens, held := t.held
        tokMsgs := t.tokMsgs, counters := t.counters } := by
  intro t
  have hcounted := countRemote_eq s agent tile
  have hdone : t = { (s.countRemote agent tile).removeWaits agent with
      cores := t.cores, intakes := t.intakes, sweeps := t.sweeps, save := t.save, tokens := t.tokens, held := t.held
      tokMsgs := t.tokMsgs, counters := t.counters } := by
    simp only [t]
    rw [withdrawn_eq]
  rw [hcounted] at hdone
  exact hdone

theorem withdrawn_waits (s : State) (agent : Nat) :
    (s.withdrawn agent).tokens = s.tokens ∧ (s.withdrawn agent).held = s.held ∧ (s.withdrawn agent).tokMsgs = s.tokMsgs := by
  rw [withdrawn_eq]
  exact ⟨rfl, rfl, rfl⟩

theorem exec_withdrawal_of_none {s : State} {agent : Nat} (h : s.withdraws agent = false ∨ s.withdrawalOf agent = none) :
    exec (.withdrawal agent) s = .next s := by
  rcases h with h | h
  · cases hof : s.withdrawalOf agent <;> simp [exec, execWithdrawal, hof, h]
  · simp [exec, execWithdrawal, h]

theorem exec_withdrawal_of_next {s : State} {agent : Nat} {token : BitVec 16} (h : s.withdraws agent = true)
    (hof : s.withdrawalOf agent = some token) (hnext : s.tokNext (.withdrawal agent token) = true) :
    exec (.withdrawal agent) s
      = .next (((s.countRemote agent (tokTile token.toNat)).removeWaits agent).withdrawn agent) := by
  simp [exec, execWithdrawal, hof, h, hnext]

/-- Settles O39: an operation is held (`tokenArrival_kept`, `offer_kept`), refused (`refuseToken_eq`) or ignored
(`tokCmd_ignored`); a grant acts on its agent alone, a withdrawal removes every trace of the wait. -/
theorem tokenBlocksHoldAndRefuse : Obligations.TokenBlocksHoldAndRefuse := by
  unfold Obligations.TokenBlocksHoldAndRefuse
  intro s token value agent tile i home hold ignored sig wt
  refine ⟨fun hlate => ?signalLate, fun hlate => ?waitLate, fun hlate => ?grantLate, fun site hq => ⟨fun hnext => ?signalDropped,
    fun hnext => ?waitDropped⟩, fun hclosed => ⟨fun hnext hq => ?signalHeld, fun hnext hq => ?waitHeld,
      fun htile hvalue => ⟨?cmdHeld, ?takeHeld⟩, fun htile => ?peekHeld⟩,
    fun hopen hnone hcore hhub hright hnext => ?refused, fun htile => ?otherTile, fun hvalue => ?noValue,
    fun htile hopen => ?setOpen, fun hnext => ?grant, fun hnone => ?noWithdrawal, fun tok hw hof hnext => ?withdrawal⟩
  case signalLate => exact congrArg Host.Outcome.next (tokenArrival_of_not_next hlate ..)
  case waitLate => exact congrArg Host.Outcome.next (tokenArrival_of_not_next hlate ..)
  case grantLate => exact if_neg (by simp [hlate])
  case signalDropped => exact ⟨_, rfl, tokenArrival_dropped hnext hq ..⟩
  case waitDropped => exact ⟨_, rfl, tokenArrival_dropped hnext hq ..⟩
  case signalHeld => exact ⟨_, rfl, tokenArrival_kept hclosed hnext hq _⟩
  case waitHeld => exact ⟨_, rfl, tokenArrival_kept hclosed hnext hq _⟩
  case cmdHeld => exact ⟨_, exec_tokCmdSignal_of_own htile hvalue, offer_kept hclosed _⟩
  case takeHeld => exact ⟨_, exec_take_of_own htile hvalue, offer_kept hclosed _⟩
  case peekHeld => exact ⟨_, exec_peek_of_own htile, offer_kept hclosed _⟩
  case refused => exact ⟨_, rfl, tokenSignal_refused hopen hnone hcore hhub hright hnext⟩
  case otherTile =>
    exact ⟨⟨_, rfl, tokCmd_ignored (.inl htile) _⟩, ⟨_, rfl, tokCmd_ignored (.inl htile) _⟩,
      ⟨_, rfl, tokCmd_ignored (.inl htile) _⟩, ⟨_, rfl, tokCmd_ignored (.inl htile) _⟩⟩
  case noValue =>
    have hok : (value != 0) = false := by simpa using hvalue
    exact ⟨⟨_, rfl, tokCmd_ignored (.inr hok) _⟩, ⟨_, rfl, tokCmd_ignored (.inr hok) _⟩⟩
  case setOpen => exact exec_set_of_not_disabled htile hopen value
  case grant =>
    exact ⟨_, exec_tokenGrantArrival_of_next hnext, grantTo_eq (s.arrived (.grant agent)) agent,
      core_grantTo (s.arrived (.grant agent)), intake_grantTo (s.arrived (.grant agent)),
      sweep_grantTo (s.arrived (.grant agent)), save_grantTo (s.arrived (.grant agent))⟩
  case noWithdrawal => exact exec_withdrawal_of_none hnone
  case withdrawal =>
    obtain ⟨htokens, hheld, hmsgs⟩ := withdrawn_waits ((s.countRemote agent (tokTile tok.toNat)).removeWaits agent) agent
    refine ⟨_, exec_withdrawal_of_next hw hof hnext, withdrawal_frame .., ?_, ?_, ?_, withdraws_withdrawn ..⟩
    · rw [htokens]
      exact removeWaits_waiters _ _
    · rw [hheld]
      exact removeWaits_held _ _
    · rw [hmsgs]
      exact removeWaits_tokMsgs _ _

end Sys2Proof.Machine
end

section
/-! Why O40 fails. Its clause on the stages section takes every die map, also one that names a site beyond the 52 that R168
allows. The cores of logical die 0, put on site 64, are the physical cores 512 to 519, and the first engine of core 512 has the
block number of core 0 (R491): the stream base that a later entry gives core 0 then covers the WAIT_LIMIT that the engine was
given. -/

namespace Sys2Proof.Machine

/-- A byte 1 at address 0. -/
def waitLimitMem : List Host.Cell := [(0, 1)]

/-- The stages section there: WAIT_LIMIT 1, and zeros for the cores: each is in use, in stage 0 with stream base 0. -/
def waitLimitStages : List Byte := memRead waitLimitMem 0 64

/-- A verified image of that section, logical die 0 on site 64 and logical die 1 on site 0, which alone has power. -/
def crossedSites : State :=
  { State.reset with
    power := { Power.reset with phase := 9 }
    mem := waitLimitMem
    sites := [(0, { Site.reset with railOn := true })]
    dieMap := [(0, 64), (1, 0)]
    loader :=
      { Loader.reset with
        verified := true, dieMapLoaded := true
        dirs := [(0, 0, []), (0, 64, shake256 waitLimitStages 32)] } }

/-- What LAYOUT_LOAD reads of the section, once the command is accepted. -/
def crossedRead : PBytes :=
  (State.readRun { crossedSites with
    loader := { crossedSites.loader with refused := false, code := 0, ignored := false } } whoLoader 0 64).2

/-- The section reads as it lies in memory, with no poison. -/
theorem crossedRead_eq : crossedRead = PBytes.clean waitLimitStages :=
  (readRun_plain ⟨rfl, rfl, rfl, rfl, rfl, rfl⟩ rfl whoLoader 0 1 (by decide)).1

/-- Logical core 0 is the one entry of the section whose core is physical core 512. -/
theorem crossedSites_entry :
    (0, 0, 0) ∈ stageEntries waitLimitStages
      ∧ ∀ y ∈ stageEntries waitLimitStages, crossedSites.physCore y.1 = some 512 → y = (0, 0, 0) := by
  decide +kernel

/-- LAYOUT_LOAD of the stages leaves that engine with WAIT_LIMIT 0. -/
theorem crossedSites_run :
    ∃ t, exec (.layoutLoad 2) crossedSites = .next t ∧ t.fld (bEng (4 * 512 + 0)) 0x100 8 16 = 0 :=
  ⟨_, rfl, by decide +kernel⟩

/-- Refutes O40: loading the stages section over `crossedSites` leaves WAIT_LIMIT 0 in the first engine of physical core 512,
which takes writes, where the statement wants the section's 1. -/
theorem not_layoutCommands : ¬ Obligations.LayoutCommands := by
  unfold Obligations.LayoutCommands
  intro h
  obtain ⟨-, h⟩ := h crossedSites
  obtain ⟨-, hbooted⟩ := h rfl
  obtain ⟨-, hidle⟩ := hbooted (by decide)
  obtain ⟨-, -, -, -, hverified⟩ := hidle rfl
  obtain ⟨-, -, -, -, hstages, -⟩ := hverified rfl
  have hdata : crossedRead.data = waitLimitStages := by rw [crossedRead_eq, data_clean]
  have hgood : crossedRead.anyPoison = false ∧ shake256 crossedRead.data 32 = shake256 waitLimitStages 32 :=
    ⟨by rw [crossedRead_eq, anyPoison_clean], by rw [hdata]⟩
  obtain ⟨t, hexec, hentries, -⟩ := hstages hgood rfl
  obtain ⟨hentry, honly⟩ := crossedSites_entry
  rw [← hdata] at hentry honly
  obtain ⟨-, hlimits⟩ := hentries (0, 0, 0) hentry 512 rfl honly
  have hwanted : t.fld (bEng (4 * 512 + 0)) 0x100 8 16 = fieldLe crossedRead.data 0 2 := hlimits 0 (by decide) rfl
  obtain ⟨u, hrun, hzero⟩ := crossedSites_run
  cases hrun.symm.trans hexec
  rw [hzero, hdata] at hwanted
  exact absurd hwanted (by decide)

end Sys2Proof.Machine
end

section
/-! What places a turn boundary and what waits for it: edges, marks, the oscillator, TRN_SET and the turn tables (R201 to R208). -/

namespace Sys2Proof.Machine

/-! ### Edges (R201 to R203) -/

section
variable {s : State} {time : Nat}

/-- An edge at the instant `time` is ignored as a glitch: noted as the latest edge, and counted. -/
def State.afterGlitch (s : State) (time : Nat) : State :=
  let s1 := s.count (bTrn 4) 0x148 1
  { s1 with turns := { s1.turns with lastEdge := some (625 * time) } }

section
variable (hsource : s.turns.cfg.source = 0) (hhold : s.turns.holdover = false)
include hsource hhold

theorem exec_turnInEdge_of_locked : exec (.turnInEdge time) s = .next
    { s.edgePlaces (625 * time) with
      turns := { (s.edgePlaces (625 * time)).turns with lastEdge := some (625 * time) } } := by
  simp [exec, execTurnInEdge, hsource, hhold, cyclePs]

theorem exec_turnInEdge_of_in_window (hend : s.turns.ending = false) (hdue : s.turns.due = none)
    (hin : inWindow (625 * time - s.turns.lastRef) s.turns.cfg.nominalNs = true) :
    exec (.turnInEdge time) s
      = .next { s with turns := { s.turns with due := some (625 * time, true), lastEdge := some (625 * time) } } := by
  rw [exec_turnInEdge_of_locked hsource hhold]
  simp [State.edgePlaces, hend, hdue, hin]

/-- An edge is a glitch when a boundary is due already and when it lies outside the window. -/
theorem exec_turnInEdge_of_glitch (hend : s.turns.ending = false) (hout : s.turns.due.isSome = true
      ∨ inWindow (625 * time - s.turns.lastRef) s.turns.cfg.nominalNs = false) :
    exec (.turnInEdge time) s = .next (s.afterGlitch time) := by
  have hplaces : s.edgePlaces (625 * time) = s.count (bTrn 4) 0x148 1 := by
    rcases hout with hdue | hout
    · simp [State.edgePlaces, hend, hdue]
    · simp [State.edgePlaces, hend, hout]
  rw [exec_turnInEdge_of_locked hsource hhold, hplaces]
  rfl

/-- From the edge that ends holdover to the boundary after it, an edge is no glitch. -/
theorem exec_turnInEdge_of_ending (hend : s.turns.ending = true) :
    exec (.turnInEdge time) s = .next { s with
      turns := if s.turns.due = none ∧ halfPast (625 * time - s.turns.lastRef) s.turns.cfg.nominalNs = true then
          { s.turns with due := some (625 * time, true), ending := false, lastEdge := some (625 * time) }
        else { s.turns with lastEdge := some (625 * time) } } := by
  rw [exec_turnInEdge_of_locked hsource hhold]
  by_cases hmakes : s.turns.due = none ∧ halfPast (625 * time - s.turns.lastRef) s.turns.cfg.nominalNs = true
  · simp [State.edgePlaces, hend, hmakes]
  · simp [State.edgePlaces, hend, hmakes]

end

/-- During holdover a good spacing lengthens the run of edges, any other starts it anew, and fewer than 16 do not end it. -/
theorem exec_turnInEdge_of_holdover {e : Nat} (hsource : s.turns.cfg.source = 0) (hhold : s.turns.holdover = true)
    (hlast : s.turns.lastEdge = some e) (hrun : s.turns.goodEdges ≠ 0) (hfew : s.turns.goodEdges < 15)
    (hend : s.turns.ending = false) :
    exec (.turnInEdge time) s = .next { s with turns := { s.turns with
      goodEdges := if inWindow (625 * time - e) s.turns.cfg.nominalNs then s.turns.goodEdges + 1 else 1
      lastEdge := some (625 * time) } } := by
  have hmore : ¬ 16 ≤ runOf s.turns.goodEdges (inWindow (625 * time - e) s.turns.cfg.nominalNs) := by
    rw [runOf, if_neg hrun]
    split <;> omega
  simp [exec, execTurnInEdge, hsource, hhold, hlast, cyclePs, Turns.runEdge, hmore, hend]
  simp [runOf, hrun]

end

/-! ### Marks (R204 to R206) -/

/-- A mark is queued at a port of FORWARD. -/
def Ladder.withMark (x : Ladder) (m : Word64 × Nat × W32) : Ladder := { x with markDue := x.markDue ++ [m] }

theorem sendMarks_eq (s : State) (turn : Word64) (lead : Nat) (acc : W32) :
    s.sendMarks turn lead acc = (List.range 8).foldl
      (fun st p => if bitOf s.turns.cfg.forward.toNat p then st.setLadder p ((st.ladder p).withMark (turn, lead, acc)) else st) s :=
  rfl

/-- Updates that change nothing but ladder ports change nothing else one after another. -/
theorem foldl_frame_ladders {β : Type} {g : State → β → State} (hg : ∀ st x, g st x = { st with ladders := (g st x).ladders })
    (l : List β) : ∀ s : State, l.foldl g s = { s with ladders := (l.foldl g s).ladders } := by
  induction l with
  | nil => exact fun s => rfl
  | cons x l ih =>
    intro s
    rw [List.foldl_cons]
    refine (ih (g s x)).trans ?_
    generalize (l.foldl g (g s x)).ladders = ladders
    rw [hg s x]

/-- Queuing a mark at some ports, each named once, changes those of them that `f` picks. -/
theorem ladder_foldl_withMark (f : Nat → Bool) (m : Word64 × Nat × W32) (p : Nat) (ports : List Nat) : ports.Nodup →
    ∀ s : State, (ports.foldl (fun st q => if f q then st.setLadder q ((st.ladder q).withMark m) else st) s).ladder p
      = if p ∈ ports ∧ f p = true then (s.ladder p).withMark m else s.ladder p := by
  induction ports with
  | nil => exact fun _ s => by simp
  | cons q ports ih =>
    intro hnodup s
    obtain ⟨hnew, hrest⟩ := List.nodup_cons.1 hnodup
    rw [List.foldl_cons, ih hrest]
    by_cases hp : p = q
    · subst hp
      by_cases hf : f p = true <;> simp [hnew, hf]
    · by_cases hf : f q = true <;> simp [hp, hf]

theorem sendMarks_frame (s : State) (turn : Word64) (lead : Nat) (acc : W32) :
    s.sendMarks turn lead acc = { s with ladders := (s.sendMarks turn lead acc).ladders } :=
  foldl_frame_ladders (fun st p => by split <;> rfl) (List.range 8) s

theorem ladder_sendMarks (s : State) (turn : Word64) (lead : Nat) (acc : W32) {p : Nat} (hp : p < 8) :
    (s.sendMarks turn lead acc).ladder p
      = if bitOf s.turns.cfg.forward.toNat p then (s.ladder p).withMark (turn, lead, acc) else s.ladder p := by
  rw [sendMarks_eq, ladder_foldl_withMark _ _ p (List.range 8) List.nodup_range]
  simp [hp]

section
variable {s : State} {port : Nat} {turn : Word64} {lead : Nat} {e : Int} {arrival : Nat}

/-- The turn clock with one more mark among the latest 16 (R205). -/
def Turns.seen (t : Turns) (e : Int) : Turns := { t with marks := (e :: t.marks).take 16 }

/-- The instant of the boundary that a mark places: LEAD_TURNS · P̂ after its root sent it (R205). -/
def Turns.placeOf (t : Turns) (lead : Nat) (e : Int) : Int := e + lead * (t.seen e).meanPs

/-- During holdover a mark's spacing is judged as an edge's is (R203, R205). -/
def Turns.judged (t : Turns) (e : Int) : Turns :=
  let p := (t.seen e).meanPs
  let d := e - t.marks.head?.getD 0
  if t.holdover then t.runEdge (!t.marks.isEmpty && decide (9 * p ≤ 10 * d) && decide (10 * d ≤ 11 * p)) else t

theorem placeMark_eq (s : State) (port : Nat) (turn : Word64) (lead : Nat) (e : Int) (arrival : Nat) :
    s.placeMark port turn lead e arrival =
      if s.turns.placeOf lead e < arrival then s.count (bTrn 4) 0x158 1
      else if (s.turns.judged e).holdover then { s with turns := (s.turns.judged e).seen e }
      else
        let s1 := { s with turns :=
          { (s.turns.judged e).seen e with
            placed := (s.turns.judged e).placed ++ [((s.turns.placeOf lead e - 25000).toNat, turn)]
            turnJump := turn != s.turns.expected, ending := false } }
        if turn != s.turns.expected then s1.record (bTrn 4) 0x021A port 0 turn.toNat else s1 :=
  rfl

theorem placeMark_frame (s : State) (port : Nat) (turn : Word64) (lead : Nat) (e : Int) (arrival : Nat) :
    let t := s.placeMark port turn lead e arrival
    t = { s with turns := t.turns, counters := t.counters, sheets := t.sheets } := by
  rw [placeMark_eq]
  dsimp only
  split
  · rfl
  split
  · rfl
  split
  · rw [record_eq]
  · rfl

theorem ladder_placeMark (s : State) (port : Nat) (turn : Word64) (lead : Nat) (e : Int) (arrival p : Nat) :
    (s.placeMark port turn lead e arrival).ladder p = s.ladder p := by
  rw [placeMark_frame]
  rfl

theorem placeMark_of_late (h : s.turns.placeOf lead e < arrival) :
    s.placeMark port turn lead e arrival = s.count (bTrn 4) 0x158 1 := if_pos h

theorem turns_placeMark_of_in_time (hhold : s.turns.holdover = false) (h : (arrival : Int) ≤ s.turns.placeOf lead e) :
    (s.placeMark port turn lead e arrival).turns = { s.turns with
      marks := (e :: s.turns.marks).take 16, ending := false, turnJump := turn != s.turns.expected
      placed := s.turns.placed ++ [((s.turns.placeOf lead e - 25000).toNat, turn)] } := by
  have hjudged : s.turns.judged e = s.turns := if_neg (by simp [hhold])
  rw [placeMark_eq, if_neg (Int.not_lt.2 h), hjudged, if_neg (by simp [hhold])]
  dsimp only
  split
  · rw [record_eq]
    rfl
  · rfl

end

section
variable {s : State} {port : PortIx} {turn : Word64} {lead : BitVec 4} {acc : W32} {arrival send : Nat}

theorem exec_turnMark_of_none (h : (s.ladder port).markIn.head? ≠ some (turn, lead.toNat, acc)) :
    exec (.turnMark port turn lead acc arrival send) s = .next s := if_pos h

section
variable (hmark : (s.ladder port).markIn.head? = some (turn, lead.toNat, acc))
include hmark

theorem exec_turnMark_of_other (h : s.turns.cfg.source ≠ 1 ∨ s.turns.cfg.markPort ≠ port) :
    exec (.turnMark port turn lead acc arrival send) s = .next (s.dropMark port) :=
  (if_neg (not_not.2 hmark)).trans (if_pos h)

/-- The mark is taken, queued at the ports of FORWARD with the time it has spent on its way, and placed. -/
theorem exec_turnMark_of_own (hsource : s.turns.cfg.source = 1) (hport : s.turns.cfg.markPort = port) :
    exec (.turnMark port turn lead acc arrival send) s = .next
      (((s.dropMark port).sendMarks turn lead.toNat (acc + (s.ladder port).hopPs + BitVec.ofNat 32 (send - arrival))).placeMark
        port turn lead.toNat ((arrival : Int) - acc.toNat - (s.ladder port).hopPs.toNat) arrival) :=
  (if_neg (not_not.2 hmark)).trans (if_neg (not_or.2 ⟨not_not.2 hsource, not_not.2 hport⟩))

end

theorem ladder_dropMark (s : State) (port p : Nat) :
    (s.dropMark port).ladder p
      = if p = port then { s.ladder p with markIn := (s.ladder p).markIn.drop 1 } else s.ladder p := by
  rw [State.dropMark, ladder_setLadder]
  split
  case isTrue h => rw [h]
  case isFalse => rfl

/-- A mark that is taken and queued touches ladder ports alone. -/
theorem forwarded_frame (s : State) (port : Nat) (turn : Word64) (lead : Nat) (acc : W32) :
    (s.dropMark port).sendMarks turn lead acc = { s with ladders := ((s.dropMark port).sendMarks turn lead acc).ladders } :=
  sendMarks_frame (s.dropMark port) turn lead acc

/-- A mark that is taken, queued and placed touches ladder ports, the turn clock, counters and sheets alone. -/
theorem forwarded_placed_frame (s : State) (port : Nat) (turn : Word64) (lead : Nat) (acc : W32) (e : Int) (arrival : Nat) :
    let t := ((s.dropMark port).sendMarks turn lead acc).placeMark port turn lead e arrival
    t = { s with ladders := t.ladders, turns := t.turns, counters := t.counters, sheets := t.sheets } := by
  have hsent := forwarded_frame s port turn lead acc
  generalize (s.dropMark port).sendMarks turn lead acc = v at hsent ⊢
  have hplaced := placeMark_frame v port turn lead e arrival
  dsimp only at hplaced ⊢
  generalize v.placeMark port turn lead e arrival = t at hplaced ⊢
  have hladders : t.ladders = v.ladders := by rw [hplaced]
  rw [hladders]
  exact hplaced.trans (by rw [hsent])

end

/-! ### Boundaries without a reference (R203, R206) -/

section
variable {s : State}

theorem placedInTime_iff (t : Turns) : t.placedInTime = true ↔ ∃ x ∈ t.placed, x.1 ≤ t.lastRef + t.lateAfter := by
  simp [Turns.placedInTime]

/-- The source owes a boundary: it is no oscillator, and no edge or mark has made one due. -/
def Turns.Missing (t : Turns) : Prop :=
  t.cfg.source ≠ 2 ∧ t.holdover = false ∧ t.ending = false ∧ t.due = none
    ∧ (t.cfg.source = 1 → ∀ x ∈ t.placed, t.lastRef + t.lateAfter < x.1)

/-- The turn clock with a boundary due at 1.1 periods (R203). -/
def Turns.dueLate (t : Turns) (run : Nat) : Turns := { t with due := some (t.lastRef + t.lateAfter, false), missedRun := run }

theorem exec_missedBoundary_of_not_missing (h : s.turns.cfg.source = 2 ∨ s.turns.holdover = true ∨ s.turns.ending = true
      ∨ s.turns.due.isSome = true
      ∨ (s.turns.cfg.source = 1 ∧ ∃ x ∈ s.turns.placed, x.1 ≤ s.turns.lastRef + s.turns.lateAfter)) :
    exec .missedBoundary s = .next s := by
  rw [← placedInTime_iff] at h
  exact if_pos h

section
variable (hmissing : s.turns.Missing)
include hmissing

theorem exec_missedBoundary_of_missing :
    exec .missedBoundary s =
      let s1 := ({ s with turns := s.turns.dueLate (s.turns.missedRun + 1) }).count (bTrn 4) 0x150 1
      if 4 ≤ s.turns.missedRun + 1 then
        .next (({ s1 with turns := { s.turns.dueLate 0 with holdover := true, goodEdges := 0 } }).record (bTrn 4) 0x0219 0
          s.turns.cfg.source s.turns.nextNumber.toNat)
      else .next s1 := by
  obtain ⟨hsource, hhold, hend, hdue, hplaced⟩ := hmissing
  refine if_neg ?_
  simp only [hsource, hhold, hend, hdue, placedInTime_iff, Option.isSome_none, Bool.false_eq_true, false_or]
  rintro ⟨hmarks, x, hx, hle⟩
  exact absurd hle (Nat.not_le.2 (hplaced hmarks x hx))

theorem exec_missedBoundary_of_few (hfew : s.turns.missedRun < 3) :
    exec .missedBoundary s
      = .next (({ s with turns := s.turns.dueLate (s.turns.missedRun + 1) }).count (bTrn 4) 0x150 1) :=
  (exec_missedBoundary_of_missing hmissing).trans (if_neg (by omega))

/-- The fourth in a row starts holdover. -/
theorem exec_missedBoundary_of_fourth (hmany : ¬ s.turns.missedRun < 3) :
    exec .missedBoundary s
      = .next ((({ s with turns := { s.turns.dueLate 0 with holdover := true, goodEdges := 0 } }).count (bTrn 4) 0x150 1).record
          (bTrn 4) 0x0219 0 s.turns.cfg.source s.turns.nextNumber.toNat) :=
  (exec_missedBoundary_of_missing hmissing).trans (if_pos (by omega))

end

theorem exec_holdoverBoundary_of_idle (h : s.turns.due.isSome = true ∨ (s.turns.cfg.source ≠ 2 ∧ s.turns.holdover = false)) :
    exec .holdoverBoundary s = .next s :=
  if_pos (h.imp_right fun ⟨hsource, hhold⟩ => not_or.2 ⟨hsource, by simp [hhold]⟩)

theorem exec_holdoverBoundary_of_oscillator (hdue : s.turns.due = none) (h : s.turns.cfg.source = 2 ∨ s.turns.holdover = true) :
    exec .holdoverBoundary s = .next { s with turns :=
      { s.turns with due := some (s.turns.lastRef + 1000 * s.turns.cfg.nominalNs, decide (s.turns.cfg.source = 2)) } } :=
  if_neg (by simp [hdue, h])

end

/-! ### Turn tables (R208) -/

theorem table_setTable (s : State) (i j : Nat) (l : List TtEntry) :
    (s.setTable i l).table j = if j = i then l else s.table j := Map.get_put ..

/-- The entry that a write of TRN_TT_HI appends: its turn is the staged half. -/
def State.stagedEntry (s : State) (i : Nat) (hi : Word64) : TtEntry :=
  { turn := Map.get s.turns.stagedLo i 0, action := bitsOf hi.toNat 0 4, target := BitVec.ofNat 16 (bitsOf hi.toNat 16 16)
    arg := BitVec.ofNat 32 (bitsOf hi.toNat 32 32) }

section
variable {s : State} {trn : TrnIx} {hi : Word64}

theorem exec_turnTableAppend_of_accepted (h : s.appendReasons trn (s.stagedEntry trn hi) = []) :
    exec (.turnTableAppend trn hi) s = .next (s.setTable trn (s.table trn ++ [s.stagedEntry trn hi])) := by
  unfold State.stagedEntry at h
  simp only [exec, execTurnTableAppend, h]
  rfl

section
variable {r : Nat} {more : List Nat} (h : s.appendReasons trn (s.stagedEntry trn hi) = r :: more)
include h

theorem exec_turnTableAppend_of_refused :
    exec (.turnTableAppend trn hi) s =
      let s1 := s.count (bTrn trn) 0x168 1
      if s.turns.refusedThisTurn.contains (trn : Nat) then .next s1
      else
        .next (({ s1 with turns := { s.turns with refusedThisTurn := setAdd s.turns.refusedThisTurn trn } }).record (bTrn trn)
          0x0210 trn r (s.stagedEntry trn hi).turn.toNat) := by
  unfold State.stagedEntry at h
  simp only [exec, execTurnTableAppend, h]
  rfl

theorem exec_turnTableAppend_of_refused_again (hseen : s.turns.refusedThisTurn.contains (trn : Nat) = true) :
    exec (.turnTableAppend trn hi) s = .next (s.count (bTrn trn) 0x168 1) :=
  (exec_turnTableAppend_of_refused h).trans (if_pos hseen)

/-- The first refused append of a turn is recorded. -/
theorem exec_turnTableAppend_of_refused_first (hnew : s.turns.refusedThisTurn.contains (trn : Nat) = false) :
    exec (.turnTableAppend trn hi) s
      = .next ((({ s with turns := { s.turns with refusedThisTurn := setAdd s.turns.refusedThisTurn trn } }).count (bTrn trn) 0x168
          1).record (bTrn trn) 0x0210 trn r (s.stagedEntry trn hi).turn.toNat) :=
  (exec_turnTableAppend_of_refused h).trans (if_neg (Bool.eq_false_iff.1 hnew))

end

end

/-! ### O41 -/

/-- What TURN_MARK leaves of the mark on MARK_PORT (R204 to R206). -/
theorem turnMark_of_own {s : State} {port : PortIx} {turn : Word64} {lead : BitVec 4} {acc : W32} {arrival send : Nat}
    (hmark : (s.ladder port).markIn.head? = some (turn, lead.toNat, acc)) (hsource : s.turns.cfg.source = 1)
    (hport : s.turns.cfg.markPort = port) :
    let e : Int := (arrival : Int) - acc.toNat - (s.ladder port).hopPs.toNat
    let passed : W32 := acc + (s.ladder port).hopPs + BitVec.ofNat 32 (send - arrival)
    ∃ t, exec (.turnMark port turn lead acc arrival send) s = .next t
      ∧ t = { s with ladders := t.ladders, turns := t.turns, counters := t.counters, sheets := t.sheets }
      ∧ (∀ p, p < 8 → t.ladder p = if bitOf s.turns.cfg.forward.toNat p
          then ((s.dropMark port).ladder p).withMark (turn, lead.toNat, passed) else (s.dropMark port).ladder p)
      ∧ (s.turns.placeOf lead.toNat e < arrival →
          t.turns = s.turns ∧ t.counter (bTrn 4) 0x158 = s.counter (bTrn 4) 0x158 + 1)
      ∧ ((arrival : Int) ≤ s.turns.placeOf lead.toNat e → s.turns.holdover = false → t.turns = { s.turns with
          marks := (e :: s.turns.marks).take 16, ending := false, turnJump := turn != s.turns.expected
          placed := s.turns.placed ++ [((s.turns.placeOf lead.toNat e - 25000).toNat, turn)] }) := by
  intro e passed
  refine ⟨_, exec_turnMark_of_own hmark hsource hport, forwarded_placed_frame .., fun p hp => ?ladders, fun hlate => ?late,
    fun htime hhold => ?placed⟩
  case ladders =>
    rw [ladder_placeMark]
    exact ladder_sendMarks (s.dropMark port) turn lead.toNat passed hp
  case late =>
    have hsent := forwarded_frame s port turn lead.toNat passed
    rw [placeMark_of_late (by rw [hsent]; exact hlate), hsent]
    exact ⟨rfl, counter_count ..⟩
  case placed =>
    have hsent := forwarded_frame s port turn lead.toNat passed
    rw [hsent]
    exact turns_placeMark_of_in_time hhold htime

/-- Settles O41, command by command: edges, marks (`turnMark_of_own`), the oscillator's boundaries, TRN_SET and the tables. -/
theorem turnReferenceEvents : Obligations.TurnReferenceEvents := by
  unfold Obligations.TurnReferenceEvents
  intro s t0 p0 glitch
  have hglitch (time : Nat) : glitch (s.afterGlitch time) time := ⟨rfl, counter_count s (bTrn 4) 0x148 1⟩
  refine ⟨fun time hsource => if_pos hsource, fun time hsource hhold hdue hend => ⟨fun hin => ?inWindow, fun hout => ?outside⟩,
    fun time hsource hhold hend hdue => ?alreadyDue, fun time hsource hhold hend => exec_turnInEdge_of_ending hsource hhold hend,
    fun time e hsource hhold hlast hrun hfew hend => exec_turnInEdge_of_holdover hsource hhold hlast hrun hfew hend,
    fun port turn lead acc arrival send hnone => exec_turnMark_of_none hnone,
    fun port turn lead acc arrival send hmark hother => exec_turnMark_of_other hmark hother,
    fun port turn lead acc arrival send hmark hsource hport => ?mark,
    fun hnot => exec_missedBoundary_of_not_missing hnot, fun hsource hhold hend hdue hplaced => ?missed,
    fun hidle => exec_holdoverBoundary_of_idle hidle, fun hdue hosc => exec_holdoverBoundary_of_oscillator hdue hosc,
    fun v hsource => if_neg hsource, fun v hsource => ⟨_, if_pos hsource, rfl, counter_count ..⟩,
    fun trn hi => ⟨fun haccepted => ?accepted, fun r more hrefused => ?refused⟩⟩
  case inWindow => exact exec_turnInEdge_of_in_window hsource hhold hend hdue hin
  case outside => exact ⟨_, exec_turnInEdge_of_glitch hsource hhold hend (.inr hout), hglitch time⟩
  case alreadyDue => exact ⟨_, exec_turnInEdge_of_glitch hsource hhold hend (.inl hdue), hglitch time⟩
  case mark =>
    obtain ⟨t, hexec, hframe, hladders, hlate, hin⟩ := turnMark_of_own (arrival := arrival) (send := send) hmark hsource hport
    intro hop e seen place taken
    refine ⟨t, hexec, hframe, fun p hp => ?_, hlate, hin⟩
    have hdue : (taken p).markDue = (s.ladder p).markDue := by
      dsimp only [taken]
      split <;> rfl
    rw [hladders p hp, ladder_dropMark, ← hdue]
    rfl
  case missed =>
    have hmissing : s.turns.Missing := ⟨hsource, hhold, hend, hdue, hplaced⟩
    by_cases hfew : s.turns.missedRun < 3
    · exact ⟨_, exec_missedBoundary_of_few hmissing hfew, counter_count .., rfl, (if_pos hfew).symm, fun _ => rfl⟩
    · refine ⟨_, exec_missedBoundary_of_fourth hmissing hfew, ?_, ?_, ?_, fun h => absurd h hfew⟩
      · rw [counter_record_of_ne _ _ _ _ _ _ _ (by decide) (by decide)]
        exact counter_count ..
      · rw [record_eq]
        rfl
      · rw [record_eq]
        exact (if_neg hfew).symm
  case accepted =>
    exact ⟨_, exec_turnTableAppend_of_accepted haccepted, (table_setTable ..).trans (if_pos rfl),
      fun j hj => (table_setTable ..).trans (if_neg hj), rfl⟩
  case refused =>
    by_cases hseen : s.turns.refusedThisTurn.contains (trn : Nat) = true
    · exact ⟨_, exec_turnTableAppend_of_refused_again hrefused hseen, rfl, counter_count .., fun _ => rfl,
        fun hnew => absurd hseen (Bool.eq_false_iff.1 hnew)⟩
    · refine ⟨_, exec_turnTableAppend_of_refused_first hrefused (Bool.eq_false_iff.2 hseen), ?_, ?_, fun h => absurd h hseen,
        fun _ => ?_⟩
      · rw [record_eq]
        rfl
      · rw [counter_record_of_ne _ _ _ _ _ _ _ (by decide) (by decide)]
        exact counter_count ..
      · rw [record_eq]
        exact (mem_setAdd ..).2 (.inl rfl)

end Sys2Proof.Machine
end

section
/-! Why O42 fails. It keeps memory at every boundary where no journal entry waits, but a region test that ends there copies its
64 rows back from the save buffer, and each word is checked as it is read (R285, R294; log entry 62): one with two wrong symbols
goes back in poison form, with the bits that have flipped. The statement leaves that boundary out for module flash alone. -/

namespace Sys2Proof.Machine

/-- Bank 0 of core 0 serves addresses and its first region is under test; symbols 0 and 1 of the region's first word are wrong,
and a boundary is due. -/
def underTest : State :=
  { State.reset with
    banks := [(bBankCore 0 * 256, { BankSt.reset with mode := 1 })]
    testers := [(bBankCore 0, { Tester.reset with running := [(0, 0, 0, [])] })]
    upsets := [(scratchKey 0 0 / 16, 0x11)]
    turns := { Turns.reset with due := some (16000, true) } }

/-- Nothing is measured and no further bit flips. -/
def quietTurn : Measures := { energy := [], siteTemp := [], hbmTemp := [], upsets := [], wire := [], control := [] }

/-- The first byte of the region holds the flipped bits after the boundary. -/
theorem underTest_run :
    ∃ t, exec (.turnBoundary quietTurn) underTest = .next t ∧ Map.get t.mem (scratchKey 0 0) unlistedByte = 0x11 :=
  ⟨_, rfl, by decide +kernel⟩

/-- Refutes O42: the boundary that ends the test of `underTest` writes the first word of the region, where the statement, with no
journal entry waiting, wants memory as it was. -/
theorem not_boundariesRunTheTurn : ¬ Obligations.BoundariesRunTheTurn := by
  unfold Obligations.BoundariesRunTheTurn
  intro h
  obtain ⟨-, hdue⟩ := h underTest quietTurn
  obtain ⟨t, hexec, -, -, -, -, -, -, -, -, hmem, -⟩ := hdue (16000, true) rfl
  obtain ⟨u, hrun, hbyte⟩ := underTest_run
  cases hrun.symm.trans hexec
  rw [hmem rfl] at hbyte
  exact absurd hbyte (by decide)

end Sys2Proof.Machine
end

section
/-! The planner's commands between boundaries: what stops issue, what lets a grant lapse, and which account is read (R211, R217,
R222). -/

namespace Sys2Proof.Machine

section
variable {s : State}

theorem covered_of_backstop {t : State} (h : t.energy.backstop = true) (agent price : Nat) : t.covered agent price = false := by
  simp [State.covered, h]

theorem grantLapsed_iff :
    s.grantLapsed = true ↔ s.fld bNrg 0x108 16 16 ≠ 0 ∧ s.energy.lastGrant + s.fld bNrg 0x108 16 16 ≤ s.elapsed := by
  simp [State.grantLapsed]

/-- Once ALLOWANCE_PIPS has lapsed, the grant is limited to 2,400 W (R211). -/
theorem grantPips_le_of_lapsed (h : s.grantLapsed = true) : s.grantPips ≤ s.wattPips 2400 := by
  unfold State.grantPips
  rw [if_pos h]
  exact Nat.min_le_right ..

/-- The left side of R217's comparison, in 2⁻¹⁶ pip times 10⁶: energy measured, priced work that is issued and not complete, and
the idle energy of the rest of the turn. -/
def State.backstopTotal (s : State) (measured left : Nat) : Nat :=
  measured * 65536 * 1000000 + (((List.range 416).map s.incompletePrice).sum + s.owedPrice) * 1000000
    + s.idleTotal s.energy.clockMhz * left * 65536

theorem exec_backstopCheck_of_reached {measured left : Nat} (hen : s.isEnabled bNrg = true)
    (hreach : s.energy.budget * 65536 * 1000000 ≤ s.backstopTotal measured left) (hnew : s.energy.backstop = false) :
    exec (.backstopCheck measured left) s
      = .next (({ s with energy := { s.energy with backstop := true } }).count bNrg 0x198 1) :=
  if_pos (by simpa [hen, hnew, State.backstopTotal] using hreach)

theorem exec_backstopCheck_of_not_reached {measured left : Nat} (h : s.isEnabled bNrg = false
    ∨ s.backstopTotal measured left < s.energy.budget * 65536 * 1000000 ∨ s.energy.backstop = true) :
    exec (.backstopCheck measured left) s = .next s := by
  refine if_neg fun hacts => ?_
  simp only [Bool.and_eq_true, decide_eq_true_eq, Bool.not_eq_true'] at hacts
  obtain ⟨⟨hen, hreach⟩, hnew⟩ := hacts
  rcases h with h | h | h
  · exact absurd hen (by simp [h])
  · exact absurd hreach (Nat.not_le.2 h)
  · exact absurd hnew (by simp [h])

theorem exec_grantTimeout_of_lapsed (hlapsed : s.grantLapsed = true) (hnew : s.energy.grantExpired = false) :
    exec .grantTimeout s
      = .next (({ s with energy := { s.energy with grantExpired := true } }).record bNrg 0x021B 0 0 s.energy.lastGrantTurn) :=
  if_pos (by rw [hlapsed, hnew]; rfl)

theorem exec_grantTimeout_of_not_due (h : s.grantLapsed = false ∨ s.energy.grantExpired = true) :
    exec .grantTimeout s = .next s :=
  if_neg (by rcases h with h | h <;> simp [h])

end

/-- Settles O43, command by command. -/
theorem plannerLimits : Obligations.PlannerLimits := by
  unfold Obligations.PlannerLimits
  refine fun s => ⟨fun measured left => ⟨fun hen hreach hnew => ?backstop, fun h => exec_backstopCheck_of_not_reached h⟩,
    ⟨fun hlimit hlate hnew => ?timeout, fun h => ?noTimeout⟩, fun a => ?select⟩
  case backstop =>
    exact ⟨_, exec_backstopCheck_of_reached hen hreach hnew, rfl, counter_count .., covered_of_backstop rfl⟩
  case timeout =>
    have hlapsed : s.grantLapsed = true := grantLapsed_iff.2 ⟨hlimit, hlate⟩
    refine ⟨_, exec_grantTimeout_of_lapsed hlapsed hnew, ?_, ?_, ?_⟩
    all_goals rw [record_eq]
    exact grantPips_le_of_lapsed hlapsed
  case noTimeout =>
    refine exec_grantTimeout_of_not_due ?_
    rw [← or_assoc] at h
    refine h.imp_left fun hearly => Bool.eq_false_iff.2 fun hlapsed => ?_
    obtain ⟨hlimit, hlate⟩ := grantLapsed_iff.1 hlapsed
    exact hearly.elim hlimit (Nat.not_lt.2 hlate)
  case select =>
    simp only [exec, execNrgCorrSel]
    split <;> rfl

end Sys2Proof.Machine
end

section
/-! Memory at rest: an access of a unit to DRAM passes nothing that stands before it, so a read gives what stands there and a
write puts its bytes in place (R299, R304, R316, R320, R333). -/

namespace Sys2Proof.Machine

/-! ### States at rest -/

/-- No word waits to be mended and none is poison, no cache holds a line, and no home has a request. -/
structure Resting (s : State) : Prop where
  dirs : s.dirs = []
  poison : s.poison = []
  upsets : s.upsets = []
  wire : s.wire = []
  canonical : Memory.wf s.mem = true
  txns : ∀ h, (s.home h).txns = []
  aged : ∀ h, (s.home h).aged = []

theorem resting_of_quiet {s : State} (h : quiet s) : Resting s := by
  obtain ⟨⟨hupsets, hwire⟩, hpoison, -, hdirs, hmem, -, hhomes⟩ := h
  exact ⟨hdirs, hpoison, hupsets, hwire, hmem, fun n => (hhomes n).1, fun n => (hhomes n).2⟩

namespace Resting

variable {s t : State}

theorem of_calm (h : Resting s) (k : s.Calm t) : Resting t := by
  obtain ⟨hdirs, hpoison, hupsets, hwire, hhomes, hmem⟩ := k
  have hhome : ∀ n, t.home n = s.home n := fun n => by rw [State.home, hhomes]; rfl
  exact ⟨hdirs.trans h.dirs, hpoison.trans h.poison, hupsets.trans h.upsets, hwire.trans h.wire, hmem ▸ h.canonical,
    fun n => hhome n ▸ h.txns n, fun n => hhome n ▸ h.aged n⟩

theorem clearWay (h : Resting s) (src : TxnFrom) (line : Nat) : s.clearWay src line = s := by
  have haged : ∀ n, s.ownAgedFirst n src = s := fun n => by simp [State.ownAgedFirst, h.aged]
  simp [State.clearWay, haged, h.txns]

theorem dir (h : Resting s) (line : Nat) : s.dir line = .reset := by simp [State.dir, h.dirs, Map.get]

theorem ownerOf (h : Resting s) (line : Nat) : s.ownerOf line = none := by
  simp [State.ownerOf, h.dir, DirEntry.reset]

theorem mendLine (h : Resting s) (line : Nat) : s.mendLine line = s := by simp [State.mendLine, h.upsets]

theorem arrive (h : Resting s) (bs : PBytes) : s.arrive bs = (s, bs) := by simp [State.arrive, h.wire]

theorem clearHolders (h : Resting s) (who line : Nat) (recalling : Bool) : s.clearHolders who line recalling = s := by
  have hback : s.ownerBack who line = s := by simp [State.ownerBack, h.ownerOf]
  have hdir : s.setDir line .reset = s := by
    rw [State.setDir, h.dirs, show Map.put ([] : Map DirEntry) line .reset .reset = [] from rfl, ← h.dirs]
  simp [State.clearHolders, h.dir, DirEntry.reset, hback]
  exact hdir

/-- What stands in memory is read without poison. -/
theorem readKey (h : Resting s) (a n : Nat) : s.readKey a n = PBytes.clean (bytesAt s a n) := by
  unfold bytesAt
  rw [readKey_eq h.canonical]
  simp [PBytes.clean, PBytes.data, State.poisoned, h.poison]

end Resting

/-! ### DRAM addresses (R316, R320) -/

/-- An address of HBM3E or LPDDR5X. -/
def isDram (a : Nat) : Prop := regionOf a = some .hbm ∨ regionOf a = some .lpx

theorem regionOf_eq_hbm_iff {a : Nat} : regionOf a = some .hbm ↔ a < hbmEnd := by
  unfold regionOf
  split_ifs <;> simp_all

theorem isDram_of_inDram {a n k : Nat} (h : inDram a n) (hk : k < n) : isDram (a + k) := by
  unfold inDram inRegion Region.range at h
  simp only [Bool.and_eq_true, decide_eq_true_eq] at h
  unfold isDram regionOf
  rcases h with h | h
  · left; rw [if_pos (by omega)]
  · right
    have : hbmEnd < lpxBase := by decide
    rw [if_neg (by omega), if_pos (by omega)]

theorem inDram_part {a n k m : Nat} (h : inDram a n) (hk : k + m ≤ n) : inDram (a + k) m := by
  unfold inDram inRegion Region.range at h ⊢
  simp only [Bool.and_eq_true, decide_eq_true_eq] at h ⊢
  omega

theorem placeOf_of_isDram {a : Nat} (h : isDram a) (s : State) : s.placeOf a = .dram := by
  unfold State.placeOf
  rcases h with h | h <;> rw [h]

theorem hbmTile_lt {a : Nat} (h : a < hbmEnd) : hbmTile a < 4 := Nat.div_lt_of_lt_mul h

theorem hbmStack_lt {a : Nat} (h : a < hbmEnd) : hbmStack a < 16 := by
  have htile := hbmTile_lt h
  have hxor : ∀ o, bitsOf o 12 2 ^^^ bitsOf o 14 2 < 2 ^ 2 := fun o => Nat.xor_lt_two_pow (bitsOf_lt ..) (bitsOf_lt ..)
  have := hxor (a - hbmTile a * 0x4800000000)
  unfold hbmStack
  dsimp only
  omega

theorem homeOf_lt {a : Nat} (h : isDram a) : homeOf a < 72 := by
  have hx4 : ∀ {x y : Nat}, x < 2 ^ 4 → y < 2 ^ 4 → x ^^^ y < 2 ^ 4 := fun hx hy => Nat.xor_lt_two_pow hx hy
  have hx3 : ∀ {x y : Nat}, x < 2 ^ 3 → y < 2 ^ 3 → x ^^^ y < 2 ^ 3 := fun hx hy => Nat.xor_lt_two_pow hx hy
  have h16 : bitsOf a 7 4 ^^^ bitsOf a 11 4 ^^^ bitsOf a 15 4 ^^^ bitsOf a 19 4 < 2 ^ 4 :=
    hx4 (hx4 (hx4 (bitsOf_lt ..) (bitsOf_lt ..)) (bitsOf_lt ..)) (bitsOf_lt ..)
  have h8 : bitsOf a 7 3 ^^^ bitsOf a 10 3 ^^^ bitsOf a 13 3 < 2 ^ 3 := hx3 (hx3 (bitsOf_lt ..) (bitsOf_lt ..)) (bitsOf_lt ..)
  unfold homeOf
  rcases h with h | h <;> rw [h] <;> dsimp only
  · have := hbmTile_lt (regionOf_eq_hbm_iff.1 h)
    omega
  · omega

/-! ### What an access leaves (R171, R297, R313) -/

/-- From `s` to `t` only traffic has passed: memory and what stands before it stay, and so do the counters of the sweep
engines' blocks. -/
structure Traffic (s t : State) : Prop where
  calm : s.Calm t
  counts : ∀ n off, 0xCA0 ≤ n → n < 0xCB0 → off < 65536 → t.counter n off = s.counter n off

namespace Traffic

variable {s t u : State}

theorem refl (s : State) : Traffic s s := ⟨.refl s, fun _ _ _ _ _ => rfl⟩

theorem trans (h : Traffic s t) (k : Traffic t u) : Traffic s u :=
  ⟨h.calm.trans k.calm, fun n off hlo hhi hoff => (k.counts n off hlo hhi hoff).trans (h.counts n off hlo hhi hoff)⟩

/-- A step that keeps every counter. -/
theorem of_calm (h : Traffic s t) (k : t.Calm u) (hcounters : u.counters = t.counters) : Traffic s u :=
  h.trans ⟨k, fun _ _ _ _ _ => by rw [State.counter, hcounters]; rfl⟩

theorem count (h : Traffic s t) {n off : Nat} (hn : n < 0xCA0 ∨ 0xCB0 ≤ n) (hoff : off < 65536) (k : Nat) :
    Traffic s (t.count n off k) :=
  h.trans ⟨calm_count .., fun _ _ _ _ _ => Map.get_put_ne _ _ _ _ _ (by unfold regKey; omega)⟩

theorem ite (p : Prop) [Decidable p] (ht : Traffic s t) (hu : Traffic s u) : Traffic s (if p then t else u) := by
  split <;> assumption

theorem bHbm_outside {a : Nat} (h : regionOf a = some .hbm) : bHbm (hbmStack a) < 0xCA0 ∨ 0xCB0 ≤ bHbm (hbmStack a) :=
  .inl (by have := hbmStack_lt (regionOf_eq_hbm_iff.1 h); unfold bHbm; omega)

theorem bBankTile_outside {a : Nat} (h : regionOf a = some .hbm) :
    bBankTile (hbmTile a) < 0xCA0 ∨ 0xCB0 ≤ bBankTile (hbmTile a) :=
  .inl (by have := hbmTile_lt (regionOf_eq_hbm_iff.1 h); unfold bBankTile; omega)

theorem bHome_outside {a : Nat} (h : isDram a) : bHome (homeOf a) < 0xCA0 ∨ 0xCB0 ≤ bHome (homeOf a) :=
  .inl (by have := homeOf_lt h; unfold bHome; omega)

theorem llcDrop (h : Traffic s t) (line : Nat) : Traffic s (t.llcDrop line) := by
  have hout : Traffic s { t with llc := Map.erase t.llc line } := h.of_calm ⟨rfl, rfl, rfl, rfl, rfl, rfl⟩ rfl
  unfold State.llcDrop
  refine ite _ ?_ hout
  split
  · next hr => exact (hout.count (bBankTile_outside hr) (by decide) _).count (bHbm_outside hr) (by decide) _
  · exact hout.count (by decide) (by decide) _
  · exact hout

theorem llcPut (h : Traffic s t) (line : Nat) (dirty : Bool) : Traffic s (t.llcPut line dirty) := by
  have hroom : Traffic s (t.llcRoom line) := ite _ h (ite _ h ((h.of_calm (calm_free t) rfl).llcDrop _))
  exact hroom.of_calm ⟨rfl, rfl, rfl, rfl, rfl, rfl⟩ rfl

theorem memTraffic (h : Traffic s t) {a : Nat} (ha : isDram a) (k : Nat) (write first : Bool) :
    Traffic s (t.memTraffic a k write first) := by
  unfold State.memTraffic
  dsimp only
  rcases ha with hr | hr <;> rw [hr] <;> dsimp only
  · have hbank := h.of_calm (calm_touchBank t (bBankTile (hbmTile a)) (t.cacheBankOf (hbmTile a) (lineOf a))) rfl
    have hfound := ite (first = true)
      (hbank.count (off := if t.inLlc (lineOf a) then 0x170 else 0x178) (bBankTile_outside hr) (by split <;> decide) 1) hbank
    refine ite _ (h.count (bHbm_outside hr) ?_ _) (llcPut (ite _ hfound (hfound.count (bHbm_outside hr) (by decide) _)) ..)
    split <;> decide
  · exact llcPut (ite _ h (h.count (by decide) (by decide) _)) ..

theorem countRequest (h : Traffic s t) {a : Nat} (ha : isDram a) : Traffic s (t.countRequest (homeOf a) 0 0) :=
  h.count (bHome_outside ha) (by decide) _

theorem carry (h : Traffic s t) (src dst : Node) (cls : Nat) (req : Option (Nat × Bool)) :
    Traffic s (t.carry src dst cls req) :=
  h.of_calm (calm_carry ..) (by rw [carry_eq])

/-- Data between DRAM and a unit that is no core's. -/
theorem dataMoved (h : Traffic s t) {who a : Nat} (hwho : coreOfCode who = none) (ha : isDram a) (k : Nat) (write : Bool) :
    Traffic s (t.dataMoved who a k write) := by
  have hrouters : t.routersCount who a k write = t := by
    unfold State.routersCount
    simp [hwho, placeOf_of_isDram ha]
  unfold State.dataMoved
  rw [placeOf_of_isDram ha]
  dsimp only
  rw [hrouters]
  exact ite _ (h.carry ..) (h.carry ..)

end Traffic

/-! ### The rows of an access -/

theorem pos_of_mem_rowsOf {a n : Nat} {r : Nat × Nat × Bool} (h : r ∈ rowsOf a n) : 0 < r.2.1 := by
  unfold rowsOf at h
  split at h
  · cases h
  · obtain ⟨i, hi, rfl⟩ := List.mem_map.1 h
    have := List.mem_range.1 hi
    dsimp only
    omega

/-- `rowsOf_induction`, with rows that are not empty. -/
theorem rowsOf_induction_pos {σ : Type} {step : σ → Nat × Nat × Bool → σ} {a n : Nat} {P : Nat → σ → Prop} {x : σ}
    (h0 : P 0 x)
    (hstep : ∀ m y (r : Nat × Nat × Bool), P m y → r.1 = a + m → 0 < r.2.1 → m + r.2.1 ≤ n → P (m + r.2.1) (step y r)) :
    P n ((rowsOf a n).foldl step x) := by
  have hsame : (rowsOf a n).foldl step x = (rowsOf a n).foldl (fun y r => if r.2.1 = 0 then y else step y r) x :=
    List.foldl_ext _ _ _ fun y r hr => (if_neg (pos_of_mem_rowsOf hr).ne').symm
  rw [hsame]
  refine rowsOf_induction h0 fun m y r hy hstart hend => ?_
  split
  · next hz => rwa [hz]
  · next hpos => exact hstep m y r hy hstart (Nat.pos_of_ne_zero hpos) hend

/-! ### Reads -/

theorem bytesAt_of_calm {s t : State} (h : s.Calm t) (a n : Nat) : bytesAt t a n = bytesAt s a n := by
  obtain ⟨-, hpoison, -, -, -, hmem⟩ := h
  unfold bytesAt State.readKey State.poisoned
  rw [hpoison, hmem]

theorem length_bytesAt (s : State) (a n : Nat) : (bytesAt s a n).length = n := by
  simp [bytesAt, PBytes.data, length_readKey]

theorem bytesAt_eq {s : State} (h : Memory.wf s.mem = true) (a n : Nat) :
    bytesAt s a n = (List.range n).map fun k => Map.get s.mem (a + k) unlistedByte := by
  simp [bytesAt, PBytes.data, readKey_eq h]

theorem bytesAt_append {s : State} (h : Memory.wf s.mem = true) (a m n : Nat) :
    bytesAt s a m ++ bytesAt s (a + m) n = bytesAt s a (m + n) := by
  simp only [bytesAt, PBytes.data, ← List.map_append, readKey_append h]

theorem bytesAt_part {s : State} (h : Memory.wf s.mem = true) (a : Nat) {i k n : Nat} (hik : i + k ≤ n) :
    ((bytesAt s a n).drop i).take k = bytesAt s (a + i) k := by
  simp only [bytesAt, PBytes.data, ← List.map_drop, ← List.map_take, readKey_part h a hik]

theorem readRow_of_resting {s : State} (h : Resting s) {a : Nat} (ha : isDram a) (who n : Nat) (first : Bool) :
    (s.readRow who a n first).2 = PBytes.clean (bytesAt s a n) ∧ Traffic s (s.readRow who a n first).1 := by
  have hcounted : Traffic s (if first then s.countRequest (homeOf a) 0 0 else s) :=
    Traffic.ite _ ((Traffic.refl s).countRequest ha) (.refl s)
  have hrest := h.of_calm hcounted.calm
  unfold State.readRow
  rw [placeOf_of_isDram ha]
  dsimp only
  unfold State.readLine
  simp only [h.clearWay, h.ownerOf, hrest.mendLine]
  refine ⟨?_, hcounted.memTraffic ha ..⟩
  rw [← bytesAt_of_calm hcounted.calm, ← hrest.readKey]
  unfold State.homeCopy
  rcases ha with hr | hr <;> rw [hr]

/-- A read of DRAM gives what stands there. -/
theorem readRun_of_resting {s : State} (h : Resting s) {who a n : Nat} (hwho : coreOfCode who = none) (ha : inDram a n) :
    (s.readRun who a n).2 = PBytes.clean (bytesAt s a n) ∧ Traffic s (s.readRun who a n).1 := by
  unfold State.readRun
  refine rowsOf_induction_pos (P := fun m (acc : State × PBytes) =>
    acc.2 = PBytes.clean (bytesAt s a m) ∧ Traffic s acc.1) ⟨rfl, .refl s⟩ fun m acc r hacc hstart hpos hend => ?_
  obtain ⟨hbytes, htraffic⟩ := hacc
  have hdram : isDram r.1 := hstart ▸ isDram_of_inDram ha (by omega)
  obtain ⟨hgot, hrow⟩ := readRow_of_resting (h.of_calm htraffic.calm) hdram who r.2.1 r.2.2
  have hboth := htraffic.trans hrow
  dsimp only
  rw [hgot, (h.of_calm hboth.calm).arrive]
  refine ⟨?_, hboth.dataMoved hwho hdram ..⟩
  dsimp only
  rw [hbytes, bytesAt_of_calm htraffic.calm, hstart, ← bytesAt_append h.canonical]
  simp [PBytes.clean]

theorem peek_of_resting {s : State} (h : Resting s) {a n : Nat} (ha : inDram a n) :
    s.peek a n = PBytes.clean (bytesAt s a n) := by
  unfold State.peek
  refine rowsOf_induction_pos (P := fun m (acc : PBytes) => acc = PBytes.clean (bytesAt s a m)) rfl
    fun m acc r hacc hstart hpos hend => ?_
  have hdram : isDram r.1 := hstart ▸ isDram_of_inDram ha (by omega)
  rw [hacc, (readRow_of_resting h hdram 0 r.2.1 false).1, hstart, ← bytesAt_append h.canonical]
  simp [PBytes.clean]

/-! ### Writes -/

/-- From `s` to `t` the bytes `bs` have been written at `a`: memory rests, and the counters of the sweep engines' blocks stay. -/
structure Written (s t : State) (a : Nat) (bs : List Byte) : Prop where
  resting : Resting t
  bytes : OnlyBytes s t a bs
  counts : ∀ n off, 0xCA0 ≤ n → n < 0xCB0 → off < 65536 → t.counter n off = s.counter n off

theorem Written.traffic {s t u : State} {a : Nat} {bs : List Byte} (h : Written s t a bs) (k : Traffic t u) :
    Written s u a bs := by
  have hmem : u.mem = t.mem := k.calm.2.2.2.2.2
  refine ⟨h.resting.of_calm k.calm, ?_, fun n off hlo hhi hoff =>
    (k.counts n off hlo hhi hoff).trans (h.counts n off hlo hhi hoff)⟩
  unfold OnlyBytes
  rw [hmem]
  exact h.bytes

theorem poisonAfter_clean (key : Nat) (bs : List Byte) (keep : Bool) : poisonAfter [] key (.clean bs) keep = [] := by
  unfold poisonAfter
  dsimp only
  refine List.foldlRecOn (motive := fun l : List Nat => l = []) _ _ rfl fun l hl w _ => ?_
  have hpart : ∀ i n, (((PBytes.clean bs).drop i).take n).any (·.2) = false := fun i n => by
    simp [PBytes.clean, ← List.map_drop, ← List.map_take]
  rw [hl, hpart, if_neg Bool.false_ne_true]
  exact ite_self _

theorem Resting.writeKey {s : State} (h : Resting s) (a : Nat) (bs : List Byte) (keep : Bool) :
    Resting (s.writeKey a (.clean bs) keep) :=
  ⟨h.dirs, by simp [State.writeKey, h.poison, poisonAfter_clean], by simp [State.writeKey, h.upsets], h.wire,
    Memory.wf_memWrite _ _ h.canonical, h.txns, h.aged⟩

/-- A row of DRAM takes its bytes behind the bytes that the rows before it have taken. -/
theorem Written.writeRow {s t : State} {a : Nat} {bs : List Byte} (h : Written s t a bs) (ha : isDram (a + bs.length))
    (who : Nat) (row : List Byte) (whole first : Bool) :
    Written s (t.writeRow who (a + bs.length) (.clean row) whole first) a (bs ++ row) := by
  have hcounted : Traffic t (if first then t.count (bHome (homeOf (a + bs.length))) 0x140 1 else t) :=
    Traffic.ite _ ((Traffic.refl t).count (Traffic.bHome_outside ha) (by decide) _) (.refl t)
  have hrow : t.writeRow who (a + bs.length) (.clean row) whole first
      = ((if first then t.count (bHome (homeOf (a + bs.length))) 0x140 1 else t).writeKey (a + bs.length) (.clean row)
          (!whole)).memTraffic (a + bs.length) (PBytes.clean row).length true first := by
    have hput : ∀ u : State, Resting u → u.homePut (.unit who) (a + bs.length) (.clean row) (!whole)
        = u.writeKey (a + bs.length) (.clean row) (!whole) := fun u hu => by
      unfold State.homePut
      rcases ha with hr | hr <;> rw [hr] <;> dsimp only <;> rw [hu.mendLine, ite_self]
    unfold State.writeRow
    rw [placeOf_of_isDram ha]
    dsimp only
    unfold State.writeLine
    cases first
    · simp [h.resting.txns, hput t h.resting]
    · simp [h.resting.clearWay, h.resting.txns, h.resting.clearHolders, hput _ (h.resting.of_calm (calm_count ..))]
  rw [hrow]
  obtain ⟨hin, hout⟩ := h.bytes
  have hcount := h.traffic hcounted
  have hmem := hcounted.calm.2.2.2.2.2
  refine Written.traffic ⟨hcount.resting.writeKey .., ⟨fun k hk => ?_, fun k hk => ?_⟩, hcount.counts⟩
    ((Traffic.refl _).memTraffic ha ..)
  · rw [State.writeKey, get_memWrite, data_clean, hmem]
    rw [List.length_append] at hk
    by_cases hlt : k < bs.length
    · rw [if_neg (by omega), hin k hlt, List.getD_append _ _ _ _ hlt]
    · rw [if_pos (by omega), List.getD_append_right _ _ _ _ (by omega),
        show a + k - (a + bs.length) = k - bs.length by omega]
      rfl
  · rw [List.length_append] at hk
    rw [State.writeKey, get_memWrite, data_clean, hmem, if_neg (by omega)]
    exact hout k (by omega)

/-- A write to DRAM puts its bytes in place. -/
theorem writeRun_of_resting {s : State} (h : Resting s) {who a : Nat} {bs : List Byte} (hwho : coreOfCode who = none)
    (ha : inDram a bs.length) : Written s (s.writeRun who a (.clean bs)) a bs := by
  have hlen : (PBytes.clean bs).length = bs.length := by simp [PBytes.clean]
  unfold State.writeRun
  have hall := rowsOf_induction_pos (a := a) (n := (PBytes.clean bs).length)
    (step := fun (acc : State) (r : Nat × Nat × Bool) =>
      let base := r.1 / 128 * 128
      let (s1, got) := (acc.dataMoved who r.1 r.2.1 true).arrive (((PBytes.clean bs).drop (r.1 - a)).take r.2.1)
      s1.writeRow who r.1 got (decide (a ≤ base) && decide (base + 128 ≤ a + (PBytes.clean bs).length)) r.2.2)
    (P := fun m t => Written s t a (bs.take m)) (x := s)
    ⟨h, ⟨fun k hk => absurd hk (by simp), fun _ _ => rfl⟩, fun _ _ _ _ _ => rfl⟩ fun m t r ht hstart hpos hend => ?_
  · rw [hlen, List.take_length, ← hlen] at hall
    exact hall
  · have htake : (bs.take m).length = m := by rw [List.length_take]; omega
    have hdram : isDram (a + m) := isDram_of_inDram ha (by omega)
    have hmoved := ht.traffic ((Traffic.refl t).dataMoved hwho hdram r.2.1 true)
    have hgot : ((PBytes.clean bs).drop (a + m - a)).take r.2.1 = PBytes.clean ((bs.drop m).take r.2.1) := by
      rw [Nat.add_sub_cancel_left, PBytes.clean, ← List.map_drop, ← List.map_take]
      rfl
    dsimp only
    rw [hstart, hgot, hmoved.resting.arrive, List.take_add]
    have hrow := hmoved.writeRow (by rwa [htake]) who ((bs.drop m).take r.2.1)
    rw [htake] at hrow
    exact hrow ..

end Sys2Proof.Machine
end

section
/-! The parts of a sweep engine's move: its reads and writes of DRAM, its price, its events, and a shard that it leaves (R234,
R237, R246, R252). -/

namespace Sys2Proof.Machine

/-! ### What a move keeps -/

/-- From `s` to `t` the other engines, the tokens, the cores, the registers and module flash stay. -/
structure MoveFrame (i : Nat) (s t : State) : Prop where
  others : ∀ j, j ≠ i → t.sweep j = s.sweep j
  tokens : t.tokens = s.tokens
  cores : t.cores = s.cores
  regs : t.regs = s.regs
  flash : t.flash = s.flash

theorem FabricAccess.sweep_eq {s t : State} (h : FabricAccess s t) (j : Nat) : t.sweep j = s.sweep j := by
  rw [h.frame]
  rfl

namespace MoveFrame

variable {i : Nat} {s t u : State}

theorem refl (i : Nat) (s : State) : MoveFrame i s s := ⟨fun _ _ => rfl, rfl, rfl, rfl, rfl⟩

theorem trans (h : MoveFrame i s t) (k : MoveFrame i t u) : MoveFrame i s u :=
  ⟨fun j hj => (k.others j hj).trans (h.others j hj), k.tokens.trans h.tokens, k.cores.trans h.cores, k.regs.trans h.regs,
    k.flash.trans h.flash⟩

theorem ofAccess (h : FabricAccess s t) (hup : s.upsets = []) : MoveFrame i s t := by
  refine ⟨fun j _ => h.sweep_eq j, ?_, ?_, (h.clean hup).2, ?_⟩ <;> rw [h.frame]

theorem count (h : MoveFrame i s t) (n off k : Nat) : MoveFrame i s (t.count n off k) :=
  h.trans ⟨fun _ _ => rfl, rfl, rfl, rfl, rfl⟩

theorem setSweep (h : MoveFrame i s t) (z : Sweep) : MoveFrame i s (t.setSweep i z) :=
  h.trans ⟨fun j hj => sweep_setSweep_ne t i j z hj, rfl, rfl, rfl, rfl⟩

theorem record (h : MoveFrame i s t) (blk code unit arg0 arg1 : Nat) : MoveFrame i s (t.record blk code unit arg0 arg1) := by
  rw [record_eq]
  exact h.trans ⟨fun _ _ => rfl, rfl, rfl, rfl, rfl⟩

theorem recordOnce (h : MoveFrame i s t) (blk code sub unit arg0 arg1 : Nat) :
    MoveFrame i s (t.recordOnce blk code sub unit arg0 arg1) := by
  rw [recordOnce_eq]
  exact h.trans ⟨fun _ _ => rfl, rfl, rfl, rfl, rfl⟩

end MoveFrame

/-! ### Reads -/

theorem coreOfCode_sweepWho (i : Nat) : coreOfCode (sweepWho i) = none := by
  unfold coreOfCode sweepWho
  rw [if_neg (by omega)]

/-- From `s` to `t` engine `i` has read DRAM. -/
structure SweepReads (i : Nat) (s t : State) : Prop where
  access : FabricAccess s t
  calm : s.Calm t
  counts : ∀ off, off < 65536 → off ≠ 0x168 → t.counter (bSwp i) off = s.counter (bSwp i) off

namespace SweepReads

variable {i : Nat} {s t u : State}

theorem refl (i : Nat) (s : State) : SweepReads i s s := ⟨.refl s, .refl s, fun _ _ _ => rfl⟩

theorem trans (h : SweepReads i s t) (k : SweepReads i t u) : SweepReads i s u :=
  ⟨h.access.trans k.access, h.calm.trans k.calm, fun off hoff hne => (k.counts off hoff hne).trans (h.counts off hoff hne)⟩

theorem mem_eq (h : SweepReads i s t) : t.mem = s.mem := h.calm.2.2.2.2.2

theorem sweep_eq (h : SweepReads i s t) (j : Nat) : t.sweep j = s.sweep j := h.access.sweep_eq j

theorem energy_eq (h : SweepReads i s t) : t.energy = s.energy := by rw [h.access.frame]

theorem bytesAt_eq (h : SweepReads i s t) (a n : Nat) : bytesAt t a n = bytesAt s a n := bytesAt_of_calm h.calm a n

theorem resting (h : SweepReads i s t) (hs : Resting s) : Resting t := hs.of_calm h.calm

theorem frame (h : SweepReads i s t) (hs : Resting s) : MoveFrame i s t := .ofAccess h.access hs.upsets

theorem stepNo_eq (h : SweepReads i s t) (hs : Resting s) : t.sweepStepNo i = s.sweepStepNo i := by
  unfold State.sweepStepNo State.fld State.reg
  rw [(h.frame hs).regs]

end SweepReads

theorem bSwp_range {i : Nat} (hi : i < 16) : 0xCA0 ≤ bSwp i ∧ bSwp i < 0xCB0 := by
  unfold bSwp
  omega

/-- A read of DRAM by a sweep engine gives what stands there. -/
theorem sweepRead_of_resting {s : State} {i a n : Nat} (hs : Resting s) (hi : i < 16) (ha : inDram a n) :
    ∃ t, s.sweepRead i a n = (t, PBytes.clean (bytesAt s a n)) ∧ SweepReads i s t := by
  obtain ⟨hbytes, htraffic⟩ := readRun_of_resting hs (coreOfCode_sweepWho i) ha
  have haccess := (FabricAccess.refl s).readRun (sweepWho i) a n
  have hrange := bSwp_range hi
  refine ⟨_, Prod.ext rfl hbytes, ?_⟩
  have hread : SweepReads i s (s.readRun (sweepWho i) a n).1 :=
    ⟨haccess, htraffic.calm, fun off hoff _ => htraffic.counts _ _ hrange.1 hrange.2 hoff⟩
  unfold State.sweepRead
  dsimp only
  split
  · exact hread.trans ⟨(FabricAccess.refl _).count .., calm_count .., fun off hoff hne =>
      counter_count_of_ne _ _ _ _ (by decide) hoff hne⟩
  · exact hread

/-! ### Writes -/

/-- From `s` to `t` engine `i` has written the bytes `bs` to DRAM at `a`. -/
structure SweepWrites (i : Nat) (s t : State) (a : Nat) (bs : List Byte) : Prop where
  access : FabricAccess s t
  resting : Resting t
  bytes : OnlyBytes s t a bs
  counts : ∀ off, off < 65536 → off ≠ 0x170 → t.counter (bSwp i) off = s.counter (bSwp i) off

theorem sweepWrite_of_resting {s : State} {i a : Nat} {bs : List Byte} (hs : Resting s) (hi : i < 16)
    (ha : inDram a bs.length) : SweepWrites i s (s.sweepWrite i a bs) a bs := by
  have hwrite := writeRun_of_resting hs (coreOfCode_sweepWho i) ha
  have haccess := (FabricAccess.refl s).writeRun (sweepWho i) a (.clean bs)
  have hrange := bSwp_range hi
  have hcounts := fun off hoff => hwrite.counts (bSwp i) off hrange.1 hrange.2 hoff
  unfold State.sweepWrite
  dsimp only
  split
  · exact ⟨haccess.count .., hwrite.resting.of_calm (calm_count ..), hwrite.bytes, fun off hoff hne =>
      (counter_count_of_ne _ _ _ _ (by decide) hoff hne).trans (hcounts off hoff)⟩
  · exact ⟨haccess, hwrite.resting, hwrite.bytes, fun off hoff _ => hcounts off hoff⟩

/-! ### Price (R214, R216) -/

/-- What n elements cost engine `i`. -/
def sweepWork (i n : Nat) : Work := [(11, aTile (i / 4), n)]

theorem price_of_energy {s t : State} (h : t.energy = s.energy) (w : Work) : t.price w = s.price w := by
  simp only [State.price, State.unitPrice, State.scaleAt, State.account, h]

theorem covered_of_energy {s t : State} (h : t.energy = s.energy) (agent price : Nat) :
    t.covered agent price = s.covered agent price := by
  unfold State.covered State.agentUse
  rw [h]

/-- The price of n elements is covered. -/
def State.sweepPaid (s : State) (i n : Nat) : Bool := s.covered (pSweep i) (s.price (sweepWork i n))

/-- After its reads an engine pays for what it could pay for before them. -/
theorem sweepPay_eq {i : Nat} {s t : State} (h : SweepReads i s t) (n : Nat) :
    t.sweepPay i n = if s.sweepPaid i n = true then some (t.charge (pSweep i) (sweepWork i n)) else none := by
  unfold State.sweepPay State.tryCharge State.sweepPaid
  rw [← sweepWork, price_of_energy h.energy_eq, covered_of_energy h.energy_eq]

/-- A charge changes the planner's accounts and counters. -/
theorem charge_eq (s : State) (agent : Nat) (w : Work) :
    s.charge agent w = { s with energy := (s.charge agent w).energy, counters := (s.charge agent w).counters } := by
  unfold State.charge
  dsimp only
  refine List.foldlRecOn (motive := fun t : State => t = { s with energy := t.energy, counters := t.counters }) w _ ?_
    fun t ht x _ => ?_
  · split_ifs <;> rfl
  · rw [ht]
    rfl

theorem counter_charge (s : State) (agent : Nat) (w : Work) {n off : Nat} (hn : n < bNrg) (hoff : off < 65536) :
    (s.charge agent w).counter n off = s.counter n off := by
  have hcount : ∀ (t : State) (o k : Nat), (t.count bNrg o k).counter n off = t.counter n off := fun t o k =>
    Map.get_put_ne _ _ _ _ _ (regKey_ne hn hoff)
  unfold State.charge
  dsimp only
  refine List.foldlRecOn (motive := fun t : State => t.counter n off = s.counter n off) w _ ?_ fun t ht x _ => ht
  split_ifs <;> repeat rw [hcount]
  all_goals rfl

/-- What `u`, a charged state, keeps of the state before. -/
theorem MoveFrame.charge {i : Nat} {s t : State} (h : MoveFrame i s t) (agent : Nat) (w : Work) :
    MoveFrame i s (t.charge agent w) := by
  rw [charge_eq]
  exact h.trans ⟨fun _ _ => rfl, rfl, rfl, rfl, rfl⟩

theorem Resting.charge {s : State} (h : Resting s) (agent : Nat) (w : Work) : Resting (s.charge agent w) := by
  rw [charge_eq]
  exact h.of_calm ⟨rfl, rfl, rfl, rfl, rfl, rfl⟩

theorem sweepHold_eq (s : State) (i n : Nat) : s.sweepHold i n = { s with energy := (s.sweepHold i n).energy } := rfl

/-! ### Numeric events (R246) -/

theorem sweepEvents_eq (s : State) (i shard : Nat) (f : Flags) :
    s.sweepEvents i shard f
      = { s.setSweep i { s.sweep i with flags := Flags.or (s.sweep i).flags f } with
          counters := (s.sweepEvents i shard f).counters, sheets := (s.sweepEvents i shard f).sheets
          once := (s.sweepEvents i shard f).once } := by
  have hone : ∀ (t : State) (bit : Nat) (set : Bool),
      (if set then t.recordOnce (bSwp i) 0x0010 bit i bit shard else t)
        = { t with
            counters := (if set then t.recordOnce (bSwp i) 0x0010 bit i bit shard else t).counters
            sheets := (if set then t.recordOnce (bSwp i) 0x0010 bit i bit shard else t).sheets
            once := (if set then t.recordOnce (bSwp i) 0x0010 bit i bit shard else t).once } := fun t bit set => by
    cases set
    · rfl
    · exact recordOnce_eq ..
  unfold State.sweepEvents
  dsimp only
  rw [hone (if f.overflow = true then _ else _), hone (if f.invalid = true then _ else _), hone (s.setSweep i _)]

theorem counter_sweepEvents (s : State) (i shard : Nat) (f : Flags) (n : Nat) {off : Nat} (hoff : off < 65536)
    (hne : off ≠ 0x188) : (s.sweepEvents i shard f).counter n off = s.counter n off := by
  have hone : ∀ (t : State) (bit : Nat) (set : Bool),
      (if set then t.recordOnce (bSwp i) 0x0010 bit i bit shard else t).counter n off = t.counter n off :=
    fun t bit set => by
      cases set
      · rfl
      · exact counter_recordOnce_of_ne _ _ _ _ _ _ _ _ hoff hne
  unfold State.sweepEvents
  dsimp only
  rw [hone, hone, hone]
  rfl

theorem MoveFrame.sweepEvents {i : Nat} {s t : State} (h : MoveFrame i s t) (shard : Nat) (f : Flags) :
    MoveFrame i s (t.sweepEvents i shard f) := by
  rw [sweepEvents_eq]
  exact (h.setSweep _).trans ⟨fun _ _ => rfl, rfl, rfl, rfl, rfl⟩

theorem sweep_sweepEvents (s : State) (i shard : Nat) (f : Flags) :
    (s.sweepEvents i shard f).sweep i = { s.sweep i with flags := Flags.or (s.sweep i).flags f } := by
  rw [sweepEvents_eq]
  exact sweep_setSweep_same ..

theorem mem_sweepEvents (s : State) (i shard : Nat) (f : Flags) : (s.sweepEvents i shard f).mem = s.mem := by
  rw [sweepEvents_eq]
  rfl

/-! ### Leaving a shard (R237) -/

/-- An engine that has left its shard with a fault. -/
def Sweep.left (y : Sweep) (code : Nat) (stage : SweepStage) : Sweep :=
  let z := if y.faulted.contains y.shard then y else
    { y with
      shardFault := true, faulted := setAdd y.faulted y.shard
      faultShard := if y.shardFault then y.faultShard else y.shard
      faultCode := if y.shardFault then y.faultCode else BitVec.ofNat 4 code }
  { z with shard := y.shard + 1, stage := stage, scaleWait := false, waitLong := false }

theorem sweep_leaveShard (s : State) (i code : Nat) (stage : SweepStage) :
    (s.leaveShard i code stage).sweep i = (s.sweep i).left code stage := by
  unfold State.leaveShard State.shardFault Sweep.left
  dsimp only
  rw [sweep_setSweep_same]
  split_ifs
  · rfl
  all_goals
    rw [record_eq]
    simp only [State.sweep, State.setSweep, State.count, Map.get_put_same]

theorem MoveFrame.leaveShard {i : Nat} {s t : State} (h : MoveFrame i s t) (code : Nat) (stage : SweepStage) :
    MoveFrame i s (t.leaveShard i code stage) := by
  unfold State.leaveShard State.shardFault
  dsimp only
  refine MoveFrame.setSweep ?_ _
  split
  · exact h
  · exact ((h.setSweep _).count ..).record ..

theorem mem_leaveShard (s : State) (i code : Nat) (stage : SweepStage) : (s.leaveShard i code stage).mem = s.mem := by
  unfold State.leaveShard State.shardFault
  dsimp only
  split
  · rfl
  · rw [record_eq]
    rfl

/-- A shard that had not faulted before is counted. -/
theorem counter_leaveShard {s : State} {i : Nat} (h : (s.sweep i).faulted.contains (s.sweep i).shard = false) (code : Nat)
    (stage : SweepStage) : (s.leaveShard i code stage).counter (bSwp i) 0x180 = s.counter (bSwp i) 0x180 + 1 := by
  unfold State.leaveShard State.shardFault
  dsimp only
  rw [if_neg (by rw [h]; exact Bool.false_ne_true)]
  exact (counter_record_of_ne _ _ _ _ _ _ _ (by decide) (by decide)).trans (counter_count ..)

/-! ### What stands in the way of a move (R326, R400) -/

theorem hostWaits_of_inDram {a n : Nat} (h : inDram a n) (s : State) : s.hostWaits a n = false := by
  have hend : hbmEnd < lpxEnd ∧ lpxEnd < hostBase := by decide
  unfold inDram inRegion Region.range at h
  simp only [Bool.and_eq_true, decide_eq_true_eq] at h
  have hbelow : a + n - 1 < hostBase := by omega
  simp [State.hostWaits, Nat.not_le.2 hbelow]

theorem hostFull_of_le {a : Nat} (h : a ≤ lpxEnd) (s : State) : s.hostFull a 128 = false := by
  have hbelow : a + 128 - 1 < hostBase := by
    have : lpxEnd + 128 < hostBase := by decide
    omega
  unfold State.hostFull
  rw [decide_eq_false (Nat.not_le.2 hbelow)]
  simp

theorem le_of_inDram {a n : Nat} (h : inDram a n) : a ≤ lpxEnd := by
  have hend : hbmEnd < lpxEnd := by decide
  unfold inDram inRegion Region.range at h
  simp only [Bool.and_eq_true, decide_eq_true_eq] at h
  omega

/-- Engine `i` can make its next move at once. -/
structure SweepReady (s : State) (i : Nat) : Prop where
  waits : (s.sweep i).scaleWait = false
  full : s.sweepFull i = false
  needs : ∀ r ∈ s.sweepNeeds i, inDram r.1 r.2

theorem SweepReady.stalls {s : State} {i : Nat} (h : SweepReady s i) : s.sweepStalls i = false := by
  unfold State.sweepStalls
  rw [List.any_eq_false]
  exact fun r hr => by rw [hostWaits_of_inDram (h.needs r hr)]; exact Bool.false_ne_true

/-- What a stage's outcome makes of the state. -/
def SweepMove.after (m : SweepMove) (s : State) (i : Nat) : Option State :=
  match m with
  | .stay s1 => if s1 = s then none else some s1
  | .fault code s1 => some (s1.leaveShard i code .check)
  | .go s1 => some s1

section
variable {s : State} {i : Nat} (h : SweepReady s i)
include h

theorem SweepReady.commits (hstage : (s.sweep i).stage = .commits) : s.sweepMove i = some (s.commitStep i) := by
  simp [State.sweepMove, h.waits, h.full, h.stalls, hstage]

theorem SweepReady.check (hstage : (s.sweep i).stage = .check) : s.sweepMove i = some (s.checkStep i) := by
  simp [State.sweepMove, h.waits, h.full, h.stalls, hstage]

theorem SweepReady.moment {l : Nat} (hstage : (s.sweep i).stage = .moment l) :
    s.sweepMove i = (s.momentStep i (s.sweep i).shardNow l).after s i := by
  simp only [State.sweepMove, h.waits, h.full, h.stalls, hstage]
  rfl

theorem SweepReady.weight {l : Nat} (hstage : (s.sweep i).stage = .weight l) :
    s.sweepMove i = (s.weightStep i (s.sweep i).shardNow l).after s i := by
  simp only [State.sweepMove, h.waits, h.full, h.stalls, hstage]
  rfl

theorem SweepReady.scaleWait (hstage : (s.sweep i).stage = .scaleWait) :
    s.sweepMove i = (s.enterWorking i (s.sweep i).shardNow).after s i := by
  simp only [State.sweepMove, h.waits, h.full, h.stalls, hstage]
  rfl

theorem SweepReady.working {c : Nat} (hstage : (s.sweep i).stage = .working c) :
    s.sweepMove i = (s.workingStep i (s.sweep i).shardNow c).after s i := by
  simp only [State.sweepMove, h.waits, h.full, h.stalls, hstage]
  rfl

theorem SweepReady.finish (hstage : (s.sweep i).stage = .finish) :
    s.sweepMove i = (s.finishShard i (s.sweep i).shardNow).after s i := by
  simp only [State.sweepMove, h.waits, h.full, h.stalls, hstage]
  rfl

end

/-! ### SWEEP_RUN by one move -/

/-- A granted move of engine `engine` leaves it as `z`, keeps the rest of the device (`MoveFrame`) and leaves what `p` says. -/
def SweepMoved (s : State) (engine : Ix16) (z : Sweep) (p : State → Prop) : Prop :=
  ∃ t, exec (.sweepRun engine 1) s = .next t ∧ t.sweep engine = z ∧ (∀ j, j ≠ (engine : Nat) → t.sweep j = s.sweep j)
    ∧ t.tokens = s.tokens ∧ t.cores = s.cores ∧ t.regs = s.regs ∧ t.flash = s.flash ∧ p t

theorem exec_sweepRun_one {s : State} {engine : Ix16} (hactive : s.sweepActive engine = true) :
    exec (.sweepRun engine 1) s = .next ((s.sweepMove engine).getD s) := by
  refine (if_pos hactive).trans ?_
  unfold State.sweepMoves
  cases s.sweepMove engine <;> rfl

theorem sweepMoved_of_move {s t : State} {engine : Ix16} {z : Sweep} {p : State → Prop} (hactive : s.sweepActive engine = true)
    (hmove : s.sweepMove engine = some t) (hz : t.sweep engine = z) (hframe : MoveFrame engine s t) (hp : p t) :
    SweepMoved s engine z p := by
  refine ⟨t, ?_, hz, hframe.others, hframe.tokens, hframe.cores, hframe.regs, hframe.flash, hp⟩
  rw [exec_sweepRun_one hactive, hmove]
  rfl

/-- A shard is left with a fault after the reads `t`. -/
theorem sweepMoved_of_leave {s t : State} {engine : Ix16} {code : Nat} {stage : SweepStage} (hactive : s.sweepActive engine = true)
    (hs : Resting s) (ht : SweepReads engine s t) (hmove : s.sweepMove engine = some (t.leaveShard engine code stage)) :
    SweepMoved s engine ((s.sweep engine).left code stage) fun u => u.mem = s.mem :=
  sweepMoved_of_move hactive hmove (by rw [sweep_leaveShard, ht.sweep_eq]) ((ht.frame hs).leaveShard ..)
    (by rw [mem_leaveShard, ht.mem_eq])

/-- A move that only reads, and sets the engine. -/
theorem sweepMoved_of_set {s t : State} {engine : Ix16} {z : Sweep} (hactive : s.sweepActive engine = true) (hs : Resting s)
    (ht : SweepReads engine s t) (hmove : s.sweepMove engine = some (t.setSweep engine z)) :
    SweepMoved s engine z fun u => u.mem = s.mem :=
  sweepMoved_of_move hactive hmove (sweep_setSweep_same ..) ((ht.frame hs).setSweep _) ht.mem_eq

end Sys2Proof.Machine
end

section
/-! Elements of a shard's lines of state: what a sweep engine has of them once it has read the lines that hold them (R225, R226,
R249). -/

namespace Sys2Proof.Machine

theorem fieldLe_bytesAt {s : State} (h : Memory.wf s.mem = true) (a : Nat) {off k n : Nat} (hn : off + k ≤ n) :
    fieldLe (bytesAt s a n) off k = leNat (bytesAt s (a + off) k) := by
  rw [fieldLe, bytesAt_part h a hn]

/-- The value that a list of pairs gives for a key of it. -/
theorem get_map_pair {α : Type} (ks : List Nat) (f : Nat → α) {j : Nat} (hj : j ∈ ks) (d : α) :
    Map.get (ks.map fun k => (k, f k)) j d = f j := by
  unfold Map.get
  induction ks with
  | nil => cases hj
  | cons k ks ih =>
    rw [List.map_cons, Map.find_cons]
    split
    · next h => rw [h]; rfl
    · next h => exact ih ((List.mem_cons.1 hj).resolve_left h)

/-! ### Lines -/

theorem mem_linesOver {per lo hi k : Nat} : k ∈ linesOver per lo hi ↔ lo / per ≤ k ∧ k < ceilDiv hi per := by
  unfold linesOver
  rw [List.mem_map]
  constructor
  · rintro ⟨j, hj, rfl⟩
    have := List.mem_range.1 hj
    omega
  · exact fun h => ⟨k - lo / per, List.mem_range.2 (by omega), by omega⟩

theorem ceilDiv_mono {a b : Nat} (h : a ≤ b) (per : Nat) : ceilDiv a per ≤ ceilDiv b per :=
  Nat.div_le_div_right (by omega)

theorem div_lt_ceilDiv {e hi per : Nat} (hper : 0 < per) (he : e < hi) : e / per < ceilDiv hi per := by
  unfold ceilDiv
  have hstep : (e + per) / per = e / per + 1 := Nat.add_div_right e hper
  have hmono : (e + per) / per ≤ (hi + per - 1) / per := Nat.div_le_div_right (by omega)
  omega

/-- The line of an element is among the lines that hold its run. -/
theorem div_mem_linesOver {per lo hi e : Nat} (hper : 0 < per) (hlo : lo ≤ e) (hhi : e < hi) : e / per ∈ linesOver per lo hi :=
  mem_linesOver.2 ⟨Nat.div_le_div_right hlo, div_lt_ceilDiv hper hhi⟩

theorem inDram_line {a lines k : Nat} (h : inDram a (128 * lines)) (hk : k < lines) : inDram (a + 128 * k) 128 :=
  inDram_part h (by omega)

/-- Lines as they stand, each with its number. -/
def State.standingLines (s : State) (base : Nat) (ks : List Nat) : Map PBytes :=
  ks.map fun k => (k, PBytes.clean (bytesAt s (base + 128 * k) 128))

/-- An engine has the lines that hold a run of elements as they stand. -/
theorem sweepLines_of_resting {s : State} {i base per lo hi : Nat} (hs : Resting s) (hi16 : i < 16)
    (hlines : ∀ k ∈ linesOver per lo hi, inDram (base + 128 * k) 128) :
    ∃ t, s.sweepLines i base per lo hi = (t, s.standingLines base (linesOver per lo hi)) ∧ SweepReads i s t := by
  unfold State.sweepLines State.standingLines
  revert hlines
  induction linesOver per lo hi using List.reverseRecOn with
  | nil => exact fun _ => ⟨s, rfl, .refl i s⟩
  | append_singleton ks k ih =>
    intro hlines
    obtain ⟨t, ht, hreads⟩ := ih fun j hj => hlines j (List.mem_append_left _ hj)
    have hdram := hlines k (List.mem_append_right _ (List.mem_singleton_self k))
    have hrest := hreads.resting hs
    rw [List.foldl_append, ht]
    simp only [List.foldl_cons, List.foldl_nil, List.map_append, List.map_cons, List.map_nil]
    split
    · refine ⟨t, ?_, hreads⟩
      rw [peek_of_resting hrest hdram, hreads.bytesAt_eq]
    · obtain ⟨u, hu, hmore⟩ := sweepRead_of_resting hrest hi16 hdram
      refine ⟨u, ?_, hreads.trans hmore⟩
      rw [hu, hreads.bytesAt_eq]

/-! ### Elements -/

theorem elemsIn_standingLines {s : State} (hwf : Memory.wf s.mem = true) {base per size lo hi : Nat} {ks : List Nat}
    (hper : 0 < per) (hsize : 8 + size * per ≤ 128) (hks : ∀ e, lo ≤ e → e < hi → e / per ∈ ks) :
    elemsIn (s.standingLines base ks) per size lo hi
      = some ((List.range (hi - lo)).map fun k => packed s base per size (lo + k)) := by
  have helem : ∀ k ∈ List.range (hi - lo),
      ((Map.get (s.standingLines base ks) ((lo + k) / per) []).drop (8 + size * ((lo + k) % per))).take size
        = PBytes.clean (packed s base per size (lo + k)) := fun k hk => by
    have hk' := List.mem_range.1 hk
    have hin : size * ((lo + k) % per) + size ≤ size * per := by
      rw [← Nat.mul_succ]
      exact Nat.mul_le_mul_left _ (Nat.mod_lt _ hper)
    rw [State.standingLines, get_map_pair _ _ (hks _ (by omega) (by omega)), PBytes.clean, ← List.map_drop, ← List.map_take,
      bytesAt_part hwf _ (by omega), packed,
      Nat.add_assoc (base + 128 * ((lo + k) / per)) 8]
    rfl
  unfold elemsIn
  dsimp only
  rw [List.map_congr_left helem, if_neg]
  · simp [Function.comp_def]
  · have hlen : ∀ bs, (PBytes.clean bs).length = bs.length := fun _ => List.length_map _
    simp [packed, length_bytesAt, hlen]

/-- Master weights lo to lo + n − 1 of a shard as they stand (R226). -/
def State.weightsAt (s : State) (x : Shard) (lo n : Nat) : List Nat :=
  (List.range n).map fun k => leNat (packed s x.master 40 3 (lo + k))

/-- Moments lo to lo + n − 1 of a shard as they stand, in pairs (R225). -/
def State.momentsAt (s : State) (x : Shard) (lo n : Nat) : List Nat :=
  (List.range n).flatMap fun k => let b := packed s x.moment 30 4 (lo + k); [fieldLe b 0 2, fieldLe b 2 2]

theorem mastersIn_standingLines {s : State} (hwf : Memory.wf s.mem = true) (x : Shard) {lo hi : Nat} {ks : List Nat}
    (hks : ∀ e, lo ≤ e → e < hi → e / 40 ∈ ks) :
    mastersIn (s.standingLines x.master ks) lo hi = some (s.weightsAt x lo (hi - lo)) := by
  rw [mastersIn, elemsIn_standingLines hwf (by decide) (by decide) hks]
  simp [State.weightsAt, Function.comp_def]

theorem momentsIn_standingLines {s : State} (hwf : Memory.wf s.mem = true) (x : Shard) {lo hi : Nat} {ks : List Nat}
    (hks : ∀ e, lo ≤ e → e < hi → e / 30 ∈ ks) :
    momentsIn (s.standingLines x.moment ks) lo hi = some (s.momentsAt x lo (hi - lo)) := by
  rw [momentsIn, elemsIn_standingLines hwf (by decide) (by decide) hks, Option.map_some, List.flatMap_map]
  rfl

/-! ### Elements of a line that the engine has read -/

theorem weightsAt_line {s : State} (hwf : Memory.wf s.mem = true) (x : Shard) (l : Nat) {n : Nat} (hn : n ≤ 40) :
    (List.range n).map (fun k => fieldLe (bytesAt s (x.master + 128 * l) 128) (8 + 3 * k) 3) = s.weightsAt x (40 * l) n := by
  refine List.map_congr_left fun k hk => ?_
  have hk' := List.mem_range.1 hk
  rw [fieldLe_bytesAt hwf _ (by omega), packed, show (40 * l + k) / 40 = l by omega, show (40 * l + k) % 40 = k by omega,
    Nat.add_assoc (x.master + 128 * l) 8]

theorem range_two_mul_map {α : Type} (f : Nat → α) (n : Nat) :
    (List.range (2 * n)).map f = (List.range n).flatMap fun k => [f (2 * k), f (2 * k + 1)] := by
  induction n with
  | zero => rfl
  | succ n ih =>
    rw [show 2 * (n + 1) = 2 * n + 1 + 1 by omega, List.range_succ, List.range_succ, List.map_append, List.map_append, ih,
      List.range_succ, List.flatMap_append]
    simp

theorem momentsAt_line {s : State} (hwf : Memory.wf s.mem = true) (x : Shard) (l : Nat) {n : Nat} (hn : n ≤ 30) :
    (List.range (2 * n)).map (fun k => fieldLe (bytesAt s (x.moment + 128 * l) 128) (8 + 2 * k) 2) = s.momentsAt x (30 * l) n := by
  rw [range_two_mul_map, State.momentsAt]
  refine List.flatMap_congr fun k hk => ?_
  have hk' := List.mem_range.1 hk
  have hline : (30 * l + k) / 30 = l ∧ (30 * l + k) % 30 = k := by omega
  dsimp only
  rw [packed, hline.1, hline.2, fieldLe_bytesAt hwf _ (by omega), fieldLe_bytesAt hwf _ (by omega),
    fieldLe_bytesAt hwf _ (by omega), fieldLe_bytesAt hwf _ (by omega)]
  rw [show x.moment + 128 * l + (8 + 2 * (2 * k)) = x.moment + 128 * l + 8 + 4 * k + 0 by omega,
    show x.moment + 128 * l + (8 + 2 * (2 * k + 1)) = x.moment + 128 * l + 8 + 4 * k + 2 by omega]

/-- Gradients lo to lo + n − 1 of a shard as they stand. -/
def State.gradsAt (s : State) (x : Shard) (lo n : Nat) : List Nat :=
  (List.range n).map fun k => leNat (bytesAt s (x.grad + 2 * (lo + k)) 2)

theorem gradsAt_run {s : State} (hwf : Memory.wf s.mem = true) (x : Shard) (l n : Nat) :
    (List.range n).map (fun k => fieldLe (bytesAt s (x.grad + 60 * l) (2 * n)) (2 * k) 2) = s.gradsAt x (30 * l) n := by
  refine List.map_congr_left fun k hk => ?_
  have hk' := List.mem_range.1 hk
  rw [fieldLe_bytesAt hwf _ (by omega), show x.grad + 60 * l + 2 * k = x.grad + 2 * (30 * l + k) by omega]

theorem length_fitBytes (bs : List Byte) (n : Nat) : (fitBytes bs n).length = n := by
  simp [fitBytes]

end Sys2Proof.Machine
end

section
/-! The stages of a sweep run that go line by line: moments, weights and the working copy (R233, R234, R243). -/

namespace Sys2Proof.Machine

/-! ### Outcomes -/

theorem SweepReads.standingLines_eq {i : Nat} {s t : State} (h : SweepReads i s t) (base : Nat) (ks : List Nat) :
    t.standingLines base ks = s.standingLines base ks := by
  simp only [State.standingLines, h.bytesAt_eq]

/-- From `s` to `t` a counter of engine `i` has counted k. -/
def SweepCounted (s : State) (i off k : Nat) (t : State) : Prop :=
  t.counter (bSwp i) off = s.counter (bSwp i) off + BitVec.ofNat 64 k

/-- From `s` to `t` engine `i` has read, paid and written: the engine itself stays, and its counters but for those of LPDDR5X. -/
structure SweepWork (i : Nat) (s t : State) : Prop where
  sweep : t.sweep i = s.sweep i
  frame : MoveFrame i s t
  resting : Resting t
  counts : ∀ off, off < 65536 → off ≠ 0x168 → off ≠ 0x170 → t.counter (bSwp i) off = s.counter (bSwp i) off

namespace SweepWork

variable {i : Nat} {s t : State}

theorem ofReads (ht : SweepReads i s t) (hs : Resting s) : SweepWork i s t :=
  ⟨ht.sweep_eq i, ht.frame hs, ht.resting hs, fun off hoff hne _ => ht.counts off hoff hne⟩

theorem charge (h : SweepWork i s t) (hi : i < 16) (agent : Nat) (w : Work) : SweepWork i s (t.charge agent w) := by
  have hbelow : bSwp i < bNrg := Nat.lt_trans (bSwp_range hi).2 (by decide)
  refine ⟨?_, h.frame.charge .., h.resting.charge .., fun off hoff h1 h2 =>
    (counter_charge _ _ _ hbelow hoff).trans (h.counts off hoff h1 h2)⟩
  rw [charge_eq]
  exact h.sweep

/-- Bytes are written over memory as it stood before the write. -/
theorem write (h : SweepWork i s t) (hi : i < 16) {a : Nat} {bs : List Byte} (ha : inDram a bs.length) :
    SweepWork i s (t.sweepWrite i a bs) ∧ OnlyBytes t (t.sweepWrite i a bs) a bs := by
  have hwrite := sweepWrite_of_resting h.resting hi ha
  exact ⟨⟨(hwrite.access.sweep_eq i).trans h.sweep, h.frame.trans (.ofAccess hwrite.access h.resting.upsets), hwrite.resting,
    fun off hoff h1 h2 => (hwrite.counts off hoff h2).trans (h.counts off hoff h1 h2)⟩, hwrite.bytes⟩

end SweepWork

theorem onlyBytes_of_mem {s t u : State} {a : Nat} {bs : List Byte} (h : OnlyBytes s t a bs) (hmem : u.mem = t.mem) :
    OnlyBytes s u a bs := by
  unfold OnlyBytes
  rw [hmem]
  exact h

/-- Engine `i` has paid for the bytes `bs` and written them at `a`. -/
structure SweepPut (i : Nat) (s t : State) (a : Nat) (bs : List Byte) : Prop where
  work : SweepWork i s t
  bytes : OnlyBytes s t a bs

/-- What is paid for after reading is written over memory as it stood. -/
theorem sweepPut_charge {s t : State} {i a : Nat} {bs : List Byte} (hs : Resting s) (hi : i < 16) (ht : SweepReads i s t)
    (ha : inDram a bs.length) (w : Work) : SweepPut i s ((t.charge (pSweep i) w).sweepWrite i a bs) a bs := by
  obtain ⟨hwork, hbytes⟩ := ((SweepWork.ofReads ht hs).charge hi (pSweep i) w).write hi ha
  have hmem : (t.charge (pSweep i) w).mem = s.mem := by
    rw [charge_eq]
    exact ht.mem_eq
  refine ⟨hwork, ?_⟩
  unfold OnlyBytes at hbytes ⊢
  rwa [hmem] at hbytes

/-- Flag events join the shard's and the engine's flags as the engine goes on to its next stage (R234, R246). -/
def State.joinFlags (s : State) (i : Nat) (fl : Flags) (next : SweepStage) : State :=
  (s.setSweep i { s.sweep i with shardFlags := Flags.or (s.sweep i).shardFlags fl, stage := next }).sweepEvents i
    (s.sweep i).shard fl

theorem sweep_joinFlags (s : State) (i : Nat) (fl : Flags) (next : SweepStage) :
    (s.joinFlags i fl next).sweep i = { s.sweep i with
      shardFlags := Flags.or (s.sweep i).shardFlags fl, flags := Flags.or (s.sweep i).flags fl, stage := next } := by
  rw [State.joinFlags, sweep_sweepEvents, sweep_setSweep_same]

theorem mem_joinFlags (s : State) (i : Nat) (fl : Flags) (next : SweepStage) : (s.joinFlags i fl next).mem = s.mem :=
  mem_sweepEvents ..

theorem counter_joinFlags (s : State) (i : Nat) (fl : Flags) (next : SweepStage) (n : Nat) {off : Nat} (hoff : off < 65536)
    (hne : off ≠ 0x188) : (s.joinFlags i fl next).counter n off = s.counter n off :=
  (counter_sweepEvents _ _ _ _ _ hoff hne).trans rfl

theorem MoveFrame.joinFlags {i : Nat} {s t : State} (h : MoveFrame i s t) (fl : Flags) (next : SweepStage) :
    MoveFrame i s (t.joinFlags i fl next) := (h.setSweep _).sweepEvents ..

/-- A move that cannot pay leaves nothing but its held price. -/
def SweepHeld (s : State) (engine : Ix16) : Prop :=
  ∃ t, exec (.sweepRun engine 1) s = .next t ∧ t = { s with energy := t.energy }

section
variable {s t : State} {engine : Ix16} (hactive : s.sweepActive engine = true)
include hactive

theorem sweepHeld_of_stay {n : Nat} (hmove : s.sweepMove engine = (SweepMove.stay (s.sweepHold engine n)).after s engine) :
    SweepHeld s engine := by
  refine ⟨_, exec_sweepRun_one hactive, ?_⟩
  rw [hmove]
  unfold SweepMove.after
  dsimp only
  split
  · rfl
  · exact sweepHold_eq ..

/-- A line that the run has written before joins its flags to the shard's. -/
theorem sweepMoved_of_skip (hs : Resting s) (ht : SweepReads engine s t) {old : List Byte} {next : SweepStage}
    (hmove : s.sweepMove engine = some (t.skipLine engine (.clean old) next)) :
    SweepMoved s engine
      { s.sweep engine with
        shardFlags := Flags.or (s.sweep engine).shardFlags (flagsOfByte (fieldLe old 4 1)), stage := next }
      fun u => u.mem = s.mem ∧ SweepCounted s engine 0x148 1 u := by
  refine sweepMoved_of_move hactive hmove ?_ (((ht.frame hs).setSweep _).count ..) ⟨ht.mem_eq, ?_⟩
  · simp only [State.skipLine, State.count_sweep_eq, sweep_setSweep_same, ht.sweep_eq, data_clean]
  · exact (counter_count ..).trans (congrArg (· + _) (ht.counts 0x148 (by decide) (by decide)))

/-- A new line is written with its flags, and its elements are counted. -/
theorem sweepMoved_of_line {v : State} {a n : Nat} {bs : List Byte} {fl : Flags} {next : SweepStage}
    (hput : SweepPut engine s v a bs)
    (hmove : s.sweepMove engine = some ((v.count (bSwp engine) 0x140 n).joinFlags engine fl next)) :
    SweepMoved s engine
      { s.sweep engine with
        shardFlags := Flags.or (s.sweep engine).shardFlags fl, flags := Flags.or (s.sweep engine).flags fl, stage := next }
      fun u => OnlyBytes s u a bs ∧ SweepCounted s engine 0x140 n u := by
  refine sweepMoved_of_move hactive hmove ?_ ((hput.work.frame.count ..).joinFlags ..)
    ⟨onlyBytes_of_mem hput.bytes (mem_joinFlags ..), ?_⟩
  · rw [sweep_joinFlags, State.count_sweep_eq, hput.work.sweep]
  · rw [SweepCounted, counter_joinFlags _ _ _ _ _ (by decide) (by decide), counter_count,
      hput.work.counts 0x140 (by decide) (by decide) (by decide)]

/-- A part of the working copy is written with its flags. -/
theorem sweepMoved_of_part {v : State} {a : Nat} {bs : List Byte} {fl : Flags} {next : SweepStage}
    (hput : SweepPut engine s v a bs) (hmove : s.sweepMove engine = some (v.joinFlags engine fl next)) :
    SweepMoved s engine
      { s.sweep engine with
        shardFlags := Flags.or (s.sweep engine).shardFlags fl, flags := Flags.or (s.sweep engine).flags fl, stage := next }
      fun u => OnlyBytes s u a bs := by
  refine sweepMoved_of_move hactive hmove ?_ (hput.work.frame.joinFlags ..) (onlyBytes_of_mem hput.bytes (mem_joinFlags ..))
  rw [sweep_joinFlags, hput.work.sweep]

end

/-! ### Lines of moments and weights (R233, R234) -/

theorem lineTest_clean (old : List Byte) (step : Nat) :
    lineTest (.clean old) step
      = if fieldLe old 0 4 = step then .skip else if (fieldLe old 0 4 + 1) % 2 ^ 32 = step then .rewrite else .stampFault := by
  simp [lineTest]

/-- What the stage of a line does by the stamp of the line at `a`: the line `line` of `n` elements takes its place where the
stamp is the step's before. -/
structure LineOutcome (s : State) (i a n : Nat) (next : SweepStage) (line : List Byte × Flags) (m : SweepMove) : Prop where
  skip : fieldLe (bytesAt s a 128) 0 4 = s.sweepStepNo i →
    ∃ t, SweepReads i s t ∧ m = .go (t.skipLine i (.clean (bytesAt s a 128)) next)
  stamp : fieldLe (bytesAt s a 128) 0 4 ≠ s.sweepStepNo i → (fieldLe (bytesAt s a 128) 0 4 + 1) % 2 ^ 32 ≠ s.sweepStepNo i →
    ∃ t, SweepReads i s t ∧ m = .fault 1 t
  rewrite : (fieldLe (bytesAt s a 128) 0 4 + 1) % 2 ^ 32 = s.sweepStepNo i →
    fieldLe (bytesAt s a 128) 0 4 ≠ s.sweepStepNo i → ∃ t, SweepReads i s t
      ∧ m = if s.sweepPaid i n = true then .go ((t.charge (pSweep i) (sweepWork i n)).putLine i a line n next)
          else .stay (s.sweepHold i n)

/-- What the move of a line leaves, by the stamp of the line at `a` and by whether the price of its `n` elements is covered. -/
def LineClauses (s : State) (engine : Ix16) (a n : Nat) (next : SweepStage) (line : List Byte × Flags) : Prop :=
  let y := s.sweep engine
  let old := bytesAt s a 128
  let st := fieldLe old 0 4
  let step := s.sweepStepNo engine
  (st = step → SweepMoved s engine
    { y with shardFlags := Flags.or y.shardFlags (flagsOfByte (fieldLe old 4 1)), stage := next }
    fun t => t.mem = s.mem ∧ SweepCounted s engine 0x148 1 t) ∧
  (st ≠ step → (st + 1) % 2 ^ 32 ≠ step → SweepMoved s engine (y.left 1 .check) fun t => t.mem = s.mem) ∧
  ((st + 1) % 2 ^ 32 = step → st ≠ step → s.sweepPaid engine n = true → SweepMoved s engine
    { y with shardFlags := Flags.or y.shardFlags line.2, flags := Flags.or y.flags line.2, stage := next }
    fun t => OnlyBytes s t a line.1 ∧ SweepCounted s engine 0x140 n t) ∧
  ((st + 1) % 2 ^ 32 = step → st ≠ step → s.sweepPaid engine n = false → SweepHeld s engine)

theorem lineClauses_of_lineOutcome {s : State} {engine : Ix16} {a n : Nat} {next : SweepStage} {line : List Byte × Flags}
    {m : SweepMove} (hactive : s.sweepActive engine = true) (hs : Resting s) (hmove : s.sweepMove engine = m.after s engine)
    (ha : inDram a 128) (hlen : line.1.length = 128) (h : LineOutcome s engine a n next line m) :
    LineClauses s engine a n next line := by
  refine ⟨fun hst => ?_, fun hst hbefore => ?_, fun hbefore hst hpaid => ?_, fun hbefore hst hpaid => ?_⟩
  · obtain ⟨t, ht, rfl⟩ := h.skip hst
    exact sweepMoved_of_skip hactive hs ht hmove
  · obtain ⟨t, ht, rfl⟩ := h.stamp hst hbefore
    exact sweepMoved_of_leave hactive hs ht hmove
  · obtain ⟨t, ht, rfl⟩ := h.rewrite hbefore hst
    rw [if_pos hpaid] at hmove
    exact sweepMoved_of_line hactive (sweepPut_charge hs engine.isLt ht (by rwa [hlen]) _) hmove
  · obtain ⟨t, ht, rfl⟩ := h.rewrite hbefore hst
    rw [if_neg (by simp [hpaid])] at hmove
    exact sweepHeld_of_stay hactive hmove

theorem grad_inDram_of_valid {x : Shard} (h : x.valid = true) : inDram x.grad (2 * x.elements) := by
  unfold Shard.valid at h
  simp only [Bool.and_eq_true] at h
  obtain ⟨⟨⟨⟨⟨⟨-, hgrad⟩, -⟩, -⟩, -⟩, -⟩, -⟩ := h
  exact .inl hgrad

theorem masterLine_inDram {x : Shard} (h : inDram x.master (128 * x.masterLines)) {lo hi : Nat} (hhi : hi ≤ x.elements) :
    ∀ k ∈ linesOver 40 lo hi, inDram (x.master + 128 * k) 128 := fun _ hk =>
  inDram_line h (Nat.lt_of_lt_of_le (mem_linesOver.1 hk).2 (ceilDiv_mono hhi 40))

theorem momentLine_inDram {x : Shard} (h : inDram x.moment (128 * x.momentLines)) {lo hi : Nat} (hhi : hi ≤ x.elements) :
    ∀ k ∈ linesOver 30 lo hi, inDram (x.moment + 128 * k) 128 := fun _ hk =>
  inDram_line h (Nat.lt_of_lt_of_le (mem_linesOver.1 hk).2 (ceilDiv_mono hhi 30))

theorem lt_of_lt_ceilDiv {l e per : Nat} (hper : 0 < per) (h : l < ceilDiv e per) : per * l < e := by
  unfold ceilDiv at h
  have hle := (Nat.le_div_iff_mul_le hper).1 (Nat.succ_le_of_lt h)
  rw [Nat.succ_mul, Nat.mul_comm] at hle
  omega

/-- The stage behind a moment line and behind a weight line. -/
def Shard.momentNext (x : Shard) (l : Nat) : SweepStage := if l + 1 < x.momentLines then .moment (l + 1) else .weight 0
def Shard.weightNext (x : Shard) (l : Nat) : SweepStage := if x.masterLines ≤ l + 1 then .scaleWait else .weight (l + 1)

/-- Elements of a moment line and of a master line. -/
def Shard.momentCount (x : Shard) (l : Nat) : Nat := min 30 (x.elements - 30 * l)
def Shard.masterCount (x : Shard) (l : Nat) : Nat := min 40 (x.elements - 40 * l)

/-- The new moment line l, from gradients, moments and, where the program reads them, master weights as they stand. -/
def State.newMoments (s : State) (i : Nat) (x : Shard) (l : Nat) : List Byte × Flags :=
  let p := (s.sweep i).program
  let n := x.momentCount l
  momentLine p ((s.sweep i).consts (s.sweepStepNo i)) (s.sweepStepNo i) (s.gradsAt x (30 * l) n) (s.momentsAt x (30 * l) n)
    (if p.usesW then s.weightsAt x (30 * l) n else [])

/-- The new master line l, from master weights and moments as they stand. -/
def State.newMasters (s : State) (i : Nat) (x : Shard) (l : Nat) : List Byte × Flags :=
  let n := x.masterCount l
  masterLine (s.sweep i).program ((s.sweep i).consts (s.sweepStepNo i)) (s.sweepStepNo i) (s.weightsAt x (40 * l) n)
    (s.momentsAt x (40 * l) n)

theorem momentCount_le {x : Shard} {l : Nat} (hl : l < x.momentLines) : 30 * l + x.momentCount l ≤ x.elements := by
  have := lt_of_lt_ceilDiv (by decide) hl
  unfold Shard.momentCount
  omega

theorem masterCount_le {x : Shard} {l : Nat} (hl : l < x.masterLines) : 40 * l + x.masterCount l ≤ x.elements := by
  have := lt_of_lt_ceilDiv (by decide) hl
  unfold Shard.masterCount
  omega

theorem Shard.momentCount_le_thirty (x : Shard) (l : Nat) : x.momentCount l ≤ 30 := Nat.min_le_left ..

theorem Shard.masterCount_le_forty (x : Shard) (l : Nat) : x.masterCount l ≤ 40 := Nat.min_le_left ..

theorem length_newMoments (s : State) (i : Nat) (x : Shard) (l : Nat) : (s.newMoments i x l).1.length = 128 :=
  length_fitBytes ..

theorem length_newMasters (s : State) (i : Nat) (x : Shard) (l : Nat) : (s.newMasters i x l).1.length = 128 :=
  length_fitBytes ..

section
variable {s : State} {i : Nat} {x : Shard} {l : Nat} (hs : Resting s) (hi : i < 16)
include hs hi

/-- What the moment stage takes of the master weights: none where its program reads none. -/
theorem momentStep_weights (hmaster : inDram x.master (128 * x.masterLines)) (hl : l < x.momentLines) {t : State}
    (ht : SweepReads i s t) :
    ∃ u ls, (if (s.sweep i).program.usesW then t.sweepLines i x.master 40 (30 * l) (30 * l + x.momentCount l) else (t, []))
        = (u, ls) ∧ SweepReads i s u
      ∧ (if (s.sweep i).program.usesW then mastersIn ls (30 * l) (30 * l + x.momentCount l) else some [])
        = some (if (s.sweep i).program.usesW then s.weightsAt x (30 * l) (x.momentCount l) else []) := by
  cases (s.sweep i).program.usesW with
  | false => exact ⟨t, [], rfl, ht, rfl⟩
  | true =>
    obtain ⟨u, hu, hmore⟩ := sweepLines_of_resting (ht.resting hs) hi (masterLine_inDram hmaster (momentCount_le hl))
    refine ⟨u, _, hu, ht.trans hmore, ?_⟩
    rw [ht.standingLines_eq, if_pos rfl, if_pos rfl, mastersIn_standingLines hs.canonical x fun e hlo hhi =>
      div_mem_linesOver (by decide) hlo hhi, Nat.add_sub_cancel_left]

theorem momentStep_outcome (hx : x.valid = true) (hmaster : inDram x.master (128 * x.masterLines))
    (hmoment : inDram x.moment (128 * x.momentLines)) (hl : l < x.momentLines) :
    LineOutcome s i (x.moment + 128 * l) (x.momentCount l) (x.momentNext l) (s.newMoments i x l) (s.momentStep i x l) := by
  obtain ⟨t, hread, ht⟩ := sweepRead_of_resting hs hi (inDram_line hmoment hl)
  unfold State.momentStep
  dsimp only
  rw [hread]
  dsimp only
  rw [lineTest_clean, show min 30 (x.elements - 30 * l) = x.momentCount l from rfl]
  refine ⟨fun hst => ⟨t, ht, ?_⟩, fun hst hbefore => ⟨t, ht, ?_⟩, fun hbefore hst => ?_⟩
  · rw [if_pos hst]
    rfl
  · rw [if_neg hst, if_neg hbefore]
  · rw [if_neg hst, if_pos hbefore]
    have hend := momentCount_le hl
    have hgrad : inDram (x.grad + 60 * l) (2 * x.momentCount l) := inDram_part (grad_inDram_of_valid hx) (by omega)
    obtain ⟨u, hgrads, hu⟩ := sweepRead_of_resting (ht.resting hs) hi hgrad
    obtain ⟨v, ls, hlines, hv, hweights⟩ := momentStep_weights hs hi hmaster hl (ht.trans hu)
    refine ⟨v, hv, ?_⟩
    dsimp only
    rw [hgrads]
    dsimp only
    rw [hlines]
    dsimp only
    rw [hweights, anyPoison_clean]
    dsimp only
    rw [sweepPay_eq hv]
    cases s.sweepPaid i (x.momentCount l)
    · rfl
    · rw [data_clean, data_clean, ht.bytesAt_eq, gradsAt_run hs.canonical,
        momentsAt_line hs.canonical x l (x.momentCount_le_thirty l)]
      rfl

theorem weightStep_outcome (hmaster : inDram x.master (128 * x.masterLines))
    (hmoment : inDram x.moment (128 * x.momentLines)) (hl : l < x.masterLines) :
    LineOutcome s i (x.master + 128 * l) (x.masterCount l) (x.weightNext l) (s.newMasters i x l) (s.weightStep i x l) := by
  obtain ⟨t, hread, ht⟩ := sweepRead_of_resting hs hi (inDram_line hmaster hl)
  unfold State.weightStep
  dsimp only
  rw [hread]
  dsimp only
  rw [lineTest_clean, show min 40 (x.elements - 40 * l) = x.masterCount l from rfl,
    show (if decide (x.masterLines ≤ l + 1) = true then SweepStage.scaleWait else .weight (l + 1)) = x.weightNext l by
      simp [Shard.weightNext]]
  refine ⟨fun hst => ⟨t, ht, ?_⟩, fun hst hbefore => ⟨t, ht, ?_⟩, fun hbefore hst => ?_⟩
  · rw [if_pos hst]
  · rw [if_neg hst, if_neg hbefore]
  · rw [if_neg hst, if_pos hbefore]
    obtain ⟨u, hlines, hu⟩ := sweepLines_of_resting (ht.resting hs) hi
      (momentLine_inDram hmoment (lo := 40 * l) (masterCount_le hl))
    have hboth := ht.trans hu
    refine ⟨u, hboth, ?_⟩
    dsimp only
    rw [hlines]
    dsimp only
    rw [ht.standingLines_eq, momentsIn_standingLines hs.canonical x fun e hlo hhi =>
      div_mem_linesOver (by decide) hlo hhi, Nat.add_sub_cancel_left]
    dsimp only
    rw [sweepPay_eq hboth]
    cases s.sweepPaid i (x.masterCount l)
    · rfl
    · rw [data_clean, weightsAt_line hs.canonical x l (x.masterCount_le_forty l)]
      rfl

end

end Sys2Proof.Machine
end

section
/-! The clauses of O44 on the lines of a shard, on its working copy and on its end (R233, R234, R241, R243, R245). -/

namespace Sys2Proof.Machine

/-! ### Moments and weights -/

section
variable {s : State} {engine : Ix16} (hactive : s.sweepActive engine = true) (hwait : (s.sweep engine).scaleWait = false)
  (hs : Resting s) {x : Shard} (hshard : (s.sweep engine).shardNow = x)
  (hmaster : inDram x.master (128 * x.masterLines)) (hmoment : inDram x.moment (128 * x.momentLines))
include hwait hshard hmaster hmoment

theorem sweepReady_moment {l : Nat} (hstage : (s.sweep engine).stage = .moment l) (hl : l < x.momentLines) :
    SweepReady s engine := by
  have hline := inDram_line hmoment hl
  refine ⟨hwait, ?_, fun r hr => ?_⟩
  · simp [State.sweepFull, hstage, hshard, hostFull_of_le (le_of_inDram hline)]
  · simp only [State.sweepNeeds, hstage, hshard] at hr
    rcases List.mem_cons.1 hr with rfl | hr
    · exact hline
    · split at hr
      · obtain ⟨k, hk, rfl⟩ := List.mem_map.1 hr
        exact masterLine_inDram hmaster (Nat.min_le_left ..) k (List.mem_filter.1 hk).1
      · cases hr

theorem sweepReady_weight {l : Nat} (hstage : (s.sweep engine).stage = .weight l) (hl : l < x.masterLines) :
    SweepReady s engine := by
  have hline := inDram_line hmaster hl
  refine ⟨hwait, ?_, fun r hr => ?_⟩
  · simp [State.sweepFull, hstage, hshard, hostFull_of_le (le_of_inDram hline)]
  · simp only [State.sweepNeeds, hstage, hshard] at hr
    rcases List.mem_cons.1 hr with rfl | hr
    · exact hline
    · obtain ⟨k, hk, rfl⟩ := List.mem_map.1 hr
      exact momentLine_inDram hmoment (Nat.min_le_left ..) k (List.mem_filter.1 hk).1

include hactive hs

theorem momentClauses (hx : x.valid = true) {l : Nat} (hstage : (s.sweep engine).stage = .moment l) (hl : l < x.momentLines) :
    LineClauses s engine (x.moment + 128 * l) (x.momentCount l) (x.momentNext l) (s.newMoments engine x l) :=
  have hmove := (sweepReady_moment hwait hshard hmaster hmoment hstage hl).moment hstage
  lineClauses_of_lineOutcome hactive hs hmove (inDram_line hmoment hl) (length_newMoments ..)
    (by rw [hshard]; exact momentStep_outcome hs engine.isLt hx hmaster hmoment hl)

theorem weightClauses {l : Nat} (hstage : (s.sweep engine).stage = .weight l) (hl : l < x.masterLines) :
    LineClauses s engine (x.master + 128 * l) (x.masterCount l) (x.weightNext l) (s.newMasters engine x l) :=
  have hmove := (sweepReady_weight hwait hshard hmaster hmoment hstage hl).weight hstage
  lineClauses_of_lineOutcome hactive hs hmove (inDram_line hmaster hl) (length_newMasters ..)
    (by rw [hshard]; exact weightStep_outcome hs engine.isLt hmaster hmoment hl)

end

/-! ### The working copy (R233, R243) -/

/-- Elements of a chunk: the first one, and how many. -/
def Shard.chunkFirst (x : Shard) (c : Nat) : Nat := (x.chunkElems c).1
def Shard.chunkCount (x : Shard) (c : Nat) : Nat := (x.chunkElems c).2 - (x.chunkElems c).1

/-- The stage behind a chunk. -/
def Shard.chunkNext (x : Shard) (c : Nat) : SweepStage := if c + 1 < x.chunks.2 then .working (c + 1) else .finish

/-- Elements lo to lo + n − 1 converted for the working copy, each with its flags. -/
def State.workingOuts (s : State) (i : Nat) (x : Shard) (lo n : Nat) : List Res :=
  let e8 : BitVec 8 := if x.scale = 0 then 127 else BitVec.ofNat 8 (fieldLe (s.sweep i).record 4 1)
  (s.weightsAt x lo n).map fun u => convertScaled (f32 (widen32 .bf24 u)) x.workFmt e8 false (s.sweep i).program.satMode

/-- The flags of results, joined. -/
def joinedFlags (outs : List Res) : Flags := outs.foldl (fun g o => Flags.or g o.2) Flags.none

/-- The bytes of results, `sz` each. -/
def resultBytes (sz : Nat) (outs : List Res) : List Byte := outs.flatMap fun o => leBytes sz o.1

theorem length_resultBytes (sz : Nat) (outs : List Res) : (resultBytes sz outs).length = sz * outs.length := by
  simp [resultBytes, length_leBytes, Nat.mul_comm]

theorem length_workingOuts (s : State) (i : Nat) (x : Shard) (lo n : Nat) : (s.workingOuts i x lo n).length = n := by
  simp [State.workingOuts, State.weightsAt]

theorem chunkElems_le (x : Shard) (c : Nat) : (x.chunkElems c).2 ≤ x.elements := Nat.min_le_left ..

section
variable {s : State} {i : Nat} {x : Shard} {c : Nat} (hs : Resting s) (hi : i < 16)
  (hmaster : inDram x.master (128 * x.masterLines))
include hs hi hmaster

/-- What the working-copy stage does with a chunk that it has read, by whether its price is covered and by the format. -/
theorem workingStep_outcome : ∃ t, SweepReads i s t
    ∧ (s.sweepPaid i (x.chunkCount c) = false → s.workingStep i x c = .stay (s.sweepHold i (x.chunkCount c)))
    ∧ (s.sweepPaid i (x.chunkCount c) = true → x.workSize = none → s.workingStep i x c
        = .go ((t.charge (pSweep i) (sweepWork i (x.chunkCount c))).setStage i (x.chunkNext c)))
    ∧ (∀ sz, s.sweepPaid i (x.chunkCount c) = true → x.workSize = some sz →
        let outs := s.workingOuts i x (x.chunkFirst c) (x.chunkCount c)
        s.workingStep i x c = .go (((t.charge (pSweep i) (sweepWork i (x.chunkCount c))).sweepWrite i
          (x.work + sz * x.chunkFirst c) (resultBytes sz outs)).joinFlags i (joinedFlags outs) (x.chunkNext c))) := by
  obtain ⟨t, hlines, ht⟩ := sweepLines_of_resting hs hi (masterLine_inDram hmaster (lo := (x.chunkElems c).1) (chunkElems_le x c))
  have hweights : mastersIn (s.standingLines x.master (linesOver 40 (x.chunkElems c).1 (x.chunkElems c).2)) (x.chunkElems c).1
      (x.chunkElems c).2 = some (s.weightsAt x (x.chunkFirst c) (x.chunkCount c)) :=
    mastersIn_standingLines hs.canonical x fun e hlo hhi => div_mem_linesOver (by decide) hlo hhi
  refine ⟨t, ht, ?_⟩
  unfold State.workingStep
  dsimp only
  rw [hlines]
  dsimp only
  rw [hweights]
  dsimp only
  rw [sweepPay_eq ht, show (x.chunkElems c).2 - (x.chunkElems c).1 = x.chunkCount c from rfl]
  refine ⟨fun hpaid => ?_, fun hpaid hsize => ?_, fun sz hpaid hsize => ?_⟩
  · rw [hpaid]
    rfl
  · rw [hpaid, hsize]
    rfl
  · rw [hpaid, hsize]
    rfl

end

section
variable {s : State} {engine : Ix16} (hactive : s.sweepActive engine = true) (hwait : (s.sweep engine).scaleWait = false)
  (hs : Resting s) {x : Shard} (hshard : (s.sweep engine).shardNow = x)
include hwait hshard

theorem sweepReady_working (hmaster : inDram x.master (128 * x.masterLines)) {c : Nat}
    (hstage : (s.sweep engine).stage = .working c)
    (hwork : ∀ sz, x.workSize = some sz → inDram x.work (sz * x.elements)) : SweepReady s engine := by
  refine ⟨hwait, ?_, fun r hr => ?_⟩
  · cases hsize : x.workSize with
    | none => simp [State.sweepFull, hstage, hshard, hsize]
    | some sz => simp [State.sweepFull, hstage, hshard, hostFull_of_le (le_of_inDram (hwork sz hsize))]
  · simp only [State.sweepNeeds, hstage, hshard] at hr
    obtain ⟨k, hk, rfl⟩ := List.mem_map.1 hr
    exact masterLine_inDram hmaster (chunkElems_le x c) k (List.mem_filter.1 hk).1

include hactive hs

theorem scaleWaitClause (hstage : (s.sweep engine).stage = .scaleWait) (hscale : x.needsScale = false) :
    SweepMoved s engine { s.sweep engine with stage := .working 0 } fun t => t.mem = s.mem := by
  have hready : SweepReady s engine := by
    refine ⟨hwait, ?_, fun r hr => ?_⟩
    · simp [State.sweepFull, hstage]
    · simp [State.sweepNeeds, hstage, hshard, hscale] at hr
  have hmove : s.enterWorking engine x = .go (s.setStage engine (.working 0)) := by simp [State.enterWorking, hscale]
  refine sweepMoved_of_set hactive hs (.refl _ s) ?_
  rw [hready.scaleWait hstage, hshard, hmove]
  rfl

/-- The clauses of O44 on a chunk of the working copy. -/
theorem workingClauses (hmaster : inDram x.master (128 * x.masterLines)) {c : Nat}
    (hstage : (s.sweep engine).stage = .working c) (hend : x.chunkFirst c + x.chunkCount c ≤ x.elements) :
    let y := s.sweep engine
    let outs := s.workingOuts engine x (x.chunkFirst c) (x.chunkCount c)
    (s.sweepPaid engine (x.chunkCount c) = true → x.workSize = none →
      SweepMoved s engine { y with stage := x.chunkNext c } fun t => t.mem = s.mem) ∧
    (∀ sz, s.sweepPaid engine (x.chunkCount c) = true → x.workSize = some sz → inDram x.work (sz * x.elements) →
      SweepMoved s engine
        { y with
          shardFlags := Flags.or y.shardFlags (joinedFlags outs), flags := Flags.or y.flags (joinedFlags outs)
          stage := x.chunkNext c }
        fun t => OnlyBytes s t (x.work + sz * x.chunkFirst c) (resultBytes sz outs)) ∧
    (s.sweepPaid engine (x.chunkCount c) = false → (∀ sz, x.workSize = some sz → inDram x.work (sz * x.elements)) →
      SweepHeld s engine) := by
  obtain ⟨t, ht, hheld, hnone, hsome⟩ := workingStep_outcome (c := c) hs engine.isLt hmaster
  have hmove := fun hwork => (sweepReady_working hwait hshard hmaster hstage hwork).working hstage
  rw [hshard] at hmove
  refine ⟨fun hpaid hsize => ?_, fun sz hpaid hsize hwork => ?_, fun hpaid hwork => ?_⟩
  · have hgo := hmove fun sz hsz => by rw [hsize] at hsz; cases hsz
    rw [hnone hpaid hsize] at hgo
    have hcharged := (SweepWork.ofReads ht hs).charge engine.isLt (pSweep engine) (sweepWork engine (x.chunkCount c))
    refine sweepMoved_of_move hactive hgo ?_ (hcharged.frame.setSweep _) ?_
    · rw [← hcharged.sweep]
      exact sweep_setSweep_same ..
    · show (t.charge _ _).mem = s.mem
      rw [charge_eq]
      exact ht.mem_eq
  · have hgo := hmove fun sz' hsz => by rw [hsize] at hsz; cases hsz; exact hwork
    rw [hsome sz hpaid hsize] at hgo
    refine sweepMoved_of_part hactive (sweepPut_charge hs engine.isLt ht ?_ _) hgo
    rw [length_resultBytes, length_workingOuts]
    exact inDram_part hwork (by rw [← Nat.mul_add]; exact Nat.mul_le_mul_left _ hend)
  · have hstay := hmove hwork
    rw [hheld hpaid] at hstay
    exact sweepHeld_of_stay hactive hstay

end

end Sys2Proof.Machine
end

section
/-! The end of a shard: the pending maximum, the status record and the tensor's flags (R234, R241, R245, R246). -/

namespace Sys2Proof.Machine

/-- The scale record that gives a shard's pending slot its place. -/
def State.shardRecord (s : State) (i : Nat) (x : Shard) : List Byte :=
  if x.needsScale then (s.sweep i).record else bytesAt s x.scale 128

/-- Where the shard's maximum goes. -/
def State.pendingSlot (s : State) (i : Nat) (x : Shard) : Nat := fieldLe (s.shardRecord i x) 80 8 + 4 * x.slot

/-- The greatest magnitude of master weights. -/
def shardAmax (ws : List Nat) : Nat := (masterStats ws).2.2.2

/-- The counts of a status record, from its ninth byte on. -/
def statusBytes (ws : List Nat) : List Byte :=
  leBytes 4 (masterStats ws).1 ++ leBytes 4 (masterStats ws).2.1 ++ leBytes 4 (masterStats ws).2.2.1
    ++ leBytes 4 (shardAmax ws) ++ leBytes 8 0

/-- The stamp and the flags that begin a status record. -/
def statusHead (step : Nat) (fl : Flags) : List Byte := leBytes 4 step ++ leBytes 1 fl.bits

/-- What the end of a shard writes. -/
def State.finishWrites (s : State) (i : Nat) (x : Shard) (slot step : Nat) (fl : Flags) (ws : List Nat) : State :=
  let s1 := if x.slot = 255 then s else s.sweepWrite i slot (leBytes 4 (shardAmax ws))
  (s1.sweepWrite i x.status (statusHead step fl)).sweepWrite i (x.status + 8) (statusBytes ws)

theorem length_statusHead (step : Nat) (fl : Flags) : (statusHead step fl).length = 5 := by
  simp [statusHead, length_leBytes]

theorem length_statusBytes (ws : List Nat) : (statusBytes ws).length = 24 := by
  simp [statusBytes, length_leBytes]

/-- The bytes that the end of a shard leaves: the status record at its place, the maximum in its slot, and the others as before. -/
structure FinishBytes (s t : State) (x : Shard) (slot step : Nat) (fl : Flags) (ws : List Nat) : Prop where
  stamp : ∀ k, k < 4 → Map.get t.mem (x.status + k) unlistedByte = BitVec.ofNat 8 (step / 256 ^ k)
  flags : Map.get t.mem (x.status + 4) unlistedByte = BitVec.ofNat 8 fl.bits
  status : ∀ k, k < 24 → Map.get t.mem (x.status + 8 + k) unlistedByte = (statusBytes ws).getD k 0
  pending : x.slot ≠ 255 → ∀ k, k < 4 → Map.get t.mem (slot + k) unlistedByte = BitVec.ofNat 8 (shardAmax ws / 256 ^ k)
  others : ∀ k, (k < x.status ∨ x.status + 32 ≤ k) → (x.slot = 255 ∨ k < slot ∨ slot + 4 ≤ k) →
    Map.get t.mem k unlistedByte = Map.get s.mem k unlistedByte

section
variable {s t : State} {i : Nat} {x : Shard} {slot : Nat} (ht : SweepWork i s t) (hi : i < 16) (hstatus : inDram x.status 32)
  (hslot : x.slot ≠ 255 → inDram slot 4 ∧ (slot + 4 ≤ x.status ∨ x.status + 32 ≤ slot)) (step : Nat) (fl : Flags) (ws : List Nat)
include ht hi hstatus hslot

theorem finishWrites_work : SweepWork i s (t.finishWrites i x slot step fl ws)
    ∧ FinishBytes t (t.finishWrites i x slot step fl ws) x slot step fl ws := by
  have hpend : SweepWork i s (if x.slot = 255 then t else t.sweepWrite i slot (leBytes 4 (shardAmax ws)))
      ∧ (x.slot ≠ 255 → ∀ k, k < 4 →
        Map.get (if x.slot = 255 then t else t.sweepWrite i slot (leBytes 4 (shardAmax ws))).mem (slot + k) unlistedByte
          = BitVec.ofNat 8 (shardAmax ws / 256 ^ k))
      ∧ ∀ k, (x.slot = 255 ∨ k < slot ∨ slot + 4 ≤ k) →
        Map.get (if x.slot = 255 then t else t.sweepWrite i slot (leBytes 4 (shardAmax ws))).mem k unlistedByte
          = Map.get t.mem k unlistedByte := by
    by_cases hnone : x.slot = 255
    · rw [if_pos hnone]
      exact ⟨ht, fun h => absurd hnone h, fun _ _ => rfl⟩
    · obtain ⟨hwork, hin, hout⟩ := ht.write hi (bs := leBytes 4 (shardAmax ws)) (by rw [length_leBytes]; exact (hslot hnone).1)
      rw [length_leBytes] at hin hout
      rw [if_neg hnone]
      exact ⟨hwork, fun _ k hk => (hin k hk).trans (getD_leBytes 4 _ hk 0), fun k hk => hout k (hk.resolve_left hnone)⟩
  unfold State.finishWrites
  dsimp only
  generalize (if x.slot = 255 then t else t.sweepWrite i slot (leBytes 4 (shardAmax ws))) = u at hpend
  obtain ⟨hu, huslot, huother⟩ := hpend
  obtain ⟨hhead, hhin, hhout⟩ := hu.write hi (a := x.status) (bs := statusHead step fl)
    (by rw [length_statusHead]; exact inDram_part (k := 0) hstatus (by decide))
  obtain ⟨hwork, hin, hout⟩ := hhead.write hi (a := x.status + 8) (bs := statusBytes ws)
    (by rw [length_statusBytes]; exact inDram_part hstatus (by decide))
  rw [length_statusHead] at hhin hhout
  rw [length_statusBytes] at hin hout
  refine ⟨hwork, ⟨fun k hk => ?_, ?_, hin, fun hne k hk => ?_, fun k hk hks => ?_⟩⟩
  · rw [hout _ (by omega), hhin k (by omega), statusHead, List.getD_append _ _ _ _ (by rwa [length_leBytes]),
      getD_leBytes 4 _ hk]
  · rw [hout _ (by omega), hhin 4 (by decide)]
    rfl
  · have hapart := (hslot hne).2
    rw [hout _ (by omega), hhout _ (by omega), huslot hne k hk]
  · rw [hout _ (by omega), hhout _ (by omega), huother k hks]

end

section
variable {s : State} {i : Nat} {x : Shard} (hs : Resting s) (hi : i < 16)
include hs hi

theorem pendingRecord_of_resting
    (hrecord : x.slot ≠ 255 → x.needsScale = false → inDram x.scale 128 ∧ scaleRecordOk (s.shardRecord i x) = true) :
    ∃ t rec, s.pendingRecord i x = .ok (t, rec) ∧ SweepReads i s t ∧ (x.slot ≠ 255 → rec = s.shardRecord i x) := by
  unfold State.pendingRecord
  by_cases hnone : x.slot = 255
  · exact ⟨s, [], by rw [if_pos hnone], .refl i s, fun h => absurd hnone h⟩
  · cases hscale : x.needsScale with
    | true =>
      refine ⟨s, (s.sweep i).record, by rw [if_neg hnone, if_pos rfl], .refl i s, fun _ => ?_⟩
      rw [State.shardRecord, hscale, if_pos rfl]
    | false =>
      obtain ⟨hdram, hok⟩ := hrecord hnone hscale
      obtain ⟨t, hread, ht⟩ := sweepRead_of_resting hs hi hdram
      have hbytes : s.shardRecord i x = bytesAt s x.scale 128 := by rw [State.shardRecord, hscale, if_neg Bool.false_ne_true]
      rw [hbytes] at hok
      refine ⟨t, bytesAt s x.scale 128, ?_, ht, fun _ => hbytes.symm⟩
      simp [hnone, hread, hok]

/-- The end of a shard writes over what it has read. -/
theorem finishShard_of_resting (hmaster : inDram x.master (128 * x.masterLines))
    (hrecord : x.slot ≠ 255 → x.needsScale = false → inDram x.scale 128 ∧ scaleRecordOk (s.shardRecord i x) = true) :
    ∃ t slot, SweepReads i s t ∧ (x.slot ≠ 255 → slot = s.pendingSlot i x)
      ∧ s.finishShard i x =
        let u := t.finishWrites i x slot (s.sweepStepNo i) (s.sweep i).shardFlags (s.weightsAt x 0 x.elements)
        let z := u.sweep i
        .go ((u.setSweep i
          { z with
            tflags := Map.put z.tflags x.tensor (Flags.or (Map.get z.tflags x.tensor .none) (s.sweep i).shardFlags) .none
            shard := z.shard + 1, stage := .check }).count (bSwp i) 0x150 1) := by
  obtain ⟨t, rec, hpending, ht, hrec⟩ := pendingRecord_of_resting hs hi hrecord
  have hlines : (List.range x.masterLines).map (fun k => (k, s.peek (x.master + 128 * k) 128))
      = s.standingLines x.master (List.range x.masterLines) :=
    List.map_congr_left fun k hk => by rw [peek_of_resting hs (inDram_line hmaster (List.mem_range.1 hk))]
  have hweights : mastersIn (s.standingLines x.master (List.range x.masterLines)) 0 x.elements
      = some (s.weightsAt x 0 x.elements) :=
    mastersIn_standingLines hs.canonical x fun e _ he => List.mem_range.2 (div_lt_ceilDiv (by decide) he)
  refine ⟨t, fieldLe rec 80 8 + 4 * x.slot, ht, fun hne => by rw [hrec hne]; rfl, ?_⟩
  unfold State.finishShard
  dsimp only
  rw [hlines, hweights, hpending]
  dsimp only
  rw [ht.sweep_eq]
  rfl

end

/-- The clause of O44 on the end of a shard. -/
theorem finishClause {s : State} {engine : Ix16} (hactive : s.sweepActive engine = true)
    (hwait : (s.sweep engine).scaleWait = false) (hs : Resting s) {x : Shard} (hshard : (s.sweep engine).shardNow = x)
    (hmaster : inDram x.master (128 * x.masterLines)) (hstage : (s.sweep engine).stage = .finish) (hstatus : inDram x.status 32)
    (hslot : x.slot ≠ 255 → inDram (s.pendingSlot engine x) 4
      ∧ (s.pendingSlot engine x + 4 ≤ x.status ∨ x.status + 32 ≤ s.pendingSlot engine x)
      ∧ (x.needsScale = false → inDram x.scale 128 ∧ scaleRecordOk (s.shardRecord engine x) = true)) :
    let y := s.sweep engine
    SweepMoved s engine
      { y with
        tflags := Map.put y.tflags x.tensor (Flags.or (Map.get y.tflags x.tensor .none) y.shardFlags) .none
        shard := y.shard + 1, stage := .check }
      fun t => SweepCounted s engine 0x150 1 t
        ∧ FinishBytes s t x (s.pendingSlot engine x) (s.sweepStepNo engine) y.shardFlags (s.weightsAt x 0 x.elements) := by
  have hready : SweepReady s engine := by
    refine ⟨hwait, ?_, fun r hr => ?_⟩
    · have hhead : s.hostFull x.status 128 = false := hostFull_of_le (le_of_inDram hstatus) s
      by_cases hne : x.slot = 255
      · simp [State.sweepFull, hstage, hshard, hhead, hne]
      · have hbase : s.hostFull (fieldLe (s.shardRecord engine x) 80 8) 128 = false :=
          hostFull_of_le (Nat.le_trans (Nat.le_add_right ..) (le_of_inDram (hslot hne).1)) s
        have hrecord : (if x.needsScale then (s.sweep engine).record else (s.peek x.scale 128 : PBytes).data)
            = s.shardRecord engine x := by
          unfold State.shardRecord
          split
          · rfl
          · next hscale =>
            rw [peek_of_resting hs ((hslot hne).2.2 (Bool.eq_false_iff.2 hscale)).1, data_clean]
        simp [State.sweepFull, hstage, hshard, hhead, hrecord, hbase]
    · simp only [State.sweepNeeds, hstage, hshard] at hr
      split at hr
      · cases hr
      · next hread =>
        simp only [Bool.or_eq_true, decide_eq_true_eq, not_or, Bool.not_eq_true] at hread
        obtain ⟨hne, hscale⟩ := hread
        rw [List.mem_singleton.1 hr]
        exact ((hslot hne).2.2 hscale).1
  obtain ⟨t, slot, ht, hpend, hfinish⟩ := finishShard_of_resting hs engine.isLt hmaster fun hne => (hslot hne).2.2
  have hslot' : x.slot ≠ 255 → inDram slot 4 ∧ (slot + 4 ≤ x.status ∨ x.status + 32 ≤ slot) := fun hne => by
    rw [hpend hne]
    exact ⟨(hslot hne).1, (hslot hne).2.1⟩
  obtain ⟨hwork, hbytes⟩ := finishWrites_work (SweepWork.ofReads ht hs) engine.isLt hstatus hslot' (s.sweepStepNo engine)
    (s.sweep engine).shardFlags (s.weightsAt x 0 x.elements)
  have hmove := hready.finish hstage
  rw [hshard, hfinish] at hmove
  dsimp only at hmove
  generalize t.finishWrites engine x slot (s.sweepStepNo engine) (s.sweep engine).shardFlags (s.weightsAt x 0 x.elements) = u
    at hwork hbytes hmove
  refine sweepMoved_of_move hactive hmove ?_ ((hwork.frame.setSweep _).count ..) ⟨?_, ?_⟩
  · rw [State.count_sweep_eq, sweep_setSweep_same, hwork.sweep]
  · rw [SweepCounted, counter_count]
    exact congrArg (· + _) (hwork.counts 0x150 (by decide) (by decide) (by decide))
  · obtain ⟨hstamp, hflags, hrest, hpending, hothers⟩ := hbytes
    refine ⟨hstamp, hflags, hrest, fun hne => ?_, fun k hk hks => ?_⟩
    · rw [← hpend hne]
      exact hpending hne
    · rw [← ht.mem_eq]
      refine hothers k hk ?_
      by_cases hne : x.slot = 255
      · exact .inl hne
      · rwa [hpend hne]

end Sys2Proof.Machine
end

section
/-! Commits of scale records and the checks of shards and programs (R228, R229, R232, R234, R237, R241). -/

namespace Sys2Proof.Machine

/-- The descriptor of the shard whose turn it is, as it stands. -/
def State.entryBytes (s : State) (i : Nat) : List Byte := bytesAt s (s.shardAddr i (s.sweep i).shard) 64

/-! ### Commits (R228, R241) -/

theorem length_committed {r : List Byte} (hr : r.length = 128) (pend : List Nat) (step : Nat) :
    (committed r pend step).length = 128 := by
  simp [committed, length_leBytes, hr, Function.comp_def, List.map_const']

section
variable {s : State} {i : Nat} (hs : Resting s) (hi : i < 16)
include hs hi

/-- A valid descriptor's program is read where it has elements, and its range is judged where its header is good. -/
theorem commitInvalid_of_valid {x : Shard} (hvalid : x.valid = true)
    (hprog : x.elements = 0 ∨ (inDram x.program 64
      ∧ (progHeaderOk (bytesAt s x.program 64) = false ∨ progRange x.program (bytesAt s x.program 64) = true))) :
    ∃ t, s.commitInvalid i x = (t, false) ∧ SweepReads i s t := by
  unfold State.commitInvalid
  rw [hvalid]
  by_cases hnone : x.elements = 0
  · exact ⟨s, by simp [hnone], .refl i s⟩
  · obtain ⟨hdram, hgood⟩ := hprog.resolve_left hnone
    obtain ⟨t, hread, ht⟩ := sweepRead_of_resting hs hi hdram
    refine ⟨t, ?_, ht⟩
    rcases hgood with hgood | hgood <;> simp [hnone, hread, hgood]

variable {a step : Nat} (ha : inDram a 128)
include ha

theorem commitScale_of_reserved (hok : scaleRecordOk (bytesAt s a 128) = false) :
    ∃ t, s.commitScale i a step = (t, some 4) ∧ SweepReads i s t := by
  obtain ⟨t, hread, ht⟩ := sweepRead_of_resting hs hi ha
  exact ⟨t, by simp [State.commitScale, hread, hok], ht⟩

theorem commitScale_of_stamped (hok : scaleRecordOk (bytesAt s a 128) = true) (hst : fieldLe (bytesAt s a 128) 0 4 = step) :
    ∃ t, s.commitScale i a step = (t, none) ∧ SweepReads i s t := by
  obtain ⟨t, hread, ht⟩ := sweepRead_of_resting hs hi ha
  exact ⟨t, by simp [State.commitScale, hread, hok, hst], ht⟩

/-- The pending values of a scale record, as they stand. -/
def State.pendingAt (s : State) (r : List Byte) : List Nat :=
  (List.range (fieldLe r 9 1)).map fun k => fieldLe (bytesAt s (fieldLe r 80 8) (4 * fieldLe r 9 1)) (4 * k) 4

/-- The counts of a commit: one, and one more where the record is cold. -/
def State.countCommit (s : State) (i : Nat) (r : List Byte) : State :=
  if bitOf (fieldLe r 7 1) 0 then (s.count (bSwp i) 0x158 1).count (bSwp i) 0x160 1 else s.count (bSwp i) 0x158 1

theorem commitScale_of_due (hok : scaleRecordOk (bytesAt s a 128) = true) (hst : fieldLe (bytesAt s a 128) 0 4 ≠ step)
    (hpend : inDram (fieldLe (bytesAt s a 128) 80 8) (4 * fieldLe (bytesAt s a 128) 9 1)) :
    let r := committed (bytesAt s a 128) (s.pendingAt (bytesAt s a 128)) step
    ∃ t, s.commitScale i a step = (t.countCommit i r, none) ∧ SweepPut i s t a r := by
  obtain ⟨t, hread, ht⟩ := sweepRead_of_resting hs hi ha
  obtain ⟨u, hvalues, hu⟩ := sweepRead_of_resting (ht.resting hs) hi hpend
  have hboth := ht.trans hu
  obtain ⟨hwork, hbytes⟩ := (SweepWork.ofReads hboth hs).write hi (a := a)
    (bs := committed (bytesAt s a 128) (s.pendingAt (bytesAt s a 128)) step)
    (by rw [length_committed (length_bytesAt ..)]; exact ha)
  refine ⟨_, ?_, hwork, ?_⟩
  · unfold State.commitScale
    dsimp only
    rw [hread]
    dsimp only
    rw [data_clean, anyPoison_clean, hok, if_neg Bool.false_ne_true, if_neg (by decide), if_neg hst, hvalues]
    dsimp only
    rw [data_clean, anyPoison_clean, if_neg Bool.false_ne_true, ht.bytesAt_eq]
    rfl
  · unfold OnlyBytes at hbytes ⊢
    rwa [hboth.mem_eq] at hbytes

end

section
variable {s : State} {i : Nat} {k : Nat}

theorem sweep_countCommit (s : State) (i : Nat) (r : List Byte) (j : Nat) : (s.countCommit i r).sweep j = s.sweep j := by
  unfold State.countCommit
  split <;> rfl

theorem mem_countCommit (s : State) (i : Nat) (r : List Byte) : (s.countCommit i r).mem = s.mem := by
  unfold State.countCommit
  split <;> rfl

theorem MoveFrame.countCommit {t : State} (h : MoveFrame i s t) (r : List Byte) : MoveFrame i s (t.countCommit i r) := by
  unfold State.countCommit
  split
  · exact (h.count ..).count ..
  · exact h.count ..

theorem counters_countCommit (s : State) (i : Nat) (r : List Byte) :
    (s.countCommit i r).counter (bSwp i) 0x158 = s.counter (bSwp i) 0x158 + BitVec.ofNat 64 1
      ∧ (s.countCommit i r).counter (bSwp i) 0x160
        = s.counter (bSwp i) 0x160 + BitVec.ofNat 64 (if bitOf (fieldLe r 7 1) 0 then 1 else 0) := by
  have hother : (s.count (bSwp i) 0x158 1).counter (bSwp i) 0x160 = s.counter (bSwp i) 0x160 :=
    counter_count_of_ne _ _ _ _ (by decide) (by decide) (by decide)
  unfold State.countCommit
  split
  · exact ⟨(counter_count_of_ne _ _ _ _ (by decide) (by decide) (by decide)).trans (counter_count ..),
      (counter_count ..).trans (congrArg (· + _) hother)⟩
  · exact ⟨counter_count .., hother.trans (by simp)⟩

end

section
variable {s : State} {engine : Ix16} (hactive : s.sweepActive engine = true) (hwait : (s.sweep engine).scaleWait = false)
  (hs : Resting s) (hlisted : (s.sweep engine).shard < s.listLen engine)
  (hentry : inDram (s.shardAddr engine (s.sweep engine).shard) 64) {x : Shard} (hx : shardOf (s.entryBytes engine) = x)
include hwait hs hlisted hentry hx

theorem sweepReady_commits (hstage : (s.sweep engine).stage = .commits)
    (hneeds : x.commit = true → x.valid = true → inDram x.scale 128 ∧ (x.elements ≠ 0 → inDram x.program 64)
      ∧ (scaleRecordOk (bytesAt s x.scale 128) = true → fieldLe (bytesAt s x.scale 128) 0 4 ≠ s.sweepStepNo engine →
        inDram (fieldLe (bytesAt s x.scale 128) 80 8) (4 * fieldLe (bytesAt s x.scale 128) 9 1))) :
    SweepReady s engine := by
  have hpeek : shardOf (s.peek (s.shardAddr engine (s.sweep engine).shard) 64 : PBytes).data = x := by
    rw [peek_of_resting hs hentry, data_clean]
    exact hx
  by_cases hboth : x.commit = true ∧ x.valid = true
  · obtain ⟨hcommit, hvalid⟩ := hboth
    obtain ⟨hscale, hprog, hpend⟩ := hneeds hcommit hvalid
    refine ⟨hwait, ?_, fun r hr => ?_⟩
    · simp [State.sweepFull, hstage, hpeek, hostFull_of_le (le_of_inDram hscale)]
    · have hrecord : (s.peek x.scale 128 : PBytes).data = bytesAt s x.scale 128 := by
        rw [peek_of_resting hs hscale, data_clean]
      simp only [State.sweepNeeds, hstage, hpeek, hlisted, hcommit, hvalid, hrecord, decide_true, Bool.not_true, Bool.or_self,
        Bool.false_eq_true, if_false] at hr
      rcases List.mem_append.1 hr with hr | hr
      · rcases List.mem_append.1 hr with hr | hr
        · rcases List.mem_pair.1 hr with rfl | rfl
          · exact hentry
          · exact hscale
        · split at hr
          · cases hr
          · next hne => rw [List.mem_singleton.1 hr]; exact hprog hne
      · split at hr
        · next hdue =>
          simp only [Bool.and_eq_true, bne_iff_ne, ne_eq] at hdue
          rw [List.mem_singleton.1 hr]
          exact hpend hdue.1 hdue.2
        · cases hr
  · have hnot : (x.commit && x.valid) = false := by simpa using hboth
    refine ⟨hwait, ?_, fun r hr => ?_⟩
    · simp only [State.sweepFull, hstage, hpeek]
      simp only [if_true, Bool.and_assoc]
      rw [← Bool.and_assoc x.commit, hnot]
      simp
    · have hskip : (!x.commit || !x.valid) = true := by rw [← Bool.not_and, hnot]; rfl
      simp only [State.sweepNeeds, hstage, hpeek, hlisted, hskip, decide_true, Bool.not_true, Bool.false_eq_true, if_false,
        if_true] at hr
      rw [List.mem_singleton.1 hr]
      exact hentry

omit hwait hx in
/-- The step of a commit, by what its descriptor and its scale record say. -/
theorem commitStep_outcome : ∃ t, SweepReads engine s t
    ∧ ((shardOf (s.entryBytes engine)).commit = false →
      s.commitStep engine = t.setSweep engine { s.sweep engine with shard := (s.sweep engine).shard + 1 })
    ∧ ((shardOf (s.entryBytes engine)).commit = true →
      ((shardOf (s.entryBytes engine)).valid = false → s.commitStep engine = t.leaveShard engine 4 .commits)
      ∧ ∀ u, t.commitInvalid engine (shardOf (s.entryBytes engine)) = (u, false) →
        (∀ v code, u.commitScale engine (shardOf (s.entryBytes engine)).scale (s.sweepStepNo engine) = (v, some code) →
          s.commitStep engine = v.leaveShard engine code .commits)
        ∧ ∀ v, u.commitScale engine (shardOf (s.entryBytes engine)).scale (s.sweepStepNo engine) = (v, none) →
          s.commitStep engine = v.setSweep engine { v.sweep engine with shard := (s.sweep engine).shard + 1 }) := by
  obtain ⟨t, hread, ht⟩ := sweepRead_of_resting hs engine.isLt hentry
  refine ⟨t, ht, ?_⟩
  unfold State.commitStep
  dsimp only
  rw [if_neg (Nat.not_le.2 hlisted), hread]
  dsimp only
  rw [data_clean, anyPoison_clean, if_neg Bool.false_ne_true, ← State.entryBytes]
  refine ⟨fun hcommit => ?_, fun hcommit => ⟨fun hvalid => ?_, fun u hu => ⟨fun v code hv => ?_, fun v hv => ?_⟩⟩⟩
  · rw [hcommit]
    rfl
  · simp [hcommit, State.commitInvalid, hvalid]
  · rw [hcommit, hu]
    dsimp only
    rw [hv]
    rfl
  · rw [hcommit, hu]
    dsimp only
    rw [hv]
    rfl

include hactive

/-- The clauses of O44 on a commit. -/
theorem commitClauses (hstage : (s.sweep engine).stage = .commits) :
    let y := s.sweep engine
    let step := s.sweepStepNo engine
    (x.commit = false → SweepMoved s engine { y with shard := y.shard + 1 } fun t => t.mem = s.mem) ∧
    (x.commit = true → x.valid = false → SweepMoved s engine (y.left 4 .commits) fun t => t.mem = s.mem) ∧
    (x.commit = true → x.valid = true → inDram x.scale 128 →
      (x.elements = 0 ∨ (inDram x.program 64
        ∧ (progHeaderOk (bytesAt s x.program 64) = false ∨ progRange x.program (bytesAt s x.program 64) = true))) →
      let r := bytesAt s x.scale 128
      (scaleRecordOk r = false → SweepMoved s engine (y.left 4 .commits) fun t => t.mem = s.mem) ∧
      (scaleRecordOk r = true → fieldLe r 0 4 = step →
        SweepMoved s engine { y with shard := y.shard + 1 } fun t => t.mem = s.mem) ∧
      (scaleRecordOk r = true → fieldLe r 0 4 ≠ step → inDram (fieldLe r 80 8) (4 * fieldLe r 9 1) →
        let new := committed r (s.pendingAt r) step
        SweepMoved s engine { y with shard := y.shard + 1 } fun t => OnlyBytes s t x.scale new
          ∧ SweepCounted s engine 0x158 1 t
          ∧ SweepCounted s engine 0x160 (if bitOf (fieldLe new 7 1) 0 then 1 else 0) t)) := by
  obtain ⟨t, ht, hplain, hcommits⟩ := commitStep_outcome hs hlisted hentry
  have hready := sweepReady_commits hwait hs hlisted hentry hx hstage
  rw [hx] at hplain hcommits
  refine ⟨fun hcommit => ?_, fun hcommit hvalid => ?_, fun hcommit hvalid hscale hprog => ?_⟩
  · have hmove := (hready fun h => absurd h (by simp [hcommit])).commits hstage
    rw [hplain hcommit] at hmove
    exact sweepMoved_of_set hactive hs ht hmove
  · have hmove := (hready fun _ h => absurd h (by simp [hvalid])).commits hstage
    rw [(hcommits hcommit).1 hvalid] at hmove
    exact sweepMoved_of_leave hactive hs ht hmove
  · rw [← ht.bytesAt_eq] at hprog
    obtain ⟨u, hinvalid, hmore⟩ := commitInvalid_of_valid (ht.resting hs) engine.isLt hvalid hprog
    rw [ht.bytesAt_eq] at hprog
    have hu := ht.trans hmore
    obtain ⟨hleave, hset⟩ := (hcommits hcommit).2 u hinvalid
    have hmove := fun hpend => (hready fun _ _ => ⟨hscale, fun hne => (hprog.resolve_left hne).1, hpend⟩).commits hstage
    have hrecord := hu.bytesAt_eq x.scale 128
    dsimp only
    rw [← hrecord]
    refine ⟨fun hok => ?_, fun hok hst => ?_, fun hok hst hpend => ?_⟩
    · obtain ⟨v, hv, hlast⟩ := commitScale_of_reserved (hu.resting hs) engine.isLt hscale (step := s.sweepStepNo engine) hok
      have hgo := hmove fun hok' => absurd hok' (by simp [← hrecord, hok])
      rw [hleave v 4 hv] at hgo
      exact sweepMoved_of_leave hactive hs (hu.trans hlast) hgo
    · obtain ⟨v, hv, hlast⟩ := commitScale_of_stamped (hu.resting hs) engine.isLt hscale hok hst
      have hgo := hmove fun _ hst' => absurd (hrecord ▸ hst) hst'
      rw [hset v hv, (hu.trans hlast).sweep_eq] at hgo
      exact sweepMoved_of_set hactive hs (hu.trans hlast) hgo
    · obtain ⟨v, hv, hput⟩ := commitScale_of_due (hu.resting hs) engine.isLt hscale hok hst hpend
      have hgo := hmove fun _ _ => hrecord ▸ hpend
      have hvalues : u.pendingAt (bytesAt u x.scale 128) = s.pendingAt (bytesAt u x.scale 128) := by
        simp only [State.pendingAt, hu.bytesAt_eq]
      rw [hvalues] at hv hput
      rw [hset _ hv] at hgo
      obtain ⟨hwork, hbytes⟩ := hput
      have hcounts := fun off hoff h1 h2 => (hwork.counts off hoff h1 h2).trans (hu.counts off hoff h1)
      have hnew := counters_countCommit v engine (committed (bytesAt u x.scale 128) (s.pendingAt (bytesAt u x.scale 128))
        (s.sweepStepNo engine))
      refine sweepMoved_of_move hactive hgo ?_ ((((hu.frame hs).trans hwork.frame).countCommit _).setSweep _) ⟨?_, ?_, ?_⟩
      · rw [sweep_setSweep_same, sweep_countCommit, hwork.sweep, hu.sweep_eq]
      · refine onlyBytes_of_mem (t := v) ?_ (mem_countCommit ..)
        unfold OnlyBytes at hbytes ⊢
        rwa [hu.mem_eq] at hbytes
      · exact hnew.1.trans (congrArg (· + _) (hcounts 0x158 (by decide) (by decide) (by decide)))
      · exact hnew.2.trans (congrArg (· + _) (hcounts 0x160 (by decide) (by decide) (by decide)))

end

end Sys2Proof.Machine
end

section
/-! The checks of a run: a shard's descriptor, its program and the schedule entry of the step (R228 to R232, R237; log entries 24
and 44). -/

namespace Sys2Proof.Machine

/-! ### Programs (R228, R229) -/

theorem progHeaderOk_bounds {h : List Byte} (hok : progHeaderOk h = true) :
    1 ≤ fieldLe h 12 4 ∧ 64 + 4 * (progOps h).2 ≤ fieldLe h 48 8 := by
  unfold progHeaderOk at hok
  simp only [Bool.and_eq_true, decide_eq_true_eq] at hok
  obtain ⟨⟨⟨⟨-, hlen⟩, -⟩, -⟩, hoff⟩ := hok
  exact ⟨hlen, hoff⟩

theorem schedEntry_progOf (h os : List Byte) (a step : Nat) :
    (progOf h os).schedEntry a step = a + (fieldLe h 48 8 + 32 * (min step (fieldLe h 12 4) - 1)) := Nat.add_assoc ..

/-- A program that begins in DRAM and lies in one region lies in DRAM. -/
theorem inDram_of_progRange {a : Nat} {h : List Byte} (ha : inDram a 64) (hok : progHeaderOk h = true)
    (hrange : progRange a h = true) : inDram a (fieldLe h 48 8 + 32 * fieldLe h 12 4) := by
  have hdram : isDram a := isDram_of_inDram (k := 0) ha (by decide)
  have hbounds := progHeaderOk_bounds hok
  have hpos : (fieldLe h 48 8 + 32 * fieldLe h 12 4 == 0) = false := by simp; omega
  unfold progRange sweepRange at hrange
  rw [hpos, Bool.false_or] at hrange
  rcases hdram with hr | hr <;> rw [hr] at hrange
  · exact .inl hrange
  · exact .inr hrange

/-- The operations and the schedule entry of a good program lie in DRAM with it. -/
theorem inDram_parts_of_progRange {a : Nat} {h : List Byte} (ha : inDram a 64) (hok : progHeaderOk h = true)
    (hrange : progRange a h = true) (step : Nat) :
    inDram (a + 64) (4 * (progOps h).2) ∧ inDram ((progOf h []).schedEntry a step) 32 := by
  have hall := inDram_of_progRange ha hok hrange
  have hbounds := progHeaderOk_bounds hok
  rw [schedEntry_progOf]
  exact ⟨inDram_part hall (by omega), inDram_part hall (by omega)⟩

/-- What a program's check leaves of a state. -/
structure ProgramRead (s t : State) (i : Nat) (prog row : List Byte) : Prop where
  sweep : t.sweep i = { s.sweep i with prog := prog, row := row }
  frame : MoveFrame i s t
  mem : t.mem = s.mem

section
variable {s : State} {i : Nat} (hs : Resting s) (hi : i < 16) {a : Nat} (ha : inDram a 64)
include hs hi ha

theorem checkProgram_of_bad_header (hok : progHeaderOk (bytesAt s a 64) = false) :
    ∃ t, s.checkProgram i a = (t, some 3) ∧ SweepReads i s t := by
  obtain ⟨t, hread, ht⟩ := sweepRead_of_resting hs hi ha
  exact ⟨t, by simp [State.checkProgram, hread, hok], ht⟩

theorem checkProgram_of_bad_range (hok : progHeaderOk (bytesAt s a 64) = true) (hrange : progRange a (bytesAt s a 64) = false) :
    ∃ t, s.checkProgram i a = (t, some 4) ∧ SweepReads i s t := by
  obtain ⟨t, hread, ht⟩ := sweepRead_of_resting hs hi ha
  exact ⟨t, by simp [State.checkProgram, hread, hok, hrange], ht⟩

/-- A good program is kept with the schedule entry of the step; step 0 has none. -/
theorem checkProgram_of_good (hok : progHeaderOk (bytesAt s a 64) = true) (hrange : progRange a (bytesAt s a 64) = true) :
    let h := bytesAt s a 64
    let os := bytesAt s (a + 64) (4 * (progOps h).2)
    (progOf h os).opsOk = true → ∃ t, s.checkProgram i a = (t, none)
      ∧ ProgramRead s t i (h ++ os)
          (if s.sweepStepNo i = 0 then [] else bytesAt s ((progOf h os).schedEntry a (s.sweepStepNo i)) 32) := by
  intro h os hops
  obtain ⟨hopsDram, hrowDram⟩ := inDram_parts_of_progRange ha hok hrange (s.sweepStepNo i)
  obtain ⟨t, hread, ht⟩ := sweepRead_of_resting hs hi ha
  obtain ⟨u, hopsRead, hu⟩ := sweepRead_of_resting (ht.resting hs) hi hopsDram
  have hboth := ht.trans hu
  have hset : Resting (u.setSweep i { u.sweep i with prog := h ++ os, row := [] }) :=
    (hboth.resting hs).of_calm ⟨rfl, rfl, rfl, rfl, rfl, rfl⟩
  have hprog : ProgramRead s (u.setSweep i { u.sweep i with prog := h ++ os, row := [] }) i (h ++ os) [] :=
    ⟨by rw [sweep_setSweep_same, hboth.sweep_eq], (hboth.frame hs).setSweep _, hboth.mem_eq⟩
  unfold State.checkProgram
  dsimp only
  rw [hread]
  dsimp only
  rw [data_clean, anyPoison_clean, hok, hrange, hopsRead]
  dsimp only
  rw [data_clean, anyPoison_clean, ht.bytesAt_eq, hops]
  simp only [Bool.false_eq_true, Bool.not_true, if_false]
  by_cases hzero : s.sweepStepNo i = 0
  · simp only [hzero, if_true]
    exact ⟨_, rfl, hprog⟩
  · obtain ⟨v, hrow, hv⟩ := sweepRead_of_resting hset hi (a := (progOf h os).schedEntry a (s.sweepStepNo i)) hrowDram
    simp only [hzero, if_false]
    rw [hrow]
    dsimp only
    rw [data_clean, anyPoison_clean, if_neg Bool.false_ne_true]
    refine ⟨_, rfl, ?_, (hprog.frame.trans (hv.frame hset)).setSweep _, hv.mem_eq.trans hprog.mem⟩
    rw [sweep_setSweep_same, hv.sweep_eq, hprog.sweep, bytesAt_of_calm (t := u.setSweep i _) (s := u) ⟨rfl, rfl, rfl, rfl, rfl, rfl⟩,
      hboth.bytesAt_eq]

end

/-! ### Shards (R228, R232, R237) -/

section
variable {s : State} {engine : Ix16} (hactive : s.sweepActive engine = true) (hwait : (s.sweep engine).scaleWait = false)
  (hs : Resting s) (hlisted : (s.sweep engine).shard < s.listLen engine)
  (hentry : inDram (s.shardAddr engine (s.sweep engine).shard) 64)
  (hfaultless : (s.sweep engine).faulted.contains (s.sweep engine).shard = false) {x : Shard}
  (hx : shardOf (s.entryBytes engine) = x)
include hs hlisted hentry hfaultless

section
include hwait hx

theorem sweepReady_check (hstage : (s.sweep engine).stage = .check)
    (hneeds : x.valid = true → x.elements ≠ 0 → inDram x.program 64
      ∧ (progHeaderOk (bytesAt s x.program 64) = true →
        inDram (x.program + 64) (4 * (progOps (bytesAt s x.program 64)).2)
          ∧ inDram ((progOf (bytesAt s x.program 64) []).schedEntry x.program (s.sweepStepNo engine)) 32)) :
    SweepReady s engine := by
  have hpeek : shardOf (s.peek (s.shardAddr engine (s.sweep engine).shard) 64 : PBytes).data = x := by
    rw [peek_of_resting hs hentry, data_clean]
    exact hx
  refine ⟨hwait, by simp [State.sweepFull, hstage], fun r hr => ?_⟩
  simp only [State.sweepNeeds, hstage, hpeek, hlisted, hfaultless, decide_true, Bool.not_true, Bool.or_self, Bool.false_eq_true,
    if_false] at hr
  split at hr
  · rw [List.mem_singleton.1 hr]
    exact hentry
  · next hgood =>
    simp only [Bool.or_eq_true, decide_eq_true_eq, Bool.not_eq_true', not_or, Bool.not_eq_false] at hgood
    obtain ⟨hprog, hparts⟩ := hneeds hgood.2 hgood.1
    rw [peek_of_resting hs hprog, data_clean] at hr
    rcases List.mem_append.1 hr with hr | hr
    · rcases List.mem_pair.1 hr with rfl | rfl
      · exact hentry
      · exact hprog
    · split at hr
      · cases hr
      · next hok =>
        obtain ⟨hops, hrow⟩ := hparts (by simpa using hok)
        rcases List.mem_pair.1 hr with rfl | rfl
        · exact hops
        · exact hrow

end

/-- The step of a check, by what the shard's descriptor and its program's check say. -/
theorem checkStep_outcome : ∃ t, SweepReads engine s t
    ∧ ((shardOf (s.entryBytes engine)).valid = false → s.checkStep engine = t.leaveShard engine 4 .check)
    ∧ ((shardOf (s.entryBytes engine)).valid = true →
      ((shardOf (s.entryBytes engine)).elements = 0 →
        s.checkStep engine = t.setSweep engine { s.sweep engine with shard := (s.sweep engine).shard + 1 })
      ∧ ((shardOf (s.entryBytes engine)).elements ≠ 0 →
        (∀ u code, t.checkProgram engine (shardOf (s.entryBytes engine)).program = (u, some code) →
          s.checkStep engine = u.leaveShard engine code .check)
        ∧ ∀ u, t.checkProgram engine (shardOf (s.entryBytes engine)).program = (u, none) →
          s.checkStep engine = u.setSweep engine
            { u.sweep engine with stage := .moment 0, shardFlags := .none, desc := s.entryBytes engine })) := by
  obtain ⟨t, hread, ht⟩ := sweepRead_of_resting hs engine.isLt hentry
  refine ⟨t, ht, ?_⟩
  unfold State.checkStep
  dsimp only
  rw [if_neg (Nat.not_le.2 hlisted), hfaultless, if_neg Bool.false_ne_true, hread]
  dsimp only
  rw [data_clean, anyPoison_clean, if_neg Bool.false_ne_true, ← State.entryBytes]
  refine ⟨fun hvalid => ?_, fun hvalid => ⟨fun hnone => ?_, fun hsome => ⟨fun u code hu => ?_, fun u hu => ?_⟩⟩⟩
  · rw [hvalid]
    rfl
  · simp [hvalid, hnone]
  · simp [hvalid, hsome, hu]
  · simp [hvalid, hsome, hu]

include hactive hwait hx

/-- The clauses of O44 on a check. -/
theorem checkClauses (hstage : (s.sweep engine).stage = .check) :
    let y := s.sweep engine
    let step := s.sweepStepNo engine
    let h := bytesAt s x.program 64
    let os := bytesAt s (x.program + 64) (4 * (progOps h).2)
    let p := progOf h os
    (x.valid = false → SweepMoved s engine (y.left 4 .check) fun t => t.mem = s.mem ∧ SweepCounted s engine 0x180 1 t) ∧
    (x.valid = true → x.elements = 0 → SweepMoved s engine { y with shard := y.shard + 1 } fun t => t.mem = s.mem) ∧
    (x.valid = true → x.elements ≠ 0 → inDram x.program 64 →
      (progHeaderOk h = false → SweepMoved s engine (y.left 3 .check) fun t => t.mem = s.mem) ∧
      (progHeaderOk h = true → progRange x.program h = false →
        inDram (x.program + 64) (4 * (progOps h).2) → inDram (p.schedEntry x.program step) 32 →
        SweepMoved s engine (y.left 4 .check) fun t => t.mem = s.mem) ∧
      (progHeaderOk h = true → progRange x.program h = true → p.opsOk = true →
        SweepMoved s engine
          { y with
            stage := .moment 0, shardFlags := .none, desc := s.entryBytes engine, prog := h ++ os
            row := if step = 0 then [] else bytesAt s (p.schedEntry x.program step) 32 }
          fun t => t.mem = s.mem)) := by
  obtain ⟨t, ht, hinvalid, hvalidStep⟩ := checkStep_outcome hs hlisted hentry hfaultless
  have hready := sweepReady_check hwait hs hlisted hentry hfaultless hx hstage
  rw [hx] at hinvalid hvalidStep
  have hrest := ht.resting hs
  refine ⟨fun hvalid => ?_, fun hvalid hnone => ?_, fun hvalid hsome hprog => ⟨fun hok => ?_, fun hok hrange hops hrow => ?_,
    fun hok hrange hgood => ?_⟩⟩
  · have hmove := (hready fun h => absurd h (by simp [hvalid])).check hstage
    rw [hinvalid hvalid] at hmove
    refine sweepMoved_of_move hactive hmove (by rw [sweep_leaveShard, ht.sweep_eq]) ((ht.frame hs).leaveShard ..)
      ⟨by rw [mem_leaveShard, ht.mem_eq], ?_⟩
    rw [← ht.sweep_eq engine] at hfaultless
    exact (counter_leaveShard hfaultless ..).trans (congrArg (· + _) (ht.counts 0x180 (by decide) (by decide)))
  · have hmove := (hready fun _ h => absurd hnone h).check hstage
    rw [(hvalidStep hvalid).1 hnone] at hmove
    exact sweepMoved_of_set hactive hs ht hmove
  · have hmove := (hready fun _ _ => ⟨hprog, fun h => absurd h (by simp [hok])⟩).check hstage
    rw [← ht.bytesAt_eq] at hok
    obtain ⟨u, hu, hmore⟩ := checkProgram_of_bad_header hrest engine.isLt hprog hok
    rw [((hvalidStep hvalid).2 hsome).1 u 3 hu] at hmove
    exact sweepMoved_of_leave hactive hs (ht.trans hmore) hmove
  · have hmove := (hready fun _ _ => ⟨hprog, fun _ => ⟨hops, hrow⟩⟩).check hstage
    rw [← ht.bytesAt_eq] at hok hrange
    obtain ⟨u, hu, hmore⟩ := checkProgram_of_bad_range hrest engine.isLt hprog hok hrange
    rw [((hvalidStep hvalid).2 hsome).1 u 4 hu] at hmove
    exact sweepMoved_of_leave hactive hs (ht.trans hmore) hmove
  · have hmove := (hready fun _ _ => ⟨hprog, fun _ => inDram_parts_of_progRange hprog hok hrange _⟩).check hstage
    simp only [← ht.bytesAt_eq] at hok hrange hgood ⊢
    obtain ⟨u, hu, hread⟩ := checkProgram_of_good hrest engine.isLt hprog hok hrange hgood
    rw [((hvalidStep hvalid).2 hsome).2 u hu] at hmove
    refine sweepMoved_of_move hactive hmove ?_ (((ht.frame hs).trans hread.frame).setSweep _) (hread.mem.trans ht.mem_eq)
    rw [sweep_setSweep_same, hread.sweep, ht.sweep_eq, ht.stepNo_eq hs]

end

end Sys2Proof.Machine
end

section
/-! A sweep run from its start token to its end, the commands beside it, and O44 (R234, R235, R243, R246, R251). -/

namespace Sys2Proof.Machine

/-- From `s` to `t` engine `i` becomes `z`, and nothing else changes. -/
def OnlySweep (s t : State) (i : Nat) (z : Sweep) : Prop :=
  t = { s with sweeps := t.sweeps } ∧ t.sweep i = z ∧ ∀ j, j ≠ i → t.sweep j = s.sweep j

theorem onlySweep_setSweep (s : State) (i : Nat) (z : Sweep) : OnlySweep s (s.setSweep i z) i z :=
  ⟨rfl, sweep_setSweep_same .., fun j hj => sweep_setSweep_ne s i j z hj⟩

/-! ### When SWEEP_RUN moves nothing -/

section
variable {s : State} {engine : Ix16}

theorem exec_sweepRun_of_inactive (h : s.sweepActive engine = false) (n : Nat) : exec (.sweepRun engine n) s = .next s :=
  if_neg (by simp [h])

theorem exec_scaleRecheck_of_inactive (h : s.sweepActive engine = false) : exec (.scaleRecheck engine) s = .next s :=
  if_pos (by simp [h])

theorem exec_sweepRun_zero (s : State) (engine : Ix16) : exec (.sweepRun engine 0) s = .next s := ite_self _

theorem sweepReady_idle (hwait : (s.sweep engine).scaleWait = false) (hstage : (s.sweep engine).stage = .idle) :
    SweepReady s engine :=
  ⟨hwait, by simp [State.sweepFull, hstage], fun r hr => by simp [State.sweepNeeds, hstage] at hr⟩

theorem exec_sweepRun_of_waiting (hstage : (s.sweep engine).stage = .idle) (hgrant : (s.sweep engine).granted = false) (n : Nat) :
    exec (.sweepRun engine n) s = .next s := by
  have hnone : s.sweepMove engine = none := by
    cases hwait : (s.sweep engine).scaleWait with
    | true => simp [State.sweepMove, hwait]
    | false =>
      have hready := sweepReady_idle hwait hstage
      simp [State.sweepMove, hwait, hready.full, hready.stalls, hstage, hgrant]
  have hmoves : s.sweepMoves n engine = s := by
    cases n with
    | zero => rfl
    | succ n => rw [State.sweepMoves, hnone]
  show (if s.sweepActive engine then _ else _) = _
  rw [hmoves, ite_self]

end

/-! ### The end of a run (R234) -/

/-- The registers after a run: the step register goes on unless a shard has faulted. -/
def State.stepped (s : State) (i : Nat) : State :=
  if (s.sweep i).shardFault then s else s.setFld (bSwp i) 0x118 0 32 ((s.sweepStepNo i + 1) % 2 ^ 32)

/-- The tokens of a run's end: the done token is signalled, the start token awaited. -/
def State.endTokens (s : State) (i : Nat) : List TokMsg :=
  [.signal (agSweep i) (BitVec.ofNat 16 (s.fld (bSwp i) 0x110 16 16)) 1,
    .wait (agSweep i) (BitVec.ofNat 16 (s.fld (bSwp i) 0x110 0 16)) 1]

theorem stepped_eq (s : State) (i : Nat) : s.stepped i = { s with regs := (s.stepped i).regs } := by
  unfold State.stepped
  split <;> rfl

/-- The step register is not the one that names the tokens. -/
theorem fld_stepped (s : State) (i lo len : Nat) : (s.stepped i).fld (bSwp i) 0x110 lo len = s.fld (bSwp i) 0x110 lo len := by
  unfold State.stepped
  split
  · rfl
  · rw [State.fld, State.setFld, reg_setReg_ne _ _ _ _ _ _ (by unfold regKey; omega), State.fld]

/-- From `s` to `t` engine `i` becomes `z` and sends the messages `ms`; packets on their way may change. -/
def SweepSends (s t : State) (i : Nat) (z : Sweep) (ms : List TokMsg) : Prop :=
  t = { s with sweeps := t.sweeps, sendq := t.sendq, tokMsgs := s.tokMsgs ++ ms } ∧ t.sweep i = z
    ∧ ∀ j, j ≠ i → t.sweep j = s.sweep j

theorem sweepSends_sendToken (s : State) (i : Nat) (z : Sweep) (m : TokMsg) :
    SweepSends s ((s.setSweep i z).sendToken m) i z [m] := by
  have hsweep : ∀ j, ((s.setSweep i z).sendToken m).sweep j = (s.setSweep i z).sweep j := fun j => by
    rw [sendToken_eq]
    rfl
  refine ⟨?_, (hsweep i).trans (sweep_setSweep_same ..), fun j hj => (hsweep j).trans (sweep_setSweep_ne _ _ _ _ hj)⟩
  rw [sendToken_eq]
  rfl

theorem SweepSends.trans {s t u : State} {i : Nat} {z z' : Sweep} {ms ms' : List TokMsg} (h : SweepSends s t i z ms)
    (h' : SweepSends t u i z' ms') : SweepSends s u i z' (ms ++ ms') := by
  obtain ⟨ht, -, hothers⟩ := h
  obtain ⟨hu, hsweep, hothers'⟩ := h'
  refine ⟨?_, hsweep, fun j hj => (hothers' j hj).trans (hothers j hj)⟩
  rw [hu, ht, ← List.append_assoc]

/-- The end of a run is the step's advance, then the two tokens. -/
theorem sweepSends_endRun (s : State) (i : Nat) :
    SweepSends (s.stepped i) (s.endRun i) i
      { s.sweep i with
        lastStep := BitVec.ofNat 32 (s.sweepStepNo i), granted := false, waiting := true, running := false, stage := .idle }
      (s.endTokens i) := by
  have hstep : (if (s.sweep i).shardFault then
        s.setSweep i { s.sweep i with lastStep := BitVec.ofNat 32 (s.sweepStepNo i), granted := false }
      else (s.setSweep i { s.sweep i with lastStep := BitVec.ofNat 32 (s.sweepStepNo i), granted := false }).setFld (bSwp i) 0x118
        0 32 ((s.sweepStepNo i + 1) % 2 ^ 32))
      = (s.stepped i).setSweep i { s.sweep i with lastStep := BitVec.ofNat 32 (s.sweepStepNo i), granted := false } := by
    unfold State.stepped
    split <;> rfl
  have hsignal := sweepSends_sendToken (s.stepped i) i
    { s.sweep i with lastStep := BitVec.ofNat 32 (s.sweepStepNo i), granted := false }
    (.signal (agSweep i) (BitVec.ofNat 16 (s.fld (bSwp i) 0x110 16 16)) 1)
  unfold State.endRun
  dsimp only
  rw [hstep]
  generalize State.sendToken _ _ = u at hsignal ⊢
  obtain ⟨hu, hsweep, -⟩ := id hsignal
  have hstart : u.fld (bSwp i) 0x110 0 16 = s.fld (bSwp i) 0x110 0 16 := by
    rw [hu]
    exact fld_stepped s i 0 16
  have hwaits := sweepSends_sendToken u i { u.sweep i with waiting := true, running := false, stage := .idle }
    (.wait (agSweep i) (BitVec.ofNat 16 (s.fld (bSwp i) 0x110 0 16)) 1)
  rw [State.sweepWaits, hstart]
  rw [hsweep] at hwaits ⊢
  exact hsignal.trans hwaits

/-! ### Start and ends of a run's stages (R234, R237) -/

section
variable {s : State} {engine : Ix16} (hactive : s.sweepActive engine = true) (hwait : (s.sweep engine).scaleWait = false)
include hactive hwait

theorem startClause (hstage : (s.sweep engine).stage = .idle) (hgrant : (s.sweep engine).granted = true) :
    ∃ t, exec (.sweepRun engine 1) s = .next t ∧ OnlySweep s t engine { s.sweep engine with
      granted := false, running := true, stage := .commits, shard := 0, shardFault := false, faulted := []
      faultShard := 0, faultCode := 0 } := by
  have hready := sweepReady_idle hwait hstage
  refine ⟨_, exec_sweepRun_one hactive, ?_⟩
  simp only [State.sweepMove, hwait, hready.full, hready.stalls, hstage, hgrant]
  exact onlySweep_setSweep ..

theorem commitsEndClause (hstage : (s.sweep engine).stage = .commits) (hend : s.listLen engine ≤ (s.sweep engine).shard) :
    ∃ t, exec (.sweepRun engine 1) s = .next t ∧ OnlySweep s t engine { s.sweep engine with shard := 0, stage := .check } := by
  have hready : SweepReady s engine :=
    ⟨hwait, by simp [State.sweepFull, hstage, Nat.not_lt.2 hend], fun r hr => by
      simp [State.sweepNeeds, hstage, Nat.not_lt.2 hend] at hr⟩
  refine ⟨_, exec_sweepRun_one hactive, ?_⟩
  rw [hready.commits hstage, State.commitStep, if_pos hend]
  exact onlySweep_setSweep ..

theorem checksEndClause (hstage : (s.sweep engine).stage = .check) (hend : s.listLen engine ≤ (s.sweep engine).shard) :
    let y := s.sweep engine
    let step := s.sweepStepNo engine
    ∃ t, exec (.sweepRun engine 1) s = .next t
      ∧ t = { s with sweeps := t.sweeps, regs := t.regs, sendq := t.sendq, tokMsgs := s.tokMsgs ++ s.endTokens engine }
      ∧ t.sweep engine = { y with
          lastStep := BitVec.ofNat 32 step, granted := false, waiting := true, running := false, stage := .idle }
      ∧ (∀ j, j ≠ (engine : Nat) → t.sweep j = s.sweep j)
      ∧ (y.shardFault = true → t.regs = s.regs)
      ∧ (y.shardFault = false → t.fld (bSwp engine) 0x118 0 32 = (step + 1) % 2 ^ 32) := by
  have hready : SweepReady s engine :=
    ⟨hwait, by simp [State.sweepFull, hstage], fun r hr => by simp [State.sweepNeeds, hstage, Nat.not_lt.2 hend] at hr⟩
  obtain ⟨heq, hsweep, hothers⟩ := sweepSends_endRun s engine
  have hregs : (s.endRun engine).regs = (s.stepped engine).regs := by rw [heq]
  have hstepped : ∀ j, (s.stepped engine).sweep j = s.sweep j := fun j => by
    rw [stepped_eq]
    rfl
  refine ⟨s.endRun engine, ?_, ?_, hsweep, fun j hj => (hothers j hj).trans (hstepped j), fun hfault => ?_, fun hfault => ?_⟩
  · rw [exec_sweepRun_one hactive, hready.check hstage, State.checkStep, if_pos hend]
    rfl
  · rw [hregs]
    refine heq.trans ?_
    rw [stepped_eq]
  · rw [hregs, State.stepped, if_pos hfault]
  · have hfld : (s.endRun engine).fld (bSwp engine) 0x118 0 32 = (s.stepped engine).fld (bSwp engine) 0x118 0 32 := by
      unfold State.fld State.reg
      rw [hregs]
    rw [hfld, State.stepped, if_neg (by simp [hfault])]
    exact fld_setFld_same _ _ _ _ _ _ (by decide) (Nat.mod_lt _ (by decide))

end

/-! ### The commands beside the run (R243, R251) -/

theorem exec_sweepWaitLong_of_due {s : State} {engine : Ix16} (hwait : (s.sweep engine).scaleWait = true)
    (hnew : (s.sweep engine).waitLong = false) (hlimit : s.fld (bSwp engine) 0x108 32 16 ≠ 0)
    (hlong : (s.sweep engine).waitSince + s.fld (bSwp engine) 0x108 32 16 ≤ s.elapsed) :
    ∃ t, exec (.sweepWaitLong engine) s = .next t ∧ t.sweep engine = { s.sweep engine with waitLong := true }
      ∧ t = { s with sweeps := t.sweeps, sheets := t.sheets, counters := t.counters } := by
  refine ⟨_, if_pos (by simp [hwait, hnew, hlimit, hlong]), ?_, ?_⟩
  all_goals rw [record_eq]
  · exact sweep_setSweep_same ..
  · rfl

theorem exec_sweepWaitLong_of_not_due {s : State} {engine : Ix16} (h : (s.sweep engine).scaleWait = false
    ∨ (s.sweep engine).waitLong = true ∨ s.fld (bSwp engine) 0x108 32 16 = 0
    ∨ s.elapsed < (s.sweep engine).waitSince + s.fld (bSwp engine) 0x108 32 16) :
    exec (.sweepWaitLong engine) s = .next s := by
  refine if_neg fun hacts => ?_
  simp only [Bool.and_eq_true, Bool.not_eq_true', bne_iff_ne, decide_eq_true_eq] at hacts
  obtain ⟨⟨⟨hwait, hnew⟩, hlimit⟩, hlong⟩ := hacts
  rcases h with h | h | h | h
  · simp [h] at hwait
  · simp [h] at hnew
  · exact hlimit h
  · exact Nat.not_lt.2 hlong h

section
variable {s : State} {engine : Ix16}

theorem exec_scaleRecheck_of_no_wait (h : (s.sweep engine).scaleWait = false) : exec (.scaleRecheck engine) s = .next s :=
  if_pos (by simp [h])

variable (hactive : s.sweepActive engine = true) (hwait : (s.sweep engine).scaleWait = true)
include hactive hwait

theorem exec_scaleRecheck_of_stalls (h : s.sweepStalls engine = true) :
    exec (.scaleRecheck engine) s = .next (s.hostStall (sweepWho engine)) :=
  (if_neg (by simp [hactive, hwait])).trans (if_pos h)

/-- A record that has come, good and clean: the working copy begins if it carries the step's stamp, else the wait goes on. -/
theorem scaleRecheckClause (hstalls : s.sweepStalls engine = false) (hscale : (s.sweep engine).shardNow.needsScale = true)
    (hclean : (s.sweepRead engine (s.sweep engine).shardNow.scale 128).2.anyPoison = false)
    (hok : scaleRecordOk (s.sweepRead engine (s.sweep engine).shardNow.scale 128).2.data = true) :
    let y := s.sweep engine
    let r := (s.sweepRead engine y.shardNow.scale 128).2
    ∃ t, exec (.scaleRecheck engine) s = .next t ∧ (∀ j, j ≠ (engine : Nat) → t.sweep j = s.sweep j)
      ∧ t.sweep engine = if fieldLe r.data 0 4 = s.sweepStepNo engine then
          { y with stage := .working 0, scaleWait := false, waitLong := false, record := r.data }
        else { y with stage := .scaleWait } := by
  intro y r
  have haccess : FabricAccess s (s.sweepRead engine y.shardNow.scale 128).1 := by
    have hrun := (FabricAccess.refl s).readRun (sweepWho engine) y.shardNow.scale 128
    exact FabricAccess.ite _ (hrun.count ..) hrun
  have hsame : (s.sweepRead engine y.shardNow.scale 128).1.sweep engine = y := haccess.sweep_eq _
  have henter : exec (.scaleRecheck engine) s = match s.enterWorking engine y.shardNow with
      | .stay s1 => .next s1
      | .fault code s1 => .next (s1.leaveShard engine code .check)
      | .go s1 => .next s1 :=
    (if_neg (by simp [hactive, hwait])).trans (if_neg (by simp [hstalls]))
  have hothers : ∀ (z : Sweep) (j : Nat), j ≠ (engine : Nat) →
      ((s.sweepRead engine y.shardNow.scale 128).1.setSweep engine z).sweep j = s.sweep j := fun z j hj =>
    (sweep_setSweep_ne _ _ _ _ hj).trans (haccess.sweep_eq j)
  have hrecord : s.enterWorking engine y.shardNow = if fieldLe r.data 0 4 = s.sweepStepNo engine then
        .go ((s.sweepRead engine y.shardNow.scale 128).1.setSweep engine
          { y with stage := .working 0, scaleWait := false, waitLong := false, record := r.data })
      else .stay ((s.sweepRead engine y.shardNow.scale 128).1.setSweep engine { y with stage := .scaleWait }) := by
    have hgoes : { y with stage := .scaleWait } = { y with
        stage := .scaleWait, scaleWait := true, waitSince := if y.scaleWait then y.waitSince else s.elapsed } := by
      simp [y, hwait]
    rw [State.enterWorking, if_neg (by simp [y, hscale])]
    dsimp only
    rw [if_neg (by simp [y, hclean]), if_neg (by simp [y, hok]), hsame, hgoes]
  rw [henter, hrecord]
  split_ifs with hstamp
  · exact ⟨_, rfl, hothers _, sweep_setSweep_same ..⟩
  · exact ⟨_, rfl, hothers _, sweep_setSweep_same ..⟩

end

end Sys2Proof.Machine
end

section
/-! O44: the course of a sweep run (R225 to R251). -/

namespace Sys2Proof.Machine

/-- Settles O44, clause by clause: a run's start and ends first, then the moves on a shard with memory at rest, then the
commands beside the run. -/
theorem sweepRunsMoveOn : Obligations.SweepRunsMoveOn := by
  unfold Obligations.SweepRunsMoveOn
  intro s engine
  refine ⟨fun n h => ⟨exec_sweepRun_of_inactive h n, exec_scaleRecheck_of_inactive h⟩, exec_sweepRun_zero s engine,
    fun n hstage hgrant => exec_sweepRun_of_waiting hstage hgrant n, fun hactive hwait => ?course,
    fun hactive hwait hquiet => ?moves, exec_scaleRecheck_of_no_wait, exec_scaleRecheck_of_stalls,
    scaleRecheckClause, ⟨exec_sweepWaitLong_of_due, exec_sweepWaitLong_of_not_due⟩,
    fun tensor => ⟨_, rfl, onlySweep_setSweep ..⟩⟩
  case course => exact ⟨startClause hactive hwait, commitsEndClause hactive hwait, checksEndClause hactive hwait⟩
  case moves =>
    have hs := resting_of_quiet hquiet
    refine ⟨fun hlisted hentry => ⟨commitClauses hactive hwait hs hlisted hentry rfl,
      fun hstage hfaultless => checkClauses hactive hwait hs hlisted hentry hfaultless rfl hstage⟩,
      fun hvalid hmaster hmoment => ⟨fun l hstage hl => ?_, fun l hstage hl => ?_, scaleWaitClause hactive hwait hs rfl,
        fun c hstage => workingClauses hactive hwait hs rfl hmaster hstage, fun hstage hstatus hslot => ?_⟩⟩
    · exact momentClauses hactive hwait hs rfl hmaster hmoment hvalid hstage hl
    · exact weightClauses hactive hwait hs rfl hmaster hmoment hstage hl
    · obtain ⟨t, hrun, hsweep, hothers, htokens, hcores, hregs, hflash, hcount, hbytes⟩ :=
        finishClause hactive hwait hs rfl hmaster hstage hstatus hslot
      exact ⟨t, hrun, hsweep, hothers, htokens, hcores, hregs, hflash, hcount, hbytes.stamp, hbytes.flags, hbytes.status,
        hbytes.pending, hbytes.others⟩

end Sys2Proof.Machine
end

section
/-! Why O51 fails. An agent that finds no way in its set sends nothing, and `State.agentSends` then gives back the state that it
was given, while the statement wants the one in which room has been looked for (log entry 29). The two differ where a held line
leaves and its way is still not enough: one line held and eight on their way, in a set of eight ways. -/

namespace Sys2Proof.Machine

/-- Core 0's requests for the lines 128, 192, … of set 0 are on their way, eight in all. -/
def eightOnTheirWay : List Retried :=
  (List.range 8).map fun k =>
    { home := 0, line := 64 * (k + 2), req := .rds, src := .agent 0, data := [], mask := 0, age := 0, sent := true }

/-- The data cache of core 0 holds line 64 in S, and its set waits for eight lines more. -/
def crowdedSet : State :=
  { State.reset with
    sites := [(0, { Site.reset with status := .service, railOn := true })]
    lines := [(agentKey 0 64, { HeldLine.reset with st := .S })]
    retried := eightOnTheirWay }

/-- A core's only line of a set leaves it where it is held in S and the set is full. -/
theorem cacheRoom_of_one {s : State} {agent line out n : Nat} (hcore : agent < 416) (hset : s.cacheSet agent line = ([out], n))
    (hfull : cacheWays agent ≤ n) (hheld : (s.held1 agent out).st = .S) :
    s.cacheRoom agent line = { s with fresh := s.fresh + 1 }.setHeld1 agent out .reset := by
  have hout (v : Nat) : [out].getD (v % [out].length) line = out := by simp [Nat.mod_one]
  have hstores : { s with fresh := s.fresh + 1 }.ownStores agent out = { s with fresh := s.fresh + 1 } := if_pos (.inl hcore)
  have hst : ({ s with fresh := s.fresh + 1 }.held1 agent out).st = .S := hheld
  have hno : ¬ (1 + n < cacheWays agent) := by omega
  simp [State.cacheRoom, State.free, hset, hstores, hst, hno, Nat.mod_one]

/-- Room is looked for in the crowded set, and its held line leaves. -/
theorem crowdedSet_cacheRoom :
    crowdedSet.cacheRoom 0 0 = { crowdedSet with fresh := 1 }.setHeld1 0 64 .reset :=
  cacheRoom_of_one (by decide) (by decide +kernel : crowdedSet.cacheSet 0 0 = ([64], 8)) (by decide) (by decide +kernel)

/-- There is none after that. -/
theorem crowdedSet_noRoom : (crowdedSet.cacheRoom 0 0).cacheHasRoom 0 0 = false := by
  rw [crowdedSet_cacheRoom]
  decide +kernel

theorem crowdedSet_rds : exec (.rds 0 0) crowdedSet = .next crowdedSet := by
  have hlive : crowdedSet.agentLive 0 = true := by decide +kernel
  have hinvalid : (crowdedSet.held1 0 0).st = .I := by decide +kernel
  have hsite : crowdedSet.fromQuarantine (.agent 0) = none := by decide +kernel
  show Host.Outcome.next (crowdedSet.agentRequest 0 0 .rds) = _
  simp [State.agentRequest, State.agentSends, hlive, hinvalid, hsite, crowdedSet_noRoom]

/-- Refutes O51: RDS by core 0 of line 0 leaves `crowdedSet` as it is, where the statement wants the state without the line that
has left. -/
theorem not_coherentRequestsAtAnIdleLine : ¬ Obligations.CoherentRequestsAtAnIdleLine := by
  unfold Obligations.CoherentRequestsAtAnIdleLine
  intro h
  obtain ⟨-, -, -, hidle, -, -⟩ := h crowdedSet 0 0
  obtain ⟨-, hcrowded, -⟩ := hidle ⟨by decide +kernel, ⟨rfl, rfl⟩, by decide +kernel, rfl, rfl, by decide +kernel, rfl⟩
    (by decide +kernel)
  obtain ⟨hrds, -⟩ := hcrowded (by decide +kernel) crowdedSet_noRoom
  have hsame : crowdedSet = crowdedSet.cacheRoom 0 0 := by
    injection crowdedSet_rds.symm.trans hrds
  rw [crowdedSet_cacheRoom] at hsame
  exact absurd (congrArg State.fresh hsame) (by decide)

end Sys2Proof.Machine
end

section
/-! Why O47 fails. Isolating a site answers the snoops that its dead cores still owe (R310), and a transaction that waited for
one of them then gives its line to the agent that asked. The model lists the lines that agents hold under line · 512 + agent,
and the numbers of R509 end below 512, so a transaction in the name of agent 519, which no agent of the device has but the
statement admits, gives line 0 under the key of agent 7's line 1: a core of the isolated site then holds a line. -/

namespace Sys2Proof.Machine

/-- Agent 519 waits for line 0 and for the answer of core 7 of site 0. -/
def owedByCore7 : Txn :=
  { newTxn 0 .rdu (.agent 519) [] 0 false with started := true, snoops := [(7, .snpU)] }

/-- The directory of every home is being walked, and home 0 waits for core 7. -/
def walkingHomes : Map Home :=
  (List.range 72).map fun h => (h, { Home.reset with reclaiming := true, txns := if h = homeOf 0 then [owedByCore7] else [] })

/-- Site 0 is in service while core 7 of it owes home 0 an answer. -/
def owingSite : State :=
  { State.reset with sites := [(0, { Site.reset with status := .service, railOn := true })], homes := walkingHomes }

/-- The same, with the site quarantined and its cores not yet declared dead. -/
def owingSiteLeft : State := { owingSite with sites := [(0, { Site.reset with status := .quarantined })] }

/-- The deaths of the other cores change nothing. -/
theorem owingSiteLeft_declareDead : ∀ c < 7, owingSiteLeft.declareDead c = owingSiteLeft := by
  decide +kernel

theorem owingSiteLeft_abandonSite : owingSiteLeft.abandonSite 0 = owingSiteLeft.declareDead 7 := by
  have hwaits : (owingSiteLeft.siteAgents 0).foldl State.removeWaits owingSiteLeft = owingSiteLeft := by decide +kernel
  simp [State.abandonSite, hwaits, show siteCores 0 = [0, 1, 2, 3, 4, 5, 6, 7] from rfl, owingSiteLeft_declareDead]

/-- Isolating a site not quarantined, stage by stage (R271, R272). -/
theorem quarantine_of_not_quarantined {s : State} {i : Nat} (hserves : (s.site i).status ≠ .quarantined) (cause : Nat) :
    s.quarantine i cause
      = (((((s.dropPackets i).setSite i { s.site i with
            status := .quarantined, cause := BitVec.ofNat 2 cause, railOn := false, resetting := false, packetSeen := false
          }).abandonSite i).bondsDown i false).noteSite i).record bSite 0x0208 i cause (s.site i).incarnation.toNat :=
  if_neg hserves

theorem held1_record (s : State) (blk code unit arg0 arg1 agent line : Nat) :
    (s.record blk code unit arg0 arg1).held1 agent line = s.held1 agent line := by
  rw [record_eq]
  rfl

/-- After QUARANTINE of site 0 its core 7 holds line 1. -/
theorem owingSite_quarantine : ((owingSite.quarantine 0 0).held1 7 1).st = .E := by
  have hleft : (owingSite.dropPackets 0).setSite 0 { owingSite.site 0 with
      status := .quarantined, cause := BitVec.ofNat 2 0, railOn := false, resetting := false, packetSeen := false }
      = owingSiteLeft := by
    decide +kernel
  have hserves : (owingSite.site 0).status ≠ .quarantined := by decide +kernel
  have hgiven : ((((owingSiteLeft.declareDead 7).bondsDown 0 false).noteSite 0).held1 7 1).st = .E := by decide +kernel
  rw [quarantine_of_not_quarantined hserves, hleft, owingSiteLeft_abandonSite, held1_record, hgiven]

/-- Refutes O47: QUARANTINE of site 0 leaves a line with a core of it, where the statement wants every line of its cores
in I. -/
theorem not_sitesLeaveAndReturn : ¬ Obligations.SitesLeaveAndReturn := by
  unfold Obligations.SitesLeaveAndReturn
  intro h
  obtain ⟨hleave, -⟩ := h owingSite 0
  obtain ⟨⟨t, hexec, ⟨-, -, -, hinvalid, -, -⟩, -⟩, -⟩ := hleave (by decide +kernel)
  have hrun : exec (.quarantine 0) owingSite = .next (owingSite.quarantine 0 0) := rfl
  injection hrun.symm.trans hexec with hend
  subst hend
  exact absurd (owingSite_quarantine.symm.trans (hinvalid 7 1 (by decide))) (by decide)

end Sys2Proof.Machine
end

section
/-! What the accesses of the device's units never reach, whatever they meet, bit errors included: the registers of the save engine
and the count of its saves (R280, R285 to R311, R330 to R335). -/

namespace Sys2Proof.Machine

/-- From `s` to `t` the save engine's registers and the counters at offset 0x208 stay. -/
structure SparesSave (s t : State) : Prop where
  regs : ∀ off, off < 65536 → t.reg bSav off = s.reg bSav off
  counts : ∀ n, t.counter n 0x208 = s.counter n 0x208

namespace SparesSave

variable {s t u : State}

theorem refl (s : State) : SparesSave s s := ⟨fun _ _ => rfl, fun _ => rfl⟩

theorem trans (h : SparesSave s t) (k : SparesSave t u) : SparesSave s u :=
  ⟨fun off hoff => (k.regs off hoff).trans (h.regs off hoff), fun n => (k.counts n).trans (h.counts n)⟩

/-- A step that changes neither registers nor counters. -/
theorem other (h : SparesSave s t) (hregs : u.regs = t.regs) (hcounters : u.counters = t.counters) :
    SparesSave s u :=
  h.trans ⟨fun _ _ => by rw [State.reg, hregs]; rfl, fun _ => by rw [State.counter, hcounters]; rfl⟩

theorem ite (p : Prop) [Decidable p] (ht : SparesSave s t) (hu : SparesSave s u) : SparesSave s (if p then t else u) := by
  split <;> assumption

theorem foldl {β : Type} {g : State → β → State} (h : SparesSave s t) (l : List β)
    (hg : ∀ {v : State} (x : β), SparesSave s v → SparesSave s (g v x)) : SparesSave s (l.foldl g t) :=
  List.foldlRecOn (motive := SparesSave s) l _ h fun _ hacc x _ => hg x hacc

theorem foldlFst {α β : Type} {g : State × α → β → State × α} {a : α} (h : SparesSave s t) (l : List β)
    (hg : ∀ {p : State × α} (x : β), SparesSave s p.1 → SparesSave s (g p x).1) : SparesSave s (l.foldl g (t, a)).1 :=
  List.foldlRecOn (motive := fun p : State × α => SparesSave s p.1) l _ h fun _ hacc x _ => hg x hacc

theorem setHeld1 (h : SparesSave s t) (agent line : Nat) (x : HeldLine) : SparesSave s (t.setHeld1 agent line x) := h.other rfl rfl

theorem setDir (h : SparesSave s t) (line : Nat) (d : DirEntry) : SparesSave s (t.setDir line d) := h.other rfl rfl

theorem setHome (h : SparesSave s t) (n : Nat) (x : Home) : SparesSave s (t.setHome n x) := h.other rfl rfl

theorem emit (h : SparesSave s t) (o : Output) : SparesSave s (t.emit o) := h.other rfl rfl

theorem writeKey (h : SparesSave s t) (key : Nat) (bs : PBytes) (keep : Bool) : SparesSave s (t.writeKey key bs keep) :=
  h.other rfl rfl

theorem setSheet (h : SparesSave s t) (i : Nat) (x : Sheet) : SparesSave s (t.setSheet i x) := h.other rfl rfl

theorem setOnce (h : SparesSave s t) (l : List Nat) : SparesSave s { t with once := l } := h.other rfl rfl

theorem setUpsets (h : SparesSave s t) (m : Map (BitVec 144)) : SparesSave s { t with upsets := m } := h.other rfl rfl

theorem setRetried (h : SparesSave s t) (l : List Retried) : SparesSave s { t with retried := l } := h.other rfl rfl

theorem setDram (h : SparesSave s t) (c : Nat) (d : Dram) : SparesSave s (t.setDram c d) := h.other rfl rfl

theorem touchBank (h : SparesSave s t) (blk b : Nat) : SparesSave s (t.touchBank blk b) := h.other rfl rfl

theorem free (h : SparesSave s t) : SparesSave s t.free.2 := h.other rfl rfl

theorem newHeld (h : SparesSave s t) (agent line : Nat) : SparesSave s (t.newHeld agent line) := h.other rfl rfl

theorem poisonLine (h : SparesSave s t) (line : Nat) : SparesSave s (t.poisonLine line) := h.other rfl rfl

theorem egressWrite (h : SparesSave s t) (own : WriteOwner) (a : Nat) (bs : PBytes) : SparesSave s (t.egressWrite own a bs) :=
  h.other rfl rfl

theorem hostTakes (h : SparesSave s t) (line : Nat) (bs : PBytes) : SparesSave s (t.hostTakes line bs) := h.other rfl rfl

theorem count (h : SparesSave s t) (n : Nat) {off : Nat} (k : Nat) (hoff : decide (off < 0x208) = true) :
    SparesSave s (t.count n off k) := by
  have hbelow : off < 0x208 := of_decide_eq_true hoff
  exact h.trans ⟨fun _ _ => rfl, fun _ => counter_count_of_ne _ _ _ _ (by omega) (by norm_num) (by omega)⟩

/-- Registers of a DRAM controller's block are none of the save engine's. -/
theorem setReg (h : SparesSave s t) (c : Nat) {off : Nat} (v : Word64) (hoff : decide (off < 0x200) = true) :
    SparesSave s (t.setReg (dramBlock c) off v) := by
  have hbelow : off < 0x200 := of_decide_eq_true hoff
  refine h.trans ⟨fun o ho => reg_setReg_ne _ _ _ _ _ _ ?_, fun _ => rfl⟩
  unfold regKey dramBlock bHbm bLpx bSav
  split <;> omega

/-! ### Records and counters -/

theorem record (h : SparesSave s t) (blk code unit arg0 arg1 : Nat) : SparesSave s (t.record blk code unit arg0 arg1) :=
  ite _ (h.count _ _ rfl) (ite _ (h.setSheet ..) ((h.setSheet ..).count _ _ rfl))

theorem recordOnce (h : SparesSave s t) (blk code sub unit arg0 arg1 : Nat) :
    SparesSave s (t.recordOnce blk code sub unit arg0 arg1) := ite _ h ((h.setOnce _).record ..)

theorem refuseRows (h : SparesSave s t) (blk b who a n : Nat) : SparesSave s (t.refuseRows blk b who a n) :=
  ite _ h ((h.count _ _ rfl).recordOnce ..)

theorem refuseRow (h : SparesSave s t) (blk b who a : Nat) : SparesSave s (t.refuseRow blk b who a) := h.refuseRows ..

theorem unmappedLine (h : SparesSave s t) (who a : Nat) : SparesSave s (t.unmappedLine who a) := (h.count _ _ rfl).recordOnce ..

theorem countRequest (h : SparesSave s t) (home snoops forwards : Nat) : SparesSave s (t.countRequest home snoops forwards) := by
  have hone := h.count (bHome home) (off := 0x140) 1 rfl
  have hsnoops := ite (snoops = 0) hone (hone.count (bHome home) (off := 0x150) snoops rfl)
  exact ite _ hsnoops (hsnoops.count _ _ rfl)

theorem clusterCount (h : SparesSave s t) (core : Nat) {off : Nat} (k : Nat) (hoff : decide (off < 0x208) = true) :
    SparesSave s (t.clusterCount core off k) := h.foldl _ fun _ hv => hv.count _ _ hoff

/-! ### Packets on their way -/

theorem carry (h : SparesSave s t) (src dst : Node) (cls : Nat) (req : Option (Nat × Bool)) :
    SparesSave s (t.carry src dst cls req) := by
  rw [carry_eq]
  exact h.other rfl rfl

theorem lineSent (h : SparesSave s t) (agent line : Nat) : SparesSave s (t.lineSent agent line) :=
  carry (ite _ (h.clusterCount _ _ rfl) h) ..

theorem lineReceived (h : SparesSave s t) (agent line : Nat) : SparesSave s (t.lineReceived agent line) :=
  carry (ite _ (h.clusterCount _ _ rfl) h) ..

theorem routersCount (h : SparesSave s t) (who a k : Nat) (write : Bool) : SparesSave s (t.routersCount who a k write) := by
  have hend : ∀ (o : Option Nat) (p : Prop) [Decidable p] {v : State}, SparesSave s v →
      SparesSave s (match o with | some c => v.clusterCount c (if p then 0x1C8 else 0x1D0) k | none => v) ∧
      SparesSave s (match o with | some c => v.clusterCount c (if p then 0x1D0 else 0x1C8) k | none => v) := fun o p _ v hv => by
    cases o
    · exact ⟨hv, hv⟩
    · exact ⟨hv.clusterCount _ _ (by split <;> rfl), hv.clusterCount _ _ (by split <;> rfl)⟩
  exact ite _ h (hend _ _ (hend _ _ h).1).2

theorem dataMoved (h : SparesSave s t) (who a k : Nat) (write : Bool) : SparesSave s (t.dataMoved who a k write) := by
  unfold State.dataMoved
  split
  · exact h
  · exact h
  · exact ite _ ((h.routersCount ..).carry ..) ((h.routersCount ..).carry ..)

theorem arrive (h : SparesSave s t) (bs : PBytes) : SparesSave s (t.arrive bs).1 := by
  unfold State.arrive
  split
  · exact h
  · exact h.other rfl rfl

/-! ### Words with a bit error (R285, R330, R333) -/

theorem mendWord (h : SparesSave s t) (w : Nat) : SparesSave s (t.mendWord w).1 := by
  unfold State.mendWord
  split
  · exact h
  · exact h.other rfl rfl

theorem mendWords (h : SparesSave s t) (blk unit a : Nat) (ws : List Nat) : SparesSave s (t.mendWords blk unit a ws) := by
  refine ite _ h (h.foldl _ fun w hv => ?_)
  have hw := hv.mendWord w
  split
  · next heq => rwa [heq] at hw
  · next heq => rw [heq] at hw; exact hw.count _ _ rfl
  · next heq => rw [heq] at hw; exact (hw.count _ _ rfl).record ..

theorem mendCached (h : SparesSave s t) (blk unit line : Nat) : SparesSave s (t.mendCached blk unit line) :=
  ite _ ((h.mendWords ..).poisonLine _) (h.mendWords ..)

theorem pinCorrected (h : SparesSave s t) (c channel pin : Nat) : SparesSave s (t.pinCorrected c channel pin) := by
  have hpin := fun (d : Dram) (w : Word64) =>
    ((h.count (dramBlock c) (off := 0x150) 1 rfl).setDram c d).setReg c (off := 0x108) w rfl
  have hplace := fun d w v v' =>
    ite (c < 16) ((hpin d w).setReg c (off := 0x108) v rfl) ((hpin d w).setReg c (off := 0x108) v' rfl)
  exact ite _ ((hplace _ _ _ _).record ..) (hplace _ _ _ _)

theorem mendDramWord (h : SparesSave s t) (c channel w : Nat) (found : Bool × Bool) :
    SparesSave s (t.mendDramWord c channel w found).1 := by
  have hw := h.mendWord w
  unfold State.mendDramWord
  split
  · next heq => rwa [heq] at hw
  · next heq => rw [heq] at hw; exact hw.pinCorrected ..
  · next heq => rw [heq] at hw; exact (hw.count _ _ rfl).setReg _ _ rfl

theorem mendDram (h : SparesSave s t) (c channel line : Nat) : SparesSave s (t.mendDram c channel line) := by
  have hwords := h.foldlFst (a := (false, false)) (List.range 8)
    (g := fun acc i => acc.1.mendDramWord c channel (8 * line + i) acc.2) fun i hv => hv.mendDramWord ..
  exact ite _ h (ite _ (record (ite _ (hwords.count _ _ rfl) hwords) ..) (ite _ (hwords.count _ _ rfl) hwords))

theorem mendLine (h : SparesSave s t) (line : Nat) : SparesSave s (t.mendLine line) := by
  unfold State.mendLine
  refine ite _ h ?_
  dsimp only
  split
  · exact ite _ (h.mendCached ..) (h.mendDram ..)
  · exact ite _ (h.mendCached ..) (h.mendDram ..)
  · exact h.mendWords ..
  · exact h

theorem mendHeld (h : SparesSave s t) (agent line : Nat) : SparesSave s (t.mendHeld agent line) := by
  refine ite _ h (h.foldl _ fun w hv => ?_)
  split
  · exact hv
  · exact ite _ (((hv.setUpsets _).setHeld1 ..).record ..) ((hv.setUpsets _).setHeld1 ..)

/-! ### A home's copy and the caches beside it (R297, R298) -/

theorem homePut (h : SparesSave s t) (own : WriteOwner) (a : Nat) (bs : PBytes) (keep : Bool) :
    SparesSave s (t.homePut own a bs keep) := by
  unfold State.homePut
  split
  · exact h.egressWrite ..
  · exact writeKey (ite _ h (h.mendLine _)) ..

theorem llcPut (h : SparesSave s t) (line : Nat) (dirty : Bool) : SparesSave s (t.llcPut line dirty) := by
  have hdrop : ∀ {v : State} (l : Nat), SparesSave s v → SparesSave s (v.llcDrop l) := fun {v} l hv => by
    have hout : SparesSave s { v with llc := Map.erase v.llc l } := hv.other rfl rfl
    refine ite _ ?_ hout
    split
    · exact (hout.count _ _ rfl).count _ _ rfl
    · exact hout.count _ _ rfl
    · exact hout
  have hroom : SparesSave s (t.llcRoom line) := ite _ h (ite _ h (hdrop _ (h.other rfl rfl)))
  exact hroom.other rfl rfl

theorem memTraffic (h : SparesSave s t) (a k : Nat) (write first : Bool) : SparesSave s (t.memTraffic a k write first) := by
  unfold State.memTraffic
  dsimp only
  split
  · have hbank : SparesSave s (t.touchBank (bBankTile (hbmTile a)) (t.cacheBankOf (hbmTile a) (lineOf a))) := h.other rfl rfl
    have hfound := ite (first = true)
      (hbank.count (bBankTile (hbmTile a)) 1 (off := if t.inLlc (lineOf a) then 0x170 else 0x178) (by split <;> rfl)) hbank
    exact ite _ (h.count _ _ (by split <;> rfl)) (llcPut (ite _ hfound (hfound.count _ _ rfl)) ..)
  · exact llcPut (ite _ h (h.count _ _ rfl)) ..
  · exact h.llcPut ..
  · exact h.other rfl rfl
  · exact h

theorem homeRead (h : SparesSave s t) (who line : Nat) : SparesSave s (t.homeRead who line).1 := by
  unfold State.homeRead
  dsimp only
  split
  · exact h.unmappedLine ..
  · exact h.mendLine _

theorem linePut (h : SparesSave s t) (own : WriteOwner) (who line : Nat) (bs : PBytes) (keep : Bool) :
    SparesSave s (t.linePut own who line bs keep) := by
  have hcame := h.arrive bs
  unfold State.linePut
  dsimp only
  split
  · exact ite _ ((hcame.touchBank ..).homePut ..) (hcame.refuseRows ..)
  · exact (hcame.homePut ..).memTraffic ..
  · exact (hcame.homePut ..).memTraffic ..
  · exact hcame.unmappedLine ..

theorem mergeMasked (h : SparesSave s t) (own : WriteOwner) (who line : Nat) (mask : BitVec 128) (data : List Byte) :
    SparesSave s (t.mergeMasked own who line mask data) := by
  have hcame := h.arrive (.clean data)
  have hread := ite (maskPartial mask = true) (hcame.mendLine line) hcame
  have hmerged := fun (key : Nat → Nat) (bits : Nat → List Bool) (word : Nat → PBytes) =>
    hread.foldl (List.range 8) (g := fun acc w => acc.mergeWord (key w) (bits w) (word w)) fun _ hv => ite _ (hv.other rfl rfl) hv
  unfold State.mergeMasked
  dsimp only
  split
  · exact ite _ ((hmerged _ _ _).touchBank ..) (hcame.refuseRows ..)
  · exact (hmerged _ _ _).memTraffic ..
  · exact memTraffic (hcame.foldl _ fun r hv => hv.egressWrite ..) ..
  · exact hcame.unmappedLine ..

/-! ### The steps of a transaction (R303 to R305, R310) -/

theorem storeInto (h : SparesSave s t) (a line : Nat) (stored : Option (List Byte)) :
    SparesSave s (t.storeInto a line stored) := by
  unfold State.storeInto
  dsimp only
  split
  · exact ite _ (h.other rfl rfl) h
  · exact h

theorem ownStores (h : SparesSave s t) (agent line : Nat) : SparesSave s (t.ownStores agent line) :=
  ite _ h (ite _ (h.other rfl rfl) (h.other rfl rfl))

theorem txnData (h : SparesSave s t) (x : Txn) : SparesSave s (t.txnData x).1 := by
  unfold State.txnData
  split
  · exact h.arrive _
  · exact (h.homeRead ..).arrive _

theorem give (h : SparesSave s t) (a line : Nat) (st : Moesi) (bs : PBytes) : SparesSave s (t.give a line st bs) :=
  ite _ (((h.newHeld ..).lineReceived ..).setHeld1 ..) h

theorem consumePoison (h : SparesSave s t) (core a : Nat) (bs : PBytes) : SparesSave s (t.consumePoison core a bs) :=
  ite _ ((h.record ..).emit _) h

theorem answerRead (h : SparesSave s t) (src : TxnFrom) (line : Nat) (bs : PBytes) : SparesSave s (t.answerRead src line bs) := by
  have hout := h.emit (.readData src line bs)
  unfold State.answerRead
  dsimp only
  split
  · exact ite _ (hout.consumePoison ..) hout
  · exact hout

theorem lineMoved (h : SparesSave s t) (src : TxnFrom) (line k : Nat) (write : Bool) :
    SparesSave s (t.lineMoved src line k write) := by
  unfold State.lineMoved
  split
  · exact h.dataMoved ..
  · exact h

theorem l2Load (h : SparesSave s t) (agent line : Nat) (bs : PBytes) : SparesSave s (t.l2Load agent line bs) := by
  exact ite _ (ite _ (h.free.consumePoison ..) h.free) h

theorem txnRead (h : SparesSave s t) (x : Txn) : SparesSave s (t.txnRead x) := by
  unfold State.txnRead
  split
  · exact h
  · exact h.memTraffic ..

/-- Completing a request once its data, if it takes any, has come. -/
theorem finishTxn (h : SparesSave s t) (x : Txn) : SparesSave s (t.finishTxn x) := by
  have hcame : SparesSave s (if x.readsHome || x.fwd.isSome then t.txnData x else (t, [])).1 := by
    split
    · exact h.txnData x
    · exact h
  unfold State.finishTxn
  dsimp only
  generalize (if x.readsHome || x.fwd.isSome then t.txnData x else (t, [])) = p at hcame
  obtain ⟨v, bs⟩ := p
  split
  case h_1 a _ _ =>
    have hload := (hcame.txnRead x).l2Load a x.line bs
    dsimp only
    split
    · exact (hload.give ..).setDir ..
    · exact (hload.give ..).setDir ..
    · exact ite _ ((hload.give ..).setDir ..) ((hload.give ..).setDir ..)
    · exact (hload.give ..).setDir ..
    · exact (hload.give ..).setDir ..
  case h_2 => exact ((hcame.txnRead x).give ..).setDir ..
  case h_3 => exact setDir (ite _ (hcame.setHeld1 ..) hcame) ..
  case h_4 => exact ite _ (hcame.other rfl rfl) (hcame.other rfl rfl)
  case h_5 a _ _ =>
    have hout : SparesSave s ((v.mendHeld a x.line).setHeld1 a x.line .reset) :=
      (hcame.mendHeld a x.line).setHeld1 ..
    have hput := (hout.lineSent a x.line).linePut .home
    exact ite _ (ite _ ((hput ..).setDir ..) ((hput ..).setDir ..)) hout
  case h_6 => exact ((hcame.txnRead x).lineMoved ..).answerRead ..
  case h_7 => exact ((hcame.lineMoved ..).linePut ..).setDir ..
  case h_8 => exact ((hcame.lineMoved ..).mergeMasked ..).setDir ..
  case h_9 => split <;> exact hcame.other rfl rfl
  case h_10 =>
    split
    · exact (setDir (ite _ (hcame.hostTakes ..) hcame) ..).emit _
    · exact hcame.other rfl rfl
  case h_11 => split <;> exact hcame.other rfl rfl
  case h_12 => exact hcame

theorem reclaimEntry (h : SparesSave s t) (agent line : Nat) : SparesSave s (t.reclaimEntry agent line) := by
  have hlost : ∀ {v : State}, SparesSave s v → SparesSave s (((v.poisonLine line).count (bHome (homeOf (line * 128))) 0x178
      1).recordOnce (bHome (homeOf (line * 128))) 0x020D agent (homeOf (line * 128)) agent (line * 128)) :=
    fun hv => ((hv.poisonLine _).count _ _ rfl).recordOnce ..
  have hsnooped := h.foldl (snoopTargets (t.dir line).sharers) (g := fun acc x => acc.setHeld1 x line .reset)
    fun x hv => hv.setHeld1 ..
  exact ite _ (hlost (h.setDir ..)) (ite _ (hlost (setDir (ite _ hsnooped (hsnooped.count _ _ rfl)) ..))
    (ite _ ((h.setDir ..).count _ _ rfl) h))

theorem progress (h : SparesSave s t) (n home line : Nat) : SparesSave s (State.progress n t home line) := by
  have hdead : ∀ {v : State} (x : Txn), SparesSave s v → SparesSave s (v.settleDead x) := fun x hv => by
    unfold State.settleDead
    split
    · exact ite _ hv (hv.reclaimEntry ..)
    · exact hv
  induction n generalizing t with
  | zero => exact h
  | succ n ih =>
    unfold State.progress
    split
    · exact h
    · next x _ =>
      split
      · exact ih (setHome (ite _ h (h.count _ _ rfl)) ..)
      · split
        · exact ih ((hdead x (h.finishTxn x)).setHome ..)
        · exact h

theorem enter (h : SparesSave s t) (home : Nat) (x : Txn) : SparesSave s (t.enter home x) := (h.setHome ..).progress ..

theorem admitSnoops (h : SparesSave s t) (home : Nat) : SparesSave s (t.admitSnoops home) :=
  h.foldl _ fun _ hv => ite _ (((hv.setHome ..).count _ _ rfl).enter ..) hv

theorem advance (h : SparesSave s t) (home line : Nat) : SparesSave s (t.advance home line) := (h.progress ..).admitSnoops _

theorem clearHolders (h : SparesSave s t) (who line : Nat) (recalling : Bool) :
    SparesSave s (t.clearHolders who line recalling) := by
  have howner : SparesSave s (t.ownerBack who line) := by
    unfold State.ownerBack
    split
    · next o _ =>
      have hmended := (h.ownStores o line).mendHeld o line
      exact ite _ ((hmended.lineSent ..).linePut ..) hmended
    · exact h
  have hback := ite (recalling = true) howner h
  have hcleared := fun l : List Nat =>
    (hback.foldl l (g := fun acc x => acc.setHeld1 x line .reset) fun x hv => hv.setHeld1 ..).setDir line .reset
  exact ite _ (hcleared _) ((hcleared _).count _ _ rfl)

theorem snoopAnswer (h : SparesSave s t) (a line : Nat) (k : SnoopKind) (stored : Option (List Byte)) :
    SparesSave s (t.snoopAnswer a line k stored) := by
  unfold State.snoopAnswer
  dsimp only
  split
  · exact h
  · refine ite _ (advance (setHome ?_ ..) ..) h
    have hmended := (h.storeInto a line stored).mendHeld a line
    have hheld : ∀ x, SparesSave s (((t.storeInto a line stored).mendHeld a line).setHeld1 a line x) :=
      fun x => hmended.setHeld1 ..
    split
    · exact ((hheld _).lineSent ..).linePut ..
    · exact hheld _
    · exact ((hheld _).lineSent ..).count _ _ rfl
    · exact hheld _

theorem settleLine (h : SparesSave s t) (home line : Nat) : SparesSave s (t.settleLine home line) := by
  unfold State.settleLine
  generalize 512 * _ = n
  induction n generalizing t with
  | zero => exact h
  | succ n ih =>
    unfold State.settle
    split
    · exact h
    · split
      · exact ih ((h.ownStores ..).snoopAnswer ..)
      · exact ih (h.advance ..)

/-! ### Requests on their way to a home (R301, R305, R306) -/

theorem dirRoom (h : SparesSave s t) (home line : Nat) : SparesSave s (t.dirRoom home line) :=
  ite _ h (ite _ h ((clearHolders (ite _ (h.settleLine ..) h) ..).count _ _ rfl))

theorem request (h : SparesSave s t) (line : Nat) (req : CohReq) (src : TxnFrom) (data : List Byte) (mask : BitVec 128) :
    SparesSave s (t.request line req src data mask) :=
  ite _ (h.other rfl rfl) (ite _ (((count (ite _ (h.dirRoom ..) h) _ _ rfl).enter ..).admitSnoops _)
    (ite _ (h.other rfl rfl) (other (h.count (off := 0x158) _ _ rfl) rfl rfl)))

theorem poisonAnswer (h : SparesSave s t) (req : CohReq) (src : TxnFrom) (line : Nat) (fault : Bool) :
    SparesSave s (t.poisonAnswer req src line fault) := by
  have hanswer := ite (req = .wfi ∨ req = .wp) h
    (ite (fault = true) (h.emit (.readData src line (PBytes.refused 128))) (h.answerRead src line (PBytes.refused 128)))
  unfold State.poisonAnswer
  dsimp only
  split
  · exact ite _ (hanswer.other rfl rfl) hanswer
  · exact ite _ (hanswer.other rfl rfl) hanswer
  · exact hanswer

theorem turnedAway (h : SparesSave s t) {line : Nat} {req : CohReq} {src : TxnFrom} {mask : BitVec 128}
    (haway : t.turnedAway line req src mask = some u) : SparesSave s u := by
  unfold State.turnedAway at haway
  dsimp only at haway
  split at haway
  · cases haway
  · split at haway
    · cases haway; exact (h.unmappedLine ..).poisonAnswer ..
    · cases haway; exact poisonAnswer (h.count _ _ rfl) ..
    · split at haway
      · cases haway
      · cases haway; exact (h.refuseRows ..).poisonAnswer ..
    · cases haway

theorem admitAged (h : SparesSave s t) (home : Nat) : SparesSave s (t.admitAged home) := by
  have hback : ∀ {v : State} (src : TxnFrom), SparesSave s v → SparesSave s (v.sendHeldBack home src) := fun src hv =>
    ite _ hv ((hv.setRetried _).foldl _ fun _ hw => hw.request ..)
  unfold State.admitAged
  dsimp only
  split
  · exact h
  · refine ite _ h (hback _ ?_)
    split
    · next haway => exact (h.setHome ..).turnedAway haway
    · exact ((count (count (ite _ ((h.setHome ..).dirRoom ..) (h.setHome ..)) _ _ rfl) _ _ rfl).setHome ..).advance ..

theorem clearWay (h : SparesSave s t) (src : TxnFrom) (line : Nat) : SparesSave s (t.clearWay src line) := by
  have haged : SparesSave s (t.ownAgedFirst (homeOf (line * 128)) src) := by
    refine h.foldl _ fun _ hv => ite _ (admitAged ?_ _) hv
    split
    · exact hv.settleLine ..
    · exact hv
  exact ite _ haged (settleLine (ite _ haged ((haged.count _ _ rfl).foldl _ fun _ hv => hv.settleLine ..)) ..)

/-! ### Accesses of the device's units (R124, R125, R150, R304) -/

theorem readLine (h : SparesSave s t) (who a n : Nat) (first : Bool) : SparesSave s (t.readLine who a n first).1 := by
  have hclear := h.clearWay (unitSrc who) (lineOf a)
  have hcounted := fun k => ite (first = true) (hclear.countRequest (homeOf a) k k) hclear
  unfold State.readLine
  dsimp only
  split
  · next o _ =>
    have hmended := ((hcounted 1).ownStores o (lineOf a)).mendHeld o (lineOf a)
    exact ite _ (hmended.lineSent ..) hmended
  · exact ((hcounted 0).mendLine _).memTraffic ..

theorem writeLine (h : SparesSave s t) (who a : Nat) (bs : PBytes) (whole first : Bool) :
    SparesSave s (t.writeLine who a bs whole first) := by
  have hclear := ite (first = true) (h.clearWay (unitSrc who) (lineOf a)) h
  exact ite _ ((hclear.count _ _ rfl).enter ..)
    ((homePut (ite _ ((hclear.clearHolders ..).count _ _ rfl) hclear) ..).memTraffic ..)

theorem readRow (h : SparesSave s t) (who a n : Nat) (first : Bool) : SparesSave s (t.readRow who a n first).1 := by
  have htouch : ∀ blk b, SparesSave s (t.touchBank blk b) := fun _ _ => h.touchBank ..
  unfold State.readRow
  dsimp only
  split
  · exact ite _ (h.unmappedLine ..) h
  · exact ite _ (h.count _ _ rfl) h
  · split
    · exact (htouch _ _).mendWords ..
    · exact h.refuseRow ..
  · split
    · exact (htouch _ _).readLine ..
    · exact h.refuseRow ..
  · exact h.readLine ..
  · split
    · exact h.other rfl rfl
    · exact h.readLine ..

theorem writeRow (h : SparesSave s t) (who a : Nat) (bs : PBytes) (whole first : Bool) :
    SparesSave s (t.writeRow who a bs whole first) := by
  have htouch : ∀ blk b, SparesSave s (t.touchBank blk b) := fun _ _ => h.touchBank ..
  unfold State.writeRow
  dsimp only
  split
  · exact ite _ (h.unmappedLine ..) h
  · exact ite _ (h.count _ _ rfl) h
  · exact ite _ (((htouch _ _).mendWords ..).writeKey ..) (h.refuseRow ..)
  · exact ite _ ((htouch _ _).writeLine ..) (h.refuseRow ..)
  · exact h.writeLine ..
  · exact h.writeLine ..

theorem readRun (h : SparesSave s t) (who a n : Nat) : SparesSave s (t.readRun who a n).1 :=
  h.foldlFst _ fun _ hv => ((hv.readRow ..).arrive _).dataMoved ..

theorem writeRun (h : SparesSave s t) (who a : Nat) (bs : PBytes) : SparesSave s (t.writeRun who a bs) :=
  h.foldl _ fun _ hv => ((hv.dataMoved ..).arrive _).writeRow ..

theorem charge (h : SparesSave s t) (agent : Nat) (w : Work) : SparesSave s (t.charge agent w) := by
  have hissued : ∀ use, SparesSave s (t.setAgentUse agent use) := fun _ => h.other rfl rfl
  refine foldl ?_ w fun _ hv => hv.other rfl rfl
  have hpriced := fun use => ite (t.price w = 0) (hissued use) ((hissued use).count bNrg (off := 0x188) (t.price w) rfl)
  exact ite _ ((hpriced _).count _ _ rfl) (hpriced _)

end SparesSave

end Sys2Proof.Machine
end

section
/-! What the save engine's reads, writes and payments leave of the state (R253 to R264, R280). -/

namespace Sys2Proof.Machine

/-- From `s` to `t` the save engine has read, written and paid: its own state, the tokens with their messages, module flash and
the intake engines stay, and so do its registers and the count of its saves. -/
structure SaveWork (s t : State) : Prop where
  save : t.save = s.save
  messages : t.tokMsgs = s.tokMsgs
  tokens : t.tokens = s.tokens
  flash : t.flash = s.flash
  intakes : t.intakes = s.intakes
  spares : SparesSave s t

namespace SaveWork

variable {s t u : State}

theorem refl (s : State) : SaveWork s s := ⟨rfl, rfl, rfl, rfl, rfl, .refl s⟩

theorem trans (h : SaveWork s t) (k : SaveWork t u) : SaveWork s u :=
  ⟨k.save.trans h.save, k.messages.trans h.messages, k.tokens.trans h.tokens, k.flash.trans h.flash, k.intakes.trans h.intakes,
    h.spares.trans k.spares⟩

theorem access (h : SaveWork s t) (hfabric : FabricAccess t u) (hspares : SparesSave t u) : SaveWork s u :=
  h.trans ⟨by rw [hfabric.frame], by rw [hfabric.frame], by rw [hfabric.frame], by rw [hfabric.frame], by rw [hfabric.frame],
    hspares⟩

theorem fld (h : SaveWork s t) {off : Nat} (hoff : off < 65536) (lo len : Nat) :
    t.fld bSav off lo len = s.fld bSav off lo len := by
  rw [State.fld, h.spares.regs off hoff, State.fld]

theorem foldl {β : Type} {g : State → β → State} (h : SaveWork s t) (l : List β)
    (hg : ∀ {v : State} (x : β), SaveWork s v → SaveWork s (g v x)) : SaveWork s (l.foldl g t) :=
  List.foldlRecOn (motive := SaveWork s) l _ h fun _ hacc x _ => hg x hacc

theorem foldlFst {α β : Type} {g : State × α → β → State × α} {a : α} (h : SaveWork s t) (l : List β)
    (hg : ∀ {p : State × α} (x : β), SaveWork s p.1 → SaveWork s (g p x).1) : SaveWork s (l.foldl g (t, a)).1 :=
  List.foldlRecOn (motive := fun p : State × α => SaveWork s p.1) l _ h fun _ hacc x _ => hg x hacc

theorem readRun (h : SaveWork s t) (who a n : Nat) : SaveWork s (t.readRun who a n).1 :=
  h.access (.readRun (.refl t) ..) (.readRun (.refl t) ..)

theorem writeRun (h : SaveWork s t) (who a : Nat) (bs : PBytes) : SaveWork s (t.writeRun who a bs) :=
  h.access (.writeRun (.refl t) ..) (.writeRun (.refl t) ..)

theorem charge (h : SaveWork s t) (agent : Nat) (w : Work) : SaveWork s (t.charge agent w) := by
  refine h.trans ⟨?_, ?_, ?_, ?_, ?_, .charge (.refl t) ..⟩ <;> rw [charge_eq]

theorem holdPrice (h : SaveWork s t) (agent : Nat) (w : Work) : SaveWork s (t.holdPrice agent w) :=
  h.trans ⟨rfl, rfl, rfl, rfl, rfl, .other (.refl t) rfl rfl⟩

theorem slotWrite (h : SaveWork s t) (k off : Nat) (bs : List Byte) : SaveWork s (t.slotWrite k off bs) :=
  (h.writeRun ..).trans ⟨rfl, rfl, rfl, rfl, rfl, .count (.refl _) _ _ rfl⟩

theorem copyRun (h : SaveWork s t) (dst src n : Nat) : SaveWork s (t.copyRun dst src n) := (h.readRun ..).writeRun ..

theorem copyEntry (h : SaveWork s t) (k step off : Nat) (e : PlanEntry) : SaveWork s (t.copyEntry k step off e).1 := by
  unfold State.copyEntry
  dsimp only
  split
  · exact (h.readRun ..).slotWrite ..
  · exact (h.readRun ..).slotWrite ..

theorem copyEntries (h : SaveWork s t) (k step : Nat) (es : List (Nat × Nat × PlanEntry)) :
    SaveWork s (State.copyEntries k step es t).1 := by
  induction es generalizing t with
  | nil => exact h
  | cons e es ih =>
    obtain ⟨i, off, e⟩ := e
    unfold State.copyEntries
    dsimp only
    split
    · exact h.copyEntry ..
    · exact ih (h.copyEntry ..)

theorem copyWrite (h : SaveWork s t) (own : WriteOwner) (a : Nat) (bs : PBytes) : SaveWork s (t.copyWrite own a bs) := by
  unfold State.copyWrite
  split
  · exact h.access (.ownWrites (.writeRun (.refl t) ..) ..) (.other (.writeRun (.refl t) ..) rfl rfl)
  · exact h.access (.unmappedLine (.refl t) ..) (.unmappedLine (.refl t) ..)

theorem copyBody (h : SaveWork s t) (base dest n : Nat) : SaveWork s (t.copyBody base dest n) :=
  h.foldl _ fun _ hv => (hv.readRun ..).copyWrite ..

theorem restoreReads (h : SaveWork s t) (base : Nat) : SaveWork s (t.restoreReads base).1 := by
  unfold State.restoreReads
  dsimp only
  split
  · exact (h.readRun ..).readRun ..
  · exact h.readRun ..

end SaveWork

/-- Reading a plan is an access of its own, and costs nothing. -/
theorem readPlan_work (s : State) (a : Nat) : SaveWork s (s.readPlan a).1 ∧ (s.readPlan a).1.energy = s.energy := by
  have hhead : FabricAccess s (s.readRun saveWho a 64).1 := .readRun (.refl s) ..
  have hrest := fun n => hhead.readRun saveWho (a + 64) n
  unfold State.readPlan
  dsimp only
  split_ifs
  · exact ⟨(SaveWork.refl s).readRun .., by rw [hhead.frame]⟩
  · exact ⟨((SaveWork.refl s).readRun ..).readRun .., by rw [(hrest _).frame]⟩
  · exact ⟨((SaveWork.refl s).readRun ..).readRun .., by rw [(hrest _).frame]⟩
  · exact ⟨(SaveWork.refl s).readRun .., by rw [hhead.frame]⟩

/-! ### Price (R216, R253) -/

/-- The price of n bytes is covered. -/
def State.savePaid (s : State) (n : Nat) : Bool := s.covered pSave (s.price (saveWork n))

theorem savePay_eq (s : State) (n : Nat) :
    s.savePay n = if s.savePaid n = true then some (s.charge pSave (saveWork n)) else none := rfl

theorem savePaid_of_energy {s t : State} (h : t.energy = s.energy) (n : Nat) : t.savePaid n = s.savePaid n := by
  unfold State.savePaid
  rw [price_of_energy h, covered_of_energy h]

theorem savePay_eq_none_iff (s : State) (n : Nat) : s.savePay n = none ↔ s.savePaid n = false := by
  rw [savePay_eq]
  cases s.savePaid n <;> simp

theorem savePay_eq_none_of_energy {s t : State} (h : t.energy = s.energy) (n : Nat) :
    t.savePay n = none ↔ s.savePay n = none := by
  rw [savePay_eq_none_iff, savePay_eq_none_iff, savePaid_of_energy h]

theorem savePay_of_paid {s : State} {n : Nat} (h : s.savePay n ≠ none) : s.savePay n = some (s.charge pSave (saveWork n)) := by
  rw [savePay_eq] at h ⊢
  split at h
  · next hpaid => rw [if_pos hpaid]
  · exact absurd rfl h

theorem SaveWork.of_savePay {s t : State} {n : Nat} (h : s.savePay n = some t) : SaveWork s t := by
  rw [savePay_of_paid (h.trans_ne (Option.some_ne_none t))] at h
  cases h
  exact (SaveWork.refl s).charge ..

end Sys2Proof.Machine
end

section
/-! The ends of a save: the messages that it sends, and its faults (R257, R258, R261). -/

namespace Sys2Proof.Machine

/-- From `s` to `t` the save engine becomes `x` and sends the messages `ms`; packets on their way may change, and what the planner
keeps of it. -/
def SaveSends (s t : State) (x : Save) (ms : List TokMsg) : Prop :=
  t = { s with save := x, energy := t.energy, sendq := t.sendq, tokMsgs := s.tokMsgs ++ ms }

namespace SaveSends

variable {s t u : State} {x y : Save} {ms ms' : List TokMsg}

theorem trans (h : SaveSends s t x ms) (k : SaveSends t u y ms') : SaveSends s u y (ms ++ ms') := by
  unfold SaveSends at h k ⊢
  rw [h] at k
  rw [← List.append_assoc]
  exact k

theorem save (h : SaveSends s t x ms) : t.save = x := by rw [h]
theorem messages (h : SaveSends s t x ms) : t.tokMsgs = s.tokMsgs ++ ms := by rw [h]
theorem tokens (h : SaveSends s t x ms) : t.tokens = s.tokens := by rw [h]
theorem flash (h : SaveSends s t x ms) : t.flash = s.flash := by rw [h]
theorem counter (h : SaveSends s t x ms) (n off : Nat) : t.counter n off = s.counter n off := by
  rw [h]
  rfl
theorem fld (h : SaveSends s t x ms) (off lo len : Nat) : t.fld bSav off lo len = s.fld bSav off lo len := by
  rw [h]
  rfl

theorem setSave (s : State) (x : Save) : SaveSends s (s.setSave x) x [] := by
  unfold SaveSends
  rw [List.append_nil]
  rfl

theorem dropHeld (s : State) (agent : Nat) : SaveSends s (s.dropHeld agent) s.save [] := by
  unfold SaveSends State.dropHeld
  rw [List.append_nil]
  split <;> rfl

theorem sendToken (s : State) (m : TokMsg) : SaveSends s (s.sendToken m) s.save [m] := by
  unfold SaveSends
  rw [sendToken_eq]

end SaveSends

/-- The tokens that the save engine's registers name. -/
def State.saveToken (s : State) (lo : Nat) : BitVec 16 := BitVec.ofNat 16 (s.fld bSav 0x120 lo 16)

/-- The signal of the release token, unless it has been sent. -/
def State.saveReleases (s : State) : List TokMsg :=
  if s.save.released then [] else [.signal agSave (s.saveToken 16) (BitVec.ofNat 32 (s.fld bSav 0x128 0 32))]

/-- The signal of the done token, and the wait for the next start. -/
def State.saveEnds (s : State) : List TokMsg := [.signal agSave (s.saveToken 32) 1, .wait agSave (s.saveToken 0) 1]

theorem SaveSends.saveToken {s t : State} {x : Save} {ms : List TokMsg} (h : SaveSends s t x ms) (lo : Nat) :
    t.saveToken lo = s.saveToken lo := by rw [State.saveToken, h.fld, State.saveToken]

theorem SaveSends.saveEnds {s t : State} {x : Save} {ms : List TokMsg} (h : SaveSends s t x ms) : t.saveEnds = s.saveEnds := by
  rw [State.saveEnds, h.saveToken, h.saveToken, State.saveEnds]

theorem saveSends_signalDone (s : State) : SaveSends s s.signalDone s.save [.signal agSave (s.saveToken 32) 1] := .sendToken ..

theorem saveSends_signalRelease (s : State) :
    SaveSends s s.signalRelease { s.save with released := true }
      [.signal agSave (s.saveToken 16) (BitVec.ofNat 32 (s.fld bSav 0x128 0 32))] :=
  (SaveSends.setSave s _).trans (.sendToken ..)

theorem saveSends_saveWaits (s : State) :
    SaveSends s s.saveWaits { s.save with waiting := true, granted := false, stage := .idle, copyoutEpoch := none }
      [.wait agSave (s.saveToken 0) 1] :=
  (SaveSends.setSave s _).trans (.sendToken ..)

/-- Done, and waiting for the next start. -/
theorem saveSends_ends (s : State) :
    SaveSends s s.signalDone.saveWaits { s.save with waiting := true, granted := false, stage := .idle, copyoutEpoch := none }
      s.saveEnds := by
  have hdone := saveSends_signalDone s
  have hwaits := hdone.trans (saveSends_saveWaits s.signalDone)
  rw [hdone.save, hdone.saveToken] at hwaits
  exact hwaits

theorem saveSends_abandonCopyout (s : State) :
    SaveSends s s.abandonCopyout
      { s.save with copyoutEpoch := none, copyoutAborted := true, waiting := true, granted := false, stage := .idle }
      s.saveEnds := by
  have hdrop := SaveSends.dropHeld s pSave
  have hgiven := hdrop.trans (.setSave _ { s.save with copyoutAborted := true, stage := .idle, copyoutEpoch := none })
  have hends := hgiven.trans (saveSends_ends _)
  rw [hgiven.saveEnds] at hends
  exact hends

/-- The release token is signalled unless it has been. -/
theorem saveSends_release (s : State) :
    SaveSends s (if s.save.released then s else s.signalRelease) { s.save with released := true } s.saveReleases := by
  unfold State.saveReleases
  split
  · next hreleased =>
    rw [← hreleased]
    exact .setSave s s.save
  · exact saveSends_signalRelease s

/-- What sets out when a save ends by a fault. -/
theorem saveSends_faultEnds (s : State) :
    SaveSends s (if s.save.released then s else s.signalRelease).signalDone.saveWaits
      { s.save with released := true, waiting := true, granted := false, stage := .idle, copyoutEpoch := none }
      (s.saveReleases ++ s.saveEnds) := by
  have hrelease := saveSends_release s
  have hends := hrelease.trans (saveSends_ends _)
  rw [hrelease.save, hrelease.saveEnds] at hends
  exact hends

/-! ### What the statement says of a state -/

/-- The messages `ms` have set out; the tokens stay. -/
def SaveSent (s t : State) (ms : List TokMsg) : Prop := t.tokMsgs = s.tokMsgs ++ ms ∧ t.tokens = s.tokens

/-- The save engine is `x`, and nothing has set out. -/
def SaveHeld (s t : State) (x : Save) : Prop := t.save = x ∧ SaveSent s t []

/-- The save that runs has faulted. -/
def SaveFaulted (s t : State) (code : BitVec 4) : Prop :=
  t.save.fault = true ∧ t.save.faultCode = code ∧ t.save.stage = .idle ∧ t.save.waiting = true
    ∧ SaveSent s t (s.saveReleases ++ s.saveEnds) ∧ (errorFree s → t.flash = s.flash)

theorem SaveWork.sent {s t : State} (h : SaveWork s t) : SaveSent s t [] := ⟨by rw [h.messages, List.append_nil], h.tokens⟩

theorem SaveWork.saveEnds {s t : State} (h : SaveWork s t) : t.saveEnds = s.saveEnds := by
  rw [State.saveEnds, State.saveToken, State.saveToken, h.fld (by decide), h.fld (by decide)]
  rfl

theorem SaveWork.held {s t : State} (h : SaveWork s t) : SaveHeld s t s.save := ⟨h.save, h.sent⟩

/-- The save engine's own state is written after its work. -/
theorem SaveWork.setSave {s t : State} (h : SaveWork s t) (x : Save) : SaveHeld s (t.setSave x) x := ⟨rfl, h.sent⟩

theorem SaveHeld.work {s t u : State} {x : Save} (h : SaveHeld s t x) (k : SaveWork t u) : SaveHeld s u x := by
  obtain ⟨hsave, hmessages, htokens⟩ := h
  exact ⟨k.save.trans hsave, k.messages.trans hmessages, k.tokens.trans htokens⟩

/-- The save engine's state is written anew from what it was. -/
theorem SaveHeld.update {s t : State} {x : Save} (h : SaveHeld s t x) (f : Save → Save) :
    SaveHeld s (t.setSave (f t.save)) (f x) := by
  obtain ⟨hsave, hsent⟩ := h
  exact ⟨congrArg f hsave, hsent⟩

/-- What sets out after a state in which nothing has. -/
theorem SaveHeld.sends {s t u : State} {x y : Save} {ms : List TokMsg} (h : SaveHeld s t x) (k : SaveSends t u y ms) :
    SaveSent s u ms := by
  obtain ⟨-, hmessages, htokens⟩ := h
  rw [List.append_nil] at hmessages
  exact ⟨by rw [k.messages, hmessages], by rw [k.tokens, htokens]⟩

/-- The record of a fault, before anything sets out. -/
theorem saveFault_recorded (s : State) (code entry : Nat) :
    let x : Save := { s.save with fault := true, faultCode := BitVec.ofNat 4 code, stage := .idle, granted := false }
    let t := ((s.dropHeld pSave).setSave x).record bSav 0x0212 0 code entry
    t = { s with save := x, energy := t.energy, counters := t.counters, sheets := t.sheets } := by
  dsimp only
  rw [record_eq]
  unfold State.dropHeld
  split <;> rfl

/-- A fault after the engine's work, whatever it has noted of the save since (R258). -/
theorem SaveWork.saveFaults {s t : State} (h : SaveWork s t) {x : Save} (hreleased : x.released = s.save.released)
    (code entry : Nat) : SaveFaulted s ((t.setSave x).saveFaults code entry) (BitVec.ofNat 4 code) := by
  have hrecorded := saveFault_recorded (t.setSave x) code entry
  unfold State.saveFaults State.saveFault
  dsimp only at hrecorded ⊢
  generalize State.record _ bSav 0x0212 0 code entry = v at hrecorded ⊢
  have hends := saveSends_faultEnds v
  have hsave : v.save = { x with fault := true, faultCode := BitVec.ofNat 4 code, stage := .idle, granted := false } := by
    rw [hrecorded]; rfl
  have hfld : ∀ {off : Nat}, off < 65536 → ∀ lo len, v.fld bSav off lo len = s.fld bSav off lo len := fun hoff lo len => by
    rw [hrecorded]
    exact h.fld hoff lo len
  have htoken : ∀ lo, v.saveToken lo = s.saveToken lo := fun lo => by
    rw [State.saveToken, hfld (by decide), State.saveToken]
  have hmessages : v.saveReleases ++ v.saveEnds = s.saveReleases ++ s.saveEnds := by
    simp only [State.saveReleases, State.saveEnds, htoken, hfld (show 0x128 < 65536 by decide), hsave, hreleased]
  rw [hmessages] at hends
  refine ⟨?_, ?_, by rw [hends.save], by rw [hends.save], ⟨?_, ?_⟩, fun _ => ?_⟩
  · rw [hends.save]
    exact congrArg Save.fault hsave
  · rw [hends.save]
    exact congrArg Save.faultCode hsave
  · rw [hends.messages, hrecorded]
    exact congrArg (· ++ _) h.messages
  · rw [hends.tokens, hrecorded]
    exact h.tokens
  · rw [hends.flash, hrecorded]
    exact h.flash

end Sys2Proof.Machine
end

section
/-! The course of a save: its start, the capture, the mark of its slot and the copy-out (R254 to R261). -/

namespace Sys2Proof.Machine

theorem slotSize_of_work {s t : State} (h : SaveWork s t) : t.slotSize = s.slotSize := by
  rw [State.slotSize, h.fld (by decide), State.slotSize]

/-! ### The start (R254 to R258) -/

/-- The plan of a save that starts: the one it has read, or what it reads now. -/
def State.planRead (s : State) : Option (List Byte) :=
  if s.save.plan = [] then (s.readPlan s.planBase).2 else some s.save.plan

theorem exec_saveStart_of_idle {s : State} (h : s.saveActive = false ∨ s.save.granted = false) :
    exec .saveStart s = .next s := by
  show execSaveStart s = _
  rcases h with h | h <;> simp [execSaveStart, h]

section
variable {s : State} (hactive : s.saveActive = true) (hgranted : s.save.granted = true)
include hactive hgranted

theorem exec_saveStart_of_stalls (hplan : s.save.plan = []) (hstalls : s.planStalls s.planBase = true) :
    exec .saveStart s = .next (s.hostStall saveWho) := by
  show execSaveStart s = _
  rw [execSaveStart, hactive, hgranted, Bool.and_self, if_pos rfl, if_pos hplan, if_pos hstalls]

/-- The plan is read once, and then the save begins. -/
theorem exec_saveStart_of_read (hquiet : s.save.plan = [] → s.planStalls s.planBase = false) :
    ∃ u, SaveWork s u ∧ u.energy = s.energy ∧ exec .saveStart s = match s.planRead with
      | none => .next (u.saveFaults 4 0)
      | some d => .next ((u.setSave { s.save with plan := d }).saveBegin (planOf d)) := by
  unfold State.planRead
  show ∃ u, SaveWork s u ∧ u.energy = s.energy ∧ execSaveStart s = _
  rw [execSaveStart, hactive, hgranted, Bool.and_self, if_pos rfl]
  split
  · next hplan =>
    obtain ⟨hwork, henergy⟩ := readPlan_work s s.planBase
    rw [if_neg (by rw [hquiet hplan]; decide)]
    refine ⟨_, hwork, henergy, ?_⟩
    rw [← hwork.save]
    rcases s.readPlan s.planBase with ⟨v, _ | d⟩ <;> rfl
  · exact ⟨s, .refl s, rfl, rfl⟩

end

/-- The slot that is not the newest. -/
def Save.nextSlot (x : Save) : Nat := if x.newestSlot = some 0 then 1 else 0

section
variable {s u : State} (h : SaveWork s u) {x : Save} (hreleased : x.released = s.save.released) (henergy : u.energy = s.energy)
  {p : SavePlan} (hplan : p.ok = true)
include h

include hreleased in
theorem saveBegin_of_unsound (hunsound : p.ok = false) : SaveFaulted s ((u.setSave x).saveBegin p) 1 := by
  rw [State.saveBegin, if_pos (by rw [hunsound]; rfl)]
  exact h.saveFaults hreleased 1 0

include hreleased hplan in
theorem saveBegin_of_short (hshort : s.slotSize < p.jrnOff) : SaveFaulted s ((u.setSave x).saveBegin p) 5 := by
  have hlong : (u.setSave x).slotSize < p.jrnOff := (slotSize_of_work h).trans_lt hshort
  rw [State.saveBegin, hplan, if_neg (by decide), if_pos hlong]
  exact h.saveFaults hreleased 5 0

include hplan henergy in
theorem saveBegin_of_unpaid (hroom : p.jrnOff ≤ s.slotSize) (hpay : s.savePay p.startBytes = none) :
    SaveHeld s ((u.setSave x).saveBegin p) x := by
  have hfits : ¬ (u.setSave x).slotSize < p.jrnOff := Nat.not_lt.2 (hroom.trans_eq (slotSize_of_work h).symm)
  rw [State.saveBegin, hplan, if_neg (by decide), if_neg hfits,
    (savePay_eq_none_of_energy (t := u.setSave x) henergy _).2 hpay]
  exact h.setSave x

include hplan henergy in
theorem saveBegin_of_paid (hroom : p.jrnOff ≤ s.slotSize) (hpay : s.savePay p.startBytes ≠ none) :
    SaveHeld s ((u.setSave x).saveBegin p)
      ({ x with stage := .started, granted := false, slot := x.nextSlot }.setSlot x.nextSlot none) := by
  have hfits : ¬ (u.setSave x).slotSize < p.jrnOff := Nat.not_lt.2 (hroom.trans_eq (slotSize_of_work h).symm)
  rw [State.saveBegin, hplan, if_neg (by decide), if_neg hfits,
    savePay_of_paid (mt (savePay_eq_none_of_energy (t := u.setSave x) henergy _).1 hpay)]
  exact ((h.setSave x).work (((((SaveWork.refl _).charge ..).slotWrite ..).slotWrite ..).slotWrite ..)).update fun y =>
    { y with stage := .started, granted := false, slot := x.nextSlot }.setSlot x.nextSlot none

end

end Sys2Proof.Machine
end

section
/-! The course of a save after its start: the capture, the mark of its slot and the copy-out (R257 to R261). -/

namespace Sys2Proof.Machine

/-- What the engine holds waiting for its price is no part of its state (R218). -/
theorem saveHold_held (s : State) (n : Nat) : SaveHeld s (s.saveHold n) s.save := ((SaveWork.refl s).holdPrice ..).held

/-- A fault of a save as it stands. -/
theorem saveFaults_faulted (s : State) (code entry : Nat) : SaveFaulted s (s.saveFaults code entry) (BitVec.ofNat 4 code) :=
  (SaveWork.refl s).saveFaults (x := s.save) rfl code entry

/-! ### The capture (R257 to R260) -/

theorem exec_saveCapture_of_idle {s : State}
    (h : s.saveActive = false ∨ s.save.captureTurn = none ∨ s.save.stage = .idle ∨ s.save.stage = .done
      ∨ s.save.stage = .copyOut) :
    exec .saveCapture s = .next s := by
  show execSaveCapture s = _
  rcases h with h | h | h | h | h <;> simp [execSaveCapture, h]

section
variable {s : State} (hactive : s.saveActive = true) {tc : Word64} (hturn : s.save.captureTurn = some tc)
include hactive hturn

theorem exec_saveCapture_eq : exec .saveCapture s = match s.save.stage with
    | .started =>
      .next (if (s.saveCounts (planOf s.save.plan)).save.stage = .counted then
        (s.saveCounts (planOf s.save.plan)).saveToLate (planOf s.save.plan) else s.saveCounts (planOf s.save.plan))
    | .counted => .next (s.saveToLate (planOf s.save.plan))
    | .captured => .next (s.saveLate (planOf s.save.plan))
    | _ => .next s := by
  show execSaveCapture s = _
  rw [execSaveCapture, hactive, hturn]
  rfl

/-- A token of the plan has changed since the capture's turn. -/
theorem exec_saveCapture_of_moved (hstage : s.save.stage = .started)
    (hmoved : ∃ k ∈ (planOf s.save.plan).tokens, tc.toNat ≤ (s.token k).stamp.toNat) :
    ∃ t, exec .saveCapture s = .next t ∧ SaveFaulted s t 2 := by
  have hcounts : s.saveCounts (planOf s.save.plan) = s.saveFaults 2 0 := by
    unfold State.saveCounts
    rw [hturn]
    exact if_pos (List.any_eq_true.2 (by simpa using hmoved))
  have hfaulted := saveFaults_faulted s 2 0
  obtain ⟨-, -, hidle, -⟩ := id hfaulted
  rw [exec_saveCapture_eq hactive hturn, hstage, hcounts, hidle]
  exact ⟨_, rfl, hfaulted⟩

/-- Bytes of the token counts and the quiet entries. -/
def State.quietBytes (s : State) : Nat :=
  (fitBytes (s.save.counts.flatMap (leBytes 4)) (pad128 (4 * s.save.counts.length))).length
    + phaseBytes ((planOf s.save.plan).phase 1)

theorem exec_saveCapture_of_unpaid (hstage : s.save.stage = .counted) (hpay : s.savePay s.quietBytes = none) :
    ∃ t, exec .saveCapture s = .next t ∧ SaveHeld s t s.save := by
  have hquiet : s.saveQuiet (planOf s.save.plan) = s.saveHold s.quietBytes := by
    rw [State.quietBytes] at hpay ⊢
    rw [State.saveQuiet]
    dsimp only
    rw [hpay]
  rw [exec_saveCapture_eq hactive hturn, hstage]
  refine ⟨_, rfl, ?_⟩
  have hheld := saveHold_held s s.quietBytes
  have hstays : ¬ (s.saveHold s.quietBytes).save.stage = .captured := by
    rw [hheld.1, hstage]
    decide
  rw [State.saveToLate, hquiet]
  exact (if_neg hstays).symm ▸ hheld

theorem exec_saveCapture_of_short (hstage : s.save.stage = .captured) (hshort : s.slotSize < s.save.payloadLen + 256) :
    ∃ t, exec .saveCapture s = .next t ∧ SaveFaulted s t 5 := by
  rw [exec_saveCapture_eq hactive hturn, hstage]
  refine ⟨_, rfl, ?_⟩
  rw [State.saveLate, if_pos hshort]
  exact saveFaults_faulted s 5 0

/-- The save's part of the journal, read into its slot (R257). -/
def State.readSegment (s : State) (x : Save) : State × PBytes :=
  (List.range (x.jrnLast - x.jrnFirst)).foldl
    (fun acc i => ((acc.1.readRun saveWho (acc.1.jrnAddr (x.jrnFirst + i)) 128).1,
      acc.2 ++ (acc.1.readRun saveWho (acc.1.jrnAddr (x.jrnFirst + i)) 128).2)) (s, [])

theorem exec_saveCapture_of_late (hstage : s.save.stage = .captured) (hroom : s.save.payloadLen + 256 ≤ s.slotSize)
    {s1 s2 : State}
    (hpay : s.savePay (phaseBytes ((planOf s.save.plan).phase 0) + 128 * (s.save.jrnLast - s.save.jrnFirst) + 128) = some s1)
    (hcopy : State.copyEntries s.save.slot (planOf s.save.plan).step ((planOf s.save.plan).phase 0) s1 = (s2, none))
    (hclean : (s2.readSegment s.save).2.anyPoison = false) :
    ∃ t, exec .saveCapture s = .next t ∧ SaveHeld s t { s.save with stage := .done } := by
  have hcopied : SaveWork s s2 := by
    have hentries := (SaveWork.of_savePay hpay).copyEntries s.save.slot (planOf s.save.plan).step ((planOf s.save.plan).phase 0)
    rwa [hcopy] at hentries
  have hsegment : SaveWork s (s2.readSegment s.save).1 := hcopied.foldlFst _ fun _ hv => hv.readRun ..
  rw [exec_saveCapture_eq hactive hturn, hstage]
  refine ⟨_, rfl, ?_⟩
  rw [State.saveLate, if_neg (Nat.not_lt.2 hroom), hpay]
  dsimp only
  rw [hcopy]
  dsimp only
  rw [State.readSegment] at hclean
  rw [if_neg (by rw [hclean]; decide)]
  exact ((hsegment.slotWrite ..).slotWrite ..).held.update fun x => { x with stage := .done }

end

/-! ### The mark of a slot (R254, R257) -/

theorem exec_saveValidate_of_idle {s : State} (h : s.saveActive = false ∨ s.save.stage ≠ .done) :
    exec .saveValidate s = .next s := by
  show execSaveValidate s = _
  rcases h with h | h <;> simp [execSaveValidate, h]

theorem slotMark_setSlot_same (x : Save) (k : Nat) (m : Option (W32 × Word64)) : (x.setSlot k m).slotMark k = m := by
  unfold Save.slotMark Save.setSlot
  split <;> rfl

/-- STEP and JRN_LAST_SEQ of the save that runs. -/
def State.saveMark (s : State) : W32 × Word64 :=
  (BitVec.ofNat 32 (planOf s.save.plan).step, BitVec.ofNat 64 (lastSeq s.save.jrnLast))

/-- The save is counted and its slot takes its mark, before the copy-out or the end. -/
def State.markSlot (s : State) (k : Nat) (m : W32 × Word64) : State :=
  (s.count bSav 0x208 1).setSave (s.save.setSlot k (some m))

section
variable {s t : State} (h : SaveWork s t) (k : Nat) (m : W32 × Word64)
include h

theorem markSlot_held : SaveHeld s (t.markSlot k m) (s.save.setSlot k (some m)) :=
  ⟨congrArg (Save.setSlot · k (some m)) h.save, h.sent⟩

theorem markSlot_fld {off : Nat} (hoff : off < 65536) (lo len : Nat) :
    (t.markSlot k m).fld bSav off lo len = s.fld bSav off lo len := h.fld hoff lo len

theorem markSlot_counter : (t.markSlot k m).counter bSav 0x208 = s.counter bSav 0x208 + 1 := by
  have hcounters : (t.markSlot k m).counters = (t.count bSav 0x208 1).counters := rfl
  have hone : (t.count bSav 0x208 1).counter bSav 0x208 = t.counter bSav 0x208 + 1 := counter_count ..
  rw [State.counter, hcounters, ← State.counter, hone, h.spares.counts]

theorem markSlot_slotMark : (t.markSlot k m).save.slotMark k = some m := by
  rw [(markSlot_held h k m).1, slotMark_setSlot_same]

/-- What a save sends that ends once its slot is marked. -/
theorem markSlot_ends : SaveSent s (t.markSlot k m).signalDone.saveWaits s.saveEnds := by
  have hsent := (markSlot_held h k m).sends (saveSends_ends (t.markSlot k m))
  rw [State.saveEnds, State.saveToken, State.saveToken, markSlot_fld h k m (by decide), markSlot_fld h k m (by decide)] at hsent
  exact hsent

end

section
variable {s : State} (hactive : s.saveActive = true) (hstage : s.save.stage = .done)
include hactive hstage

theorem exec_saveValidate_of_unpaid (hpay : s.savePay 128 = none) :
    ∃ t, exec .saveValidate s = .next t ∧ SaveHeld s t s.save := by
  refine ⟨_, ?_, saveHold_held s 128⟩
  show execSaveValidate s = _
  rw [execSaveValidate, hactive, hstage, hpay]
  rfl

/-- The control line takes STATE 1, and the slot its mark. -/
theorem exec_saveValidate_eq (hpay : s.savePay 128 ≠ none) :
    ∃ t, SaveWork s t ∧ exec .saveValidate s = if (t.markSlot s.save.slot s.saveMark).fld bSav 0x130 0 1 = 1
      then .next ((t.markSlot s.save.slot s.saveMark).setSave
        { (t.markSlot s.save.slot s.saveMark).save with stage := .copyOut })
      else .next (t.markSlot s.save.slot s.saveMark).signalDone.saveWaits := by
  have hwork := ((SaveWork.refl s).charge pSave (saveWork 128)).slotWrite s.save.slot 0
    (controlLine 1 s.save.captureFloor (planOf s.save.plan).step s.save.captureJob.toNat (s.save.captureTurn.getD 0).toNat s.turn
      s.save.payloadLen s.save.jrnFirst (lastSeq s.save.jrnLast))
  refine ⟨_, hwork, ?_⟩
  show execSaveValidate s = _
  rw [execSaveValidate, hactive, hstage, savePay_of_paid hpay]
  dsimp only
  generalize (State.charge s pSave _).slotWrite s.save.slot 0 _ = t
  rfl

theorem exec_saveValidate_of_paid (hpay : s.savePay 128 ≠ none) :
    ∃ t, exec .saveValidate s = .next t ∧ t.counter bSav 0x208 = s.counter bSav 0x208 + 1
      ∧ t.save.slotMark s.save.slot = some s.saveMark
      ∧ if s.fld bSav 0x130 0 1 = 1 then t.save.stage = .copyOut ∧ SaveSent s t []
        else t.save.waiting = true ∧ t.save.stage = .idle ∧ SaveSent s t s.saveEnds := by
  obtain ⟨t, hwork, hrun⟩ := exec_saveValidate_eq hactive hstage hpay
  have hcounter := markSlot_counter hwork s.save.slot s.saveMark
  have hmark := markSlot_slotMark hwork s.save.slot s.saveMark
  rw [hrun, markSlot_fld hwork _ _ (by decide)]
  split
  · exact ⟨_, rfl, hcounter, hmark, rfl, (markSlot_held hwork s.save.slot s.saveMark).2⟩
  · have hends := saveSends_ends (t.markSlot s.save.slot s.saveMark)
    have hsent := markSlot_ends hwork s.save.slot s.saveMark
    generalize (t.markSlot s.save.slot s.saveMark).signalDone.saveWaits = u at hends hsent ⊢
    refine ⟨_, rfl, (hends.counter ..).trans hcounter, ?_, by rw [hends.save], by rw [hends.save], hsent⟩
    rw [hends.save]
    exact hmark

end

/-! ### The copy-out (R261) -/

/-- The copy is noted in module flash, and the save ends. -/
theorem SaveWork.noteCopyout_ends {s t : State} (h : SaveWork s t) (step job dest : Nat) (digest : List Byte) :
    SaveSent s (t.noteCopyout step job dest digest).signalDone.saveWaits s.saveEnds
      ∧ (t.noteCopyout step job dest digest).signalDone.saveWaits.save
        = { s.save with copyoutEpoch := none, waiting := true, granted := false, stage := .idle } := by
  have hends := saveSends_ends (t.noteCopyout step job dest digest)
  have hheld : SaveHeld s (t.noteCopyout step job dest digest) s.save := ⟨h.save, h.sent⟩
  refine ⟨?_, ?_⟩
  · have hsent := hheld.sends hends
    rwa [show (t.noteCopyout step job dest digest).saveEnds = t.saveEnds from rfl, h.saveEnds] at hsent
  · rw [hends.save, hheld.1]

theorem exec_copyOutSlot_of_idle {s : State} (h : s.saveActive = false ∨ s.save.stage ≠ .copyOut) :
    exec .copyOutSlot s = .next s := by
  show execCopyOutSlot s = _
  rcases h with h | h <;> simp [execCopyOutSlot, h]

section
variable {s : State} (hactive : s.saveActive = true) (hstage : s.save.stage = .copyOut)
include hactive hstage

/-- The copy's course, by the epoch in which its lines have been written. -/
theorem exec_copyOutSlot_of_new (hepoch : s.save.copyoutEpoch = none) :
    exec .copyOutSlot s = if s.hostFull s.copyDest (s.save.payloadLen + 256) then .next s
      else match s.savePay (s.save.payloadLen + 128) with
      | none => .next (s.saveHold (s.save.payloadLen + 128))
      | some u => .next ((u.copyBody (s.slotBase s.save.slot + 128) (s.copyDest + 128) (s.save.payloadLen + 128)).setSave
          { (u.copyBody (s.slotBase s.save.slot + 128) (s.copyDest + 128) (s.save.payloadLen + 128)).save with
            copyoutEpoch := some s.ncl.epoch }) := by
  show execCopyOutSlot s = _
  rw [execCopyOutSlot, hactive, hstage, hepoch]
  rfl

theorem exec_copyOutSlot_of_full (hepoch : s.save.copyoutEpoch = none)
    (hfull : s.hostFull s.copyDest (s.save.payloadLen + 256) = true) : exec .copyOutSlot s = .next s := by
  rw [exec_copyOutSlot_of_new hactive hstage hepoch, if_pos hfull]

theorem exec_copyOutSlot_of_room (hepoch : s.save.copyoutEpoch = none)
    (hroom : s.hostFull s.copyDest (s.save.payloadLen + 256) = false) :
    ∃ t, exec .copyOutSlot s = .next t ∧ SaveHeld s t (if (s.savePay (s.save.payloadLen + 128)).isSome then
      { s.save with copyoutEpoch := some s.ncl.epoch } else s.save) := by
  rw [exec_copyOutSlot_of_new hactive hstage hepoch, if_neg (by rw [hroom]; decide)]
  cases hpay : s.savePay (s.save.payloadLen + 128) with
  | none => exact ⟨_, rfl, saveHold_held ..⟩
  | some u => exact ⟨_, rfl, ((SaveWork.of_savePay hpay).copyBody ..).held.update fun x =>
      { x with copyoutEpoch := some s.ncl.epoch }⟩

theorem exec_copyOutSlot_of_other_epoch {e : BitVec 32} (hepoch : s.save.copyoutEpoch = some e) (hother : e ≠ s.ncl.epoch) :
    exec .copyOutSlot s = .next s.abandonCopyout := by
  show execCopyOutSlot s = _
  rw [execCopyOutSlot, hactive, hstage, hepoch]
  exact if_pos hother

section
variable (hepoch : s.save.copyoutEpoch = some s.ncl.epoch)
include hepoch

/-- In the same epoch the control line follows once the lines have been acknowledged. -/
theorem exec_copyOutSlot_of_owed (howed : s.copyoutHeld = true) : exec .copyOutSlot s = .next s := by
  show execCopyOutSlot s = _
  rw [execCopyOutSlot, hactive, hstage, hepoch]
  exact (if_neg (not_not.2 rfl)).trans (if_pos howed)

theorem exec_copyOutSlot_of_unpaid (hnone : s.copyoutHeld = false) (hpay : s.savePay 128 = none) :
    ∃ t, exec .copyOutSlot s = .next t ∧ SaveHeld s t s.save := by
  refine ⟨_, ?_, saveHold_held s 128⟩
  show execCopyOutSlot s = _
  rw [execCopyOutSlot, hactive, hstage, hepoch, hpay, hnone]
  exact if_neg (not_not.2 rfl)

theorem exec_copyOutSlot_of_paid (hnone : s.copyoutHeld = false) (hpay : s.savePay 128 ≠ none) :
    ∃ t, exec .copyOutSlot s = .next t ∧ SaveSent s t s.saveEnds
      ∧ t.save = { s.save with copyoutEpoch := none, waiting := true, granted := false, stage := .idle } := by
  have hread := ((SaveWork.refl s).charge pSave (saveWork 128)).readRun saveWho (s.slotBase s.save.slot) 128
  show ∃ t, execCopyOutSlot s = _ ∧ _
  rw [execCopyOutSlot, hactive, hstage, hepoch, hnone, savePay_of_paid hpay]
  dsimp only
  generalize State.readRun _ saveWho _ 128 = q at hread ⊢
  obtain ⟨t, ctl⟩ := q
  refine ⟨_, if_neg (not_not.2 rfl), ?_⟩
  exact (SaveWork.copyWrite hread .control s.copyDest ctl).noteCopyout_ends ..

end

end

end Sys2Proof.Machine
end

section
/-! RESTORE: the checks, what it writes, and its end (R263, R264, R279). -/

namespace Sys2Proof.Machine

/-! ### The end of a RESTORE (R279) -/

theorem readSlot_held (s : State) (k : Nat) : ∃ m, SaveHeld s (s.readSlot k) (s.save.setSlot k m) := by
  unfold State.readSlot
  split
  · exact ⟨none, (SaveWork.refl s).setSave _⟩
  · have hread := (SaveWork.refl s).readRun saveWho (s.slotBase k) 128
    generalize State.readRun s saveWho (s.slotBase k) 128 = q at hread ⊢
    exact ⟨controlMark q.2, hread.held.update fun x => x.setSlot k (controlMark q.2)⟩

theorem SaveHeld.trans {s t u : State} {x y : Save} (h : SaveHeld s t x) (k : SaveHeld t u y) : SaveHeld s u y := by
  obtain ⟨-, hmessages, htokens⟩ := h
  obtain ⟨hsave, hmessages', htokens'⟩ := k
  exact ⟨hsave, by rw [hmessages', hmessages, List.append_nil], htokens'.trans htokens⟩

/-- The slots are read anew, and no RESTORE runs. -/
theorem restoreEnds_held (s : State) (refused : Bool) : ∃ a b, SaveHeld s (s.restoreEnds refused)
    { s.save with restoring := none, restoreRefused := refused, slot0 := a, slot1 := b } := by
  have hended := (SaveWork.refl s).setSave { s.save with restoring := none, restoreRefused := refused }
  obtain ⟨a, hfirst⟩ := readSlot_held (s.setSave { s.save with restoring := none, restoreRefused := refused }) 0
  obtain ⟨b, hsecond⟩ := readSlot_held ((s.setSave { s.save with restoring := none, restoreRefused := refused }).readSlot 0) 1
  rw [hfirst.1] at hsecond
  exact ⟨a, b, (hended.trans hfirst).trans hsecond⟩

/-! ### What a RESTORE writes (R189, R263) -/

theorem token_of_tokens {s t : State} (h : t.tokens = s.tokens) (k : Nat) : t.token k = s.token k := by
  rw [State.token, h]
  rfl

/-- From `s` to `t` the save engine stays, and so do the tokens that the plan does not name. -/
structure RestoreWork (p : SavePlan) (s t : State) : Prop where
  save : t.save = s.save
  token : ∀ k, k ∉ p.tokens → t.token k = s.token k

theorem SaveWork.restores {s t : State} (h : SaveWork s t) (p : SavePlan) : RestoreWork p s t :=
  ⟨h.save, fun k _ => token_of_tokens h.tokens k⟩

theorem RestoreWork.trans {p : SavePlan} {s t u : State} (h : RestoreWork p s t) (k : RestoreWork p t u) : RestoreWork p s u :=
  ⟨k.save.trans h.save, fun n hn => (k.token n hn).trans (h.token n hn)⟩

theorem restoreWork_setCount {p : SavePlan} (s : State) {n : Nat} (hn : n ∈ p.tokens) (v : Nat) :
    RestoreWork p s ((s.setCount n v).release n) := by
  have hmove := (setCount_move s n v).trans (release_move (s.setCount n v) n)
  exact ⟨by rw [hmove.frame], fun k hk => hmove.others k fun heq => hk (heq ▸ hn)⟩

theorem restoreState_work (s : State) (base : Nat) (p : SavePlan) (counts : List Byte) :
    RestoreWork p s (s.restoreState base p counts) := by
  have hcopied : SaveWork s (p.placed.foldl (fun acc e => acc.copyRun e.2.2.src (base + e.2.1) e.2.2.len) s) :=
    (SaveWork.refl s).foldl _ fun _ hv => hv.copyRun ..
  refine List.foldlRecOn (motive := RestoreWork p s) _ _ (hcopied.restores p) fun t ht x hx => ?_
  exact ht.trans (restoreWork_setCount t (List.of_mem_zip hx).1 _)

theorem restoreJournal_held (s : State) (base : Nat) (p : SavePlan) (first fin : Nat) :
    SaveHeld s (s.restoreJournal base p first fin)
      { s.save with jrnNext := BitVec.ofNat 64 fin, jrnFirstHeld := BitVec.ofNat 64 first } := by
  have hcopied : SaveWork s ((List.range (fin - first)).foldl
      (fun acc i => acc.copyRun (acc.jrnAddr (first + i)) (base + p.jrnOff + 128 * i) 128) s) :=
    (SaveWork.refl s).foldl _ fun _ hv => hv.copyRun ..
  exact hcopied.held.update fun x => { x with jrnNext := BitVec.ofNat 64 fin, jrnFirstHeld := BitVec.ofNat 64 first }

/-- What a RESTORE writes whose checks have passed, once it is paid for: entries and tokens, and the journal where it is asked. -/
def State.restoreWrites (s : State) (journal : Bool) (p : SavePlan) (base first fin : Nat) (counts : List Byte) : State :=
  if journal then (s.restoreState base p counts).restoreJournal base p first fin else s.restoreState base p counts

theorem restoreWrites_work (s : State) (journal : Bool) (p : SavePlan) (base first fin : Nat) (counts : List Byte) :
    (∀ k, k ∉ p.tokens → (s.restoreWrites journal p base first fin counts).token k = s.token k)
      ∧ (s.restoreWrites journal p base first fin counts).save.jrnNext
        = if journal then BitVec.ofNat 64 fin else s.save.jrnNext := by
  have hstate := restoreState_work s base p counts
  cases journal
  · exact ⟨hstate.token, congrArg Save.jrnNext hstate.save⟩
  · obtain ⟨hsave, -, htokens⟩ := restoreJournal_held (s.restoreState base p counts) base p first fin
    exact ⟨fun k hk => (token_of_tokens htokens k).trans (hstate.token k hk), congrArg Save.jrnNext hsave⟩

/-! ### The course of a RESTORE (R263, R264) -/

/-- Where the save engine's RESTORE reads its checkpoint. -/
def State.restoreBase (s : State) : Nat := s.fld bSav 0x140 7 45 * 128

/-- Bytes that a RESTORE writes. -/
def restoreBytes (journal : Bool) (p : SavePlan) (ctl : PBytes) : Nat :=
  (p.entries.map (·.len)).sum + (if journal then 128 * ((segmentOf ctl.data).2 - (segmentOf ctl.data).1) else 0)

section
variable {s : State} {journal substituted : Bool}

/-- What the checks of a RESTORE find. -/
def State.restoreFinds (s : State) (substituted : Bool) : Option SavePlan :=
  s.restoreCheck s.restoreBase substituted (s.restoreReads s.restoreBase).2.1 (s.restoreReads s.restoreBase).2.2

theorem restoreRun_of_refused (hcheck : s.restoreFinds substituted = none) :
    s.restoreRun journal substituted = (s.restoreReads s.restoreBase).1.restoreEnds true := by
  rw [State.restoreFinds] at hcheck
  unfold State.restoreRun
  dsimp only
  rw [← State.restoreBase, hcheck]

variable {p : SavePlan} (hcheck : s.restoreFinds substituted = some p)
include hcheck

theorem restoreRun_of_unpaid
    (hpay : (s.restoreReads s.restoreBase).1.savePay (restoreBytes journal p (s.restoreReads s.restoreBase).2.1) = none) :
    s.restoreRun journal substituted = s.saveHold (restoreBytes journal p (s.restoreReads s.restoreBase).2.1) := by
  rw [State.restoreFinds] at hcheck
  rw [restoreBytes] at hpay ⊢
  unfold State.restoreRun
  dsimp only
  rw [← State.restoreBase, hcheck]
  dsimp only
  rw [hpay]

theorem restoreRun_of_paid
    (hpay : (s.restoreReads s.restoreBase).1.savePay (restoreBytes journal p (s.restoreReads s.restoreBase).2.1) ≠ none) :
    (s.restoreRun journal substituted).save.restoring = none ∧ (s.restoreRun journal substituted).save.restoreRefused = false
      ∧ (∀ k, k ∉ p.tokens → (s.restoreRun journal substituted).token k = s.token k)
      ∧ (s.restoreRun journal substituted).save.jrnNext
        = if journal then BitVec.ofNat 64 (segmentOf (s.restoreReads s.restoreBase).2.1.data).2 else s.save.jrnNext := by
  have hwork : SaveWork s ((s.restoreReads s.restoreBase).1.charge pSave (saveWork (restoreBytes journal p
    (s.restoreReads s.restoreBase).2.1))) := ((SaveWork.refl s).restoreReads _).charge ..
  have hpaid := savePay_of_paid hpay
  rw [State.restoreFinds] at hcheck
  rw [restoreBytes] at hpaid hwork
  unfold State.restoreRun
  dsimp only
  rw [← State.restoreBase, hcheck]
  dsimp only
  rw [hpaid]
  dsimp only
  generalize State.charge _ pSave _ = t at hwork ⊢
  rw [← State.restoreWrites]
  obtain ⟨htoken, hnext⟩ := restoreWrites_work t journal p s.restoreBase (segmentOf (s.restoreReads s.restoreBase).2.1.data).1
    (segmentOf (s.restoreReads s.restoreBase).2.1.data).2 ((s.restoreReads s.restoreBase).2.2.data.drop (p.tokenOff - 128))
  generalize State.restoreWrites t _ _ _ _ _ _ = u at htoken hnext ⊢
  obtain ⟨a, b, hsave, -, htokens⟩ := restoreEnds_held u false
  rw [hsave, ← hwork.save]
  exact ⟨rfl, rfl, fun k hk => (token_of_tokens htokens k).trans ((htoken k hk).trans ((hwork.restores p).token k hk)), hnext⟩

end

/-! ### The command (R263, R264, R446) -/

theorem startRestore_eq (s : State) (journal substituted : Bool) :
    s.startRestore journal substituted = { s with save := (s.startRestore journal substituted).save } := by
  unfold State.startRestore
  split <;> rfl

theorem startRestore_of_running {s : State} {r : Bool × Bool} (h : s.save.restoring = some r) (journal substituted : Bool) :
    s.startRestore journal substituted = s := by rw [State.startRestore, h]

/-- A RESTORE written beside another is ignored. -/
theorem exec_restore_of_other {s : State} {r : Bool × Bool} {journal substituted : Bool} (h : s.save.restoring = some r)
    (hother : r ≠ (journal, substituted)) : exec (.restore journal substituted) s = .next s := by
  show execRestore journal substituted s = _
  rw [execRestore, startRestore_of_running h]
  exact if_pos (by rw [h]; exact fun heq => hother (Option.some.inj heq))

section
variable {s : State} {journal substituted : Bool}
  (hmine : s.save.restoring = none ∨ s.save.restoring = some (journal, substituted))
include hmine

/-- The RESTORE is the one that runs, and the engine's state is otherwise what it was. -/
theorem startRestore_save : (s.startRestore journal substituted).save.restoring = some (journal, substituted)
    ∧ (s.startRestore journal substituted).save
      = { s.save with restoring := some (journal, substituted)
                      restoreRefused := (s.startRestore journal substituted).save.restoreRefused } := by
  rcases hmine with h | h
  · rw [State.startRestore, h]
    exact ⟨rfl, rfl⟩
  · rw [startRestore_of_running h, ← h]
    exact ⟨rfl, rfl⟩

theorem exec_restore_of_stopped (hstopped : s.power.issueStopped = true) :
    exec (.restore journal substituted) s = .next (s.startRestore journal substituted) := by
  show execRestore journal substituted s = _
  have hpower : (s.startRestore journal substituted).power.issueStopped = true := by
    rw [startRestore_eq]
    exact hstopped
  rw [execRestore]
  exact (if_neg (not_not.2 (startRestore_save hmine).1)).trans (if_pos hpower)

variable (hgoes : s.power.issueStopped = false)
include hgoes

theorem exec_restore_eq : exec (.restore journal substituted) s = if s.hostWaits s.restoreBase 128
    then .next ((s.startRestore journal substituted).hostStall saveWho)
    else .next ((s.startRestore journal substituted).restoreRun journal substituted) := by
  show execRestore journal substituted s = _
  have hpower : (s.startRestore journal substituted).power.issueStopped = false := by
    rw [startRestore_eq]
    exact hgoes
  have hwaits : (s.startRestore journal substituted).hostWaits ((s.startRestore journal substituted).fld bSav 0x140 7 45 * 128) 128
      = s.hostWaits s.restoreBase 128 := by
    rw [startRestore_eq]
    rfl
  rw [execRestore, if_neg (not_not.2 (startRestore_save hmine).1), hpower, hwaits]
  rfl

end

end Sys2Proof.Machine
end

section
/-! The replay journal: appends of the runtime and of the intake engines (R262, R266). -/

namespace Sys2Proof.Machine

/-! ### Entries (R216, R262) -/

theorem jrnWrite_held (s : State) (entry : List Byte) :
    SaveHeld s (s.jrnWrite entry) { s.save with jrnNext := s.save.jrnNext + 1 } := by
  unfold State.jrnWrite
  have hwritten := fun a line => ((SaveWork.refl s).writeRun saveWho a line).held
  exact (hwritten _ _).update fun x => { x with jrnNext := x.jrnNext + 1 }

theorem jrnAppend_of_unpaid {s : State} (h : s.savePay 128 = none) (entry : List Byte) : s.jrnAppend entry = none := by
  rw [State.jrnAppend, h]
  rfl

theorem jrnAppend_of_paid {s : State} (h : s.savePay 128 ≠ none) (entry : List Byte) :
    s.jrnAppend entry = some ((s.charge pSave (saveWork 128)).jrnWrite entry) := by
  rw [State.jrnAppend, savePay_of_paid h]
  rfl

theorem jrnAppend_intakes {s t : State} {entry : List Byte} (h : s.jrnAppend entry = some t) : t.intakes = s.intakes := by
  obtain ⟨u, hpay, rfl⟩ := Option.map_eq_some_iff.1 h
  unfold State.jrnWrite
  exact ((SaveWork.of_savePay hpay).writeRun ..).intakes

/-- An entry whose price is covered is written, and the next one follows it. -/
theorem jrnAppend_held {s t : State} {entry : List Byte} (h : s.jrnAppend entry = some t) :
    SaveHeld s t { s.save with jrnNext := s.save.jrnNext + 1 } := by
  obtain ⟨u, hpay, rfl⟩ := Option.map_eq_some_iff.1 h
  have hwork := SaveWork.of_savePay hpay
  have hwritten := jrnWrite_held u entry
  rw [hwork.save] at hwritten
  exact hwork.held.trans hwritten

/-! ### Appends that wait (R216, R262) -/

/-- From `s` to `t` entries have been written in order or wait: those that were due are so still, or are in the journal. -/
structure Drained (n : Nat) (s t : State) : Prop where
  sent : SaveSent s t []
  save : t.save = { s.save with jrnNext := t.save.jrnNext, appends := t.save.appends }
  count : t.save.jrnNext + BitVec.ofNat 64 t.save.appends.length = s.save.jrnNext + BitVec.ofNat 64 n

theorem drained_drainAppends (entries : List (List Byte)) (s : State) :
    Drained entries.length s (State.drainAppends entries s) := by
  induction entries generalizing s with
  | nil => exact ⟨(SaveWork.refl s).sent, rfl, rfl⟩
  | cons e es ih =>
    unfold State.drainAppends
    split
    · next t happend =>
      obtain ⟨hsave, hmessages, htokens⟩ := jrnAppend_held happend
      obtain ⟨⟨hmessages', htokens'⟩, hsave', hcount⟩ := ih t
      generalize State.drainAppends es t = u at *
      rw [hsave] at hsave' hcount
      refine ⟨⟨by rw [hmessages', hmessages, List.append_nil], htokens'.trans htokens⟩, hsave', ?_⟩
      rw [hcount, List.length_cons, BitVec.ofNat_add, BitVec.add_assoc, BitVec.add_comm 1]
      rfl
    · exact ⟨(saveHold_held s 128).2, rfl, rfl⟩

/-- A single entry is written if its price is covered. -/
theorem jrnNext_drainAppends_single (s : State) (entry : List Byte) : (State.drainAppends [entry] s).save.jrnNext
    = if s.savePay 128 = none then s.save.jrnNext else s.save.jrnNext + 1 := by
  unfold State.drainAppends
  split
  · next t happend =>
    have hpaid : s.savePay 128 ≠ none := fun hnone => by rw [jrnAppend_of_unpaid hnone] at happend; cases happend
    rw [if_neg hpaid]
    exact congrArg Save.jrnNext (jrnAppend_held happend).1
  · next hnone =>
    have hunpaid : s.savePay 128 = none := by
      by_contra hpaid
      rw [jrnAppend_of_paid hpaid] at hnone
      cases hnone
    rw [if_pos hunpaid]
    rfl

/-! ### APPEND (R262) -/

/-- The entry that the registers stage. -/
def State.stagedAppend (s : State) : List Byte := (List.range 14).flatMap fun i => leBytes 8 (s.reg bSav (0x180 + 8 * i)).toNat

theorem exec_append_eq (s : State) : exec .append s = if s.jrnRoom (s.save.jrnNext.toNat + s.save.appends.length) = true
    then .next ((s.setSave { s.save with jrnFull := false }).runAppends (s.save.appends ++ [s.stagedAppend]))
    else .next ((s.setSave { s.save with jrnFull := true }).count bSav 0x210 1) := rfl

theorem exec_append_of_full {s : State} (hfull : s.jrnRoom (s.save.jrnNext.toNat + s.save.appends.length) = false) :
    ∃ t, exec .append s = .next t ∧ t = { s with save := { s.save with jrnFull := true }, counters := t.counters }
      ∧ t.counter bSav 0x210 = s.counter bSav 0x210 + 1 := by
  rw [exec_append_eq, if_neg (by rw [hfull]; decide)]
  exact ⟨_, rfl, rfl, counter_count ..⟩

theorem exec_append_of_room {s : State} (hroom : s.jrnRoom (s.save.jrnNext.toNat + s.save.appends.length) = true) :
    ∃ t, exec .append s = .next t ∧ SaveSent s t []
      ∧ t.save = { s.save with jrnFull := false, jrnNext := t.save.jrnNext, appends := t.save.appends }
      ∧ t.save.jrnNext + BitVec.ofNat 64 t.save.appends.length = s.save.jrnNext + BitVec.ofNat 64 (s.save.appends.length + 1)
      ∧ (s.power.issueStopped = true → t.save.jrnNext = s.save.jrnNext ∧ t.mem = s.mem)
      ∧ (s.save.appends = [] → s.power.issueStopped = false →
        t.save.jrnNext = if s.savePay 128 = none then s.save.jrnNext else s.save.jrnNext + 1) := by
  have hlength : (s.save.appends ++ [s.stagedAppend]).length = s.save.appends.length + 1 := by simp
  rw [exec_append_eq, if_pos hroom]
  refine ⟨_, rfl, ?_⟩
  unfold State.runAppends
  split
  case isTrue hstopped =>
    refine ⟨(SaveWork.refl s).sent, rfl, congrArg (s.save.jrnNext + BitVec.ofNat 64 ·) hlength, fun _ => ⟨rfl, rfl⟩,
      fun _ hgoes => absurd (hgoes.symm.trans hstopped) (by decide)⟩
  case isFalse hgoes =>
    obtain ⟨hsent, hsave, hcount⟩ :=
      drained_drainAppends (s.save.appends ++ [s.stagedAppend]) (s.setSave { s.save with jrnFull := false })
    rw [hlength] at hcount
    refine ⟨hsent, hsave, hcount, fun hstopped => absurd hstopped hgoes, fun hempty _ => ?_⟩
    rw [hempty, List.nil_append, jrnNext_drainAppends_single]
    exact if_congr (savePay_eq_none_of_energy (s := s) (t := s.setSave { s.save with jrnFull := false }) rfl _) rfl rfl

/-! ### INTAKE_JOURNAL_APPEND (R262, R266) -/

theorem exec_intakeJournalAppend_of_waits {s : State} {engine : Ix16}
    (h : (s.intake engine).journal = [] ∨ s.jrnRoom s.save.jrnNext.toNat = false ∨ s.save.appends ≠ []
      ∨ s.power.issueStopped = true) :
    exec (.intakeJournalAppend engine) s = .next s := by
  show execIntakeJournalAppend engine s = _
  unfold execIntakeJournalAppend
  dsimp only
  split
  · next hjournal =>
    refine if_neg fun hgo => ?_
    simp only [Bool.and_eq_true, List.isEmpty_iff, Bool.not_eq_true'] at hgo
    obtain ⟨⟨hroom, hempty⟩, hgoes⟩ := hgo
    rcases h with h | h | h | h
    · rw [h] at hjournal
      cases hjournal
    · rw [h] at hroom
      cases hroom
    · exact h hempty
    · rw [h] at hgoes
      cases hgoes
  · rfl

theorem exec_intakeJournalAppend_of_entry {s : State} {engine : Ix16} {entry : Nat × Nat × Nat × Nat × Nat}
    {rest : List (Nat × Nat × Nat × Nat × Nat)}
    (hjournal : (s.intake engine).journal = entry :: rest) (hroom : s.jrnRoom s.save.jrnNext.toNat = true)
    (hempty : s.save.appends = []) (hgoes : s.power.issueStopped = false) :
    ∃ t, exec (.intakeJournalAppend engine) s = .next t ∧ SaveSent s t []
      ∧ (∀ j, j ≠ (engine : Nat) → t.intake j = s.intake j)
      ∧ if s.savePay 128 = none then t.save = s.save ∧ t.intake engine = s.intake engine
        else t.save = { s.save with jrnNext := s.save.jrnNext + 1 }
          ∧ t.intake engine = { s.intake engine with journal := rest } := by
  obtain ⟨sample, pos, work, reason, step⟩ := entry
  let u := s.setIntake engine { s.intake engine with journal := rest }
  have hrun : exec (.intakeJournalAppend engine) s
      = match u.jrnAppend (substitutionEntry engine sample pos work reason step) with
        | some t => .next t
        | none => .next (s.saveHold 128) := by
    show execIntakeJournalAppend engine s = _
    unfold execIntakeJournalAppend
    dsimp only
    rw [hjournal]
    exact if_pos (by rw [hroom, hempty, hgoes]; rfl)
  by_cases hpay : s.savePay 128 = none
  · rw [hrun, jrnAppend_of_unpaid (s := u) ((savePay_eq_none_of_energy (s := s) (t := u) rfl _).2 hpay)]
    refine ⟨_, rfl, (saveHold_held s 128).2, fun _ _ => rfl, ?_⟩
    rw [if_pos hpay]
    exact ⟨rfl, rfl⟩
  · have happend := jrnAppend_of_paid (s := u) (mt (savePay_eq_none_of_energy (s := s) (t := u) rfl _).1 hpay)
      (substitutionEntry engine sample pos work reason step)
    rw [hrun, happend]
    generalize State.jrnWrite _ _ = t at happend ⊢
    obtain ⟨hsave, hsent⟩ := jrnAppend_held happend
    have hintake : ∀ j, t.intake j = u.intake j := fun j => congrArg (Map.get · j Intake.reset) (jrnAppend_intakes happend)
    refine ⟨_, rfl, hsent, fun j hj => (hintake j).trans (intake_setIntake_ne _ _ _ _ hj), ?_⟩
    rw [if_neg hpay]
    exact ⟨hsave, (hintake engine).trans (intake_setIntake_same ..)⟩

end Sys2Proof.Machine
end

section
/-! O45: saves, RESTORE and the replay journal (R253 to R267, R279). -/

namespace Sys2Proof.Machine

/-- A save's start, in the order of the statement: the plan, its checks, its price (R254 to R258). -/
theorem saveStartClauses {s : State} (hactive : s.saveActive = true) (hgranted : s.save.granted = true)
    (hquiet : s.save.plan = [] → s.planStalls s.planBase = false) :
    (s.planRead = none → ∃ t, exec .saveStart s = .next t ∧ SaveFaulted s t 4) ∧
    (∀ d, s.planRead = some d →
      ((planOf d).ok = false → ∃ t, exec .saveStart s = .next t ∧ SaveFaulted s t 1) ∧
      ((planOf d).ok = true → s.slotSize < (planOf d).jrnOff → ∃ t, exec .saveStart s = .next t ∧ SaveFaulted s t 5) ∧
      ((planOf d).ok = true → (planOf d).jrnOff ≤ s.slotSize → s.savePay (planOf d).startBytes = none →
        ∃ t, exec .saveStart s = .next t ∧ SaveHeld s t { s.save with plan := d }) ∧
      ((planOf d).ok = true → (planOf d).jrnOff ≤ s.slotSize → s.savePay (planOf d).startBytes ≠ none →
        ∃ t, exec .saveStart s = .next t ∧ SaveHeld s t
          ({ s.save with plan := d, stage := .started, granted := false, slot := s.save.nextSlot }.setSlot
            s.save.nextSlot none))) := by
  obtain ⟨u, hwork, henergy, hrun⟩ := exec_saveStart_of_read hactive hgranted hquiet
  rw [hrun]
  refine ⟨fun hread => ?_, fun d hread => ?_⟩
  · rw [hread]
    exact ⟨_, rfl, hwork.saveFaults (x := u.save) (congrArg Save.released hwork.save) 4 0⟩
  · rw [hread]
    have hsame : ({ s.save with plan := d } : Save).released = s.save.released := rfl
    exact ⟨fun hplan => ⟨_, rfl, saveBegin_of_unsound hwork hsame hplan⟩,
      fun hplan hshort => ⟨_, rfl, saveBegin_of_short hwork hsame hplan hshort⟩,
      fun hplan hroom hpay => ⟨_, rfl, saveBegin_of_unpaid hwork henergy hplan hroom hpay⟩,
      fun hplan hroom hpay => ⟨_, rfl, saveBegin_of_paid hwork henergy hplan hroom hpay⟩⟩

theorem slot_setSlot (x : Save) (k : Nat) (m : Option (W32 × Word64)) : (x.setSlot k m).slot = x.slot := by
  unfold Save.setSlot
  split <;> rfl

/-- The slot that a save takes is marked invalid, and the other keeps its mark. -/
theorem slots_setSlot_nextSlot (x : Save) :
    let y := x.setSlot x.nextSlot none
    y = { x with slot0 := y.slot0, slot1 := y.slot1 } ∧ y.slotMark x.nextSlot = none
      ∧ y.slotMark (1 - x.nextSlot) = x.slotMark (1 - x.nextSlot) := by
  unfold Save.nextSlot
  split <;> exact ⟨rfl, rfl, rfl⟩

/-- A RESTORE that goes on, in the order of the statement: a check that fails, then the price (R216, R263). -/
theorem restoreClauses {s : State} {journal substituted : Bool}
    (hmine : s.save.restoring = none ∨ s.save.restoring = some (journal, substituted)) (hgoes : s.power.issueStopped = false)
    (hnow : s.hostWaits s.restoreBase 128 = false) {u : State} (hstart : s.startRestore journal substituted = u) :
    (u.restoreFinds substituted = none → ∃ t, exec (.restore journal substituted) s = .next t ∧ SaveSent s t []
      ∧ t.save = { s.save with restoring := none, restoreRefused := true, slot0 := t.save.slot0, slot1 := t.save.slot1 }) ∧
    ∀ p, u.restoreFinds substituted = some p →
      ((u.restoreReads u.restoreBase).1.savePay (restoreBytes journal p (u.restoreReads u.restoreBase).2.1) = none →
        ∃ t, exec (.restore journal substituted) s = .next t ∧ SaveSent s t []
          ∧ t.save.restoring = some (journal, substituted)) ∧
      ((u.restoreReads u.restoreBase).1.savePay (restoreBytes journal p (u.restoreReads u.restoreBase).2.1) ≠ none →
        ∃ t, exec (.restore journal substituted) s = .next t ∧ t.save.restoring = none ∧ t.save.restoreRefused = false
          ∧ (∀ k, k ∉ p.tokens → t.token k = s.token k)
          ∧ t.save.jrnNext
            = if journal then BitVec.ofNat 64 (segmentOf (u.restoreReads u.restoreBase).2.1.data).2 else s.save.jrnNext) := by
  have hrun := exec_restore_eq hmine hgoes
  have hframe := startRestore_eq s journal substituted
  obtain ⟨hrestoring, hsave⟩ := startRestore_save hmine
  rw [hstart] at hrun hframe hrestoring hsave
  rw [if_neg (by rw [hnow]; decide)] at hrun
  rw [hrun]
  have hstarted : SaveHeld s u u.save := ⟨rfl, by rw [hframe, List.append_nil], by rw [hframe]⟩
  refine ⟨fun hcheck => ?refused, fun p hcheck => ⟨fun hpay => ?unpaid, fun hpay => ?paid⟩⟩
  case refused =>
    have hread := hstarted.work ((SaveWork.refl u).restoreReads u.restoreBase)
    obtain ⟨a, b, hends⟩ := restoreEnds_held (u.restoreReads u.restoreBase).1 true
    obtain ⟨hended, hsent⟩ := hread.trans hends
    rw [hread.1, hsave] at hended
    rw [restoreRun_of_refused hcheck]
    refine ⟨_, rfl, hsent, ?_⟩
    rw [hended]
  case unpaid =>
    rw [restoreRun_of_unpaid hcheck hpay]
    exact ⟨_, rfl, (hstarted.trans (saveHold_held u _)).2, hrestoring⟩
  case paid =>
    obtain ⟨hended, hpassed, htoken, hnext⟩ := restoreRun_of_paid hcheck hpay
    rw [hsave] at hnext
    exact ⟨_, rfl, hended, hpassed, fun k hk => (htoken k hk).trans (token_of_tokens hstarted.2.2 k), hnext⟩

/-- Settles O45, command by command. -/
theorem savesAndJournal : Obligations.SavesAndJournal := by
  unfold Obligations.SavesAndJournal
  intro s
  refine ⟨exec_saveStart_of_idle, fun hactive hgranted => ⟨exec_saveStart_of_stalls hactive hgranted, fun hquiet => ?start⟩,
    exec_saveCapture_of_idle, fun tc hactive hturn => ⟨exec_saveCapture_of_moved hactive hturn,
      exec_saveCapture_of_unpaid hactive hturn, exec_saveCapture_of_short hactive hturn,
      fun hstage hroom s1 s2 hpay hcopy hclean => exec_saveCapture_of_late hactive hturn hstage hroom hpay hcopy hclean⟩,
    exec_saveValidate_of_idle, fun hactive hstage => ⟨exec_saveValidate_of_unpaid hactive hstage,
      exec_saveValidate_of_paid hactive hstage⟩,
    exec_copyOutSlot_of_idle, fun hactive hstage => ⟨exec_copyOutSlot_of_full hactive hstage,
      exec_copyOutSlot_of_room hactive hstage, fun e hepoch hother => ?abandoned, exec_copyOutSlot_of_owed hactive hstage,
      exec_copyOutSlot_of_unpaid hactive hstage, exec_copyOutSlot_of_paid hactive hstage⟩,
    fun journal substituted => ⟨fun r hrunning hother => exec_restore_of_other hrunning hother, fun hmine => ?restore⟩,
    exec_append_of_room, exec_append_of_full, fun engine => ⟨exec_intakeJournalAppend_of_waits,
      fun g rest hjournal hroom hempty hgoes => exec_intakeJournalAppend_of_entry hjournal hroom hempty hgoes⟩⟩
  case start =>
    obtain ⟨hunread, hplanned⟩ := saveStartClauses hactive hgranted hquiet
    refine ⟨hunread, fun d hread => ?_⟩
    obtain ⟨hunsound, hshort, hunpaid, hpaid⟩ := hplanned d hread
    refine ⟨hunsound, hshort, hunpaid, fun hplan hroom hpay => ?_⟩
    obtain ⟨t, hrun, hsave, hsent⟩ := hpaid hplan hroom hpay
    obtain ⟨hframe, hmark, hother⟩ := slots_setSlot_nextSlot
      { s.save with plan := d, stage := .started, granted := false, slot := s.save.nextSlot }
    refine ⟨t, hrun, hsent, ?_⟩
    rw [hsave, slot_setSlot]
    exact ⟨hframe, rfl, hmark, hother⟩
  case abandoned =>
    have hends := saveSends_abandonCopyout s
    refine ⟨_, exec_copyOutSlot_of_other_epoch hactive hstage hepoch hother, hends.save, ?_⟩
    rw [hends.save]
    exact hends
  case restore =>
    have hframe := startRestore_eq s journal substituted
    have hbase : (s.startRestore journal substituted).restoreBase = s.restoreBase := by
      rw [hframe]
      rfl
    refine ⟨hframe, (startRestore_save hmine).1, exec_restore_of_stopped hmine, fun hgoes hwaits => ?_, fun hgoes hnow => ?_⟩
    · rw [exec_restore_eq hmine hgoes]
      exact if_pos hwaits
    · have hclauses := restoreClauses hmine hgoes hnow rfl
      rw [State.restoreFinds, hbase] at hclauses
      exact hclauses

end Sys2Proof.Machine
end

section
/-! Why O52 fails. A request that waits to be sent again names its home arbiter by a number that the state does not bound.
The device has 72 arbiters; number 80 would have block 0xC90, which is the block of HBM3E stack 0. A read of line 0 that names
arbiter 80 then counts its 128 bytes of DRAM in the very counter of admitted requests. Where the number is below 72, as that
of every request which the model itself puts there, the two blocks differ. -/

namespace Sys2Proof.Machine

/-- A read of line 0 by intake engine 4, held back so far, that names an arbiter which the device does not have. -/
def strayRead : Retried :=
  { home := 80, line := 0, req := .rdns, src := .requester 0x1104, data := [], mask := 0, age := 0, sent := false }

/-- That read is the only request that waits. -/
def strayWaits : State := { State.reset with retried := [strayRead] }

/-- One request and 128 bytes are counted together. -/
theorem strayWaits_retry :
    ∃ t, exec (.retry 0x1104) strayWaits = .next t ∧ t.counter (bHome strayRead.home) 0x140 = 129 :=
  ⟨_, rfl, by decide +kernel⟩

/-- Refutes O52: RETRY of `strayRead` finds room and adds 129 to the counter to which the statement wants 1 added. -/
theorem not_snoopsRetriesAndDeadAgents : ¬ Obligations.SnoopsRetriesAndDeadAgents := by
  unfold Obligations.SnoopsRetriesAndDeadAgents
  intro h
  obtain ⟨-, -, -, hretry, -, -, -⟩ := h strayWaits
  obtain ⟨-, hserved⟩ := hretry 0x1104 strayRead rfl
  obtain ⟨-, -, hroom⟩ := hserved rfl
  obtain ⟨t, hexec, -, hcount⟩ := hroom (by decide +kernel) rfl rfl
  obtain ⟨u, hrun, hmore⟩ := strayWaits_retry
  cases hrun.symm.trans hexec
  exact absurd (hmore.symm.trans hcount) (by decide +kernel)

end Sys2Proof.Machine
end

section
/-! The nibble code: the syndrome is linear and vanishes on codewords, so an error confined to one symbol is found and corrected
whatever the data (R328 to R330). -/

namespace Sys2Proof.Machine

/-! ### Linearity -/

theorem Gf4.ext {a b : Gf4} (h0 : a.x0 = b.x0) (h1 : a.x1 = b.x1) (h2 : a.x2 = b.x2) (h3 : a.x3 = b.x3) : a = b := by
  cases a
  cases b
  simp_all

theorem gfDouble_lt : ∀ a < 16, gfDouble a < 16 := by decide

theorem gfDouble_xor : ∀ a < 16, ∀ b < 16, gfDouble (a ^^^ b) = gfDouble a ^^^ gfDouble b := by decide +kernel

theorem gfMul_xor {a b : Nat} (c : Nat) (ha : a < 16) (hb : b < 16) : gfMul (a ^^^ b) c = gfMul a c ^^^ gfMul b c := by
  have ha1 := gfDouble_lt a ha
  have hb1 := gfDouble_lt b hb
  have h1 := gfDouble_xor a ha b hb
  have h2 := gfDouble_xor _ ha1 _ hb1
  have h3 := gfDouble_xor _ (gfDouble_lt _ ha1) _ (gfDouble_lt _ hb1)
  have hterm : ∀ (p : Bool) (x y : Nat), (if p then x ^^^ y else 0) = (if p then x else 0) ^^^ (if p then y else 0) :=
    fun p x y => by cases p <;> simp
  simp only [gfMul, h1, h2, h3, hterm]
  ac_rfl

theorem gfMul_lt {a c : Nat} (ha : a < 16) : gfMul a c < 16 := by
  have hterm : ∀ (p : Bool) {x : Nat}, x < 2 ^ 4 → (if p then x else 0) < 2 ^ 4 := fun p x hx => by
    cases p
    · exact Nat.two_pow_pos 4
    · exact hx
  have h1 := gfDouble_lt a ha
  have h2 := gfDouble_lt _ h1
  exact Nat.xor_lt_two_pow (Nat.xor_lt_two_pow (Nat.xor_lt_two_pow (hterm _ ha) (hterm _ h1)) (hterm _ h2))
    (hterm _ (gfDouble_lt _ h2))

theorem gfMul_comm : ∀ a < 16, ∀ b < 16, gfMul a b = gfMul b a := by decide +kernel

theorem Gf4.smul_xor {a b : Nat} (v : Gf4) (ha : a < 16) (hb : b < 16) :
    Gf4.smul (a ^^^ b) v = Gf4.add (Gf4.smul a v) (Gf4.smul b v) := by
  simp only [Gf4.smul, Gf4.add, gfMul_xor _ ha hb]

theorem Gf4.add_add_add_comm (a b c d : Gf4) : (a.add b).add (c.add d) = (a.add c).add (b.add d) := by
  simp only [Gf4.add, Gf4.mk.injEq]
  refine ⟨?_, ?_, ?_, ?_⟩ <;> ac_rfl

theorem weigh_xor (n j v w : Nat) : weigh n j (v ^^^ w) = (weigh n j v).add (weigh n j w) := by
  induction n generalizing j v w with
  | zero => simp [weigh, Gf4.add, Gf4.zero]
  | succ n ih =>
    have hmod : (v ^^^ w) % 16 = v % 16 ^^^ w % 16 := Nat.xor_mod_two_pow (n := 4)
    have hdiv : (v ^^^ w) / 16 = v / 16 ^^^ w / 16 := Nat.xor_div_two_pow (n := 4)
    simp only [weigh, hmod, hdiv, ih, Gf4.smul_xor _ (Nat.mod_lt v (by decide)) (Nat.mod_lt w (by decide))]
    exact Gf4.add_add_add_comm ..

theorem syndrome_xor (d e : BitVec 128) (q f : BitVec 16) :
    syndrome (d ^^^ e) (q ^^^ f) = (syndrome d q).add (syndrome e f) := by
  simp only [syndrome, BitVec.toNat_xor, weigh_xor]
  exact Gf4.add_add_add_comm ..

/-! ### Codewords -/

/-- Every element is one of GF(16). -/
def Gf4.Small (a : Gf4) : Prop := a.x0 < 16 ∧ a.x1 < 16 ∧ a.x2 < 16 ∧ a.x3 < 16

theorem Gf4.small_weigh (n j v : Nat) : (weigh n j v).Small := by
  induction n generalizing j v with
  | zero => simp [weigh, Gf4.Small, Gf4.zero]
  | succ n ih =>
    have hk : v % 16 < 16 := Nat.mod_lt v (by decide)
    obtain ⟨h0, h1, h2, h3⟩ := ih (j + 1) (v / 16)
    exact ⟨Nat.xor_lt_two_pow (n := 4) (gfMul_lt hk) h0, Nat.xor_lt_two_pow (n := 4) (gfMul_lt hk) h1,
      Nat.xor_lt_two_pow (n := 4) (gfMul_lt hk) h2, Nat.xor_lt_two_pow (n := 4) (gfMul_lt hk) h3⟩

/-- What four check symbols weigh. -/
theorem weigh_checks {q0 q1 q2 q3 : Nat} (h0 : q0 < 16) (h1 : q1 < 16) (h2 : q2 < 16) (h3 : q3 < 16) :
    weigh 4 32 (BitVec.ofNat 16 (q0 + 16 * q1 + 256 * q2 + 4096 * q3)).toNat
      = ⟨q1 ^^^ q2 ^^^ q3, q2, q3, q0 ^^^ q2 ^^^ gfMul gfC q3⟩ := by
  have hzero : ∀ a < 16, gfMul a 0 = 0 := by decide
  have hone : ∀ a < 16, gfMul a 1 = a := by decide
  have hq : (q0 + 16 * q1 + 256 * q2 + 4096 * q3) % 2 ^ 16 = q0 + 16 * q1 + 256 * q2 + 4096 * q3 :=
    Nat.mod_eq_of_lt (by omega)
  have e0 : (q0 + 16 * q1 + 256 * q2 + 4096 * q3) % 16 = q0 := by omega
  have e1 : (q0 + 16 * q1 + 256 * q2 + 4096 * q3) / 16 % 16 = q1 := by omega
  have e2 : (q0 + 16 * q1 + 256 * q2 + 4096 * q3) / 16 / 16 % 16 = q2 := by omega
  have e3 : (q0 + 16 * q1 + 256 * q2 + 4096 * q3) / 16 / 16 / 16 % 16 = q3 := by omega
  simp only [BitVec.toNat_ofNat, hq, weigh, e0, e1, e2, e3, column, Gf4.smul, Gf4.add, Gf4.zero]
  simp [hzero, hone, h0, h1, h2, h3, gfMul_comm q3 h3 gfC (by decide), Nat.xor_assoc]

/-- A codeword has no syndrome (R329, R330). -/
theorem syndrome_nibbleEncode (d : BitVec 128) : syndrome d (nibbleEncode d) = .zero := by
  obtain ⟨h0, h1, h2, h3⟩ := Gf4.small_weigh 32 0 d.toNat
  unfold syndrome nibbleEncode
  generalize weigh 32 0 d.toNat = s at *
  have hx : ∀ {a b : Nat}, a < 16 → b < 16 → a ^^^ b < 16 := fun ha hb => Nat.xor_lt_two_pow (n := 4) ha hb
  dsimp only
  rw [weigh_checks (hx (hx h3 h1) (gfMul_lt (by decide))) (hx (hx h0 h1) h2) h1 h2]
  simp [Gf4.add, Gf4.zero, Nat.xor_assoc]

/-! ### One wrong symbol -/

/-- The flipped bits of an error x in symbol j of a codeword: data in [127:0], check bits in [143:128]. -/
def symbolError (j x : Nat) : BitVec 144 := BitVec.ofNat 144 x <<< (4 * j)

theorem symbolError_ne_zero : ∀ j < 36, ∀ x < 16, x ≠ 0 → symbolError j x ≠ 0 := by decide +kernel

/-- The data bits of an error, as the decoder puts them back. -/
theorem truncate_symbolError : ∀ j < 36, ∀ x < 16,
    (symbolError j x).truncate 128 = if j < 32 then BitVec.ofNat 128 x <<< (4 * j) else 0 := by
  decide +kernel

/-- An error lies in the data or in the check bits. -/
theorem toNat_symbolError : ∀ j < 36, ∀ x < 16,
    ((symbolError j x).truncate 128).toNat = (if j < 32 then x * 16 ^ j else 0)
      ∧ ((symbolError j x >>> 128).truncate 16).toNat = (if j < 32 then 0 else x * 16 ^ (j - 32)) := by
  decide +kernel

theorem weigh_zero (n j : Nat) : weigh n j 0 = .zero := by
  induction n generalizing j with
  | zero => rfl
  | succ n ih => simp [weigh, ih, Gf4.smul, gfMul, gfDouble, Gf4.add, Gf4.zero]

/-- One symbol of a run weighs its multiple of its column. -/
theorem weigh_symbol {x : Nat} (hx : x < 16) (n j k : Nat) (hk : k < n) :
    weigh n j (x * 16 ^ k) = Gf4.smul x (column (j + k)) := by
  induction n generalizing j k with
  | zero => omega
  | succ n ih =>
    cases k with
    | zero => simp [weigh, Nat.mod_eq_of_lt hx, Nat.div_eq_of_lt hx, weigh_zero, Gf4.add, Gf4.zero]
    | succ k =>
      have hdiv : x * 16 ^ (k + 1) / 16 = x * 16 ^ k := by rw [pow_succ, ← Nat.mul_assoc]; simp
      have hmod : x * 16 ^ (k + 1) % 16 = 0 := by rw [pow_succ, ← Nat.mul_assoc]; simp
      rw [weigh, hmod, hdiv, ih _ _ (by omega), show j + 1 + k = j + (k + 1) by omega]
      simp [Gf4.smul, gfMul, gfDouble, Gf4.add]

theorem syndrome_symbolError {j x : Nat} (hj : j < 36) (hx : x < 16) :
    syndrome ((symbolError j x).truncate 128) ((symbolError j x >>> 128).truncate 16) = Gf4.smul x (column j) := by
  obtain ⟨hdata, hcheck⟩ := toNat_symbolError j hj x hx
  unfold syndrome
  rw [hdata, hcheck]
  split
  · next hlow =>
    rw [weigh_symbol hx 32 0 j hlow, weigh_zero]
    simp [Gf4.add, Gf4.zero]
  · next hhigh =>
    rw [weigh_symbol hx 4 32 (j - 32) (by omega), weigh_zero, Nat.add_sub_cancel' (Nat.le_of_not_lt hhigh)]
    simp [Gf4.add, Gf4.zero]

/-! ### The column of a syndrome -/

theorem gfMul_eq_zero : ∀ x < 16, x ≠ 0 → ∀ a < 16, gfMul x a = 0 → a = 0 := by decide +kernel

theorem gfMul_injective {x a b : Nat} (hx : x < 16) (hne : x ≠ 0) (ha : a < 16) (hb : b < 16)
    (h : gfMul x a = gfMul x b) : a = b := by
  have hab : a ^^^ b < 16 := Nat.xor_lt_two_pow (n := 4) ha hb
  refine Nat.xor_eq_zero_iff.1 (gfMul_eq_zero x hx hne _ hab ?_)
  rw [gfMul_comm x hx _ hab, gfMul_xor _ ha hb, gfMul_comm a ha x hx, gfMul_comm b hb x hx, h, Nat.xor_self]

theorem Gf4.smul_injective {x : Nat} (hx : x < 16) (hne : x ≠ 0) {a b : Gf4} (ha : a.Small) (hb : b.Small)
    (h : Gf4.smul x a = Gf4.smul x b) : a = b := by
  obtain ⟨a0, a1, a2, a3⟩ := ha
  obtain ⟨b0, b1, b2, b3⟩ := hb
  obtain ⟨h0, h1, h2, h3⟩ := Gf4.mk.inj h
  exact Gf4.ext (gfMul_injective hx hne a0 b0 h0) (gfMul_injective hx hne a1 b1 h1) (gfMul_injective hx hne a2 b2 h2)
    (gfMul_injective hx hne a3 b3 h3)

theorem small_column : ∀ j < 36, (column j).Small := by
  unfold Gf4.Small
  decide +kernel

theorem column_injective : ∀ i < 36, ∀ j < 36, column i = column j → i = j := by decide +kernel

/-- Every column but that of check symbol 0 begins with 1. -/
theorem column_head : ∀ j < 36, column j = ⟨0, 0, 0, 1⟩ ∧ j = 32 ∨ (column j).x0 = 1 ∧ j ≠ 32 := by decide +kernel

theorem findSymbol_of_only {s : Gf4} {j : Nat} (hj : Gf4.smul s.x0 (column j) = s) (n : Nat) (hn : j < n)
    (honly : ∀ i < n, Gf4.smul s.x0 (column i) = s → i = j) : findSymbol s n = some j := by
  induction n with
  | zero => omega
  | succ n ih =>
    rw [findSymbol]
    split
    · next h => rw [honly n (by omega) h]
    · next h =>
      have hne : j ≠ n := fun hjn => h (hjn ▸ hj)
      exact ih (by omega) fun i hi => honly i (by omega)

/-- Every error confined to one symbol is corrected (R330). -/
theorem nibbleDecode_symbolError (d : BitVec 128) {j x : Nat} (hj : j < 36) (hx : x < 16) (hne : x ≠ 0) :
    nibbleDecode (d ^^^ (symbolError j x).truncate 128) (nibbleEncode d ^^^ (symbolError j x >>> 128).truncate 16)
      = .corrected d j := by
  have hzero : ∀ s : Gf4, Gf4.add .zero s = s := fun s => by simp [Gf4.add, Gf4.zero]
  have hmul : ∀ a < 16, gfMul a 0 = 0 ∧ gfMul a 1 = a := by decide
  obtain ⟨hmul0, hmul1⟩ := hmul x hx
  unfold nibbleDecode
  rw [syndrome_xor, syndrome_nibbleEncode, hzero, syndrome_symbolError hj hx, truncate_symbolError j hj x hx]
  dsimp only
  rcases column_head j hj with ⟨hcol, rfl⟩ | ⟨hcol, -⟩
  · have hs : Gf4.smul x (column 32) = ⟨0, 0, 0, x⟩ := by simp [hcol, Gf4.smul, hmul0, hmul1]
    simp [hs, Gf4.zero, hne]
  · have hs : (Gf4.smul x (column j)).x0 = x := by simp [Gf4.smul, hcol, hmul1]
    have hother : ∀ s : Gf4, s.x0 = 0 → Gf4.smul x (column j) ≠ s := fun s h0 h => hne (by rw [← hs, h, h0])
    have hfind : findSymbol (Gf4.smul x (column j)) 36 = some j := by
      refine findSymbol_of_only (by rw [hs]) 36 hj fun i hi hsame => ?_
      rw [hs] at hsame
      exact column_injective i hi j hj (Gf4.smul_injective hx hne (small_column i hi) (small_column j hj) hsame)
    rw [if_neg (hother _ rfl), if_neg (hother _ rfl), if_neg (by rwa [hs]), hfind, hs]
    dsimp only
    split
    · rw [BitVec.xor_assoc, BitVec.xor_self, BitVec.xor_zero]
    · simp

end Sys2Proof.Machine
end

section
/-! A controller's check of a line: a word with one wrong symbol is written back as it was, its correction counted, and nothing
else of memory changes (R330, R333, R335). -/

namespace Sys2Proof.Machine

/-! ### The sixteen bytes of a word -/

theorem leBytes_leNat (bs : List Byte) : leBytes bs.length (leNat bs) = bs := by
  induction bs with
  | nil => rfl
  | cons b bs ih =>
    have hlow : BitVec.ofNat 8 (b.toNat + 256 * leNat bs) = b := BitVec.eq_of_toNat_eq (by simp; omega)
    have hhigh : (b.toNat + 256 * leNat bs) / 256 = leNat bs := by omega
    rw [List.length_cons, leNat, leBytes, hlow, hhigh, ih]

theorem leNat_lt (bs : List Byte) : leNat bs < 256 ^ bs.length := by
  induction bs with
  | nil => decide
  | cons b bs ih =>
    rw [leNat, List.length_cons, pow_succ]
    omega

theorem leBytes_wordOf {bs : List Byte} (h : bs.length = 16) : leBytes 16 (wordOf bs).toNat = bs := by
  have hlt : leNat bs < 2 ^ 128 := by simpa [h] using leNat_lt bs
  rw [wordOf, BitVec.toNat_ofNat, Nat.mod_eq_of_lt hlt, ← h, leBytes_leNat]

/-- Bytes written back where they were read change nothing. -/
theorem get_memWrite_memRead {m : List Host.Cell} (h : Memory.wf m = true) (a n k : Nat) :
    Map.get (memWrite m a (memRead m a n)) k unlistedByte = Map.get m k unlistedByte := by
  rw [get_memWrite, length_memRead, memRead_eq h]
  split
  · next hk =>
    obtain ⟨hlo, hhi⟩ := hk
    simp [show k - a < n by omega, Nat.add_sub_cancel' hlo]
  · rfl

/-! ### A word with one wrong symbol -/

theorem checkWord_symbolError (d : BitVec 128) {j x : Nat} (hj : j < 36) (hx : x < 16) (hne : x ≠ 0) :
    checkWord d false (symbolError j x) = (d, false, .corrected j) := by
  unfold checkWord
  rw [if_neg Bool.false_ne_true]
  dsimp only
  rw [nibbleDecode_symbolError d hj hx hne]

theorem setDel_of_not_mem {l : List Nat} {k : Nat} (h : k ∉ l) : setDel l k = l := by
  induction l with
  | nil => rfl
  | cons i l ih =>
    obtain ⟨hi, hl⟩ := not_or.1 (mt List.mem_cons.2 h)
    rw [setDel, if_neg hi, ih hl, ite_self]

/-- The state with word `w` written back as it was read, no bit error waiting. -/
def State.rewritten (s : State) (w : Nat) : State :=
  { s with upsets := [], mem := memWrite s.mem (16 * w) (memRead s.mem (16 * w) 16) }

theorem mendWord_symbolError {s : State} {w j x : Nat} (hup : s.upsets = [(w, symbolError j x)])
    (hclean : w ∉ s.poison) (hj : j < 36) (hx : x < 16) (hne : x ≠ 0) :
    s.mendWord w = (s.rewritten w, .corrected j) := by
  have hfind : Map.find s.upsets w = some (symbolError j x) := by rw [hup, Map.find_cons, if_pos rfl]
  have hgone : Map.erase s.upsets w = [] := by simp [hup, Map.erase]
  have hpoison : s.poison.contains w = false := by simpa using hclean
  unfold State.mendWord
  rw [hfind]
  dsimp only
  rw [hpoison, checkWord_symbolError _ hj hx hne, hgone, leBytes_wordOf (length_memRead ..)]
  dsimp only
  rw [if_neg Bool.false_ne_true, setDel_of_not_mem hclean]
  rfl

theorem mendDramWord_of_none {s : State} {w : Nat} (h : Map.find s.upsets w = none) (c channel : Nat) (found : Bool × Bool) :
    s.mendDramWord c channel w found = (s, found) := by
  have hword : s.mendWord w = (s, .clean) := by simp [State.mendWord, h]
  unfold State.mendDramWord
  rw [hword]

theorem calm_record (s : State) (blk code unit arg0 arg1 : Nat) : s.Calm (s.record blk code unit arg0 arg1) := by
  rw [record_eq]
  exact ⟨rfl, rfl, rfl, rfl, rfl, rfl⟩

theorem calm_pinCorrected (s : State) (c channel pin : Nat) : s.Calm (s.pinCorrected c channel pin) := by
  unfold State.pinCorrected
  dsimp only
  generalize hu : State.setFld _ _ 0x108 16 6 pin = u
  have hpin : s.Calm u := by
    rw [← hu]
    exact ⟨rfl, rfl, rfl, rfl, rfl, rfl⟩
  have hplace : u.Calm (if c < 16 then u.setFld (dramBlock c) 0x108 22 5 channel
      else u.setFld (dramBlock c) 0x108 8 5 (c - 16)) := by
    split <;> exact ⟨rfl, rfl, rfl, rfl, rfl, rfl⟩
  split
  · exact (hpin.trans hplace).trans (calm_record ..)
  · exact hpin.trans hplace

theorem counter_pinCorrected (s : State) (c channel pin : Nat) :
    (s.pinCorrected c channel pin).counter (dramBlock c) 0x150 = s.counter (dramBlock c) 0x150 + 1 := by
  unfold State.pinCorrected
  dsimp only
  split
  · rw [counter_record_of_ne _ _ _ _ _ _ _ (by decide) (by decide)]
    split <;> exact counter_count s (dramBlock c) 0x150 1
  · split <;> exact counter_count s (dramBlock c) 0x150 1

/-! ### The words of a line -/

/-- Words in which no bit error waits are passed over. -/
theorem foldl_mendDramWord_of_none {s : State} {words : List Nat} (key : Nat → Nat)
    (h : ∀ i ∈ words, Map.find s.upsets (key i) = none) (c channel : Nat) (found : Bool × Bool) :
    words.foldl (fun (acc : State × Bool × Bool) i => acc.1.mendDramWord c channel (key i) acc.2) (s, found) = (s, found) := by
  induction words with
  | nil => rfl
  | cons i words ih =>
    obtain ⟨hi, hrest⟩ := List.forall_mem_cons.1 h
    rw [List.foldl_cons]
    dsimp only
    rw [mendDramWord_of_none hi, ih hrest]

theorem mendDram_of_no_upsets {s : State} (h : s.upsets = []) (c channel line : Nat) : s.mendDram c channel line = s :=
  if_pos (by simp [h])

/-- A line in which one word has one wrong symbol (R330, R333). -/
theorem mendDram_symbolError {s : State} {line w j x : Nat} (hw : w < 8) (hup : s.upsets = [(8 * line + w, symbolError j x)])
    (hclean : 8 * line + w ∉ s.poison) (hj : j < 36) (hx : x < 16) (hne : x ≠ 0)
    (c channel : Nat) :
    s.mendDram c channel line
      = ((s.rewritten (8 * line + w)).pinCorrected c channel j).count (dramBlock c) 0x148 128 := by
  have hsplit : List.range 8 = List.range w ++ w :: (List.range' (w + 1) (7 - w)) := by
    interval_cases w <;> rfl
  have hbefore : ∀ i ∈ List.range w, Map.find s.upsets (8 * line + i) = none := fun i hi => by
    rw [hup, Map.find_cons, if_neg (by have := List.mem_range.1 hi; omega), Map.find_nil]
  have hword : s.mendDramWord c channel (8 * line + w) (false, false)
      = ((s.rewritten (8 * line + w)).pinCorrected c channel j, false, true) := by
    unfold State.mendDramWord
    rw [mendWord_symbolError hup hclean hj hx hne]
  have hafter : ∀ i ∈ List.range' (w + 1) (7 - w),
      Map.find ((s.rewritten (8 * line + w)).pinCorrected c channel j).upsets (8 * line + i) = none := fun i _ => by
    rw [(calm_pinCorrected ..).2.2.1]
    rfl
  unfold State.mendDram
  rw [if_neg (by simp [hup]), hsplit, List.foldl_append, foldl_mendDramWord_of_none _ hbefore, List.foldl_cons]
  dsimp only
  rw [hword, foldl_mendDramWord_of_none _ hafter]
  rfl

end Sys2Proof.Machine
end

section
/-! SCRUB_READ: the line a controller reads next, what reading it leaves, and the place of the scrubber after it (R320, R324,
R335, R336). -/

namespace Sys2Proof.Machine

/-! ### The line read next (R320, R324) -/

/-- Address of line n of a controller. -/
def scrubAddr (c n : Nat) : Nat := if c < 16 then hbmLine c n else lpxLine (c - 16) n

/-- Lines of a controller. -/
def scrubLines (c : Nat) : Nat := if c < 16 then hbmLines else lpxLines

theorem scrubAddr_mod (c n : Nat) : scrubAddr c n % 128 = 0 := by
  unfold scrubAddr hbmLine lpxLine lpxBase
  split
  · dsimp only
    omega
  · omega

theorem isDram_scrubAddr {c n : Nat} (hc : c < 48) (hn : n < scrubLines c) : isDram (scrubAddr c n) := by
  unfold scrubLines at hn
  unfold scrubAddr
  split at hn
  · next hlow =>
    have hx : c % 4 ^^^ n / 32 % 4 < 2 ^ 2 := Nat.xor_lt_two_pow (Nat.mod_lt _ (by decide)) (Nat.mod_lt _ (by decide))
    rw [if_pos hlow]
    refine .inl (regionOf_eq_hbm_iff.2 ?_)
    unfold hbmLines at hn
    unfold hbmLine hbmEnd
    dsimp only
    omega
  · next hhigh =>
    have hx : c - 16 ^^^ n % 32 < 2 ^ 5 := Nat.xor_lt_two_pow (by omega) (Nat.mod_lt _ (by decide))
    rw [if_neg hhigh]
    refine .inr ?_
    unfold lpxLines at hn
    unfold regionOf lpxLine lpxBase lpxEnd hbmEnd
    rw [if_neg (by omega), if_pos (by omega)]

theorem lineOf_mul {a : Nat} (ha : a % 128 = 0) : lineOf a * 128 = a := by
  unfold lineOf
  omega

/-- A controller's counters are not those of an arbiter. -/
theorem dramBlock_ne_bHome {c a : Nat} (ha : isDram a) : dramBlock c ≠ bHome (homeOf a) := by
  have := homeOf_lt ha
  unfold dramBlock bHome bHbm bLpx
  split <;> omega

/-! ### What reading it leaves (R330, R335, R336) -/

section
variable {s : State} {a : Nat}

/-- The memory copy is stale: an agent has the line to itself or dirty, or a memory-side cache holds it dirty (R336). -/
def State.stale (s : State) (line : Nat) : Prop :=
  (s.dir line).st = .X ∨ (s.dir line).st = .O ∨ Map.find s.llc line = some true

theorem upset_nil (s : State) (base : Nat) : s.upset base [] = s := rfl

theorem upsets_upset_one (hup : s.upsets = []) (base w : Nat) {e : BitVec 144} (he : e ≠ 0) :
    (s.upset base [(w, e)]).upsets = [(base + w, e)] := by
  have hflip : (0 : BitVec 144) ^^^ e = e := BitVec.zero_xor
  have hput : Map.put ([] : Map (BitVec 144)) (base + w) (0 ^^^ e) 0 = [(base + w, e)] := by
    rw [hflip]
    exact if_neg he
  rw [← hput, State.upset, hup]
  rfl

/-- Nothing stands before a request that comes from no unit: no transaction, and no aged request of the same source. -/
theorem clearWay_of_idle {src : TxnFrom} {line : Nat} (htxns : (s.home (homeOf (line * 128))).txns = [])
    (haged : ∀ r ∈ (s.home (homeOf (line * 128))).aged, r.src ≠ src) : s.clearWay src line = s := by
  have hback : (s.home (homeOf (line * 128))).holdsBack src = false := by simpa [Home.holdsBack] using haged
  have hfirst : s.ownAgedFirst (homeOf (line * 128)) src = s := by
    unfold State.ownAgedFirst
    refine List.foldlRecOn (motive := fun u : State => u = s) _ _ rfl fun u hu _ _ => ?_
    rw [hu, hback]
    rfl
  simp [State.clearWay, hfirst, htxns]

variable (ha : a % 128 = 0) (htxns : (s.home (homeOf a)).txns = []) (haged : ∀ r ∈ (s.home (homeOf a)).aged, r.src ≠ .host)
include ha htxns haged

theorem scrubLine_of_stale (hstale : s.stale (lineOf a)) (c : Nat) (errs : List (Nat × BitVec 144)) :
    s.scrubLine c a errs = s := by
  have hway : s.clearWay .host (lineOf a) = s := clearWay_of_idle (by rwa [lineOf_mul ha]) (by rwa [lineOf_mul ha])
  have hnewer : (s.dir (lineOf a)).st = .X ∨ (s.dir (lineOf a)).st = .O ∨ (Map.find s.llc (lineOf a)).getD false = true :=
    hstale.imp_right (Or.imp_right fun h => by rw [h]; rfl)
  unfold State.scrubLine
  dsimp only
  rw [hway, if_pos hnewer]

/-- The read and its counts, before the words are checked. -/
theorem scrubLine_of_current (hcurrent : ¬ s.stale (lineOf a)) (c : Nat) (errs : List (Nat × BitVec 144)) :
    s.scrubLine c a errs
      = (State.upset (((s.count (bHome (homeOf a)) 0x140 1).count (dramBlock c) 0x140 128).count (dramBlock c) 0x160 1)
          (8 * lineOf a) (errs.filter fun e => e.1 < 8)).mendDram c (if c < 16 then hbmChannel a else 0) (lineOf a) := by
  have hway : s.clearWay .host (lineOf a) = s := clearWay_of_idle (by rwa [lineOf_mul ha]) (by rwa [lineOf_mul ha])
  have hnotNewer : ¬ ((s.dir (lineOf a)).st = .X ∨ (s.dir (lineOf a)).st = .O
      ∨ (Map.find s.llc (lineOf a)).getD false = true) := fun h => hcurrent (h.imp_right (Or.imp_right fun hd => by
    cases hf : Map.find s.llc (lineOf a) <;> simp_all))
  unfold State.scrubLine
  dsimp only
  rw [hway, if_neg hnotNewer]
  rfl

/-- A line without a bit error is counted. -/
theorem scrubLine_of_no_error (hcurrent : ¬ s.stale (lineOf a)) (hup : s.upsets = []) (c : Nat) :
    s.scrubLine c a []
      = ((s.count (bHome (homeOf a)) 0x140 1).count (dramBlock c) 0x140 128).count (dramBlock c) 0x160 1 := by
  rw [scrubLine_of_current ha htxns haged hcurrent]
  rw [List.filter_nil, upset_nil, mendDram_of_no_upsets (by simpa using hup)]

/-- A wrong symbol in a clean word is corrected and counted, and every byte stays. -/
theorem scrubLine_symbolError (hcurrent : ¬ s.stale (lineOf a)) (hup : s.upsets = []) (hmem : Memory.wf s.mem = true)
    {w j x : Nat} (hw : w < 8) (hj : j < 36) (hx : x < 16) (hne : x ≠ 0) (hclean : s.poisoned (a + 16 * w) = false) (c : Nat) :
    let t := s.scrubLine c a [(w, symbolError j x)]
    t.upsets = [] ∧ t.poison = s.poison ∧ (∀ k, Map.get t.mem k unlistedByte = Map.get s.mem k unlistedByte)
      ∧ t.counter (dramBlock c) 0x150 = s.counter (dramBlock c) 0x150 + 1 := by
  have hword : (a + 16 * w) / 16 = 8 * lineOf a + w := by
    unfold lineOf
    omega
  have hpoison : 8 * lineOf a + w ∉ s.poison := by simpa [State.poisoned, hword] using hclean
  dsimp only
  rw [scrubLine_of_current ha htxns haged hcurrent]
  generalize hu : ((s.count (bHome (homeOf a)) 0x140 1).count (dramBlock c) 0x140 128).count (dramBlock c) 0x160 1 = u
  have hcalm : s.Calm u := hu ▸ ((calm_count ..).trans (calm_count ..)).trans (calm_count ..)
  obtain ⟨-, hupoison, huup, -, -, humem⟩ := hcalm
  have hcount : u.counter (dramBlock c) 0x150 = s.counter (dramBlock c) 0x150 := by
    rw [← hu, counter_count_of_ne _ _ _ _ (by decide) (by decide) (by decide),
      counter_count_of_ne _ _ _ _ (by decide) (by decide) (by decide),
      counter_count_of_ne _ _ _ _ (by decide) (by decide) (by decide)]
  have herr : (u.upset (8 * lineOf a) ([(w, symbolError j x)].filter fun e => e.1 < 8)).upsets
      = [(8 * lineOf a + w, symbolError j x)] := by
    rw [List.filter_cons_of_pos (by simpa using hw), List.filter_nil]
    exact upsets_upset_one (huup.trans hup) _ _ (symbolError_ne_zero j hj x hx hne)
  rw [mendDram_symbolError hw herr (by rw [State.upset, hupoison]; exact hpoison) hj hx hne]
  obtain ⟨-, hpp, hpu, -, -, hpm⟩ := calm_pinCorrected
    ((u.upset (8 * lineOf a) ([(w, symbolError j x)].filter fun e => e.1 < 8)).rewritten (8 * lineOf a + w)) c
    (if c < 16 then hbmChannel a else 0) j
  refine ⟨hpu, hpp.trans hupoison, fun k => ?_, ?_⟩
  · rw [State.count_mem, hpm, State.rewritten]
    dsimp only
    rw [get_memWrite_memRead (by rw [State.upset, humem]; exact hmem), State.upset, humem]
  · rw [counter_count_of_ne _ _ _ _ (by decide) (by decide) (by decide), counter_pinCorrected]
    exact congrArg (· + 1) hcount

end

/-! ### The command (R335) -/

/-- The scrubber goes on to the next line, or its pass ends. -/
def State.scrubNext (s : State) (c : Nat) : State :=
  let x := s.dram c
  if x.scrubPos + 1 < scrubLines c then s.setDram c { x with scrubPos := x.scrubPos + 1 }
  else (s.setDram c x.endPass).count (dramBlock c) 0x168 1

theorem counter_setDram (s : State) (c : Nat) (d : Dram) : (s.setDram c d).counter = s.counter := rfl

theorem scrubNext_of_more {s : State} {c : Nat} (h : (s.dram c).scrubPos + 1 < scrubLines c) :
    s.scrubNext c = s.setDram c { s.dram c with scrubPos := (s.dram c).scrubPos + 1 } := if_pos h

theorem calm_scrubNext (s : State) (c : Nat) : s.Calm (s.scrubNext c) := by
  unfold State.scrubNext
  dsimp only
  split <;> exact ⟨rfl, rfl, rfl, rfl, rfl, rfl⟩

theorem counter_scrubNext_of_ne (s : State) (c b : Nat) {o : Nat} (ho : o < 65536) (hne : o ≠ 0x168) :
    (s.scrubNext c).counter b o = s.counter b o := by
  unfold State.scrubNext
  dsimp only
  split
  · rfl
  · exact counter_count_of_ne _ _ _ _ (by decide) ho hne

section
variable {s : State} {ctrl : DramIx}

theorem exec_scrubRead_of_idle (h : s.fld (dramBlock ctrl) 0x100 0 20 = 0 ∨ (s.dram ctrl).trained = false)
    (errs : List (Nat × BitVec 144)) : exec (.scrubRead ctrl errs) s = .next s :=
  if_pos (by simpa using h)

theorem exec_scrubRead_of_ready (hrate : s.fld (dramBlock ctrl) 0x100 0 20 ≠ 0) (htrained : (s.dram ctrl).trained = true)
    (errs : List (Nat × BitVec 144)) :
    exec (.scrubRead ctrl errs) s
      = .next ((s.scrubLine ctrl (scrubAddr ctrl (s.dram ctrl).scrubPos) errs).scrubNext ctrl) := by
  have hgoes : ¬ (decide (s.fld (dramBlock ctrl) 0x100 0 20 = 0) || !(s.dram ctrl).trained) = true := by
    simp [hrate, htrained]
  refine (if_neg hgoes).trans ?_
  exact (apply_ite Host.Outcome.next _ _ _).symm

end

end Sys2Proof.Machine
end

section
/-! REGION_TEST_START: when a test engine may start, what the end of the test before it leaves, and the region taken up (R293 to
R295). -/

namespace Sys2Proof.Machine

/-! ### Repairs (R295, R296) -/

theorem bank_setBank (s : State) (blk b blk' b' : Nat) (x : BankSt) :
    (s.setBank blk b x).bank blk' b' = if blk' * 256 + b' = blk * 256 + b then x else s.bank blk' b' := Map.get_put ..

theorem bank_record (s : State) (blk code unit arg0 arg1 : Nat) : (s.record blk code unit arg0 arg1).bank = s.bank := by
  rw [record_eq]
  rfl

theorem bank_count (s : State) (blk off k : Nat) : (s.count blk off k).bank = s.bank := rfl

theorem bank_appendRepair (s : State) (rec : List Byte) : (s.appendRepair rec).bank = s.bank := rfl

theorem counter_appendRepair (s : State) (rec : List Byte) : (s.appendRepair rec).counter = s.counter := rfl

theorem counter_setBank (s : State) (blk b : Nat) (x : BankSt) : (s.setBank blk b x).counter = s.counter := rfl

/-- From `s` to `t` rows of banks have been repaired: no bank's power changes, and no region is counted. -/
structure RepairWork (s t : State) : Prop where
  frame : t = { s with banks := t.banks, counters := t.counters, flash := t.flash, sheets := t.sheets }
  power : ∀ blk b, (t.bank blk b).power = (s.bank blk b).power
  counter : ∀ blk, t.counter blk 0x140 = s.counter blk 0x140

namespace RepairWork

variable {s t u : State}

theorem refl (s : State) : RepairWork s s := ⟨rfl, fun _ _ => rfl, fun _ => rfl⟩

theorem trans (h : RepairWork s t) (k : RepairWork t u) : RepairWork s u := by
  refine ⟨?_, fun blk b => (k.power blk b).trans (h.power blk b), fun blk => (k.counter blk).trans (h.counter blk)⟩
  have htu := k.frame
  rw [h.frame] at htu
  exact htu

/-- A bank is written without its power. -/
theorem setBank (h : RepairWork s t) (blk b : Nat) {x : BankSt} (hx : x.power = (t.bank blk b).power) :
    RepairWork s (t.setBank blk b x) := by
  refine h.trans ⟨rfl, fun blk' b' => ?_, fun _ => rfl⟩
  rw [bank_setBank]
  split
  · next hkey => rw [hx, State.bank, State.bank, hkey]
  · rfl

theorem count (h : RepairWork s t) (blk : Nat) {off : Nat} (hoff : off < 65536) (hne : 0x140 ≠ off) (k : Nat) :
    RepairWork s (t.count blk off k) :=
  h.trans ⟨rfl, fun _ _ => rfl, fun _ => counter_count_of_ne _ _ _ _ hoff (by decide) hne⟩

theorem record (h : RepairWork s t) (blk code unit arg0 arg1 : Nat) : RepairWork s (t.record blk code unit arg0 arg1) := by
  refine h.trans ⟨?_, fun _ _ => ?_, fun _ => counter_record_of_ne _ _ _ _ _ _ _ (by decide) (by decide)⟩
  · rw [record_eq]
  · rw [bank_record]

theorem appendRepair (h : RepairWork s t) (rec : List Byte) : RepairWork s (t.appendRepair rec) :=
  h.trans ⟨rfl, fun _ _ => rfl, fun _ => rfl⟩

theorem repairRow (h : RepairWork s t) (blk : Nat) (tile : Bool) (unit b row : Nat) :
    RepairWork s (t.repairRow blk tile unit b row) := by
  unfold State.repairRow
  dsimp only
  split
  · exact h
  · split
    · refine (((h.setBank blk b ?_).count blk (by decide) (by decide) 1).appendRepair _).record ..
      rfl
    · split
      · refine ((h.setBank blk b ?_).appendRepair _).record ..
        rfl
      · split
        · refine h.setBank blk b ?_
          rfl
        · refine (h.setBank blk b ?_).record ..
          rfl

theorem foldl_repairRow (s : State) (blk : Nat) (tile : Bool) (unit b : Nat) (rows : List Nat) :
    RepairWork s (rows.foldl (fun acc r => acc.repairRow blk tile unit b r) s) :=
  List.foldlRecOn (motive := RepairWork s) rows _ (refl s) fun _ h _ _ => h.repairRow ..

end RepairWork

/-- A row that is not pinned takes the least spare row not in use (R295). -/
theorem repairRow_of_spare {s : State} {blk b row spare : Nat} {tile : Bool}
    (hpins : ∀ p ∈ (s.bank blk b).pins, p.1 ≠ row / 64 * 64)
    (hspare : leastFree ((s.bank blk b).spares.map (·.2)) (spareRows tile) = some spare) (unit : Nat) :
    let t := s.repairRow blk tile unit b row
    (t.bank blk b).spares = (s.bank blk b).spares ++ [(row, spare)] ∧ t.counter blk 0x148 = s.counter blk 0x148 + 1 := by
  have hunpinned : ¬ ((s.bank blk b).pins.any fun p => p.1 = row / 64 * 64) = true := by
    rw [List.any_eq_true]
    exact fun ⟨p, hp, hrow⟩ => hpins p hp (of_decide_eq_true hrow)
  unfold State.repairRow
  dsimp only
  rw [if_neg hunpinned, hspare]
  dsimp only
  refine ⟨?_, ?_⟩
  · rw [bank_record, bank_appendRepair, bank_count, bank_setBank, if_pos rfl]
  · rw [counter_record_of_ne _ _ _ _ _ _ _ (by decide) (by decide), counter_appendRepair, counter_count, counter_setBank]
    rfl

/-! ### The end of a test (R294) -/

theorem copyRegion_of_no_upsets {s : State} (h : s.upsets = []) (blk : Nat) (tile : Bool) (unit b region : Nat) :
    s.copyRegion blk tile unit b region = s := by
  have hrows : ∀ (rows : List Nat) (addr : Nat → Nat) (words : Nat → List Nat),
      rows.foldl (fun acc i => State.mendWords acc blk b (addr i) (words i)) s = s := fun rows addr words =>
    List.foldlRecOn (motive := fun u : State => u = s) rows _ rfl fun u hu i _ => by
      rw [hu, mendWords_of_no_upsets h]
  exact (ite_congr rfl (fun _ => hrows ..) fun _ => rfl).trans (ite_self _)

/-- The failing rows of a region, in order. -/
def failedRows (region : Nat) (failing : List Nat) : List Nat :=
  (List.range 64).map (fun i => 64 * region + i) |>.filter fun r => failing.contains r

theorem failedRows_nil (region : Nat) : failedRows region [] = [] := by simp [failedRows]

theorem failedRows_singleton {region row : Nat} (h : row / 64 = region) : failedRows region [row] = [row] := by
  have hmem : row ∈ (List.range 64).map fun i => 64 * region + i :=
    List.mem_map.2 ⟨row % 64, List.mem_range.2 (Nat.mod_lt _ (by decide)), by omega⟩
  have hnodup : ((List.range 64).map fun i => 64 * region + i).Nodup :=
    List.Nodup.map (fun _ _ hij => Nat.add_left_cancel hij) List.nodup_range
  have hone : (fun r => [row].contains r) = fun r => decide (r = row) := by
    funext r
    simp
  rw [failedRows, hone, List.filter_eq, List.count_eq_one_of_mem hnodup hmem]
  rfl

section
variable {s : State} {blk engine : Nat} {tile : Bool} {unit : Nat} (hblk : bankBlock blk = some (tile, unit))
include hblk

theorem finishTest_of_none (h : ((s.tester blk).running.find? fun r => r.1 = engine) = none) : s.finishTest blk engine = s := by
  unfold State.finishTest
  rw [hblk]
  dsimp only
  rw [h]

theorem finishTest_of_running {e b region : Nat} {failing : List Nat} (hup : s.upsets = [])
    (h : ((s.tester blk).running.find? fun r => r.1 = engine) = some (e, b, region, failing)) :
    s.finishTest blk engine
      = ((failedRows region failing).foldl (fun acc r => acc.repairRow blk tile unit b r)
          (s.setTester blk { s.tester blk with running := (s.tester blk).running.filter fun r => r.1 ≠ engine })).count
        blk 0x140 1 := by
  unfold State.finishTest
  rw [hblk]
  dsimp only
  rw [h]
  dsimp only
  rw [copyRegion_of_no_upsets (by exact hup)]
  rfl

end

/-! ### The region taken up (R293) -/

theorem nextOn_congr {s t : State} (h : ∀ blk b, (t.bank blk b).power = (s.bank blk b).power) (blk n b : Nat) :
    nextOn t blk n b = nextOn s blk n b := by
  unfold nextOn
  simp only [h]

/-- A test engine takes the next region of a bank that is on, if there is one. -/
def State.takeRegion (s : State) (blk : Nat) (tile : Bool) (engine : Nat) (failing : List Nat) : State :=
  let x := s.tester blk
  match nextOn s blk (bankCount tile) x.bank with
  | none => s
  | some b =>
    let region := if b = x.bank then x.region else 0
    let last := region + 1 = rowsInBank tile / 64
    s.setTester blk
      { bank := if last then (b + 1) % bankCount tile else b
        region := if last then 0 else region + 1
        lastStart := Map.insert x.lastStart engine s.elapsed
        running := x.running ++ [(engine, b, region, failing)] }

theorem takeRegion_eq (s : State) (blk : Nat) (tile : Bool) (engine : Nat) (failing : List Nat) :
    s.takeRegion blk tile engine failing = { s with testers := (s.takeRegion blk tile engine failing).testers } := by
  unfold State.takeRegion
  dsimp only
  split <;> rfl

theorem bank_takeRegion (s : State) (blk : Nat) (tile : Bool) (engine : Nat) (failing : List Nat) :
    (s.takeRegion blk tile engine failing).bank = s.bank := by
  rw [takeRegion_eq]
  rfl

theorem counter_takeRegion (s : State) (blk : Nat) (tile : Bool) (engine : Nat) (failing : List Nat) :
    (s.takeRegion blk tile engine failing).counter = s.counter := by
  rw [takeRegion_eq]
  rfl

section
variable {s : State} {block : BitVec 16} {tester : Fin 4} {failing : List Nat}

theorem exec_regionTestStart_of_idle (h : bankBlock block.toNat = none ∨ s.isEnabled block.toNat = false
    ∨ s.fld block.toNat 0x100 0 16 = 0
    ∨ (∃ e, Map.find (s.tester block.toNat).lastStart tester = some e ∧ s.elapsed < e + s.fld block.toNat 0x100 0 16)) :
    exec (.regionTestStart block tester failing) s = .next s := by
  show execRegionTestStart block tester failing s = .next s
  unfold execRegionTestStart
  dsimp only
  split
  · rfl
  · next tile unit hblk =>
    refine if_pos ?_
    rcases h with h | h | h | ⟨e, hstart, hearly⟩
    · cases hblk.symm.trans h
    · simp [State.testerReady, h]
    · simp [State.testerReady, h]
    · simp [State.testerReady, hstart, Nat.not_le.2 hearly]

theorem testerReady_of {blk engine : Nat} {tile : Bool} (hen : s.isEnabled blk = true) (hperiod : s.fld blk 0x100 0 16 ≠ 0)
    (hone : tile = false → engine = 0)
    (hlate : ∀ e, Map.find (s.tester blk).lastStart engine = some e → e + s.fld blk 0x100 0 16 ≤ s.elapsed) :
    s.testerReady blk tile engine = true := by
  have hengine : (tile || engine == 0) = true := by cases tile <;> simp [hone]
  have hrate : (s.fld blk 0x100 0 16 != 0) = true := by simpa using hperiod
  unfold State.testerReady
  dsimp only
  rw [hen, hrate, hengine]
  split
  · next e hstart => exact decide_eq_true (hlate e hstart)
  · rfl

theorem exec_regionTestStart_of_ready {tile : Bool} {unit : Nat} (hblk : bankBlock block.toNat = some (tile, unit))
    (hready : s.testerReady block.toNat tile tester = true) (hup : (s.finishTest block.toNat tester).upsets = []) :
    exec (.regionTestStart block tester failing) s
      = .next ((s.finishTest block.toNat tester).takeRegion block.toNat tile tester failing) := by
  show execRegionTestStart block tester failing s = _
  unfold execRegionTestStart State.takeRegion
  dsimp only
  rw [hblk]
  dsimp only
  rw [hready, if_neg (by simp)]
  cases nextOn (s.finishTest block.toNat tester) block.toNat (bankCount tile)
      ((s.finishTest block.toNat tester).tester block.toNat).bank with
  | none => rfl
  | some b =>
    dsimp only
    rw [copyRegion_of_no_upsets hup]

end

end Sys2Proof.Machine
end

section
/-! Upkeep of the banks and of DRAM, command by command (R291 to R295, R322, R330, R335). -/

namespace Sys2Proof.Machine

variable {s : State}

theorem exec_bankWake_of_waking {block : BitVec 16} {bank : BitVec 8} (h : (s.bank block.toNat bank.toNat).power = .waking) :
    exec (.bankWake block bank) s = .next ((s.setBank block.toNat bank.toNat
      { s.bank block.toNat bank.toNat with power := .on }).count block.toNat 0x150 1) := if_pos h

theorem exec_bankWake_of_not_waking {block : BitVec 16} {bank : BitVec 8}
    (h : (s.bank block.toNat bank.toNat).power ≠ .waking) : exec (.bankWake block bank) s = .next s := if_neg h

/-! ### REGION_TEST_START -/

/-- What the end of the engine's test before leaves, where no bit error waits: rows repaired, the test off the list, the region
counted. -/
structure TestEnded (s t : State) (blk : Nat) (left : List (Nat × Nat × Nat × List Nat)) : Prop where
  frame : t = { s with
    testers := t.testers, banks := t.banks, counters := t.counters, flash := t.flash, sheets := t.sheets }
  power : ∀ blk b, (t.bank blk b).power = (s.bank blk b).power
  tester : t.tester blk = { s.tester blk with running := left }

theorem TestEnded.nextOn {t : State} {blk : Nat} {left : List (Nat × Nat × Nat × List Nat)} (h : TestEnded s t blk left)
    (n : Nat) : nextOn t blk n (t.tester blk).bank = nextOn s blk n (s.tester blk).bank := by
  rw [h.tester, nextOn_congr h.power]

section
variable {blk engine : Nat} {tile : Bool} {unit : Nat} (hblk : bankBlock blk = some (tile, unit)) (hup : s.upsets = [])
include hblk hup

theorem testEnded_of_running {e b region : Nat} {failing : List Nat}
    (h : ((s.tester blk).running.find? fun r => r.1 = engine) = some (e, b, region, failing)) :
    TestEnded s (s.finishTest blk engine) blk ((s.tester blk).running.filter fun r => r.1 ≠ engine) := by
  rw [finishTest_of_running hblk hup h]
  generalize hu : s.setTester blk
    { s.tester blk with running := (s.tester blk).running.filter fun r => r.1 ≠ engine } = u
  have hrepaired := RepairWork.foldl_repairRow u blk tile unit b (failedRows region failing)
  generalize (failedRows region failing).foldl (fun acc r => State.repairRow acc blk tile unit b r) u = v at hrepaired
  refine ⟨?_, fun blk' b' => ?_, ?_⟩
  · rw [hrepaired.frame, ← hu]
    rfl
  · rw [bank_count, hrepaired.power, ← hu]
    rfl
  · rw [hrepaired.frame, ← hu]
    exact Map.get_put_same ..

theorem testEnded (engine : Nat) :
    TestEnded s (s.finishTest blk engine) blk ((s.tester blk).running.filter fun r => r.1 ≠ engine) := by
  cases hgoing : (s.tester blk).running.find? fun r => r.1 = engine with
  | none =>
    have hall : (s.tester blk).running.filter (fun r => r.1 ≠ engine) = (s.tester blk).running :=
      List.filter_eq_self.2 fun r hr => by simpa using List.find?_eq_none.1 hgoing r hr
    rw [finishTest_of_none hblk hgoing, hall]
    exact ⟨rfl, fun _ _ => rfl, rfl⟩
  | some r =>
    obtain ⟨e, b, region, failing⟩ := r
    exact testEnded_of_running hblk hup hgoing

end

section
variable {t : State} {blk : Nat} {left : List (Nat × Nat × Nat × List Nat)} (h : TestEnded s t blk left) {tile : Bool}
  (engine : Nat) (failing : List Nat)
include h

theorem TestEnded.takeRegion_keeps : (t.takeRegion blk tile engine failing).mem = s.mem
    ∧ (t.takeRegion blk tile engine failing).poison = s.poison ∧ (t.takeRegion blk tile engine failing).upsets = s.upsets
    ∧ (t.takeRegion blk tile engine failing).regs = s.regs := by
  rw [takeRegion_eq, h.frame]
  exact ⟨rfl, rfl, rfl, rfl⟩

theorem TestEnded.running_takeRegion_of_none (hnone : Machine.nextOn s blk (bankCount tile) (s.tester blk).bank = none) :
    ((t.takeRegion blk tile engine failing).tester blk).running = left := by
  unfold State.takeRegion
  dsimp only
  rw [h.nextOn, hnone]
  dsimp only
  rw [h.tester]

theorem TestEnded.tester_takeRegion {b : Nat} (hnext : Machine.nextOn s blk (bankCount tile) (s.tester blk).bank = some b) :
    let region := if b = (s.tester blk).bank then (s.tester blk).region else 0
    let last := region + 1 = rowsInBank tile / 64
    (t.takeRegion blk tile engine failing).tester blk =
      { bank := if last then (b + 1) % bankCount tile else b, region := if last then 0 else region + 1
        lastStart := Map.insert (s.tester blk).lastStart engine s.elapsed
        running := left ++ [(engine, b, region, failing)] } := by
  have helapsed : t.elapsed = s.elapsed := by
    rw [h.frame]
    rfl
  unfold State.takeRegion
  dsimp only
  rw [h.nextOn, hnext]
  dsimp only
  rw [h.tester, helapsed]
  exact Map.get_put_same ..

end

section
variable {blk engine : Nat} {tile : Bool} {unit : Nat} (hblk : bankBlock blk = some (tile, unit)) (hup : s.upsets = [])
include hblk

theorem takeRegion_finishTest_of_none (h : ((s.tester blk).running.find? fun r => r.1 = engine) = none) (failing : List Nat) :
    (s.finishTest blk engine).takeRegion blk tile engine failing
      = { s with testers := ((s.finishTest blk engine).takeRegion blk tile engine failing).testers } := by
  rw [finishTest_of_none hblk h]
  exact takeRegion_eq ..

variable {e b region : Nat} {rows : List Nat}
  (hgoing : ((s.tester blk).running.find? fun r => r.1 = engine) = some (e, b, region, rows)) (failing : List Nat)
include hup hgoing

theorem counter_takeRegion_finishTest :
    ((s.finishTest blk engine).takeRegion blk tile engine failing).counter blk 0x140 = s.counter blk 0x140 + 1 := by
  rw [counter_takeRegion, finishTest_of_running hblk hup hgoing, counter_count, (RepairWork.foldl_repairRow ..).counter]
  rfl

theorem takeRegion_finishTest_of_passed (hrows : rows = []) :
    (s.finishTest blk engine).takeRegion blk tile engine failing
      = { s with
          testers := ((s.finishTest blk engine).takeRegion blk tile engine failing).testers
          counters := ((s.finishTest blk engine).takeRegion blk tile engine failing).counters } := by
  have hended : s.finishTest blk engine = { s with
      testers := (s.finishTest blk engine).testers, counters := (s.finishTest blk engine).counters } := by
    rw [finishTest_of_running hblk hup hgoing, hrows, failedRows_nil]
    rfl
  have htaken := takeRegion_eq (s.finishTest blk engine) blk tile engine failing
  generalize (s.finishTest blk engine).takeRegion blk tile engine failing = t at htaken ⊢
  rw [hended] at htaken
  rw [htaken]

theorem takeRegion_finishTest_of_spare {row spare : Nat} (hrows : rows = [row]) (hregion : row / 64 = region)
    (hpins : ∀ p ∈ (s.bank blk b).pins, p.1 ≠ row / 64 * 64)
    (hspare : leastFree ((s.bank blk b).spares.map (·.2)) (spareRows tile) = some spare) :
    let t := (s.finishTest blk engine).takeRegion blk tile engine failing
    (t.bank blk b).spares = (s.bank blk b).spares ++ [(row, spare)] ∧ t.counter blk 0x148 = s.counter blk 0x148 + 1 := by
  dsimp only
  rw [counter_takeRegion, bank_takeRegion, finishTest_of_running hblk hup hgoing, hrows, failedRows_singleton hregion,
    List.foldl_cons, List.foldl_nil]
  obtain ⟨hspares, hcount⟩ := repairRow_of_spare
    (s := s.setTester blk { s.tester blk with running := (s.tester blk).running.filter fun r => r.1 ≠ engine })
    hpins hspare unit
  rw [bank_count, counter_count_of_ne _ _ _ _ (by decide) (by decide) (by decide)]
  exact ⟨hspares, hcount⟩

end

/-! ### SCRUB_READ -/

/-- Counters alone change while they count. -/
theorem count_frame {t : State} (h : t = { s with counters := t.counters }) (n off k : Nat) :
    t.count n off k = { s with counters := (t.count n off k).counters } := by
  rw [h]
  rfl

section
variable {ctrl : DramIx} (hrate : s.fld (dramBlock ctrl) 0x100 0 20 ≠ 0) (htrained : (s.dram ctrl).trained = true)
  (htxns : (s.home (homeOf (scrubAddr ctrl (s.dram ctrl).scrubPos))).txns = [])
  (haged : ∀ r ∈ (s.home (homeOf (scrubAddr ctrl (s.dram ctrl).scrubPos))).aged, r.src ≠ .host)
include hrate htrained htxns haged

theorem exec_scrubRead_of_stale (hstale : s.stale (lineOf (scrubAddr ctrl (s.dram ctrl).scrubPos)))
    (hmore : (s.dram ctrl).scrubPos + 1 < scrubLines ctrl) (errs : List (Nat × BitVec 144)) :
    exec (.scrubRead ctrl errs) s
      = .next (s.setDram ctrl { s.dram ctrl with scrubPos := (s.dram ctrl).scrubPos + 1 }) := by
  rw [exec_scrubRead_of_ready hrate htrained, scrubLine_of_stale (scrubAddr_mod ..) htxns haged hstale,
    scrubNext_of_more hmore]

theorem exec_scrubRead_of_no_error (hcurrent : ¬ s.stale (lineOf (scrubAddr ctrl (s.dram ctrl).scrubPos)))
    (hmore : (s.dram ctrl).scrubPos + 1 < scrubLines ctrl) (hup : s.upsets = []) :
    let h := bHome (homeOf (scrubAddr ctrl (s.dram ctrl).scrubPos))
    let blk := dramBlock ctrl
    ∃ t, exec (.scrubRead ctrl []) s = .next t ∧ t = { s with drams := t.drams, counters := t.counters }
      ∧ t.dram ctrl = { s.dram ctrl with scrubPos := (s.dram ctrl).scrubPos + 1 }
      ∧ t.counter blk 0x140 = s.counter blk 0x140 + 128 ∧ t.counter blk 0x160 = s.counter blk 0x160 + 1
      ∧ t.counter h 0x140 = s.counter h 0x140 + 1 := by
  have hblocks : dramBlock ctrl ≠ bHome (homeOf (scrubAddr ctrl (s.dram ctrl).scrubPos)) :=
    dramBlock_ne_bHome (isDram_scrubAddr ctrl.isLt (by omega))
  dsimp only
  rw [exec_scrubRead_of_ready hrate htrained, scrubLine_of_no_error (scrubAddr_mod ..) htxns haged hcurrent hup]
  generalize hu : State.count (State.count (State.count s _ 0x140 1) _ 0x140 128) _ 0x160 1 = u
  have hframe : u = { s with counters := u.counters } := hu ▸ count_frame (count_frame (count_frame rfl ..) ..) ..
  have hdram : u.dram = s.dram := by
    rw [hframe]
    rfl
  rw [scrubNext_of_more (by rwa [hdram]), hdram]
  refine ⟨_, rfl, ?_, dram_setDram_same .., ?_, ?_, ?_⟩
  · rw [hframe]
    rfl
  · rw [counter_setDram, ← hu, counter_count_of_ne _ _ _ _ (by decide) (by decide) (by decide), counter_count,
      counter_count_of_lt _ _ _ _ (by decide) (by decide), if_neg (fun h => hblocks h.1), add_zero]
    rfl
  · rw [counter_setDram, ← hu, counter_count, counter_count_of_ne _ _ _ _ (by decide) (by decide) (by decide),
      counter_count_of_ne _ _ _ _ (by decide) (by decide) (by decide)]
    rfl
  · rw [counter_setDram, ← hu, counter_count_of_ne _ _ _ _ (by decide) (by decide) (by decide),
      counter_count_of_lt _ _ _ _ (by decide) (by decide), if_neg (fun h => hblocks h.1.symm), add_zero, counter_count]
    rfl

theorem exec_scrubRead_symbolError (hcurrent : ¬ s.stale (lineOf (scrubAddr ctrl (s.dram ctrl).scrubPos)))
    (hup : s.upsets = []) (hmem : Memory.wf s.mem = true) {w j x : Nat} (hw : w < 8) (hj : j < 36) (hx : x < 16) (hne : x ≠ 0)
    (hclean : s.poisoned (scrubAddr ctrl (s.dram ctrl).scrubPos + 16 * w) = false) :
    ∃ t, exec (.scrubRead ctrl [(w, symbolError j x)]) s = .next t
      ∧ t.counter (dramBlock ctrl) 0x150 = s.counter (dramBlock ctrl) 0x150 + 1 ∧ t.upsets = []
      ∧ t.poisoned (scrubAddr ctrl (s.dram ctrl).scrubPos + 16 * w) = false
      ∧ ∀ k, Map.get t.mem k unlistedByte = Map.get s.mem k unlistedByte := by
  obtain ⟨hupsets, hpoison, hbytes, hcount⟩ :=
    scrubLine_symbolError (scrubAddr_mod ..) htxns haged hcurrent hup hmem hw hj hx hne hclean ctrl
  rw [exec_scrubRead_of_ready hrate htrained]
  generalize s.scrubLine ctrl (scrubAddr ctrl (s.dram ctrl).scrubPos) [(w, symbolError j x)] = u at *
  obtain ⟨-, hnpoison, hnupsets, -, -, hnmem⟩ := calm_scrubNext u ctrl
  refine ⟨_, rfl, ?_, hnupsets.trans hupsets, ?_, fun k => ?_⟩
  · rw [counter_scrubNext_of_ne _ _ _ (by decide) (by decide), hcount]
  · rw [State.poisoned, hnpoison, hpoison]
    exact hclean
  · rw [hnmem, hbytes]

end

/-! ### HOT_REFRESH -/

/-- The temperature is noted, and the rate follows it (R322). -/
theorem exec_hotRefresh (stack : Ix16) (celsius : Byte) : ∃ t, exec (.hotRefresh stack celsius) s = .next t
    ∧ t = { s with drams := t.drams } ∧ t.dram stack = { s.dram stack with tempC := celsius }
    ∧ t.hotRefresh stack = decide (s.fld (bHbm stack) 0x100 20 8 < celsius.toNat)
    ∧ ∀ n, n ≠ (stack : Nat) → t.dram n = s.dram n := by
  have hnoted : (s.setDram stack { s.dram stack with tempC := celsius }).dram stack = { s.dram stack with tempC := celsius } :=
    dram_setDram_same ..
  refine ⟨_, rfl, rfl, hnoted, ?_, fun n hn => dram_setDram_ne _ _ _ _ hn⟩
  unfold State.hotRefresh
  rw [hnoted]
  rfl

/-- Settles O48, command by command. -/
theorem banksAndControllersKeepData : Obligations.BanksAndControllersKeepData := by
  unfold Obligations.BanksAndControllersKeepData
  refine fun s => ⟨fun block bank => ⟨fun hwaking => ?wake, exec_bankWake_of_not_waking⟩,
    fun block tester failing => ⟨exec_regionTestStart_of_idle, fun tile unit hblk hen hperiod hone hlate hup => ?test⟩,
    fun ctrl => ⟨fun h errs => exec_scrubRead_of_idle h errs, fun hrate htrained htxns haged => ?scrub⟩, exec_hotRefresh⟩
  case wake =>
    refine ⟨_, exec_bankWake_of_waking hwaking, rfl, ?_, ?_⟩
    · rw [bank_count, bank_setBank, if_pos rfl]
    · rw [counter_count, counter_setBank]
      rfl
  case test =>
    have hended := testEnded hblk hup (tester : Nat)
    have hupsets : (s.finishTest block.toNat tester).upsets = [] := by
      rw [hended.frame]
      exact hup
    obtain ⟨hmem, hpoison, hups, hregs⟩ := hended.takeRegion_keeps (tile := tile) tester failing
    exact ⟨_, exec_regionTestStart_of_ready hblk (testerReady_of hen hperiod hone hlate) hupsets, hmem, hpoison, hups, hregs,
      fun hgoing => takeRegion_finishTest_of_none hblk hgoing failing,
      fun hnone => hended.running_takeRegion_of_none tester failing hnone,
      fun b hnext => hended.tester_takeRegion tester failing hnext,
      fun b region rows hgoing => ⟨counter_takeRegion_finishTest hblk hup hgoing failing,
        takeRegion_finishTest_of_passed hblk hup hgoing failing,
        fun row spare hrows hregion hpins hspare =>
          takeRegion_finishTest_of_spare hblk hup hgoing failing hrows hregion hpins hspare⟩⟩
  case scrub =>
    refine ⟨fun hstale hmore errs => ?_, exec_scrubRead_of_no_error hrate htrained htxns haged,
      fun hcurrent hup hmem w j x hw hj hx1 hx hclean =>
        exec_scrubRead_symbolError hrate htrained htxns haged hcurrent hup hmem hw hj hx (by omega) hclean⟩
    exact ⟨_, exec_scrubRead_of_stale hrate htrained htxns haged hstale hmore errs, rfl, dram_setDram_same ..⟩

end Sys2Proof.Machine
end
